-- ==== Sys2Proof/Word.lean ====
section
/-! DEFINITION. The word types of the GZ9 and the number types by which its parts are named.
Every count of parts is a power of two (R14, R22, R80, R275, R296, R337, R341), so a number of the
right width always names a part that exists. -/

namespace Sys2Proof

/-- One byte. -/
abbrev Byte := BitVec 8
/-- A 64-bit word: a scalar register, a register-block word, a mailbox word. -/
abbrev W64 := BitVec 64
/-- A 32-bit word; also the bits of a binary32 value. -/
abbrev W32 := BitVec 32
/-- A command word of a core (R71). -/
abbrev CmdWord := BitVec 128
/-- Function number: 0 is the PF, 1 to 31 are the VFs (R296). -/
abbrev Func := BitVec 5
/-- Partition number (R275). -/
abbrev PartId := BitVec 5
/-- Logical core number (R14). -/
abbrev CoreId := BitVec 7
/-- Course number (R14). -/
abbrev CourseId := BitVec 5
/-- Stream handle (R22). -/
abbrev Handle := BitVec 16
/-- Model image slot (Table 2-1). -/
abbrev ModelSlot := BitVec 6
/-- Job number within a partition; 0 names no job (R277). -/
abbrev JobNo := BitVec 16
/-- Device number (R339). -/
abbrev DevNo := BitVec 14
/-- Window number (R341). -/
abbrev WinNo := BitVec 8
/-- Bridge port number (R337). -/
abbrev PortNo := BitVec 3
/-- MSI-X vector: 0 to 2,047 on the PF, 0 to 63 on a VF (R309). -/
abbrev VecNo := BitVec 11

/-- A sparse table: keys with their values, keys rising, no default value listed.
Memory is the table of bytes (`List Host.Cell`). -/
abbrev Tbl (α : Type) := List (Nat × α)

end Sys2Proof
end

