-- ==== Sys2Proof/Data.lean ====
section
/-! DEFINITION. The data that the commands' operands carry, and the names of the core commands' rows.
spec/opcode_table.json gives its rows no operand fields; the operands are the model's (log 1): who acts,
what the sender sends, and whatever the spec leaves to the environment (times, memory latency, addresses
the runtime picks, bytes that a read of host memory returns, the contents of an image). -/

namespace Sys2Proof

/-- A row (word) of a scratchpad bank that a single-bit error was corrected in (R121). -/
structure SramRow where
  bank : BitVec 6
  row : BitVec 8
  deriving DecidableEq, Repr

/-- The next unit of a memory command moves in a cycle that memory timing sets (R89, R107, R145, log 7): the core cycle, whether it is the
ADRAIN of the matrix queue or a command of the DMA queue, and its place in that queue. -/
structure Beat where
  cycle : Nat
  mx : Bool
  pos : Nat
  deriving DecidableEq, Repr

/-- What the environment decides while a core's clock runs: beats of its memory commands, and the corrected SRAM errors that its reads
meet, each with its cycle (log 7). -/
structure RunEnv where
  beats : List Beat
  corrected : List (Nat × SramRow)
  deriving DecidableEq, Repr

/-- What the environment decides about the issue of a core command: `gap`, the ACLK cycles that pass from the core's clock to the cycle of
the issue; `dt`, TCLK ticks since the last command that carried some; and what happens on the way (log 4, 5, 7). -/
structure IssueEnv where
  gap : Nat
  dt : Nat
  run : RunEnv
  deriving DecidableEq, Repr

/-- How far a core's clock runs before a command that stops its partition or frees what it waits for (log 5). -/
structure CoreRun where
  core : CoreId
  gap : Nat
  run : RunEnv
  deriving DecidableEq, Repr

/-- A core, and what the environment decides while its clock runs to a cycle that the core's own state sets. -/
structure CoreEnv where
  core : CoreId
  run : RunEnv
  deriving DecidableEq, Repr

/-- A GRANT: the entry, and how far the background zeroing of tier 1 has got (R270, log 116). -/
structure GrantReq where
  entry : BitVec 128
  zeroed : BitVec 48
  deriving DecidableEq, Repr

/-- The times in ns that the MAC stamps on a SYNC_REQ and on its answer, and the ticks since the last command that carried some (R353). -/
structure SyncStamps where
  t2 : W64
  t3 : W64
  dt : Nat
  deriving DecidableEq, Repr

/-- A window access: a write, or a read with the rows of single-bit errors that it meets (R119, R121). -/
structure WinMode where
  write : Bool
  corrected : List SramRow
  deriving DecidableEq, Repr

/-- Bytes that a device read of host memory returns; `none` is a read that fails (R311, log 9). -/
abbrev HostRead := Option (List Byte)

/-- The 128-byte header of a signed object (Table 17-2). -/
structure ObjHeader where
  version : BitVec 8
  type : BitVec 4
  keyId : BitVec 4
  owner : Bool
  raise : Bool
  svn : BitVec 6
  rsv : Bool            -- a reserved field is nonzero
  bodyLen : BitVec 40
  certLen : BitVec 16
  deriving DecidableEq, Repr

/-- What a certificate says: the key it certifies, the key that issued it, the digest that the issuer signed, and the signature (R357). -/
structure Cert where
  issuer : BitVec 776
  subject : BitVec 776
  digest : BitVec 384
  sig : BitVec 768
  deriving DecidableEq, Repr

/-- A signed object (R358): all of its bytes, which are header, body, certificate and signature, and, for an object without a
certificate, the key that it is held against (log 11). -/
structure SignedObj where
  bytes : List Byte
  key : BitVec 776
  deriving DecidableEq, Repr

/-- The format a pegged tensor may take: starting index and bounds (R205). -/
structure PegRange where
  k0 : Int
  kmin : Int
  kmax : Int
  deriving DecidableEq, Repr

/-- A pegged tensor of an image (R205, R210): its range in its first format, and at A8 from the promotion
step `a8From` on, where it is promoted. -/
structure PegTensor where
  base : PegRange
  a8 : PegRange
  a8From : Option Nat
  deriving DecidableEq, Repr

/-- A state layer of the canonical layout (R175, R251). -/
structure StateLayer where
  loff : Nat
  count : Nat
  s24 : Bool
  deriving DecidableEq, Repr

/-- The soundboard parameters an image declares (Table 3-1). -/
structure SbDecl where
  modelRate : BitVec 2
  window : BitVec 2
  winM1 : BitVec 6
  hopMs : BitVec 5
  fft : BitVec 2
  melM1 : BitVec 7
  fLo : BitVec 12
  fHi : BitVec 12
  norm : BitVec 4
  preemph : BitVec 16
  dither : BitVec 5
  floorExp : BitVec 8
  deriving DecidableEq, Repr

/-- One program variant of an image or program (R278, R281, R293, R425): course count, promotion step,
whether it is a two-pass or an anchor program, the working bound `b` and allotment `d` in 4 KiB units,
`t_capo` and `t_solo` in TCLK ticks, and the command streams of its cores (one per core, or one for all). -/
structure Variant where
  courses : Nat
  step : Nat
  twoPass : Bool
  anchor : Bool
  bound : Nat
  dalloc : Nat
  tCapo : Nat
  tSolo : List Nat
  cores : List (List CmdWord)
  deriving DecidableEq, Repr

/-- A region a program or placement declares (R278): bytes and permissions. -/
structure RegionDecl where
  size : Nat
  rd : Bool
  wr : Bool
  deriving DecidableEq, Repr

/-- The quantising entry of tensor 0 that R208 uses. -/
structure QuantEntry where
  mult : BitVec 24
  shift : BitVec 6
  zp : BitVec 8
  hi : Int
  deriving DecidableEq, Repr

/-- A fret table that the runtime builds from a codebook of a tensor that it quantises (R194): where it stands in the image, which of the
pair of codebooks, and the activations: the codebook of A4c, or the zero point of A4. -/
structure FretBuild where
  at_ : Nat
  second : Bool
  ac : Option (List Int)
  zp : BitVec 8
  deriving DecidableEq, Repr

/-- A weight tensor that an image marks for quantisation at load (R215): its values in BF16, its codebook (both for
W8), the quantising rescale entry, the width of a code in bits, where its codes stand in the placed image,
where the rescale entries that consume it stand (offsets in the image), and its fret tables. -/
structure QuantTensor where
  vals : List (BitVec 16)
  c1 : List Int
  c2 : List Int
  w8 : Bool
  mult : BitVec 24
  shift : BitVec 6
  bits : Nat
  codesAt : Nat
  consumers : List Nat
  frets : List FretBuild
  deriving DecidableEq, Repr

/-- The declarations of a Rutas image or program (R425). The format of an image is Rutas' own; the model
takes what it declares as data (log 10). `complete` says that every required declaration is present
and in its range. -/
structure ImageDecl where
  program : Bool
  complete : Bool
  weightBytes : Nat
  chunkMs : Nat
  fe : Nat
  bstride : Nat
  maxRecords : Nat
  synth : Bool
  genSize : Nat
  wcap : Nat
  blkSize : Nat
  layers : List StateLayer
  anchorK : Option Nat
  anchorLens : List Nat        -- L of each anchored layer (R189)
  sb : SbDecl
  pegs : List PegTensor
  peg0Stream : Bool
  peg0Entry : QuantEntry
  pegTag : Option (BitVec 16)
  tokenTag : Option (BitVec 16)
  stateTag : Option (BitVec 16)  -- summaries that carry the statistics of the state layers (R188)
  maxStep : Nat
  modelKey : W64
  spread : List (Nat × Nat)    -- spread tensors: id, and where its sign vector stands in the drone allotment (R213)
  drone : List Byte            -- the placement's drone allotment as loaded (R118)
  semInit : Tbl (BitVec 16)
  regions : List RegionDecl
  variants : List Variant
  quants : List QuantTensor
  deriving DecidableEq, Repr

/-- A model image or program as read from host memory. -/
structure Image where
  obj : SignedObj
  decl : ImageDecl
  deriving DecidableEq, Repr

/-- A Lemrix frame (Table 16-7) as received. -/
structure Frame where
  ver : BitVec 4
  type : BitVec 4
  dst : DevNo
  src : DevNo
  win : WinNo
  seq : BitVec 16
  ackV : Bool
  ack : BitVec 16
  len : BitVec 13
  addr : BitVec 48
  cred : BitVec 16
  tag : BitVec 16
  payload : List Byte
  deriving DecidableEq, Repr

/-- What boot finds at a source of an image (R361): nothing, or a signed object. -/
abbrev BootSource := Option SignedObj

/-- What boot meets on the board (Table 17-4, R264, R265). `sparingFlash`: the bytes that stand in place of the sparing record in the
boot flash, where they are not those the monitor wrote last (R123). -/
structure BootEnv where
  monA : BootSource
  monB : BootSource
  monHost : BootSource
  rtA : BootSource
  rtB : BootSource
  rtHost : BootSource
  sparingFlash : Option (List Byte)
  linksOk : Bool
  expanders : List (BitVec 4 × Nat)    -- lowest port lane and capacity in bytes of each
  t1Refused : Bool
  deriving DecidableEq, Repr

/-- A memory requester whose read met an uncorrectable error or poison (R396, R398). -/
inductive Requester where
  | core (c : CoreId)
  | sram (c : CoreId) (bank : BitVec 6) (row : BitVec 8)
  | migration
  | soundboard (h : Handle)
  | hostDma
  | partUnit (c : CoreId)
  | controlSram
  | fabric
  | serviceFence
  deriving DecidableEq, Repr

/-- Clock losses of device severity (R373). -/
inductive ClockLossCause where
  | rootPll | refclkSys | hbmPll
  deriving DecidableEq, Repr

/-- Rails with internal monitors (R418). -/
inductive Rail where
  | vddAux | vddCore | vddSram
  deriving DecidableEq, Repr

/-- Registers that a REGISTER_WRITE names (R8): those with no behaviour of their own, each written by the
agent that may write it; `readOnly` stands for any RO register or unlisted offset (R257, R297). A register may also be named by
where it lies: 64-bit word `word` of a function's BAR0 (R297, R363), the 64-bit word at 8 × `word` of the device addresses that
firmware reaches (R14, R257), or word `word` of a core control block in the debug area of the diagnostic window (Table 17-7). -/
inductive RegName where
  | mbIrqMod (f : Func)
  | mbStat (f : Func)
  | msixMask (f : Func) (v : VecNo)
  | spConflict (c : CoreId)
  | qzPeg (c : CoreId) (n : BitVec 3)
  | bwJobKey (c : CoreId)
  | bwJobStep (c : CoreId)
  | sbNonfinite
  | sbClip
  | brCfg
  | pwCap
  | pwCtl
  | smQnonce (i : BitVec 2)
  | tokenBuffer (i : BitVec 9)
  | hostLoad (off : Nat)
  | smFatal (i : BitVec 3)
  | smReq
  | hostAt (f : Func) (word : BitVec 21)
  | deviceAt (word : BitVec 45)
  | debugCcb (c : CoreId) (word : BitVec 17)
  | readOnly
  deriving DecidableEq, Repr

/-- What the runtime chose when it accepted `stream.open` (log 8): the handle, a profile slot for a new
profile, and the addresses of the image block, inbox ring and feature region; `none` where tier 0
has no space for them (TIER_FULL). -/
structure OpenChoice where
  handle : Handle
  profile : BitVec 8
  places : Option (Nat × Nat × Nat)
  deriving DecidableEq, Repr

/-- What the runtime chose for a placement: the job number and the tier 0 base addresses of its regions
(weights and tables first); `none` where tier 0 lacks space (TIER_FULL, log 8). `drone` is the
allotment base in 4 KiB units of every core, where one fits (DRONE_FULL otherwise). -/
structure PlaceChoice where
  job : JobNo
  regions : Option (List Nat)
  drone : Option (BitVec 8)
  deriving DecidableEq, Repr

/-- What the runtime chose for `model.load`: the slot, where the image is held, and the placement. -/
structure LoadChoice where
  slot : ModelSlot
  imageAt : Option Nat
  place : PlaceChoice
  deriving DecidableEq, Repr

/-- A new image block the runtime allocated for a stream (R428, R399). -/
structure NewBlock where
  handle : Handle
  base : Nat
  deriving DecidableEq, Repr

/-- What comes with a hard stop: how far the cores' clocks run, and places of images that the runtime brings back (log 5, 8). -/
structure StopEnv where
  runs : List CoreRun
  blocks : List NewBlock
  deriving DecidableEq, Repr

/-- One sample of the rail and course sensors and of the tier 0 counters (R386, R262, Table 13-5). -/
structure EnergySample where
  uj : Nat
  power : BitVec 16
  tmax : BitVec 12
  courses : List (CourseId × Nat × Nat)   -- busy cycles and µJ of the course
  qwait : List (PartId × Nat × Nat)       -- requests and FCLK cycles waited
  deriving DecidableEq, Repr

/-- The rows of the table that are command words of a core (R71, Table 4-2), by class and variant. -/
inductive CmdRow where
  | nop | li | alu | br | loop | ld | st | rdsys | dwait | capo | end_
  | post | wait | try_
  | send | ask
  | dmaLoad | dmaStore | dmaCopy | dmaZero
  | ringSet | ringPush | ringPop | ringHead | ringTail | ringOcc
  | cfgCtrl | cfgFret | cfgCodebook | cfgDecay | cfgRescale | cfgTbl | cfgCzLoad | cfgCzBuild | cfgBow
  | mmPlain | mmAccum | mmDecay | mmRotate
  | wload | drain | fill
  | vchain | vdLoad | vdSetvl | vdStats
  | stLoad | stSave | stWread | stWwrite
  | spreadFwd | spreadInv | scan | merge | pick
  deriving DecidableEq, Repr

end Sys2Proof
end

