-- ==== Sys2Proof/Syntax.lean ====
section
/-! DEFINITION. The commands of the block: one constructor of `Instr` for each row of
spec/opcode_table.json, with the operands of Sys2Proof/Data.lean (log 1). -/

namespace Sys2Proof

/-- The commands. `c`: the core that issues; `w`: its 128-bit command word (R71); `e`: R78 timing and
what the banks met; `dt`: TCLK ticks since the last command that carried some. -/
inductive Instr where
  -- CTRL, SYNC (04)
  | ctrlNop (c : CoreId) (w : CmdWord) (e : IssueEnv)
  | ctrlLi (c : CoreId) (w : CmdWord) (e : IssueEnv)
  | ctrlAlu (c : CoreId) (w : CmdWord) (e : IssueEnv)
  | ctrlBr (c : CoreId) (w : CmdWord) (e : IssueEnv)
  | ctrlLoop (c : CoreId) (w : CmdWord) (e : IssueEnv)
  | ctrlLd (c : CoreId) (w : CmdWord) (e : IssueEnv)
  | ctrlSt (c : CoreId) (w : CmdWord) (e : IssueEnv)
  | ctrlRdsys (c : CoreId) (w : CmdWord) (e : IssueEnv)
  | ctrlDwait (c : CoreId) (w : CmdWord) (e : IssueEnv)
  | ctrlCapo (c : CoreId) (w : CmdWord) (e : IssueEnv)
  | ctrlEnd (c : CoreId) (w : CmdWord) (e : IssueEnv)
  | syncPost (c : CoreId) (w : CmdWord) (e : IssueEnv)
  | syncWait (c : CoreId) (w : CmdWord) (e : IssueEnv)
  | syncTry (c : CoreId) (w : CmdWord) (e : IssueEnv)
  | semBlockCycle (p : PartId) (arrivals : List CoreId)
  | syncTimeout (c : CoreId) (dt : Nat)
  -- SUMMARY, decisions
  | summarySend (c : CoreId) (w : CmdWord) (e : IssueEnv)
  | summaryAsk (c : CoreId) (w : CmdWord) (e : IssueEnv)
  | summaryRingFreed (p : PartId) (bytes : Nat) (runs : List CoreRun)
  | decisionArrival (c : CoreRun) (tag : BitVec 16) (bytes : List Byte)
  | decisionTimeout (c : CoreId) (tag : BitVec 16) (dt : Nat)
  -- DMA
  | dmaLoad (c : CoreId) (w : CmdWord) (e : IssueEnv)
  | dmaStore (c : CoreId) (w : CmdWord) (e : IssueEnv)
  | dmaCopy (c : CoreId) (w : CmdWord) (e : IssueEnv)
  | dmaZero (c : CoreId) (w : CmdWord) (e : IssueEnv)
  | dmaComplete (c : CoreRun)
  -- RING
  | ringSet (c : CoreId) (w : CmdWord) (e : IssueEnv)
  | ringPush (c : CoreId) (w : CmdWord) (e : IssueEnv)
  | ringPop (c : CoreId) (w : CmdWord) (e : IssueEnv)
  | ringHead (c : CoreId) (w : CmdWord) (e : IssueEnv)
  | ringTail (c : CoreId) (w : CmdWord) (e : IssueEnv)
  | ringOcc (c : CoreId) (w : CmdWord) (e : IssueEnv)
  -- CONFIG
  | configCoreControl (c : CoreId) (w : CmdWord) (e : IssueEnv)
  | configFretTables (c : CoreId) (w : CmdWord) (e : IssueEnv)
  | configCodebooks (c : CoreId) (w : CmdWord) (e : IssueEnv)
  | configDecayTable (c : CoreId) (w : CmdWord) (e : IssueEnv)
  | configRescaleTables (c : CoreId) (w : CmdWord) (e : IssueEnv)
  | configTblSegments (c : CoreId) (w : CmdWord) (e : IssueEnv)
  | configCodingLoad (c : CoreId) (w : CmdWord) (e : IssueEnv)
  | configCodingBuild (c : CoreId) (w : CmdWord) (e : IssueEnv)
  | configBowSites (c : CoreId) (w : CmdWord) (e : IssueEnv)
  -- matrix engine
  | matmulPlain (c : CoreId) (w : CmdWord) (e : IssueEnv)
  | matmulAccum (c : CoreId) (w : CmdWord) (e : IssueEnv)
  | matmulDecay (c : CoreId) (w : CmdWord) (e : IssueEnv)
  | matmulRotate (c : CoreId) (w : CmdWord) (e : IssueEnv)
  | shadowDrainEnd (c : CoreEnv)
  | wload (c : CoreId) (w : CmdWord) (e : IssueEnv)
  | wloadComplete (c : CoreEnv)
  | adrainDrain (c : CoreId) (w : CmdWord) (e : IssueEnv)
  | adrainFill (c : CoreId) (w : CmdWord) (e : IssueEnv)
  | adrainComplete (c : CoreRun)
  -- vector engine
  | vchain (c : CoreId) (w : CmdWord) (e : IssueEnv)
  | vdescLoad (c : CoreId) (w : CmdWord) (e : IssueEnv)
  | vdescSetvl (c : CoreId) (w : CmdWord) (e : IssueEnv)
  | vdescStats (c : CoreId) (w : CmdWord) (e : IssueEnv)
  -- carried state
  | stateioLoad (c : CoreId) (w : CmdWord) (e : IssueEnv)
  | stateioSave (c : CoreId) (w : CmdWord) (e : IssueEnv)
  | stateioWread (c : CoreId) (w : CmdWord) (e : IssueEnv)
  | stateioWwrite (c : CoreId) (w : CmdWord) (e : IssueEnv)
  -- quantisation
  | spreadFwd (c : CoreId) (w : CmdWord) (e : IssueEnv)
  | spreadInv (c : CoreId) (w : CmdWord) (e : IssueEnv)
  | qscanScan (c : CoreId) (w : CmdWord) (e : IssueEnv)
  | qscanMerge (c : CoreId) (w : CmdWord) (e : IssueEnv)
  | qscanPick (c : CoreId) (w : CmdWord) (e : IssueEnv)
  -- core registers written by firmware
  | spTaskWrite (c : CoreId) (v : W64)
  | stImageWrite (c : CoreId) (v : W64)
  | droneMark (c : CoreId) (groups : BitVec 2)
  | firmwareWindowAccess (c : CoreId) (addr : BitVec 20) (bytes : List Byte) (mode : WinMode)
  | registerWrite (r : RegName) (v : W64)
  -- mailbox, BAR2
  | mailboxSlotWrite (f : Func) (slot : BitVec 6) (off : BitVec 6) (bytes : List Byte)
  | mailboxSlotTake (f : Func)
  | outboundSlotReturn (f : Func) (slot : BitVec 6) (off : BitVec 6) (bytes : List Byte)
  | msixHoldoffExpiry (f : Func) (v : VecNo) (dt : Nat)
  | msixUnmask (f : Func) (v : VecNo)
  | bar2Read (off : BitVec 36) (len : Nat)
  | bar2Write (off : BitVec 36) (bytes : List Byte)
  -- firmware commands (15): each carries out the oldest command taken from function f
  | modelLoad (f : Func) (img : Option Image) (ch : LoadChoice) (dt : Nat)
  | modelLoadComplete (f : Func) (tag : BitVec 16) (ch : PlaceChoice) (dt : Nat)
  | modelUnload (f : Func) (dt : Nat)
  | streamOpen (f : Func) (ch : OpenChoice) (dt : Nat)
  | streamPush (f : Func) (list : HostRead) (audio : List HostRead) (dt : Nat)
  | pushGatherDone (f : Func) (dt : Nat)
  | streamPause (f : Func) (dt : Nat)
  | streamResume (f : Func) (blocks : List NewBlock) (dt : Nat)
  | streamClose (f : Func) (dt : Nat)
  | streamReset (f : Func) (dt : Nat)
  | statusGet (f : Func) (dt : Nat)
  | accountGet (f : Func) (dt : Nat)
  | partitionCreate (f : Func) (p : PartId) (dt : Nat)
  | partitionDestroy (f : Func) (dt : Nat)
  | modelPlace (f : Func) (ch : PlaceChoice) (dt : Nat)
  | jobRemove (f : Func) (dt : Nat)
  | jobMove (f : Func) (ch : PlaceChoice) (dt : Nat)
  | schedSlice (f : Func) (dt : Nat)
  | quantPolicy (f : Func) (dt : Nat)
  | programSubmit (f : Func) (img : Option Image) (ch : PlaceChoice) (dt : Nat)
  | windowOpen (f : Func) (dt : Nat)
  | windowClose (f : Func) (dt : Nat)
  | streamMigrate (f : Func) (remoteHolds : Bool) (dt : Nat)
  | traceStart (f : Func) (dt : Nat)
  | traceStop (f : Func) (dt : Nat)
  | powerCap (f : Func) (dt : Nat)
  | bar2Map (f : Func) (dt : Nat)
  | functionConfig (f : Func) (dt : Nat)
  -- soundboard and bundles
  | sampleTake (h : Handle) (count : Nat)
  | frameCompute (h : Handle) (dt : Nat)
  | silentCommit (h : Handle) (dt : Nat)
  | pauseTimerTier1 (h : Handle) (dst : Nat) (dt : Nat)
  | pauseTimerTier2 (h : Handle) (dst : Nat) (dt : Nat)
  | bundleForm (m : ModelSlot) (p : PartId) (dt : Nat)
  | bundleBind (b : Nat) (p : PartId) (rec : Nat) (blocks : List NewBlock) (dt : Nat)
  | commitUpdate (p : PartId) (blocks : List NewBlock) (dt : Nat)
  | sliceStart (p : PartId) (dt : Nat)
  | sliceExpiry (p : PartId) (dt : Nat)
  | hardStop (p : PartId) (env : StopEnv) (dt : Nat)
  | reclaim (p : PartId) (job : JobNo) (dt : Nat)
  | bundleErrorSettle (p : PartId) (blocks : List NewBlock) (dt : Nat)
  | reconciliationClose (dt : Nat)
  | interferenceReport (dt : Nat)
  -- memory
  | migrationDescriptor (d : Option (BitVec 256))
  | migrationComplete (dt : Nat)
  | grant (g : GrantReq)
  | revoke (e : BitVec 128)
  | verify (base : Nat) (key : BitVec 776)
  | release (base : Nat)
  | tier1ZeroDone
  | scrubPass (addr : BitVec 48) (corrected : Bool) (uncorrectable : Bool) (dt : Nat)
  | uncorrectableRead (r : Requester) (addr : BitVec 48) (sym : BitVec 16) (dt : Nat)
  | expanderDown (x : BitVec 2) (dt : Nat)
  -- bridge
  | bridgeLinkUp (n : PortNo) (dt : Nat)
  | bridgeLinkDown (n : PortNo) (dt : Nat)
  | helloTimer (dt : Nat)
  | helloReceive (n : PortNo) (remotePort : PortNo) (fr : Frame) (dt : Nat)
  | routeExpiry (d : DevNo) (dt : Nat)
  | pairReceive (n : PortNo) (fr : Frame) (dt : Nat)
  | writeFrame (n : PortNo) (fr : Frame) (dt : Nat)
  | readReqFrame (n : PortNo) (fr : Frame) (dt : Nat)
  | readRespFrame (n : PortNo) (fr : Frame) (dt : Nat)
  | atomicFrame (n : PortNo) (fr : Frame) (dt : Nat)
  | migDataFrame (n : PortNo) (fr : Frame) (dt : Nat)
  | migCtrlFrame (n : PortNo) (fr : Frame) (ch : OpenChoice) (dt : Nat)
  | ackFrame (n : PortNo) (fr : Frame) (dt : Nat)
  | nakFrame (n : PortNo) (fr : Frame) (dt : Nat)
  | rejectFrame (n : PortNo) (fr : Frame) (dt : Nat)
  | retryTimeout (pair : BitVec 10) (dt : Nat)
  | frameDiscard (n : PortNo) (etherType : BitVec 16) (fcsOk : Bool) (fr : Frame)
  | syncTimer (dt : Nat)
  | syncReqReceive (n : PortNo) (fr : Frame) (stamps : SyncStamps)
  | syncRespReceive (n : PortNo) (fr : Frame) (t1 t4 : W64) (dt : Nat)
  -- security
  | smReqNonce (dt : Nat)
  | smReqQuote (dt : Nat)
  | smReqToken (key : BitVec 776) (b : BootEnv) (sanitized : Bool) (dt : Nat)
  | smReqHostimg (key : BitVec 776) (b : BootEnv) (dt : Nat)
  | smFatalClear
  | entropyFail (dt : Nat)
  -- resets
  | powerOnReset (b : BootEnv)
  | pwrgoodFall
  | perstNAssert
  | perstNDeassert (b : BootEnv)
  | pwWresetWrite (v : W32) (b : BootEnv) (dt : Nat)
  | hotReset (dt : Nat)
  | flr (f : Func) (dt : Nat)
  | partitionReset (p : PartId) (dt : Nat)
  -- power
  | c1Entry (k : CourseId)
  | c2Entry (k : CourseId)
  | c2Exit (k : CourseId)
  | deviceIdleEntry
  | deviceIdleExit
  | standbyEntry (dt : Nat)
  | standbyExit (dt : Nat)
  | powerLoopTick (power : BitVec 16) (dt : Nat)
  | thermalLoopTick (tmax : BitVec 12) (dt : Nat)
  | thermtrip (dt : Nat)
  | energySample (smp : EnergySample) (dt : Nat)
  | clockLoss (k : ClockLossCause) (dt : Nat)
  | undervoltage (r : Rail)
  | heartbeat (dt : Nat)
  | watchdogExpiry (b : BootEnv) (dt : Nat)
  | smbusTransaction (addr : BitVec 7) (pecOk : Bool) (sensor : Nat)
  | alertResponseRead
  | matmulComplete (c : CoreEnv)
  | vchainComplete (c : CoreEnv)
  | synthesisOutput (h : Handle) (count : Nat)
  | hbmStackFailure (st : BitVec 2) (dt : Nat)
  | railReturn (r : Rail) (b : BootEnv)
  | lpddr6PllLoss (dt : Nat)
  | vfEnableWrite (enable : Bool) (n : BitVec 6)
  deriving DecidableEq, Repr

end Sys2Proof
end

