-- ==== Sys2Proof/Decode.lean ====
section
/-! DEFINITION. Which row of the table a core's command word belongs to (R71, R72, Table 4-2 and the
variant tables of the classes), and the table decoder the host asks for. No row of the table gives
bits, so no word spells a command (log 1). -/

namespace Sys2Proof

/-- Bits `[hi:lo]` of a command word (R5). -/
def wfld (w : CmdWord) (hi lo : Nat) : Nat := (w.toNat >>> lo) % 2 ^ (hi - lo + 1)

/-- Bit `i` of a command word. -/
def wbit (w : CmdWord) (i : Nat) : Bool := w.toNat.testBit i

def opcodeOf (w : CmdWord) : Nat := wfld w 7 0
def variantOf (w : CmdWord) : Nat := wfld w 11 8

/-- The row of a class and variant; `none` for an opcode that is not listed or a reserved variant (R72).
`build` is bit 3 of CONFIG's slot field, which tells a coding build from a load (R248). -/
def rowOf (op var : Nat) (build : Bool) : Option CmdRow :=
  match op with
  | 0x01 => match var with
    | 0 => some .nop | 1 => some .li | 2 => some .alu | 3 => some .br | 4 => some .loop | 5 => some .ld
    | 6 => some .st | 7 => some .rdsys | 8 => some .dwait | 9 => some .capo | 10 => some .end_ | _ => none
  | 0x02 => match var with
    | 0 => some .post | 1 => some .wait | 2 => some .try_ | _ => none
  | 0x03 => match var with
    | 0 => some .send | 1 => some .ask | _ => none
  | 0x04 => match var with
    | 0 => some .dmaLoad | 1 => some .dmaStore | 2 => some .dmaCopy | 3 => some .dmaZero | _ => none
  | 0x05 => match var with
    | 0 => some .ringSet | 1 => some .ringPush | 2 => some .ringPop | 3 => some .ringHead | 4 => some .ringTail
    | 5 => some .ringOcc | _ => none
  | 0x06 => match var with
    | 0 => some .cfgCtrl | 1 => some .cfgFret | 2 => some .cfgCodebook | 3 => some .cfgDecay
    | 4 => some .cfgRescale | 5 => some .cfgTbl | 6 => some (if build then .cfgCzBuild else .cfgCzLoad)
    | 7 => some .cfgBow | _ => none
  | 0x10 => match var with
    | 0 => some .mmPlain | 1 => some .mmAccum | 2 => some .mmDecay | 3 => some .mmRotate | _ => none
  | 0x11 => match var with
    | 0 => some .wload | _ => none
  | 0x12 => match var with
    | 0 => some .drain | 1 => some .fill | _ => none
  | 0x20 => match var with
    | 0 => some .vchain | _ => none
  | 0x21 => match var with
    | 0 => some .vdLoad | 1 => some .vdSetvl | 2 => some .vdStats | _ => none
  | 0x30 => match var with
    | 0 => some .stLoad | 1 => some .stSave | 2 => some .stWread | 3 => some .stWwrite | _ => none
  | 0x31 => match var with
    | 0 => some .spreadFwd | 1 => some .spreadInv | _ => none
  | 0x32 => match var with
    | 0 => some .scan | 1 => some .merge | 2 => some .pick | _ => none
  | _ => none

/-- The row that the word `w` belongs to, or none for a word of no row. -/
def rowOfWord (w : CmdWord) : Option CmdRow := rowOf (opcodeOf w) (variantOf w) (wbit w 55)

/-- The command that a word spells by the table's bits: the table gives no row any bits (log 1). -/
def decodeTableWord (_nbits _w : Nat) : Option Instr := none

end Sys2Proof
end

