-- ==== Sys2Proof/Config.lean ====
section
/-! DEFINITION. What the spec leaves open, as constants without a body (nothing can prove a value of
them), and the standards it names but does not restate. Each is named in a log entry. -/

namespace Sys2Proof.Config

/-- What a certificate's bytes say: the spec gives no layout of a certificate, only what it certifies (R357, R358, log 11). -/
opaque certOf : List Byte → Option Cert
/-- The one-time number of a signature that the device makes (R123, R362, R364); the spec does not say how it is drawn (log 11). -/
opaque signNonce : (secret : BitVec 384) → (digest : BitVec 384) → Nat
/-- The identity secret as it is stored, wrapped under the fuse secret of the die (R362): at most 128 bytes, zero-filled. The spec
gives neither the wrapping nor the fuse secret (log 11). -/
opaque wrappedSecret : (identity : BitVec 384) → BitVec 1024
/-- The identity certificate that the vendor issues for an identity key, with its length (Table 17-5); the spec does not say
how it reaches the device (log 61). -/
opaque identityCert : (pub : BitVec 776) → BitVec 8208
/-- The entropy source: its `n`-th draw (R267, R362, R368, log 17). -/
opaque entropy : Nat → BitVec 512

/-- What the output path takes for a NaN or an infinity of the staging area; R66 states no result for it (log 109). -/
opaque stagedNonfinite : W32 → W32

/-- A word of a model's telemetry page, by update word, slot and offset; the spec gives no layout of the page (R207, R188, log 122). -/
opaque modelPage : (update : W64) → (slot offset : Nat) → W64

/-- The version the runtime reports in `status.get` page 0 (Table 15-6); the spec gives no value. -/
opaque runtimeVersion : W32
/-- The reading of one HBM4 stack's own temperature sensor at the `n`-th sample (R420, Table 20-7). -/
opaque stackTemp : (n stack : Nat) → BitVec 16

/-- What a tbl stage takes for a table constant that is NaN or infinite, by its bits; the spec states no
result for it (log 24). -/
opaque tblConst : W32 → W32
/-- The slope and intercept of a segment index outside 0 to 63, which EXP can form; the spec states no
result for it (log 24). -/
opaque tblSegment : Int → W32 × W32

/-- The index `k_w` of a tensor whose greatest magnitude exceeds its codebook at every index of R215; the spec
states none (log 42). -/
opaque quantIndex : W32 → Int
/-- The status of a `partition.create` refused while the entropy source fails its health tests: Table 17-11
names the refusal and no code (log 43). -/
opaque entropyStatus : BitVec 16

/-- Bytes that the spec leaves open, by draw: those of `s[d]` beyond a decision shorter than 8 bytes (R85,
log 37). -/
opaque freeByte : Nat → Byte

end Sys2Proof.Config
end

