-- ==== Sys2Proof/Machine/State.lean ====
section
/-! DEFINITION. The state of the GZ9: everything the spec gives the block, as plain data, and the state
right after reset. Widths follow the register tables; sparse tables list only what differs from reset. -/

namespace Sys2Proof.Machine
open Sys2Proof

/-- The model stops no run with a fault: every error the spec names is recorded in the state by the
spec's own error handling (R393), so this type has no constructor. Safe. -/
inductive Fault where
  deriving DecidableEq, Repr

/-- Why a step has no meaning.
`notModelled`: raised by an arm of exec that has no meaning yet; safe.
`wordOfAnotherRow`: raised by a core command whose word is a well-formed command of another row of the
table than the one named, which is no term of the table (WellFormed refuses it); safe. -/
inductive Refusal where
  | notModelled (mnemonic : String)
  | wordOfAnotherRow (opcode : BitVec 8) (variant : BitVec 4)
  deriving DecidableEq, Repr

/-! ### One core (04 to 11) -/

/-- Commands that go through one of the four queues of a core (Table 4-2), the sequencer's own commands that use a scratchpad port, and the
copy of DWAIT (R85, R91, R104, R223). -/
inductive QKind where
  | summarySend | summaryAsk
  | dmaLoad | dmaStore | dmaCopy | dmaZero
  | cfgFret | cfgCodebook | cfgDecay | cfgRescale | cfgTbl | cfgCzLoad | cfgCzBuild
  | matmulPlain | matmulAccum | matmulDecay | matmulRotate
  | wload | adrainDrain | adrainFill
  | vchain | vdescLoad | vdescSetvl | vdescStats
  | stLoad | stSave | stWread | stWwrite
  | spreadFwd | spreadInv | scan | merge | pick
  | ld | st | cfgCtrl | cfgBow | decisionCopy
  deriving DecidableEq, Repr

/-- An entry of a rescale table (Table 9-2). -/
structure RescaleEntry where
  mult : BitVec 24
  shift : BitVec 6
  zp : BitVec 8
  deriving DecidableEq, Repr

/-- A rescale table (R195): midpoints, peg taps, entries in channel order. -/
structure RescaleTable where
  mids : List W32
  tapD : BitVec 6
  enD : Bool
  tapQ : BitVec 6
  enQ : Bool
  entries : List RescaleEntry
  deriving DecidableEq, Repr

/-- A tbl segment table (Table 7-7): header and the 64 pairs (slope, intercept). -/
structure TblTable where
  mode : BitVec 2
  p : Bool
  qneg : Bool
  odd : Bool
  x0 : W32
  invW : W32
  c : W32
  segs : List (W32 × W32)
  deriving DecidableEq, Repr

/-- A generation slot of the coder (Table 11-4) with the lengths of its table. -/
structure CzSlot where
  valid : Bool
  fmt : BitVec 3
  fp : BitVec 8
  maxlen : BitVec 4
  lens : List Nat
  count : W32
  deriving DecidableEq, Repr

/-- A change of a unit's tables and counters. -/
inductive Install where
  | fret (first : Nat) (vals : List (BitVec 24))
  | codebook (first : Nat) (vals : List (BitVec 12))
  | decay (first : Nat) (vals : List (BitVec 24))
  | rescale (slot : Nat) (t : List RescaleTable)
  | tbl (slot : Nat) (t : List TblTable)
  | czTable (slot : Nat) (t : CzSlot)
  | desc (slot : Nat) (words : List W64)
  | statsClear (slot : Nat)
  | statsAdd (slot : Nat) (nonfinite sat conv sqerr : Nat)
  | qzAdd (nonfinite sat : Nat)
  | czAdd (coded fallback suppressed : Nat)
  | mxSat (n : Nat)
  | peg (p : Nat) (v : BitVec 8)
  | tile (fmt : BitVec 2) (krowsM1 : BitVec 8) (codes : List Byte)
  deriving DecidableEq, Repr

/-- A queue entry (R70): issue number, PC, the word, the s registers and the bow site entries as captured at issue (R73, R224). Once
started: its start cycle, VL then, the cycles in which its rows are first presented and their results written, from which cycle on the next
command of the queue may start as far as this one goes, its last write, and its completion where the timing is its own (R146, R168); for a
memory command the next unit it moves (R89), the generation slot and unfinished blocks it counts (R247), and the bytes of remote reads it
waits for and has; what it has read and computed and not yet used; and the memory lines and scratchpad words that are not delivered (R396). -/
structure QEntry where
  n : Nat
  kind : QKind
  pc : BitVec 13
  w : CmdWord
  regs : Tbl W64
  sites : Tbl (BitVec 12 × BitVec 24)
  started : Bool
  startAt : Nat
  vl : Nat
  sched : List Nat
  outs : List Nat
  free : Nat
  last : Nat
  endAt : Option Nat
  uRow : Nat
  uIdx : Nat
  supp : List Nat               -- rows whose coding is suppressed (R246)
  offs : List Nat               -- offsets of the blocks of the row that has been coded so far (R241)
  gslot : Option (Nat × Nat)
  remoteReads : Nat
  got : Tbl Byte
  cap : List (Nat × List Byte)  -- bytes, by the access that read them
  vals : List (Nat × List W32)  -- results of rows, or drained elements
  sums : List (Nat × List Int)  -- column sums of the rows in the array
  lost : List Nat
  zeros : List Nat
  deriving DecidableEq, Repr

/-- An outstanding ASK (R85): its tag, the device time of its issue, where its decision goes, and the
decision once the runtime has written it into the decision buffer. -/
structure AskRec where
  tag : BitVec 16
  issued : W64
  dst : BitVec 20
  dlen : Nat
  decision : Option (List Byte)
  deriving DecidableEq, Repr

/-- What a core's sequencer is doing. `stopped`: it met a task error (R99) or was stopped. -/
inductive SeqPhase where
  | idle
  | running
  | waitSem (i : BitVec 6) (n : BitVec 16) (issued : W64)
  | trySem (i : BitVec 6) (n : BitVec 16) (d : BitVec 5)
  | dwait (d : BitVec 5) (tag : BitVec 16)
  | atCapo (capoId : BitVec 16) (commit : Bool) (liveKib : BitVec 11)
  | ended
  | stopped (cause : BitVec 8) (pc : BitVec 13)
  deriving DecidableEq, Repr

/-- A ring record (Table 5-7). -/
structure RingRec where
  base : BitVec 14
  size : BitVec 14
  head : BitVec 18
  tail : BitVec 18
  deriving DecidableEq, Repr

/-- MX_SLOT (Table 6-4) with the codes of both slots. -/
structure MxSlot where
  actState : BitVec 2
  actFmt : BitVec 2
  actKrowsM1 : BitVec 8
  shState : BitVec 2
  shFmt : BitVec 2
  shKrowsM1 : BitVec 8
  actCodes : List Byte
  shCodes : List Byte
  deriving DecidableEq, Repr

/-- A vector descriptor slot with its statistics block (R151, R166). -/
structure DescSlot where
  valid : Bool
  words : List W64
  nonfinite : W32
  sat : W32
  conv : W32
  sqerr : W64
  deriving DecidableEq, Repr

/-- SP_TASK (Table 5-6). -/
structure SpTask where
  baseGrp : BitVec 3
  bound : BitVec 9
  dbase : BitVec 8
  dsize : BitVec 6
  cfgRej : Bool
  deriving DecidableEq, Repr

/-- ST_IMAGE (Table 8-5). -/
structure StImage where
  genSize : BitVec 20
  fe : BitVec 7
  wcap : BitVec 12
  blkSize : BitVec 24
  cfgRej : Bool
  deriving DecidableEq, Repr

/-- SP_CONFLICT (Table 5-4). -/
structure SpConflict where
  valid : Bool
  winner : BitVec 3
  loser : BitVec 3
  bank : BitVec 6
  pc : BitVec 13
  time : W32
  deriving DecidableEq, Repr

/-- The sequencer and its queues (R69, R70). `cycle` is the core's clock: the first ACLK cycle since the task start that has not run yet;
`next` is the first cycle in which a command may issue (Table 4-6). `ldPend` are LD writes with the cycle from which s[d] is read, and
`landing` writes presented to the banks with the cycle from which a read returns them (R104). `drainAt` is the cycle in which a DRAINING
shadow turns EMPTY (R131), `arrayAt` the one from which no row is left in the array (R133). `due` is an error on its way to the core
(R81). `seqQ` holds the sequencer's own accesses. -/
structure Seq where
  pc : BitVec 13
  sregs : Tbl W64
  cmdMem : List CmdWord
  phase : SeqPhase
  cycle : Nat
  next : Nat
  ldPend : List (Nat × BitVec 5 × W64)
  landing : List (Nat × List (Nat × Byte))
  drainAt : Nat
  arrayAt : Nat
  due : Option (Nat × BitVec 8 × BitVec 13)
  issued : Nat
  syncTimeout : W32
  decisionTimeout : W32
  asks : List AskRec
  dmaQ : List QEntry
  wlQ : List QEntry
  mxQ : List QEntry
  vxQ : List QEntry
  seqQ : List QEntry
  deriving DecidableEq, Repr

/-- The engines' memories and tables of a core. -/
structure Engines where
  sp : Tbl Byte                 -- scratchpad by core address (R101)
  rings : Tbl RingRec
  acc : Tbl (BitVec 40)         -- row × 256 + column (R135)
  mx : MxSlot
  mxSat : W32
  fret : Tbl (BitVec 24)        -- table × 256 + a × 16 + j
  codebooks : Tbl (BitVec 12)   -- codebook × 16 + j
  decay : Tbl (BitVec 24)       -- vector × 256 + n
  vl : BitVec 9
  descs : Tbl DescSlot
  tbls : Tbl TblTable
  rescale : Tbl RescaleTable
  peg : Tbl (BitVec 8)          -- QZ_PEG (Table 9-3)
  qzNonfinite : W32
  qzSat : W32
  sites : Tbl (BitVec 12 × BitVec 24)   -- BW_SITE (Table 10-5)
  czSlots : Tbl CzSlot
  hist : Tbl Nat                -- pending histogram (R248)
  czCoded : W32
  czFallback : W32
  czSuppressed : W32
  deriving DecidableEq, Repr

/-- A firmware window access that waits for the task to end (R119). -/
structure WinAccess where
  addr : BitVec 20
  bytes : List Byte
  write : Bool
  corrected : List SramRow      -- single-bit errors that a read meets (R121)
  deriving DecidableEq, Repr

/-- One core. -/
structure CoreSt where
  seq : Seq
  eng : Engines
  spTask : SpTask
  drone : BitVec 2              -- SP_DRONE.groups (Table 5-9)
  conflict : SpConflict
  conflictCount : W32
  stImage : StImage
  bwKey : W64                   -- BW_JOB (Table 10-7)
  bwStep : BitVec 28
  winWait : List WinAccess
  deriving DecidableEq, Repr

/-! ### Courses, partitions, jobs, tasks (13, 04) -/

/-- Power states of a course (Table 18-5). -/
inductive CState where
  | c0 | c1 | c2
  deriving DecidableEq, Repr

/-- A course: power state, PT_COURSEc (Table 13-5), and the job whose state its cores last held (R95). -/
structure Course where
  cst : CState
  busy : W64
  energy : W64
  lastJob : Option (PartId × JobNo)
  deriving DecidableEq, Repr

/-- A core's part of a context image (Table 4-14). -/
structure CoreCtx where
  pc : BitVec 13
  sregs : Tbl W64
  rings : Tbl RingRec
  syncTimeout : W32
  decisionTimeout : W32
  liveBytes : Nat
  live : List (Nat × Byte)
  deriving DecidableEq, Repr

/-- A context image (R97). -/
structure Ctx where
  model : ModelSlot
  log2Courses : BitVec 3
  capoId : BitVec 16
  liveKib : BitVec 11
  bundleNo : W32
  sems : Tbl (BitVec 16)
  cores : List CoreCtx
  place : Option (Nat × Nat)    -- where the image stands in tier 0, and its size
  deriving DecidableEq, Repr

/-- A job is a placement of a model or a program (R277). -/
inductive JobKind where
  | placement (slot : ModelSlot)
  | program (decl : ImageDecl)
  deriving DecidableEq, Repr

/-- A member of a bundle as its bundle record gives it (Table 4-7), with the chunk's deadline. -/
structure Member where
  handle : Handle
  seq : W32
  gen : Bool
  reset : Bool
  statePtr : BitVec 36
  bowStep : BitVec 28
  bowKey : W64
  frBase : BitVec 32
  firstFrame : BitVec 24
  frSize : BitVec 4
  peg : BitVec 24
  deadline : W64
  deriving DecidableEq, Repr

/-- A bundle (R37): number, model, members in bundle position order, anchored (R189). -/
structure Bundle where
  no : W32
  model : ModelSlot
  members : List Member
  anchored : Bool
  recAddr : Nat
  deriving DecidableEq, Repr

/-- A task error as raised (R99, R404). -/
structure TaskErr where
  cause : BitVec 8
  core : CoreId
  pc : BitVec 13
  addr : Option (BitVec 48)
  sym : BitVec 16
  deriving DecidableEq, Repr

/-- A summary delivered to the control cores (Table 4-10) with its payload. -/
structure SummaryRec where
  core : CoreId
  ask : Bool
  tag : BitVec 16
  capoId : BitVec 16
  payload : List Byte
  time : W64
  deriving DecidableEq, Repr

/-- The task bound to a partition (R79, R93, R281). -/
structure Task where
  job : JobNo
  bundle : Option Bundle
  start : W64
  lastMeet : W64
  lastCapo : BitVec 16
  liveKib : BitVec 11
  committed : Bool
  settled : Bool                -- the commit has been applied to the stream table (R183)
  errors : List TaskErr
  stall : Nat                   -- summary_stall (R84)
  sums : List SummaryRec
  clients : List Func           -- its members' clients as it was bound; of a task without a bundle, its job's client (R290)
  charging : Bool               -- from binding or resumption to the stop, meet or end (R289)
  chargeFrom : List (Nat × W64) -- busy of its courses from where it is still to be charged (R289)
  partFrom : List (Nat × W64)   -- the same, since the interval edge (R291)
  bytesFrom : W64 × W64 × W64 × W64
  obs : Nat                     -- course-cycles charged so far
  variant : Variant             -- the program variant it runs (R278)
  pegRegs : List (BitVec 8)     -- peg registers as written at its start (R198)
  deriving DecidableEq, Repr

/-- Telemetry of a job: sums over its tasks and cores of QZ_STAT, CZ_STAT and MX_SAT (Table 9-4, Table 11-5). -/
structure JobTele where
  qzNonfinite : Nat
  qzSat : Nat
  czCoded : Nat
  czFallback : Nat
  czSuppressed : Nat
  mxSat : Nat
  deriving DecidableEq, Repr

/-- A job (R277) with its slice values (R280), hard-stop and error counts (R284, R285), drone allotment
(R118), bow job key, step and epoch (R226), tier regions, and the sums of R293. -/
structure Job where
  num : JobNo
  kind : JobKind
  ctx : Option Ctx
  stopped : Option Task         -- its task, while stopped at a meet with another job's task bound
  sliceUs : Nat
  hsLimit : Nat
  hsNext : Nat                  -- hs_limit from the job's next slice on (R294, R328)
  overshoot : Nat
  hsRuns : Nat
  errRuns : Nat
  dbase : BitVec 8
  dsize : Nat
  key : W64
  step : BitVec 28
  epoch : BitVec 12
  regions : List (Nat × Nat)
  ended : Bool
  crashed : Option (BitVec 8)   -- reason of Table 15-12 while its reclaim is due
  obsCycles : Nat
  soloTicks : Nat
  tasks : Nat
  tele : JobTele
  deriving DecidableEq, Repr

/-- A message on its way to the semaphore block, with the core cycle of its issue (R81). -/
structure SemMsg where
  core : CoreId
  cycle : Nat
  pc : BitVec 13
  i : BitVec 6
  n : BitVec 16
  post : Bool
  deriving DecidableEq, Repr

/-- A trace ring (R333). -/
structure Trace where
  f : Func
  addr : W64
  size : W32
  events : BitVec 3
  head : Nat
  phase : Bool
  deriving DecidableEq, Repr

/-- A partition: PT_PARTp (Table 13-1), its settings, jobs, slice, task, semaphores and counters. -/
structure Part where
  courses : W32
  valid : Bool
  drone : BitVec 2
  owner : Func
  job : JobNo
  atMeet : Bool
  stopping : Bool
  resetDue : Bool               -- a partition reset is pending (R379, R401)
  dflt : Bool
  destroying : Bool
  grace : Nat                   -- in units of 100 µs
  sliceUs : Nat
  hsLimit : Nat
  jobs : List Job
  lastRan : JobNo
  sliceJob : JobNo
  sliceStart : W64
  sliceLen : Nat                -- TCLK ticks
  endReq : Option W64
  reqGrace : Nat                -- the grace limit in force when the slice end was requested (R294)
  task : Option Task
  sems : Tbl (BitVec 16)
  semNet : List SemMsg
  semWait : List SemMsg
  sumRing : List Byte           -- what the 128 KiB summary ring holds, oldest first: headers and payloads (R84)
  sumDue : Nat                  -- bytes of it that are reserved for summaries that have started (R84)
  trace : Option Trace
  t0 : W64
  t1 : W64
  t2 : W64
  br : W64
  qReqs : W64
  qWait : W64
  idleFrom : Option W64         -- from when time with no task bound is still to be charged (Table 13-7)
  idleSince : Option W64        -- since when no task is bound (R382)
  heldIdle : W64
  deriving DecidableEq, Repr

/-! ### Streams and the soundboard (02, 03) -/

/-- Stream states (Table 2-2). -/
inductive StreamState where
  | free | opened | active | paused | evicted | closing
  deriving DecidableEq, Repr

/-- A profile (Table 3-1). -/
structure Profile where
  inFmt : BitVec 3
  inRate : BitVec 3
  outFmt : BitVec 3
  outRate : BitVec 3
  sb : SbDecl
  silEn : Bool
  silThr : W32
  pcmSize : BitVec 4
  deriving DecidableEq, Repr

/-- A chunk that is ready and not yet committed, failed or dropped (R30, R36, R60, R284, R398). -/
structure Chunk where
  seq : W32
  ready : W64
  deadline : W64
  silent : Bool
  hsRuns : Nat
  errRuns : Nat
  late : List CoreId   -- the cores of the stopped task it was requeued from, until their writes have completed (R185)
  deriving DecidableEq, Repr

/-- A copy of a stream's images in progress (R27): where to, and the descriptor tag. -/
structure Move where
  promote : Bool
  dst : Nat
  tag : BitVec 16
  deriving DecidableEq, Repr

/-- The soundboard context of a stream (03): resampler history, `y[n-1]`, the sample counter, input
samples taken, normalisation state, `silent_run`, the samples of the partial frame, and the flags of the
current hop. `restart`: R64. -/
structure SbCtx where
  hist : List W32
  yPrev : W32
  n : BitVec 52
  taken : Nat
  mu : List W32
  muSet : Bool
  silentRun : BitVec 16
  zbuf : List W32
  hop : Nat
  frame : W32
  clipped : Bool
  nonfinite : Bool
  padded : Bool
  outHist : List W32
  outTaken : Nat
  outCount : Nat
  deriving DecidableEq, Repr

/-- How a stream is closing (R43). -/
structure Closing where
  abort : Bool
  drained : Bool
  silently : Bool               -- by FLR or reclaim of the client: no record, no message (R312)
  deriving DecidableEq, Repr

/-- A stream: the fields of its table entry (Table 2-1), then the runtime's own records of it. -/
structure Stream where
  state : StreamState
  gen : Bool
  resetFlag : Bool
  resetNext : Bool              -- `stream.reset` accepted while a chunk is in a bundle (R34)
  inBundle : Bool
  moving : Bool
  skipSilence : Bool
  model : ModelSlot
  dclass : BitVec 3
  client : Func
  feProfile : BitVec 8
  nextSeq : W32
  statePtr : BitVec 36
  peg : BitVec 24
  bowKey : W64
  bowStep : BitVec 28
  bowEpoch : BitVec 12
  frWr : BitVec 24
  ibBase : BitVec 32
  ibSize : BitVec 5
  frSize : BitVec 4
  obSize : BitVec 4
  obPhase : Bool
  ibWr : W32
  ibRd : W32
  frBase : BitVec 32
  frRd : BitVec 24
  obBase : BitVec 52
  obHead : BitVec 12
  -- the runtime's own records
  vector : VecNo
  pauseAt : Option W64
  delays : Nat × Nat            -- the pause delays in ms, as they were when the pause timer started (R25, R334)
  move : Option Move
  migrating : Bool
  chunks : List Chunk
  discard : Option (BitVec 24)
  closing : Option Closing
  reserved : Nat                -- inbox bytes reserved for pushes being gathered (R307)
  dropReserved : Nat            -- of these, bytes that a discard has already dropped (R35)
  pcmTotal : W32
  pcmChunk : Bool               -- PCM bytes written since the last PCM record
  synthEnd : Nat                -- samples of the synthesis output up to the end of the last chunk that ran (R67)
  firstFrameAbs : Nat           -- number of the oldest unconsumed frame, counted from open
  lvlEpoch : Nat
  badLines : List W32           -- inbox counters of 64-byte lines that were read with an uncorrectable error (R396)
  sb : SbCtx
  deriving DecidableEq, Repr

/-! ### Models (09, 15) -/

/-- Peg state of a tensor (R205). -/
structure PegSt where
  k : Int
  u : Nat
  deriving DecidableEq, Repr

/-- Quantisation policy (Table 9-11). `mode`: 0 FIXED, 1 PEG, 2 TWO_PASS. -/
structure Policy where
  mode : BitVec 2
  hiNum : BitVec 16
  loNum : BitVec 16
  nUnder : BitVec 8
  promWin : BitVec 8
  step : BitVec 3
  stepMax : BitVec 3
  deriving DecidableEq, Repr

/-- Telemetry of a model (R188, R206, R207, R251, R427): counts of ignored reports, unequal picks, token
entries not written and coding suppressions, and sums per tensor. -/
structure ModelTele where
  ignored : Nat
  unequal : Nat
  badTokens : Nat
  suppressed : Nat
  tensors : List (Nat × Nat × Nat)   -- sat, conv, sqerr per pegged tensor
  layers : List (Nat × Nat × Nat)    -- the same per state layer
  mxSat : Nat
  deriving DecidableEq, Repr

/-- A model slot (R319): image, users, owner, where the image is held, peg table and policy. -/
structure Model where
  digest : BitVec 384
  decl : ImageDecl
  owner : Func
  users : List Func
  faulted : Bool
  loading : Bool
  imageAt : Nat
  imageSize : Nat
  weightsAt : List (Nat × Nat)
  signed : Option (List Byte)   -- the image as it was read, where its weights have been quantised since
  pegs : List PegSt
  policy : Policy
  promRun : Nat
  lvlEpoch : Nat
  signVectors : List (Nat × List W32)   -- by place in the drone allotment (R213)
  tele : ModelTele
  deriving DecidableEq, Repr

/-! ### Host interface (14, 15) -/

/-- A command taken from a slot and not yet carried out (R304). -/
structure Taken where
  opcode : BitVec 16
  tag : BitVec 16
  alen : BitVec 6
  rsv : Bool                    -- a reserved bit of the slot's header is nonzero (R314)
  args : BitVec 448
  deriving DecidableEq, Repr

/-- An outbound message (Table 14-5) before it has a slot. -/
structure Msg where
  kind : BitVec 2
  code : BitVec 16
  tag : BitVec 16
  status : BitVec 16
  payload : BitVec 448
  lost : Bool
  deriving DecidableEq, Repr

/-- MSI-X state of a vector (R309): masked, pending, messages since the last interrupt, and the time of
the first of them. -/
structure Vec where
  masked : Bool
  pend : Bool
  count : Nat
  first : Option W64
  sent : Nat
  deriving DecidableEq, Repr

/-- An accepted push whose audio is being gathered (R307). -/
structure Gather where
  tag : BitVec 16
  entries : List (Handle × List Byte)
  outcomes : List (W64 × Byte)
  accepted : Nat
  refused : Nat
  bytes : Nat
  failed : Bool
  deriving DecidableEq, Repr

/-- A function (R296): its mailbox block, interrupt state and settings. -/
structure Fn where
  enabled : Bool
  ready : Bool
  flr : Bool                    -- the effects of its FLR are not finished (R312, R378)
  expert : Bool
  inbound : Tbl (BitVec 512)
  outbound : Tbl (BitVec 512)
  inNext : BitVec 6
  expect : BitVec 8
  outNext : BitVec 6
  msgSeq : BitVec 8
  outQ : List Msg
  lostNext : Bool
  holdoff : BitVec 10
  count : BitVec 10
  badWrite : Bool
  lost : Bool
  nBad : BitVec 16
  nLost : W32
  vecs : Tbl Vec
  taken : List Taken
  gathers : List Gather
  delay1 : Nat                  -- ms
  delay2 : Nat
  tGuard : Nat                  -- µs
  deadlines : List Nat          -- ms, class 0 to 7
  deriving DecidableEq, Repr

/-- Objects that a command in progress holds (R317). -/
inductive Obj where
  | model (m : ModelSlot) | part (p : PartId) | job (p : PartId) (j : JobNo) | window (w : WinNo) | stream (h : Handle)
  deriving DecidableEq, Repr

/-- A command in progress (R317). `waits`: a load that waits for another load of the same image (R319). -/
structure InProgress where
  f : Func
  tag : BitVec 16
  opcode : BitVec 16
  objs : List Obj
  waits : Bool
  noplace : Bool
  res : Nat                     -- its RESULT payload so far
  deriving DecidableEq, Repr

/-- A BAR2 aperture (R299). -/
structure Aperture where
  part : PartId
  base : Nat
  deriving DecidableEq, Repr

/-! ### Memory, monitor (12, 17) -/

/-- Last holder of a 4 KiB page (R356). -/
inductive Holder where
  | zeroed | unknown | part (p : PartId) (j : JobNo) | service | verified | retired
  deriving DecidableEq, Repr

/-- A verified region (R360). -/
structure Verified where
  base : Nat
  size : Nat
  digest : BitVec 384
  program : Bool
  deriving DecidableEq, Repr

/-- A tier region the runtime has allocated, and to whom. -/
inductive RegionUse where
  | image (h : Handle) | inbox (h : Handle) | feature (h : Handle) | model (m : ModelSlot) | job (p : PartId) (j : JobNo) | bundle (no : W32)
  deriving DecidableEq, Repr

structure Region where
  base : Nat
  size : Nat
  use : RegionUse
  deriving DecidableEq, Repr

/-- A migration completion record (R273): tag, bytes moved, status 0 OK, 1 FENCE, 2 DATA_ERROR,
3 INTEGRITY. -/
structure MigDone where
  tag : BitVec 16
  bytes : Nat
  status : BitVec 2
  deriving DecidableEq, Repr

/-- A descriptor at work: the bytes that it has moved (R273). -/
structure MigWork where
  desc : BitVec 256
  moved : Nat
  deriving DecidableEq, Repr

/-- A descriptor whose bytes have all moved, or that has failed, and whose completion record is due. `dataErr`: it failed by an
uncorrectable error of its source (R396, R399). -/
structure MigDue where
  out : MigDone
  dataErr : Bool
  deriving DecidableEq, Repr

/-- A region that the runtime has released and that is not yet zeroed; the tag of its ZERO descriptor, once that is queued (R270). -/
structure Release where
  base : Nat
  size : Nat
  tag : Option (BitVec 16)
  deriving DecidableEq, Repr

/-- The migration engine (R272): descriptors not yet begun, those begun, the one of which 64 KiB are on their way, those whose
completion record is due, and the records written. `next` numbers the runtime's tags. -/
structure MigSt where
  queue : List (BitVec 256)
  work : List MigWork
  cur : Option (BitVec 256)
  due : List MigDue
  done : List MigDone
  next : BitVec 16
  releasing : List Release
  deriving DecidableEq, Repr

/-- A request of the monitor ring and whether it was refused (R355). -/
structure MonAnswer where
  op : Nat
  refused : Bool
  deriving DecidableEq, Repr

/-- What the secure monitor keeps (Table 17-1, Table 17-8). -/
structure MonSt where
  grants : List (BitVec 128)
  holders : Tbl Holder
  holderDefault : Holder
  keys : Tbl (BitVec 512)
  ring : List MonAnswer
  badLoads : List (PartId × JobNo)   -- loads of command memory from outside a verified region, reported to the monitor (R360)
  verified : List Verified
  nonce : BitVec 256
  nonceValid : Bool
  qnonce : BitVec 256
  reqOp : BitVec 4
  reqBusy : Bool
  reqStatus : BitVec 8
  monSrc : BitVec 2
  rtSrc : BitVec 2
  step : BitVec 4
  fail : BitVec 8
  monDigest : BitVec 384
  rtDigest : BitVec 384
  monKey : BitVec 4
  rtKey : BitVec 4
  attest : BitVec 384
  quote : List Byte
  token : Tbl W64
  hostLoad : Tbl W64
  retired : List Nat
  pageErrs : Tbl (List W64)     -- times of corrected errors per page (R397)
  rowErrs : Tbl (List W64)      -- times of corrected errors per SRAM row, core × 16384 + bank × 256 + row (R122)
  spareReq : List (CoreId × SramRow)    -- remappings decided and not yet in effect
  spares : Tbl Nat              -- spares used, core × 64 + bank
  fatal : BitVec 512            -- SM_FATAL (R408)
  entropyOk : Bool
  entropyReported : Bool
  deriving DecidableEq, Repr

/-- Fuses, OTP, straps and the boot flash's sparing record (17). -/
structure Fuses where
  prov : Bool
  ownerBurnt : Bool
  retired : Bool
  debugUsed : BitVec 7
  floorMon : BitVec 6
  floorRt : BitVec 6
  revoked : BitVec 16
  rootDigest : BitVec 384
  ownerDigest : BitVec 384
  lot : W64
  wafer : BitVec 5
  dieX : BitVec 8
  dieY : BitVec 8
  site : BitVec 8
  fuseRev : BitVec 8
  rev : BitVec 8   -- MB_ID.rev (Table 14-3)
  idPub : BitVec 776
  idSecret : Option (BitVec 384)
  idCert : BitVec 8208          -- cert_len and cert of Table 17-5
  devidPins : DevNo
  bootsrcPin : Bool
  devid : DevNo
  bootsrc : Bool
  sparing : List (BitVec 64)
  sparingNo : W32
  sparingSig : BitVec 768
  sparingStatus : BitVec 2
  deriving DecidableEq, Repr

/-! ### Bridge (16) -/

/-- A frame handed to a pair for sending, with the core (and the issue number of its command) that waits for it. -/
structure TxFrame where
  fr : Frame
  owner : Option (CoreId × Nat)
  credits : Nat
  job : JobNo
  deriving DecidableEq, Repr

/-- A read request waiting for its response, in request order (R351). -/
structure ReadWait where
  tag : BitVec 16               -- of its READ_REQ, which the response repeats (R345)
  owner : Option (CoreId × Nat) -- the core and the issue number of its command; none once it has been stopped
  off : Nat
  len : Nat
  deriving DecidableEq, Repr

/-- A window descriptor (Table 16-5). -/
structure Win where
  part : PartId
  job : JobNo
  base : Nat
  size : Nat
  src : DevNo
  smask : DevNo
  perm : BitVec 3
  credits : BitVec 16
  closing : Bool
  closeFor : Option (Func × BitVec 16)
  deriving DecidableEq, Repr

/-- A pair (Table 16-6) with its frames waiting for credits, its unacknowledged frames, successive
timeouts, the credits to return and reads outstanding. -/
structure Pair where
  failed : Bool
  window : WinNo
  peer : DevNo
  rbase : Nat
  rsize : Nat
  rperm : BitVec 3
  granted : BitVec 16
  avail : BitVec 16
  txNext : BitVec 16
  txAcked : BitVec 16
  rxNext : BitVec 16
  waitTx : List TxFrame
  unacked : List TxFrame
  timeouts : Nat
  credRet : Nat
  reads : List ReadWait
  nakSent : Bool
  tagNext : BitVec 16           -- tag of the next READ_REQ
  progress : W64                -- when tx_acked last advanced, or retry_us last passed without (R349)
  deriving DecidableEq, Repr

/-- A port (Table 16-3). -/
structure Port where
  up : Bool
  multi : Bool
  peerPort : PortNo
  peerValid : Bool
  peerDev : DevNo
  dropped : W32
  fecUncorr : W32
  helloAt : W64                 -- when it last sent a HELLO (R340)
  deriving DecidableEq, Repr

/-- A route (R340): for each port that heard HELLOs of the device, the remote port and when. -/
structure RouteSrc where
  port : PortNo
  remote : PortNo
  at_ : W64
  deriving DecidableEq, Repr

/-- A stream migrating in: where it comes from and the fields START carried (R352). -/
structure MigIn where
  window : WinNo
  peer : DevNo
  start : List Byte
  deriving DecidableEq, Repr

/-- A stream migrating out (R332). -/
structure MigOut where
  f : Func
  tag : BitVec 16
  handle : Handle
  device : DevNo
  window : WinNo
  dfunc : Func
  dvec : VecNo
  dobAddr : W64
  copy : Option (BitVec 16)     -- the tag of its descriptors, once the copy has started
  coded : Option Nat            -- bytes of the generation sent, once it has been
  deriving DecidableEq, Repr

/-- A frame that left a port, and its octets up to the FCS (R338, R345). -/
structure Sent where
  port : PortNo
  fr : Frame
  octets : List Byte
  deriving DecidableEq, Repr

/-- The bridge block. `sent` is the model's record of the frames that left the ports, oldest first. -/
structure BrSt where
  ethertype : BitVec 16
  retryUs : BitVec 8
  retryMax : BitVec 8
  syncEn : Bool
  ports : Tbl Port
  routes : Tbl (List RouteSrc)
  wins : Tbl Win
  pairs : Tbl Pair
  offersIgnored : Nat
  locked : Bool
  root : Bool
  parent : DevNo
  offset : W32
  slew : Int                    -- offset still to be slewed, ticks
  slewAcc : Nat                 -- ticks since the last slewed one (R353)
  syncAt : W64                  -- when SYNC_REQ was last sent, and its tag
  syncTag : BitVec 16
  devidConflict : Bool
  conflictTold : Bool           -- the conflict has been reported in the ERROR event (R339)
  stepped : Bool                -- device time has been stepped since the reset (R353)
  migIn : List MigIn
  migOut : List MigOut
  sent : List Sent
  deriving DecidableEq, Repr

/-! ### Accounts and telemetry (13, 14, 18, 19) -/

/-- An account (Table 13-7), energy kept in µJ; that of the device account falls where an interval's clients were charged more than was
measured (R291). -/
structure Account where
  interval : W64
  courseCycles : W64
  t0 : W64
  t1 : W64
  t2 : W64
  host : W64
  bridge : W64
  uj : Int
  committed : W32
  failed : W32
  late : W32
  hardStops : W32
  overrun : W64
  heldIdle : W64
  frameUnits : Nat              -- half frame units of the soundboard (R290)
  measured : Nat                -- the device account's measured total, µJ
  clamped : Nat                 -- intervals in which E_sh was clamped (R291)
  deriving DecidableEq, Repr

/-- A part of a task within the interval on one course (R291): the task by its partition and start, its cycles and its members'
clients. -/
structure TaskPart where
  part : PartId
  start : W64
  course : CourseId
  cycles : Nat
  clients : List Func
  deriving DecidableEq, Repr

/-- An interference record (Table 14-7). -/
structure Interf where
  part : PartId
  job : JobNo
  tasks : Nat
  ratio : Nat
  qwait : Nat
  second : W64
  deriving DecidableEq, Repr

/-- The power summary (Table 18-10). -/
structure PwSum where
  powerMw : W32
  cap : BitVec 16
  dutyMin : BitVec 5
  thrPower : W32
  thrTherm : W32
  overCap : W32
  tmax : BitVec 12
  deriving DecidableEq, Repr

/-- Accounting state and the telemetry pages' snapshots. Update words: R300. `pwRun` gathers the interval that is open. -/
structure TeleSt where
  accounts : Tbl Account
  device : Account
  parts : List TaskPart
  lastPw : W64
  lastCourse : Tbl W64
  lastQ : Tbl (W64 × W64)
  accUpd : W64
  partUpd : W64
  intfUpd : W64
  pwUpd : W64
  sbUpd : W64
  modUpd : W64
  errUpd : W64
  accSnap : Tbl Account
  devSnap : Account
  partSnap : Tbl W64
  interf : List Interf
  gone : List Interf            -- sums of jobs that have ended and been reclaimed in this second (R293)
  lastSec : Nat
  pwRun : PwSum
  pwSnap : PwSum
  sbSnap : W32 × W32 × W32 × W32
  modSnap : Tbl (List PegSt × ModelTele × List (Rat × Rat))   -- with mean squared spill error and saturation fraction by layer (R188)
  errRing : Tbl (BitVec 512)
  nextSeq : W32
  nTask : W32
  nPart : W32
  nReport : W32
  corrected : Tbl Nat           -- corrections in the interval by source (R407)
  deriving DecidableEq, Repr

/-! ### Power, clocks, pins (18, 20) -/

/-- Device phases: held in reset; boot stopped at a step; running; halted until a reset (Table 19-3). -/
inductive DevPhase where
  | held | bootStopped | running | halted
  deriving DecidableEq, Repr

/-- Clocks, resets, power, pins. -/
structure PwSt where
  phase : DevPhase
  pwrgood : Bool
  perstLow : Bool
  poweredOn : Bool              -- the reset in progress counts as a power-on reset (R417)
  enumDue : Bool                -- boot is to enumerate the expanders at step 4 (R265)
  clockStop : Option (BitVec 8) -- cause that stopped the clocks (R373, R389)
  thermtrip : Bool              -- THERMTRIP_N asserted
  alert : Bool                  -- ALERT_N asserted
  hot : Bool                    -- tmax was at or above 100 °C at the last sample (R422)
  smbAck : Bool                 -- the management bus answers (R422)
  smbReply : Option (BitVec 64)
  railsBad : List Rail
  dutyP : BitVec 5
  dutyT : BitVec 5
  power : BitVec 16
  tmax : BitVec 12
  energy : W64
  capWatts : BitVec 16
  capHyst : BitVec 6
  c2Delay : BitVec 14
  wrBusy : Bool
  wrCount : BitVec 8
  wrCause : BitVec 2
  autoResets : List W64
  autoDue : Bool                -- the monitor's automatic warm reset is due (Table 19-3)
  standby : Bool
  pfD3 : Bool
  idle : Bool                   -- device idle (R383)
  lpddrDown : Bool
  stackDown : BitVec 4
  expPresent : BitVec 4
  expDown : BitVec 4
  expCap : Tbl Nat              -- bytes that the expander of a tier 2 slice maps (R255)
  t1Refused : Bool
  samples : Nat
  deriving DecidableEq, Repr

/-- Soundboard counters (Table 3-6) and TM_ZERO1 (Table 12-10). -/
structure SbTmSt where
  nonfinite : W32
  clip : W32
  frames : List (W64 × Nat)     -- half frame units completed in the last 100 ms, by device time
  samples : List (W64 × Nat)    -- samples handled in the last 100 ms, by device time
  zero1 : BitVec 48
  zero1Done : Bool
  deriving DecidableEq, Repr

/-! ### The state -/

/-- The whole state. `pending` is the queue of waiting commands, first in first out; `free` and the
entropy draws count free values. -/
structure State where
  pending : List Instr
  time : W64
  free : Nat
  mem : Tbl Byte
  hostMem : Tbl Byte            -- function × 2^64 + address
  regions : List Region
  cores : Tbl CoreSt
  courses : Tbl Course
  parts : Tbl Part
  streams : Tbl Stream
  profiles : Tbl Profile
  models : Tbl Model
  bundles : List Bundle
  bundleNo : W32
  funcs : Tbl Fn
  turns : List (Func × Func)    -- the second is served before the first is served again (R304)
  fatal : Bool
  beat : W32
  beatAt : W64
  apertures : Tbl Aperture
  cpl : Option (List Byte)      -- completion of the last BAR2 read; none is Unsupported Request
  inProgress : List InProgress
  aer : List (BitVec 2)         -- AER signals: 0 uncorrectable internal (R402), 1 advisory non-fatal (R311)
  sbtm : SbTmSt
  mig : MigSt
  mon : MonSt
  fuses : Fuses
  br : BrSt
  tele : TeleSt
  pw : PwSt
  deriving DecidableEq, Repr

/-! ### Reset values (the Reset columns; Table 18-7) -/

def CzSlot.reset : CzSlot := ⟨false, 0, 0, 0, [], 0⟩
def RingRec.reset : RingRec := ⟨0, 0, 0, 0⟩
def MxSlot.reset : MxSlot := ⟨0, 0, 0, 0, 0, 0, [], []⟩
def DescSlot.reset : DescSlot := ⟨false, [], 0, 0, 0, 0⟩
def SpTask.reset : SpTask := ⟨0, 0, 0, 0, false⟩
def StImage.reset : StImage := ⟨0, 0, 0, 0, false⟩
def SpConflict.reset : SpConflict := ⟨false, 0, 0, 0, 0, 0⟩
def RescaleTable.reset : RescaleTable := ⟨[], 0, false, 0, false, []⟩
def TblTable.reset : TblTable := ⟨0, false, false, false, 0, 0, 0, []⟩

/-- R69, Table 4-13. -/
def Seq.reset : Seq :=
  { pc := 0, sregs := [], cmdMem := [], phase := .idle, cycle := 0, next := 0, ldPend := [], landing := [], drainAt := 0, arrayAt := 0, due := none
    issued := 0, syncTimeout := 500000, decisionTimeout := 100000, asks := []
    dmaQ := [], wlQ := [], mxQ := [], vxQ := [], seqQ := [] }

def Engines.reset : Engines :=
  { sp := [], rings := [], acc := [], mx := .reset, mxSat := 0, fret := [], codebooks := [], decay := []
    vl := 0, descs := [], tbls := [], rescale := [], peg := [], qzNonfinite := 0, qzSat := 0, sites := []
    czSlots := [], hist := [], czCoded := 0, czFallback := 0, czSuppressed := 0 }

def CoreSt.reset : CoreSt :=
  { seq := .reset, eng := .reset, spTask := .reset, drone := 0, conflict := .reset, conflictCount := 0
    stImage := .reset, bwKey := 0, bwStep := 0, winWait := [] }

def Course.reset : Course := ⟨.c0, 0, 0, none⟩

def Part.reset : Part :=
  { courses := 0, valid := false, drone := 0, owner := 0, job := 0, atMeet := false, stopping := false
    resetDue := false, dflt := false, destroying := false, grace := 20, sliceUs := 10000, hsLimit := 3, jobs := []
    lastRan := 0, sliceJob := 0, sliceStart := 0, sliceLen := 0, endReq := none, reqGrace := 0, task := none
    sems := [], semNet := [], semWait := [], sumRing := [], sumDue := 0, trace := none
    t0 := 0, t1 := 0, t2 := 0, br := 0, qReqs := 0, qWait := 0, idleFrom := none, idleSince := none, heldIdle := 0 }

def SbCtx.reset : SbCtx :=
  { hist := [], yPrev := 0, n := 0, taken := 0, mu := [], muSet := false, silentRun := 0, zbuf := []
    hop := 0, frame := 0, clipped := false, nonfinite := false, padded := false
    outHist := [], outTaken := 0, outCount := 0 }

/-- Table 2-1, Reset column: a FREE entry. -/
def Stream.reset : Stream :=
  { state := .free, gen := false, resetFlag := false, resetNext := false, inBundle := false, moving := false, skipSilence := false
    model := 0, dclass := 0, client := 0, feProfile := 0, nextSeq := 0, statePtr := 0, peg := 0
    bowKey := 0, bowStep := 0, bowEpoch := 0, frWr := 0, ibBase := 0, ibSize := 0, frSize := 0
    obSize := 0, obPhase := false, ibWr := 0, ibRd := 0, frBase := 0, frRd := 0, obBase := 0, obHead := 0
    vector := 0, pauseAt := none, delays := (0, 0), move := none, migrating := false
    chunks := [], discard := none, closing := none, reserved := 0, dropReserved := 0, pcmTotal := 0
    pcmChunk := false, synthEnd := 0, firstFrameAbs := 0, lvlEpoch := 0, badLines := [], sb := .reset }

def Vec.reset : Vec := ⟨false, false, 0, none, 0⟩

/-- Table 14-8; pause delays of R25, t_guard of R38, deadlines of Table 2-4. The PF always has the expert
level (R316); its bit of Table 14-3 resets to 0. -/
def Fn.reset : Fn :=
  { enabled := false, ready := false, flr := false, expert := false, inbound := [], outbound := [], inNext := 0
    expect := 0, outNext := 0, msgSeq := 0, outQ := [], lostNext := false, holdoff := 20, count := 16
    badWrite := false, lost := false, nBad := 0, nLost := 0, vecs := [], taken := [], gathers := []
    delay1 := 2000, delay2 := 30000, tGuard := 2000
    deadlines := [40, 80, 160, 320, 640, 1280, 2560, 5120] }

def Port.reset : Port := ⟨false, false, 0, false, 0, 0, 0, 0⟩

/-- Tables 16-2, 16-9. -/
def BrSt.reset : BrSt :=
  { ethertype := 0x88B5, retryUs := 20, retryMax := 32, syncEn := true, ports := [], routes := []
    wins := [], pairs := [], offersIgnored := 0, locked := false, root := false, parent := 0, offset := 0
    slew := 0, slewAcc := 0, syncAt := 0, syncTag := 0, devidConflict := false, conflictTold := false, stepped := false, migIn := [], migOut := [], sent := [] }

def Account.reset : Account :=
  ⟨0, 0, 0, 0, 0, 0, 0, 0, 0, 0, 0, 0, 0, 0, 0, 0, 0⟩

/-- Table 18-10, Reset column; and an interval with nothing seen yet. -/
def PwSum.reset : PwSum := ⟨0, 0, 0, 0, 0, 0, 0⟩
def PwSum.run : PwSum := ⟨0, 0, 16, 0, 0, 0, 0⟩

def TeleSt.reset : TeleSt :=
  { accounts := [], device := .reset, parts := [], lastPw := 0, lastCourse := [], lastQ := []
    accUpd := 0, partUpd := 0, intfUpd := 0, pwUpd := 0, sbUpd := 0, modUpd := 0, errUpd := 0, accSnap := []
    devSnap := .reset, partSnap := [], interf := [], gone := [], lastSec := 0, pwRun := .run, pwSnap := .reset
    sbSnap := (0, 0, 0, 0), modSnap := [], errRing := [], nextSeq := 0, nTask := 0, nPart := 0, nReport := 0, corrected := [] }

/-- Tables 18-4 and 18-9; PWRGOOD is still low (log 14). -/
def PwSt.reset : PwSt :=
  { phase := .held, pwrgood := false, perstLow := false, poweredOn := true, enumDue := true, clockStop := none
    thermtrip := false, alert := false, hot := false, smbAck := false, smbReply := none, railsBad := []
    dutyP := 16, dutyT := 16, power := 0, tmax := 0, energy := 0, capWatts := 500, capHyst := 15
    c2Delay := 50, wrBusy := false, wrCount := 0, wrCause := 0, autoResets := [], autoDue := false, standby := false
    pfD3 := false, idle := false, lpddrDown := false, stackDown := 0, expPresent := 0, expDown := 0, expCap := []
    t1Refused := false, samples := 0 }

/-- Tables 3-6 and 12-10. -/
def SbTmSt.reset : SbTmSt :=
  ⟨0, 0, [], [], 0x004000000000#48, false⟩

def MigSt.reset : MigSt := { queue := [], work := [], cur := none, due := [], done := [], next := 0, releasing := [] }

/-- Table 17-8, R8, R408; nothing granted, tier pages zeroed by the cold reset (R270). -/
def MonSt.reset : MonSt :=
  { grants := [], holders := [], holderDefault := .zeroed, keys := [], ring := [], badLoads := [], verified := []
    nonce := 0, nonceValid := false, qnonce := 0, reqOp := 0, reqBusy := false, reqStatus := 0
    monSrc := 0, rtSrc := 0, step := 0, fail := 0, monDigest := 0, rtDigest := 0, monKey := 0, rtKey := 0
    attest := 0, quote := [], token := [], hostLoad := [], retired := [], pageErrs := [], rowErrs := []
    spareReq := [], spares := [], fatal := 0, entropyOk := true, entropyReported := false }

/-- An unprovisioned part: no fuse burnt (log 15). -/
def Fuses.reset : Fuses :=
  { prov := false, ownerBurnt := false, retired := false, debugUsed := 0, floorMon := 0, floorRt := 0
    revoked := 0, rootDigest := 0, ownerDigest := 0, lot := 0, wafer := 0, dieX := 0, dieY := 0, site := 0
    fuseRev := 0, rev := 0xA1, idPub := 0, idSecret := none, idCert := 0, devidPins := 0, bootsrcPin := false, devid := 0
    bootsrc := false, sparing := [], sparingNo := 0, sparingSig := 0, sparingStatus := 0 }

/-- The device while the power-on reset holds it: every register at its Reset value, no command waiting
(R9, R374, log 14). The row POWER_ON_RESET ends this reset and boots. -/
def State.reset : State :=
  { pending := [], time := 0, free := 0, mem := [], hostMem := [], regions := [], cores := [], courses := []
    parts := [], streams := [], profiles := [], models := [], bundles := [], bundleNo := 0, funcs := [], turns := []
    fatal := false, beat := 0, beatAt := 0, apertures := [], cpl := none, inProgress := [], aer := []
    sbtm := .reset, mig := .reset, mon := .reset, fuses := .reset, br := .reset, tele := .reset
    pw := .reset }

end Sys2Proof.Machine
end

