-- ==== Sys2Proof/Machine/Ops.lean ====
section
/-! DEFINITION. The named operations over the state: sparse tables, bytes, memory, the accessors of each
unit, device time, and the recording of a task error. -/

namespace Sys2Proof.Machine
open Sys2Proof

/-- Bit `i` of a word, where it is set. -/
def bitN (b : Bool) (i : Nat) : Nat := if b then 2 ^ i else 0

/-! ### Sparse tables -/

/-- The value of key `k`; `d` where the table lists none. -/
def tget {α : Type} (d : α) : Tbl α → Nat → α
  | [], _ => d
  | (k', v) :: r, k => if k' = k then v else tget d r k

/-- The value of key `k`, if the table lists it. -/
def tfind {α : Type} : Tbl α → Nat → Option α
  | [], _ => none
  | (k', v) :: r, k => if k' = k then some v else tfind r k

/-- The table without key `k`. -/
def tdel {α : Type} : Tbl α → Nat → Tbl α
  | [], _ => []
  | (k', v) :: r, k => if k' = k then tdel r k else (k', v) :: tdel r k

/-- Places a key before the first greater one. -/
def tins {α : Type} : Tbl α → Nat → α → Tbl α
  | [], k, v => [(k, v)]
  | (k', v') :: r, k, v => if k < k' then (k, v) :: (k', v') :: r else (k', v') :: tins r k v

/-- The table with `k` listed as `v`. -/
def tset {α : Type} (t : Tbl α) (k : Nat) (v : α) : Tbl α := tins (tdel t k) k v

/-- The table with `k` holding `v`, where the default `d` is never listed. -/
def tput {α : Type} [DecidableEq α] (d : α) (t : Tbl α) (k : Nat) (v : α) : Tbl α :=
  if v = d then tdel t k else tset t k v

/-- Changes the value of one key. -/
def tmod {α : Type} [DecidableEq α] (d : α) (t : Tbl α) (k : Nat) (f : α → α) : Tbl α := tput d t k (f (tget d t k))

/-- Writes values to consecutive keys. -/
def tputs {α : Type} [DecidableEq α] (d : α) : Tbl α → Nat → List α → Tbl α
  | t, _, [] => t
  | t, k, v :: r => tputs d (tput d t k v) (k + 1) r

/-- Keeps the keys outside `[lo, lo + n)`. -/
def tclear {α : Type} (t : Tbl α) (lo n : Nat) : Tbl α := t.filter fun x => decide (x.1 < lo ∨ lo + n ≤ x.1)

/-- Every key of the table is above `b`, and keys rise. -/
def tabove {α : Type} (b : Nat) : Tbl α → Bool
  | [] => true
  | (k, _) :: r => decide (b < k) && tabove k r

/-- Keys rise strictly. -/
def trising {α : Type} : Tbl α → Bool
  | [] => true
  | (k, _) :: r => tabove k r

/-- The canonical form: keys rise and no default is listed. -/
def twf {α : Type} [DecidableEq α] (d : α) (t : Tbl α) : Bool := trising t && t.all fun x => decide (x.2 ≠ d)

/-! ### Bytes and words -/

/-- Little-endian value of bytes (R6). -/
def leNat : List Byte → Nat
  | [] => 0
  | b :: r => b.toNat + 256 * leNat r

/-- The `n` little-endian bytes of `v` (R6). -/
def leBytes (n v : Nat) : List Byte := (List.range n).map fun i => BitVec.ofNat 8 (v >>> (8 * i))

/-- Bits `[hi:lo]` of a number. -/
def nfld (v hi lo : Nat) : Nat := (v >>> lo) % 2 ^ (hi - lo + 1)

/-- The signed value of the low `n` bits. -/
def sxt (n v : Nat) : Int := let u := v % 2 ^ n; if u < 2 ^ (n - 1) then (u : Int) else (u : Int) - (2 ^ n : Nat)

/-- `sat_n` (R13). -/
def satn (n : Nat) (v : Int) : Int :=
  let hi : Int := (2 ^ (n - 1) : Nat)
  if v ≥ hi then hi - 1 else if v < -hi then -hi else v

/-- The two's complement bits of an integer. -/
def ofI (n : Nat) (v : Int) : BitVec n := BitVec.ofInt n v

/-- Addition that stops at the greatest value. -/
def satAdd {n : Nat} (a : BitVec n) (k : Nat) : BitVec n := BitVec.ofNat n (min (a.toNat + k) (2 ^ n - 1))

/-- ⌈a / b⌉. -/
def cdiv (a b : Nat) : Nat := (a + b - 1) / b

/-- A byte list of length `n`: cut, or filled with zeros. -/
def fitBytes (n : Nat) (b : List Byte) : List Byte := (b ++ List.replicate n 0#8).take n

/-- Replaces the elements from `k` on. -/
def splice {α : Type} (l : List α) (k : Nat) (v : List α) : List α := l.take k ++ v ++ l.drop (k + v.length)

/-! ### Memory (R254): tiers 0, 1 and 2 by local address -/

/-- One byte; a byte that nothing has written reads as 0 (log 18). -/
def Memory.rd (m : Tbl Byte) (a : Nat) : Byte := tget 0#8 m a
def Memory.wr (m : Tbl Byte) (a : Nat) (b : Byte) : Tbl Byte := tput 0#8 m a b
def Memory.rds (m : Tbl Byte) (a n : Nat) : List Byte := (List.range n).map fun i => Memory.rd m (a + i)
def Memory.wrs (m : Tbl Byte) (a : Nat) (b : List Byte) : Tbl Byte := tputs 0#8 m a b
def Memory.zero (m : Tbl Byte) (a n : Nat) : Tbl Byte := tclear m a n
def Memory.rdNat (m : Tbl Byte) (a n : Nat) : Nat := leNat (Memory.rds m a n)
/-- The canonical form of a memory. -/
def Memory.wf (m : Tbl Byte) : Bool := twf 0#8 m
/-- Writes single bytes, in list order. -/
def Memory.wrList (m : Tbl Byte) : List (Nat × Byte) → Tbl Byte
  | [] => m
  | (a, b) :: r => Memory.wrList (Memory.wr m a b) r

/-- Tiers (Table 12-1): base and end. -/
def tier1Base : Nat := 0x004000000000
def tier2Base : Nat := 0x010000000000
def tierEnd : Nat := 0x040000000000

/-- Tier 2 slices (R255). -/
def sliceSize : Nat := 0xC000000000

/-- The tier of a local address; 3 for none. -/
def tierOf (a : Nat) : Nat :=
  if a < tier1Base then 0 else if a < tier2Base then 1 else if a < tierEnd then 2 else 3

/-! ### Accessors -/

def getCore (s : State) (c : CoreId) : CoreSt := tget .reset s.cores c.toNat
def setCore (s : State) (c : CoreId) (x : CoreSt) : State := { s with cores := tput .reset s.cores c.toNat x }
def modCore (s : State) (c : CoreId) (f : CoreSt → CoreSt) : State := setCore s c (f (getCore s c))
def modSeq (s : State) (c : CoreId) (f : Seq → Seq) : State := modCore s c fun x => { x with seq := f x.seq }
def modEng (s : State) (c : CoreId) (f : Engines → Engines) : State := modCore s c fun x => { x with eng := f x.eng }

def getPart (s : State) (p : PartId) : Part := tget .reset s.parts p.toNat
def setPart (s : State) (p : PartId) (x : Part) : State := { s with parts := tput .reset s.parts p.toNat x }
def modPart (s : State) (p : PartId) (f : Part → Part) : State := setPart s p (f (getPart s p))

def getCourse (s : State) (k : CourseId) : Course := tget .reset s.courses k.toNat
def setCourse (s : State) (k : CourseId) (x : Course) : State := { s with courses := tput .reset s.courses k.toNat x }

def getStream (s : State) (h : Handle) : Stream := tget .reset s.streams h.toNat
def setStream (s : State) (h : Handle) (x : Stream) : State := { s with streams := tput .reset s.streams h.toNat x }
def modStream (s : State) (h : Handle) (f : Stream → Stream) : State := setStream s h (f (getStream s h))

def getFn (s : State) (f : Func) : Fn := tget .reset s.funcs f.toNat
def setFn (s : State) (f : Func) (x : Fn) : State := { s with funcs := tput .reset s.funcs f.toNat x }
def modFn (s : State) (f : Func) (g : Fn → Fn) : State := setFn s f (g (getFn s f))

def getModel (s : State) (m : ModelSlot) : Option Model := tfind s.models m.toNat
def setModel (s : State) (m : ModelSlot) (x : Model) : State := { s with models := tset s.models m.toNat x }
def modModel (s : State) (m : ModelSlot) (f : Model → Model) : State :=
  match getModel s m with
  | some x => setModel s m (f x)
  | none => s

def getProfile (s : State) (i : BitVec 8) : Option Profile := tfind s.profiles i.toNat

def getPort (s : State) (n : PortNo) : Port := tget .reset s.br.ports n.toNat
def setPort (s : State) (n : PortNo) (x : Port) : State :=
  { s with br := { s.br with ports := tput .reset s.br.ports n.toNat x } }

/-- Byte sums of the tiers that a partition's cores moved (Table 13-6), by tier of the address. -/
def addTierBytes (s : State) (p : PartId) (a n : Nat) : State :=
  modPart s p fun x =>
    if tierOf a = 0 then { x with t0 := x.t0 + BitVec.ofNat 64 n }
    else if tierOf a = 1 then { x with t1 := x.t1 + BitVec.ofNat 64 n }
    else { x with t2 := x.t2 + BitVec.ofNat 64 n }

/-! ### Device time, phases, partitions -/

/-- Ticks added or withheld of an offset: one in every 10,000 at most (R353). -/
def slewStep (b : BrSt) (dt : Nat) : Int :=
  let k : Int := ((b.slewAcc + dt) / 10000 : Nat)
  if b.slew < 0 then max b.slew (-k) else min b.slew k

/-- Device time advances by `dt` ticks, with what is slewed (R353, log 4). -/
def tick (s : State) (dt : Nat) : State :=
  if s.br.slew = 0 then { s with time := s.time + BitVec.ofNat 64 dt }
  else
    let k := slewStep s.br dt
    { s with
      time := s.time + BitVec.ofInt 64 (dt + k)
      br := { s.br with slew := s.br.slew - k, slewAcc := (s.br.slewAcc + dt) % 10000 } }

/-- The device runs: boot has ended, no stop of its clocks, not in standby. -/
def devRuns (s : State) : Bool :=
  decide (s.pw.phase = .running) && decide (s.pw.clockStop = none) && !s.pw.standby

/-- 50 ms in ticks. -/
def stallTicks : Nat := 5000000

/-- beat has not advanced for 50 ms: the runtime stands still until its restart (R298, R403). -/
def stalled (s : State) : Bool := decide (stallTicks ≤ (s.time - s.beatAt).toNat)

/-- The Utast runtime may act: it runs, also after a device-severity error (R402). -/
def rtRuns (s : State) : Bool := devRuns s && !stalled s

/-- Nothing may leave for a host until recovery from a device error (R402). -/
def hostQuiet (s : State) : Bool := s.fatal

def courseOf (c : CoreId) : CourseId := BitVec.ofNat 5 (c.toNat / 4)

/-- Does the partition hold the course (Table 13-1). -/
def partHas (x : Part) (k : CourseId) : Bool := x.valid && x.courses.getLsbD k.toNat

/-- The partition that holds a course; `none` for a free course (R275). -/
def partOfCourse (s : State) (k : CourseId) : Option PartId :=
  ((List.range 32).map (BitVec.ofNat 5)).find? fun p => partHas (getPart s p) k

def partOfCore (s : State) (c : CoreId) : Option PartId := partOfCourse s (courseOf c)

/-- The courses of a partition, ascending. -/
def partCourses (x : Part) : List CourseId :=
  ((List.range 32).map (BitVec.ofNat 5)).filter fun k => x.courses.getLsbD k.toNat

/-- The cores of a course, and of a partition, ascending (core index order). -/
def courseCores (k : CourseId) : List CoreId := (List.range 4).map fun i => BitVec.ofNat 7 (4 * k.toNat + i)
def partCores (x : Part) : List CoreId := (partCourses x).flatMap courseCores

/-- Core index within the partition (Table 4-5). -/
def coreIndex (x : Part) (c : CoreId) : Nat := ((partCores x).takeWhile fun d => decide (d ≠ c)).length

/-- The task bound to the partition of a core. -/
def taskOfCore (s : State) (c : CoreId) : Option Task := (partOfCore s c).bind fun p => (getPart s p).task

def findJob (x : Part) (j : JobNo) : Option Job := x.jobs.find? fun b => decide (b.num = j)

def modJob (s : State) (p : PartId) (j : JobNo) (f : Job → Job) : State :=
  modPart s p fun x => { x with jobs := x.jobs.map fun b => if b.num = j then f b else b }

def modTask (s : State) (p : PartId) (f : Task → Task) : State :=
  modPart s p fun x => { x with task := x.task.map f }

/-- The members of the bundle that a core's task runs, in bundle position order. -/
def membersOf (s : State) (c : CoreId) : List Member :=
  match (taskOfCore s c).bind (·.bundle) with
  | some b => b.members
  | none => []

/-- All functions, cores, courses, partitions. -/
def allFuncs : List Func := (List.range 32).map (BitVec.ofNat 5)
def allCores : List CoreId := (List.range 128).map (BitVec.ofNat 7)
def allCourses : List CourseId := (List.range 32).map (BitVec.ofNat 5)
def allParts : List PartId := (List.range 32).map (BitVec.ofNat 5)

/-- Folds a change over a list. -/
def forAll {α : Type} (l : List α) (f : State → α → State) (s : State) : State := l.foldl f s

/-! ### Cause codes (Table 19-2) -/

def cILLEGAL : BitVec 8 := 0x01
def cPC_RANGE : BitVec 8 := 0x02
def cALIGN : BitVec 8 := 0x03
def cFENCE : BitVec 8 := 0x04
def cWINDOW : BitVec 8 := 0x05
def cSEM_OVERFLOW : BitVec 8 := 0x06
def cSYNC_TIMEOUT : BitVec 8 := 0x07
def cTAG : BitVec 8 := 0x08
def cASK_LIMIT : BitVec 8 := 0x09
def cDECISION_TIMEOUT : BitVec 8 := 0x0A
def cCAPO_PENDING : BitVec 8 := 0x0B
def cCAPO_MISMATCH : BitVec 8 := 0x0C
def cCAPO_SEM : BitVec 8 := 0x0D
def cBANK_CONFLICT : BitVec 8 := 0x0E
def cBOUND : BitVec 8 := 0x0F
def cDRONE_WRITE : BitVec 8 := 0x10
def cRING_CONFIG : BitVec 8 := 0x11
def cRING_OVERFLOW : BitVec 8 := 0x12
def cRING_UNDERFLOW : BitVec 8 := 0x13
def cRING_SPLIT : BitVec 8 := 0x14
def cTILE_STATE : BitVec 8 := 0x15
def cMEMBER_RANGE : BitVec 8 := 0x16
def cDESC_MALFORMED : BitVec 8 := 0x17
def cDESC_EMPTY : BitVec 8 := 0x18
def cVL_RANGE : BitVec 8 := 0x19
def cVL_FORM : BitVec 8 := 0x1A
def cACC_RANGE : BitVec 8 := 0x1B
def cSTATE_CONFIG : BitVec 8 := 0x1C
def cSTATE_RANGE : BitVec 8 := 0x1D
def cWIN_RANGE : BitVec 8 := 0x1E
def cSCAN_MISMATCH : BitVec 8 := 0x1F
def cSPREAD_SHAPE : BitVec 8 := 0x20
def cCZ_TABLE : BitVec 8 := 0x21
def cCZ_INTEGRITY : BitVec 8 := 0x22
def cLINK_FAIL : BitVec 8 := 0x23
def cDATA_T0 : BitVec 8 := 0x40
def cDATA_T1 : BitVec 8 := 0x41
def cDATA_T2 : BitVec 8 := 0x42
def cSRAM_UE : BitVec 8 := 0x43
def cPART_UE : BitVec 8 := 0x60
def cCTRL_UE : BitVec 8 := 0x80
def cFABRIC_UE : BitVec 8 := 0x81
def cSERVICE_FENCE : BitVec 8 := 0x82
def cWATCHDOG : BitVec 8 := 0x83
def cCLOCK : BitVec 8 := 0x84
def cTHERMTRIP : BitVec 8 := 0x85
def cHBM_STACK : BitVec 8 := 0x86
def cCORRECTED : BitVec 8 := 0xA0
def cROW_SPARED : BitVec 8 := 0xA1
def cSPARES_EXHAUSTED : BitVec 8 := 0xA2
def cPAGE_RETIRED : BitVec 8 := 0xA3
def cIMAGE_LOST : BitVec 8 := 0xA4
def cEXPANDER_DOWN : BitVec 8 := 0xA5
def cPAIR_FAILED : BitVec 8 := 0xA6
def cDEVID_CONFLICT : BitVec 8 := 0xA7
def cENTROPY : BitVec 8 := 0xA8
def cSB_DATA : BitVec 8 := 0xA9

/-! ### Task errors (R99, R108) -/

/-- The core stops issuing with a task error, and the task keeps the error for its settlement (R99). -/
def raiseTaskAt (s : State) (c : CoreId) (cause : BitVec 8) (pc : BitVec 13) (addr : Option (BitVec 48)) (sym : BitVec 16) :
    State :=
  let s := modSeq s c fun q => { q with phase := .stopped cause pc }
  match partOfCore s c with
  | none => s
  | some p => modTask s p fun t => { t with errors := t.errors ++ [⟨cause, c, pc, addr, sym⟩] }

def raiseTask (s : State) (c : CoreId) (cause : BitVec 8) (pc : BitVec 13) : State := raiseTaskAt s c cause pc none 0

/-- Blocks in flight that the entries name, taken off their generation slots (R247). -/
def dropCounts (e : Engines) (l : List QEntry) : Engines :=
  l.foldl (fun e q => match q.gslot with
    | some (g, n) => { e with czSlots := tmod .reset e.czSlots g fun z => { z with count := z.count - BitVec.ofNat 32 n } }
    | none => e) e

/-- Each queue completes the command it is executing and abandons the rest (R108). -/
def abandonRest (s : State) (c : CoreId) : State :=
  modSeq s c fun q =>
    { q with
      dmaQ := q.dmaQ.filter (·.started), wlQ := q.wlQ.filter (·.started)
      mxQ := q.mxQ.filter (·.started), vxQ := q.vxQ.filter (·.started) }

/-- Every queue is emptied and started commands are abandoned, with their counts (R247, R282, R380). -/
def emptyQueues (s : State) (c : CoreId) : State :=
  modCore s c fun x =>
    { x with
      eng := dropCounts x.eng (x.seq.dmaQ.filter (·.started))
      seq := { x.seq with dmaQ := [], wlQ := [], mxQ := [], vxQ := [], seqQ := [] } }

end Sys2Proof.Machine
end

