-- ==== Sys2Proof/Machine/Operands.lean ====
section
/-! DEFINITION. Operand forms of the core commands: registers, index targets, the malformed words of every
row (R72, R73), task-relative addresses (R112), scratchpad reads and writes under suppression (R106). -/

namespace Sys2Proof.Machine
open Sys2Proof

/-! ### Registers and index targets -/

/-- A scalar register; s0 reads as zero (R69). -/
def sregT (t : Tbl W64) (k : Nat) : W64 := if k = 0 then 0 else tget 0 t k

def sreg (q : Seq) (k : Nat) : W64 := sregT q.sregs k

/-- Writes a scalar register; writes to s0 are discarded (R69). -/
def setSreg (q : Seq) (k : Nat) (v : W64) : Seq := if k = 0 then q else { q with sregs := tput 0 q.sregs k v }

/-- The value used for the index target at bits `[lo + 19 : lo]` (R73). -/
def idxVal (t : Tbl W64) (w : CmdWord) (lo : Nat) : Nat :=
  (wfld w (lo + 19) lo + (sregT t (wfld w 20 16)).toNat) % 2 ^ 20

/-! ### Malformed words (R72, R90) -/

/-- The mask of a list of fields. -/
def fieldMask (fs : List (Nat × Nat)) : Nat := fs.foldl (fun m f => m ||| ((2 ^ (f.1 - f.2 + 1) - 1) <<< f.2)) 0

/-- Every payload bit outside the fields is 0. -/
def onlyFields (w : CmdWord) (fs : List (Nat × Nat)) : Bool :=
  let m := fieldMask fs
  decide (((w.toNat >>> 32) <<< 32) ||| m = m)

/-- Classes without an index target, whose ix must be 0: SYNC, ADRAIN and VCHAIN (R73, R144, R167). -/
def noIndex : CmdRow → Bool
  | .post | .wait | .try_ | .drain | .fill | .vchain => true
  | _ => false

/-- Element sizes of the coding formats (Table 11-1). -/
def esizeOf (fmt : Nat) : Nat := match fmt with | 1 => 2 | 2 => 4 | 3 => 1 | 4 => 2 | 5 => 3 | _ => 1

/-- Blocks of a row of `n` elements (R241). -/
def blocksOf (n : Nat) : Nat := max 1 (cdiv n 256)
/-- Units of the block map (R241). -/
def mapUnits (n : Nat) : Nat := cdiv (4 * blocksOf n) 16
/-- Elements of block `i` of a row of `n`. -/
def blockCount (n i : Nat) : Nat := min n (256 * i + 256) - min n (256 * i)
/-- Raw size of a block of `k` elements, in units (R241). -/
def rawUnits (k esize : Nat) : Nat := cdiv (4 + k * esize) 16
/-- The largest extent of a row, in bytes (R241). -/
def emaxOf (len esize : Nat) : Nat :=
  let n := len / esize
  16 * (mapUnits n + ((List.range (blocksOf n)).map fun i => rawUnits (blockCount n i) esize).sum)

/-- R244: the coding attributes of a DMA word. -/
def czBad (row : CmdRow) (w : CmdWord) : Bool :=
  let cz := wfld w 114 111
  let fmt := cz % 8
  let dir := cz / 8
  let gs := wfld w 117 115
  let len := wfld w 82 62
  decide (fmt > 5) || (decide (dir = 1) && (decide (fmt = 0) || decide (row ≠ .dmaCopy))) ||
  (decide (cz ≠ 0) && decide (row = .dmaZero)) || (decide (gs ≠ 0) && decide (cz = 0)) ||
  (decide (cz ≠ 0) && decide (len % esizeOf fmt ≠ 0)) ||
  (decide (cz ≠ 0) && decide (wfld w 94 83 ≠ 0) && decide (wfld w 110 95 * 16 < emaxOf len (esizeOf fmt)))

/-- A DMA word (Table 11-4's attributes in `czBad`; Table 4-11). -/
def dmaBad (row : CmdRow) (t : Tbl W64) (w : CmdWord) : Bool :=
  let sp := decide (row = .dmaLoad) || decide (row = .dmaStore)
  !onlyFields w [(36, 32), (41, 37), (61, 42), (82, 62), (94, 83), (110, 95), (114, 111), (117, 115)] ||
  (decide (row ≠ .dmaCopy) && decide (wfld w 41 37 ≠ 0)) ||
  (!sp && decide (wfld w 61 42 ≠ 0)) || (sp && decide (idxVal t w 42 % 64 ≠ 0)) ||
  decide (wfld w 82 62 > 1048576) || czBad row w

/-- A CONFIG word: the fields of R90 and the slots and lengths of its target. -/
def cfgBad (row : CmdRow) (t : Tbl W64) (w : CmdWord) : Bool :=
  let slot := wfld w 59 52
  let len := wfld w 71 60
  let many (unit n : Nat) : Bool := decide (len % unit = 0) && decide (len ≥ unit) && decide (slot + len / unit ≤ n)
  !onlyFields w [(51, 32), (59, 52), (71, 60)] || decide (idxVal t w 32 % 64 ≠ 0) ||
  !(match row with
    | .cfgCtrl => decide (slot = 0) && decide (len = 1)
    | .cfgFret => many 12 64
    | .cfgCodebook => decide (slot % 2 = 0) && decide (slot ≤ 62) && decide (1 ≤ len) && decide (len ≤ (64 - slot) / 2)
    | .cfgDecay => many 12 16
    | .cfgRescale => many 33 16
    | .cfgTbl => many 9 16
    | .cfgCzLoad => decide (slot / 16 = 0) && decide (len = 5)
    | .cfgCzBuild =>
      let f := slot / 16 % 8
      decide (1 ≤ f) && decide (f ≤ 5) && decide (1 ≤ len) && decide (len * 64 % esizeOf f = 0)
    | .cfgBow =>
      (decide (slot = 0) || decide (slot = 8)) && decide (1 ≤ len) && decide (len ≤ 2) && decide (slot + 8 * len ≤ 16)
    | _ => false)

/-- A MATMUL word (R141). -/
def mmBad (row : CmdRow) (t : Tbl W64) (w : CmdWord) : Bool :=
  let form := wfld w 65 64
  let afmt := wfld w 67 66
  let plain := decide (row = .mmPlain) || decide (row = .mmAccum)
  let align := if form = 0 then 64 else if form = 1 then 32 else 2
  decide (wfld w 79 70 + wfld w 89 80 + 1 > 1024) || (decide (form ≠ 0) && decide (afmt ≠ 3)) ||
  (decide (wfld w 103 96 ≠ 0) && decide (afmt ≠ 2)) || (plain && decide (wfld w 127 104 ≠ 0)) ||
  decide (form = 3) || decide (idxVal t w 32 % align ≠ 0)

/-- Element widths of ADRAIN's forms, in bytes (Table 6-9). -/
def aformBytes (f : Nat) : Nat := match f with | 0 => 8 | 1 => 4 | 2 => 3 | _ => 2

/-- An ADRAIN word (R144, Table 6-9). -/
def adrainBad (w : CmdWord) : Bool :=
  let aform := wfld w 59 57
  let sh := wfld w 64 60
  !onlyFields w [(36, 32), (46, 37), (56, 47), (59, 57), (64, 60), (66, 65), (68, 67), (84, 69)] ||
  decide (wfld w 46 37 + wfld w 56 47 + 1 > 1024) || decide (aform > 3) || decide (sh > 24) ||
  (decide (aform = 0) && decide (sh ≠ 0)) || decide (wfld w 66 65 + wfld w 68 67 > 3) ||
  decide (wfld w 84 69 * 16 < 64 * (wfld w 68 67 + 1) * aformBytes aform)

/-- A STATEIO LOAD or SAVE word (R178). -/
def stBad (row : CmdRow) (w : CmdWord) : Bool :=
  let s24 := wbit w 104
  let sh := wfld w 109 105
  decide (wfld w 83 74 + wfld w 99 92 + 1 > 1024) || decide (wfld w 101 100 + wfld w 103 102 > 3) ||
  decide (sh > (if s24 then 16 else 24)) ||
  (decide (row = .stLoad) && (wbit w 111 || decide (wfld w 127 112 ≠ 0))) ||
  (decide (row = .stSave) && wbit w 110) || (!wbit w 111 && decide (wfld w 119 116 ≠ 0))

/-- Is a word of the row malformed when it reaches issue, with these registers (R72, R73)? -/
def malformed (row : CmdRow) (t : Tbl W64) (w : CmdWord) : Bool :=
  decide (wfld w 31 21 ≠ 0) || (noIndex row && decide (wfld w 20 16 ≠ 0)) ||
  (match row with
   | .nop | .end_ => !onlyFields w []
   | .li => !onlyFields w [(36, 32), (127, 64)]
   | .alu => !onlyFields w [(36, 32), (41, 37), (46, 42), (47, 47), (52, 48), (95, 64)] || decide (wfld w 52 48 > 15)
   | .br => !onlyFields w [(36, 32), (41, 37), (44, 42), (76, 64)] || decide (wfld w 44 42 = 7)
   | .loop => !onlyFields w [(36, 32), (76, 64)]
   | .ld | .st => !onlyFields w [(36, 32), (83, 64)]
   | .rdsys => !onlyFields w [(36, 32), (67, 64)] || decide (wfld w 67 64 > 7)
   | .dwait => !onlyFields w [(36, 32), (77, 62)]
   | .capo => !onlyFields w [(47, 32), (48, 48), (59, 49)] || decide (wfld w 59 49 > 1024)
   | .post | .wait => !onlyFields w [(37, 32), (63, 48)]
   | .try_ => !onlyFields w [(37, 32), (44, 40), (63, 48)]
   | .send =>
     !onlyFields w [(51, 32), (61, 52), (77, 62)] || decide (idxVal t w 32 % 64 ≠ 0)
   | .ask =>
     !onlyFields w [(51, 32), (61, 52), (77, 62), (97, 78), (104, 98)] || decide (idxVal t w 32 % 64 ≠ 0) ||
     decide (wfld w 97 78 % 64 ≠ 0) || decide (wfld w 104 98 = 0) || decide (wfld w 104 98 > 64)
   | .dmaLoad | .dmaStore | .dmaCopy | .dmaZero => dmaBad row t w
   | .ringSet => !onlyFields w [(35, 32), (40, 36), (54, 41), (83, 64)]
   | .ringPush | .ringPop | .ringHead | .ringTail | .ringOcc => !onlyFields w [(35, 32), (40, 36), (54, 41)]
   | .cfgCtrl | .cfgFret | .cfgCodebook | .cfgDecay | .cfgRescale | .cfgTbl | .cfgCzLoad | .cfgCzBuild | .cfgBow =>
     cfgBad row t w
   | .mmPlain | .mmAccum | .mmDecay | .mmRotate => mmBad row t w
   | .wload => !onlyFields w [(51, 32), (53, 52), (61, 54)] || decide (idxVal t w 32 % 512 ≠ 0)
   | .drain | .fill => adrainBad w
   | .vchain => decide (wfld w 127 123 ≠ 0)
   | .vdLoad => !onlyFields w [(51, 32), (55, 52)] || decide (idxVal t w 32 % 64 ≠ 0)
   | .vdSetvl => !onlyFields w [(32, 32), (37, 33), (46, 38)] || decide (wfld w 46 38 > 256)
   | .vdStats => !onlyFields w [(51, 32), (55, 52), (56, 56)] || decide (idxVal t w 32 % 32 ≠ 0)
   | .stLoad | .stSave => stBad row w
   | .stWread | .stWwrite =>
     decide (wfld w 127 122 ≠ 0) || decide (idxVal t w 32 % 64 ≠ 0) || decide (wfld w 85 74 = 0)
   | .spreadFwd | .spreadInv =>
     decide (wfld w 127 117 ≠ 0) || decide (idxVal t w 32 % 64 ≠ 0) || decide (wfld w 71 52 % 64 ≠ 0) ||
     decide (wfld w 91 72 % 32 ≠ 0) || decide (wfld w 93 92 = 3)
   | .scan =>
     decide (wfld w 127 111 ≠ 0) || (!wbit w 52 && decide (idxVal t w 32 % 64 ≠ 0)) || (wbit w 52 && wbit w 53) ||
     decide (wfld w 65 64 = 3) || decide (wfld w 110 91 % 128 ≠ 0)
   | .merge =>
     decide (wfld w 127 79 ≠ 0) || decide (idxVal t w 32 % 128 ≠ 0) || decide (wfld w 78 59 % 128 ≠ 0)
   | .pick => decide (wfld w 127 59 ≠ 0) || decide (idxVal t w 32 % 128 ≠ 0))

/-! ### Task-relative addresses (R112) -/

def workTop (t : SpTask) : Nat := t.bound.toNat * 4096
def droneBot (t : SpTask) : Nat := 0x100000 - t.dsize.toNat * 4096

/-- The core address of a task-relative address; `none` is BOUND. -/
def xlat (t : SpTask) (a : Nat) : Option Nat :=
  if a < workTop t then some (t.baseGrp.toNat * 0x20000 + a)
  else if a ≥ droneBot t ∧ a < 0x100000 then some (t.dbase.toNat * 4096 + (a - droneBot t))
  else none

/-- A checked range: is it written, first address, length. -/
structure SpRange where
  write : Bool
  addr : Nat
  len : Nat
  deriving DecidableEq, Repr

/-- The check of one operand range (R112): the error it raises, if any. -/
def rangeErr (t : SpTask) (r : SpRange) : Option (BitVec 8) :=
  if r.len = 0 then none
  else if r.addr + r.len ≤ workTop t then none
  else if r.addr ≥ droneBot t ∧ r.addr + r.len ≤ 0x100000 then (if r.write then some cDRONE_WRITE else none)
  else some cBOUND

/-- The first error of a list of ranges. -/
def rangesErr (t : SpTask) : List SpRange → Option (BitVec 8)
  | [] => none
  | r :: rest => match rangeErr t r with
    | some e => some e
    | none => rangesErr t rest

/-- The bytes of a task-relative range; `zeros` are 64-byte words that deliver zeros (R396). -/
def spRead (x : CoreSt) (zeros : List Nat) (a n : Nat) : List Byte :=
  (List.range n).map fun i =>
    match xlat x.spTask (a + i) with
    | none => 0
    | some p => if zeros.contains (p / 64) then 0 else Memory.rd x.eng.sp p

/-- Bytes to write at task-relative addresses, as core addresses. -/
def spWrites (x : CoreSt) (a : Nat) (b : List Byte) : List (Nat × Byte) :=
  b.zipIdx.filterMap fun (v, i) => (xlat x.spTask (a + i)).map fun p => (p, v)

/-! ### Grants (R258) -/

/-- The requests of the monitor's ring (R355, Table 17-1); the spec gives them no codes, and these are the model's (log 118). -/
def opGRANT : Nat := 0
def opREVOKE : Nat := 1
def opVERIFY : Nat := 2
def opRELEASE : Nat := 3
def opFENCE : Nat := 4
def opKEYS : Nat := 5
def opDRONE : Nat := 6

/-- The answer returned in the ring of 16 entries. -/
def answer (s : State) (op : Nat) (refused : Bool) : State :=
  let l := s.mon.ring ++ [⟨op, refused⟩]
  { s with mon := { s.mon with ring := l.drop (l.length - 16) } }

def gBase (e : BitVec 128) : Nat := nfld e.toNat 35 0 * 4096
def gSize (e : BitVec 128) : Nat := nfld e.toNat 65 36 * 4096
def gPart (e : BitVec 128) : PartId := BitVec.ofNat 5 (nfld e.toNat 70 66)
def gJob (e : BitVec 128) : JobNo := BitVec.ofNat 16 (nfld e.toNat 86 71)
def gPartR (e : BitVec 128) : Bool := e.getLsbD 87
def gPartW (e : BitVec 128) : Bool := e.getLsbD 88
def gSvcR (e : BitVec 128) : Bool := e.getLsbD 89
def gSvcW (e : BitVec 128) : Bool := e.getLsbD 90
def gSealed (e : BitVec 128) : Bool := e.getLsbD 91
def gKey (e : BitVec 128) : PartId := BitVec.ofNat 5 (nfld e.toNat 96 92)

/-- The entry covers the address. -/
def gCovers (e : BitVec 128) (a : Nat) : Bool := decide (gBase e ≤ a) && decide (a < gBase e + gSize e)

/-- A sealed entry is readable while its partition's key slot holds keys (R267, R269, log 11). -/
def gReadable (s : State) (e : BitVec 128) : Bool := !gSealed e || (tfind s.mon.keys (gKey e).toNat).isSome

/-- One entry that `ok` permits holds every byte of `[a, a + n)` (R258, R299, log 65). -/
def inOneGrant (g : List (BitVec 128)) (ok : BitVec 128 → Bool) (a n : Nat) : Bool :=
  decide (n = 0) || g.any fun e => decide (gBase e ≤ a) && decide (a + n ≤ gBase e + gSize e) && ok e

/-- May the cores of partition `p`, for job `j`, make the access (R258)? -/
def partGrant (s : State) (p : PartId) (j : JobNo) (write : Bool) (a n : Nat) : Bool :=
  decide (a + n ≤ tierEnd) &&
  inOneGrant s.mon.grants
    (fun e => decide (gPart e = p) && (decide (gJob e = 0) || decide (gJob e = j)) &&
      (if write then gPartW e else gPartR e) && gReadable s e) a n

/-- May a service requester make the access (R258)? -/
def svcGrant (s : State) (write : Bool) (a n : Nat) : Bool :=
  decide (a + n ≤ tierEnd) &&
  inOneGrant s.mon.grants (fun e => (if write then gSvcW e else gSvcR e) && gReadable s e) a n

/-- Does any byte of the range lie in a sealed region (R246)? -/
def touchesSealed (s : State) (a n : Nat) : Bool :=
  s.mon.grants.any fun e => gSealed e && decide (a < gBase e + gSize e) && decide (gBase e < a + n)

/-- The device number of a global address, and its local part (R86). -/
def gaDev (v : W64) : Nat := nfld v.toNat 61 48
def gaLocal (v : W64) : Nat := nfld v.toNat 47 0
def gaBad (v : W64) : Bool := decide (nfld v.toNat 63 62 ≠ 0)

end Sys2Proof.Machine
end

