-- ==== Sys2Proof/Machine/Hash.lean ====
section
/-! DEFINITION. SHA-384 (R358, R360) and HMAC-SHA-384 (R366), the published standards that the spec names. Words are natural numbers
below 2^64. -/

namespace Sys2Proof.Machine
open Sys2Proof

/-- The 64 fractional bits of the cube roots of the first 80 primes. -/
def shaK : List Nat :=
  [0x428a2f98d728ae22, 0x7137449123ef65cd, 0xb5c0fbcfec4d3b2f, 0xe9b5dba58189dbbc, 0x3956c25bf348b538,
   0x59f111f1b605d019, 0x923f82a4af194f9b, 0xab1c5ed5da6d8118, 0xd807aa98a3030242, 0x12835b0145706fbe,
   0x243185be4ee4b28c, 0x550c7dc3d5ffb4e2, 0x72be5d74f27b896f, 0x80deb1fe3b1696b1, 0x9bdc06a725c71235,
   0xc19bf174cf692694, 0xe49b69c19ef14ad2, 0xefbe4786384f25e3, 0x0fc19dc68b8cd5b5, 0x240ca1cc77ac9c65,
   0x2de92c6f592b0275, 0x4a7484aa6ea6e483, 0x5cb0a9dcbd41fbd4, 0x76f988da831153b5, 0x983e5152ee66dfab,
   0xa831c66d2db43210, 0xb00327c898fb213f, 0xbf597fc7beef0ee4, 0xc6e00bf33da88fc2, 0xd5a79147930aa725,
   0x06ca6351e003826f, 0x142929670a0e6e70, 0x27b70a8546d22ffc, 0x2e1b21385c26c926, 0x4d2c6dfc5ac42aed,
   0x53380d139d95b3df, 0x650a73548baf63de, 0x766a0abb3c77b2a8, 0x81c2c92e47edaee6, 0x92722c851482353b] ++
  [0xa2bfe8a14cf10364, 0xa81a664bbc423001, 0xc24b8b70d0f89791, 0xc76c51a30654be30, 0xd192e819d6ef5218,
   0xd69906245565a910, 0xf40e35855771202a, 0x106aa07032bbd1b8, 0x19a4c116b8d2d0c8, 0x1e376c085141ab53,
   0x2748774cdf8eeb99, 0x34b0bcb5e19b48a8, 0x391c0cb3c5c95a63, 0x4ed8aa4ae3418acb, 0x5b9cca4f7763e373,
   0x682e6ff3d6b2b8a3, 0x748f82ee5defb2fc, 0x78a5636f43172f60, 0x84c87814a1f0ab72, 0x8cc702081a6439ec,
   0x90befffa23631e28, 0xa4506cebde82bde9, 0xbef9a3f7b2c67915, 0xc67178f2e372532b, 0xca273eceea26619c,
   0xd186b8c721c0c207, 0xeada7dd6cde0eb1e, 0xf57d4f7fee6ed178, 0x06f067aa72176fba, 0x0a637dc5a2c898a6,
   0x113f9804bef90dae, 0x1b710b35131c471b, 0x28db77f523047d84, 0x32caab7b40c72493, 0x3c9ebe0a15c9bebc,
   0x431d67c49c100d4c, 0x4cc5d4becb3e42b6, 0x597f299cfc657e2a, 0x5fcb6fab3ad6faec, 0x6c44198c4a475817]

/-- The working variables, a to h. -/
structure Sha where
  a : Nat
  b : Nat
  c : Nat
  d : Nat
  e : Nat
  f : Nat
  g : Nat
  h : Nat
  deriving DecidableEq, Repr

/-- The hash value before the first block: the fractional bits of the square roots of the 9th to the 16th prime. -/
def shaInit : Sha :=
  ⟨0xcbbb9d5dc1059ed8, 0x629a292a367cd507, 0x9159015a3070dd17, 0x152fecd8f70e5939,
   0x67332667ffc00b31, 0x8eb44a8768581511, 0xdb0c2e0d64f98fa7, 0x47b5481dbefa4fa4⟩

def word64 (x : Nat) : Nat := x % 0x10000000000000000

def rotr64 (x r : Nat) : Nat := (x >>> r) ||| word64 (x <<< (64 - r))

def shaRot (x i j k : Nat) : Nat := (rotr64 x i ^^^ rotr64 x j) ^^^ rotr64 x k

def shaShr (x i j k : Nat) : Nat := (rotr64 x i ^^^ rotr64 x j) ^^^ (x >>> k)

/-- The next word of the message schedule, from the last sixteen. -/
def schedWord (w : List Nat) : Nat :=
  word64 (shaShr (w.getD 14 0) 19 61 6 + w.getD 9 0 + shaShr (w.getD 1 0) 1 8 7 + w.getD 0 0)

/-- `n` words of the schedule, whose last sixteen so far are `w`. -/
def schedule : Nat → List Nat → List Nat
  | 0, _ => []
  | n + 1, w => w.headD 0 :: schedule n (w.drop 1 ++ [schedWord w])

/-- One round, with `k` the sum of its constant and its schedule word. -/
def shaRound (s : Sha) (k : Nat) : Sha :=
  let t1 := s.h + shaRot s.e 14 18 41 + ((s.e &&& s.f) ^^^ ((s.e ^^^ 0xFFFFFFFFFFFFFFFF) &&& s.g)) + k
  let t2 := shaRot s.a 28 34 39 + (((s.a &&& s.b) ^^^ (s.a &&& s.c)) ^^^ (s.b &&& s.c))
  ⟨word64 (t1 + t2), s.a, s.b, s.c, word64 (s.d + t1), s.e, s.f, s.g⟩

def addSha (x y : Sha) : Sha :=
  ⟨word64 (x.a + y.a), word64 (x.b + y.b), word64 (x.c + y.c), word64 (x.d + y.d),
   word64 (x.e + y.e), word64 (x.f + y.f), word64 (x.g + y.g), word64 (x.h + y.h)⟩

/-- One block of sixteen words. -/
def shaBlock (s : Sha) (w : List Nat) : Sha :=
  addSha s (((schedule 80 w).zip shaK).foldl (fun s k => shaRound s (k.1 + k.2)) s)

/-- A big-endian number. -/
def beNat (l : List Byte) : Nat := l.foldl (fun n b => n * 256 + b.toNat) 0

/-- The bytes of a number of `n` bytes, big-endian. -/
def beBytes (n v : Nat) : List Byte := (leBytes n v).reverse

/-- The message with its padding: a one bit, zeros, and its length in bits, to whole blocks of 128 bytes. -/
def shaPad (l : List Byte) : List Byte :=
  l ++ 0x80 :: List.replicate ((239 - l.length % 128) % 128) 0 ++ beBytes 16 (8 * l.length)

/-- `n` words of eight bytes, big-endian. -/
def beWords : Nat → List Byte → List Nat
  | 0, _ => []
  | n + 1, l => beNat (l.take 8) :: beWords n (l.drop 8)

def shaBlocks : Nat → Sha → List Byte → Sha
  | 0, s, _ => s
  | n + 1, s, l => shaBlocks n (shaBlock s (beWords 16 l)) (l.drop 128)

/-- SHA-384: 48 bytes, in the order in which the standard outputs them. -/
def sha384Bytes (l : List Byte) : List Byte :=
  let p := shaPad l
  let s := shaBlocks (p.length / 128) shaInit p
  [s.a, s.b, s.c, s.d, s.e, s.f].flatMap (beBytes 8)

/-- A digest as it is held: byte j in bits [8j + 7:8j] (R360). -/
def sha384 (l : List Byte) : BitVec 384 := BitVec.ofNat 384 (leNat (sha384Bytes l))

/-- HMAC-SHA-384 with a key of at most 128 bytes. -/
def hmac384 (key msg : List Byte) : List Byte :=
  let k := key ++ List.replicate (128 - key.length) 0
  sha384Bytes (k.map (· ^^^ 0x5C) ++ sha384Bytes (k.map (· ^^^ 0x36) ++ msg))

end Sys2Proof.Machine
end

