-- ==== Sys2Proof/Machine/Curve.lean ====
section
/-! DEFINITION. ECDSA on brainpoolP384r1 (R357 to R366), the published standard that the spec names. -/

namespace Sys2Proof.Machine
open Sys2Proof

/-! ### The curve -/

/-- The prime of the field. -/
def ecP : Nat := 0x8cb91e82a3386d280f5d6f7e50e641df152f7109ed5456b412b1da197fb71123acd3a729901d1a71874700133107ec53
def ecA : Nat := 0x7bc382c63d8c150c3c72080ace05afa0c2bea28e4fb22787139165efba91f90f8aa5814a503ad4eb04a8c7dd22ce2826
def ecB : Nat := 0x4a8c7dd22ce28268b39b55416f0447c2fb77de107dcd2a62e880ea53eeb62d57cb4390295dbc9943ab78696fa504c11
/-- The order of the base point. -/
def ecN : Nat := 0x8cb91e82a3386d280f5d6f7e50e641df152f7109ed5456b31f166e6cac0425a7cf3ab6af6b7fc3103b883202e9046565

/-- A point in Jacobian coordinates, x / z^2 and y / z^3; z = 0 is the point at infinity. -/
structure EcPoint where
  x : Nat
  y : Nat
  z : Nat
  deriving DecidableEq, Repr

/-- The base point. -/
def ecG : EcPoint :=
  ⟨0x1d1c64f068cf45ffa2a63a81b7c13f6b8847a3e77ef14fe3db7fcafe0cbd10e8e826e03436d646aaef87b2e247d4af1e,
   0x8abe1d7520f9c2a45cb1eb8e95cfd55262b70b29feec5864e19c054ff99129280e4646217791811142820341263c5315, 1⟩

/-- The difference in the field. -/
def subP (a b : Nat) : Nat := (a + (ecP - b)) % ecP

/-- Twice a point. -/
def ecDouble (q : EcPoint) : EcPoint :=
  let yy := q.y * q.y % ecP
  let zz := q.z * q.z % ecP
  let s := 4 * q.x * yy % ecP
  let m := (3 * q.x * q.x + ecA * (zz * zz % ecP)) % ecP
  let x := subP (m * m % ecP) (2 * s % ecP)
  ⟨x, subP (m * subP s x % ecP) (8 * (yy * yy) % ecP), 2 * q.y * q.z % ecP⟩

/-- The sum of two points. -/
def ecAdd (p q : EcPoint) : EcPoint :=
  if p.z = 0 then q
  else if q.z = 0 then p
  else
    let pz := p.z * p.z % ecP
    let qz := q.z * q.z % ecP
    let u := p.x * qz % ecP
    let s := p.y * (qz * q.z % ecP) % ecP
    let h := subP (q.x * pz % ecP) u
    let r := subP (q.y * (pz * p.z % ecP) % ecP) s
    if h = 0 then (if r = 0 then ecDouble p else ⟨1, 1, 0⟩)
    else
      let hh := h * h % ecP
      let hhh := h * hh % ecP
      let v := u * hh % ecP
      let x := subP (r * r % ecP) ((hhh + 2 * v) % ecP)
      ⟨x, subP (r * subP v x % ecP) (s * hhh % ecP), p.z * q.z % ecP * h % ecP⟩

/-- A multiple of a point, by the bits of the scalar from bit `n - 1` down. -/
def ecMulFrom (k : Nat) (q : EcPoint) : Nat → EcPoint → EcPoint
  | 0, a => a
  | n + 1, a =>
    let d := ecDouble a
    ecMulFrom k q n (if k.testBit n then ecAdd d q else d)

def ecMul (k : Nat) (q : EcPoint) : EcPoint := ecMulFrom k q 384 ⟨1, 1, 0⟩

/-- A power modulo `m`, by the bits of the exponent from bit `n - 1` down. -/
def powFrom (m b e : Nat) : Nat → Nat → Nat
  | 0, a => a
  | n + 1, a =>
    let s := a * a % m
    powFrom m b e n (if e.testBit n then s * b % m else s)

/-- The inverse modulo a prime below 2^384. -/
def invMod (m x : Nat) : Nat := powFrom m (x % m) (m - 2) 384 1

/-- The affine x coordinate, and y. -/
def ecAffine (q : EcPoint) : Nat × Nat :=
  let i := invMod ecP q.z
  let ii := i * i % ecP
  (q.x * ii % ecP, q.y * (ii * i % ecP) % ecP)

/-! ### Keys and signatures -/

/-- A public key held as its 97 bytes, byte j in bits [8j + 7:8j]: 04, then x and y, big-endian (R6). -/
def keyBytes (k : BitVec 776) : List Byte := leBytes 97 k.toNat

/-- The point that a public key names: uncompressed, and on the curve. -/
def keyPoint (k : BitVec 776) : Option EcPoint :=
  let b := keyBytes k
  let x := beNat ((b.drop 1).take 48)
  let y := beNat (b.drop 49)
  if b.head? = some 4 ∧ x < ecP ∧ y < ecP ∧ (y * y % ecP) = (x * x * x + ecA * x + ecB) % ecP then some ⟨x, y, 1⟩ else none

/-- The public key of a secret scalar. -/
def publicKey (secret : BitVec 384) : BitVec 776 :=
  let a := ecAffine (ecMul (secret.toNat % ecN) ecG)
  BitVec.ofNat 776 (leNat ((4 : Byte) :: beBytes 48 a.1 ++ beBytes 48 a.2))

/-- The number that a digest stands for in a signature: its bytes, big-endian. -/
def digestNat (d : BitVec 384) : Nat := beNat (leBytes 48 d.toNat)

/-- A signature held as its 96 bytes: r, then s, each big-endian. -/
def sigR (g : BitVec 768) : Nat := beNat ((leBytes 96 g.toNat).take 48)
def sigS (g : BitVec 768) : Nat := beNat ((leBytes 96 g.toNat).drop 48)

/-- The signature verifies for key and digest. -/
def ecdsaOk (key : BitVec 776) (d : BitVec 384) (g : BitVec 768) : Bool :=
  let r := sigR g
  let s := sigS g
  match keyPoint key with
  | none => false
  | some q =>
    decide (0 < r ∧ r < ecN ∧ 0 < s ∧ s < ecN) &&
    (let w := invMod ecN s
     let t := ecAdd (ecMul (digestNat d * w % ecN) ecG) (ecMul (r * w % ecN) q)
     decide (t.z ≠ 0) && decide ((ecAffine t).1 % ecN = r))

/-- The signature of a digest with the secret scalar and the one-time number `k`. -/
def ecdsaSign (secret : BitVec 384) (d : BitVec 384) (k : Nat) : BitVec 768 :=
  let k := if k % ecN = 0 then 1 else k % ecN
  let r := (ecAffine (ecMul k ecG)).1 % ecN
  let s := invMod ecN k * (digestNat d + r * secret.toNat) % ecN
  BitVec.ofNat 768 (leNat (beBytes 48 r ++ beBytes 48 s))

end Sys2Proof.Machine
end

