-- ==== Sys2Proof/Machine/HostOps.lean ====
section
/-! DEFINITION. Shared operations of the host interface: life-cycle state, writes into host memory, posting of
messages, MSI-X vectors, results and events (14, 15, R367). -/

namespace Sys2Proof.Machine
open Sys2Proof

/-! ### Life cycle (R367) -/

def lcMANUFACTURE : Nat := 0
def lcPROVISIONED : Nat := 1
def lcDEPLOYED : Nat := 2
def lcFIELD_DEBUG : Nat := 3
def lcRETIRED : Nat := 4

/-- The life-cycle state derived from the fuses (R367). -/
def lcState (u : Fuses) : Nat :=
  if u.retired then lcRETIRED
  else if !u.prov then lcMANUFACTURE
  else if !u.ownerBurnt then lcPROVISIONED
  else if u.debugUsed.toNat % 2 = 1 then lcFIELD_DEBUG
  else lcDEPLOYED

/-! ### Host memory -/

/-- The device writes bytes into a function's host memory; nothing leaves for a host after a device error
until recovery (R402), nor for a function that is not enabled. -/
def hostWr (s : State) (f : Func) (a : Nat) (b : List Byte) : State :=
  if hostQuiet s then s else { s with hostMem := Memory.wrs s.hostMem (f.toNat * 2 ^ 64 + a) b }

/-! ### MSI-X (R309) -/

def getVec (x : Fn) (v : Nat) : Vec := tget .reset x.vecs v
def setVec (x : Fn) (v : Nat) (y : Vec) : Fn := { x with vecs := tput .reset x.vecs v y }

/-- Sends the vector's interrupt, or sets its pending bit where it is masked. -/
def fireVec (y : Vec) : Vec :=
  if y.masked then { y with pend := true, count := 0, first := none }
  else { y with sent := y.sent + 1, count := 0, first := none }

/-- A message of vector `v` has been posted at device time `now`. -/
def vecPosted (x : Fn) (now : W64) (v : Nat) : Fn :=
  let y := getVec x v
  let y := { y with count := y.count + 1, first := some (y.first.getD now) }
  setVec x v (if x.holdoff = 0 ∨ x.count.toNat ≤ y.count then fireVec y else y)

/-! ### Messages (R302, R305) -/

def kRESULT : BitVec 2 := 0
def kCHUNK_DONE : BitVec 2 := 1
def kEVENT : BitVec 2 := 2

/-- The outbound slot of a message (Table 14-5). -/
def slotOfMsg (seq : BitVec 8) (m : Msg) : BitVec 512 :=
  m.payload ++ m.status ++ m.tag ++ m.code ++ seq ++ (0#4) ++ BitVec.ofBool m.lost ++ m.kind ++ (1#1)

/-- The vector that a message signals (R309). -/
def msgVec (m : Msg) : Nat := if m.kind = kCHUNK_DONE then m.tag.toNat % 2048 else 0

/-- Moves queued messages into the slots that the device owns, in ring order. -/
def drainOut (now : W64) : Nat → Fn → Fn
  | 0, x => x
  | fuel + 1, x =>
    match x.outQ with
    | [] => x
    | m :: rest =>
      let n := x.outNext.toNat
      if (tget 0 x.outbound n).getLsbD 0 then x
      else
        let x := { x with
          outbound := tput 0 x.outbound n (slotOfMsg x.msgSeq m)
          outNext := x.outNext + 1, msgSeq := x.msgSeq + 1, outQ := rest }
        drainOut now fuel (vecPosted x now (msgVec m))

/-- A message enters the function's outbound queue (R305). -/
def pushMsg (now : W64) (x : Fn) (m : Msg) : Fn :=
  let chunk := decide (m.kind = kCHUNK_DONE)
  if chunk ∧ x.outQ.length + 1 > 4032 then
    { x with lost := true, nLost := satAdd x.nLost 1, lostNext := true }
  else
    let m := { m with lost := chunk && x.lostNext }
    let x := { x with outQ := x.outQ ++ [m], lostNext := if chunk then false else x.lostNext }
    drainOut now 65 x

/-- Posts a message to a function; none is posted after a device error until recovery (R402). -/
def postMsg (s : State) (f : Func) (m : Msg) : State :=
  if hostQuiet s then s else modFn s f fun x => if x.enabled then pushMsg s.time x m else x

/-- A RESULT (Table 14-5). -/
def postResult (s : State) (f : Func) (op tag : BitVec 16) (status : BitVec 16) (res : Nat) : State :=
  postMsg s f ⟨kRESULT, op, tag, status, BitVec.ofNat 448 res, false⟩

/-- An EVENT (Table 15-12). -/
def postEvent (s : State) (f : Func) (code : BitVec 16) (payload : Nat) : State :=
  postMsg s f ⟨kEVENT, code, 0, 0, BitVec.ofNat 448 payload, false⟩

def evJOB_END : BitVec 16 := 0x0001
def evMODEL_FAULTED : BitVec 16 := 0x0002
def evSTREAM_ARRIVED : BitVec 16 := 0x0003
def evERROR : BitVec 16 := 0x0010

/-- JOB_END for a job of a partition, to the partition's owner (R285, Table 15-12). -/
def postJobEnd (s : State) (p : PartId) (j : JobNo) (reason : BitVec 8) : State :=
  postEvent s (getPart s p).owner evJOB_END (p.toNat + j.toNat * 2 ^ 16 + reason.toNat * 2 ^ 32)

/-! ### Status codes (Table 15-2) -/

def stOK : BitVec 16 := 0x0000
def stPARTIAL : BitVec 16 := 0x0001
def stMALFORMED : BitVec 16 := 0x0002
def stUNKNOWN_OP : BitVec 16 := 0x0003
def stLEVEL : BitVec 16 := 0x0004
def stPF_ONLY : BitVec 16 := 0x0005
def stMB_SEQ : BitVec 16 := 0x0006
def stNOT_OWNER : BitVec 16 := 0x0007
def stHOST_FAULT : BitVec 16 := 0x0008
def stBUSY : BitVec 16 := 0x0009
def stFUNC_STATE : BitVec 16 := 0x000A
def stSTREAM_STATE : BitVec 16 := 0x0010
def stINBOX_FULL : BitVec 16 := 0x0011
def stSTREAMS_FULL : BitVec 16 := 0x0012
def stRING_SIZE : BitVec 16 := 0x0013
def stPROFILES_FULL : BitVec 16 := 0x0014
def stPROFILE_INVALID : BitVec 16 := 0x0015
def stSB_CAPACITY : BitVec 16 := 0x0016
def stMODEL_FULL : BitVec 16 := 0x0020
def stMODEL_STATE : BitVec 16 := 0x0021
def stMODEL_BUSY : BitVec 16 := 0x0022
def stIMAGE_INVALID : BitVec 16 := 0x0023
def stNO_PARTITION : BitVec 16 := 0x0024
def stNO_COURSE : BitVec 16 := 0x0025
def stNO_TWO_PASS : BitVec 16 := 0x0026
def stMODEL_REMOTE : BitVec 16 := 0x0027
def stNO_VARIANT : BitVec 16 := 0x0030
def stSP_PLAN : BitVec 16 := 0x0031
def stDRONE_FULL : BitVec 16 := 0x0032
def stTIER_FULL : BitVec 16 := 0x0033
def stJOB_LIMIT : BitVec 16 := 0x0034
def stCOURSE_BUSY : BitVec 16 := 0x0035
def stPART_LIMIT : BitVec 16 := 0x0036
def stPART_STATE : BitVec 16 := 0x0037
def stCOURSE_COUNT : BitVec 16 := 0x0038
def stJOB_STATE : BitVec 16 := 0x0039
def stNO_WINDOW : BitVec 16 := 0x0040
def stWINDOW_LIMIT : BitVec 16 := 0x0041
def stWINDOW_SIZE : BitVec 16 := 0x0042
def stFENCE : BitVec 16 := 0x0043
def stMIGRATE_FAIL : BitVec 16 := 0x0044
def stWINDOW_TAKEN : BitVec 16 := 0x0045

/-! ### Trace records (R333, Table 15-11) -/

/-- Writes a trace record into the ring of a partition that traces events of class `bit`. -/
def traceRec (s : State) (p : PartId) (bit : Nat) (event : Nat) (job : JobNo) (detail : Nat) (bundle : W32) : State :=
  match (getPart s p).trace with
  | none => s
  | some t =>
    if !t.events.getLsbD bit then s
    else
      let r := event + (if t.phase then 2 ^ 8 else 0) + job.toNat * 2 ^ 16 + (detail % 2 ^ 32) * 2 ^ 32 +
        s.time.toNat * 2 ^ 64 + bundle.toNat * 2 ^ 128
      let s := hostWr s t.f (t.addr.toNat + 32 * t.head) (leBytes 32 r)
      let h := t.head + 1
      let t := if 32 * h ≥ t.size.toNat then { t with head := 0, phase := !t.phase } else { t with head := h }
      modPart s p fun x => { x with trace := some t }

end Sys2Proof.Machine
end

