-- ==== Sys2Proof/Machine/ErrorOps.lean ====
section
/-! DEFINITION. Error records and the monitor's handling of corrected scratchpad errors (R121 to R123,
R393 to R409). -/

namespace Sys2Proof.Machine
open Sys2Proof

/-- What an error record says (Table 19-4); a `none` leaves its fields zero and its valid bit 0. -/
structure ErrInfo where
  cause : BitVec 8
  source : BitVec 3
  outcome : BitVec 3
  part : Option (PartId × JobNo × W32)
  core : Option (CoreId × BitVec 13)
  addr : Option (BitVec 48)
  handle : Option Handle
  detail : BitVec 16
  members : BitVec 16
  count : W32
  deriving DecidableEq, Repr

/-- A record of a cause and a source, with nothing else known. -/
def errInfo (cause : BitVec 8) (source : BitVec 3) : ErrInfo := ⟨cause, source, 0, none, none, none, none, 0, 0, 1⟩

/-- The severity of a cause (Tables 19-1, 19-2). -/
def severityOf (cause : BitVec 8) : BitVec 2 :=
  if cause.toNat < 0x60 then 1 else if cause.toNat < 0x80 then 2 else if cause.toNat < 0xA0 then 3 else 0

/-- The 64-byte record (Table 19-4). -/
def errBits (seq : W32) (now : W64) (i : ErrInfo) : BitVec 512 :=
  let p := i.part.getD (0, 0, 0)
  let c := i.core.getD (0, 0)
  let b (x : Bool) : Nat := if x then 1 else 0
  BitVec.ofNat 512 <|
    seq.toNat + i.cause.toNat * 2 ^ 32 + (severityOf i.cause).toNat * 2 ^ 40 + i.source.toNat * 2 ^ 42 +
    i.outcome.toNat * 2 ^ 45 + p.1.toNat * 2 ^ 48 + b i.part.isSome * 2 ^ 53 + p.2.1.toNat * 2 ^ 64 +
    c.1.toNat * 2 ^ 80 + b i.core.isSome * 2 ^ 87 + c.2.toNat * 2 ^ 88 + now.toNat * 2 ^ 128 +
    (i.addr.getD 0).toNat * 2 ^ 192 + b i.addr.isSome * 2 ^ 240 + (i.handle.getD 0).toNat * 2 ^ 256 +
    b i.handle.isSome * 2 ^ 272 + p.2.2.toNat * 2 ^ 288 + i.detail.toNat * 2 ^ 320 + i.members.toNat * 2 ^ 336 +
    i.count.toNat * 2 ^ 352

/-- Writes a record into the error ring, rewrites the summary, and posts the ERROR event (R405, R406). A
runtime that does not run writes none. -/
def logError (s : State) (i : ErrInfo) : State :=
  if !rtRuns s then s
  else
    let seq := s.tele.nextSeq
    let sev := severityOf i.cause
    let t := s.tele
    let t := { t with
      errRing := tput 0 t.errRing (seq.toNat % 256) (errBits seq s.time i), nextSeq := seq + 1, errUpd := t.errUpd + 2
      nTask := if sev = 1 then t.nTask + 1 else t.nTask
      nPart := if sev = 2 then t.nPart + 1 else t.nPart
      nReport := if sev = 0 then t.nReport + 1 else t.nReport }
    let s := { s with tele := t }
    if i.cause = cCORRECTED then s
    else
      let p := i.part.getD (0, 0, 0)
      postEvent s 0 evERROR (seq.toNat + i.cause.toNat * 2 ^ 32 + sev.toNat * 2 ^ 40 + p.1.toNat * 2 ^ 48 + p.2.1.toNat * 2 ^ 64)

/-- The part, job and bundle number of a partition's task. -/
def taskPart (s : State) (p : PartId) : Option (PartId × JobNo × W32) :=
  (getPart s p).task.map fun t => (p, t.job, (t.bundle.map (·.no)).getD 0)

/-! ### Records of task errors (R404, R409) -/

def errSource (cause : BitVec 8) : BitVec 3 :=
  if cause = cDATA_T0 then 1 else if cause = cDATA_T1 then 2 else if cause = cDATA_T2 then 3 else 0

/-- The record of a task error. -/
def taskErrInfo (s : State) (p : PartId) (e : TaskErr) (outcome : BitVec 3) (members : Nat) : ErrInfo :=
  { cause := e.cause, source := errSource e.cause, outcome := outcome, part := taskPart s p, core := some (e.core, e.pc), addr := e.addr
    handle := none, detail := e.sym, members := BitVec.ofNat 16 members, count := 1 }

/-- Every error of a task is recorded: the first with the outcome, later ones with none (R409). -/
def logTaskErrors (s : State) (p : PartId) (t : Task) (o : BitVec 3) : State :=
  let n := match t.bundle with | some b => b.members.length | none => 0
  t.errors.zipIdx.foldl (fun s (e, i) =>
    let s := logError s (taskErrInfo s p e (if i = 0 then o else 0) (if i = 0 then n else 0))
    traceRec s p 2 6 t.job e.cause.toNat ((t.bundle.map (·.no)).getD 0)) s

/-! ### Corrected scratchpad errors and sparing (R121 to R123) -/

/-- 24 hours of device time, in ticks. -/
def dayTicks : Nat := 8640000000000

/-- Times within the last 24 hours. -/
def lastDay (now : W64) (l : List W64) : List W64 := l.filter fun t => decide ((now - t).toNat ≤ dayTicks)

/-- Does the monitor spare rows in the field (R123)? -/
def sparesInField (s : State) : Bool :=
  let lc := lcState s.fuses
  decide (lc = lcPROVISIONED) || decide (lc = lcDEPLOYED) || decide (lc = lcFIELD_DEBUG)

def rowKey (c : CoreId) (r : SramRow) : Nat := c.toNat * 16384 + r.bank.toNat * 256 + r.row.toNat

/-- The detail field of an SRAM row (Table 19-4). -/
def rowDetail (r : SramRow) : BitVec 16 := BitVec.ofNat 16 (r.bank.toNat + r.row.toNat * 64)

/-- The core address of a row (Table 5-1). -/
def rowAddr (r : SramRow) : Nat := r.bank.toNat / 8 * 0x20000 + r.row.toNat * 512 + r.bank.toNat % 8 * 64

/-- A single-bit error was corrected in a row: counted, and at the third within 24 hours the row is to be
spared, at the next reclaim or leaving of C2 (R122). -/
def correctRow (c : CoreId) (s : State) (r : SramRow) : State :=
  let times := lastDay s.time (tget [] s.mon.rowErrs (rowKey c r)) ++ [s.time]
  let s := { s with
    tele := { s.tele with corrected := tmod 0 s.tele.corrected 0 (· + 1) }
    mon := { s.mon with rowErrs := tput [] s.mon.rowErrs (rowKey c r) times } }
  if times.length < 3 ∨ !sparesInField s ∨ s.mon.spareReq.contains (c, r) then s
  else
    let bank := c.toNat * 64 + r.bank.toNat
    let used := tget 0 s.mon.spares bank
    if used ≥ 4 then
      if times.length = 3 then
        logError s { errInfo cSPARES_EXHAUSTED 7 with core := some (c, 0), addr := some (BitVec.ofNat 48 (rowAddr r)), detail := rowDetail r }
      else s
    else if s.fuses.sparing.length + s.mon.spareReq.length ≥ 4096 then { s with fuses := { s.fuses with sparingStatus := 2 } }
    else { s with mon := { s.mon with
      spareReq := s.mon.spareReq ++ [(c, r)], spares := tput 0 s.mon.spares bank (used + 1)
      rowErrs := tput [] s.mon.rowErrs (rowKey c r) [] } }

/-- The sparing record without its signature: header and entries (Table 5-10). -/
def spareBytes (u : Fuses) : List Byte :=
  leBytes 16 (1 + u.sparing.length * 2 ^ 16 + u.sparingNo.toNat * 2 ^ 32) ++ u.sparing.flatMap fun e => leBytes 8 e.toNat

/-- The record is signed with the identity key (R123, R362). -/
def signRecord (u : Fuses) : Fuses :=
  match u.idSecret with
  | some k => let d := sha384 (spareBytes u); { u with sparingSig := ecdsaSign k d (Config.signNonce k d) }
  | none => u

/-- Remappings of a core take effect: each is entered in the sparing record and recorded (R122, R123). -/
def applySpares (s : State) (c : CoreId) : State :=
  let mine := s.mon.spareReq.filter fun x => decide (x.1 = c)
  let s := { s with mon := { s.mon with spareReq := s.mon.spareReq.filter fun x => decide (x.1 ≠ c) } }
  mine.foldl (fun s x =>
    let r := x.2
    let bank := c.toNat * 64 + r.bank.toNat
    let before := (s.fuses.sparing.filter fun e => decide (nfld e.toNat 7 0 = c.toNat) && decide (nfld e.toNat 13 8 = r.bank.toNat)).length
    let spare := min before 3
    let e : W64 := BitVec.ofNat 64 (c.toNat + r.bank.toNat * 2 ^ 8 + r.row.toNat * 2 ^ 14 + spare * 2 ^ 22)
    let s := { s with fuses := signRecord { s.fuses with sparing := s.fuses.sparing ++ [e], sparingNo := s.fuses.sparingNo + 1 } }
    let s := { s with mon := { s.mon with spares := tput 0 s.mon.spares bank (max (tget 0 s.mon.spares bank) (spare + 1)) } }
    logError s { errInfo cROW_SPARED 7 with
      core := some (c, 0), addr := some (BitVec.ofNat 48 (rowAddr r)), detail := rowDetail r + BitVec.ofNat 16 (spare * 2 ^ 14) }) s

end Sys2Proof.Machine
end

