-- ==== Sys2Proof/Machine/Flags.lean ====
section
/-! DEFINITION. Access codes of registers and flags (R8, R10), the checks of registers that reject a write (R111, R117,
R177), and who reaches a register now. -/

namespace Sys2Proof.Machine
open Sys2Proof

/-! ### Access codes (Table 0-4) -/

/-- W1C: bits written 1 are cleared. -/
def w1c {n : Nat} (cur v : BitVec n) : BitVec n := cur &&& ~~~v

/-- A status bit under a W1C write of `b`. -/
def w1cBit (cur b : Bool) : Bool := cur && !b

/-- RW: a field that takes a written value only within its range. -/
def rangedWrite {α : Type} (ok : Bool) (cur new : α) : α := if ok then new else cur

/-- A W1C bit of a register whose write may be rejected: a rejection sets it, whatever is written (R11). -/
def rejFlag (cur written reject : Bool) : Bool := reject || w1cBit cur written

/-! ### Who may reach a register -/

/-- A host reaches its function's registers: the host port is up, the clocks run (R373, R389), the PF is in D0 (R384), and the
function exists. -/
def hostReaches (s : State) (f : Func) : Bool :=
  decide (s.pw.phase ≠ .held) && decide (s.pw.clockStop = none) && !s.pw.pfD3 && (decide (f = 0) || (getFn s f).enabled)

/-- A task is running on the core: bound, and not stopped at a meet (R94, R119). -/
def taskRuns (s : State) (c : CoreId) : Bool :=
  match partOfCore s c with
  | none => false
  | some p => (getPart s p).task.isSome && !(getPart s p).atMeet

/-! ### SP_TASK and SP_DRONE (R111, R116, R117) -/

/-- Where the drone region begins. -/
def droneStart (groups : Nat) : Nat := 0x100000 - 0x20000 * groups

/-- The fields of a value written to SP_TASK (Table 5-6). -/
def spTaskOf (v : W64) : SpTask :=
  ⟨v.extractLsb' 0 3, v.extractLsb' 3 9, v.extractLsb' 12 8, v.extractLsb' 20 6, false⟩

/-- R111. -/
def spTaskOk (groups : Nat) (t : SpTask) : Bool :=
  let lo := t.dbase.toNat * 4096
  let hi := (t.dbase.toNat + t.dsize.toNat) * 4096
  decide (t.baseGrp.toNat * 0x20000 + t.bound.toNat * 4096 ≤ droneStart groups) &&
  decide (t.bound.toNat * 4096 + t.dsize.toNat * 4096 ≤ 0x100000) &&
  (decide (t.dsize = 0) ||
    (decide (droneStart groups ≤ lo) && decide (hi ≤ 0x100000) && decide (lo / 0x20000 = (hi - 1) / 0x20000)))

/-- SP_TASK takes fields that pass R111; `clear`: 1 is written to cfg_rej. -/
def putSpTask (x : CoreSt) (n : SpTask) (clear : Bool) : CoreSt :=
  let ok := spTaskOk x.drone.toNat n
  let rej := rejFlag x.spTask.cfgRej clear (!ok)
  { x with spTask := { rangedWrite ok x.spTask n with cfgRej := rej } }

/-- A write to SP_TASK. -/
def writeSpTask (x : CoreSt) (v : W64) : CoreSt := putSpTask x (spTaskOf v) (v.getLsbD 63)

/-- Groups that are marked under one value and not under the other. -/
def changedGroups (a b : Nat) : List Nat := (List.range 8).filter fun g => decide (8 - a ≤ g) != decide (8 - b ≤ g)

/-- SP_DRONE takes a value; a group newly marked or unmarked is zeroed first (R117). -/
def setDrone (x : CoreSt) (groups : BitVec 2) : CoreSt :=
  let sp := (changedGroups x.drone.toNat groups.toNat).foldl (fun t g => tclear t (g * 0x20000) 0x20000) x.eng.sp
  { x with eng := { x.eng with sp := sp }, drone := groups }

/-! ### ST_IMAGE (R177) -/

/-- The fields of a value written to ST_IMAGE (Table 8-5). -/
def stImageOf (v : W64) : StImage :=
  ⟨v.extractLsb' 0 20, v.extractLsb' 20 7, v.extractLsb' 27 12, v.extractLsb' 39 24, false⟩

/-- R177. -/
def stImageOk (t : StImage) : Bool :=
  (decide (t.genSize = 0) && decide (t.fe = 0) && decide (t.wcap = 0) && decide (t.blkSize = 0)) ||
  (decide (1 ≤ t.genSize.toNat) && decide (1 ≤ t.fe.toNat) && decide (t.fe.toNat ≤ 64) &&
    (decide (t.wcap = 0) || (decide (t.fe.toNat ≤ t.wcap.toNat) && decide (t.wcap.toNat ≤ min 4095 (65 * t.fe.toNat)))) &&
    decide (2 * t.genSize.toNat ≤ t.blkSize.toNat) &&
    (decide (t.wcap = 0) || decide (2 * t.genSize.toNat < t.blkSize.toNat)))

/-- ST_IMAGE takes fields that pass R177; `clear`: 1 is written to cfg_rej. -/
def putStImage (x : CoreSt) (n : StImage) (clear : Bool) : CoreSt :=
  let ok := stImageOk n
  let rej := rejFlag x.stImage.cfgRej clear (!ok)
  { x with stImage := { rangedWrite ok x.stImage n with cfgRej := rej } }

/-- A write to ST_IMAGE. -/
def writeStImage (x : CoreSt) (v : W64) : CoreSt := putStImage x (stImageOf v) (v.getLsbD 63)

end Sys2Proof.Machine
end

