-- ==== Sys2Proof/Machine/Seal.lean ====
section
/-! DEFINITION. Reads and writes of device memory as a requester sees them: lines of a sealed region pass through AES-256-XTS under the key
pair of its partition (R267, R268). `State.mem` holds the bytes of the memory devices. -/

namespace Sys2Proof.Machine
open Sys2Proof

/-- The key pair under which a 64-byte line lies sealed. A sealed entry whose slot holds no key permits nothing (`gReadable`). -/
def lineKey (s : State) (l : Nat) : Option (BitVec 512) :=
  (s.mon.grants.find? fun e => gSealed e && gCovers e (l * 64)).bind fun e => tfind s.mon.keys (gKey e).toNat

/-- No byte of the range lies in a sealed region: tier 0 holds none, and elsewhere no sealed entry touches it. -/
def unsealed (s : State) (a n : Nat) : Bool :=
  decide (a + n ≤ tier1Base) || s.mon.grants.all fun e => !gSealed e || decide (gBase e + gSize e ≤ a) || decide (a + n ≤ gBase e)

/-- A line's bytes as a requester reads them. -/
def readLine (s : State) (l : Nat) : List Byte :=
  let b := Memory.rds s.mem (l * 64) 64
  match lineKey s l with
  | some k => xtsDecrypt k l b
  | none => b

/-- The bytes of a range as a requester reads them. -/
def devRead (s : State) (a n : Nat) : List Byte :=
  if unsealed s a n then Memory.rds s.mem a n
  else (((List.range (cdiv (a % 64 + n) 64)).flatMap fun i => readLine s (a / 64 + i)).drop (a % 64)).take n

def devNat (s : State) (a n : Nat) : Nat := leNat (devRead s a n)

/-- A line with bytes written from offset `o` on, as it is stored: a part of a sealed line is a read, a merge and a write of the whole
line (R268). -/
def lineWith (s : State) (l o : Nat) (b : List Byte) : List Byte :=
  let v := splice (readLine s l) o b
  match lineKey s l with
  | some k => xtsEncrypt k l v
  | none => v

/-- Writes of consecutive lines: `n` lines from line `l`, the bytes from offset `o` of the first on. -/
def writeLines (s : State) : Nat → Nat → Nat → List Byte → Tbl Byte → Tbl Byte
  | 0, _, _, _, m => m
  | n + 1, l, o, b, m => writeLines s n (l + 1) 0 (b.drop (64 - o)) (Memory.wrs m (l * 64) (lineWith s l o (b.take (64 - o))))

/-- The memory after a requester has written bytes from an address on. -/
def devWritten (s : State) (a : Nat) (b : List Byte) : Tbl Byte :=
  if unsealed s a b.length then Memory.wrs s.mem a b else writeLines s (cdiv (a % 64 + b.length) 64) (a / 64) (a % 64) b s.mem

def devWrite (s : State) (a : Nat) (b : List Byte) : State := { s with mem := devWritten s a b }

/-- Single bytes that a command has written land one by one (R268: each is merged into its line). -/
def devCells (s : State) (l : List (Nat × Byte)) : State :=
  if l.all fun c => unsealed s c.1 1 then { s with mem := Memory.wrList s.mem l } else l.foldl (fun s c => devWrite s c.1 [c.2]) s

end Sys2Proof.Machine
end

