-- ==== Sys2Proof/Machine/MemOps.lean ====
section
/-! DEFINITION. Tier regions that the runtime has allocated: space, release with zeroing, and the monitor's record of
last holders (R270, R356). -/

namespace Sys2Proof.Machine
open Sys2Proof

/-- A region rounded up to whole pages. -/
def pages (n : Nat) : Nat := cdiv n 4096 * 4096

/-- The pages of a range. -/
def pagesOf (a n : Nat) : List Nat := (List.range (cdiv (a % 4096 + n) 4096)).map fun i => a / 4096 + i

/-- The holder of a page that the record does not list: that of the last reset; tier 2 is unknown even after a cold one (R270). -/
def holderBase (s : State) (pg : Nat) : Holder := if tierOf (pg * 4096) = 2 ∧ s.mon.holderDefault = .zeroed then .unknown else s.mon.holderDefault

/-- The last holder of a page. -/
def holderOf (s : State) (pg : Nat) : Holder := if s.mon.retired.contains pg then .retired else tget (holderBase s pg) s.mon.holders pg

/-- The monitor records a holder for one page. -/
def putHolder (s : State) (t : Tbl Holder) (pg : Nat) (h : Holder) : Tbl Holder := tput (holderBase s pg) t pg h

/-- The monitor records a holder for the pages of a range. -/
def setHolder (s : State) (a n : Nat) (h : Holder) : State :=
  { s with mon := { s.mon with holders := (pagesOf a n).foldl (fun t pg => putHolder s t pg h) s.mon.holders } }

/-- The holder that a grant entry makes of its pages: the partition and job that may write them, else the service use where there
is one (R259, R356). -/
def entryHolder (e : BitVec 128) : Holder :=
  if !gPartW e && (gSvcR e || gSvcW e) then .service else .part (gPart e) (gJob e)

def isVerified (s : State) (a : Nat) : Bool := s.mon.verified.any fun v => decide (v.base ≤ a) && decide (a < v.base + v.size)

/-- Entries over a range. -/
def gTouches (e : BitVec 128) (a n : Nat) : Bool := decide (gBase e < a + n) && decide (a < gBase e + gSize e)

/-- An entry with another base and size. -/
def withRange (e : BitVec 128) (a n : Nat) : BitVec 128 :=
  ((e >>> 66) <<< 66) ||| BitVec.ofNat 128 (a / 4096 + n / 4096 * 2 ^ 36)

/-- What is left of an entry outside a range of whole pages. -/
def carve (e : BitVec 128) (a n : Nat) : List (BitVec 128) :=
  let lo := gBase e
  let hi := gBase e + gSize e
  if hi ≤ a ∨ a + n ≤ lo then [e]
  else (if lo < a then [withRange e lo (a - lo)] else []) ++ (if a + n < hi then [withRange e (a + n) (hi - (a + n))] else [])

/-- What an entry grants within a range of whole pages. -/
def within (e : BitVec 128) (a n : Nat) : List (BitVec 128) :=
  let lo := max a (gBase e)
  let hi := min (a + n) (gBase e + gSize e)
  if lo < hi then [withRange e lo (hi - lo)] else []

/-- Every entry ends at the range. -/
def carveAll (s : State) (a n : Nat) : State := { s with mon := { s.mon with grants := s.mon.grants.flatMap fun e => carve e a n } }

/-- Tier 2 pages are zeroed when they are granted again, whoever held them (R270). -/
def staleTier2 (s : State) (r : Region) : State := setHolder (carveAll s r.base r.size) r.base r.size .unknown

/-- A region that a reclaim gives up is wiped with it, in step 6 of Table 13-4: its entries end, and it is zeroed and recorded as zeroed;
tier 2 is zeroed at its next grant (R270). -/
def wipeRegion (s : State) (r : Region) : State :=
  if tierOf r.base = 2 then staleTier2 s r
  else setHolder { carveAll s r.base r.size with mem := Memory.zero s.mem r.base r.size } r.base r.size .zeroed

/-- The runtime releases a region: the monitor replaces its entries once R260 is met, and the migration engine zeroes it (R270). A verified
region keeps its bytes until the monitor's RELEASE (R360). -/
def freeRegion (s : State) (r : Region) : State :=
  if isVerified s r.base then s
  else if tierOf r.base = 2 then staleTier2 s r
  else { s with mig := { s.mig with releasing := s.mig.releasing ++ [⟨r.base, pages r.size, none⟩] } }

/-- Releases the regions that `p` names. -/
def releaseRegions (s : State) (p : Region → Bool) : State :=
  (s.regions.filter p).foldl freeRegion { s with regions := s.regions.filter fun r => !p r }

/-- Wipes the regions that `p` names. -/
def wipeRegions (s : State) (p : Region → Bool) : State :=
  (s.regions.filter p).foldl wipeRegion { s with regions := s.regions.filter fun r => !p r }

/-- The stream table: 65,536 entries of 64 bytes, at the end of tier 0 (R22; the place is the model's, log 103). -/
def tableBase : Nat := tier1Base - 0x400000
def tableBytes : Nat := 65536 * 64

/-- Bytes of tier 2 slice `x` that an expander maps (R255). -/
def sliceCap (s : State) (x : Nat) : Nat := if s.pw.expPresent.getLsbD x then min sliceSize (tget 0 s.pw.expCap x) else 0

/-- What no region can take: a tier 1 that boot refused, and what no expander maps (R255, R264). -/
def notThere (s : State) : List Region :=
  (if s.pw.t1Refused then [⟨tier1Base, tier2Base - tier1Base, .bundle 0⟩] else []) ++
  ((List.range 4).map fun x => ⟨tier2Base + x * sliceSize + sliceCap s x, sliceSize - sliceCap s x, .bundle 0⟩).filter fun r => decide (0 < r.size)

/-- Space in use: the stream table, allocated regions, regions released and not yet zeroed, and verified regions not yet released. -/
def usedSpace (s : State) : List Region :=
  ⟨tableBase, tableBytes, .bundle 0⟩ :: s.regions ++ (s.mon.verified.map fun v => ⟨v.base, v.size, .bundle 0⟩) ++
  (s.mig.releasing.map fun r => ⟨r.base, r.size, .bundle 0⟩) ++ notThere s

def regionFree (l : List Region) (a n : Nat) : Bool := l.all fun r => !decide (a < r.base + r.size ∧ r.base < a + n)

/-- The bases give each size a free, 4 KiB-aligned place in `[lo, hi)`, apart from each other. -/
def placesOk (lo hi : Nat) : List Region → List Nat → List Nat → Bool
  | _, [], [] => true
  | l, a :: as_, n :: ns =>
    decide (a % 4096 = 0) && decide (lo ≤ a) && decide (a + n ≤ hi) && regionFree l a n && placesOk lo hi (⟨a, n, .bundle 0⟩ :: l) as_ ns
  | _, _, _ => false

/-- One free place in a range of addresses. -/
def spaceOk (s : State) (lo hi a n : Nat) : Bool := placesOk lo hi (usedSpace s) [a] [n]

/-- The lowest free place of a size in `[lo, hi)` on a multiple of `al`: at its start, or after something that is there. -/
def firstPlace (l : List Region) (lo hi al n : Nat) : Option Nat :=
  ((lo :: l.map fun r => cdiv (r.base + r.size) al * al).filter fun a => decide (lo ≤ a) && decide (a + n ≤ hi) && regionFree l a n).foldl
    (fun b a => match b with | none => some a | some c => some (min a c)) none

/-- Free places for all the pairs of alignment and size, each taken as low as it goes. -/
def fitsIn (lo hi : Nat) : List Region → List (Nat × Nat) → Bool
  | _, [] => true
  | l, n :: ns =>
    match firstPlace l lo hi n.1 n.2 with
    | none => false
    | some a => fitsIn lo hi (⟨a, n.2, .bundle 0⟩ :: l) ns

/-- A range of addresses has space for these sizes, each on a multiple of its alignment (log 119). -/
def hasSpace (s : State) (lo hi : Nat) (sizes : List (Nat × Nat)) : Bool := fitsIn lo hi (usedSpace s) sizes

/-- Sizes of regions that begin on whole pages. -/
def paged (l : List Nat) : List (Nat × Nat) := l.map fun n => (4096, n)

end Sys2Proof.Machine
end

