-- ==== Sys2Proof/Machine/Bow.lean ====
section
/-! DEFINITION. The bow: the mix function, counters, draws, keys and epochs (10_bow.md). -/

namespace Sys2Proof.Machine
open Sys2Proof

/-- mix(K, C) (R218, Table 10-1). -/
def mix (k c : W64) : W32 :=
  let x := c ^^^ k ^^^ 0x5A3C96E10F7BD248#64
  let x := x * 0xD3A94F176C85E2B1#64
  let x := (x.rotateLeft 24) ^^^ k
  let x := x * 0x8F5C2B6DE14793A7#64
  let x := x ^^^ (x >>> 32)
  let x := x * 0xA4E61D9B37C258F3#64
  (x >>> 32).setWidth 32

/-- The counter of a use (R220, Table 10-3). -/
def bowCounter (site : BitVec 12) (step : BitVec 28) (el : BitVec 24) : W64 := site ++ step ++ el

/-- One evaluation. -/
def bowEval (key : W64) (site : BitVec 12) (step : BitVec 28) (el : BitVec 24) : W32 := mix key (bowCounter site step el)

/-- The rounding draw of an evaluation (R219). -/
def drawOf (v : W32) : Nat := (v.setWidth 8).toNat

/-- The counter of a program's draw (R222): step and element of the entry with their offsets. -/
def bowDraw (key : W64) (base : BitVec 28) (site : BitVec 12) (e0 : BitVec 24) (toff eoff : Nat) : W32 :=
  bowEval key site (base + BitVec.ofNat 28 toff) (e0 + BitVec.ofNat 24 eoff)

/-- derive(S, h) (R225). -/
def deriveKey (seed : W64) (h : Nat) : W64 :=
  mix seed (bowCounter 0xFFF 1 (BitVec.ofNat 24 h)) ++ mix seed (bowCounter 0xFFF 0 (BitVec.ofNat 24 h))

/-- The next epoch's key (R227). -/
def nextEpochKey (key : W64) (epoch : BitVec 12) : W64 :=
  let e := (epoch + 1).setWidth 24
  mix key (bowCounter 0xFFE 1 e) ++ mix key (bowCounter 0xFFE 0 e)

/-- The bow fields of a stream after a commit or a failure (R228). -/
def bowAdvance (key : W64) (step : BitVec 28) (epoch : BitVec 12) (bstride : Nat) : W64 × BitVec 28 × BitVec 12 :=
  let s' := step.toNat + bstride
  if s' + bstride > 2 ^ 28 then (nextEpochKey key epoch, 0, epoch + 1) else (key, BitVec.ofNat 28 s', epoch)

/-- sround of R136: 23 fraction bits, the draw taken only where `f` is not 0. -/
def sround (p : Int) (draw : Nat) : Int :=
  let t := p >>> (23 : Nat)
  let f := ((p >>> (15 : Nat)) % 256).toNat
  if f ≠ 0 ∧ draw < f then t + 1 else t

end Sys2Proof.Machine
end

