-- ==== Sys2Proof/Machine/AcctOps.lean ====
section
/-! DEFINITION. Accounts: the division of a quantity among the clients of a task, and the charge of a task (R289
to R293). -/

namespace Sys2Proof.Machine
open Sys2Proof

def getAcct (s : State) (f : Func) : Account := tget .reset s.tele.accounts f.toNat

def modAcct (s : State) (f : Func) (g : Account → Account) : State :=
  { s with tele := { s.tele with accounts := tmod .reset s.tele.accounts f.toNat g } }

/-- The clients a task that is bound now is charged to, member by member; the owner for a task with no bundle (R277, R290). -/
def taskClients (s : State) (x : Part) (t : Task) : List Func :=
  match t.bundle with
  | some b => b.members.map fun m => (getStream s m.handle).client
  | none => [x.owner]

/-- ⌊q × n_f / n⌋. -/
def partShare (cl : List Func) (q : Nat) (f : Func) : Nat := q * (cl.filter fun g => decide (g = f)).length / cl.length

/-- The share of function `f`: the floor, and for the client of member 0 the remainder (R290). -/
def shareOf (cl : List Func) (q : Nat) (f : Func) : Nat :=
  partShare cl q f + (if cl.head? = some f then q - ((allFuncs.map (partShare cl q)).sum) else 0)

/-- Divides a charge among clients: `g` adds the share `k` of quantity `i`. -/
def chargeAll (s : State) (cl : List Func) (g : (Nat → Nat) → Account → Account) : State :=
  (allFuncs.filter fun f => cl.contains f).foldl (fun s f => modAcct s f (g fun q => shareOf cl q f)) s

def addNat {n : Nat} (a : BitVec n) (k : Nat) : BitVec n := a + BitVec.ofNat n k

/-- Busy cycles of the partition's courses now. -/
def busyNow (s : State) (x : Part) : List (Nat × W64) := (partCourses x).map fun k => (k.toNat, (getCourse s k).busy)

def bytesNow (x : Part) : W64 × W64 × W64 × W64 := (x.t0, x.t1, x.t2, x.br)

/-- Cycles of each course since the marks. -/
def busyDelta (s : State) (l : List (Nat × W64)) : List (Nat × Nat) :=
  l.map fun k => (k.1, ((getCourse s (BitVec.ofNat 5 k.1)).busy - k.2).toNat)

/-- A part is added to that of the same task on the same course within the interval (R291). -/
def addTaskPart (l : List TaskPart) (a : TaskPart) : List TaskPart :=
  let same (b : TaskPart) : Bool := decide (b.part = a.part) && decide (b.start = a.start) && decide (b.course = a.course)
  if a.cycles = 0 then l
  else if l.any same then l.map fun b => if same b then { b with cycles := b.cycles + a.cycles } else b
  else l ++ [a]

/-- The parts of the task since the interval's edge are kept for the reconciliation (R291). -/
def cutParts (s : State) (p : PartId) : State :=
  let x := getPart s p
  match x.task with
  | none => s
  | some t =>
    if !t.charging then s
    else
    let parts := (busyDelta s t.partFrom).map fun (k, y) => (⟨p, t.start, BitVec.ofNat 5 k, y, t.clients⟩ : TaskPart)
    let s := { s with tele := { s.tele with parts := parts.foldl addTaskPart s.tele.parts } }
    modTask s p fun t => { t with partFrom := busyNow s x }

/-- A task is charged for its course-cycles and bytes since the last charge (R289, R290). -/
def chargeTask (s : State) (p : PartId) : State :=
  let x := getPart s p
  match x.task with
  | none => s
  | some t =>
    if !t.charging then s
    else
    let y := ((busyDelta s t.chargeFrom).map (·.2)).sum
    let d0 := (x.t0 - t.bytesFrom.1).toNat
    let d1 := (x.t1 - t.bytesFrom.2.1).toNat
    let d2 := (x.t2 - t.bytesFrom.2.2.1).toNat
    let d3 := (x.br - t.bytesFrom.2.2.2).toNat
    let s := chargeAll s t.clients fun sh a => { a with
      courseCycles := addNat a.courseCycles (sh y), t0 := addNat a.t0 (sh d0), t1 := addNat a.t1 (sh d1)
      t2 := addNat a.t2 (sh d2), bridge := addNat a.bridge (sh d3) }
    let s := cutParts s p
    modTask s p fun t => { t with chargeFrom := busyNow s x, bytesFrom := bytesNow x, obs := t.obs + y }

/-- The task stops or ends: it is charged up to now, and no further (R284, R289). -/
def closeCharge (s : State) (p : PartId) : State := modTask (chargeTask s p) p fun t => { t with charging := false }

/-- The marks from which a task is charged are set anew: at binding and at a resumption (R289). -/
def markTask (s : State) (p : PartId) : State :=
  let x := getPart s p
  modTask s p fun t => { t with charging := true, chargeFrom := busyNow s x, partFrom := busyNow s x, bytesFrom := bytesNow x }

/-- Course-cycles of `n` courses in `d` ticks at the duty in force (Table 1-2, R387, log 38). -/
def courseCycles (s : State) (n d : Nat) : Nat := d * 12 * n * (min s.pw.dutyP.toNat s.pw.dutyT.toNat) / 16

/-- ⌊1,000 × Σ T_obs / Σ t_solo⌋, with T_obs in ACLK cycles, of which a tick has 12; 0 with no t_solo (R293). -/
def ratioOf (b : Job) : Nat := if b.soloTicks = 0 then 0 else 1000 * b.obsCycles / (12 * b.soloTicks)

/-- The sums of a job that ends before the second does are kept for the report (R293). -/
def keepReport (s : State) (p : PartId) (b : Job) : State :=
  if b.tasks = 0 then s else { s with tele := { s.tele with gone := s.tele.gone ++ [⟨p, b.num, b.tasks, ratioOf b, 0, 0⟩] } }

/-- Overrun and one hard stop (R284). -/
def chargeHardStop (s : State) (p : PartId) (overrunTicks : Nat) : State :=
  let x := getPart s p
  match x.task with
  | none => s
  | some t =>
    let o := courseCycles s (partCourses x).length overrunTicks
    chargeAll s t.clients fun sh a => { a with
      overrun := addNat a.overrun (sh o), hardStops := addNat a.hardStops (sh 1) }

/-- Course-cycles of an owned partition with no task bound, up to now (Table 13-7). -/
def closeIdle (s : State) (p : PartId) : State :=
  let x := getPart s p
  match x.idleFrom with
  | none => s
  | some t0 =>
    let k := courseCycles s (partCourses x).length (s.time - t0).toNat
    let s := modPart s p fun x => { x with heldIdle := addNat x.heldIdle k, idleFrom := some s.time }
    modAcct s x.owner fun a => { a with heldIdle := addNat a.heldIdle k }

/-- Host-port bytes charged to a client (R290). -/
def chargeHost (s : State) (f : Func) (n : Nat) : State := modAcct s f fun a => { a with host := addNat a.host n }

/-- Bytes that the migration engine reads or writes for a client's stream, by tier of the address (R290). -/
def chargeTier (s : State) (f : Func) (a n : Nat) : State :=
  modAcct s f fun y =>
    if tierOf a = 0 then { y with t0 := addNat y.t0 n } else if tierOf a = 1 then { y with t1 := addNat y.t1 n } else { y with t2 := addNat y.t2 n }

/-- Bytes sent through bridge ports for a client (R290, Table 13-7). -/
def chargeBridge (s : State) (f : Func) (n : Nat) : State := modAcct s f fun y => { y with bridge := addNat y.bridge n }

end Sys2Proof.Machine
end

