-- ==== Sys2Proof/Machine/Float.lean ====
section
/-! DEFINITION. Exact arithmetic on binary fractions and its rounding to binary32: the arithmetic without
exceptions of the vector engine (R156 to R158), the ordinary binary32 of the soundboard, and logarithm,
sine and cosine by fixed-point series, exact to far more bits than the results keep (log 12). -/

namespace Sys2Proof.Machine
open Sys2Proof

/-! ### Binary fractions -/

/-- The value `m · 2^e`. -/
structure Dy where
  m : Int
  e : Int
  deriving DecidableEq, Repr

def dyZero : Dy := ⟨0, 0⟩
def dyInt (n : Int) : Dy := ⟨n, 0⟩
def dyNeg (a : Dy) : Dy := ⟨-a.m, a.e⟩
def dyMul (a b : Dy) : Dy := ⟨a.m * b.m, a.e + b.e⟩
/-- The mantissas of two values at their lower exponent. -/
def dyAlign (a b : Dy) : Int × Int × Int :=
  let e := min a.e b.e
  (a.m * (2 ^ (a.e - e).toNat : Nat), b.m * (2 ^ (b.e - e).toNat : Nat), e)
def dyAdd (a b : Dy) : Dy := let x := dyAlign a b; ⟨x.1 + x.2.1, x.2.2⟩
def dySub (a b : Dy) : Dy := dyAdd a (dyNeg b)
def dyLt (a b : Dy) : Bool := let x := dyAlign a b; decide (x.1 < x.2.1)
def dyLe (a b : Dy) : Bool := let x := dyAlign a b; decide (x.1 ≤ x.2.1)
/-- Multiplied by 2^k. -/
def dyScale (a : Dy) (k : Int) : Dy := ⟨a.m, a.e + k⟩

/-- The greatest integer not above the value. -/
def dyFloor (a : Dy) : Int := if a.e ≥ 0 then a.m * (2 ^ a.e.toNat : Nat) else a.m >>> (-a.e).toNat

/-- Division of an integer by 2^k, to nearest, ties to even: rne(n, k) / 2^k (R13). -/
def rneShift (n : Int) (k : Nat) : Int :=
  if k = 0 then n
  else
    let q := n >>> k
    let r := n - q * (2 ^ k : Nat)
    let half : Int := (2 ^ (k - 1) : Nat)
    if r > half ∨ (r = half ∧ q % 2 = 1) then q + 1 else q

/-- The nearest integer, ties to even. -/
def dyRne (a : Dy) : Int := if a.e ≥ 0 then a.m * (2 ^ a.e.toNat : Nat) else rneShift a.m (-a.e).toNat

/-- Truncation toward zero. -/
def dyTrunc (a : Dy) : Int := if a.m < 0 then -(dyFloor (dyNeg a)) else dyFloor a

/-! ### Rounding to binary32 -/

def maxFinite : W32 := 0x7F7FFFFF
def signBit (neg : Bool) : W32 := if neg then 0x80000000 else 0

/-- A magnitude `m · 2^e` (m > 0) rounded to `p` significant bits, ties to even: mantissa of at most `p`
bits, and exponent. -/
def roundSig (p : Nat) (m : Nat) (e : Int) : Nat × Int :=
  let n := Nat.log2 m + 1
  if n ≤ p then (m, e)
  else
    let k := n - p
    ((rneShift (m : Int) k).toNat, e + k)

/-- Rounds under R157: 24 significant bits with an unbounded exponent, ±max finite beyond the range, zero
of the same sign below 2^−126. `zneg` is the sign of an exact zero. The flag is a saturation. -/
def rdV (a : Dy) (zneg : Bool) : W32 × Bool :=
  if a.m = 0 then (signBit zneg, false)
  else
    let neg := decide (a.m < 0)
    let (q, e) := roundSig 24 a.m.natAbs a.e
    let top := e + (Nat.log2 q : Int)
    if top > 127 then (signBit neg ||| maxFinite, true)
    else if top < -126 then (signBit neg, false)
    else
      let k : Int := 23 - (Nat.log2 q : Int)
      let mant := if k ≥ 0 then q * 2 ^ k.toNat else q / 2 ^ (-k).toNat
      (signBit neg ||| BitVec.ofNat 32 (((top + 127).toNat <<< 23) + mant % 2 ^ 23), false)

/-- The value of finite binary32 bits, subnormals included. -/
def f32Val (b : W32) : Dy :=
  let e := nfld b.toNat 30 23
  let f := nfld b.toNat 22 0
  let m : Int := if e = 0 then f else f + 2 ^ 23
  ⟨if b.getLsbD 31 then -m else m, (if e = 0 then 1 else (e : Int)) - 150⟩

def f32Neg (b : W32) : Bool := b.getLsbD 31
def f32IsNan (b : W32) : Bool := decide (nfld b.toNat 30 23 = 255) && decide (nfld b.toNat 22 0 ≠ 0)
def f32IsInf (b : W32) : Bool := decide (nfld b.toNat 30 23 = 255) && decide (nfld b.toNat 22 0 = 0)
def f32Flip (b : W32) : W32 := b ^^^ 0x80000000
def f32Abs (b : W32) : W32 := b &&& 0x7FFFFFFF

/-- The order of finite binary32 values as integers; −0 and +0 are equal (R157). -/
def f32Key (b : W32) : Int := let k : Int := (f32Abs b).toNat; if f32Neg b then -k else k

/-- An input as the vector engine takes it (R156): NaN to +0, infinities to ±max finite, subnormals to zero
of the same sign; the flag counts a nonfinite element. -/
def f32In (b : W32) : W32 × Bool :=
  if f32IsNan b then (0, true)
  else if f32IsInf b then (signBit (f32Neg b) ||| maxFinite, true)
  else if nfld b.toNat 30 23 = 0 then (signBit (f32Neg b), false)
  else (b, false)

/-- An exact integer as binary32, for |n| < 2^24; larger ones round (R139, R157). -/
def f32OfInt (n : Int) : W32 := (rdV (dyInt n) false).1

/-! Native operations (Table 7-3), each with its saturation flag. The sign of an exact zero sum is that of
IEEE arithmetic: −0 only when both terms are −0 (log 25). -/

def vAdd (a b : W32) : W32 × Bool := rdV (dyAdd (f32Val a) (f32Val b)) (f32Neg a && f32Neg b)
def vMul (a b : W32) : W32 × Bool := rdV (dyMul (f32Val a) (f32Val b)) (f32Neg a != f32Neg b)
def vFma (a b c : W32) : W32 × Bool :=
  rdV (dyAdd (dyMul (f32Val a) (f32Val b)) (f32Val c)) ((f32Neg a != f32Neg b) && f32Neg c)

/-- Round to BF16, nearest even, saturating at ±0x7F7F; subnormal results become zero (R156). -/
def toBf16 (b : W32) : BitVec 16 × Bool :=
  let hi := b.toNat / 65536
  let lo := b.toNat % 65536
  let r := if lo > 32768 ∨ (lo = 32768 ∧ hi % 2 = 1) then hi + 1 else hi
  if nfld r 14 7 = 255 then (BitVec.ofNat 16 (hi / 32768 * 32768 + 0x7F7F), true)
  else if nfld r 14 7 = 0 then (BitVec.ofNat 16 (hi / 32768 * 32768), false)
  else (BitVec.ofNat 16 r, false)

/-! ### Ordinary binary32, with subnormals (the soundboard, R56 to R58) -/

/-- Rounds to binary32, ties to even, with subnormals; beyond the range to infinity. -/
def rdI (a : Dy) (zneg : Bool) : W32 :=
  if a.m = 0 then signBit zneg
  else
    let neg := decide (a.m < 0)
    let m := a.m.natAbs
    let top0 := a.e + (Nat.log2 m : Int)
    -- the exponent of the last place: 24 significant bits, but not below 2^−149
    let ulp := max (top0 - 23) (-149)
    let q : Nat := if a.e ≥ ulp then m * 2 ^ (a.e - ulp).toNat else (rneShift (m : Int) (ulp - a.e).toNat).toNat
    if q = 0 then signBit neg
    else
      let top := ulp + (Nat.log2 q : Int)
      if top > 127 then signBit neg ||| 0x7F800000
      else if q < 2 ^ 23 then signBit neg ||| BitVec.ofNat 32 q
      else
        let (q, ulp) := if q ≥ 2 ^ 24 then (q / 2, ulp + 1) else (q, ulp)
        signBit neg ||| BitVec.ofNat 32 (((ulp + 150).toNat <<< 23) + q % 2 ^ 23)

def iAdd (a b : W32) : W32 := rdI (dyAdd (f32Val a) (f32Val b)) (f32Neg a && f32Neg b)
def iSub (a b : W32) : W32 := iAdd a (f32Flip b)
def iMul (a b : W32) : W32 := rdI (dyMul (f32Val a) (f32Val b)) (f32Neg a != f32Neg b)
def iFma (a b c : W32) : W32 :=
  rdI (dyAdd (dyMul (f32Val a) (f32Val b)) (f32Val c)) ((f32Neg a != f32Neg b) && f32Neg c)

/-! ### Fixed-point logarithm, sine and cosine -/

/-- Fraction bits of the fixed-point values. -/
def fxBits : Nat := 192
def fxOne : Int := (2 ^ fxBits : Nat)
def fxMul (a b : Int) : Int := (a * b) >>> fxBits
def fxDiv (a b : Int) : Int := (a * fxOne) / b

/-- Σ z^(2k+1) / (2k+1) over `n` terms from `k`, with `zp` the running power: the series of artanh. -/
def atanhSum : Nat → Int → Int → Nat → Int
  | 0, _, _, _ => 0
  | n + 1, z2, zp, k => zp / (2 * k + 1 : Nat) + atanhSum n z2 (fxMul zp z2) (k + 1)

def fxAtanh (z : Int) : Int := atanhSum 70 (fxMul z z) z 0

/-- ln 2. -/
def fxLn2 : Int := 2 * fxAtanh (fxOne / 3)

/-- ln of a positive fixed-point value. -/
def fxLn (x : Int) : Int :=
  let k : Int := (Nat.log2 x.toNat : Int) - fxBits
  let m : Int := if k ≥ 0 then x >>> k.toNat else x * (2 ^ (-k).toNat : Nat)
  2 * fxAtanh (fxDiv (m - fxOne) (m + fxOne)) + k * fxLn2

/-- The Gumbel noise g = −ln(−ln u), u = (w + 0.5) · 2^−24, rounded to binary32 (R163). -/
def gumbel (w : Nat) : W32 :=
  let u : Int := ((2 * w + 1 : Nat) : Int) * (2 ^ (fxBits - 25) : Nat)
  (rdV ⟨-(fxLn (-(fxLn u))), -(fxBits : Int)⟩ false).1

/-- Taylor series of sine (k = 1) and cosine (k = 0): Σ (−1)^i x^(2i+k) / (2i+k)!. -/
def trigSum : Nat → Int → Int → Nat → Int
  | 0, _, _, _ => 0
  | n + 1, x2, t, k => t + trigSum n x2 (-(fxMul t x2) / ((k + 1) * (k + 2) : Nat)) (k + 2)

/-- arctan of 1/q. -/
def atanInvSum : Nat → Int → Int → Nat → Int
  | 0, _, _, _ => 0
  | n + 1, q2, t, k => t / (2 * k + 1 : Nat) - atanInvSum n q2 (t / q2) (k + 1)

/-- π, by Machin's formula. -/
def fxPi : Int := 4 * (4 * atanInvSum 60 25 (fxOne / 5) 0 - atanInvSum 60 57121 (fxOne / 239) 0)

/-- cos(π·a/b) for 0 ≤ a/b ≤ 1/2, fixed point. -/
def fxCosQ (a b : Nat) : Int :=
  if 2 * a = b then 0
  else if a = 0 then fxOne
  else if 3 * a = b then fxOne / 2
  else let x := fxPi * (a : Int) / (b : Int); trigSum 40 (fxMul x x) fxOne 0

/-- cos(2π·k/n), folded into the first quadrant; exact at multiples of π/2 and π/3. -/
def fxCos (k n : Nat) : Int :=
  let k := k % n
  let k := if 2 * k > n then n - k else k         -- cos(2π − x) = cos x
  if 4 * k > n then -(fxCosQ (n - 2 * k) n) else fxCosQ (2 * k) n

/-- cos(2π·k/n) as a binary fraction. -/
def dyCos (k n : Nat) : Dy := ⟨fxCos k n, -(fxBits : Int)⟩

/-- sin(π·a/b). -/
def fxSinPi (a b : Nat) : Int := fxCos (4 * a + 6 * b) (8 * b)

/-- Σ x^k / k!. -/
def expSum : Nat → Int → Int → Nat → Int
  | 0, _, _, _ => 0
  | n + 1, x, t, k => t + expSum n x (fxMul t x / ((k + 1 : Nat) : Int)) (k + 1)

/-- e^x for 0 ≤ x ≤ 4. -/
def fxExp (x : Int) : Int := expSum 100 x fxOne 0

/-- Σ w^k / (k!)². -/
def besselSum : Nat → Int → Int → Nat → Int
  | 0, _, _, _ => 0
  | n + 1, w, t, k => t + besselSum n w (fxMul t w / (((k + 1) * (k + 1) : Nat) : Int)) (k + 1)

/-- The modified Bessel function I₀(2√w) for 0 ≤ w ≤ 16. -/
def fxBessel (w : Int) : Int := besselSum 80 w fxOne 0

/-- A value rounded to 53 significant bits, ties to even (float64 and the product of R203, the coefficients of R56). -/
def round53 (a : Dy) : Dy :=
  if a.m = 0 then dyZero
  else let r := roundSig 53 a.m.natAbs a.e; ⟨if a.m < 0 then -(r.1 : Int) else (r.1 : Int), r.2⟩

end Sys2Proof.Machine
end

