-- ==== Sys2Proof/Machine/SbSample.lean ====
section
/-! DEFINITION. The soundboard's sample stage: the declared geometry of a stream, sample conversion, resampling, and the
synthesis path (R29, R52 to R56, R66, R67). -/

namespace Sys2Proof.Machine
open Sys2Proof

/-! ### Geometry -/

def sbNone : SbDecl := ⟨0, 0, 0, 0, 0, 0, 0, 0, 0, 0, 0, 0⟩
def profileNone : Profile := ⟨0, 0, 7, 0, sbNone, false, 0, 0⟩

def profileOf (s : State) (x : Stream) : Profile := (getProfile s x.feProfile).getD profileNone
def streamDecl (s : State) (x : Stream) : Option ImageDecl := (getModel s x.model).map (·.decl)

def hopOf (s : State) (x : Stream) : Nat := (profileOf s x).sb.hopMs.toNat

/-- Frames of a chunk, F (R29). -/
def chunkFrames (s : State) (x : Stream) : Nat :=
  match streamDecl s x with
  | some d => d.chunkMs / hopOf s x
  | none => 0

/-- Mel bins, model rate, window and hop in samples, frame slot bytes (Table 3-1, R60). -/
def melOf (d : SbDecl) : Nat := d.melM1.toNat + 1
def modelRate (d : SbDecl) : Nat := match d.modelRate.toNat with | 0 => 8000 | 1 => 16000 | _ => 24000
def winLen (d : SbDecl) : Nat := (d.winM1.toNat + 1) * modelRate d / 1000
def hopLen (d : SbDecl) : Nat := d.hopMs.toNat * modelRate d / 1000
def fftLen (d : SbDecl) : Nat := 128 * 2 ^ d.fft.toNat
def slotBytes (d : SbDecl) : Nat := cdiv (4 * melOf d + 16) 64 * 64

/-- Bytes of a sample format (Table 3-2). -/
def sampleBytes (f : Nat) : Nat := match f with | 0 => 2 | 1 => 3 | 2 => 4 | _ => 1

/-- Rates (Table 3-3). -/
def rateOf (r : Nat) : Nat :=
  match r with | 0 => 8000 | 1 => 16000 | 2 => 22050 | 3 => 24000 | 4 => 32000 | 5 => 44100 | _ => 48000

def ibBytes (x : Stream) : Nat := 2 ^ x.ibSize.toNat
def ibAddr (x : Stream) : Nat := x.ibBase.toNat * 65536
def frAddr (x : Stream) : Nat := x.frBase.toNat * 65536
def frFrames (x : Stream) : Nat := 2 ^ (x.frSize.toNat + 5)
def obRecords (x : Stream) : Nat := 2 ^ (x.obSize.toNat + 6)
def imgAddr (x : Stream) : Nat := x.statePtr.toNat * 4096
/-- Bytes buffered in the inbox (R29). -/
def ibHeld (x : Stream) : Nat := (x.ibWr - x.ibRd).toNat

/-- The state images of the model: block and generation size (Table 8-2). -/
def blkBytes (d : ImageDecl) : Nat := d.blkSize * 4096
def genBytes (d : ImageDecl) : Nat := d.genSize * 4096

/-- The deadline of a class for a function (R36). -/
def classDeadline (s : State) (f : Func) (c : BitVec 3) : W64 := BitVec.ofNat 64 ((((getFn s f).deadlines).getD c.toNat 0) * 100000)

/-! ### Conversion (R54) -/

def f32One : W32 := 0x3F800000

/-- Clamps a finite value to [−1, 1]; the flag says that it changed. -/
def clampOne (x : W32) : W32 × Bool :=
  if f32Key x > f32Key f32One then (f32One, true)
  else if f32Key x < -(f32Key f32One) then (f32Flip f32One, true)
  else (x, false)

/-- The linear value of an A-law code, 13 bits (G.711). -/
def alawDecode (c : Byte) : Int :=
  let a := (c ^^^ 0x55).toNat
  let seg := nfld a 6 4
  let m : Int := (nfld a 3 0 : Nat)
  let v : Int := if seg = 0 then 2 * m + 1 else (2 * m + 33) * (2 ^ (seg - 1) : Nat)
  if a ≥ 128 then v else -v

/-- The linear value of a µ-law code, 14 bits (G.711). -/
def ulawDecode (c : Byte) : Int :=
  let u := (~~~c).toNat
  let m : Int := (nfld u 3 0 : Nat)
  let v : Int := (2 * m + 33) * (2 ^ nfld u 6 4 : Nat) - 33
  if u ≥ 128 then -v else v

/-- The 12-bit magnitude of A-law with its segment: a magnitude above 31 is halved until it fits. -/
def alawSeg : Nat → Nat → Nat → Nat
  | 0, x, e => (x - 16) + 16 * e
  | fuel + 1, x, e => if x > 31 then alawSeg fuel (x / 2) (e + 1) else (x - 16) + 16 * e

/-- A-law code of a 13-bit value (log 45). -/
def alawEncode (v : Int) : Byte :=
  let x := ((if v < 0 then -v - 1 else v) / 2).toNat
  let c := if x > 15 then alawSeg 8 x 1 else x
  BitVec.ofNat 8 (c + (if v < 0 then 0 else 128)) ^^^ 0x55

/-- µ-law code of a 14-bit value (log 45). -/
def ulawEncode (v : Int) : Byte :=
  let x := min ((if v < 0 then -v - 1 else v).toNat + 33) 0x1FFF
  let seg := Nat.log2 x - 5
  let c := (7 - seg) * 16 + (15 - (x >>> (seg + 1)) % 16)
  BitVec.ofNat 8 (c + (if v < 0 then 0 else 128))

/-- What conversion says of a sample. -/
structure Conv where
  x : W32
  nonfinite : Bool
  clipped : Bool
  deriving DecidableEq, Repr

/-- One input sample by its format (Table 3-2). -/
def convSample (fmt : Nat) (b : List Byte) : Conv :=
  let v := leNat b
  match fmt with
  | 0 => ⟨rdI ⟨sxt 16 v, -15⟩ false, false, false⟩
  | 1 => ⟨rdI ⟨sxt 24 v, -23⟩ false, false, false⟩
  | 3 => ⟨rdI ⟨alawDecode (b.headD 0) * 8, -15⟩ false, false, false⟩
  | 4 => ⟨rdI ⟨ulawDecode (b.headD 0) * 4, -15⟩ false, false, false⟩
  | _ =>
    let x : W32 := BitVec.ofNat 32 v
    if f32IsNan x then ⟨0, true, false⟩
    else if f32IsInf x then ⟨if f32Neg x then f32Flip f32One else f32One, true, false⟩
    else let c := clampOne x; ⟨c.1, false, c.2⟩

/-! ### Resampling (R56) -/

/-- A coefficient of R56 or Table 3-5: its exact value rounded to binary64, then to binary32 (log 12). -/
def coefOf (x : Int) : W32 := rdI (round53 ⟨x, -(fxBits : Int)⟩) false

/-- The Kaiser window of length `p`, β = 8, at the distance `d / 2` from its middle: I₀(8√(1 − (d / (p − 1))²)) / I₀(8). -/
def kaiser (p d : Nat) : Int :=
  let n : Int := (((p - 1) * (p - 1) : Nat) : Int)
  fxDiv (fxBessel (16 * fxOne * (n - ((d * d : Nat) : Int)) / n)) (fxBessel (16 * fxOne))

/-- g[i] of R56 for input rate `fi` and output rate `fo`: with d = |2i − (P − 1)| and min = min(fi, fo), the sinc is taken at
t = 9·min·d / (20·L·fi), and L·2fc / (L·fi) = 9·min / (10·fi). -/
def resampleCoef (fi fo i : Nat) : W32 :=
  let l := fo / Nat.gcd fi fo
  let p := 32 * l
  let d := if 2 * i < p - 1 then p - 1 - 2 * i else 2 * i - (p - 1)
  let a := 9 * min fi fo * d
  let b := 20 * l * fi
  let sinc := if a = 0 then fxOne else fxDiv (fxSinPi a b * (b : Int) / (a : Int)) fxPi
  coefOf (fxMul (sinc * ((9 * min fi fo : Nat) : Int) / ((10 * fi : Nat) : Int)) (kaiser p d))

/-- Σ g[p + jL] · x[n0 − j], by fma in ascending j; `xs` holds x[n0], x[n0 − 1] and so on. -/
def firSum (fi fo l p : Nat) : Nat → List W32 → W32 → W32
  | _, [], acc => acc
  | j, x :: xs, acc => firSum fi fo l p (j + 1) xs (iFma (resampleCoef fi fo (p + j * l)) x acc)

/-- The outputs that input sample number `k` completes: those from `m` on with ⌊mM / L⌋ = k. -/
def firOuts (fi fo : Nat) (k : Nat) (xs : List W32) : Nat → Nat → List W32
  | 0, _ => []
  | fuel + 1, m =>
    let g := Nat.gcd fi fo
    let l := fo / g
    let t := m * (fi / g)
    if t / l = k then firSum fi fo l (t % l) 0 xs 0 :: firOuts fi fo k xs fuel (m + 1) else []

/-- The 32 newest inputs, the newest first; inputs before the first are 0. -/
def firTaps (x : W32) (hist : List W32) : List W32 := ((x :: hist) ++ List.replicate 32 0).take 32

/-- What one input sample yields at the output rate: at most 8 samples at the rates of Table 3-3. -/
def resample (fi fo k m : Nat) (x : W32) (hist : List W32) : List W32 :=
  if fi = fo then [x] else firOuts fi fo k (firTaps x hist) 8 m

/-! ### Load counters (Table 3-6) -/

/-- The entry of a load counter counts at `now`: it is of the last 100 ms (Table 3-6). -/
def inWindow (now : W64) (e : W64 × Nat) : Bool := decide ((now - e.1).toNat < 10000000)

/-- Adds to a load counter, whose entries older than 100 ms go. -/
def noteLoad : W64 → Nat → List (W64 × Nat) → List (W64 × Nat)
  | now, n, [] => [(now, n)]
  | now, n, e :: r => if e.1 = now then (now, e.2 + n) :: r else (now, n) :: (e :: r).filter (inWindow now)

/-! ### Synthesis output (R66, R67) -/

/-- Bytes of the staging area: two chunks of samples (log 47 where there is no output path). -/
def stagingSamples (s : State) (x : Stream) : Nat :=
  match streamDecl s x with
  | some d => if d.synth ∧ (profileOf s x).outFmt ≠ 7 then 2 * (d.chunkMs * modelRate (profileOf s x).sb / 1000) else 0
  | none => 0

/-- The address of the `k`-th sample that the model wrote. -/
def stagingAddr (s : State) (x : Stream) (k : Nat) : Nat :=
  frAddr x + 1024 + frFrames x * slotBytes (profileOf s x).sb + 4 * (k % max 1 (stagingSamples s x))

/-- The bytes of an output sample, and whether the clamp changed it. -/
def encodeSample (fmt : Nat) (y : W32) : List Byte × Bool :=
  let c := clampOne y
  let s16 := satn 16 (dyRne (dyScale (f32Val c.1) 15))
  (match fmt with
   | 0 => leBytes 2 (ofI 16 s16).toNat
   | 1 => leBytes 3 (ofI 24 (satn 24 (dyRne (dyScale (f32Val c.1) 23)))).toNat
   | 3 => [alawEncode (s16 >>> (3 : Nat))]
   | 4 => [ulawEncode (s16 >>> (2 : Nat))]
   | _ => leBytes 4 c.1.toNat, c.2)

/-- Closing by the reset of its client: nothing more is written for it (R312). -/
def isSilent (x : Stream) : Bool := match x.closing with | some c => c.silently | none => false

/-- Writes bytes circularly into the PCM ring behind the outbox ring; none for a function that was reset (R312). -/
def putPcm (s : State) (h : Handle) (b : List Byte) : State :=
  let x := getStream s h
  if isSilent x then s else
  let size := 2 ^ ((profileOf s x).pcmSize.toNat + 12)
  let base := x.obBase.toNat * 4096 + 16 * obRecords x
  let s := b.zipIdx.foldl (fun s (v, i) => hostWr s x.client (base + (x.pcmTotal.toNat + i) % size) [v]) s
  modStream (chargeHost s x.client b.length) h fun x => { x with pcmTotal := x.pcmTotal + BitVec.ofNat 32 b.length, pcmChunk := true }

/-- One output sample leaves: clamped, encoded, written. -/
def putSample (s : State) (h : Handle) (y : W32) : State :=
  let p := profileOf s (getStream s h)
  let e := encodeSample p.outFmt.toNat y
  let s := { s with sbtm := { s.sbtm with
    clip := if e.2 then satAdd s.sbtm.clip 1 else s.sbtm.clip, samples := noteLoad s.time 1 s.sbtm.samples } }
  putPcm s h e.1

/-- A sample of the staging area; R66 gives no rule for a NaN or an infinity, which counts as a free value (log 109). -/
def stagedValue (y : W32) : W32 := if f32IsNan y || f32IsInf y then Config.stagedNonfinite y else y

/-- The soundboard takes one sample of the staging area. -/
def synthSample (s : State) (h : Handle) : State :=
  let x := getStream s h
  let p := profileOf s x
  let y := stagedValue (BitVec.ofNat 32 (Memory.rdNat s.mem (stagingAddr s x x.sb.outTaken) 4))
  let outs := resample (modelRate p.sb) (rateOf p.outRate.toNat) x.sb.outTaken x.sb.outCount y x.sb.outHist
  let s := modStream s h fun x => { x with sb := { x.sb with
    outHist := (firTaps y x.sb.outHist).take 31, outTaken := x.sb.outTaken + 1, outCount := x.sb.outCount + outs.length } }
  outs.foldl (fun s y => putSample s h y) s

def synthSamples : Nat → State → Handle → State
  | 0, s, _ => s
  | k + 1, s, h => synthSamples k (synthSample s h) h

/-- Samples that a chunk's run writes: half of the staging area (log 47). -/
def chunkSamples (s : State) (x : Stream) : Nat := stagingSamples s x / 2

/-- Samples of the current chunk that have not been put out. -/
def synthLeft (s : State) (x : Stream) : Nat := x.synthEnd + chunkSamples s x - x.sb.outTaken

/-- A chunk that ran has ended: what is left of a committed chunk's samples is put out, so that its PCM precedes its records
(R67); the samples of a failed one are passed over. -/
def endSynth (s : State) (h : Handle) (commit : Bool) : State :=
  let x := getStream s h
  let n := chunkSamples s x
  if n = 0 then s
  else
    modStream (if commit then synthSamples (synthLeft s x) s h else s) h fun y =>
      { y with synthEnd := x.synthEnd + n, sb := { y.sb with outTaken := max y.sb.outTaken (x.synthEnd + n) } }

end Sys2Proof.Machine
end

