-- ==== Sys2Proof/Machine/StreamOps.lean ====
section
/-! DEFINITION. Streams: records into the outbox ring, CHUNK_DONE messages, the end and the
requeue of a chunk, the end of a close (R22 to R51, R308). -/

namespace Sys2Proof.Machine
open Sys2Proof

/-! ### Records (R48, Table 2-5) -/

structure RecFlags where
  last : Bool
  silence : Bool
  afterReset : Bool
  late : Bool
  final : Bool
  failed : Bool
  deriving DecidableEq, Repr

def noToken : BitVec 24 := 0xFFFFFF
def pcmToken : BitVec 24 := 0xFFFFFE

def recordBits (token : BitVec 24) (phase : Bool) (g : RecFlags) (time : W32) (score : BitVec 16) (h : Handle) (seq : BitVec 16) :
    BitVec 128 :=
  let b := BitVec.ofBool
  0#16 ++ seq ++ h ++ score ++ time ++ 0#1 ++ b g.failed ++ b g.final ++ b g.late ++ b g.afterReset ++ b g.silence ++ b g.last ++
    b phase ++ token

/-- Writes the next record of a stream's outbox ring (R48). -/
def putRecord (s : State) (h : Handle) (token : BitVec 24) (g : RecFlags) (time : W32) (score : BitVec 16) (seq : W32) : State :=
  let x := getStream s h
  if isSilent x then s
  else
    let r := recordBits token x.obPhase g time score h (seq.setWidth 16)
    let s := hostWr s x.client (x.obBase.toNat * 4096 + 16 * x.obHead.toNat) (leBytes 16 r.toNat)
    let s := chargeHost s x.client 16
    let k := x.obHead.toNat + 1
    modStream s h fun x =>
      if k ≥ obRecords x then { x with obHead := 0, obPhase := !x.obPhase } else { x with obHead := BitVec.ofNat 12 k }

/-! ### CHUNK_DONE (R308) -/

structure DoneEntry where
  client : Func
  vector : VecNo
  bits : W32
  deriving DecidableEq, Repr

def doneEntry (x : Stream) (h : Handle) (seq : W32) (failed final : Bool) : DoneEntry :=
  ⟨x.client, x.vector, BitVec.ofBool final ++ BitVec.ofBool failed ++ seq.setWidth 14 ++ h⟩

/-- A message of at most 12 entries: the count in bytes 8 and 9, entries from byte 16. -/
def doneMsg (v : VecNo) (l : List W32) : Msg :=
  ⟨kCHUNK_DONE, 0, v.setWidth 16, 0,
    BitVec.ofNat 448 (l.length + 2 ^ 64 * (l.zipIdx.map fun (e, i) => e.toNat * 2 ^ (32 * i)).sum), false⟩

def chunks12 : Nat → List W32 → List (List W32)
  | 0, _ => []
  | fuel + 1, l => if l.isEmpty then [] else l.take 12 :: chunks12 fuel (l.drop 12)

/-- Posts the entries of one update: those of one function and vector together, in order. -/
def postDone (s : State) (l : List DoneEntry) : State :=
  ((l.map fun e => (e.client, e.vector)).eraseDups).foldl
    (fun s k =>
      let es := (l.filter fun e => decide ((e.client, e.vector) = k)).map (·.bits)
      (chunks12 es.length es).foldl (fun s m => postMsg s k.1 (doneMsg k.2 m)) s) s

/-! ### The end of a chunk (R32, R35, R228) -/

/-- Frames dropped by a pending discard beyond the chunk that ends. -/
def discardFrames (x : Stream) (f : Nat) : Nat :=
  match x.discard with
  | none => 0
  | some d => (d - (x.frRd + BitVec.ofNat 24 f)).toNat

/-- next_seq, fr_rd and the chunk list after a chunk's end. -/
def passChunk (x : Stream) (f : Nat) : Stream :=
  let n := discardFrames x f
  { x with
    nextSeq := x.nextSeq + 1 + BitVec.ofNat 32 (n / f), frRd := x.frRd + BitVec.ofNat 24 (f + n)
    firstFrameAbs := x.firstFrameAbs + f + n, chunks := x.chunks.tail, discard := none, inBundle := false }

/-- The bow fields after a commit or failure (R228). -/
def passBow (x : Stream) (bstride : Nat) : Stream :=
  let b := bowAdvance x.bowKey x.bowStep x.bowEpoch bstride
  { x with bowKey := b.1, bowStep := b.2.1, bowEpoch := b.2.2 }

/-- The reset flag after the end of a chunk that started with `r` (R34). -/
def passReset (x : Stream) (r : Bool) : Stream :=
  { x with resetFlag := if r then x.resetNext else x.resetFlag, resetNext := false }

/-- What a committed chunk of a stream wrote by way of tokens: token, score, offset in ms (R427). -/
abbrev Tokens := List (BitVec 24 × BitVec 16 × W32)

/-- The time field of a record at an offset into the chunk. -/
def recTime (s : State) (x : Stream) (tms : W32) : W32 := BitVec.ofNat 32 (x.firstFrameAbs * hopOf s x) + tms

/-- The record of the PCM total, where the chunk put out PCM (R67). A chunk that fails has none, since a failed record's token is
0xFF_FFFF (Table 2-5); bytes that its run put out count with the next total. -/
def pcmRecord (s : State) (h : Handle) (g : RecFlags) (seq : W32) : State :=
  let x := getStream s h
  if x.pcmChunk then modStream (putRecord s h pcmToken { g with last := false } x.pcmTotal 0 seq) h fun x => { x with pcmChunk := false }
  else s

/-- The records of a chunk: the tokens, or the one record of a chunk without tokens (R49, log 39). -/
def chunkRecords (s : State) (h : Handle) (g : RecFlags) (toks : Tokens) (seq : W32) : State :=
  let x := getStream s h
  let toks : Tokens := if toks.isEmpty then [(noToken, 0, 0)] else toks
  toks.zipIdx.foldl (fun s (t, i) => putRecord s h t.1 { g with last := decide (i + 1 = toks.length) } (recTime s x t.2.2) t.2.1 seq) s

/-- How a chunk ends. -/
inductive ChunkEnd where
  | commit | fail | silent
  deriving DecidableEq, Repr

/-- Is the stream's eligible chunk late now? -/
def lateNow (s : State) (x : Stream) : Bool :=
  match x.chunks.head? with
  | some c => decide (c.deadline.toNat < s.time.toNat)
  | none => false

/-- The end of a stream's current chunk: records, counts, ring counters, generation, bow and reset flag; with
the CHUNK_DONE entry that is to be posted. `r`: the chunk started from zero state. -/
def endChunk (s : State) (h : Handle) (how : ChunkEnd) (r : Bool) (toks : Tokens) : State × List DoneEntry :=
  let x := getStream s h
  let f := chunkFrames s x
  let bstride := match streamDecl s x with | some d => d.bstride | none => 0
  let failed := decide (how = .fail)
  let late := lateNow s x && !failed
  let silence := match x.chunks.head? with | some c => c.silent | none => false
  let seq := x.nextSeq
  let g : RecFlags := ⟨false, silence, r, late, false, failed⟩
  let s := if how = .silent then s else endSynth s h (how = .commit)
  let s := if how = .commit then pcmRecord s h g seq else s
  let s := chunkRecords s h g (if how = .commit then toks else []) seq
  let s := modAcct s x.client fun a => { a with
    committed := if failed then a.committed else a.committed + 1, failed := if failed then a.failed + 1 else a.failed
    late := if late then a.late + 1 else a.late }
  let s := modStream s h fun x =>
    let x := passChunk x f
    if how = .silent then x
    else
      let x := passReset (passBow x bstride) r
      { x with gen := if how = .commit then !x.gen else x.gen }
  (s, if isSilent x then [] else [doneEntry x h seq failed false])

/-- Requeue: the chunk returns to eligibility unchanged (R32, R40). `hs`, `err`: what the counts become; `late`: the cores of the task that
was stopped (R185). -/
def requeueChunk (s : State) (h : Handle) (hs err : Nat → Nat) (late : List CoreId) : State :=
  modStream s h fun x =>
    { x with
      inBundle := false, resetNext := false
      chunks := match x.chunks with
        | c :: l => { c with hsRuns := hs c.hsRuns, errRuns := err c.errRuns, late := late } :: l
        | [] => [] }

/-! ### Closing (R43, R44) -/

/-- Regions of a stream. -/
def usesStream (h : Handle) (u : RegionUse) : Bool :=
  match u with
  | .image k | .inbox k | .feature k => decide (k = h)
  | _ => false

/-- The entry returns to FREE; a profile that no stream names any more is freed (03); audio of it still being gathered
goes nowhere. -/
def freeStream (s : State) (h : Handle) : State :=
  let x := getStream s h
  let p := x.feProfile
  let s := releaseRegions s fun r => usesStream h r.use
  let s := modFn s x.client fun y => { y with gathers := y.gathers.map fun g => { g with entries := g.entries.filter fun e => decide (e.1 ≠ h) } }
  let s := setStream s h .reset
  if s.streams.any fun x => decide (x.2.state ≠ .free) && decide (x.2.feProfile = p) then s
  else { s with profiles := tdel s.profiles p.toNat }

/-- Nothing is left to run of a closing stream. -/
def closeDone (s : State) (x : Stream) : Bool :=
  decide (x.state = .closing) && !x.inBundle &&
  match x.closing with
  | none => false
  | some c =>
    if c.silently then true
    else if c.abort then x.chunks.isEmpty
    else x.chunks.isEmpty && c.drained && decide (x.reserved = 0) &&
      decide ((x.frWr - x.frRd).toNat < max 1 (chunkFrames s x))

/-- The final record, the completion message, and the stream is FREE (R43, R308, log 40). -/
def finishClose (s : State) (h : Handle) : State :=
  let x := getStream s h
  if !closeDone s x then s
  else
    let s := putRecord s h noToken ⟨false, false, false, false, true, false⟩ (recTime s x 0) 0 x.nextSeq
    let s := if isSilent x then s else postDone s [doneEntry x h x.nextSeq false true]
    freeStream s h

/-! ### Moves of state images (R25 to R27, R185, R251, R272) -/

/-- The tier that holds a stream's images. -/
def imageTier (x : Stream) : Nat := tierOf (imgAddr x)

/-- A migration descriptor (Table 12-6). -/
def mkDesc (op cls : Nat) (tag : BitVec 16) (src dst len lay : Nat) : BitVec 256 :=
  BitVec.ofNat 256 (op + cls * 2 ^ 3 + tag.toNat * 2 ^ 16 + src * 2 ^ 32 + dst * 2 ^ 80 + len * 2 ^ 128 + lay * 2 ^ 168)

/-- The runtime writes descriptors under a fresh tag. -/
def queueDescs (s : State) (l : BitVec 16 → List (BitVec 256)) : BitVec 16 × State :=
  let tag := s.mig.next
  (tag, { s with mig := { s.mig with next := tag + 1, queue := s.mig.queue ++ l tag } })

/-- Bytes of the window region of a block; with wcap = 0 there is none (R177, R251). -/
def winBytes (d : ImageDecl) : Nat := if d.wcap = 0 then 0 else blkBytes d - 2 * genBytes d

/-- The greatest coded form of a generation and its window region (R241, R251). -/
def codedMax (d : ImageDecl) : Nat :=
  64 + (d.layers.map fun l => 320 + (if l.s24 then emaxOf (3 * l.count) 3 else emaxOf (2 * l.count) 2)).sum + 320 + emaxOf (winBytes d) 1

/-- Space that images take in tier 1 or 2: that of the block, or more where the coded form may need it. -/
def lowBytes (d : ImageDecl) : Nat := pages (max (blkBytes d) (codedMax d))

/-- The descriptors that carry committed images from a generation address and a window address to a raw copy
(sealed destination) or a coded one (R251). -/
def outDescs (d : ImageDecl) (lay cls gen win dst : Nat) (raw : Bool) (tag : BitVec 16) : List (BitVec 256) :=
  if raw then
    mkDesc 0 cls tag gen dst (genBytes d) 0 ::
      (if winBytes d = 0 then [] else [mkDesc 0 cls tag win (dst + genBytes d) (winBytes d) 0])
  else [mkDesc 2 cls tag gen dst (genBytes d) lay]

/-- The descriptors that bring a copy back to a generation address and a window address. -/
def backDescs (d : ImageDecl) (lay cls src gen win : Nat) (raw : Bool) (tag : BitVec 16) : List (BitVec 256) :=
  if raw then
    mkDesc 0 cls tag src gen (genBytes d) 0 ::
      (if winBytes d = 0 then [] else [mkDesc 0 cls tag (src + genBytes d) win (winBytes d) 0])
  else [mkDesc 3 cls tag src gen (genBytes d) lay]

/-- A generation's address in a tier 0 block, and its window region. -/
def genAddr (d : ImageDecl) (base : Nat) (g : Bool) : Nat := base + (if g then genBytes d else 0)
def winAddr (d : ImageDecl) (base : Nat) : Nat := base + 2 * genBytes d

/-- A copy of a stream's images to `dst` starts: a demotion, or a promotion in class `cls` (R25, R27, R41). -/
def startMove (s : State) (h : Handle) (promote : Bool) (cls dst : Nat) : State :=
  let x := getStream s h
  match getModel s x.model with
  | none => s
  | some m =>
    let d := m.decl
    let src := imgAddr x
    let rawSrc := touchesSealed s src (blkBytes d)
    let rawDst := touchesSealed s dst (blkBytes d)
    let descs (tag : BitVec 16) : List (BitVec 256) :=
      if promote then backDescs d m.imageAt cls src (genAddr d dst x.gen) (winAddr d dst) rawSrc tag
      else if imageTier x = 0 then outDescs d m.imageAt cls (genAddr d src x.gen) (winAddr d src) dst rawDst tag
      else if rawSrc = rawDst then [mkDesc 0 cls tag src dst (lowBytes d) 0]
      else if rawSrc then outDescs d m.imageAt cls src (src + genBytes d) dst false tag
      else backDescs d m.imageAt cls src dst (dst + genBytes d) false tag
    let (tag, s) := queueDescs s descs
    let s := { s with regions := s.regions ++ [⟨dst, if promote then blkBytes d else lowBytes d, .image h⟩] }
    let s := if !promote ∧ rawDst then modModel s x.model fun m => { m with tele := { m.tele with suppressed := m.tele.suppressed + 1 } } else s
    modStream s h fun x => { x with moving := true, move := some ⟨promote, dst, tag⟩ }

/-- The descriptors of a tag leave the engine's queue. -/
def dropDescs (s : State) (tag : BitVec 16) : State :=
  let other (d : BitVec 256) : Bool := decide (nfld d.toNat 31 16 ≠ tag.toNat)
  { s with mig := { s.mig with queue := s.mig.queue.filter other, work := s.mig.work.filter fun w => other w.desc, cur := s.mig.cur.filter other } }

/-- A copy in progress is given up: its descriptors and its space are released (R27). A demotion that is due and has not
started has neither (R26). -/
def dropMove (s : State) (h : Handle) : State :=
  match (getStream s h).move with
  | none => s
  | some m =>
    let s := if (getStream s h).moving then
        releaseRegions (dropDescs s m.tag) fun r => decide (r.base = m.dst) && decide (r.use = .image h)
      else s
    modStream s h fun x => { x with moving := x.migrating, move := none }

/-- The images of a stream now stand in a new place; the old space is released. -/
def switchPtr (s : State) (h : Handle) (dst : Nat) : State :=
  let old := imgAddr (getStream s h)
  let s := releaseRegions s fun r => decide (r.base = old) && decide (r.use = .image h)
  modStream s h fun x => { x with statePtr := BitVec.ofNat 36 (dst / 4096), moving := x.migrating, move := none }

/-- Both generations are allocated in tier 0 zeroed, in place of a promotion (R428). -/
def zeroedBlock (s : State) (h : Handle) (base : Nat) : State :=
  match streamDecl s (getStream s h) with
  | none => s
  | some d =>
    let s := dropMove s h
    let s := { s with mem := Memory.zero s.mem base (blkBytes d), regions := s.regions ++ [⟨base, blkBytes d, .image h⟩] }
    switchPtr s h base

/-- The next tier down has the place free for the stream's images (R25). -/
def moveFits (s : State) (h : Handle) (dst : Nat) : Bool :=
  let x := getStream s h
  match streamDecl s x with
  | none => false
  | some d =>
    decide (0 < blkBytes d) &&
    (if imageTier x = 0 then spaceOk s tier1Base tier2Base dst (lowBytes d)
     else decide (imageTier x = 1) && spaceOk s tier2Base tierEnd dst (lowBytes d))

/-- A demotion that a pause timer asked for starts once no chunk is in a bundle (R26). `moving = false` with a
move recorded is one that is due. -/
def startDue (s : State) (h : Handle) : State :=
  let x := getStream s h
  match x.move with
  | some m =>
    if !x.moving ∧ !x.inBundle ∧ x.state = .paused then
      let s := modStream s h fun x => { x with move := none }
      if moveFits s h m.dst then startMove s h false 2 m.dst else s
    else s
  | none => s

/-- A block on a retired page moves to a new one at a commit or requeue (R397). -/
def moveOffRetired (s : State) (blocks : List NewBlock) (h : Handle) : State :=
  let x := getStream s h
  match streamDecl s x, blocks.find? fun b => decide (b.handle = h) with
  | some d, some b =>
    let a := imgAddr x
    if s.mon.retired.any (fun pg => decide (pg * 4096 < a + blkBytes d) && decide (a < pg * 4096 + 4096)) ∧ imageTier x = 0 ∧ !x.moving then
      let g := Memory.rds s.mem (genAddr d a x.gen) (genBytes d)
      let w := Memory.rds s.mem (winAddr d a) (winBytes d)
      let m := Memory.wrs (Memory.wrs (Memory.zero s.mem b.base (blkBytes d)) (genAddr d b.base x.gen) g) (winAddr d b.base) w
      switchPtr { s with mem := m, regions := s.regions ++ [⟨b.base, blkBytes d, .image h⟩] } h b.base
    else s
  | _, _ => s

/-- A close that has nothing left to run ends; a copy of its images is given up. -/
def endClose (s : State) (h : Handle) : State :=
  if closeDone s (getStream s h) then finishClose (dropMove s h) h else s

/-- What follows the end or the requeue of a stream's chunk. -/
def afterChunk (s : State) (blocks : List NewBlock) (h : Handle) : State := endClose (startDue (moveOffRetired s blocks h) h) h

end Sys2Proof.Machine
end

