-- ==== Sys2Proof/Machine/Queues.lean ====
section
/-! DEFINITION. Shared operations of the queued commands: the queues, what the start of a command answers, members and draw keys, the port
accesses of the operand forms, and the check of a core's access to memory. -/

namespace Sys2Proof.Machine
open Sys2Proof

/-! ### Queues by name -/

/-- The four queues, and the sequencer's own accesses. -/
inductive QSel where
  | dma | wl | mx | vx | sq
  deriving DecidableEq, Repr

def getQ (q : Seq) : QSel → List QEntry
  | .dma => q.dmaQ
  | .wl => q.wlQ
  | .mx => q.mxQ
  | .vx => q.vxQ
  | .sq => q.seqQ

def setQ (q : Seq) (k : QSel) (l : List QEntry) : Seq :=
  match k with
  | .dma => { q with dmaQ := l }
  | .wl => { q with wlQ := l }
  | .mx => { q with mxQ := l }
  | .vx => { q with vxQ := l }
  | .sq => { q with seqQ := l }

/-- The queue of a command (Tables 4-2 and 4-12). -/
def queueOf : QKind → QSel
  | .summarySend | .summaryAsk | .dmaLoad | .dmaStore | .dmaCopy | .dmaZero | .cfgCzLoad | .cfgCzBuild | .stLoad | .stSave
  | .stWread | .stWwrite => .dma
  | .wload => .wl
  | .cfgFret | .cfgCodebook | .cfgDecay | .matmulPlain | .matmulAccum | .matmulDecay | .matmulRotate | .adrainDrain
  | .adrainFill => .mx
  | .cfgRescale | .cfgTbl | .vchain | .vdescLoad | .vdescSetvl | .vdescStats | .spreadFwd | .spreadInv | .scan | .merge
  | .pick => .vx
  | .ld | .st | .cfgCtrl | .cfgBow | .decisionCopy => .sq

/-- Removes an entry. -/
def dropEntry (s : State) (c : CoreId) (k : QSel) (n : Nat) : State :=
  modSeq s c fun q => setQ q k ((getQ q k).filter fun e => decide (e.n ≠ n))

/-- Changes an entry. -/
def modEntry (s : State) (c : CoreId) (k : QSel) (n : Nat) (f : QEntry → QEntry) : State :=
  modSeq s c fun q => setQ q k ((getQ q k).map fun e => if e.n = n then f e else e)

/-- The entry as its queue holds it. -/
def entryNow (s : State) (c : CoreId) (q : QEntry) : QEntry :=
  ((getQ (getCore s c).seq (queueOf q.kind)).find? fun e => decide (e.n = q.n)).getD q

/-- Entries of a queue that were issued before entry `n` and have not completed. -/
def earlier (q : List QEntry) (n : Nat) : List QEntry := q.filter fun e => decide (e.n < n)

/-- From which cycle on these commands let the next one of their queue start. -/
def freeAt (l : List QEntry) : Nat := (l.map (·.free)).foldl max 0

def isMatmul (k : QKind) : Bool :=
  match k with
  | .matmulPlain | .matmulAccum | .matmulDecay | .matmulRotate => true
  | _ => false

def isAdrain (k : QKind) : Bool := decide (k = .adrainDrain) || decide (k = .adrainFill)

/-- A command that memory timing paces: what it moves, it moves in the beats that the environment gives (R89, R145, R181). -/
def byMemory (k : QKind) : Bool :=
  match k with
  | .summarySend | .summaryAsk | .dmaLoad | .dmaStore | .dmaCopy | .dmaZero | .adrainDrain | .adrainFill | .stLoad | .stSave
  | .stWread | .stWwrite => true
  | _ => false

/-! ### Starts -/

/-- The answer of a start: not yet; a failed check, by its cause, address, and whether the queues abandon their other commands (R396); the
command completes in the cycle of its start; or it runs, as the entry it is then. -/
inductive StartRes where
  | wait
  | fail (cause : BitVec 8) (addr : Option (BitVec 48)) (abandon : Bool)
  | done (s : State)
  | run (s : State) (q : QEntry)
  deriving DecidableEq, Repr

/-- The core's clock. -/
def clockOf (s : State) (c : CoreId) : Nat := (getCore s c).seq.cycle

/-- The entry, started in the core's present cycle. -/
def begun (s : State) (c : CoreId) (q : QEntry) : QEntry := { q with started := true, startAt := clockOf s c }

/-- A command with a timing of its own that presents one access a cycle in its first `n` cycles and completes `m` cycles after its start. -/
def timed (s : State) (c : CoreId) (q : QEntry) (m : Nat) : QEntry := { begun s c q with endAt := some (clockOf s c + m) }

/-- A memory command whose last memory request leaves `n` cycles after its start (R89). -/
def paced (s : State) (c : CoreId) (q : QEntry) (n : Nat) : QEntry := { begun s c q with free := clockOf s c + max 1 n }

/-! ### Members and draw keys (R137, R162, R222) -/

def hasBundle (s : State) (c : CoreId) : Bool := ((taskOfCore s c).bind (·.bundle)).isSome

/-- The key and step base of a draw for bundle member `m`; the job's own in a task with no bundle (R226). -/
def drawKey (s : State) (c : CoreId) (m : Nat) : W64 × BitVec 28 :=
  if hasBundle s c then
    match (membersOf s c)[m]? with
    | some x => (x.bowKey, x.bowStep)
    | none => (0, 0)
  else ((getCore s c).bwKey, (getCore s c).bwStep)

/-- MEMBER_RANGE of a command that draws for `n` members from `mbase` on; with no bundle, mbase must be 0
(R137, R162, log 26). -/
def memberErr (s : State) (c : CoreId) (mbase n : Nat) : Bool :=
  if hasBundle s c then decide (mbase + n > (membersOf s c).length) else decide (mbase ≠ 0)

/-! ### Operand forms (R109, R110) -/

def halfAt (l : List Byte) (i : Nat) : List Byte := (l.drop (2 * i)).take 2

/-- The task-relative pieces that an access of row `i` of a form reads, in order: address and length. -/
abbrev Pieces := List (Nat × Nat)

/-- The two accesses of a transposed block at `a` with pitch `p`: eight source rows each. -/
def transPieces (a p sub : Nat) : Pieces := (List.range 8).map fun r => (a + (8 * sub + r) * p, 32)

/-- The 512 bytes of a transposed read from its 16 source rows: output element 16i + j is source element (j, i) (R109). -/
def transposed (rows : List Byte) : List Byte :=
  (List.range 16).flatMap fun i => (List.range 16).flatMap fun j => halfAt ((rows.drop (32 * j)).take 32) i

/-- Addresses of the elements of a strided read at `a` with stride `st`. -/
def stridedAt (a st n : Nat) : List Nat := (List.range n).map fun k => a + k * (2 * st)

/-- The 64-byte word of a task-relative address; the bank of a word (Table 5-1). -/
def spWord (t : SpTask) (a : Nat) : Nat := ((xlat t a).getD 0) / 64
def bankOf (w : Nat) : Nat := w / 2048 * 8 + w % 8

/-- The distinct words of a strided read. -/
def stridedWords (t : SpTask) (a st n : Nat) : List Nat :=
  ((stridedAt a st n).map (spWord t)).foldl (fun m w => if m.contains w then m else m ++ [w]) []

/-- In which cycle of a strided read a word is supplied: its place among the read's words of its bank (R110). -/
def wordTurn (l : List Nat) (w : Nat) : Nat := (l.filter fun v => decide (bankOf v = bankOf w) && decide (v < w)).length

/-- The cycles for which a strided read occupies its port. -/
def stridedCycles (t : SpTask) (a st n : Nat) : Nat :=
  let l := stridedWords t a st n
  (l.map fun w => wordTurn l w + 1).foldl max 1

/-- The elements that a strided read's cycle `sub` supplies. -/
def stridedElems (t : SpTask) (a st n sub : Nat) : List Nat :=
  let l := stridedWords t a st n
  (List.range n).filter fun k => decide (wordTurn l (spWord t (a + k * (2 * st))) = sub)

def stridedPieces (t : SpTask) (a st n sub : Nat) : Pieces := (stridedElems t a st n sub).map fun k => (a + k * (2 * st), 2)

/-- The row that a strided read gathers, from the bytes of its cycles. -/
def gathered (t : SpTask) (a st n : Nat) (subs : List (List Byte)) : List Byte :=
  let got := subs.zipIdx.flatMap fun (b, sub) => (stridedElems t a st n sub).zipIdx.map fun (k, i) => (k, halfAt b i)
  (List.range n).flatMap fun k => match got.find? fun x => decide (x.1 = k) with | some x => x.2 | none => [0, 0]

/-- The ranges of a transposed block at `a` with pitch `p`. -/
def transRanges (a p : Nat) : List SpRange := (List.range 16).map fun r => ⟨false, a + r * p, 32⟩

/-- The ranges of a strided read of `n` elements at `a` with stride `st` (R110). -/
def stridedRanges (a st n : Nat) : List SpRange := (List.range n).map fun k => ⟨false, a + k * (2 * st), 2⟩

/-! ### Accesses (R103) -/

/-- An access that a command presents in a cycle: its port (Table 5-2), the command's entry and PC, the key under which the command keeps
what a read delivers, the pieces it touches, and the bytes of a write. -/
structure Access where
  port : BitVec 3
  k : QSel
  n : Nat
  pc : BitVec 13
  key : Nat
  pieces : Pieces
  data : Option (List Byte)
  deriving DecidableEq, Repr

def reads (q : QEntry) (port : BitVec 3) (key : Nat) (l : Pieces) : Access := ⟨port, queueOf q.kind, q.n, q.pc, key, l, none⟩
def writes (q : QEntry) (port : BitVec 3) (a : Nat) (b : List Byte) : Access := ⟨port, queueOf q.kind, q.n, q.pc, 0, [(a, b.length)], some b⟩

/-- The accesses that read `n` bytes at `a` in steps of `width`, one a cycle from the start: the one of the cycle, if any. -/
def readStep (q : QEntry) (port : BitVec 3) (a n width t : Nat) : List Access :=
  let j := t - q.startAt
  if j * width < n then [reads q port j [(a + j * width, min width (n - j * width))]] else []

/-- What the entry keeps under a key. -/
def capOf (q : QEntry) (key : Nat) : List Byte := match q.cap.find? fun x => decide (x.1 = key) with | some x => x.2 | none => []

/-- The bytes kept under the keys 0, 1, … of `readStep`. -/
def capAll (q : QEntry) (n width : Nat) : List Byte := (List.range (cdiv n width)).flatMap (capOf q)

def putCap (q : QEntry) (key : Nat) (b : List Byte) : QEntry := { q with cap := (key, b) :: q.cap }

/-! ### A core's access to local memory (R88, R254, R259, R400) -/

/-- Does the range touch `[lo, lo + len)`? -/
def overlaps (a n lo len : Nat) : Bool := decide (a < lo + len) && decide (lo < a + n) && decide (0 < n) && decide (0 < len)

/-- A write into the task's bundle record, or into a state image block (R79, R259). -/
def writeForbidden (s : State) (c : CoreId) (a n : Nat) : Bool :=
  (match (taskOfCore s c).bind (·.bundle) with
   | some b => overlaps a n b.recAddr (64 + 64 * b.members.length)
   | none => false) ||
  s.regions.any fun r => (match r.use with | .image _ => true | _ => false) && overlaps a n r.base r.size

/-- May the core make the access: grants of its partition and job, and the exceptions above. -/
def coreMay (s : State) (c : CoreId) (write : Bool) (a n : Nat) : Bool :=
  match partOfCore s c, taskOfCore s c with
  | some p, some t => partGrant s p t.job write a n && !(write && writeForbidden s c a n)
  | _, _ => false

/-- The range lies on an expander that went down (R400), or in tier 1 while its interface is down (R373, log 62). -/
def onDown (s : State) (a n : Nat) : Bool :=
  (s.pw.lpddrDown && overlaps a n tier1Base (tier2Base - tier1Base)) ||
  (List.range 4).any fun x => s.pw.expDown.getLsbD x && overlaps a n (tier2Base + x * sliceSize) sliceSize

/-- The cause of an access that `onDown` names. -/
def downCause (a : Nat) : BitVec 8 := if tierOf a = 1 then cDATA_T1 else cDATA_T2

/-- FENCE of a list of local ranges, in order (R88). -/
def localErr (s : State) (c : CoreId) (write : Bool) : List (Nat × Nat) → Option StartRes
  | [] => none
  | (a, n) :: r => if !coreMay s c write a n then some (.fail cFENCE (some (BitVec.ofNat 48 a)) false) else localErr s c write r

/-- DATA_T1 or DATA_T2 of ranges on an interface that is down, once every check has passed (R88, R373, R400). -/
def downErr (s : State) : List (Nat × Nat) → Option StartRes
  | [] => none
  | (a, n) :: r => if onDown s a n then some (.fail (downCause a) (some (BitVec.ofNat 48 a)) true) else downErr s r

/-! ### Moving bytes (R89, Table 13-6) -/

/-- Bytes of a core's memory access, added to its partition's counters. -/
def countTier (s : State) (c : CoreId) (a n : Nat) : State :=
  match partOfCore s c with
  | some p => addTierBytes s p a n
  | none => s

/-- Bytes of memory that a core reads for an entry: those of a line that is not delivered are absent (R396). -/
def delivered (q : QEntry) (a : Nat) (b : List Byte) : List (Nat × Byte) :=
  b.zipIdx.filterMap fun (v, i) => if q.lost.contains ((a + i) / 64) then none else some (i, v)

/-- The core's writes presented in its present cycle: a read returns them 4 cycles later (R104). -/
def land (s : State) (c : CoreId) (l : List (Nat × Byte)) : State :=
  if l.isEmpty then s else modSeq s c fun q => { q with landing := q.landing ++ [(q.cycle + 4, l)] }

end Sys2Proof.Machine
end

