-- ==== Sys2Proof/Machine/Vector.lean ====
section
/-! DEFINITION. The vector engine as arithmetic: descriptors, element conversions, stages, draws,
reductions, rescale and tbl tables (07_vector_engine.md, R195 to R197). -/

namespace Sys2Proof.Machine
open Sys2Proof

/-- Counts that a chain adds to its slot (R166). -/
structure VStat where
  nonfinite : Nat
  sat : Nat
  conv : Nat
  sqerr : Nat
  deriving DecidableEq, Repr

def VStat.zero : VStat := ⟨0, 0, 0, 0⟩
def VStat.add (a b : VStat) : VStat := ⟨a.nonfinite + b.nonfinite, a.sat + b.sat, a.conv + b.conv, a.sqerr + b.sqerr⟩
def satStat (b : Bool) : VStat := ⟨0, if b then 1 else 0, 0, 0⟩
def nonfStat (b : Bool) : VStat := ⟨if b then 1 else 0, 0, 0, 0⟩

/-! ### Descriptors (R152 to R154) -/

/-- A stage word (Table 7-2). -/
structure Stage where
  kind : Nat
  src1 : Nat
  src2 : Nat
  src3 : Nat
  sub : Nat
  imm : W32
  tslot : Nat
  target : Nat
  rnd : Nat
  mse : Bool
  bsite : Nat
  rsv : Nat
  high : Nat
  deriving DecidableEq, Repr

def stageOf (w : Nat) : Stage :=
  { kind := nfld w 3 0, src1 := nfld w 6 4, src2 := nfld w 9 7, src3 := nfld w 12 10, sub := nfld w 15 13
    imm := BitVec.ofNat 32 (nfld w 47 16), tslot := nfld w 19 16, target := nfld w 22 20, rnd := nfld w 24 23
    mse := w.testBit 25, bsite := nfld w 29 26, rsv := nfld w 47 30, high := nfld w 63 48 }

/-- A descriptor header (Table 7-1). -/
structure Desc where
  nst : Nat
  ifmtA : Nat
  ifmtB : Nat
  ofmt : Nat
  formA : Nat
  formB : Nat
  srcAcc : Bool
  wen : Bool
  redOp : Nat
  redAxis : Bool
  kTop : Nat
  rgrp : Nat
  rpm : Nat
  rowmap : Bool
  rsv : Nat
  stages : List Stage
  deriving DecidableEq, Repr

def descOf (words : List W64) : Desc :=
  let h := (words.getD 0 0).toNat
  let nst := nfld h 2 0 + 1
  { nst := nst, ifmtA := nfld h 5 3, ifmtB := nfld h 8 6, ofmt := nfld h 11 9, formA := nfld h 13 12
    formB := nfld h 15 14, srcAcc := h.testBit 16, wen := h.testBit 17, redOp := nfld h 20 18
    redAxis := h.testBit 21, kTop := nfld h 25 22 + 1, rgrp := nfld h 35 26 + 1, rpm := nfld h 39 36 + 1
    rowmap := h.testBit 40, rsv := nfld h 63 41
    stages := ((words.drop 1).take nst).map fun w => stageOf w.toNat }

/-- Operands of a stage kind (Table 7-3). -/
def arity (kind : Nat) : Nat := match kind with | 0 | 1 | 3 | 5 | 6 => 2 | 2 | 4 => 3 | _ => 1

/-- A stage breaks R154; `first`: it is stage 0. -/
def stageBad (first : Bool) (g : Stage) : Bool :=
  let n := arity g.kind
  let special := decide (7 ≤ g.kind)
  decide (g.kind > 9) || decide (g.high ≠ 0) ||
  decide (g.src1 = 0) || decide (g.src1 = 7) || decide (g.src2 = 7) || decide (g.src3 = 7) ||
  (decide (n ≥ 2) && decide (g.src2 = 0)) || (decide (n < 2) && decide (g.src2 ≠ 0)) ||
  (decide (n ≥ 3) && decide (g.src3 = 0)) || (decide (n < 3) && decide (g.src3 ≠ 0)) ||
  (first && (decide (g.src1 = 1) || decide (g.src2 = 1) || decide (g.src3 = 1))) ||
  (decide (g.kind = 3) && decide (g.sub > 5)) || (decide (g.kind ≠ 3) && decide (g.sub ≠ 0)) ||
  (special && (decide (g.src1 = 6) || decide (g.rsv ≠ 0))) ||
  (decide (g.kind = 7) && (decide (g.target ≠ 0) || decide (g.rnd ≠ 0) || g.mse || decide (g.bsite ≠ 0))) ||
  (decide (g.kind = 8) &&
    (decide (g.target > 4) || decide (g.rnd = 3) ||
      ((decide (g.target = 0) || decide (g.target = 4)) && (decide (g.rnd ≠ 0) || g.mse)) ||
      (decide (g.rnd ≠ 2) && decide (g.bsite ≠ 0)))) ||
  (decide (g.kind = 9) && (decide (g.tslot ≠ 0) || decide (g.target ≠ 0) || decide (g.rnd ≠ 0) || g.mse))

/-- Stage words checked in order. -/
def stagesBad : Bool → List Stage → Bool
  | _, [] => false
  | first, g :: r => stageBad first g || stagesBad false r

/-- The 9 words form a malformed descriptor (R154). -/
def descBad (words : List W64) : Bool :=
  let d := descOf words
  let gather (form fmt : Nat) : Bool := decide (form = 3) || ((decide (form = 1) || decide (form = 2)) && decide (fmt ≠ 1 ∧ fmt ≠ 2))
  let last := (d.stages.getLast?).getD (stageOf 0)
  let okInt (ts : List Nat) : Bool := decide (last.kind = 8) && ts.contains last.target
  decide (d.rsv ≠ 0) || decide (d.ifmtA > 5) || decide (d.ifmtB > 5) || decide (d.ofmt > 4) || decide (d.redOp > 5) ||
  gather d.formA d.ifmtA || gather d.formB d.ifmtB ||
  (d.srcAcc && (decide (d.ifmtA ≠ 0) || decide (d.formA ≠ 0))) ||
  (decide (d.redOp ≠ 0) && decide (d.ofmt ≠ 0)) || (decide (d.kTop ≠ 1) && decide (d.redOp ≠ 5)) ||
  (decide (d.ofmt = 2) && !okInt [3]) || (decide (d.ofmt = 3) && !okInt [2]) || (decide (d.ofmt = 4) && !okInt [1, 4]) ||
  (words.drop (1 + d.nst)).any (fun w => decide (w ≠ 0)) || stagesBad true d.stages

/-- The descriptor uses an operand source (Table 7-5). -/
def usesSrc (d : Desc) (k : Nat) : Bool :=
  d.stages.any fun g => decide (g.src1 = k) || decide (g.src2 = k) || decide (g.src3 = k)

/-- Some stage draws (R162). -/
def drawsBits (d : Desc) : Bool := d.stages.any fun g => decide (g.kind = 9) || (decide (g.kind = 8) && decide (g.rnd = 2))

/-! ### Element formats (R156, Table 7-4) -/

/-- Bytes that `n` elements of a format take. -/
def fmtBytes (fmt n : Nat) : Nat := match fmt with | 0 => 4 * n | 1 | 2 => 2 * n | 3 => n | _ => (n + 1) / 2

/-- Element `c` of a row of bytes, as binary32, with its nonfinite count. -/
def elemIn (fmt : Nat) (row : List Byte) (c : Nat) : W32 × Bool :=
  match fmt with
  | 0 => f32In (BitVec.ofNat 32 (leNat ((row.drop (4 * c)).take 4)))
  | 1 => f32In (BitVec.ofNat 32 (leNat ((row.drop (2 * c)).take 2) <<< 16))
  | 2 => (f32OfInt (sxt 16 (leNat ((row.drop (2 * c)).take 2))), false)
  | 3 => (f32OfInt (sxt 8 (row.getD c 0).toNat), false)
  | 4 => (f32OfInt (sxt 4 ((row.getD (c / 2) 0).toNat >>> (4 * (c % 2)))), false)
  | _ => (f32OfInt (((row.getD (c / 2) 0).toNat >>> (4 * (c % 2)) % 16 : Nat) : Int), false)

/-- The `n` elements of a row. -/
def rowIn (fmt n : Nat) (row : List Byte) : List W32 × VStat :=
  let l := (List.range n).map (elemIn fmt row)
  (l.map (·.1), ⟨(l.filter (·.2)).length, 0, 0, 0⟩)

/-- The integer that a binary32 integer holds. -/
def f32Int (b : W32) : Int := dyTrunc (f32Val b)

/-- Nibbles packed two to a byte; `old` supplies the upper nibble of a last lone one (log 27). -/
def packNibbles (old : Byte) : List Nat → List Byte
  | [] => []
  | [a] => [BitVec.ofNat 8 (a % 16 + old.toNat / 16 * 16)]
  | a :: b :: r => BitVec.ofNat 8 (a % 16 + b % 16 * 16) :: packNibbles old r

/-- The output bytes of a row of results (R156). -/
def rowOut (fmt : Nat) (old : Byte) (l : List W32) : List Byte × VStat :=
  match fmt with
  | 0 => (l.flatMap fun b => leBytes 4 b.toNat, .zero)
  | 1 => let x := l.map toBf16; (x.flatMap fun b => leBytes 2 b.1.toNat, ⟨0, (x.filter (·.2)).length, 0, 0⟩)
  | 2 => (l.flatMap fun b => leBytes 2 (ofI 16 (f32Int b)).toNat, .zero)
  | 3 => (l.map fun b => ofI 8 (f32Int b), .zero)
  | _ => (packNibbles old (l.map fun b => (ofI 4 (f32Int b)).toNat), .zero)

/-! ### Rescale tables and pegs (R193, R195, R197) -/

/-- G[j], the integer nearest to 2^(23 + j/16) (R193). -/
def pegG (j : Nat) : Nat :=
  [0x800000, 0x85aac3, 0x8b95c2, 0x91c3d3, 0x9837f0, 0x9ef532, 0xa5fed7, 0xad583f, 0xb504f3, 0xbd08a4, 0xc5672a,
   0xce248c, 0xd744fd, 0xe0ccdf, 0xeac0c7, 0xf5257d].getD j 0

/-- The effective multiplier and shift for peg difference `k` (R197). -/
def effScale (mult : Nat) (shift : Int) (k : Int) : Nat × Int :=
  let q := k / 16
  let j := (k - 16 * q).toNat
  let m := (rneShift ((mult * pegG j : Nat) : Int) 23).toNat
  let sh := shift - q
  if m ≥ 2 ^ 24 then ((rneShift (m : Int) 1).toNat, sh - 1) else (m, sh)

/-- A peg register as an integer. -/
def pegVal (e : Engines) (p : Nat) : Int := (tget 0 e.peg p).toInt

/-- The peg difference of a table: dequantising less quantising (R197). -/
def pegDiff (e : Engines) (t : RescaleTable) : Int :=
  (if t.enD then pegVal e t.tapD.toNat else 0) - (if t.enQ then pegVal e t.tapQ.toNat else 0)

def entryOf (t : RescaleTable) (c : Nat) : RescaleEntry := t.entries.getD c ⟨0, 0, 0⟩

/-- t = x · m · 2^−sh, exact (R161). -/
def scaled (x : W32) (m : Nat) (sh : Int) : Dy := dyScale (dyMul (f32Val x) (dyInt m)) (-sh)

/-- Ranges of the integer targets (R161): 1 I4, 2 I8, 3 I16. -/
def targetLo (t : Nat) : Int := match t with | 1 => -8 | 2 => -128 | _ => -32768
def targetHi (t : Nat) : Int := match t with | 1 => 7 | 2 => 127 | _ => 32767

/-- min(rne(d² · 2^16, 0), 2^32 − 1). -/
def sqErr (d : Dy) : Nat := min (dyRne (dyScale (dyMul d d) 16)).toNat (2 ^ 32 - 1)

def clampI (lo hi v : Int) : Int := if v < lo then lo else if v > hi then hi else v

/-- The cvt stage (R161). `draw` is the 8-bit draw of the element. -/
def cvtStage (t : RescaleTable) (diff : Int) (g : Stage) (c : Nat) (draw : Nat) (x : W32) : W32 × VStat :=
  let en := entryOf t c
  let (m, sh) := effScale en.mult.toNat en.shift.toNat diff
  let v := scaled x m sh
  if g.target = 0 then let r := rdV v false; (r.1, satStat r.2)
  else if g.target = 4 then
    (f32OfInt (((List.range 15).filter fun k => dyLe (f32Val (t.mids.getD k 0)) v).length : Nat), .zero)
  else
    let q := match g.rnd with
      | 0 => dyRne v
      | 1 => dyTrunc v
      | _ =>
        let q := dyFloor v
        let f := (dyFloor (dyScale (dySub v (dyInt q)) 8)).toNat
        if f ≠ 0 ∧ draw < f then q + 1 else q
    let z : Int := if g.target = 3 then 0 else en.zp.toInt
    let y := clampI (targetLo g.target) (targetHi g.target) (q + z)
    (f32OfInt y, ⟨0, if y = q + z then 0 else 1, 1, if g.mse then sqErr (dySub (dyInt (y - z)) v) else 0⟩)

/-! ### tbl (R159) -/

/-- A table constant as the stage takes it. -/
def tblIn (b : W32) : W32 := if f32IsNan b ∨ f32IsInf b then (f32In (Config.tblConst b)).1 else b

/-- Slope and intercept of a segment. -/
def tblSeg (t : TblTable) (s : Int) : W32 × W32 :=
  if 0 ≤ s ∧ s < 64 then let p := t.segs.getD s.toNat (0, 0); (tblIn p.1, tblIn p.2)
  else let p := Config.tblSegment s; ((f32In p.1).1, (f32In p.2).1)

/-- slope · x + icpt, one rounding. -/
def segFma (t : TblTable) (s : Int) (x : W32) : W32 × Bool := let p := tblSeg t s; vFma p.1 x p.2

/-- Multiplied by 2^k under R157. -/
def scale2 (y : W32) (k : Int) : W32 × Bool := rdV (dyScale (f32Val y) k) (f32Neg y)

/-- 1.m of |x| as binary32, times 2^e1. -/
def mantF (x : W32) (e1 : Nat) : W32 := BitVec.ofNat 32 (((127 + e1) <<< 23) + nfld x.toNat 22 0)

def expOf (x : W32) : Int := (nfld x.toNat 30 23 : Int) - 127

def tblMant (t : TblTable) (x : W32) : W32 × VStat :=
  let special := if t.qneg then maxFinite else 0
  if f32Key x = 0 ∨ (f32Key x < 0 ∧ !t.odd) then (special, .zero)
  else
    let pp := if t.p then 1 else 0
    let e := expOf x
    let e1 := (e % (2 ^ pp : Nat)).toNat
    let s := e1 * 2 ^ (6 - pp) + nfld x.toNat 22 (23 - (6 - pp))
    let k := (e - e1) >>> pp
    let (y, f1) := segFma t (s : Nat) (mantF x e1)
    let (y, f2) := scale2 y (if t.qneg then -k else k)
    (if f32Neg x then f32Flip y else y, ⟨0, (if f1 then 1 else 0) + (if f2 then 1 else 0), 0, 0⟩)

def tblStage (t : TblTable) (x : W32) : W32 × VStat :=
  match t.mode.toNat with
  | 0 =>
    let (d, f1) := vAdd x (f32Flip (tblIn t.x0))
    let (v, f2) := vMul d (tblIn t.invW)
    let s := clampI 0 63 (dyFloor (f32Val v))
    let (y, f3) := segFma t s x
    (y, ⟨0, (if f1 then 1 else 0) + (if f2 then 1 else 0) + (if f3 then 1 else 0), 0, 0⟩)
  | 1 => tblMant t x
  | 2 =>
    if f32Key x ≤ 0 then (f32Flip maxFinite, .zero)
    else
      let (y1, f1) := segFma t (nfld x.toNat 22 17 : Nat) (mantF x 0)
      let (y, f2) := vFma (f32OfInt (expOf x)) (tblIn t.c) y1
      (y, ⟨0, (if f1 then 1 else 0) + (if f2 then 1 else 0), 0, 0⟩)
  | _ =>
    let (v, f1) := vMul x (tblIn t.c)
    let n := clampI (-150) 128 (dyFloor (f32Val v))
    let (f, f2) := vAdd v (f32OfInt (-n))
    let s := dyFloor (dyScale (f32Val f) 6)
    let (y1, f3) := segFma t s f
    let (y, f4) := scale2 y1 n
    (y, ⟨0, (if f1 then 1 else 0) + (if f2 then 1 else 0) + (if f3 then 1 else 0) + (if f4 then 1 else 0), 0, 0⟩)

/-! ### Stages -/

/-- What a chain reads: operand rows, and for draws the key and step of each row's member. -/
structure ChainIn where
  a : List (List W32)
  b : List (List W32)
  rowV : List W32
  colV : List W32
  keys : List (W64 × BitVec 28)
  tstep : Nat
  vl : Nat
  sites : Tbl (BitVec 12 × BitVec 24)
  deriving DecidableEq, Repr

/-- An operand by its source code (Table 7-5). -/
def operand (i : ChainIn) (r c : Nat) (prev imm : W32) (src : Nat) : W32 :=
  match src with
  | 1 => prev
  | 2 => (i.a.getD r []).getD c 0
  | 3 => (i.b.getD r []).getD c 0
  | 4 => i.rowV.getD c 0
  | 5 => i.colV.getD r 0
  | 6 => (f32In imm).1
  | _ => 0

/-- The evaluation of a stage's draw at element (r, c) (R162). -/
def stageEval (i : ChainIn) (d : Desc) (bsite r c : Nat) : W32 :=
  let kb := i.keys.getD (r / d.rpm) (0, 0)
  let st := tget (0, 0) i.sites bsite
  if d.rowmap then bowDraw kb.1 kb.2 st.1 st.2 i.tstep (r % d.rpm * i.vl + c)
  else bowDraw kb.1 kb.2 st.1 st.2 (i.tstep + r % d.rpm) c

def one32 : W32 := 0x3F800000

/-- One stage at element (r, c) (Table 7-3). -/
def runStage (e : Engines) (i : ChainIn) (d : Desc) (r c : Nat) (prev : W32) (g : Stage) : W32 × VStat :=
  let x := operand i r c prev g.imm g.src1
  let y := operand i r c prev g.imm g.src2
  let z := operand i r c prev g.imm g.src3
  match g.kind with
  | 0 => let v := vAdd x y; (v.1, satStat v.2)
  | 1 => let v := vMul x y; (v.1, satStat v.2)
  | 2 => let v := vFma x y z; (v.1, satStat v.2)
  | 3 =>
    let a := f32Key x
    let b := f32Key y
    let h := match g.sub with
      | 0 => decide (a = b) | 1 => decide (a ≠ b) | 2 => decide (a < b) | 3 => decide (a ≤ b) | 4 => decide (a > b)
      | _ => decide (a ≥ b)
    (if h then one32 else 0, .zero)
  | 4 => (if f32Key x ≠ 0 then y else z, .zero)
  | 5 => (if f32Key x ≤ f32Key y then x else y, .zero)
  | 6 => (if f32Key x ≥ f32Key y then x else y, .zero)
  | 7 => tblStage (tget .reset e.tbls g.tslot) x
  | 8 =>
    let t := tget .reset e.rescale g.tslot
    cvtStage t (pegDiff e t) g c (drawOf (stageEval i d g.bsite r c)) x
  | _ => let v := vAdd x (gumbel ((stageEval i d g.bsite r c) >>> 8).toNat); (v.1, satStat v.2)

/-- All stages at element (r, c). -/
def runStages (e : Engines) (i : ChainIn) (d : Desc) (r c : Nat) : W32 × VStat :=
  d.stages.foldl (fun p g => let x := runStage e i d r c p.1 g; (x.1, p.2.add x.2)) (0, .zero)

/-- Results of a row. -/
def runRow (e : Engines) (i : ChainIn) (d : Desc) (r : Nat) : List W32 × VStat :=
  let l := (List.range i.vl).map (runStages e i d r)
  (l.map (·.1), l.foldl (fun a x => a.add x.2) .zero)

/-! ### Reductions (R164, R165) -/

/-- One level of the sum tree. -/
def treeLevel : List W32 → List W32 × Nat
  | a :: b :: r => let v := vAdd a b; let x := treeLevel r; (v.1 :: x.1, x.2 + if v.2 then 1 else 0)
  | l => (l, 0)

def treeSum : Nat → List W32 → W32 × Nat
  | 0, l => (l.getD 0 0, 0)
  | n + 1, l => let x := treeLevel l; let y := treeSum n x.1; (y.1, y.2 + x.2)

/-- A beat's sum: 64 lanes, +0 in inactive ones, 6 levels. -/
def beatSum (l : List W32) : W32 × Nat := treeSum 6 ((l ++ List.replicate 64 0#32).take 64)

/-- Adds values in order, starting from the first. -/
def sumSeq : List W32 → W32 × Nat
  | [] => (0, 0)
  | a :: r => r.foldl (fun p x => let v := vAdd p.1 x; (v.1, p.2 + if v.2 then 1 else 0)) (a, 0)

/-- The beats of a row. -/
def beatsOf (l : List W32) : List (List W32) := (List.range (cdiv l.length 64)).map fun i => (l.drop (64 * i)).take 64

def minOf : List W32 → W32
  | [] => 0
  | a :: r => r.foldl (fun p x => if f32Key p ≤ f32Key x then p else x) a
def maxOf : List W32 → W32
  | [] => 0
  | a :: r => r.foldl (fun p x => if f32Key p ≥ f32Key x then p else x) a

/-- Places a pair in descending order of value, after equal values. -/
def insertDesc (p : W32 × Nat) : List (W32 × Nat) → List (W32 × Nat)
  | [] => [p]
  | x :: r => if f32Key p.1 > f32Key x.1 then p :: x :: r else x :: insertDesc p r

/-- The `k` greatest pairs, in order, padded (R165). -/
def topPairs (k : Nat) (l : List (W32 × Nat)) : List (W32 × Nat) :=
  let s := l.foldl (fun acc p => (insertDesc p acc).take k) []
  s ++ List.replicate (k - s.length) (f32Flip maxFinite, 0xFFFFFFFF)

def pairBytes (p : W32 × Nat) : List Byte := leBytes 4 p.1.toNat ++ leBytes 4 p.2

/-- The record of a reduction over (value, index) pairs; `s` is the sum where one is formed. -/
def redRecord (op k : Nat) (s : W32 × Nat) (l : List (W32 × Nat)) : List Byte × Nat :=
  match op with
  | 1 => (leBytes 4 s.1.toNat, s.2)
  | 2 => (leBytes 4 (minOf (l.map (·.1))).toNat, 0)
  | 3 => (leBytes 4 (maxOf (l.map (·.1))).toNat, 0)
  | 4 => ((topPairs 1 l).flatMap pairBytes, 0)
  | _ => ((topPairs k l).flatMap pairBytes, 0)

/-- Rows cut into groups. -/
def groupsOf (n : Nat) (l : List (List W32)) : List (List (List W32)) :=
  (List.range (cdiv l.length n)).map fun i => (l.drop (n * i)).take n

/-- The records of all groups, in order, with the saturations of their sums (R164, R165). -/
def reduce (d : Desc) (vl : Nat) (rows : List (List W32)) : List Byte × Nat :=
  let recs := (groupsOf d.rgrp rows).flatMap fun g =>
    if !d.redAxis then
      let vals := g.zipIdx.flatMap fun (row, r) => row.zipIdx.map fun (v, c) => (v, r * vl + c)
      let beats := (g.flatMap beatsOf).map beatSum
      let tot := sumSeq (beats.map (·.1))
      [redRecord d.redOp d.kTop (tot.1, tot.2 + (beats.map (·.2)).sum) vals]
    else
      (List.range vl).map fun c =>
        let col := g.map fun row => row.getD c 0
        redRecord d.redOp d.kTop (sumSeq col) col.zipIdx
  (recs.flatMap (·.1), (recs.map (·.2)).sum)

/-- Bytes of one record. -/
def recBytes (d : Desc) : Nat := match d.redOp with | 1 | 2 | 3 => 4 | 4 => 8 | _ => 8 * d.kTop

/-! ### Tables loaded by CONFIG (R160, R195, R196) -/

/-- A tbl table of 576 bytes is malformed: a reserved bit is set (Table 7-7, R10). -/
def tblBad (b : List Byte) : Bool := let h := leNat (b.take 64); decide (nfld h 31 5 ≠ 0) || decide (nfld h 511 128 ≠ 0)

def tblOf (b : List Byte) : TblTable :=
  let h := leNat (b.take 64)
  { mode := BitVec.ofNat 2 (nfld h 1 0), p := h.testBit 2, qneg := h.testBit 3, odd := h.testBit 4
    x0 := BitVec.ofNat 32 (nfld h 63 32), invW := BitVec.ofNat 32 (nfld h 95 64), c := BitVec.ofNat 32 (nfld h 127 96)
    segs := (List.range 64).map fun s =>
      (BitVec.ofNat 32 (leNat ((b.drop (64 + 8 * s)).take 4)), BitVec.ofNat 32 (leNat ((b.drop (68 + 8 * s)).take 4))) }

def midsOf (h : Nat) : List W32 := (List.range 15).map fun k => BitVec.ofNat 32 (nfld h (32 * k + 31) (32 * k))

/-- The midpoints are finite and non-decreasing (R196). -/
def midsOk : List W32 → Bool
  | [] => true
  | [a] => !f32IsNan a && !f32IsInf a
  | a :: b :: r => !f32IsNan a && !f32IsInf a && decide (f32Key a ≤ f32Key b) && midsOk (b :: r)

/-- A rescale table of 2,112 bytes is malformed (R196). -/
def rescaleBad (b : List Byte) : Bool :=
  let h := leNat (b.take 64)
  h.testBit 486 || h.testBit 494 || decide (nfld h 511 496 ≠ 0) || !midsOk (midsOf h) ||
  (List.range 256).any fun c =>
    let e := leNat ((b.drop (64 + 8 * c)).take 8)
    decide (nfld e 31 30 ≠ 0) || decide (nfld e 63 40 ≠ 0)

def rescaleOf (b : List Byte) : RescaleTable :=
  let h := leNat (b.take 64)
  { mids := midsOf h, tapD := BitVec.ofNat 6 (nfld h 485 480), enD := h.testBit 487
    tapQ := BitVec.ofNat 6 (nfld h 493 488), enQ := h.testBit 495
    entries := (List.range 256).map fun c =>
      let e := leNat ((b.drop (64 + 8 * c)).take 8)
      ⟨BitVec.ofNat 24 (nfld e 23 0), BitVec.ofNat 6 (nfld e 29 24), BitVec.ofNat 8 (nfld e 39 32)⟩ }

end Sys2Proof.Machine
end

