-- ==== Sys2Proof/Machine/Matrix.lean ====
section
/-! DEFINITION. The matrix engine: product rows, column sums, accumulator modes, and MATMUL, WLOAD, ADRAIN and the matrix CONFIGs from
their start to their completion (06_matrix_engine.md). -/

namespace Sys2Proof.Machine
open Sys2Proof

/-! ### Tiles (Table 6-3, R129) -/

/-- Row bytes of a weight format. -/
def tileRowBytes (fmt : Nat) : Nat := match fmt with | 0 => 64 | 1 => 96 | 2 => 128 | _ => 256
def codeBitsOf (fmt : Nat) : Nat := match fmt with | 0 => 2 | 1 => 3 | 2 => 4 | _ => 8

/-- The 256 codes of a row of a tile. -/
def rowCodes (fmt : Nat) (row : List Byte) : List Nat :=
  let v := leNat row
  let b := codeBitsOf fmt
  (List.range 256).map fun n => (v >>> (b * n)) % 2 ^ b

/-! ### Product rows and column sums (R126 to R128) -/

/-- Bytes of an activation row (Table 6-1). -/
def actRowBytes (afmt : Nat) : Nat := match afmt with | 0 | 1 => 128 | 2 => 256 | _ => 512

/-- The 256 elements of an activation row, as unsigned codes. -/
def actElems (afmt : Nat) (row : List Byte) : List Nat :=
  let v := leNat row
  let b := match afmt with | 0 | 1 => 4 | 2 => 8 | _ => 16
  (List.range 256).map fun k => (v >>> (b * k)) % 2 ^ b

/-- The product row of element `x` from the table or codebook `tsel` (Table 6-2). -/
def productRow (e : Engines) (afmt tsel : Nat) (azp : Int) (x : Nat) : List Int :=
  (List.range 16).map fun j =>
    match afmt with
    | 0 | 1 => (tget 0 e.fret (tsel * 256 + x * 16 + j)).toInt
    | 2 => (sxt 8 x - azp) * (tget 0 e.codebooks (tsel * 16 + j)).toInt
    | _ => rneShift (sxt 16 x * (tget 0 e.codebooks (tsel * 16 + j)).toInt) 4

/-- Adds one array row's selected products to the column sums. -/
def addProducts (w8 : Bool) (p p2 : List Int) (sums : List Int) (codes : List Nat) : List Int :=
  sums.zipWith (fun a c => a + (if w8 then p.getD (c / 16) 0 + p2.getD (c % 16) 0 else p.getD c 0)) codes

/-- The column sums of one activation row over the tile's array rows. -/
def colSums (e : Engines) (afmt tsel : Nat) (azp : Int) (fmt krows : Nat) (tile : List (List Nat)) (elems : List Nat) : List Int :=
  ((tile.take krows).zip elems).foldl
    (fun acc x =>
      addProducts (decide (fmt = 3)) (productRow e afmt tsel azp x.2) (if fmt = 3 then productRow e afmt (tsel + 1) azp x.2 else []) acc x.1)
    (List.replicate 256 0)

/-- The rows of a tile of `krows` rows. -/
def tileRows (fmt krows : Nat) (codes : List Byte) : List (List Nat) :=
  (List.range krows).map fun k => rowCodes fmt ((codes.drop (k * tileRowBytes fmt)).take (tileRowBytes fmt))

/-! ### Accumulator modes (R135, R136) -/

def accI (e : Engines) (q n : Nat) : Int := (tget 0 e.acc (q * 256 + n)).toInt

/-- An update of one accumulator row: mode, row, the exact column sums, and for a draw the coefficients, site, element base, time step and
key (R136, R137, R222). -/
structure RowUpdate where
  mode : BitVec 2
  row : Nat
  noin : Bool
  sums : List Int
  coef : List Int
  site : BitVec 12
  e0 : BitVec 24
  tstep : Nat
  key : W64 × BitVec 28
  deriving DecidableEq, Repr

/-- The draw of column `n`. -/
def mmDraw (m : RowUpdate) (n : Nat) : Nat := drawOf (bowDraw m.key.1 m.key.2 m.site m.e0 m.tstep n)

/-- The exact new value of a cell before the 40-bit saturation. -/
def accNext (e : Engines) (m : RowUpdate) (n : Nat) : Int :=
  let s := m.sums.getD n 0
  let a := accI e m.row n
  let co (k : Nat) : Int := m.coef.getD k 0
  match m.mode.toNat with
  | 0 => s
  | 1 => a + s
  | 2 => sround (co n * a) (mmDraw m n) + s
  | _ =>
    let j := n / 2 * 2
    let re := accI e m.row j
    let im := accI e m.row (j + 1)
    let p := if n % 2 = 0 then co j * re - co (j + 1) * im else co (j + 1) * re + co j * im
    sround p (mmDraw m n) + s

/-- The update of an accumulator row, from the bank as the cycle before left it; saturations of `sat_40` are counted (R135). With noin = 1
only PLAIN changes anything: it writes 0 (R138). -/
def accRowUpd (old : Engines) (m : RowUpdate) (e : Engines) : Engines :=
  if m.noin ∧ m.mode ≠ 0 then e
  else
    let vals := (List.range 256).map (accNext old m)
    let nsat := (vals.filter fun v => decide (satn 40 v ≠ v)).length
    { e with acc := tputs 0 e.acc (m.row * 256) (vals.map fun v => ofI 40 (satn 40 v)), mxSat := satAdd e.mxSat nsat }

/-! ### MATMUL (R131, R132, R137, R141, R142, R146) -/

/-- The tile that a MATMUL cannot use (R132). -/
def tileStateErr (x : MxSlot) (swap : Bool) (tsel : Nat) : Bool :=
  if swap then decide (x.shState ≠ 2) || decide (2 ≤ x.actState.toNat)
  else (decide (x.actState ≠ 1) && decide (x.actState ≠ 2)) || (decide (x.actState = 2) && decide (tsel % 2 = 1))

/-- The swap: the shadow becomes active and the old active slot the DRAINING shadow (R132). -/
def swapSlots (x : MxSlot) : MxSlot :=
  { actState := 1, actFmt := x.shFmt, actKrowsM1 := x.shKrowsM1, actCodes := x.shCodes
    shState := 3, shFmt := x.actFmt, shKrowsM1 := x.actKrowsM1, shCodes := [] }

/-- Address, pitch and row count of a MATMUL's activation rows (R142). -/
def mmSrc (q : QEntry) : Nat := idxVal q.regs q.w 32
def mmForm (q : QEntry) : Nat := wfld q.w 65 64
def mmPitch (q : QEntry) : Nat := wfld q.w 63 52
def mmRows (q : QEntry) : Nat := wfld q.w 89 80 + 1
def mmNoin (q : QEntry) : Bool := wbit q.w 69

/-- The scratchpad ranges of activation row `i`. -/
def actRanges (q : QEntry) (i : Nat) : List SpRange :=
  match mmForm q with
  | 0 => [⟨false, mmSrc q + i * mmPitch q * 64, actRowBytes (wfld q.w 67 66)⟩]
  | 1 => transRanges (mmSrc q + 32 * i) (mmPitch q * 64)
  | _ => stridedRanges (mmSrc q + 2 * i) (mmPitch q + 1) 256

/-- The cycles for which activation row `i` occupies the port. -/
def actCycles (t : SpTask) (q : QEntry) (i : Nat) : Nat :=
  match mmForm q with
  | 0 => 1
  | 1 => 2
  | _ => stridedCycles t (mmSrc q + 2 * i) (mmPitch q + 1) 256

/-- What the port reads of row `i` in its cycle `sub`. -/
def actPieces (t : SpTask) (q : QEntry) (i sub : Nat) : Pieces :=
  match mmForm q with
  | 0 => [(mmSrc q + i * mmPitch q * 64, actRowBytes (wfld q.w 67 66))]
  | 1 => transPieces (mmSrc q + 32 * i) (mmPitch q * 64) sub
  | _ => stridedPieces t (mmSrc q + 2 * i) (mmPitch q + 1) 256 sub

/-- The row that the port delivers, from the bytes of its cycles. -/
def actRow (t : SpTask) (q : QEntry) (i : Nat) : List Byte :=
  let subs := (List.range (actCycles t q i)).map (capOf q)
  match mmForm q with
  | 0 => subs.flatten
  | 1 => transposed subs.flatten
  | _ => gathered t (mmSrc q + 2 * i) (mmPitch q + 1) 256 subs

/-- The cycles in which the rows are first presented, from `t` on (R146). -/
def rowStarts (step : Nat → Nat) : Nat → Nat → Nat → List Nat
  | 0, _, _ => []
  | n + 1, i, t => t :: rowStarts step n (i + 1) (t + step i)

/-- Cycles from the first presentation of row `i` to its entry into the generators. -/
def actEntry (t : SpTask) (q : QEntry) (i : Nat) : Nat :=
  match mmForm q with
  | 0 => 6
  | 1 => 7
  | _ => 5 + actCycles t q i

/-- The start of a MATMUL. -/
def startMatmul (s : State) (c : CoreId) (q : QEntry) : StartRes :=
  let x := getCore s c
  let t := x.spTask
  let ahead := earlier x.seq.mxQ q.n
  let swap := wbit q.w 68
  let m := mmRows q
  let decays := decide (q.kind = .matmulDecay) || decide (q.kind = .matmulRotate)
  if (ahead.any fun e => !isMatmul e.kind) ∨ x.seq.cycle < freeAt ahead then .wait
  else if tileStateErr x.eng.mx swap (wfld q.w 95 90) then .fail cTILE_STATE none false
  else if decays && memberErr s c (wfld q.w 119 112) m then .fail cMEMBER_RANGE none false
  else
    match rangesErr t (if mmNoin q then [] else (List.range m).flatMap (actRanges q)) with
    | some e => .fail e none false
    | none =>
      let mx := if swap then swapSlots x.eng.mx else x.eng.mx
      let w8 := decide (mx.actState = 2)
      let step (i : Nat) : Nat := max (if w8 then 2 else 1) (actCycles t q i)
      let sched := rowStarts step m 0 (x.seq.cycle + if swap then 1 else 0)
      let entry := sched.zipIdx.map fun (p, i) => p + actEntry t q i
      let lastEntry := entry.getLast?.getD 0
      let outs := entry.map (· + if w8 then 273 else 272)
      let s := modEng s c fun e => { e with mx := mx }
      let s := modSeq s c fun y => { y with
        drainAt := if swap then entry.headD 0 + 256 else y.drainAt, arrayAt := max y.arrayAt (lastEntry + 265) }
      .run s { begun s c q with
        sched := sched, outs := outs, free := sched.getLast?.getD 0 + step (m - 1), endAt := outs.getLast? }

/-- The rows whose scratchpad access falls into cycle `t`, each with the cycle of its access. -/
def rowsRead (u : SpTask) (q : QEntry) (t : Nat) : List (Nat × Nat) :=
  (q.sched.zipIdx.filter fun (p, i) => decide (p ≤ t) && decide (t < p + actCycles u q i)).map fun (p, i) => (i, t - p)

def matmulAccess (u : SpTask) (q : QEntry) (t : Nat) : List Access :=
  if mmNoin q then [] else (rowsRead u q t).map fun (i, sub) => reads q 2 sub (actPieces u q i sub)

/-- The rows that leave the port in the cycle become column sums (R127, R128). -/
def matmulRead (x : CoreSt) (q : QEntry) (t : Nat) : QEntry :=
  let rows := (rowsRead x.spTask q t).filter fun (i, sub) => decide (sub + 1 = actCycles x.spTask q i)
  if rows.isEmpty then q
  else
    let mx := x.eng.mx
    let fmt := mx.actFmt.toNat
    let krows := mx.actKrowsM1.toNat + 1
    let afmt := wfld q.w 67 66
    let sum (i : Nat) : List Int :=
      if mmNoin q then List.replicate 256 0
      else colSums x.eng afmt (wfld q.w 95 90) (sxt 8 (wfld q.w 103 96)) fmt krows (tileRows fmt krows mx.actCodes) (actElems afmt (actRow x.spTask q i))
    { q with sums := q.sums ++ rows.map fun (i, _) => (i, sum i), cap := [] }

/-- The accumulator mode of a MATMUL's kind (Table 6-5). -/
def mmMode : QKind → BitVec 2
  | .matmulPlain => 0
  | .matmulAccum => 1
  | .matmulDecay => 2
  | _ => 3

/-- The update that row `i` of a MATMUL makes. -/
def rowUpdate (s : State) (c : CoreId) (q : QEntry) (i : Nat) : RowUpdate :=
  let mode := mmMode q.kind
  let decays := decide (2 ≤ mode.toNat)
  let st := tget (0, 0) q.sites (wfld q.w 111 108)
  { mode := mode, row := wfld q.w 79 70 + i, noin := mmNoin q
    sums := match q.sums.find? fun x => decide (x.1 = i) with | some x => x.2 | none => List.replicate 256 0
    coef := if decays then (List.range 256).map fun n => (tget 0 (getCore s c).eng.decay (wfld q.w 107 104 * 256 + n)).toInt else []
    site := st.1, e0 := st.2, tstep := wfld q.w 127 120
    key := if decays then drawKey s c (wfld q.w 119 112 + i) else (0, 0) }

/-- The accumulator stage writes the rows of the cycle, in row order (R135, R146). -/
def matmulWrite (old : Engines) (s : State) (c : CoreId) (q : QEntry) (t : Nat) : State :=
  (q.outs.zipIdx.filter fun (o, _) => decide (o = t)).foldl (fun s (_, i) =>
    modEntry (modEng s c (accRowUpd old (rowUpdate s c q i))) c .mx q.n fun e => { e with sums := e.sums.filter fun x => decide (x.1 ≠ i) }) s

/-! ### WLOAD (R131, R133, R143) -/

def wlSrc (q : QEntry) : Nat := idxVal q.regs q.w 32
def wlFmt (q : QEntry) : Nat := wfld q.w 53 52
def wlBytes (q : QEntry) : Nat := tileRowBytes (wlFmt q) * (wfld q.w 61 54 + 1)

/-- The slots as the start of a WLOAD leaves them: the loading slot is not usable, a W8 tile in the array is discarded. -/
def loadingSlots (mx : MxSlot) (fmt : Nat) (k : BitVec 8) : MxSlot :=
  let f : BitVec 2 := BitVec.ofNat 2 fmt
  if fmt = 3 then { actState := 3, actFmt := f, actKrowsM1 := k, actCodes := [], shState := 0, shFmt := 0, shKrowsM1 := 0, shCodes := [] }
  else
    let mx := if mx.actState = 2 then { mx with actState := 0, actFmt := 0, actKrowsM1 := 0, actCodes := [] } else mx
    { mx with shState := 1, shFmt := f, shKrowsM1 := k, shCodes := [] }

/-- A WLOAD of W8, or one that discards a W8 tile, waits until no row of an earlier MATMUL is left in the array. -/
def arrayBusy (x : CoreSt) (q : QEntry) : Bool :=
  (decide (wlFmt q = 3) || decide (x.eng.mx.actState = 2)) &&
  (decide (x.seq.cycle < x.seq.arrayAt) || (earlier x.seq.mxQ q.n).any fun e => isMatmul e.kind && !e.started)

def startWload (s : State) (c : CoreId) (q : QEntry) : StartRes :=
  let x := getCore s c
  if !(earlier x.seq.wlQ q.n).isEmpty ∨ x.eng.mx.shState = 3 ∨ arrayBusy x q then .wait
  else
    match rangeErr x.spTask ⟨false, wlSrc q, wlBytes q⟩ with
    | some e => .fail e none false
    | none =>
      .run (modEng s c fun e => { e with mx := loadingSlots e.mx (wlFmt q) (BitVec.ofNat 8 (wfld q.w 61 54)) }) (timed s c q (cdiv (wlBytes q) 512 + 6))

def wloadAccess (q : QEntry) (t : Nat) : List Access := readStep q 3 (wlSrc q) (wlBytes q) 512 t

/-- The tile of a completed WLOAD (R130, R133). -/
def applyTile (x : MxSlot) (fmt : BitVec 2) (k : BitVec 8) (codes : List Byte) : MxSlot :=
  if fmt = 3 then { x with actState := 2, actFmt := fmt, actKrowsM1 := k, actCodes := codes }
  else { x with shState := 2, shFmt := fmt, shKrowsM1 := k, shCodes := codes }

def wloadTile (q : QEntry) : Install := .tile (BitVec.ofNat 2 (wlFmt q)) (BitVec.ofNat 8 (wfld q.w 61 54)) (capAll q (wlBytes q) 512)

/-! ### ADRAIN (R144, R145) -/

/-- Local address ranges of the rows of an ADRAIN. -/
def adrainRanges (w : CmdWord) (base : Nat) : List (Nat × Nat) :=
  let len := 64 * (wfld w 68 67 + 1) * aformBytes (wfld w 59 57)
  (List.range (wfld w 56 47 + 1)).map fun r => (base + r * (wfld w 84 69 * 16), len)

/-- The element that DRAIN writes, with its saturation. -/
def drainElem (aform sh : Nat) (a : Int) : Nat × Bool :=
  let n := 8 * aformBytes aform
  if aform = 0 then ((ofI 64 a).toNat, false)
  else
    let v := rneShift a sh
    let y := satn n v
    ((ofI n y).toNat, decide (y ≠ v))

/-- The cell that FILL sets, with its saturation. -/
def fillElem (aform sh v : Nat) : Int × Bool :=
  let x : Int := if aform = 0 then sxt 40 v else sxt (8 * aformBytes aform) v * (2 ^ sh : Nat)
  (satn 40 x, decide (satn 40 x ≠ x))

def adrainBase (q : QEntry) : Nat := gaLocal (sregT q.regs (wfld q.w 36 32))

def startAdrain (fill : Bool) (s : State) (c : CoreId) (q : QEntry) : StartRes :=
  let v := sregT q.regs (wfld q.w 36 32)
  let base := adrainBase q
  let ranges := adrainRanges q.w base
  if !(earlier (getCore s c).seq.mxQ q.n).isEmpty then .wait
  else if gaBad v ∨ base % 16 ≠ 0 then .fail cALIGN (some (BitVec.ofNat 48 base)) false
  else if gaDev v ≠ s.fuses.devid.toNat then .fail cFENCE (some (BitVec.ofNat 48 base)) false
  else ((localErr s c (!fill) ranges).orElse fun _ => downErr s ranges).getD (.run s (begun s c q))

/-- Row, first column and memory address of a unit of an ADRAIN: 64 columns of a row. -/
def adrainUnit (q : QEntry) (r g : Nat) : Nat × Nat × Nat :=
  (wfld q.w 46 37 + r, 64 * (wfld q.w 66 65 + g), adrainBase q + r * (wfld q.w 84 69 * 16) + 64 * g * aformBytes (wfld q.w 59 57))

/-- A unit of DRAIN: 64 cells to memory. -/
def drainUnit (s : State) (c : CoreId) (q : QEntry) (r g : Nat) : State :=
  let (row, col, a) := adrainUnit q r g
  let wb := aformBytes (wfld q.w 59 57)
  let l := (List.range 64).map fun i => drainElem (wfld q.w 59 57) (wfld q.w 64 60) (accI (getCore s c).eng row (col + i))
  let s := modEng s c fun e => { e with mxSat := satAdd e.mxSat (l.filter (·.2)).length }
  devWrite (countTier s c a (64 * wb)) a (l.flatMap fun e => leBytes wb e.1)

/-- A unit of FILL: 64 cells from memory. -/
def fillUnit (s : State) (c : CoreId) (q : QEntry) (r g : Nat) : State :=
  let (row, col, a) := adrainUnit q r g
  let wb := aformBytes (wfld q.w 59 57)
  let l := ((List.range 64).filter fun i => !q.lost.contains ((a + i * wb) / 64) && !q.lost.contains ((a + i * wb + wb - 1) / 64)).map fun i =>
    (i, fillElem (wfld q.w 59 57) (wfld q.w 64 60) (devNat s (a + i * wb) wb))
  let s := countTier s c a (64 * wb)
  modEng s c fun e => { e with
    acc := l.foldl (fun t x => tput 0 t (row * 256 + col + x.1) (ofI 40 x.2.1)) e.acc, mxSat := satAdd e.mxSat (l.filter (·.2.2)).length }

/-! ### CONFIG of fret tables, codebooks and decay vectors (R140, Table 6-6) -/

def cfgSource (q : QEntry) : Nat := idxVal q.regs q.w 32
def cfgBytes (q : QEntry) : Nat := wfld q.w 71 60 * 64

/-- The start of a matrix CONFIG: its reads take 512 bytes a cycle, and it completes 7 cycles after the last. -/
def startMxConfig (s : State) (c : CoreId) (q : QEntry) : StartRes :=
  let x := getCore s c
  if !(earlier x.seq.mxQ q.n).isEmpty then .wait
  else
    match rangeErr x.spTask ⟨false, cfgSource q, cfgBytes q⟩ with
    | some e => .fail e none false
    | none => .run s (timed s c q (cdiv (cfgBytes q) 512 + 6))

def mxConfigAccess (q : QEntry) (t : Nat) : List Access := readStep q 2 (cfgSource q) (cfgBytes q) 512 t

/-- Consecutive little-endian values of `w` bytes. -/
def valsOf (w : Nat) (b : List Byte) : List Nat := (List.range (b.length / w)).map fun i => leNat ((b.drop (i * w)).take w)

def fretOf (slot : Nat) (b : List Byte) : Install := .fret (slot * 256) ((valsOf 3 b).map (BitVec.ofNat 24))
def codebookOf (slot : Nat) (b : List Byte) : Install := .codebook (slot * 16) ((valsOf 2 b).map (BitVec.ofNat 12))
def decayOf (slot : Nat) (b : List Byte) : Install := .decay (slot * 256) ((valsOf 3 b).map (BitVec.ofNat 24))

/-- What a matrix CONFIG installs when it completes. -/
def mxConfigTable (q : QEntry) : Install :=
  let slot := wfld q.w 59 52
  let b := capAll q (cfgBytes q) 512
  match q.kind with
  | .cfgFret => fretOf slot b
  | .cfgCodebook => codebookOf slot b
  | _ => decayOf slot b

/-! ### Changes of tables and counters -/

/-- Adds to a slot's statistics (R166). -/
def addStats (d : DescSlot) (nonf sat conv sq : Nat) : DescSlot :=
  { d with
    nonfinite := satAdd d.nonfinite nonf, sat := satAdd d.sat sat, conv := satAdd d.conv conv, sqerr := satAdd d.sqerr sq }

/-- What a change does to the engines. -/
def installEng (e : Engines) : Install → Engines
  | .fret k v => { e with fret := tputs 0 e.fret k v }
  | .codebook k v => { e with codebooks := tputs 0 e.codebooks k v }
  | .decay k v => { e with decay := tputs 0 e.decay k v }
  | .rescale k l => { e with rescale := tputs .reset e.rescale k l }
  | .tbl k l => { e with tbls := tputs .reset e.tbls k l }
  | .czTable k t => { e with czSlots := tmod .reset e.czSlots k fun z => { t with count := z.count } }
  | .desc k words => { e with descs := tput .reset e.descs k ⟨true, words, 0, 0, 0, 0⟩ }
  | .statsClear k => { e with descs := tmod .reset e.descs k fun d => { d with nonfinite := 0, sat := 0, conv := 0, sqerr := 0 } }
  | .statsAdd k a b c d => { e with descs := tmod .reset e.descs k fun x => addStats x a b c d }
  | .qzAdd a b => { e with qzNonfinite := satAdd e.qzNonfinite a, qzSat := satAdd e.qzSat b }
  | .czAdd a b c =>
    { e with czCoded := satAdd e.czCoded a, czFallback := satAdd e.czFallback b, czSuppressed := satAdd e.czSuppressed c }
  | .mxSat n => { e with mxSat := satAdd e.mxSat n }
  | .peg p v => { e with peg := tput 0 e.peg p v }
  | .tile f k codes => { e with mx := applyTile e.mx f k codes }

def install (s : State) (c : CoreId) (i : Install) : State := modEng s c fun e => installEng e i

end Sys2Proof.Machine
end

