-- ==== Sys2Proof/Machine/VectorQ.lean ====
section
/-! DEFINITION. The vector queue: VCHAIN, VDESC, the vector CONFIGs, QSCAN and SPREAD from their start to their completion
(07_vector_engine.md, 09_quantisation.md). -/

namespace Sys2Proof.Machine
open Sys2Proof

/-- A started chain or SETVL lets a later one start; any other command must have completed (R169). -/
def chainLike (k : QKind) : Bool := decide (k = .vchain) || decide (k = .vdescSetvl)

def dslot (x : CoreSt) (k : Nat) : DescSlot := tget .reset x.eng.descs k

/-! ### VCHAIN (R149 to R169) -/

/-- The address in the register of a field, bits [19:0] (R155). -/
def vaddr (q : QEntry) (hi lo : Nat) : Nat := (sregT q.regs (wfld q.w hi lo)).toNat % 2 ^ 20

/-- A stream of a chain: form, element format, address, pitch. -/
structure VStream where
  form : Nat
  fmt : Nat
  base : Nat
  pitch : Nat
  deriving DecidableEq, Repr

def streamA (d : Desc) (q : QEntry) : VStream := ⟨d.formA, d.ifmtA, vaddr q 40 36, wfld q.w 82 71⟩
def streamB (d : Desc) (q : QEntry) : VStream := ⟨d.formB, d.ifmtB, vaddr q 45 41, wfld q.w 94 83⟩

/-- A stream's ranges for row `r`. -/
def streamRanges (y : VStream) (vl r : Nat) : List SpRange :=
  match y.form with
  | 1 => transRanges (y.base + 32 * r) (y.pitch * 64)
  | 2 => stridedRanges (y.base + 2 * r) (y.pitch + 1) vl
  | _ => [⟨false, y.base + r * y.pitch * 64, fmtBytes y.fmt vl⟩]

/-- The cycles for which row `r` of a stream occupies its port. -/
def streamCycles (t : SpTask) (y : VStream) (vl r : Nat) : Nat :=
  match y.form with
  | 1 => 2
  | 2 => stridedCycles t (y.base + 2 * r) (y.pitch + 1) vl
  | _ => cdiv vl 64

/-- What row `r` of a stream reads in its cycle `sub`. -/
def streamPieces (t : SpTask) (y : VStream) (vl r sub : Nat) : Pieces :=
  match y.form with
  | 1 => transPieces (y.base + 32 * r) (y.pitch * 64) sub
  | 2 => stridedPieces t (y.base + 2 * r) (y.pitch + 1) vl sub
  | _ => [(y.base + r * y.pitch * 64 + sub * fmtBytes y.fmt 64, fmtBytes y.fmt (min 64 (vl - 64 * sub)))]

/-- The bytes of a row, from those of its cycles. -/
def streamRow (t : SpTask) (y : VStream) (vl r : Nat) (subs : List (List Byte)) : List Byte :=
  match y.form with
  | 1 => transposed subs.flatten
  | 2 => gathered t (y.base + 2 * r) (y.pitch + 1) vl subs
  | _ => subs.flatten

/-- Cycles by which a stream's form delays the arrival of a row (R168). -/
def streamDelay (t : SpTask) (y : VStream) (vl r : Nat) : Nat :=
  match y.form with
  | 1 => 1
  | 2 => stridedCycles t (y.base + 2 * r) (y.pitch + 1) vl - 1
  | _ => 0

/-- A row of the drain port, as binary32 (R139). -/
def drainRow (e : Engines) (row n : Nat) : List W32 := (List.range n).map fun c => f32OfInt (accI e row c)

/-- Record count of a chain's reduction. -/
def recCount (d : Desc) (vl rows : Nat) : Nat := cdiv rows d.rgrp * (if d.redAxis then vl else 1)

/-- The ranges a chain reads and writes, reads first. -/
def chainRanges (d : Desc) (q : QEntry) (vl rows : Nat) : List SpRange :=
  let rs := List.range rows
  (if usesSrc d 2 && !d.srcAcc then rs.flatMap (streamRanges (streamA d q) vl) else []) ++
  (if usesSrc d 3 then rs.flatMap (streamRanges (streamB d q) vl) else []) ++
  (if usesSrc d 4 then [⟨false, vaddr q 55 51, 4 * vl⟩] else []) ++
  (if usesSrc d 5 then [⟨false, vaddr q 60 56, 4 * rows⟩] else []) ++
  (if !d.wen then []
   else if d.redOp = 0 then rs.map fun r => ⟨true, vaddr q 50 46 + r * (wfld q.w 106 95 * 64), fmtBytes d.ofmt vl⟩
   else [⟨true, vaddr q 50 46, recCount d vl rows * recBytes d⟩])

/-- A register field names an operand that the descriptor does not use (R167). -/
def unusedField (d : Desc) (w : CmdWord) : Bool :=
  (decide (wfld w 40 36 ≠ 0) && !(usesSrc d 2 || d.srcAcc)) || (decide (wfld w 45 41 ≠ 0) && !usesSrc d 3) ||
  (decide (wfld w 50 46 ≠ 0) && !d.wen) || (decide (wfld w 55 51 ≠ 0) && !usesSrc d 4) ||
  (decide (wfld w 60 56 ≠ 0) && !usesSrc d 5)

/-- VL does not fit a form that is used (R155). -/
def vlFormErr (d : Desc) (vl : Nat) : Bool :=
  let bad (form : Nat) : Bool := (decide (form = 1) && decide (vl ≠ 256)) || (decide (form = 2) && decide (vl > 128))
  (usesSrc d 2 && bad d.formA) || (usesSrc d 3 && bad d.formB)

/-- The first error of a chain that starts with VL ≠ 0 (R167). -/
def chainErr (s : State) (c : CoreId) (q : QEntry) (d : Desc) (vl rows : Nat) : Option (BitVec 8) :=
  if !(dslot (getCore s c) (wfld q.w 35 32)).valid then some cDESC_EMPTY
  else if unusedField d q.w then some cILLEGAL
  else if vlFormErr d vl then some cVL_FORM
  else if d.srcAcc && decide (vaddr q 40 36 + (rows - 1) > 1023) then some cACC_RANGE
  else if drawsBits d && memberErr s c (wfld q.w 114 107) ((rows - 1) / d.rpm + 1) then some cMEMBER_RANGE
  else rangesErr (getCore s c).spTask (chainRanges d q vl rows)

/-- The descriptor and the rows of a chain. -/
def chainDesc (x : CoreSt) (q : QEntry) : Desc := descOf (dslot x (wfld q.w 35 32)).words
def chainRows (q : QEntry) : Nat := wfld q.w 70 61 + 1

def readsA (d : Desc) : Bool := usesSrc d 2 && !d.srcAcc
def drains (d : Desc) : Bool := usesSrc d 2 && d.srcAcc
def readsB (d : Desc) : Bool := usesSrc d 3

/-- Cycles of the prologue: the row vector, then the column vector (R168). -/
def prologueV (d : Desc) (vl : Nat) : Nat := if usesSrc d 4 then cdiv vl 64 else 0
def prologueU (d : Desc) (rows : Nat) : Nat := if usesSrc d 5 then cdiv rows 64 else 0

/-- The cycles of row `r` (P_r of R168). -/
def rowPace (t : SpTask) (d : Desc) (q : QEntry) (vl r : Nat) : Nat :=
  max (cdiv vl 64) (max (if readsA d then streamCycles t (streamA d q) vl r else 0) (if readsB d then streamCycles t (streamB d q) vl r else 0))

/-- Bytes of a group's records, and the accesses that write them. -/
def groupBytes (d : Desc) (vl : Nat) : Nat := (if d.redAxis then vl else 1) * recBytes d
def groupWrites (d : Desc) (vl : Nat) : Nat := cdiv (groupBytes d vl) 256

/-- The cycles in which the rows are first presented: row `i` in `t`, its group's first row in `g`; on axis 1 a later group is held until
the records of the one before it have their cycles (R168). -/
def chainStarts (pace : Nat → Nat) (grp hold : Nat) : Nat → Nat → Nat → Nat → List Nat
  | 0, _, _, _ => []
  | n + 1, i, t, g =>
    let u := t + pace i
    let v := if (i + 1) % grp = 0 then max u (g + hold) else u
    t :: chainStarts pace grp hold n (i + 1) v (if (i + 1) % grp = 0 then v else g)

/-- Cycles from the first presentation of row `r` to the presentation of its first element write. -/
def rowLatency (t : SpTask) (d : Desc) (q : QEntry) (vl r : Nat) : Nat :=
  8 + 4 * d.nst + max (if readsA d then streamDelay t (streamA d q) vl r else 0) (if readsB d then streamDelay t (streamB d q) vl r else 0)

/-- Cycles from a group's last element to its records (L of R168). -/
def redLatency (d : Desc) : Nat := if d.redOp = 5 then 16 else 8

/-- The cycle in which the records of group `g` are first presented. -/
def recordAt (d : Desc) (q : QEntry) (vl g : Nat) : Nat :=
  q.outs.getD (min (chainRows q - 1) (g * d.rgrp + d.rgrp - 1)) 0 + (cdiv vl 64 - 1) + redLatency d

def groupCount (d : Desc) (q : QEntry) : Nat := cdiv (chainRows q) d.rgrp

/-- First and last write of a chain; without a write they count as if it were (R169). -/
def firstWrite (d : Desc) (q : QEntry) (vl : Nat) : Nat := if d.redOp = 0 then q.outs.headD 0 else recordAt d q vl 0
def lastWrite (d : Desc) (q : QEntry) (vl : Nat) : Nat :=
  if d.redOp = 0 then q.outs.getLast?.getD 0 + (cdiv vl 64 - 1) else recordAt d q vl (groupCount d q - 1) + groupWrites d vl - 1

/-- The last cycle in which the last row presents a stream read; a drain read comes 2 cycles later (R155). -/
def lastRead (t : SpTask) (d : Desc) (q : QEntry) (vl : Nat) : Nat :=
  let r := chainRows q - 1
  let n := max (if drains d then cdiv vl 64 + 2 else 0)
    (max (if readsA d then streamCycles t (streamA d q) vl r else 0) (if readsB d then streamCycles t (streamB d q) vl r else 0))
  q.sched.getLast?.getD 0 + (if n = 0 then rowPace t d q vl r else n) - 1

/-- A chain that starts now, as the entry it would be. -/
def chainPlan (s : State) (c : CoreId) (q : QEntry) (d : Desc) (vl : Nat) : QEntry :=
  let t := (getCore s c).spTask
  let t0 := clockOf s c + prologueV d vl + prologueU d (chainRows q)
  let hold := if d.redOp ≠ 0 ∧ d.redAxis then groupWrites d vl else 0
  let sched := chainStarts (rowPace t d q vl) d.rgrp hold (chainRows q) 0 t0 t0
  let q := { begun s c q with vl := vl, sched := sched, outs := sched.zipIdx.map fun (p, r) => p + rowLatency t d q vl r }
  { q with free := lastRead t d q vl + 1, last := lastWrite d q vl, endAt := some (lastWrite d q vl + 3) }

def startVchain (s : State) (c : CoreId) (q : QEntry) : StartRes :=
  let x := getCore s c
  let vl := x.eng.vl.toNat
  let d := chainDesc x q
  let ahead := earlier x.seq.vxQ q.n
  if (ahead.any fun e => !chainLike e.kind) ∨ x.seq.cycle < freeAt ahead then .wait
  else if vl = 0 then .done s
  else
    match chainErr s c q d vl (chainRows q) with
    | some e => .fail e none false
    | none =>
      let p := chainPlan s c q d vl
      if firstWrite d p vl ≤ (ahead.map (·.last)).foldl max 0 ∧ ahead ≠ [] then .wait else .run s p

/-- Keys of what a chain keeps: stream A, stream B, the vectors, rows of output, records. -/
def vkey (tag r sub : Nat) : Nat := tag * 2 ^ 30 + r * 2 ^ 12 + sub

/-- The rows whose cycle `k` falls into cycle `t`, among `n` cycles from those of the list on. -/
def rowsAt (l : List Nat) (n : Nat → Nat) (t : Nat) : List (Nat × Nat) :=
  (l.zipIdx.filter fun (p, r) => decide (p ≤ t) && decide (t < p + n r)).map fun (p, r) => (r, t - p)

/-- The reads of a stream in cycle `t`. -/
def streamAccess (u : SpTask) (q : QEntry) (y : VStream) (tag : Nat) (port : BitVec 3) (t : Nat) : List Access :=
  (rowsAt q.sched (streamCycles u y q.vl) t).map fun (r, sub) => reads q port (vkey tag r sub) (streamPieces u y q.vl r sub)

/-- The writes of a chain in cycle `t`: a beat of a row, or 256 bytes of a group's records. -/
def chainWrites (d : Desc) (q : QEntry) (t : Nat) : List Access :=
  let rd := vaddr q 50 46
  if !d.wen then []
  else if d.redOp = 0 then
    let bb := fmtBytes d.ofmt 64
    (rowsAt q.outs (fun _ => cdiv q.vl 64) t).map fun (r, b) =>
      writes q 4 (rd + r * (wfld q.w 106 95 * 64) + b * bb) (((capOf q (vkey 3 r 0)).drop (b * bb)).take bb)
  else
    (rowsAt ((List.range (groupCount d q)).map (recordAt d q q.vl)) (fun _ => groupWrites d q.vl) t).map fun (g, j) =>
      writes q 4 (rd + g * groupBytes d q.vl + 256 * j) (((capOf q (vkey 4 g 0)).drop (256 * j)).take 256)

def chainAccess (x : CoreSt) (q : QEntry) (t : Nat) : List Access :=
  let d := chainDesc x q
  let j := t - q.startAt
  let nv := prologueV d q.vl
  let nu := prologueU d (chainRows q)
  let vec (a n k : Nat) (key : Nat) : List Access := [reads q 6 key [(a + 256 * k, min 256 (n - 256 * k))]]
  (if j < nv then vec (vaddr q 55 51) (4 * q.vl) j (vkey 2 0 j)
   else if j < nv + nu then vec (vaddr q 60 56) (4 * chainRows q) (j - nv) (vkey 2 1 (j - nv)) else []) ++
  (if readsA d then streamAccess x.spTask q (streamA d q) 0 5 t else []) ++
  (if readsB d then streamAccess x.spTask q (streamB d q) 1 6 t else []) ++ chainWrites d q t

/-- The drain reads of the cycle: 64 columns of a row, as binary32 (R139, R155). -/
def chainDrains (x : CoreSt) (q : QEntry) (t : Nat) : QEntry :=
  let d := chainDesc x q
  let rows := if drains d then rowsAt (q.sched.map (· + 2)) (fun _ => cdiv q.vl 64) t else []
  if rows.isEmpty then q
  else { q with vals := q.vals ++ rows.map fun (r, b) => (vkey 5 r b, (drainRow x.eng (vaddr q 40 36 + r) q.vl).drop (64 * b) |>.take 64) }

def valsAt (q : QEntry) (key : Nat) : List W32 := match q.vals.find? fun x => decide (x.1 = key) with | some x => x.2 | none => []

/-- A row of a stream as elements, with its nonfinite count. -/
def rowElems (u : SpTask) (q : QEntry) (y : VStream) (tag r : Nat) : List W32 × VStat :=
  rowIn y.fmt q.vl (streamRow u y q.vl r ((List.range (streamCycles u y q.vl r)).map fun k => capOf q (vkey tag r k)))

/-- A prologue vector of `n` elements. -/
def vecElems (q : QEntry) (which n : Nat) : List W32 × VStat :=
  rowIn 0 n ((List.range (cdiv n 64)).flatMap fun k => capOf q (vkey 2 which k))

/-- What row `r` of a chain computes from: its operands, with the nonfinite counts; those of the vectors count with row 0. -/
def chainIn (s : State) (c : CoreId) (q : QEntry) (d : Desc) (r : Nat) : ChainIn × VStat :=
  let u := (getCore s c).spTask
  let rows := chainRows q
  let none_ : List W32 × VStat := ([], VStat.zero)
  let a := if drains d then ((List.range (cdiv q.vl 64)).flatMap (fun b => valsAt q (vkey 5 r b)), VStat.zero)
    else if readsA d then rowElems u q (streamA d q) 0 r else none_
  let b := if readsB d then rowElems u q (streamB d q) 1 r else none_
  let v := if usesSrc d 4 then vecElems q 0 q.vl else none_
  let w := if usesSrc d 5 then vecElems q 1 rows else none_
  let mbase := wfld q.w 114 107
  let at_ (l : List W32) : List (List W32) := List.replicate r [] ++ [l]
  ({ a := at_ a.1, b := at_ b.1, rowV := v.1, colV := w.1
     keys := if drawsBits d then (List.range ((rows - 1) / d.rpm + 1)).map fun m => drawKey s c (mbase + m) else []
     tstep := wfld q.w 122 115, vl := q.vl, sites := q.sites },
   (a.2.add b.2).add (if r = 0 then v.2.add w.2 else VStat.zero))

/-- A chain's counts, added to its slot (R166). -/
def addChain (s : State) (c : CoreId) (q : QEntry) (v : VStat) : State :=
  install s c (.statsAdd (wfld q.w 35 32) v.nonfinite v.sat v.conv v.sqerr)

/-- Row `r` of a chain is computed, counted, and kept for its writes or for its group's records. -/
def chainRow (s : State) (c : CoreId) (q : QEntry) (r : Nat) : State :=
  let x := getCore s c
  let d := chainDesc x q
  let (i, st) := chainIn s c q d r
  let y := runRow x.eng i d r
  let st := st.add y.2
  let a := vaddr q 50 46 + r * (wfld q.w 106 95 * 64)
  let old := (spRead x [] (a + fmtBytes d.ofmt q.vl - 1) 1).getD 0 0
  let out := rowOut d.ofmt old y.1
  let keep (k : Nat) : Bool := decide (2 * 2 ^ 30 ≤ k) || decide (k % 2 ^ 30 / 2 ^ 12 ≠ r)
  let st := if d.redOp = 0 ∧ d.wen then st.add out.2 else st
  modEntry (addChain s c q st) c .vx q.n fun e =>
    let e := { e with cap := e.cap.filter fun k => keep k.1, vals := e.vals.filter fun k => decide (k.1 / 2 ^ 12 ≠ 5 * 2 ^ 18 + r) }
    if d.redOp = 0 then putCap e (vkey 3 r 0) out.1 else { e with vals := e.vals ++ [(vkey 6 r 0, y.1)] }

/-- The records of group `g` are formed and its rows dropped. -/
def chainRecords (s : State) (c : CoreId) (q : QEntry) (g : Nat) : State :=
  let d := chainDesc (getCore s c) q
  let rs := (List.range d.rgrp).filterMap fun i => if g * d.rgrp + i < chainRows q then some (g * d.rgrp + i) else none
  let y := reduce d q.vl (rs.map fun r => valsAt q (vkey 6 r 0))
  modEntry (addChain s c q ⟨0, y.2, 0, 0⟩) c .vx q.n fun e =>
    putCap { e with vals := e.vals.filter fun k => !(rs.map fun r => vkey 6 r 0).contains k.1 } (vkey 4 g 0) y.1

/-- What a chain computes in cycle `t`, before its accesses. -/
def chainCompute (s : State) (c : CoreId) (q : QEntry) (t : Nat) : State :=
  let d := chainDesc (getCore s c) q
  let s := (q.outs.zipIdx.filter fun (o, _) => decide (o = t)).foldl (fun s (_, r) => chainRow s c (entryNow s c q) r) s
  if d.redOp = 0 then s
  else ((List.range (groupCount d q)).filter fun g => decide (recordAt d q q.vl g = t)).foldl (fun s g => chainRecords s c (entryNow s c q) g) s

/-! ### VDESC (R150, R151, R166, Table 7-10) -/

/-- A vector command that starts once every earlier one has completed: the check of its ranges, then its own timing. -/
def startVx (s : State) (c : CoreId) (q : QEntry) (l : List SpRange) (m : Nat) : StartRes :=
  let x := getCore s c
  if !(earlier x.seq.vxQ q.n).isEmpty then .wait
  else
    match rangesErr x.spTask l with
    | some e => .fail e none false
    | none => .run s { timed s c q m with vl := x.eng.vl.toNat }

def startVdLoad (s : State) (c : CoreId) (q : QEntry) : StartRes := startVx s c q [⟨false, cfgSource q, 72⟩] 7

def startVdSetvl (s : State) (c : CoreId) (q : QEntry) : StartRes :=
  let v := if wbit q.w 32 then (sregT q.regs (wfld q.w 37 33)).toNat else wfld q.w 46 38
  if v > 256 then .fail cVL_RANGE none false
  else .done (modEng s c fun e => { e with vl := BitVec.ofNat 9 v })

/-- The statistics record (Table 7-8). -/
def statsRecord (d : DescSlot) : List Byte :=
  leBytes 4 d.nonfinite.toNat ++ leBytes 4 d.sat.toNat ++ leBytes 4 d.conv.toNat ++ leBytes 4 0 ++
  leBytes 8 d.sqerr.toNat ++ leBytes 8 0

def startVdStats (s : State) (c : CoreId) (q : QEntry) : StartRes := startVx s c q [⟨true, cfgSource q, 32⟩] 3

/-- LOAD completes: a malformed descriptor leaves its slot unchanged (R151). -/
def endVdLoad (s : State) (c : CoreId) (q : QEntry) : State :=
  let words := (valsOf 8 (capOf q 0)).map (BitVec.ofNat 64)
  if descBad words then raiseTask s c cDESC_MALFORMED q.pc else install s c (.desc (wfld q.w 55 52) words)

/-! ### CONFIG of rescale and tbl tables (R160, R196) -/

/-- The start of a vector CONFIG: 256 bytes a cycle, complete 7 cycles after the last read. -/
def startVxConfig (s : State) (c : CoreId) (q : QEntry) : StartRes := startVx s c q [⟨false, cfgSource q, cfgBytes q⟩] (cdiv (cfgBytes q) 256 + 6)

/-- The tables of `n` bytes each in a vector CONFIG's payload. -/
def vxTables (q : QEntry) (n : Nat) : List (List Byte) :=
  let b := capAll q (cfgBytes q) 256
  (List.range (cfgBytes q / n)).map fun i => (b.drop (i * n)).take n

/-- The CONFIG completes: with a malformed table, no slot changes. -/
def endVxConfig (s : State) (c : CoreId) (q : QEntry) : State :=
  let slot := wfld q.w 59 52
  if q.kind = .cfgTbl then
    let l := vxTables q 576
    if l.any tblBad then raiseTask s c cDESC_MALFORMED q.pc else install s c (.tbl slot (l.map tblOf))
  else
    let l := vxTables q 2112
    if l.any rescaleBad then raiseTask s c cDESC_MALFORMED q.pc else install s c (.rescale slot (l.map rescaleOf))

/-! ### QSCAN (R201 to R204, Table 9-8) -/

/-- A scan record. -/
structure ScanRec where
  maxabs : W32
  count : Nat
  nonfinite : Nat
  kc : Int
  cstep : Nat
  tfmt : Nat
  rslot : Nat
  zp : Int
  kpick : Int
  picked : Bool
  sq : List Nat
  deriving DecidableEq, Repr

def scanBytes (r : ScanRec) : List Byte :=
  let h := r.maxabs.toNat + r.count * 2 ^ 32 + r.nonfinite * 2 ^ 64 + (ofI 8 r.kc).toNat * 2 ^ 96 + (r.cstep - 1) * 2 ^ 104 +
    r.tfmt * 2 ^ 107 + r.rslot * 2 ^ 112 + (ofI 8 r.zp).toNat * 2 ^ 116 + (ofI 8 r.kpick).toNat * 2 ^ 128 +
    (if r.picked then 2 ^ 136 else 0)
  leBytes 64 h ++ r.sq.flatMap (leBytes 8)

def scanOf (b : List Byte) : ScanRec :=
  let h := leNat (b.take 64)
  { maxabs := BitVec.ofNat 32 (nfld h 31 0), count := nfld h 63 32, nonfinite := nfld h 95 64, kc := sxt 8 (nfld h 103 96)
    cstep := nfld h 106 104 + 1, tfmt := nfld h 108 107, rslot := nfld h 115 112, zp := sxt 8 (nfld h 123 116)
    kpick := sxt 8 (nfld h 135 128), picked := h.testBit 136
    sq := (List.range 8).map fun i => leNat ((b.drop (64 + 8 * i)).take 8) }

/-- Candidate `i` around an anchor (R201). -/
def candidate (kc : Int) (cstep i : Nat) : Int := clampI (-128) 127 (kc + (cstep : Int) * ((i : Int) - 3))

/-- cvt target code of a scan's tfmt. -/
def scanTarget (tfmt : Nat) : Nat := match tfmt with | 0 => 1 | 1 => 2 | _ => 3

/-- Effective multiplier and shift of entry 0 for candidate `k`: k' = −k (R201, R203). -/
def scanScale (t : RescaleTable) (k : Int) : Nat × Int :=
  let e := entryOf t 0
  effScale e.mult.toNat e.shift.toNat (-k)

/-- Squared error of element `x` at a candidate's scale. -/
def scanErr (tfmt : Nat) (zp : Int) (sc : Nat × Int) (x : W32) : Nat :=
  let t := scaled x sc.1 sc.2
  let y := clampI (targetLo (scanTarget tfmt)) (targetHi (scanTarget tfmt)) (dyRne t + zp)
  sqErr (dySub (dyInt (y - zp)) t)

def satNat (n v : Nat) : Nat := min v (2 ^ n - 1)

def scanRows (q : QEntry) : Nat := wfld q.w 78 69 + 1
def scanAcc (q : QEntry) : Bool := wbit q.w 52
def scanFmt (q : QEntry) : Nat := if wbit q.w 53 then 1 else 0

/-- The cycle after the last beat of `rows` rows of `vl` elements, and the one in which SCAN writes its record (R204). -/
def scanOut (q : QEntry) : Nat := q.startAt + max 1 (scanRows q * cdiv q.vl 64) - 1 + 26

def startScan (s : State) (c : CoreId) (q : QEntry) : StartRes :=
  let x := getCore s c
  let vl := x.eng.vl.toNat
  let rows := scanRows q
  if !(earlier x.seq.vxQ q.n).isEmpty then .wait
  else if scanAcc q ∧ vl ≠ 0 ∧ cfgSource q + rows - 1 > 1023 then .fail cACC_RANGE none false
  else
    startVx s c q
      ((if scanAcc q then [] else (List.range rows).map fun r => ⟨false, cfgSource q + r * (wfld q.w 90 79 * 64), fmtBytes (scanFmt q) vl⟩) ++
        [⟨true, wfld q.w 110 91, 128⟩]) (max 1 (rows * cdiv vl 64) - 1 + 29)

/-- Beat `j` of rows of `vl` elements: row and beat. -/
def beatAt (vl j : Nat) : Nat × Nat := (j / cdiv vl 64, j % cdiv vl 64)

/-- The read of beat `j` of consecutive rows in memory. -/
def beatAccess (q : QEntry) (port : BitVec 3) (fmt src pitch j : Nat) : Access :=
  let (r, b) := beatAt q.vl j
  reads q port j [(src + r * pitch + b * fmtBytes fmt 64, fmtBytes fmt (min 64 (q.vl - 64 * b)))]

/-- What a SCAN has read, beat by beat, with its nonfinite count. -/
def scanElems (q : QEntry) : List W32 × Nat :=
  let l := (List.range (scanRows q * cdiv q.vl 64)).map fun j =>
    if scanAcc q then (valsAt q j, VStat.zero) else rowIn (scanFmt q) (min 64 (q.vl - 64 * (beatAt q.vl j).2)) (capOf q j)
  (l.flatMap (·.1), (l.map (·.2.nonfinite)).sum)

/-- The record of a SCAN (R201). -/
def scanRecord (e : Engines) (q : QEntry) (kc : Int) : ScanRec :=
  let w := q.w
  let (els, nonf) := scanElems q
  let t := tget .reset e.rescale (wfld w 63 60)
  let tfmt := wfld w 65 64
  let zp : Int := if tfmt = 2 then 0 else (entryOf t 0).zp.toInt
  let cstep := wfld w 68 66 + 1
  { maxabs := els.foldl (fun m y => if m.toNat < (f32Abs y).toNat then f32Abs y else m) 0
    count := satNat 32 els.length, nonfinite := satNat 32 nonf, kc := kc, cstep := cstep, tfmt := tfmt, rslot := wfld w 63 60
    zp := zp, kpick := 0, picked := false
    sq := (List.range 8).map fun i =>
      let sc := scanScale t (candidate kc cstep i)
      satNat 64 (els.map (scanErr tfmt zp sc)).sum }

def scanAccess (q : QEntry) (t : Nat) : List Access :=
  let j := t - q.startAt
  (if scanAcc q ∨ scanRows q * cdiv q.vl 64 ≤ j then [] else [beatAccess q 5 (scanFmt q) (cfgSource q) (wfld q.w 90 79 * 64) j]) ++
  (if t = scanOut q then [writes q 4 (wfld q.w 110 91) (capOf q (vkey 4 0 0))] else [])

/-- The drain reads of a SCAN, 2 cycles after those of a scratchpad read. -/
def scanDrains (x : CoreSt) (q : QEntry) (t : Nat) : QEntry :=
  let j := t - q.startAt - 2
  if scanAcc q ∧ q.startAt + 2 ≤ t ∧ j < scanRows q * cdiv q.vl 64 then
    let (r, b) := beatAt q.vl j
    { q with vals := q.vals ++ [(j, (drainRow x.eng (cfgSource q + r) q.vl).drop (64 * b) |>.take 64)] }
  else q

/-- SCAN takes its anchor at its start; it forms its record in the cycle that writes it, and counts its nonfinite inputs. -/
def scanCompute (s : State) (c : CoreId) (q : QEntry) (t : Nat) : State :=
  if t = q.startAt then modEntry s c .vx q.n fun e => putCap e (vkey 5 0 0) [tget 0 (getCore s c).eng.peg (wfld q.w 59 54)]
  else if t = scanOut q then
    let r := scanRecord (getCore s c).eng q ((capOf q (vkey 5 0 0)).headD 0).toInt
    modEntry (install s c (.qzAdd (scanElems q).2 0)) c .vx q.n fun e => putCap e (vkey 4 0 0) (scanBytes r)
  else s

/-- The header fields that merged records must share (R202). -/
def sameHeader (a b : ScanRec) : Bool :=
  decide (a.kc = b.kc) && decide (a.cstep = b.cstep) && decide (a.tfmt = b.tfmt) && decide (a.rslot = b.rslot) && decide (a.zp = b.zp)

/-- Two records merged. -/
def mergeRec (a b : ScanRec) : ScanRec :=
  { a with
    maxabs := if a.maxabs.toNat < b.maxabs.toNat then b.maxabs else a.maxabs
    count := satNat 32 (a.count + b.count), nonfinite := satNat 32 (a.nonfinite + b.nonfinite)
    kpick := 0, picked := false, sq := a.sq.zipWith (fun u v => satNat 64 (u + v)) b.sq }

def mergeCount (q : QEntry) : Nat := wfld q.w 58 52 + 1
def mergeOut (q : QEntry) : Nat := q.startAt + (cdiv (mergeCount q) 2 - 1) + 16

def startMerge (s : State) (c : CoreId) (q : QEntry) : StartRes :=
  startVx s c q [⟨false, cfgSource q, 128 * mergeCount q⟩, ⟨true, wfld q.w 78 59, 128⟩] (cdiv (mergeCount q) 2 - 1 + 19)

/-- The records that MERGE has read. -/
def mergeRecs (q : QEntry) : List ScanRec :=
  let b := capAll q (128 * mergeCount q) 256
  (List.range (mergeCount q)).map fun i => scanOf ((b.drop (128 * i)).take 128)

def mergeAccess (q : QEntry) (t : Nat) : List Access :=
  readStep q 5 (cfgSource q) (128 * mergeCount q) 256 t ++
  (if t = mergeOut q ∧ capOf q (vkey 4 0 0) ≠ [] then [writes q 4 (wfld q.w 78 59) (capOf q (vkey 4 0 0))] else [])

/-- MERGE forms its record; records that differ in their header raise SCAN_MISMATCH, and nothing is written (R202). -/
def mergeCompute (s : State) (c : CoreId) (q : QEntry) (t : Nat) : State :=
  if t ≠ mergeOut q then s
  else
    match mergeRecs q with
    | [] => s
    | a :: rest =>
      if !rest.all (sameHeader a) then raiseTask s c cSCAN_MISMATCH q.pc
      else modEntry s c .vx q.n fun e => putCap e (vkey 4 0 0) (scanBytes (rest.foldl mergeRec { a with kpick := 0, picked := false }))

def pegG2 (k : Int) : Dy :=
  let q := k / 16
  let j := (k - 16 * q).toNat
  ⟨((pegG j * pegG j : Nat) : Int), 2 * q - 46⟩

def pickErr (r : ScanRec) (i : Nat) : Dy := round53 (dyMul (round53 (dyInt ((r.sq.getD i 0 : Nat) : Int))) (pegG2 (candidate r.kc r.cstep i)))

/-- The candidate of least error; of equal ones the greatest. -/
def pickBest (r : ScanRec) : Nat :=
  (List.range 8).foldl (fun b i => if dyLe (pickErr r i) (pickErr r b) then i else b) 0

/-- The guard of R203. -/
def guardUp (r : ScanRec) (t : RescaleTable) : Nat → Int → Int
  | 0, k => k
  | fuel + 1, k =>
    let sc := scanScale t k
    if k < 127 ∧ dyLt (dyInt (targetHi (scanTarget r.tfmt) - r.zp)) (scaled r.maxabs sc.1 sc.2) then guardUp r t fuel (k + 1) else k

def pickIndex (r : ScanRec) (t : RescaleTable) (guard : Bool) : Int :=
  if r.count = 0 then r.kc
  else
    let best := pickBest r
    let k := candidate r.kc r.cstep best
    if guard ∧ best = 7 then guardUp r t 256 k else k

def startPick (s : State) (c : CoreId) (q : QEntry) : StartRes :=
  startVx s c q [⟨false, cfgSource q, 128⟩, ⟨true, cfgSource q, 128⟩] 25

/-- The index that PICK writes, from the record that it read (R203). -/
def pickOf (e : Engines) (q : QEntry) : BitVec 8 :=
  let r := scanOf (capOf q 0)
  ofI 8 (pickIndex r (tget .reset e.rescale r.rslot) (wbit q.w 58))

/-- PICK reads in its first cycle and writes kpick and picked back in cycle 22: byte 16 and bit 0 of byte 17 of the record. -/
def pickAccess (e : Engines) (q : QEntry) (t : Nat) : List Access :=
  readStep q 5 (cfgSource q) 128 128 t ++
  (if t = q.startAt + 22 then [writes q 4 (cfgSource q + 16) [pickOf e q, (capOf q 0).getD 17 0 ||| 1]] else [])

def pickCompute (s : State) (c : CoreId) (q : QEntry) (t : Nat) : State :=
  if t = q.startAt + 22 then install s c (.peg (wfld q.w 57 52) (pickOf (getCore s c).eng q)) else s

/-! ### SPREAD (R211, R212, R214) -/

/-- One level of the transform: additions and subtractions at distance `h`, with the saturations. -/
def spreadLevel (u : List W32) (h : Nat) : List W32 × Nat :=
  let l := (List.range u.length).map fun i =>
    if i / h % 2 = 0 then vAdd (u.getD i 0) (u.getD (i + h) 0) else vAdd (u.getD (i - h) 0) (f32Flip (u.getD i 0))
  (l.map (·.1), (l.filter (·.2)).length)

/-- The transform of one block of 2^b values, scaled by 2^(−b/2). -/
def spreadBlock (b : Nat) (u : List W32) : List W32 × Nat :=
  let y := (List.range b).foldl (fun (p : List W32 × Nat) k => let x := spreadLevel p.1 (2 ^ k); (x.1, p.2 + x.2)) (u, 0)
  (y.1.map fun v => (scale2 v (-((b / 2 : Nat) : Int))).1, y.2)

/-- Negates the values whose sign bit is set. -/
def applySigns (sgn : Nat) (c0 : Nat) (u : List W32) : List W32 :=
  u.zipIdx.map fun (v, i) => if sgn.testBit (c0 + i) then f32Flip v else v

/-- A row, block by block. -/
def spreadRow (fwd : Bool) (b sgn : Nat) (row : List W32) : List W32 × Nat :=
  (List.range (row.length / 2 ^ b)).foldl (fun (p : List W32 × Nat) k =>
    let u := (row.drop (k * 2 ^ b)).take (2 ^ b)
    let y := spreadBlock b (if fwd then applySigns sgn (k * 2 ^ b) u else u)
    (p.1 ++ (if fwd then y.1 else applySigns sgn (k * 2 ^ b) y.1), p.2 + y.2)) ([], 0)

def spreadLog (q : QEntry) : Nat := match wfld q.w 93 92 with | 0 => 4 | 1 => 6 | _ => 8
def spreadFmt (q : QEntry) : Nat := if wbit q.w 94 then 1 else 0
def spreadRows (q : QEntry) : Nat := wfld q.w 104 95 + 1
def spreadPitch (q : QEntry) : Nat := wfld q.w 116 105 * 64

/-- The cycle in which SPREAD presents the first output beat of row `r` (R214). -/
def spreadOut (q : QEntry) (vl r : Nat) : Nat := q.startAt + 1 + (r * cdiv vl 64 + cdiv vl 64 - 1) + 6 + 2 * spreadLog q + 2

def startSpread (s : State) (c : CoreId) (q : QEntry) : StartRes :=
  let x := getCore s c
  let vl := x.eng.vl.toNat
  let rows := spreadRows q
  if !(earlier x.seq.vxQ q.n).isEmpty then .wait
  else if vl = 0 then .done s
  else if vl % 2 ^ spreadLog q ≠ 0 then .fail cSPREAD_SHAPE none false
  else
    startVx s c q
      ((List.range rows).map (fun r => ⟨false, cfgSource q + r * spreadPitch q, fmtBytes (spreadFmt q) vl⟩) ++ [⟨false, wfld q.w 91 72, 32⟩] ++
       (List.range rows).map (fun r => ⟨true, wfld q.w 71 52 + r * spreadPitch q, 4 * vl⟩))
      (spreadOut q vl (rows - 1) - q.startAt + cdiv vl 64 - 1 + 3)

def spreadAccess (q : QEntry) (t : Nat) : List Access :=
  let j := t - q.startAt
  (if j = 0 then [reads q 6 (vkey 2 0 0) [(wfld q.w 91 72, 32)]]
   else if j - 1 < spreadRows q * cdiv q.vl 64 then [beatAccess q 5 (spreadFmt q) (cfgSource q) (spreadPitch q) (j - 1)] else []) ++
  (rowsAt ((List.range (spreadRows q)).map (spreadOut q q.vl)) (fun _ => cdiv q.vl 64) t).map fun (r, b) =>
    writes q 4 (wfld q.w 71 52 + r * spreadPitch q + 256 * b) (((capOf q (vkey 3 r 0)).drop (256 * b)).take 256)

/-- Row `r` of a SPREAD as read. -/
def spreadIn (q : QEntry) (r : Nat) : List W32 × VStat :=
  rowIn (spreadFmt q) q.vl ((List.range (cdiv q.vl 64)).flatMap fun b => capOf q (r * cdiv q.vl 64 + b))

/-- A row is transformed in the cycle of its first write, and what it counts is added (R212). -/
def spreadCompute (s : State) (c : CoreId) (q : QEntry) (t : Nat) : State :=
  ((List.range (spreadRows q)).filter fun r => decide (spreadOut q q.vl r = t)).foldl (fun s r =>
    let i := spreadIn q r
    let o := spreadRow (decide (q.kind = .spreadFwd)) (spreadLog q) (leNat (capOf q (vkey 2 0 0))) i.1
    modEntry (install s c (.qzAdd i.2.nonfinite o.2)) c .vx q.n fun e => putCap e (vkey 3 r 0) (o.1.flatMap fun v => leBytes 4 v.toNat)) s

/-! ### All commands of the vector queue -/

def vxConfigAccess (q : QEntry) (t : Nat) : List Access := readStep q 5 (cfgSource q) (cfgBytes q) 256 t

/-- STATS writes the record as the block stands in its first cycle. -/
def statsAccess (x : CoreSt) (q : QEntry) (t : Nat) : List Access :=
  if t = q.startAt then [writes q 4 (cfgSource q) (statsRecord (dslot x (wfld q.w 55 52)))] else []

def vxAccess (x : CoreSt) (q : QEntry) (t : Nat) : List Access :=
  match q.kind with
  | .vchain => chainAccess x q t
  | .vdescLoad => if t = q.startAt then [reads q 5 0 [(cfgSource q, 72)]] else []
  | .vdescStats => statsAccess x q t
  | .cfgRescale | .cfgTbl => vxConfigAccess q t
  | .scan => scanAccess q t
  | .merge => mergeAccess q t
  | .pick => pickAccess x.eng q t
  | .spreadFwd | .spreadInv => spreadAccess q t
  | _ => []

/-- What a command of the vector queue computes in cycle `t`, before its accesses. -/
def vxCompute (s : State) (c : CoreId) (q : QEntry) (t : Nat) : State :=
  match q.kind with
  | .vchain => chainCompute s c q t
  | .scan => scanCompute s c q t
  | .merge => mergeCompute s c q t
  | .pick => pickCompute s c q t
  | .spreadFwd | .spreadInv => spreadCompute s c q t
  | _ => s

/-- Its drain reads in the cycle. -/
def vxDrains (x : CoreSt) (q : QEntry) (t : Nat) : QEntry :=
  match q.kind with
  | .vchain => chainDrains x q t
  | .scan => scanDrains x q t
  | _ => q

/-- What it does as it completes. -/
def vxEnd (s : State) (c : CoreId) (q : QEntry) : State :=
  match q.kind with
  | .vdescLoad => endVdLoad s c q
  | .vdescStats => if wbit q.w 56 then install s c (.statsClear (wfld q.w 55 52)) else s
  | .cfgRescale | .cfgTbl => endVxConfig s c q
  | _ => s

end Sys2Proof.Machine
end

