-- ==== Sys2Proof/Machine/Peg.lean ====
section
/-! DEFINITION. Peg state of models and streams: registers at dispatch, reports at commit, promotion steps, and the
statistics of state layers (R188, R205 to R210). -/

namespace Sys2Proof.Machine
open Sys2Proof

/-! ### The peg table (R205, R210) -/

/-- The range of a pegged tensor at a promotion step. -/
def pegRange (t : PegTensor) (step : Nat) : PegRange :=
  match t.a8From with
  | some k => if k ≤ step then t.a8 else t.base
  | none => t.base

/-- Does the tensor's format change between two steps? -/
def pegChanges (t : PegTensor) (a b : Nat) : Bool :=
  match t.a8From with
  | some k => decide (k ≤ a) != decide (k ≤ b)
  | none => false

def pegInit (d : ImageDecl) (step : Nat) : List PegSt := d.pegs.map fun t => ⟨(pegRange t step).k0, 0⟩

/-- Moves a model to a promotion step: every tensor whose format changes starts anew (R210). -/
def setStep (m : Model) (step : Nat) : Model :=
  let old := m.policy.step.toNat
  let pegs := (m.decl.pegs.zip m.pegs).map fun (t, p) => if pegChanges t old step then ⟨(pegRange t step).k0, 0⟩ else p
  let first := match m.decl.pegs.head? with | some t => pegChanges t old step | none => false
  { m with
    policy := { m.policy with step := BitVec.ofNat 3 step }, pegs := pegs, promRun := 0
    lvlEpoch := if first then m.lvlEpoch + 1 else m.lvlEpoch }

/-! ### The stream peg field (Table 9-10) -/

def lvlOf (p : BitVec 24) : Int := sxt 8 p.toNat
def lvlValid (p : BitVec 24) : Bool := p.getLsbD 8
def lvlQuiet (p : BitVec 24) : Nat := nfld p.toNat 16 9
def lvlMake (lvl : Int) (valid : Bool) (quiet : Nat) : BitVec 24 :=
  0#7 ++ BitVec.ofNat 8 quiet ++ BitVec.ofBool valid ++ ofI 8 lvl

/-- The peg field at dispatch: cleared for a chunk that carries reset (`r`), or whose level was measured in another
format of tensor 0 (R208, R210). -/
def pegAtDispatch (m : Model) (x : Stream) (r : Bool) : BitVec 24 :=
  if r then 0 else if x.lvlEpoch ≠ m.lvlEpoch then x.peg &&& 0xFFFEFF else x.peg

/-- Register 0 for a per-stream tensor: the greatest valid level, or its starting index. -/
def pegReg0 (m : Model) (pegs : List (BitVec 24)) : Int :=
  match (pegs.filter lvlValid).map lvlOf with
  | [] => match m.decl.pegs.head? with | some t => (pegRange t m.policy.step.toNat).k0 | none => 0
  | a :: l => l.foldl max a

/-- The 64 peg registers of a task (R205, R208). -/
def pegRegs (m : Model) (pegs : List (BitVec 24)) : List (BitVec 8) :=
  (List.range 64).map fun i =>
    if i = 0 ∧ m.decl.peg0Stream ∧ 0 < m.decl.pegs.length then ofI 8 (pegReg0 m pegs)
    else match m.pegs[i]? with | some p => ofI 8 p.k | none => 0

/-! ### Reports (R206, Table 9-9, Table 7-8) -/

structure PegRep where
  sat : Nat
  conv : Nat
  sqerr : Nat
  kpick : Int
  picked : Bool
  deriving DecidableEq, Repr

/-- The statistics of a 32-byte record (Table 7-8): saturations, conversions, squared error. -/
def statsOf (b : List Byte) : Nat × Nat × Nat :=
  (leNat ((b.drop 4).take 4), leNat ((b.drop 8).take 4), leNat ((b.drop 16).take 8))

/-- Reserved fields of a statistics record. -/
def statsRsv (b : List Byte) : Bool := decide (leNat ((b.drop 12).take 4) ≠ 0) || decide (leNat ((b.drop 24).take 8) ≠ 0)

def pegRepOf (b : List Byte) : PegRep :=
  let s := statsOf b
  ⟨s.1, s.2.1, s.2.2, sxt 8 (nfld (leNat b) 263 256), (leNat b).testBit 264⟩

def pegRepBad (b : List Byte) : Bool := decide (nfld (leNat b) 511 265 ≠ 0) || statsRsv (b.take 32)

/-- Payload bytes of a report of `n` members. -/
def pegRepLen (d : ImageDecl) (n : Nat) : Nat := 64 * d.pegs.length + (if d.peg0Stream then cdiv (4 * n) 16 * 16 else 0)

def pegEntry (b : List Byte) (i : Nat) : List Byte := (b.drop (64 * i)).take 64

/-- The report of a core is sound. -/
def reportOk (d : ImageDecl) (n : Nat) (b : List Byte) : Bool :=
  decide (b.length = pegRepLen d n) && ((List.range d.pegs.length).all fun i => !pegRepBad (pegEntry b i)) &&
  (b.drop (64 * d.pegs.length + 4 * n)).all fun v => decide (v = 0)

/-- The payloads of the SENDs with a tag, in ascending core index (R427). -/
def sumsOf (x : Part) (t : Task) (tag : BitVec 16) : List (CoreId × List Byte) :=
  (partCores x).flatMap fun c =>
    (t.sums.filter fun r => decide (r.core = c) && !r.ask && decide (r.tag = tag)).map fun r => (c, r.payload)

/-- ⌊log2(a / b)⌋ of a quotient of at least 1. -/
def log2Quot (a b : Nat) : Nat := Nat.log2 (a / b)

/-- The rule of a tensor at commit (R207); the count of unequal picks. -/
def pegStep (p : Policy) (r : PegRange) (reps : List PegRep) (x : PegSt) : PegSt × Nat :=
  let sat := (reps.map (·.sat)).sum
  let conv := (reps.map (·.conv)).sum
  match p.mode.toNat with
  | 1 =>
    if conv = 0 then (x, 0)
    else if sat * 65536 > p.hiNum.toNat * conv then
      (⟨min (x.k + (1 + min 7 (log2Quot (sat * 65536) (p.hiNum.toNat * conv)) : Nat)) r.kmax, 0⟩, 0)
    else if sat * 65536 ≤ p.loNum.toNat * conv then
      (if x.u + 1 ≥ p.nUnder.toNat then (⟨max (x.k - 1) r.kmin, 0⟩, 0) else (⟨x.k, x.u + 1⟩, 0))
    else (⟨x.k, 0⟩, 0)
  | 2 =>
    match (reps.filter (·.picked)).map (·.kpick) with
    | [] => (x, 0)
    | a :: l => (⟨l.foldl max a, x.u⟩, if l.all fun b => decide (b = a) then 0 else 1)
  | _ => (x, 0)

/-- Tensor 0's quantising entry in the format that it has at a step: the declared one, with the greatest code of A8 once it is promoted
(R208, R210). -/
def peg0Entry (d : ImageDecl) (t : PegTensor) (step : Nat) : QuantEntry :=
  if pegChanges t 0 step then { d.peg0Entry with hi := 127 } else d.peg0Entry

/-- The least index at which a member's maximum fits (R208). -/
def needIndex (q : QuantEntry) (a : W32) : Nat → Int → Int → Int
  | 0, k, _ => k
  | fuel + 1, k, kmax =>
    let e := effScale q.mult.toNat q.shift.toNat (-k)
    if k ≥ kmax then kmax
    else if dyLe (scaled a e.1 e.2) (dyInt (q.hi - (q.zp.toInt))) then k
    else needIndex q a fuel (k + 1) kmax

/-- The level of a stream at commit (R208). -/
def levelStep (nUnder : Nat) (need : Int) (p : BitVec 24) : BitVec 24 :=
  let lvl := lvlOf p
  if !lvlValid p then lvlMake need true 0
  else if need > lvl then lvlMake need true 0
  else if need < lvl then
    let q := min (lvlQuiet p + 1) 255
    if q ≥ nUnder then lvlMake (lvl - 1) true 0 else lvlMake lvl true q
  else lvlMake lvl true 0

/-- The greatest of the cores' reports for a member; a core that did not process it reports 0. -/
def memberMax (d : ImageDecl) (reps : List (List Byte)) (i : Nat) : W32 :=
  reps.foldl
    (fun (a : W32) b =>
      let v : W32 := BitVec.ofNat 32 (leNat ((b.drop (64 * d.pegs.length + 4 * i)).take 4))
      if f32Key v > f32Key a then v else a) 0

/-- Adds triples element by element. -/
def addTriples (a b : List (Nat × Nat × Nat)) : List (Nat × Nat × Nat) :=
  (List.range (max a.length b.length)).map fun i =>
    let x := a.getD i (0, 0, 0)
    let y := b.getD i (0, 0, 0)
    (x.1 + y.1, x.2.1 + y.2.1, x.2.2 + y.2.2)

/-- The index that tensor `i` had in the task: a per-stream tensor 0 has that of register 0 (R205, R208). -/
def indexOf (m : Model) (t : Task) (i : Nat) (p : PegSt) : Int :=
  if i = 0 ∧ m.decl.peg0Stream then sxt 8 (t.pegRegs.getD 0 0).toNat else p.k

/-- Does the tensor's saturation call for the next step (R210)? -/
def wantsStep (m : Model) (task : Task) (i : Nat) (reps : List PegRep) : Bool :=
  match m.decl.pegs[i]?, m.pegs[i]? with
  | some t, some p =>
    decide (t.a8From = some (m.policy.step.toNat + 1)) && decide (indexOf m task i p = (pegRange t m.policy.step.toNat).kmax) &&
    decide (0 < (reps.map (·.conv)).sum) &&
    decide ((reps.map (·.sat)).sum * 65536 > m.policy.hiNum.toNat * (reps.map (·.conv)).sum)
  | _, _ => false

/-- The reports of a committed bundle change the peg table, the streams' levels and the promotion step. -/
def applyPegReports (s : State) (p : PartId) (slot : ModelSlot) (b : Bundle) : State :=
  let x := getPart s p
  match getModel s slot, x.task with
  | some m, some t =>
    if m.decl.pegs.isEmpty then s
    else
      let n := b.members.length
      let reps := match m.decl.pegTag with | some tag => sumsOf x t tag | none => []
      let mine (c : CoreId) : List (List Byte) := (reps.filter fun r => decide (r.1 = c)).map (·.2)
      let ok := (partCores x).all fun c => decide ((mine c).length = 1) && (mine c).all (reportOk m.decl n)
      if !ok then setModel s slot { m with tele := { m.tele with ignored := m.tele.ignored + 1 }, promRun := 0 }
      else
        let pay := reps.map (·.2)
        let tens (i : Nat) : List PegRep := pay.map fun r => pegRepOf (pegEntry r i)
        let step := m.policy.step.toNat
        let outs := (m.decl.pegs.zip m.pegs).zipIdx.map fun ((t, q), i) =>
          if i = 0 ∧ m.decl.peg0Stream then (q, 0) else pegStep m.policy (pegRange t step) (tens i) q
        let wants := (List.range m.decl.pegs.length).any fun i => wantsStep m t i (tens i)
        let run := if wants then m.promRun + 1 else 0
        let sums := (List.range m.decl.pegs.length).map fun i =>
          (((tens i).map (·.sat)).sum, ((tens i).map (·.conv)).sum, ((tens i).map (·.sqerr)).sum)
        let m' := { m with
          pegs := outs.map (·.1), promRun := run
          tele := { m.tele with unequal := m.tele.unequal + (outs.map (·.2)).sum, tensors := addTriples m.tele.tensors sums } }
        let up := decide (0 < m.policy.promWin.toNat) && decide (run ≥ m.policy.promWin.toNat) &&
          decide (step < m.policy.stepMax.toNat)
        let s := setModel s slot (if up then setStep m' (step + 1) else m')
        if !m.decl.peg0Stream ∨ m.policy.mode = 0 then s
        else
          match m.decl.pegs.head? with
          | none => s
          | some t0 =>
            let r := pegRange t0 step
            b.members.zipIdx.foldl (fun s (mem, i) =>
              modStream s mem.handle fun y =>
                { y with peg := levelStep m.policy.nUnder.toNat (needIndex (peg0Entry m.decl t0 step) (memberMax m.decl pay i) 256 r.kmin r.kmax) y.peg }) s
  | _, _ => s

/-! ### State layers (R188) -/

/-- Adds the statistics records that a bundle's cores sent of their state layers. -/
def applyStateStats (s : State) (p : PartId) (slot : ModelSlot) : State :=
  let x := getPart s p
  match getModel s slot, x.task with
  | some m, some t =>
    match m.decl.stateTag with
    | none => s
    | some tag =>
      let sums := (sumsOf x t tag).foldl
        (fun a r => addTriples a ((List.range (r.2.length / 32)).map fun i => statsOf ((r.2.drop (32 * i)).take 32))) m.tele.layers
      setModel s slot { m with tele := { m.tele with layers := sums } }
  | _, _ => s

/-! ### Token entries (R427, Table 2-8) -/

def tokenReserved (b : List Byte) : Bool :=
  let v := leNat b
  decide (nfld v 15 8 ≠ 0) || decide (nfld v 63 56 ≠ 0) || decide (nfld v 127 96 ≠ 0)

/-- Takes the entries of a bundle in order: what each member's chunk wrote, and how many entries were not written. -/
def tokenScan (n maxRec : Nat) : List (List Byte) → (Tbl Tokens × Nat) → Tbl Tokens × Nat
  | [], a => a
  | b :: r, (t, bad) =>
    let v := leNat b
    let i := nfld v 7 0
    let tok := nfld v 39 16
    if tokenReserved b ∨ i ≥ n ∨ tok > 0xFFFFFD ∨ (tget [] t i).length ≥ maxRec then tokenScan n maxRec r (t, bad + 1)
    else
      tokenScan n maxRec r
        (tput [] t i (tget [] t i ++ [(BitVec.ofNat 24 tok, BitVec.ofNat 16 (nfld v 55 40), BitVec.ofNat 32 (nfld v 95 64))]), bad)

/-- The 16-byte entries of a payload. -/
def entries16 (b : List Byte) : List (List Byte) := (List.range (b.length / 16)).map fun i => (b.drop (16 * i)).take 16

/-- The tokens of a bundle by member position; entries not written are counted in the model's telemetry. -/
def bundleTokens (s : State) (p : PartId) (slot : ModelSlot) (n : Nat) : Tbl Tokens × State :=
  let x := getPart s p
  match getModel s slot, x.task with
  | some m, some t =>
    match m.decl.tokenTag with
    | none => ([], s)
    | some tag =>
      let (tb, bad) := tokenScan n m.decl.maxRecords ((sumsOf x t tag).flatMap fun r => entries16 r.2) ([], 0)
      (tb, setModel s slot { m with tele := { m.tele with badTokens := m.tele.badTokens + bad } })
  | _, _ => ([], s)

end Sys2Proof.Machine
end

