-- ==== Sys2Proof/Machine/Banks.lean ====
section
/-! DEFINITION. The banks of a core's scratchpad in one cycle: which accesses conflict, what each delivers or writes, and the corrected errors
that reads meet (R102 to R108, R121, R125). -/

namespace Sys2Proof.Machine
open Sys2Proof

/-- The words that a piece touches. -/
def pieceWords (t : SpTask) (p : Nat × Nat) : List Nat :=
  if p.2 = 0 then [] else (List.range (spWord t (p.1 + p.2 - 1) + 1 - spWord t p.1)).map fun i => spWord t p.1 + i

def accessWords (t : SpTask) (a : Access) : List Nat := a.pieces.flatMap (pieceWords t)

/-- The banks of an access, as bits (R102). -/
def bankMask (t : SpTask) (a : Access) : Nat := (accessWords t a).foldl (fun m w => m ||| 2 ^ bankOf w) 0

/-- The accesses of a cycle in the order of their ports' priority (R103). -/
def byPriority (l : List Access) : List Access := (List.range 8).flatMap fun k => l.filter fun a => decide (a.port.toNat = k)

/-- The lowest bank of a mask. -/
def lowestBank (m : Nat) : BitVec 6 := BitVec.ofNat 6 (((List.range 64).find? fun i => m.testBit i).getD 0)

/-- Each access with the port and the lowest common bank to which it loses, if it does: an access of higher priority that the cycle presents
claims its banks (R106, log 124). -/
def contest (t : SpTask) : List (BitVec 3 × Nat) → List Access → List (Access × Option (BitVec 3 × BitVec 6))
  | _, [] => []
  | claims, a :: r =>
    let m := bankMask t a
    let lost := (claims.find? fun k => decide (k.1 ≠ a.port) && decide (k.2 &&& m ≠ 0)).map fun k => (k.1, lowestBank (k.2 &&& m))
    (a, lost) :: contest t (claims ++ [(a.port, m)]) r

/-! ### Conflicts (R108, R125) -/

/-- SP_CONFLICT captures the first conflict (Table 5-4). -/
def captureConflict (k : SpConflict) (now : W64) (a : Access) (l : BitVec 3 × BitVec 6) : SpConflict :=
  if k.valid then k else ⟨true, l.1, a.port, l.2, a.pc, now.setWidth 32⟩

/-- The core has met a bank conflict in its task already. -/
def conflictRaised (s : State) (c : CoreId) : Bool :=
  match taskOfCore s c with
  | some t => t.errors.any fun e => decide (e.core = c) && decide (e.cause = cBANK_CONFLICT)
  | none => false

/-- The conflicts of a cycle: all are counted, that of the highest-priority loser is captured, and the core stops with its queues. -/
def noteConflicts (s : State) (c : CoreId) (l : List (Access × (BitVec 3 × BitVec 6))) : State :=
  match l with
  | [] => s
  | (a, k) :: _ =>
    let s := modCore s c fun x => { x with conflict := captureConflict x.conflict s.time a k, conflictCount := satAdd x.conflictCount l.length }
    if conflictRaised s c then s else abandonRest (raiseTask s c cBANK_CONFLICT a.pc) c

/-! ### Reads and writes (R104 to R106) -/

/-- The scratchpad words that deliver zeros to an entry (R396). -/
def zerosOf (s : State) (c : CoreId) (a : Access) : List Nat :=
  match (getQ (getCore s c).seq a.k).find? fun e => decide (e.n = a.n) with | some e => e.zeros | none => []

/-- What a read delivers; a suppressed one delivers zeros. -/
def delivers (s : State) (c : CoreId) (a : Access) (supp : Bool) : List Byte :=
  a.pieces.flatMap fun p => if supp then List.replicate p.2 0 else spRead (getCore s c) (zerosOf s c a) p.1 p.2

/-- The bytes of a write by core address. -/
def writeCells (s : State) (c : CoreId) (a : Access) (b : List Byte) : List (Nat × Byte) :=
  ((a.pieces.flatMap fun p => (List.range p.2).map fun i => p.1 + i).zip b).filterMap fun (k, v) => (xlat (getCore s c).spTask k).map fun p => (p, v)

/-- One access: a read goes to its command, a write to the banks unless it is suppressed. -/
def perform (c : CoreId) (s : State) (x : Access × Option (BitVec 3 × BitVec 6)) : State :=
  let a := x.1
  match a.data with
  | none => let b := delivers s c a x.2.isSome; modEntry s c a.k a.n fun e => putCap e a.key b
  | some b => if x.2.isSome then s else land s c (writeCells s c a b)

/-! ### Corrected errors (R121) -/

def rowWord (r : SramRow) : Nat := rowAddr r / 64

/-- The rows that the environment names for the cycle, where a read that is presented touches them. -/
def correctedRows (t : SpTask) (run : RunEnv) (cyc : Nat) (l : List Access) : List SramRow :=
  (run.corrected.filter fun k => decide (k.1 = cyc) && l.any fun a => a.data.isNone && (accessWords t a).contains (rowWord k.2)).map (·.2)

/-- The accesses of a cycle are presented to the banks. -/
def present (run : RunEnv) (s : State) (c : CoreId) (l : List Access) : State :=
  if l.isEmpty then s
  else
    let t := (getCore s c).spTask
    let r := contest t [] (byPriority l)
    let s := (correctedRows t run (clockOf s c) l).foldl (correctRow c) s
    let s := r.foldl (perform c) s
    noteConflicts s c (r.filterMap fun x => x.2.map fun k => (x.1, k))

end Sys2Proof.Machine
end

