-- ==== Sys2Proof/Machine/BridgeOps.lean ====
section
/-! DEFINITION. Shared operations of the bridge: routes, frames leaving a port, pairs, credits (16). -/

namespace Sys2Proof.Machine
open Sys2Proof

/-- Frame types (Table 16-8). -/
def ftWRITE : BitVec 4 := 0x0
def ftREAD_REQ : BitVec 4 := 0x1
def ftREAD_RESP : BitVec 4 := 0x2
def ftATOMIC : BitVec 4 := 0x3
def ftMIG_DATA : BitVec 4 := 0x4
def ftMIG_CTRL : BitVec 4 := 0x5
def ftACK : BitVec 4 := 0x6
def ftNAK : BitVec 4 := 0x7
def ftREJECT : BitVec 4 := 0x8
def ftPAIR : BitVec 4 := 0x9
def ftHELLO : BitVec 4 := 0xA
def ftSYNC_REQ : BitVec 4 := 0xB
def ftSYNC_RESP : BitVec 4 := 0xC

/-- Sequenced types (Table 16-8). -/
def sequenced (t : BitVec 4) : Bool := decide (t.toNat ≤ 5)

/-- This device's number (R339). -/
def myDev (s : State) : DevNo := s.fuses.devid

/-- The route of a device: its lowest-numbered port and the remote port (R340). -/
def routeTo (s : State) (d : DevNo) : Option RouteSrc :=
  (tget [] s.br.routes d.toNat).foldl
    (fun a x => match a with
      | none => some x
      | some y => if x.port.toNat < y.port.toNat then some x else some y) none

/-- The links run: the device runs, or boot has stopped after it trained them (Table 17-4 step 4). -/
def linksRun (s : State) : Bool := devRuns s || (decide (s.pw.phase = .bootStopped) && decide (4 ≤ s.mon.step.toNat) && !s.pw.standby)

/-- The MAC address of port `n` of a device, 02-59-4C-0n-hi-lo, and the group address of HELLOs (R338). -/
def macOf (n : PortNo) (d : DevNo) : Nat := 0x02594C000000 + n.toNat * 2 ^ 16 + d.toNat
def helloMac : Nat := 0x01594C000000

/-- The Lemrix header (Table 16-7). -/
def frameHeader (fr : Frame) : Nat :=
  fr.ver.toNat + fr.type.toNat * 2 ^ 4 + fr.dst.toNat * 2 ^ 8 + fr.src.toNat * 2 ^ 22 + fr.win.toNat * 2 ^ 36 + fr.seq.toNat * 2 ^ 48 +
  fr.ack.toNat * 2 ^ 64 + bitN fr.ackV 80 + fr.len.toNat * 2 ^ 96 + fr.addr.toNat * 2 ^ 128 + fr.cred.toNat * 2 ^ 176 + fr.tag.toNat * 2 ^ 192

/-- A frame's octets up to the FCS: destination, source and EtherType, most significant octet first, the little-endian header, the payload
(R337, R338, R345). -/
def frameOctets (s : State) (n : PortNo) (dst : Nat) (fr : Frame) : List Byte :=
  (leBytes 6 dst).reverse ++ (leBytes 6 (macOf n (myDev s))).reverse ++ (leBytes 2 s.br.ethertype.toNat).reverse ++
  leBytes 32 (frameHeader fr) ++ fr.payload

/-- A frame leaves through port `n` for a MAC address. A device with a number conflict sends HELLO alone (R339). -/
def sendOn (s : State) (n : PortNo) (dst : Nat) (fr : Frame) : State :=
  if s.br.devidConflict ∧ fr.type ≠ ftHELLO then s
  else { s with br := { s.br with sent := s.br.sent ++ [⟨n, fr, frameOctets s n dst fr⟩] } }

/-- A frame leaves through the route of its destination; with no route it does not leave (R340, R354). -/
def sendFrame (s : State) (fr : Frame) : State :=
  match routeTo s fr.dst with
  | some r => if (getPort s r.port).up then sendOn s r.port (macOf r.remote fr.dst) fr else s
  | none => s

/-- A frame to the device would leave. -/
def mayLeave (s : State) (d : DevNo) : Bool :=
  !s.br.devidConflict && match routeTo s d with | some r => (getPort s r.port).up | none => false

/-- A frame of this device with nothing but the fields given. -/
def mkFrame (s : State) (t : BitVec 4) (dst : DevNo) (win : WinNo) (addr : Nat) (tag : BitVec 16) (payload : List Byte) :
    Frame :=
  { ver := 1, type := t, dst := dst, src := myDev s, win := win, seq := 0, ackV := false, ack := 0
    len := BitVec.ofNat 13 payload.length, addr := BitVec.ofNat 48 addr, cred := 0, tag := tag, payload := payload }

/-- Credits a sequenced frame takes (R348). -/
def creditsOf (fr : Frame) : Nat :=
  if fr.type = ftREAD_RESP then 0
  else if fr.type = ftREAD_REQ ∨ fr.type = ftATOMIC then 1
  else cdiv fr.len.toNat 256

def getPair (s : State) (i : Nat) : Option Pair := tfind s.br.pairs i
def setPair (s : State) (i : Nat) (p : Pair) : State := { s with br := { s.br with pairs := tset s.br.pairs i p } }

/-- The window of a number. -/
def getWin (s : State) (w : WinNo) : Option Win := tfind s.br.wins w.toNat

/-- The index of the pair of window `w` with device `d`. -/
def pairIdx (s : State) (w : WinNo) (d : DevNo) : Option Nat :=
  (s.br.pairs.find? fun x => decide (x.2.window = w) && decide (x.2.peer = d)).map (·.1)

/-- Fills in the acknowledgement and the credits that go back with a frame of the pair (R348, R349). -/
def stampAck (p : Pair) (fr : Frame) : Frame :=
  { fr with ackV := true, ack := p.rxNext, cred := BitVec.ofNat 16 p.credRet }

/-- Sends the first waiting frames of a pair, as far as credits and the limit of frames in flight allow
(R348, R349). Bytes sent for a partition's core are counted (Table 13-6). -/
def pairSend : Nat → Nat → State → State
  | 0, _, s => s
  | fuel + 1, i, s =>
    match getPair s i with
    | none => s
    | some p =>
      match p.waitTx with
      | [] => s
      | t :: rest =>
        if p.failed ∨ p.avail.toNat < t.credits ∨ p.unacked.length ≥ 32768 then s
        else
          let fr := stampAck p { t.fr with seq := p.txNext }
          let p' := { p with
            avail := p.avail - BitVec.ofNat 16 t.credits, txNext := p.txNext + 1, waitTx := rest
            unacked := p.unacked ++ [{ t with fr := { t.fr with seq := p.txNext, cred := fr.cred } }], credRet := 0
            progress := if p.unacked.isEmpty then s.time else p.progress }
          pairSend fuel i (sendFrame (setPair s i p') fr)

/-- Puts frames at the end of a pair's sending order and sends what may go. -/
def pairEnqueue (s : State) (i : Nat) (l : List TxFrame) : State :=
  match getPair s i with
  | none => s
  | some p =>
    let s := setPair s i { p with waitTx := p.waitTx ++ l }
    pairSend (p.waitTx.length + l.length) i s

/-- Every pair sends what may go. -/
def sendWaiting (s : State) : State := s.br.pairs.foldl (fun s x => pairSend x.2.waitTx.length x.1 s) s

/-- Bridge bytes sent by a partition's cores (Table 13-6). -/
def addBridgeBytes (s : State) (p : PartId) (n : Nat) : State :=
  modPart s p fun x => { x with br := x.br + BitVec.ofNat 64 n }

/-- The pair a core's remote access uses (R343): of the pairs with the device whose local window is the
job's, the lowest window whose peer window holds the range; it must not have failed and must permit. -/
def pairFor (s : State) (p : PartId) (j : JobNo) (d : DevNo) (write : Bool) (a n : Nat) : Option Nat :=
  let mine (x : Nat × Pair) : Bool :=
    decide (x.2.peer = d) && decide (x.2.rbase ≤ a) && decide (a + n ≤ x.2.rbase + x.2.rsize) &&
    (match getWin s x.2.window with
     | some w => decide (w.part = p) && decide (w.job = j)
     | none => false)
  let best := (s.br.pairs.filter mine).foldl
    (fun (b : Option (Nat × Pair)) x => match b with
      | none => some x
      | some y => if x.2.window.toNat < y.2.window.toNat then some x else b) none
  match best with
  | none => none
  | some (i, x) => if !x.failed && (if write then x.rperm.getLsbD 0 else x.rperm.getLsbD 1) then some i else none

/-- Cuts `n` bytes at address `a` into pieces of at most 4,096 bytes that cross no 4,096-byte boundary
(R346): (offset, length). -/
def cutPieces : Nat → Nat → Nat → Nat → List (Nat × Nat)
  | 0, _, _, _ => []
  | fuel + 1, a, off, n =>
    if n = 0 then []
    else
      let k := min n (4096 - a % 4096)
      (off, k) :: cutPieces fuel (a + k) (off + k) (n - k)

def cutRange (a n : Nat) : List (Nat × Nat) := cutPieces (n / 4096 + 2) a 0 n

/-- WRITE frames of bytes at a remote address (R346). -/
def writeFrames (s : State) (x : Pair) (t : BitVec 4) (owner : Option (CoreId × Nat)) (j : JobNo) (a : Nat)
    (b : List Byte) : List TxFrame :=
  (cutRange a b.length).map fun (off, k) =>
    let fr := mkFrame s t x.peer x.window (a + off) 0 ((b.drop off).take k)
    ⟨fr, owner, creditsOf fr, j⟩

/-- READ_REQ frames of a range at a remote address, under the pair's next tags. -/
def readFrames (s : State) (x : Pair) (owner : Option (CoreId × Nat)) (j : JobNo) (a n : Nat) : List TxFrame :=
  (cutRange a n).zipIdx.map fun ((off, k), i) =>
    let fr := { mkFrame s ftREAD_REQ x.peer x.window (a + off) (x.tagNext + BitVec.ofNat 16 i) [] with len := BitVec.ofNat 13 k }
    ⟨fr, owner, creditsOf fr, j⟩

/-- What the core waits for, piece by piece, from byte `at_` of its command's bytes on. -/
def readWaits (x : Pair) (owner : Option (CoreId × Nat)) (at_ a n : Nat) : List ReadWait :=
  (cutRange a n).zipIdx.map fun ((off, k), i) => ⟨x.tagNext + BitVec.ofNat 16 i, owner, at_ + off, k⟩

/-- Frames that a core still waits for a port to accept, and writes not yet acknowledged (R89). -/
def framesWaiting (s : State) (c : CoreId) (n : Nat) : Bool :=
  s.br.pairs.any fun x => x.2.waitTx.any fun t => decide (t.owner = some (c, n))

def isWriteFrame (t : TxFrame) : Bool := decide (t.fr.type = ftWRITE)

def bridgeBusy (s : State) (c : CoreId) : Bool :=
  s.br.pairs.any fun x => !x.2.failed && (x.2.waitTx ++ x.2.unacked).any fun t =>
    isWriteFrame t && (match t.owner with | some (d, _) => decide (d = c) | none => false)

end Sys2Proof.Machine
end

