-- ==== Sys2Proof/Machine/Coding.lean ====
section
/-! DEFINITION. Magnitude-class coding (11_compression.md): classes, code tables, the build pass, extents,
the encoder and the decoder. -/

namespace Sys2Proof.Machine
open Sys2Proof

/-! ### Classes and remaining bits (R234 to R236) -/

/-- Number of classes of a format (Table 11-1). -/
def czClasses (fmt : Nat) : Nat := match fmt with | 1 | 2 => 256 | 3 => 8 | 4 => 16 | 5 => 24 | _ => 0

/-- Bit length. -/
def bitLen (u : Nat) : Nat := if u = 0 then 0 else Nat.log2 u + 1

/-- The class of an element given as its unsigned bits. -/
def czClass (fmt v : Nat) : Nat :=
  match fmt with
  | 1 => nfld v 14 7
  | 2 => nfld v 30 23
  | _ =>
    let wd := 8 * esizeOf fmt
    let neg := v.testBit (wd - 1)
    bitLen (if neg then 2 ^ wd - 1 - v else v)

/-- Width of the remaining bits of a class (Table 11-1). -/
def czRestWidth (fmt c : Nat) : Nat := match fmt with | 1 => 8 | 2 => 24 | _ => max c 1

/-- The remaining-bit value (R235, R236). -/
def czRest (fmt v : Nat) : Nat :=
  match fmt with
  | 1 => (nfld v 15 15 <<< 7) + nfld v 6 0
  | 2 => (nfld v 31 31 <<< 23) + nfld v 22 0
  | _ =>
    let wd := 8 * esizeOf fmt
    let neg := v.testBit (wd - 1)
    let sign := if neg then 1 else 0
    let u := if neg then 2 ^ wd - 1 - v else v
    let c := bitLen u
    if c = 0 then sign else (sign <<< (c - 1)) + u % 2 ^ (c - 1)

/-- The element of a class and its remaining bits (R235, R236). -/
def czElem (fmt c r : Nat) : Nat :=
  match fmt with
  | 1 => (nfld r 7 7 <<< 15) + (c <<< 7) + nfld r 6 0
  | 2 => (nfld r 23 23 <<< 31) + (c <<< 23) + nfld r 22 0
  | _ =>
    let wd := 8 * esizeOf fmt
    let u := if c = 0 then 0 else 2 ^ (c - 1) + r % 2 ^ (c - 1)
    let sign := if c = 0 then r % 2 else (r >>> (c - 1)) % 2
    if sign = 1 then 2 ^ wd - 1 - u else u

/-- The elements of a byte string. -/
def elemsOf (esize : Nat) (b : List Byte) : List Nat :=
  (List.range (b.length / esize)).map fun i => leNat ((b.drop (i * esize)).take esize)

/-! ### Code tables (R237 to R240, Table 11-2) -/

/-- CRC with polynomial x^8 + x^2 + x + 1, most significant bit first (R238). -/
def crc8 (b : List Byte) : BitVec 8 :=
  b.foldl (fun c x =>
    (List.range 8).foldl (fun (c : BitVec 8) _ => if c.getLsbD 7 then (c <<< 1) ^^^ 0x07 else c <<< 1) (c ^^^ x)) 0

/-- Σ 2^(15 − len) over nonzero lengths. -/
def kraft (lens : List Nat) : Nat := (lens.map fun l => if l = 0 then 0 else 2 ^ (15 - l)).sum

/-- The 256 lengths of a record (Table 11-2). -/
def recLens (r : List Byte) : List Nat := (fitBytes 320 r |>.drop 64).map (·.toNat)

/-- R237. -/
def czRecordOk (r : List Byte) : Bool :=
  let v := leNat (r.take 64)
  let fmt := nfld v 2 0
  let lens := recLens r
  decide (1 ≤ fmt) && decide (fmt ≤ 5) && decide (nfld v 7 3 = 0) && decide (nfld v 511 20 = 0) &&
  lens.all (fun l => decide (l ≤ 15)) && (lens.drop (czClasses fmt)).all (fun l => decide (l = 0)) &&
  decide (kraft lens ≤ 2 ^ 15) && decide (nfld v 19 16 = lens.foldl max 0) &&
  decide (nfld v 15 8 = (crc8 (r.drop 64)).toNat)

/-- The slot that a valid record loads (Table 11-4). -/
def slotOfRecord (r : List Byte) : CzSlot :=
  let v := leNat (r.take 64)
  { valid := true, fmt := BitVec.ofNat 3 (nfld v 2 0), fp := BitVec.ofNat 8 (nfld v 15 8)
    maxlen := BitVec.ofNat 4 (nfld v 19 16), lens := (recLens r).take (czClasses (nfld v 2 0)), count := 0 }

/-- The record of lengths of a format (Table 11-2). -/
def recordOf (fmt : Nat) (lens : List Nat) : List Byte :=
  let body := fitBytes 256 (lens.map (BitVec.ofNat 8))
  let fp := (crc8 body).toNat
  leBytes 64 (fmt + (fp <<< 8) + ((lens.foldl max 0) <<< 16)) ++ body

/-- The least `l` with `h · 2^l ≥ n`, from `l` on. -/
def leastShift (h n : Nat) : Nat → Nat → Nat
  | 0, l => l
  | fuel + 1, l => if h * 2 ^ l ≥ n then l else leastShift h n fuel (l + 1)

/-- The class whose length the build pass raises (R240): the greatest length below 15, least class. -/
def raiseAt (lens : List Nat) : Option Nat :=
  let best := (lens.filter fun l => decide (l < 15)).foldl max 0
  if best = 0 then none else lens.findIdx? (· = best)

/-- The loop of R240; it runs at most 15 times the number of classes. -/
def buildLoop : Nat → List Nat → List Nat
  | 0, lens => lens
  | fuel + 1, lens =>
    if kraft lens ≤ 2 ^ 15 then lens
    else match raiseAt lens with
      | none => lens
      | some i => buildLoop fuel (lens.set i (lens.getD i 0 + 1))

/-- The lengths that the build pass computes from a histogram (R240). -/
def buildLens (h : List Nat) : List Nat :=
  let n := h.sum
  buildLoop (15 * h.length) (h.map fun x => if x = 0 then 0 else min 15 (max 1 (leastShift x n 64 0)))

/-- Codewords of the classes (R239): (class, length, code), in the order of assignment. -/
def codewords (lens : List Nat) : List (Nat × Nat × Nat) :=
  let ordered := (List.range 15).flatMap fun l =>
    ((List.range lens.length).filter fun s => decide (lens.getD s 0 = l + 1)).map fun s => (s, l + 1)
  (ordered.foldl (fun (acc : List (Nat × Nat × Nat) × Nat × Nat) x =>
    let code := acc.2.1 <<< (x.2 - acc.2.2)
    ((x.1, x.2, code) :: acc.1, code + 1, x.2)) ([], 0, 0)).1.reverse

/-! ### Blocks (R241 to R243, Table 11-3) -/

/-- `n` bits of `v`, least significant first, or most significant first. -/
def bitsLsb (n v : Nat) : List Bool := (List.range n).map v.testBit
def bitsMsb (n v : Nat) : List Bool := (bitsLsb n v).reverse

/-- Bits packed into bytes: bit `j` is bit `j mod 8` of byte `⌊j / 8⌋` (R242). -/
def packBits (bs : List Bool) : List Byte :=
  (List.range (cdiv bs.length 8)).map fun i =>
    BitVec.ofNat 8 (((bs.drop (8 * i)).take 8).zipIdx.foldl (fun a x => if x.1 then a + 2 ^ x.2 else a) 0)

def unpackBits (b : List Byte) : List Bool := b.flatMap fun x => bitsLsb 8 x.toNat

/-- The header of a block (Table 11-3). -/
def blockHeader (coded : Bool) (gen fp len16 count : Nat) : List Byte :=
  leBytes 4 ((if coded then 1 else 0) + (gen <<< 1) + (fp <<< 4) + (len16 <<< 12) + (count <<< 22))

/-- The payload bits of the elements under a table, if every class has a code. -/
def codeBits (cws : List (Nat × Nat × Nat)) (fmt : Nat) : List Nat → Option (List Bool)
  | [] => some []
  | v :: r =>
    match cws.find? (fun x => x.1 = czClass fmt v), codeBits cws fmt r with
    | some (c, l, code), some rest => some (bitsMsb l code ++ bitsLsb (czRestWidth fmt c) (czRest fmt v) ++ rest)
    | _, _ => none

/-- One block as written, and whether it is coded (R243). -/
def encodeBlock (slot : CzSlot) (g fmt : Nat) (elems : List Nat) : List Byte × Bool :=
  let esize := esizeOf fmt
  let ui := rawUnits elems.length esize
  let rawB := fitBytes (16 * ui) (blockHeader false 0 0 ui elems.length ++ elems.flatMap (leBytes esize))
  if slot.valid ∧ slot.fmt.toNat = fmt then
    match codeBits (codewords slot.lens) fmt elems with
    | none => (rawB, false)
    | some bits =>
      let units := cdiv (4 + cdiv bits.length 8) 16
      if units < ui then
        (fitBytes (16 * units) (blockHeader true g slot.fp.toNat units elems.length ++ packBits bits), true)
      else (rawB, false)
  else (rawB, false)

/-- The elements of block `i`. -/
def blockElems (es : List Nat) (i : Nat) : List Nat := (es.drop (256 * i)).take 256

/-- The extent of a row, with its numbers of coded and raw blocks (R241, R243). -/
def encodeRow (slot : CzSlot) (g fmt : Nat) (row : List Byte) : List Byte × Nat × Nat :=
  let es := elemsOf (esizeOf fmt) row
  let blocks := (List.range (blocksOf es.length)).map fun i => encodeBlock slot g fmt (blockElems es i)
  let m := mapUnits es.length
  let offs := (blocks.foldl (fun (a : List Nat × Nat) b => (a.2 :: a.1, a.2 + b.1.length / 16)) ([], m)).1.reverse
  (fitBytes (16 * m) (offs.flatMap (leBytes 4)) ++ (blocks.map (·.1)).flatten,
   (blocks.filter (·.2)).length, (blocks.filter (! ·.2)).length)

/-! ### Decoding (R249, R250) -/

/-- The class whose codeword begins the bits, with the rest. -/
def matchCode (cws : List (Nat × Nat × Nat)) (bs : List Bool) : Option (Nat × List Bool) :=
  match cws.find? fun x => decide (x.2.1 ≤ bs.length) && decide (bs.take x.2.1 = bitsMsb x.2.1 x.2.2) with
  | some (c, l, _) => some (c, bs.drop l)
  | none => none

def bitsVal (bs : List Bool) : Nat := bs.zipIdx.foldl (fun a x => if x.1 then a + 2 ^ x.2 else a) 0

/-- `n` elements of a coded payload, and the bits left (R249 check 5). -/
def decodeElems (cws : List (Nat × Nat × Nat)) (fmt : Nat) : Nat → List Bool → Option (List Nat × List Bool)
  | 0, bs => some ([], bs)
  | n + 1, bs =>
    match matchCode cws bs with
    | none => none
    | some (c, rest) =>
      let k := czRestWidth fmt c
      if rest.length < k then none
      else match decodeElems cws fmt n (rest.drop k) with
        | none => none
        | some (es, left) => some (czElem fmt c (bitsVal (rest.take k)) :: es, left)

/-- The elements of block `i` of an extent of `n` elements; `none`: the block is corrupt (R249). -/
def decodeBlock (slot : CzSlot) (g fmt n emax : Nat) (ext : List Byte) (i : Nat) : Option (List Byte) :=
  let esize := esizeOf fmt
  let entry (j : Nat) : Nat := leNat ((ext.drop (4 * j)).take 4)
  let off := entry i
  let hdr := leNat ((ext.drop (16 * off)).take 4)
  let coded := hdr.testBit 0
  let len16 := nfld hdr 21 12
  let cnt := nfld hdr 30 22
  let ni := blockCount n i
  let first := if i = 0 then decide (off = mapUnits n) else true
  if first ∧ 16 * off + 4 ≤ emax ∧ 16 * (off + len16) ≤ emax ∧
      (i + 1 < blocksOf n → entry (i + 1) = off + len16) ∧
      hdr.testBit 31 = false ∧ 1 ≤ len16 ∧ cnt = ni then
    let body := (ext.drop (16 * off + 4)).take (16 * len16 - 4)
    if !coded then
      if len16 = rawUnits ni esize then some (body.take (ni * esize)) else none
    else if nfld hdr 3 1 = g ∧ slot.valid ∧ slot.fp.toNat = nfld hdr 11 4 ∧ slot.fmt.toNat = fmt then
      match decodeElems (codewords slot.lens) fmt ni (unpackBits body) with
      | none => none
      | some (es, left) => if left.length < 128 ∧ left.all (! ·) then some (es.flatMap (leBytes esize)) else none
    else none
  else none

/-- The bytes a row decodes to: those of the blocks before the first corrupt one, zeros for that one (R250),
and whether a block was corrupt. -/
def decodeBlocks (slot : CzSlot) (g fmt n emax : Nat) (ext : List Byte) : List Nat → List Byte × Bool
  | [] => ([], false)
  | i :: r =>
    match decodeBlock slot g fmt n emax ext i with
    | none => (List.replicate (blockCount n i * esizeOf fmt) 0, true)
    | some b => let x := decodeBlocks slot g fmt n emax ext r; (b ++ x.1, x.2)

def decodeRow (slot : CzSlot) (g fmt len : Nat) (ext : List Byte) : List Byte × Bool :=
  let n := len / esizeOf fmt
  decodeBlocks slot g fmt n (emaxOf len (esizeOf fmt)) ext (List.range (blocksOf n))

/-- Bytes of the extent of a row of `n` elements: to the end of its last block, at most E_max. -/
def extentBytes (n emax : Nat) (ext : List Byte) : Nat :=
  let off := leNat ((ext.drop (4 * (blocksOf n - 1))).take 4)
  min emax (16 * (off + nfld (leNat ((ext.drop (16 * off)).take 4)) 21 12))

/-- Classes of a byte string added to a histogram; counts stop at 2^32 − 1 (R248). -/
def addHist (h : Tbl Nat) (fmt : Nat) (b : List Byte) : Tbl Nat :=
  (elemsOf (esizeOf fmt) b).foldl (fun h v => tmod 0 h (czClass fmt v) fun k => min (k + 1) (2 ^ 32 - 1)) h

end Sys2Proof.Machine
end

