-- ==== Sys2Proof/Machine/Dma.lean ====
section
/-! DEFINITION. The DMA queue: DMA, SUMMARY and the coding CONFIGs from their start to their completion (R83 to R89, R244 to R250). -/

namespace Sys2Proof.Machine
open Sys2Proof

/-! ### Geometry of a DMA command (Table 4-11, R87, R245) -/

/-- One side of a command in memory: its device, base and whether it is the coded side. -/
structure DmaSide where
  value : W64
  coded : Bool
  write : Bool
  deriving DecidableEq, Repr

def dmaLen (w : CmdWord) : Nat := wfld w 82 62
def dmaRows (w : CmdWord) : Nat := wfld w 94 83 + 1
def dmaFmt (w : CmdWord) : Nat := wfld w 113 111
def dmaCz (w : CmdWord) : Nat := wfld w 114 111
def dmaEmax (w : CmdWord) : Nat := emaxOf (dmaLen w) (esizeOf (dmaFmt w))
def sideAddr (w : CmdWord) (d : DmaSide) (r : Nat) : Nat := gaLocal d.value + r * (wfld w 110 95 * 16)
/-- Scratchpad address of row `r` (R87). -/
def spRow (q : QEntry) (r : Nat) : Nat := idxVal q.regs q.w 42 + r * (cdiv (dmaLen q.w) 64 * 64)

/-- The memory sides of a command, ra first. -/
def dmaSides (q : QEntry) : List DmaSide :=
  let ra := sregT q.regs (wfld q.w 36 32)
  let rb := sregT q.regs (wfld q.w 41 37)
  let cz := decide (dmaCz q.w ≠ 0)
  let dec := wbit q.w 114
  match q.kind with
  | .dmaLoad => [⟨ra, cz, false⟩]
  | .dmaStore => [⟨ra, cz, true⟩]
  | .dmaCopy => [⟨ra, cz && dec, false⟩, ⟨rb, cz && !dec, true⟩]
  | _ => [⟨ra, false, true⟩]

def isRemote (s : State) (d : DmaSide) : Bool := decide (gaDev d.value ≠ s.fuses.devid.toNat)

/-- Is the coding attribute of row `r` suppressed (R246)? -/
def czSuppressed (s : State) (q : QEntry) (r : Nat) : Bool :=
  match (dmaSides q).find? (·.coded) with
  | none => false
  | some d => !isRemote s d && touchesSealed s (sideAddr q.w d r) (max (dmaLen q.w) (dmaEmax q.w))

/-- The rows whose coding is suppressed. -/
def suppressedRows (s : State) (q : QEntry) : List Nat :=
  if dmaCz q.w = 0 then [] else (List.range (dmaRows q.w)).filter (czSuppressed s q)

/-- Bytes of row `r` on a side that the checks cover (R245, R246). -/
def sideBytes (s : State) (q : QEntry) (d : DmaSide) (r : Nat) : Nat :=
  if d.coded && !czSuppressed s q r then dmaEmax q.w else dmaLen q.w

/-- The ranges of the command's rows on this device. -/
def localRanges (s : State) (q : QEntry) : List (Nat × Nat) :=
  ((dmaSides q).filter fun d => !isRemote s d).flatMap fun d => (List.range (dmaRows q.w)).map fun r => (sideAddr q.w d r, sideBytes s q d r)

/-- The check of a side's rows (R88, R343). -/
def sideErr (s : State) (c : CoreId) (q : QEntry) (d : DmaSide) : List Nat → Option StartRes
  | [] => none
  | r :: rest =>
    let a := sideAddr q.w d r
    let n := sideBytes s q d r
    let bad :=
      if isRemote s d then
        match partOfCore s c, taskOfCore s c with
        | some p, some t =>
          if (pairFor s p t.job (BitVec.ofNat 14 (gaDev d.value)) d.write a n).isNone then
            some (.fail cWINDOW (some (BitVec.ofNat 48 a)) false) else none
        | _, _ => some (.fail cWINDOW none false)
      else localErr s c d.write [(a, n)]
    match bad with
    | some e => some e
    | none => sideErr s c q d rest

def sidesErr (s : State) (c : CoreId) (q : QEntry) : List DmaSide → Option StartRes
  | [] => none
  | d :: rest =>
    match sideErr s c q d (List.range (dmaRows q.w)) with
    | some e => some e
    | none => sidesErr s c q rest

/-! ### Requests to another device (R346, R351) -/

/-- Writes of a row's bytes to another device: its blocks, then its map of `m` bytes (R346). -/
def sendRow (s : State) (c : CoreId) (q : QEntry) (d : DmaSide) (r m : Nat) (b : List Byte) : State :=
  match partOfCore s c, taskOfCore s c with
  | some p, some t =>
    let a := sideAddr q.w d r
    match pairFor s p t.job (BitVec.ofNat 14 (gaDev d.value)) true a (sideBytes s q d r) with
    | none => s
    | some i =>
      match getPair s i with
      | none => s
      | some pr =>
        let o := some (c, q.n)
        pairEnqueue (addBridgeBytes s p b.length) i
          (writeFrames s pr ftWRITE o t.job (a + m) (b.drop m) ++ writeFrames s pr ftWRITE o t.job a (b.take m))
  | _, _ => s

/-- The source side in memory, if the command has one. -/
def dmaSource (q : QEntry) : Option DmaSide := (dmaSides q).find? fun d => !d.write

/-- The destination side in memory, if the command has one. -/
def dmaDest (q : QEntry) : Option DmaSide := (dmaSides q).find? (·.write)

/-- Sends the read requests of row `r` to another device; the state and their number. -/
def requestRow (c : CoreId) (q : QEntry) (d : DmaSide) (x : State × Nat) (r : Nat) : State × Nat :=
  let s := x.1
  match partOfCore s c, taskOfCore s c with
  | some p, some t =>
    let a := sideAddr q.w d r
    let n := sideBytes s q d r
    match pairFor s p t.job (BitVec.ofNat 14 (gaDev d.value)) false a n with
    | none => x
    | some i =>
      match getPair s i with
      | none => x
      | some pr =>
        let fs := readFrames s pr (some (c, q.n)) t.job a n
        let s := setPair s i { pr with reads := pr.reads ++ readWaits pr (some (c, q.n)) (r * n) a n, tagNext := pr.tagNext + BitVec.ofNat 16 fs.length }
        (pairEnqueue s i fs, x.2 + fs.length)
  | _, _ => x

/-! ### The start of LOAD, STORE, COPY and ZERO (R86 to R89, R244 to R250) -/

/-- Blocks of a coded command, for its slot's count (R247). -/
def dmaBlocks (w : CmdWord) : Nat := dmaRows w * blocksOf (dmaLen w / esizeOf (dmaFmt w))

def dmaSlot (q : QEntry) : Nat := wfld q.w 117 115
def isCoded (q : QEntry) : Bool := decide (dmaCz q.w ≠ 0)

/-- A coding CONFIG into the command's slot that has not completed (R247). -/
def slotPending (x : CoreSt) (q : QEntry) : Bool :=
  isCoded q && (earlier x.seq.dmaQ q.n).any fun e =>
    (decide (e.kind = .cfgCzLoad) || decide (e.kind = .cfgCzBuild)) && decide (wfld e.w 54 52 = dmaSlot q)

/-- The DMA queue's next command may start: the one ahead has presented its last request (R89). -/
def dmaMayStart (x : CoreSt) (q : QEntry) : Bool := decide (freeAt (earlier x.seq.dmaQ q.n) ≤ x.seq.cycle)

/-- A side whose base is misaligned (R86, R244). -/
def sideMisaligned (d : DmaSide) : Bool := gaBad d.value || (d.coded && decide (gaLocal d.value % 16 ≠ 0))

/-- The scratchpad ranges of LOAD and STORE. -/
def dmaSpRanges (q : QEntry) : List SpRange :=
  if q.kind = .dmaLoad ∨ q.kind = .dmaStore then (List.range (dmaRows q.w)).map fun r => ⟨decide (q.kind = .dmaLoad), spRow q r, dmaLen q.w⟩ else []

/-- The checks of R88, in order, after ALIGN. -/
def dmaErr (s : State) (c : CoreId) (q : QEntry) : Option StartRes :=
  match sidesErr s c q (dmaSides q) with
  | some e => some e
  | none =>
    match rangesErr (getCore s c).spTask (dmaSpRanges q) with
    | some e => some (.fail e none false)
    | none => downErr s (localRanges s q)

/-- A command that has passed its checks: its blocks are counted, and what it reads on another device is requested. -/
def beginDma (s : State) (c : CoreId) (q : QEntry) : StartRes :=
  let q := { q with supp := suppressedRows s q, gslot := if isCoded q then some (dmaSlot q, dmaBlocks q.w) else none }
  let s := if isCoded q then modEng s c fun e =>
      { e with czSlots := tmod .reset e.czSlots (dmaSlot q) fun z => { z with count := z.count + BitVec.ofNat 32 (dmaBlocks q.w) } }
    else s
  let p := paced s c q (dmaRows q.w * cdiv (dmaLen q.w) 128)
  match (dmaSource q).filter (isRemote s) with
  | some d => let x := (List.range (dmaRows q.w)).foldl (requestRow c q d) (s, 0); .run x.1 { p with remoteReads := x.2 }
  | none => .run s p

def startDma (s : State) (c : CoreId) (q : QEntry) : StartRes :=
  let x := getCore s c
  if slotPending x q ∨ !dmaMayStart x q then .wait
  else
    match (dmaSides q).find? sideMisaligned with
    | some d => .fail cALIGN (some (BitVec.ofNat 48 (gaLocal d.value))) false
    | none => if dmaLen q.w = 0 then .done s else (dmaErr s c q).getD (beginDma s c q)

/-! ### Units: 128 raw bytes of a row (R89, R245) -/

def dmaShape (q : QEntry) : Nat × Nat := (dmaRows q.w, cdiv (dmaLen q.w) 128)

def pieceLen (q : QEntry) (j : Nat) : Nat := min 128 (dmaLen q.w - 128 * j)

/-- Does the command decode row `r`, or code it? -/
def decodes (q : QEntry) (r : Nat) : Bool := isCoded q && !q.supp.contains r && (decide (q.kind = .dmaLoad) || wbit q.w 114)
def codes (q : QEntry) (r : Nat) : Bool := isCoded q && !q.supp.contains r && !(decide (q.kind = .dmaLoad) || wbit q.w 114)

/-- Raw bytes of a block; the block of piece `j`; is the piece its first, or its last? -/
def blockBytes (q : QEntry) : Nat := 256 * esizeOf (dmaFmt q.w)
def blockAt (q : QEntry) (j : Nat) : Nat := 128 * j / blockBytes q
def firstOfBlock (q : QEntry) (j : Nat) : Bool := decide (128 * j % blockBytes q = 0)
def lastOfBlock (q : QEntry) (j : Nat) : Bool := decide (128 * (j + 1) % blockBytes q = 0) || decide (j + 1 = (dmaShape q).2)

/-- `n` bytes of row `r` on the source side, from offset `o` on: read here, or received. -/
def sourceBytes (s : State) (q : QEntry) (r o n : Nat) : List Byte :=
  match q.kind, dmaSource q with
  | .dmaZero, _ => List.replicate n 0
  | _, some d =>
    if isRemote s d then (List.range n).map fun k => tget 0 q.got (r * sideBytes s q d r + o + k) else devRead s (sideAddr q.w d r + o) n
  | _, none => []

/-- Is a byte of the source range on a line that is not delivered (R396)? -/
def sourceLost (s : State) (q : QEntry) (r o n : Nat) : Bool :=
  match dmaSource q with
  | some d => !isRemote s d && q.lost.any fun l => overlaps (sideAddr q.w d r + o) n (l * 64) 64
  | none => false

/-- The extent of row `r` as the decoder reads it, with the bytes of lines that are not delivered as `f`. -/
def extentOf (s : State) (q : QEntry) (r : Nat) (f : Byte) : List Byte :=
  (sourceBytes s q r 0 (dmaEmax q.w)).zipIdx.map fun (b, i) => if sourceLost s q r i 1 then f else b

/-- What the decoder makes of a block: its bytes; `some none`: it is corrupt; `none`: it rests on bytes that are not delivered. -/
def decoded (s : State) (c : CoreId) (q : QEntry) (r i : Nat) : Option (Option (List Byte)) :=
  let slot := tget .reset (getCore s c).eng.czSlots (dmaSlot q)
  let d (f : Byte) := decodeBlock slot (dmaSlot q) (dmaFmt q.w) (dmaLen q.w / esizeOf (dmaFmt q.w)) (dmaEmax q.w) (extentOf s q r f) i
  if sourceLost s q r 0 (dmaEmax q.w) then (if d 0x00 = d 0xFF then (d 0x00).map some else none) else some (d 0)

/-- Bytes of memory that a decoder reads for a block: the block, and with the first one the map. -/
def blockCost (s : State) (q : QEntry) (r i : Nat) : Nat :=
  let ext := extentOf s q r 0
  let off := leNat ((ext.drop (4 * i)).take 4)
  (if i = 0 then 16 * mapUnits (dmaLen q.w / esizeOf (dmaFmt q.w)) else 0) +
  min (16 * nfld (leNat ((ext.drop (16 * off)).take 4)) 21 12) (dmaEmax q.w - 16 * off)

/-- The keys under which a command keeps a row's pieces, a block's bytes, what a row sends to another device, and that a block is corrupt. -/
def keyPiece (j : Nat) : Nat := j
def keyBlock : Nat := 2 ^ 20
def keySent : Nat := 2 ^ 20 + 1
def keyBad : Nat := 2 ^ 20 + 2

/-- The entry without what it keeps under the keys that `p` names. -/
def dropCap (q : QEntry) (p : Nat → Bool) : QEntry := { q with cap := q.cap.filter fun k => !p k.1 }

/-- Bytes of row `r`'s piece `j` as they go to the destination, each with its place in the piece; none of those that are not delivered. -/
def pieceOut (s : State) (q : QEntry) (r j : Nat) : List (Nat × Byte) :=
  if q.kind = .dmaStore then (capOf q (keyPiece j)).zipIdx.map fun (b, i) => (i, b)
  else if decodes q r then
    ((capOf q keyBlock).drop (128 * j - blockAt q j * blockBytes q) |>.take (pieceLen q j)).zipIdx.map fun (b, i) => (i, b)
  else (sourceBytes s q r (128 * j) (pieceLen q j)).zipIdx.filterMap fun (b, i) => if sourceLost s q r (128 * j + i) 1 then none else some (i, b)

/-- Before its first piece moves, a block is decoded. -/
def fetchBlock (s : State) (c : CoreId) (q : QEntry) (r j : Nat) : QEntry :=
  if decodes q r && firstOfBlock q j then
    let q' := dropCap q fun k => decide (k ≠ keySent)
    match decoded s c q r (blockAt q j) with
    | some (some b) => putCap q' keyBlock b
    | some none => putCap (putCap q' keyBad [1]) keyBlock (List.replicate (blockCount (dmaLen q.w / esizeOf (dmaFmt q.w)) (blockAt q j) * esizeOf (dmaFmt q.w)) 0)
    | none => q'
  else q

/-- The piece's bytes on the memory side: as they are, or, where the row is coded, with the last piece of a block. -/
def putPlain (s : State) (c : CoreId) (q : QEntry) (d : DmaSide) (r j : Nat) : State :=
  let l := pieceOut s q r j
  let a := sideAddr q.w d r + 128 * j
  if isRemote s d then modEntry s c .dma q.n fun e => putCap e keySent (capOf e keySent ++ l.map (·.2))
  else
    let s := countTier s c a (pieceLen q j)
    if l.length = pieceLen q j then devWrite s a (l.map (·.2)) else devCells s (l.map fun (i, b) => (a + i, b))

/-- The raw bytes of block `i` of row `r`, all pieces at hand. -/
def rawBlock (s : State) (q : QEntry) (r i : Nat) : List Byte :=
  let lo := i * blockBytes q
  let n := min (dmaLen q.w) (lo + blockBytes q) - lo
  if q.kind = .dmaStore then ((List.range (cdiv n 128)).flatMap fun k => capOf q (keyPiece (lo / 128 + k))).take n else sourceBytes s q r lo n

/-- Offsets of a row's blocks so far, in 16-byte units, from those of the ends of the blocks written: the next block's is the last. -/
def nextOff (q : QEntry) : Nat := q.offs.getLast?.getD (mapUnits (dmaLen q.w / esizeOf (dmaFmt q.w)))

/-- A block is coded and written, and after the last one the map (R241, R243, R245). What rests on bytes that are not delivered is not written. -/
def putCoded (s : State) (c : CoreId) (q : QEntry) (d : DmaSide) (r i : Nat) : State :=
  let n := dmaLen q.w / esizeOf (dmaFmt q.w)
  let m := mapUnits n
  if q.kind ≠ .dmaStore && sourceLost s q r 0 (min (dmaLen q.w) ((i + 1) * blockBytes q)) then s
  else
    let slot := tget .reset (getCore s c).eng.czSlots (dmaSlot q)
    let e := encodeBlock slot (dmaSlot q) (dmaFmt q.w) (elemsOf (esizeOf (dmaFmt q.w)) (rawBlock s q r i))
    let off := if i = 0 then m else nextOff q
    let q := { q with offs := (if i = 0 then [m] else q.offs) ++ [off + e.1.length / 16] }
    let map := fitBytes (16 * m) ((q.offs.take (blocksOf n)).flatMap (leBytes 4))
    let s := install s c (.czAdd (if e.2 then 1 else 0) (if e.2 then 0 else 1) 0)
    let a := sideAddr q.w d r
    let s := modEntry s c .dma q.n fun x => dropCap { x with offs := q.offs } fun k => decide (k < keyBlock)
    if isRemote s d then modEntry s c .dma q.n fun x => putCap x keySent (capOf x keySent ++ e.1)
    else
      let s := devWrite (countTier s c (a + 16 * off) e.1.length) (a + 16 * off) e.1
      if i + 1 = blocksOf n then devWrite (countTier s c a map.length) a map else s

/-- The row's bytes leave for another device: as coded, the map comes with its last block. -/
def finishSent (s : State) (c : CoreId) (q : QEntry) (r : Nat) : State :=
  match (dmaDest q).filter (isRemote s) with
  | none => s
  | some d =>
    let n := dmaLen q.w / esizeOf (dmaFmt q.w)
    let map := if codes q r then fitBytes (16 * mapUnits n) ((q.offs.take (blocksOf n)).flatMap (leBytes 4)) else []
    let s := if sourceLost s q r 0 (dmaLen q.w) then s else sendRow s c q d r map.length (map ++ capOf q keySent)
    modEntry s c .dma q.n fun e => dropCap e fun k => decide (k = keySent)

/-- One block of the command is complete: its slot counts one less (R247). -/
def blockDone (s : State) (c : CoreId) (q : QEntry) : State :=
  match q.gslot with
  | none => s
  | some (g, n) =>
    modEntry (modEng s c fun e => { e with czSlots := tmod .reset e.czSlots g fun z => { z with count := z.count - 1 } }) c .dma q.n
      fun e => { e with gslot := some (g, n - 1) }

/-- A corrupt block ends its command: its unfinished blocks leave the count, and the task error is raised (R247, R250). -/
def corruptBlock (s : State) (c : CoreId) (q : QEntry) : State :=
  let s := modEng (finishSent s c q q.uRow) c fun e => dropCounts e [q]
  let s := modEntry s c .dma q.n fun e => { e with gslot := none, uRow := dmaRows q.w, uIdx := 0, cap := [] }
  abandonRest (raiseTaskAt s c cCZ_INTEGRITY q.pc none 0) c

/-- What piece `j` of row `r` does besides its access to the scratchpad. -/
def dmaUnit (s : State) (c : CoreId) (q : QEntry) (r j : Nat) : State :=
  let s := if q.supp.contains r && decide (j = 0) then install s c (.czAdd 0 0 1) else s
  let s := match dmaSource q with
    | some d =>
      if isRemote s d then s
      else if decodes q r then (if firstOfBlock q j then countTier s c (sideAddr q.w d r) (blockCost s q r (blockAt q j)) else s)
      else countTier s c (sideAddr q.w d r + 128 * j) (pieceLen q j)
    | none => s
  let s := match dmaDest q with
    | some d => if codes q r then (if lastOfBlock q j then putCoded s c q d r (blockAt q j) else s) else putPlain s c q d r j
    | none => s
  if !lastOfBlock q j then s
  else if decodes q r && decide (capOf q keyBad ≠ []) then corruptBlock s c (entryNow s c q)
  else
    let s := if isCoded q then blockDone s c q else s
    if j + 1 = (dmaShape q).2 then finishSent s c (entryNow s c q) r else s

/-! ### SUMMARY (R83 to R85, Table 4-10) -/

/-- Bytes of the summary ring (R84). -/
def summaryRing : Nat := 131072

def sumBytes (q : QEntry) : Nat := wfld q.w 61 52 * 16
def sumShape (q : QEntry) : Nat × Nat := if sumBytes q = 0 then (0, 0) else (1, cdiv (sumBytes q) 128)

/-- The header of a summary that starts now (Table 4-10). -/
def sumHeader (s : State) (c : CoreId) (p : PartId) (ask : Bool) (q : QEntry) : List Byte :=
  let x := getPart s p
  leBytes 16 (coreIndex x c % 128 + bitN ask 7 + p.toNat * 2 ^ 8 + wfld q.w 77 62 * 2 ^ 16 +
    ((x.task.map (·.lastCapo.toNat)).getD 0) * 2 ^ 32 + wfld q.w 61 52 * 2 ^ 48 + s.time.toNat * 2 ^ 64)

/-- The ring lacks space for a SUMMARY that is at the head of the queue, and its own check passes. -/
def ringLacks (s : State) (c : CoreId) (q : QEntry) : Bool :=
  match partOfCore s c with
  | none => true
  | some p => let x := getPart s p; decide (x.sumRing.length + x.sumDue + 16 + sumBytes q > summaryRing)

/-- A SUMMARY that stands at the head of the DMA queue. -/
def summaryHead (s : State) (c : CoreId) : Option QEntry :=
  ((getCore s c).seq.dmaQ.find? fun e => !e.started).filter fun q =>
    (decide (q.kind = .summarySend) || decide (q.kind = .summaryAsk)) && dmaMayStart (getCore s c) q

/-- It waits for space of the ring, and the cycle is counted (R84). -/
def countStall (s : State) (c : CoreId) : State :=
  match summaryHead s c, partOfCore s c with
  | some q, some p => if ringLacks s c q then modTask s p fun t => { t with stall := t.stall + 1 } else s
  | _, _ => s

def startSummary (ask : Bool) (s : State) (c : CoreId) (q : QEntry) : StartRes :=
  let x := getCore s c
  let src := idxVal q.regs q.w 32
  if !dmaMayStart x q then .wait
  else if !ask ∧ sumBytes q = 0 then .done s
  else
    match rangeErr x.spTask ⟨false, src, sumBytes q⟩ with
    | some e => .fail e none false
    | none =>
      match partOfCore s c with
      | none => .wait
      | some p =>
        if ringLacks s c q then .wait
        else
          .run (modPart s p fun y => { y with sumDue := y.sumDue + 16 + sumBytes q })
            (putCap (paced s c q (cdiv (sumBytes q) 128)) keyBlock (sumHeader s c p ask q))

/-- A SUMMARY completes: header and payload stand in the ring. -/
def endSummary (s : State) (c : CoreId) (q : QEntry) : State :=
  match partOfCore s c with
  | none => s
  | some p =>
    let h := leNat (capOf q keyBlock)
    let b := (List.range (sumShape q).2).flatMap fun j => capOf q (keyPiece j)
    let r : SummaryRec := ⟨c, h.testBit 7, BitVec.ofNat 16 (nfld h 31 16), BitVec.ofNat 16 (nfld h 47 32), b, BitVec.ofNat 64 (nfld h 127 64)⟩
    let s := modPart s p fun y => { y with sumDue := y.sumDue - (16 + sumBytes q), sumRing := y.sumRing ++ capOf q keyBlock ++ b }
    modTask s p fun t => { t with sums := t.sums ++ [r] }

/-! ### CONFIG of coding tables (R248) -/

def czSlotOf (q : QEntry) : Nat := wfld q.w 54 52

/-- A coding CONFIG waits at the head of the queue for its slot's count to be 0. -/
def czWaits (x : CoreSt) (q : QEntry) : Bool := !dmaMayStart x q || decide ((tget .reset x.eng.czSlots (czSlotOf q)).count ≠ 0)

/-- The cycles after its start in which a coding CONFIG presents its last read, and in which it completes. -/
def czReads (q : QEntry) : Nat := cdiv (cfgBytes q) 128
def czFinal (q : QEntry) : Bool := decide (q.kind = .cfgCzBuild) && !wbit q.w 59

/-- A coding CONFIG's own timing: the next command starts after its last access. -/
def czTimed (s : State) (c : CoreId) (q : QEntry) : QEntry :=
  let n := czReads q - 1 + (if czFinal q then 264 else 0)
  { timed s c q (n + if czFinal q then 8 else 7) with free := clockOf s c + n + 1 }

def startCzLoad (s : State) (c : CoreId) (q : QEntry) : StartRes :=
  let x := getCore s c
  if czWaits x q then .wait
  else
    match rangeErr x.spTask ⟨false, cfgSource q, 320⟩ with
    | some e => .fail e none false
    | none => .run s (czTimed s c q)

def startCzBuild (s : State) (c : CoreId) (q : QEntry) : StartRes :=
  let x := getCore s c
  let src := cfgSource q
  let n := cfgBytes q
  if czWaits x q then .wait
  else
    match rangesErr x.spTask ([⟨false, src, n⟩] ++ if czFinal q then [⟨true, src + n, 320⟩] else []) with
    | some e => .fail e none false
    | none => .run s (czTimed s c q)

/-- The record that a final build makes of the histogram (R240). -/
def builtRecord (e : Engines) (q : QEntry) : List Byte :=
  let fmt := wfld q.w 58 56
  recordOf fmt (buildLens ((List.range (czClasses fmt)).map fun k => tget 0 e.hist k))

/-- The cycle in which a final build writes its record. -/
def czWriteAt (q : QEntry) : Nat := q.startAt + czReads q - 1 + 264

/-- A build adds what it has read to the histogram in the cycle after its last read; a final one forms its record in the cycle that writes
it, and clears the histogram. -/
def czCompute (s : State) (c : CoreId) (q : QEntry) (t : Nat) : State :=
  if q.kind = .cfgCzBuild ∧ t = q.startAt + czReads q then
    modEntry (modEng s c fun e => { e with hist := addHist e.hist (wfld q.w 58 56) (capAll q (cfgBytes q) 128) }) c .dma q.n fun e => { e with cap := [] }
  else if czFinal q ∧ t = czWriteAt q then
    let r := builtRecord (getCore s c).eng q
    modEntry (modEng s c fun e => { e with hist := [] }) c .dma q.n fun e => putCap e keyBlock r
  else s

def czAccess (q : QEntry) (t : Nat) : List Access :=
  readStep q 1 (cfgSource q) (cfgBytes q) 128 t ++
  (if czFinal q ∧ t = czWriteAt q then [writes q 1 (cfgSource q + cfgBytes q) (capOf q keyBlock)] else [])

/-- A coding CONFIG completes: its slot holds the table (R237, R248). -/
def endCz (s : State) (c : CoreId) (q : QEntry) : State :=
  if q.kind = .cfgCzLoad then
    let b := capAll q (cfgBytes q) 128
    if czRecordOk b then install s c (.czTable (czSlotOf q) (slotOfRecord b)) else raiseTask s c cCZ_TABLE q.pc
  else if czFinal q then install s c (.czTable (czSlotOf q) (slotOfRecord (capOf q keyBlock)))
  else s

end Sys2Proof.Machine
end

