-- ==== Sys2Proof/Machine/SeqQ.lean ====
section
/-! DEFINITION. What the sequencer itself does over several cycles: the advance of the program counter, the scratchpad accesses of LD, ST and
the sequencer's CONFIGs, and the copy of a decision (R75, R78, R85, R91, R104, R223). -/

namespace Sys2Proof.Machine
open Sys2Proof

/-- The pc of the core. -/
def pcOf (s : State) (c : CoreId) : BitVec 13 := (getCore s c).seq.pc

/-- The command after this one is next; passing the last command raises PC_RANGE (R75, log 30). -/
def advance (s : State) (c : CoreId) : State :=
  let q := (getCore s c).seq
  if q.pc.toNat + 1 < q.cmdMem.length then modSeq s c fun q => { q with pc := q.pc + 1 } else raiseTask s c cPC_RANGE q.pc

/-- As `advance`, with the next command at `n` cycles from this one. -/
def advanceIn (s : State) (c : CoreId) (n : Nat) : State := advance (modSeq s c fun q => { q with next := q.cycle + n }) c

/-- The entry of a command as captured at issue (R73, R224). -/
def newEntry (q : Seq) (e : Engines) (kind : QKind) (w : CmdWord) : QEntry :=
  { n := q.issued, kind := kind, pc := q.pc, w := w, regs := q.sregs, sites := e.sites
    started := false, startAt := 0, vl := 0, sched := [], outs := [], free := 0, last := 0, endAt := none
    uRow := 0, uIdx := 0, supp := [], offs := [], gslot := none, remoteReads := 0, got := [], cap := [], vals := [], sums := []
    lost := [], zeros := [] }

/-- A command that the sequencer carries out itself starts, and completes in the cycle `m` cycles later. -/
def startSeq (s : State) (c : CoreId) (kind : QKind) (w : CmdWord) (m : Nat) : State :=
  let x := getCore s c
  let e := timed s c (newEntry x.seq x.eng kind w) m
  modSeq s c fun q => { q with issued := q.issued + 1, seqQ := q.seqQ ++ [e] }

/-! ### LD and ST (R77, R104) -/

/-- The address used by LD and ST. -/
def narrowAt (q : QEntry) : Nat := idxVal q.regs q.w 64

/-- LD has read its word: s[d] is written at cycle 3 and read from cycle 4 on. -/
def endLd (s : State) (c : CoreId) (q : QEntry) : State :=
  modSeq s c fun y => { y with ldPend := y.ldPend ++ [(q.startAt + 4, BitVec.ofNat 5 (wfld q.w 36 32), BitVec.ofNat 64 (leNat (capOf q 0)))] }

/-! ### CONFIG in the sequencer (R91, R223) -/

/-- The words that a CONFIG has read, in order. -/
def narrowWords (q : QEntry) : List W64 := (List.range (cfgBytes q / 8)).map fun k => BitVec.ofNat 64 (leNat (capOf q k))

def timeoutOk (v : Nat) : Bool := decide (100 ≤ v) && decide (v ≤ 5000000)

/-- A core control record is sound (Table 4-13). -/
def controlOk (ws : List W64) : Bool :=
  timeoutOk (nfld (ws.getD 0 0).toNat 31 0) && timeoutOk (nfld (ws.getD 0 0).toNat 63 32) && (ws.drop 1).all fun x => decide (x = 0)

/-- The next command follows, where the core still runs. -/
def goAfter (s : State) (c : CoreId) : State := if (getCore s c).seq.phase = .running then advance s c else s

/-- A record that is not sound raises ILLEGAL_COMMAND, where the core still runs. -/
def illegalRecord (s : State) (c : CoreId) (q : QEntry) : State :=
  if (getCore s c).seq.phase = .running then raiseTask s c cILLEGAL q.pc else s

/-- The core control record takes effect (Table 4-13). -/
def endCoreControl (s : State) (c : CoreId) (q : QEntry) : State :=
  let ws := narrowWords q
  let v := (ws.getD 0 0).toNat
  if controlOk ws then
    goAfter (modSeq s c fun q => { q with syncTimeout := BitVec.ofNat 32 (nfld v 31 0), decisionTimeout := BitVec.ofNat 32 (nfld v 63 32) }) c
  else illegalRecord s c q

/-- A site selection entry is sound (Table 10-5). -/
def siteOk (v : W64) : Bool :=
  decide (nfld v.toNat 11 0 ≤ 0xEFF) && decide (nfld v.toNat 15 12 = 0) && decide (nfld v.toNat 63 40 = 0)

def siteOf (v : W64) : BitVec 12 × BitVec 24 := (BitVec.ofNat 12 (nfld v.toNat 11 0), BitVec.ofNat 24 (nfld v.toNat 39 16))

/-- The bow site selection takes effect (R223). -/
def endBowSites (s : State) (c : CoreId) (q : QEntry) : State :=
  let ws := narrowWords q
  if ws.all siteOk then goAfter (modEng s c fun e => { e with sites := tputs (0, 0) e.sites (wfld q.w 59 52) (ws.map siteOf) }) c
  else illegalRecord s c q

/-! ### Decisions (R85) -/

/-- The first 8 bytes of a decision; bytes beyond a shorter one are open (log 37). -/
def decisionWord (free : Nat) (b : List Byte) : W64 :=
  BitVec.ofNat 64 (leNat ((List.range 8).map fun i => match b[i]? with | some v => v | none => Config.freeByte (free + i)))

/-- The decision that a DWAIT collects now: it is in the buffer, and the DMA queue is empty. -/
def readyDecision (q : Seq) : Option (BitVec 5 × AskRec × List Byte) :=
  match q.phase with
  | .dwait d tag => if !q.dmaQ.isEmpty then none else
      (q.asks.find? fun a => decide (a.tag = tag)).bind fun a => a.decision.map fun b => (d, a, b)
  | _ => none

/-- A DWAIT starts its copy: 512 bytes a cycle through the DMA port; the next command issues 4 cycles after the last write. -/
def startDecision (s : State) (c : CoreId) : State :=
  let x := getCore s c
  match readyDecision x.seq with
  | none => s
  | some (d, a, b) =>
    match rangeErr x.spTask ⟨true, a.dst.toNat, b.length⟩ with
    | some e => raiseTask s c e x.seq.pc
    | none =>
      let n := max 1 (cdiv b.length 512)
      let v := decisionWord s.free b
      let s := { s with free := s.free + (8 - b.length) }
      let e := { timed s c (newEntry x.seq x.eng .decisionCopy 0) (n - 1) with cap := [(a.dst.toNat, b)] }
      let s := modSeq s c fun q =>
        setSreg { q with phase := .running, asks := q.asks.filter fun k => decide (k.tag ≠ a.tag), issued := q.issued + 1, seqQ := q.seqQ ++ [e] } d.toNat v
      advanceIn s c (n + 3)

/-- The write of a decision copy in its cycle `j`. -/
def decisionAccess (q : QEntry) (j : Nat) : List Access :=
  match q.cap with
  | (dst, b) :: _ => if 512 * j < b.length then [writes q 1 (dst + 512 * j) ((b.drop (512 * j)).take 512)] else []
  | [] => []

/-! ### All of them -/

/-- The access of a sequencer command in cycle `t`. -/
def seqAccess (q : QEntry) (t : Nat) : List Access :=
  match q.kind with
  | .ld => if t = q.startAt then [reads q 7 0 [(narrowAt q, 8)]] else []
  | .st => if t = q.startAt then [writes q 7 (narrowAt q) (leBytes 8 (sregT q.regs (wfld q.w 36 32)).toNat)] else []
  | .cfgCtrl | .cfgBow => readStep q 7 (cfgSource q) (cfgBytes q) 8 t
  | .decisionCopy => decisionAccess q (t - q.startAt)
  | _ => []

/-- What a sequencer command does as it completes. -/
def endSeq (s : State) (c : CoreId) (q : QEntry) : State :=
  match q.kind with
  | .ld => endLd s c q
  | .cfgCtrl => endCoreControl s c q
  | .cfgBow => endBowSites s c q
  | _ => s

end Sys2Proof.Machine
end

