-- ==== Sys2Proof/Machine/StateIo.lean ====
section
/-! DEFINITION. STATEIO: carried state between the accumulator bank and the state image blocks, and window frames
(08_carried_state.md). -/

namespace Sys2Proof.Machine
open Sys2Proof

/-- An ADRAIN that executes holds the shared path (R181). -/
def adrainRuns (x : CoreSt) : Bool :=
  x.seq.mxQ.any fun e => e.started && (decide (e.kind = .adrainDrain) || decide (e.kind = .adrainFill))

/-- The address of a member's block. -/
def blockOf (m : Member) : Nat := m.statePtr.toNat * 4096

def boolNat (b : Bool) : Nat := if b then 1 else 0

/-- The members `mbase` to `mbase + n − 1`, if the bundle has them (R180). -/
def stMembers (s : State) (c : CoreId) (mbase n : Nat) : Option (List Member) :=
  if hasBundle s c ∧ mbase + n ≤ (membersOf s c).length then some (((membersOf s c).drop mbase).take n) else none

/-- The whole of every member's block, over which the job needs read permission (R180, R259). -/
def blockRanges (x : CoreSt) (ms : List Member) : List (Nat × Nat) := ms.map fun m => (blockOf m, x.stImage.blkSize.toNat * 4096)

/-! ### LOAD and SAVE (R178, R179) -/

def stWidth (w : CmdWord) : Nat := if wbit w 104 then 3 else 2
def stSh (w : CmdWord) : Nat := wfld w 109 105
def stCols (w : CmdWord) : Nat := 64 * (wfld w 103 102 + 1)
def stCol0 (w : CmdWord) : Nat := 64 * wfld w 101 100

/-- The offset of the first element within its generation. -/
def stOffset (q : QEntry) : Nat := wfld q.w 73 52 * 64 + idxVal q.regs q.w 32 * stWidth q.w

/-- The memory range of a member's elements, in generation `g`. -/
def stRange (x : CoreSt) (q : QEntry) (m : Member) (g : Bool) : Nat × Nat :=
  (blockOf m + boolNat g * (x.stImage.genSize.toNat * 4096) + stOffset q, stCols q.w * stWidth q.w)

/-- The checks of R180 for LOAD and SAVE, with the members. -/
def stCheck (s : State) (c : CoreId) (q : QEntry) (mse : Bool) (gen : Member → Bool) : Except StartRes (List Member) :=
  let x := getCore s c
  let w := q.w
  if x.stImage.genSize = 0 then .error (.fail cSTATE_CONFIG none false)
  else
    match stMembers s c (wfld w 91 84) (wfld w 99 92 + 1) with
    | none => .error (.fail cMEMBER_RANGE none false)
    | some ms =>
      if mse && !(tget .reset x.eng.descs (wfld w 119 116)).valid then .error (.fail cDESC_EMPTY none false)
      else if stOffset q + stCols w * stWidth w > x.stImage.genSize.toNat * 4096 then .error (.fail cSTATE_RANGE none false)
      else
        match (localErr s c false (blockRanges x ms ++ ms.map fun m => stRange x q m (gen m))).orElse fun _ =>
            downErr s (ms.map fun m => stRange x q m (gen m)) with
        | some e => .error e
        | none => .ok ms

/-- Memory cycles of `n` bytes at 128 a cycle. -/
def beats (n : Nat) : Nat := cdiv n 128

/-- LOAD: committed elements, or zeros, into accumulator rows. -/
def startStLoad (s : State) (c : CoreId) (q : QEntry) : StartRes :=
  if adrainRuns (getCore s c) then .wait
  else
    match stCheck s c q false (·.gen) with
    | .error e => e
    | .ok ms => .run s (paced s c q (ms.length * beats (stCols q.w * stWidth q.w)))

/-- Rows and units a row of a LOAD or SAVE: members, and groups of 64 columns. -/
def stShape (q : QEntry) : Nat × Nat := (wfld q.w 99 92 + 1, wfld q.w 103 102 + 1)

/-- The member of row `i` of a STATEIO. -/
def memberAt (s : State) (c : CoreId) (mbase i : Nat) : Option Member := (membersOf s c)[mbase + i]?

/-- A unit of LOAD: 64 columns of one row (R179, R181). -/
def stLoadUnit (s : State) (c : CoreId) (q : QEntry) (i g : Nat) : State :=
  let wd := stWidth q.w
  match memberAt s c (wfld q.w 91 84) i with
  | none => s
  | some m =>
    let a := (stRange (getCore s c) q m m.gen).1 + 64 * g * wd
    let cell := (wfld q.w 83 74 + i) * 256 + stCol0 q.w + 64 * g
    let l := (List.range 64).filterMap fun n =>
      let b := a + n * wd
      if wbit q.w 110 || m.reset then some (cell + n, (0 : Int))
      else if q.lost.contains (b / 64) || q.lost.contains ((b + wd - 1) / 64) then none
      else some (cell + n, sxt (8 * wd) (devNat s b wd) * (2 ^ stSh q.w : Nat))
    modEng (countTier s c a (64 * wd)) c fun e => { e with acc := l.foldl (fun t x => tput 0 t x.1 (ofI 40 x.2)) e.acc }

/-- One spilled element: its value, and what it adds to the statistics (R179). -/
def spill (sh wd : Nat) (acc : Int) (draw : Nat) : Int × VStat :=
  let q := acc >>> sh
  let f := (((acc * 256) >>> sh) % 256).toNat
  let q := if f ≠ 0 ∧ draw < f then q + 1 else q
  let hi : Int := (2 ^ (8 * wd - 1) : Nat)
  let y := clampI (-hi) (hi - 1) q
  (y, ⟨0, if y = q then 0 else 1, 1, sqErr (dySub (dyInt y) (dyScale (dyInt acc) (-(sh : Int))))⟩)

/-- SAVE: accumulator rows into the uncommitted generation. -/
def startStSave (s : State) (c : CoreId) (q : QEntry) : StartRes :=
  if adrainRuns (getCore s c) then .wait
  else
    match stCheck s c q (wbit q.w 111) (fun m => !m.gen) with
    | .error e => e
    | .ok ms => .run s (paced s c q (ms.length * beats (stCols q.w * stWidth q.w)))

/-- A unit of SAVE: 64 columns of one row, as the accumulator stage left them up to the cycle before (R179, R181). -/
def stSaveUnit (s : State) (c : CoreId) (q : QEntry) (i g : Nat) : State :=
  let wd := stWidth q.w
  match memberAt s c (wfld q.w 91 84) i with
  | none => s
  | some m =>
    let x := getCore s c
    let a := (stRange x q m (!m.gen)).1 + 64 * g * wd
    let st := tget (0, 0) q.sites (wfld q.w 115 112)
    let e0 := idxVal q.regs q.w 32
    let l := (List.range 64).map fun n =>
      spill (stSh q.w) wd (accI x.eng (wfld q.w 83 74 + i) (stCol0 q.w + 64 * g + n))
        (drawOf (bowDraw m.bowKey m.bowStep st.1 st.2 (wfld q.w 127 120) (e0 + 64 * g + n)))
    let v := l.foldl (fun v y => v.add y.2) VStat.zero
    let s := if wbit q.w 111 then install s c (.statsAdd (wfld q.w 119 116) 0 v.sat v.conv v.sqerr) else s
    devWrite (countTier s c a (64 * wd)) a (l.flatMap fun y => leBytes wd (ofI (8 * wd) y.1).toNat)

/-! ### WREAD and WWRITE (R186, R187) -/

/-- The slot of frame `f` of a member in its window ring. -/
def winSlot (x : CoreSt) (w : CmdWord) (m : Member) (f : Int) : Nat :=
  blockOf m + 2 * x.stImage.genSize.toNat * 4096 + wfld w 73 52 * 64 + (f % (x.stImage.wcap.toNat : Int)).toNat * (wfld w 85 74 * 64)

/-- Frame `k` of a member. -/
def winFrame (x : CoreSt) (w : CmdWord) (m : Member) (k : Nat) : Int :=
  (m.seq.toNat : Int) * x.stImage.fe.toNat + sxt 10 (wfld w 121 112) + k

/-- Is a frame of a WREAD delivered from its slot (R187)? -/
def winLive (s : State) (x : CoreSt) (m : Member) (f : Int) : Bool :=
  let c := f / (x.stImage.fe.toNat : Int)
  let seq : Int := m.seq.toNat
  let hdr := blockOf m + boolNat (!m.gen) * (x.stImage.genSize.toNat * 4096)
  let ran := devNat s (hdr + 4) 8
  decide (c = seq) || (decide (c < seq) && decide (seq - 1 - c < 64) && ran.testBit (seq - 1 - c).toNat)

/-- Frames a member, and bytes a frame, of a WREAD or WWRITE. -/
def winFrames (q : QEntry) : Nat := wfld q.w 111 102 + 1
def winBytesOf (q : QEntry) : Nat := wfld q.w 85 74 * 64

/-- Scratchpad address of frame `k` of member `i`. -/
def winSpa (q : QEntry) (i k : Nat) : Nat := idxVal q.regs q.w 32 + (i * winFrames q + k) * winBytesOf q

/-- Rows and units a row of a WREAD or WWRITE: the members' frames, in pieces of 128 bytes. -/
def winShape (q : QEntry) : Nat × Nat := ((wfld q.w 101 94 + 1) * winFrames q, beats (winBytesOf q))

def startWindow (write : Bool) (s : State) (c : CoreId) (q : QEntry) : StartRes :=
  let x := getCore s c
  let w := q.w
  let nfr := winFrames q
  let fb := winBytesOf q
  let rel := sxt 10 (wfld w 121 112)
  let fe : Int := x.stImage.fe.toNat
  if adrainRuns x then .wait
  else if x.stImage.genSize = 0 ∨ x.stImage.wcap = 0 then .fail cSTATE_CONFIG none false
  else
    match stMembers s c (wfld w 93 86) (wfld w 101 94 + 1) with
    | none => .fail cMEMBER_RANGE none false
    | some ms =>
      let frames := ms.zipIdx.flatMap fun (m, i) => (List.range nfr).map fun k => (m, i, k)
      let blk := x.stImage.blkSize.toNat * 4096
      if frames.any fun (m, _, k) => decide (winSlot x w m (winFrame x w m k) + fb > blockOf m + blk) then
        .fail cSTATE_RANGE none false
      else if (if write then decide (rel < 0) || decide (rel + ((nfr - 1 : Nat) : Int) ≥ fe)
          else decide (rel + ((nfr - 1 : Nat) : Int) ≥ fe) || decide (rel < fe - (x.stImage.wcap.toNat : Int))) then
        .fail cWIN_RANGE none false
      else
        match localErr s c false (blockRanges x ms ++ frames.map fun (m, _, k) => (winSlot x w m (winFrame x w m k), fb)) with
        | some e => e
        | none =>
          match rangesErr x.spTask (frames.map fun (_, i, k) => ⟨!write, winSpa q i k, fb⟩) with
          | some e => .fail e none false
          | none =>
            (downErr s (frames.map fun (m, _, k) => (winSlot x w m (winFrame x w m k), fb))).getD
              (.run s (paced s c q (frames.length * beats fb)))

/-- Member, frame, offset and length of unit `j` of row `r` of a WREAD or WWRITE. -/
def winUnit (s : State) (c : CoreId) (q : QEntry) (r j : Nat) : Option (Member × Int × Nat × Nat) :=
  (memberAt s c (wfld q.w 93 86) (r / winFrames q)).map fun m =>
    (m, winFrame (getCore s c) q.w m (r % winFrames q), 128 * j, min 128 (winBytesOf q - 128 * j))

/-- The scratchpad address of a unit. -/
def winAt (q : QEntry) (r j : Nat) : Nat := winSpa q (r / winFrames q) (r % winFrames q) + 128 * j

/-- The bytes that a unit of WREAD writes, each with its place in the unit (R187). -/
def wreadBytes (s : State) (c : CoreId) (q : QEntry) (r j : Nat) : List (Nat × Byte) :=
  let x := getCore s c
  match winUnit s c q r j with
  | none => []
  | some (m, f, o, n) =>
    let a := winSlot x q.w m f + o
    if winLive s x m f then delivered q a (devRead s a n) else (List.replicate n 0).zipIdx.map fun (b, i) => (i, b)

/-- A unit's frame bytes are counted, and those of WWRITE written from what it has read. -/
def winMemory (write : Bool) (s : State) (c : CoreId) (q : QEntry) (r j : Nat) : State :=
  match winUnit s c q r j with
  | none => s
  | some (m, f, o, n) =>
    let a := winSlot (getCore s c) q.w m f + o
    if write then devWrite (countTier s c a n) a ((capOf q 0).take n)
    else if winLive s (getCore s c) m f then countTier s c a n else s

end Sys2Proof.Machine
end

