-- ==== Sys2Proof/Machine/Pump.lean ====
section
/-! DEFINITION. The cycle of a core: what was presented lands, queued commands start, compute, present their accesses and complete; and the
run of a core's clock (R70, R81, R104, R146, R168; log 5, log 6). -/

namespace Sys2Proof.Machine
open Sys2Proof

/-! ### The beginning of a cycle -/

/-- Writes whose cycle has come are in the banks (R104). -/
def landDue (s : State) (c : CoreId) : State :=
  let q := (getCore s c).seq
  let due := q.landing.filter fun x => decide (x.1 ≤ q.cycle)
  if due.isEmpty then s
  else
    let s := modEng s c fun e => { e with sp := due.foldl (fun m x => Memory.wrList m x.2) e.sp }
    modSeq s c fun q => { q with landing := q.landing.filter fun x => decide (q.cycle < x.1) }

/-- Registers that an LD has written may be read (R78). -/
def ldDue (q : Seq) : Seq :=
  if q.ldPend.isEmpty then q
  else (q.ldPend.filter fun x => decide (x.1 ≤ q.cycle)).foldl (fun q x => setSreg q x.2.1.toNat x.2.2)
    { q with ldPend := q.ldPend.filter fun x => decide (q.cycle < x.1) }

/-- An error on its way to the core is raised. -/
def raiseDue (s : State) (c : CoreId) : State :=
  match (getCore s c).seq.due with
  | none => s
  | some (_, cause, pc) => abandonRest (raiseTask (modSeq s c fun q => { q with due := none }) c cause pc) c

/-- In its cycle it is (R81). -/
def errorDue (s : State) (c : CoreId) : State :=
  match (getCore s c).seq.due with
  | none => s
  | some (at_, _, _) => if clockOf s c < at_ then s else raiseDue s c

/-- A DRAINING shadow is EMPTY from its cycle on (R130, R131). -/
def drainDue (s : State) (c : CoreId) : State :=
  let x := getCore s c
  if x.eng.mx.shState = 3 ∧ x.seq.drainAt ≤ x.seq.cycle then
    modEng s c fun e => { e with mx := { e.mx with shState := 0, shFmt := 0, shKrowsM1 := 0, shCodes := [] } }
  else s

def beginCycle (s : State) (c : CoreId) : State := drainDue (errorDue (modSeq (landDue s c) c ldDue) c) c

/-! ### Starts (R70) -/

def startOf (s : State) (c : CoreId) (q : QEntry) : StartRes :=
  match q.kind with
  | .summarySend => startSummary false s c q
  | .summaryAsk => startSummary true s c q
  | .dmaLoad | .dmaStore | .dmaCopy | .dmaZero => startDma s c q
  | .cfgFret | .cfgCodebook | .cfgDecay => startMxConfig s c q
  | .cfgRescale | .cfgTbl => startVxConfig s c q
  | .cfgCzLoad => startCzLoad s c q
  | .cfgCzBuild => startCzBuild s c q
  | .matmulPlain | .matmulAccum | .matmulDecay | .matmulRotate => startMatmul s c q
  | .wload => startWload s c q
  | .adrainDrain => startAdrain false s c q
  | .adrainFill => startAdrain true s c q
  | .vchain => startVchain s c q
  | .vdescLoad => startVdLoad s c q
  | .vdescSetvl => startVdSetvl s c q
  | .vdescStats => startVdStats s c q
  | .stLoad => startStLoad s c q
  | .stSave => startStSave s c q
  | .stWread => startWindow false s c q
  | .stWwrite => startWindow true s c q
  | .spreadFwd | .spreadInv => startSpread s c q
  | .scan => startScan s c q
  | .merge => startMerge s c q
  | .pick => startPick s c q
  | .ld | .st | .cfgCtrl | .cfgBow | .decisionCopy => .wait

/-- Carries out the answer of a start. -/
def takeStart (s : State) (c : CoreId) (k : QSel) (q : QEntry) : State :=
  match startOf s c q with
  | .wait => s
  | .fail cause addr abandon =>
    let s := raiseTaskAt (dropEntry s c k q.n) c cause q.pc addr 0
    if abandon then abandonRest s c else s
  | .done s => dropEntry s c k q.n
  | .run s e => modEntry s c k q.n fun _ => e

/-- Starts the first command of a queue that has not started, if it may start. -/
def startQueue (s : State) (c : CoreId) (k : QSel) : State :=
  match (getQ (getCore s c).seq k).find? fun e => !e.started with
  | none => s
  | some q => takeStart s c k q

/-- Each queue starts one command at most; then a DWAIT its copy. -/
def starts (s : State) (c : CoreId) : State :=
  startDecision ([QSel.mx, .wl, .dma, .vx].foldl (fun s k => startQueue s c k) (countStall s c)) c

/-! ### Units of the memory commands (R89, R145, R181) -/

/-- Rows, and units a row, of a memory command. -/
def shapeOf (q : QEntry) : Nat × Nat :=
  match q.kind with
  | .summarySend | .summaryAsk => sumShape q
  | .stLoad | .stSave => stShape q
  | .stWread | .stWwrite => winShape q
  | .adrainDrain | .adrainFill => (wfld q.w 56 47 + 1, wfld q.w 68 67 + 1)
  | _ => dmaShape q

/-- A started memory command has a unit to move, with its source bytes at hand. -/
def canMove (q : QEntry) : Bool := q.started && byMemory q.kind && decide (q.uRow < (shapeOf q).1) && decide (q.remoteReads = 0)

/-- A write of bytes at the given places of a scratchpad address. -/
def writesAt (q : QEntry) (a : Nat) (l : List (Nat × Byte)) : List Access :=
  if l.isEmpty then [] else [⟨1, .dma, q.n, q.pc, 0, l.map fun x => (a + x.1, 1), some (l.map (·.2))⟩]

/-- The scratchpad access of the next unit. -/
def unitAccess (s : State) (c : CoreId) (q : QEntry) : List Access :=
  let r := q.uRow
  let j := q.uIdx
  match q.kind with
  | .summarySend | .summaryAsk => [reads q 1 (keyPiece j) [(idxVal q.regs q.w 32 + 128 * j, min 128 (sumBytes q - 128 * j))]]
  | .dmaStore => [reads q 1 (keyPiece j) [(spRow q r + 128 * j, pieceLen q j)]]
  | .dmaLoad => writesAt q (spRow q r + 128 * j) (pieceOut s q r j)
  | .stWread => writesAt q (winAt q r j) (wreadBytes s c q r j)
  | .stWwrite => match winUnit s c q r j with | some (_, _, _, n) => [reads q 1 0 [(winAt q r j, n)]] | none => []
  | _ => []

/-- What the next unit does besides: in memory, in the accumulator bank, and in what the command counts. -/
def unitEffect (s : State) (c : CoreId) (q : QEntry) : State :=
  let r := q.uRow
  let j := q.uIdx
  match q.kind with
  | .dmaLoad | .dmaStore | .dmaCopy | .dmaZero => dmaUnit s c q r j
  | .stLoad => stLoadUnit s c q r j
  | .stSave => stSaveUnit s c q r j
  | .stWread => winMemory false s c q r j
  | .stWwrite => winMemory true s c q r j
  | .adrainDrain => drainUnit s c q r j
  | .adrainFill => fillUnit s c q r j
  | _ => s

/-- The pieces read of the scratchpad are kept until what is made of them is written: to the end of a SUMMARY, or of a block. -/
def keepsPieces (q : QEntry) : Bool :=
  match q.kind with
  | .summarySend | .summaryAsk => true
  | _ => codes q q.uRow

/-- The entry stands at its next unit. -/
def nextUnit (q : QEntry) : QEntry :=
  let p := if keepsPieces q then q else dropCap q fun k => decide (k < keyBlock)
  if q.uIdx + 1 < (shapeOf q).2 then { p with uIdx := q.uIdx + 1 } else { p with uRow := q.uRow + 1, uIdx := 0, offs := [] }

/-- The unit's work once its access is done, and the step to the next one; a command that a corrupt block has ended stays at its end. -/
def finishUnit (s : State) (c : CoreId) (q : QEntry) : State :=
  let u := unitEffect s c (entryNow s c q)
  modEntry u c (queueOf q.kind) q.n fun e => if e.uRow = q.uRow then nextUnit e else e

/-- A block that begins with the unit is decoded. -/
def openUnit (s : State) (c : CoreId) (q : QEntry) : State :=
  match q.kind with
  | .dmaLoad | .dmaCopy => modEntry s c .dma q.n fun e => fetchBlock s c e e.uRow e.uIdx
  | _ => s

/-- The entry whose next unit a beat of the cycle moves; the DMA port has none where another access takes it. -/
def beatEntry (q : Seq) (run : RunEnv) (t : Nat) (portTaken : Bool) : Option QEntry :=
  if portTaken then none
  else (run.beats.find? fun b => decide (b.cycle = t)).bind fun b => ((if b.mx then q.mxQ else q.dmaQ)[b.pos]?).filter canMove

/-! ### The accesses of a cycle -/

/-- The accesses of the commands whose timing is their own. -/
def timedAccess (x : CoreSt) (t : Nat) : List Access :=
  let q := x.seq
  ((q.dmaQ.filter fun e => e.started && !byMemory e.kind).flatMap fun e => czAccess e t) ++
  (q.seqQ.flatMap fun e => seqAccess e t) ++
  ((q.mxQ.filter (·.started)).flatMap fun e => if isMatmul e.kind then matmulAccess x.spTask e t else if isAdrain e.kind then [] else mxConfigAccess e t) ++
  ((q.wlQ.filter (·.started)).flatMap fun e => wloadAccess e t) ++
  ((q.vxQ.filter (·.started)).flatMap fun e => vxAccess x e t)

/-- What commands compute in the cycle before they present their accesses. -/
def computeAll (s : State) (c : CoreId) (t : Nat) : State :=
  let q := (getCore s c).seq
  let s := (q.vxQ.filter (·.started)).foldl (fun s e => vxCompute s c (entryNow s c e) t) s
  (q.dmaQ.filter fun e => e.started && !byMemory e.kind).foldl (fun s e => czCompute s c (entryNow s c e) t) s

/-- Rows that left the activation port become column sums, and the vector engine's drain reads are taken. -/
def takeReads (s : State) (c : CoreId) (t : Nat) : State :=
  let x := getCore s c
  modSeq s c fun q => { q with
    mxQ := q.mxQ.map fun e => if e.started && isMatmul e.kind then matmulRead x e t else e
    vxQ := q.vxQ.map fun e => if e.started then vxDrains x e t else e }

/-- The accumulator stage (R135): it works on the bank as the cycle before left it. -/
def stage (old : Engines) (s : State) (c : CoreId) (t : Nat) : State :=
  ((getCore s c).seq.mxQ.filter fun e => e.started && isMatmul e.kind).foldl (fun s e => matmulWrite old s c (entryNow s c e) t) s

/-! ### Completions (R70) -/

/-- What a command does as it completes. -/
def endEntry (s : State) (c : CoreId) (q : QEntry) : State :=
  match q.kind with
  | .summarySend | .summaryAsk => endSummary s c q
  | .cfgFret | .cfgCodebook | .cfgDecay => install s c (mxConfigTable q)
  | .cfgCzLoad | .cfgCzBuild => endCz s c q
  | .wload => install s c (wloadTile q)
  | .cfgRescale | .cfgTbl | .vdescLoad | .vdescStats => vxEnd s c q
  | .ld | .cfgCtrl | .cfgBow => endSeq s c q
  | _ => s

/-- The head of a queue, where it has completed by cycle `t` by its own timing. -/
def endedHead (s : State) (c : CoreId) (k : QSel) (t : Nat) : Option QEntry :=
  ((getQ (getCore s c).seq k).head?).filter fun e => match e.endAt with | some n => e.started && decide (n ≤ t) | none => false

/-- A command completes and leaves its queue. -/
def completeEntry (s : State) (c : CoreId) (k : QSel) (q : QEntry) : State := endEntry (dropEntry s c k q.n) c q

/-- Commands that have completed leave their queue, in order. -/
def popEnded (k : QSel) (t : Nat) (c : CoreId) : Nat → State → State
  | 0, s => s
  | n + 1, s => match endedHead s c k t with | none => s | some q => popEnded k t c n (completeEntry s c k q)

def popAll (s : State) (c : CoreId) (t : Nat) : State :=
  [QSel.mx, .wl, .dma, .vx, .sq].foldl (fun s k => popEnded k t c (getQ (getCore s c).seq k).length s) s

/-! ### The cycle -/

/-- Every queue is empty, and no DWAIT waits to start its copy. -/
def atRest (q : Seq) : Bool :=
  q.dmaQ.isEmpty && q.wlQ.isEmpty && q.mxQ.isEmpty && q.vxQ.isEmpty && q.seqQ.isEmpty && (readyDecision q).isNone

/-- The work of a cycle. -/
def workCycle (run : RunEnv) (s : State) (c : CoreId) (t : Nat) : State :=
  let s := computeAll (starts s c) c t
  let l := timedAccess (getCore s c) t
  let b := beatEntry (getCore s c).seq run t (l.any fun a => decide (a.port = 1))
  let s := match b with | some q => openUnit s c q | none => s
  let u := match b with | some q => unitAccess s c (entryNow s c q) | none => []
  let s := takeReads (present run s c (u ++ l)) c t
  let old := (getCore s c).eng
  let s := match b with | some q => finishUnit s c q | none => s
  popAll (stage old s c t) c t

/-- The rest of a cycle, after the command that issues in it, if any; the clock then stands at the next one. -/
def endCycle (run : RunEnv) (s : State) (c : CoreId) : State :=
  let s := if atRest (getCore s c).seq then s else workCycle run s c (clockOf s c)
  modSeq s c fun q => { q with cycle := q.cycle + 1 }

/-- A cycle in which no command issues. -/
def idleCycle (run : RunEnv) (s : State) (c : CoreId) : State := endCycle run (beginCycle s c) c

/-! ### Running the clock -/

/-- Nothing happens in a core by itself: every command in its queues waits for memory. -/
def quiet (q : Seq) : Bool :=
  (q.dmaQ ++ q.wlQ ++ q.mxQ ++ q.vxQ ++ q.seqQ).all (fun e => e.started && byMemory e.kind) && (readyDecision q).isNone

/-- The next cycle, before `goal`, in which something can happen: that of the next beat, where the core is quiet. -/
def nextBusy (q : Seq) (run : RunEnv) (goal : Nat) : Nat :=
  if quiet q then ((run.beats.map (·.cycle)).filter fun b => decide (q.cycle ≤ b)).foldl min goal else q.cycle

/-- The clock runs up to `goal`, in `n` steps at most. -/
def runSteps (run : RunEnv) (goal : Nat) (c : CoreId) : Nat → State → State
  | 0, s => s
  | n + 1, s =>
    let q := (getCore s c).seq
    if goal ≤ q.cycle then s
    else
      let t := nextBusy q run goal
      runSteps run goal c n (if q.cycle < t then modSeq s c fun q => { q with cycle := t } else idleCycle run s c)

/-- The core's clock runs up to a cycle: no command issues before it. -/
def runTo (run : RunEnv) (s : State) (c : CoreId) (goal : Nat) : State := runSteps run goal c (goal - clockOf s c) s

def runFor (run : RunEnv) (s : State) (c : CoreId) (n : Nat) : State := runTo run s c (clockOf s c + n)

/-- What has been presented to the banks lands, whatever comes (R104). -/
def landAll (s : State) (c : CoreId) : State :=
  if (getCore s c).seq.landing.isEmpty then s
  else
    let s := modEng s c fun e => { e with sp := (getCore s c).seq.landing.foldl (fun m x => Memory.wrList m x.2) e.sp }
    modSeq s c fun q => { q with landing := [] }

/-- The clocks of cores of a partition run. -/
def runCores (p : PartId) (l : List CoreRun) (s : State) : State :=
  forAll (l.filter fun r => decide (partOfCore s r.core = some p)) (fun s r => runFor r.run s r.core r.gap) s

/-- Everything the core has presented is in the banks, and what it has loaded may be read. -/
def settleWrites (s : State) (c : CoreId) : State :=
  modSeq (landAll s c) c fun q => q.ldPend.foldl (fun q x => setSreg q x.2.1.toNat x.2.2) { q with ldPend := [] }

/-! ### Completion of what memory times -/

/-- The head of a queue, where it has started. -/
def runningHead (s : State) (c : CoreId) (k : QSel) : Option QEntry := ((getQ (getCore s c).seq k).head?).filter (·.started)

/-- An access that nothing contests and that is in the banks at once. -/
def performNow (c : CoreId) (s : State) (a : Access) : State :=
  match a.data with
  | none => perform c s (a, none)
  | some b => modEng s c fun e => { e with sp := Memory.wrList e.sp (writeCells s c a b) }

/-- The command's next unit moves, in a cycle in which nothing contests it. -/
def moveUnit (s : State) (c : CoreId) (q : QEntry) : State :=
  let s := openUnit s c q
  finishUnit ((unitAccess s c (entryNow s c q)).foldl (performNow c) s) c q

/-- The units that are left move, in order. -/
def moveRest (c : CoreId) (q : QEntry) : Nat → State → State
  | 0, s => s
  | n + 1, s => let e := entryNow s c q; if canMove e then moveRest c q n (moveUnit s c e) else s

/-- The units of a command that are left. -/
def unitsLeft (q : QEntry) : Nat := ((shapeOf q).1 - q.uRow) * (shapeOf q).2

end Sys2Proof.Machine
end

