-- ==== Sys2Proof/Machine/TaskOps.lean ====
section
/-! DEFINITION. Tasks: variants, the start and the resumption of a task on its cores, stops, the settlement of a
bundle's chunks, the end of a task (R69, R80, R93 to R98, R185, R282 to R286, R380, R398). -/

namespace Sys2Proof.Machine
open Sys2Proof

/-! ### Declarations of a job -/

def jobDecl (s : State) (j : Job) : Option ImageDecl :=
  match j.kind with
  | .placement m => (getModel s m).map (·.decl)
  | .program d => some d

def jobModel (j : Job) : ModelSlot := match j.kind with | .placement m => m | .program _ => 0

def isPlacement (j : Job) : Bool := match j.kind with | .placement _ => true | .program _ => false

/-- The variant for a course count, promotion step, and kind (R210, R278). Where an anchor program is asked for it is one, by preference
of the step and kind; an accepted image has one for every course count that it supports (R189). -/
def findVariant (d : ImageDecl) (courses step : Nat) (twoPass anchor : Bool) : Option Variant :=
  let fits (v : Variant) : Bool := decide (v.courses = courses)
  let exact (v : Variant) : Bool := decide (v.step = step) && decide (v.twoPass = twoPass)
  if d.program then d.variants.find? fits
  else if anchor then (d.variants.find? fun v => fits v && v.anchor && exact v).orElse fun _ => d.variants.find? fun v => fits v && v.anchor
  else d.variants.find? fun v => fits v && !v.anchor && exact v

/-- The variant a job's task runs now. -/
def jobVariant (s : State) (x : Part) (j : Job) (anchor : Bool) : Option Variant :=
  let n := (partCourses x).length
  match j.kind with
  | .program d => findVariant d n 0 false false
  | .placement m =>
    match getModel s m with
    | none => none
    | some y => findVariant y.decl n y.policy.step.toNat (decide (y.policy.mode = 2)) anchor

/-- Command memory is loaded from a verified region alone (R69, R360). -/
def jobVerified (s : State) (j : Job) : Bool :=
  match j.kind with
  | .placement m => match getModel s m with | some y => s.mon.verified.any (fun v => y.weightsAt.any fun w => decide (w.2 = v.base)) | none => false
  | .program _ => s.mon.verified.any fun v => j.regions.any fun r => decide (r.1 = v.base)

/-! ### Core state of a task (R69, R95, R111, R177, R198, R226) -/

def spTaskFor (v : Variant) (j : Job) : SpTask :=
  ⟨0, BitVec.ofNat 9 v.bound, j.dbase, BitVec.ofNat 6 j.dsize, false⟩

def stImageFor (d : ImageDecl) : StImage :=
  if d.genSize = 0 then ⟨0, 0, 0, 0, false⟩
  else ⟨BitVec.ofNat 20 d.genSize, BitVec.ofNat 7 d.fe, BitVec.ofNat 12 d.wcap, BitVec.ofNat 24 d.blkSize, false⟩

/-- The command stream of core `i` of a variant. -/
def streamOf (v : Variant) (i : Nat) : List CmdWord := v.cores.getD i (v.cores.getD 0 [])

/-- The engines with everything of R95 zeroed, and the working region. -/
def zeroEng (e : Engines) (t : SpTask) : Engines :=
  { Engines.reset with
    sp := tclear e.sp (t.baseGrp.toNat * 0x20000) (workTop t), mxSat := e.mxSat, qzNonfinite := e.qzNonfinite, qzSat := e.qzSat
    czCoded := e.czCoded, czFallback := e.czFallback, czSuppressed := e.czSuppressed }

def putPegs (e : Engines) (l : List (BitVec 8)) : Engines := { e with peg := tputs 0 [] 0 l }

/-- Another job's state was last on the course (R95). -/
def otherRan (s : State) (c : CoreId) (p : PartId) (j : JobNo) : Bool := decide ((getCourse s (courseOf c)).lastJob ≠ some (p, j))

/-- What a task finds reset at its start on every core (R111, R134, R150, R151, R166, R224, R247). -/
def freshEng (e : Engines) : Engines :=
  { e with
    rings := [], mx := .reset, mxSat := 0, vl := 0, descs := [], sites := [], czSlots := [], hist := []
    qzNonfinite := 0, qzSat := 0, czCoded := 0, czFallback := 0, czSuppressed := 0 }

/-- The registers that the runtime writes before a task: each takes its value where its own check passes (R111, R177). -/
def writeTaskRegs (x : CoreSt) (sp : SpTask) (img : StImage) : CoreSt := putStImage (putSpTask x sp false) img false

/-- A core at the start of a task. -/
def startCore (x : CoreSt) (other : Bool) (v : Variant) (i : Nat) (sp : SpTask) (img : StImage) (pegs : List (BitVec 8)) : CoreSt :=
  let x := writeTaskRegs x sp img
  let e := if other then zeroEng x.eng x.spTask else x.eng
  { x with
    seq := { Seq.reset with cmdMem := streamOf v i, phase := .running }
    eng := putPegs (freshEng e) pegs }

/-- The engines of a core that resumes: zeroed where another job ran since, as at a task's start where a new task takes
the image up, else as they stand (R95). -/
def resumedEng (e : Engines) (other fresh : Bool) (sp : SpTask) (pegs : List (BitVec 8)) : Engines :=
  let e := if other then zeroEng e sp else e
  if other || fresh then putPegs (freshEng e) pegs
  else { e with mxSat := 0, qzNonfinite := 0, qzSat := 0, czCoded := 0, czFallback := 0, czSuppressed := 0 }

/-- A core that resumes at a context record (R97). -/
def resumeCore (x : CoreSt) (k : CoreCtx) (other fresh : Bool) (v : Variant) (i : Nat) (sp : SpTask) (img : StImage)
    (pegs : List (BitVec 8)) : CoreSt :=
  let x := writeTaskRegs x sp img
  let sp := x.spTask
  let e := resumedEng x.eng other fresh sp pegs
  { x with
    seq := { Seq.reset with
      cmdMem := streamOf v i, phase := .running, pc := k.pc, sregs := k.sregs
      syncTimeout := k.syncTimeout, decisionTimeout := k.decisionTimeout }
    eng := { e with
      rings := k.rings, sp := k.live.foldl (fun t b => Memory.wr t (sp.baseGrp.toNat * 0x20000 + b.1) b.2) (tclear e.sp (sp.baseGrp.toNat * 0x20000) k.liveBytes) } }

/-- Writes BW_JOB (R226). -/
def putBwJob (s : State) (p : PartId) (j : Job) : State :=
  forAll (partCores (getPart s p)) (fun s c => modCore s c fun x => { x with bwKey := j.key, bwStep := j.step }) s

/-- The courses wake from C1 and now hold the job's state. -/
def claimCourses (s : State) (p : PartId) (j : JobNo) : State :=
  forAll (partCourses (getPart s p)) (fun s k =>
    let y := getCourse s k
    setCourse s k { y with cst := .c0, lastJob := some (p, j) }) s

/-- A task can be put on the partition: the PF is in D0 (R384), no reclaim is due (R288), its courses have left C2 (R382), and the writes of a
stopped task have completed (R283). -/
def canBind (s : State) (p : PartId) : Bool :=
  let x := getPart s p
  x.valid && !s.pw.pfD3 && !x.stopping && !x.destroying && !(x.jobs.any fun b => b.crashed.isSome || b.ended) && ((partCourses x).all fun k => decide ((getCourse s k).cst ≠ .c2)) &&
  !((partCores x).any (bridgeBusy s))

def newTask (s : State) (j : JobNo) (b : Option Bundle) (v : Variant) (pegs : List (BitVec 8)) : Task :=
  { job := j, bundle := b, start := s.time, lastMeet := s.time, lastCapo := 0, liveKib := 0, committed := false
    settled := false, errors := [], stall := 0, sums := [], clients := [], charging := false, chargeFrom := [], partFrom := [], bytesFrom := (0, 0, 0, 0)
    obs := 0, variant := v, pegRegs := pegs }

/-- A load of command memory from outside a verified region is refused, and reported to the monitor (R360). -/
def reportLoad (s : State) (p : PartId) (j : JobNo) : State := { s with mon := { s.mon with badLoads := s.mon.badLoads ++ [(p, j)] } }

/-- The writes of the tasks that cores ran before have completed: no chunk waits for them any more (R185). -/
def clearLate (s : State) (l : List CoreId) : State :=
  { s with streams := s.streams.map fun x =>
      if x.2.chunks.all fun c => c.late.isEmpty then x
      else (x.1, { x.2 with chunks := x.2.chunks.map fun c => { c with late := c.late.filter fun k => !l.contains k } }) }

/-- The task is bound (R79, R279). -/
def bindTask (s : State) (p : PartId) (t : Task) : State :=
  let s := clearLate (closeIdle s p) (partCores (getPart s p))
  let t := if t.clients.isEmpty then { t with clients := taskClients s (getPart s p) t } else t
  let s := modPart s p fun x => { x with task := some t, job := t.job, atMeet := false, idleFrom := none, idleSince := none, lastRan := t.job }
  let s := markTask s p
  let n := match t.bundle with | some b => b.members.length | none => 0
  traceRec s p 0 1 t.job n ((t.bundle.map (·.no)).getD 0)

/-- A task of job `j` starts on its cores. -/
def startTask (s : State) (p : PartId) (j : Job) (d : ImageDecl) (b : Option Bundle) (v : Variant) (pegs : List (BitVec 8)) : State :=
  let x := getPart s p
  let sp := spTaskFor v j
  let s := (partCores x).zipIdx.foldl (fun s (c, i) =>
    let o := otherRan s c p j.num
    modCore s c fun y => startCore y o v i sp (stImageFor d) pegs) s
  let s := claimCourses s p j.num
  let s := modPart s p fun x => { x with sems := d.semInit.foldl (fun t e => tput 0 t (e.1 % 64) e.2) [], semNet := [], semWait := [] }
  let s := putBwJob s p j
  bindTask s p (newTask s j.num b v pegs)

/-- The command after the CAPO, beyond the command stream (R75). -/
def resumeRange (s : State) (c : CoreId) : State :=
  let q := (getCore s c).seq
  if q.pc.toNat < q.cmdMem.length then s else raiseTask s c cPC_RANGE (q.pc - 1)

/-- A task takes up the job's context image; `fresh`: a new task does, after a hard stop (R97, R282). -/
def restoreTask (s : State) (p : PartId) (j : Job) (d : ImageDecl) (ctx : Ctx) (fresh : Bool) (t : Task) : State :=
  let x := getPart s p
  let sp := spTaskFor t.variant j
  let s := (partCores x).zipIdx.foldl (fun s (c, i) =>
    match ctx.cores[i]? with
    | some k =>
      let o := otherRan s c p j.num
      modCore s c fun y => resumeCore y k o fresh t.variant i sp (stImageFor d) t.pegRegs
    | none => s) s
  let s := claimCourses s p j.num
  let s := modPart s p fun x => { x with sems := ctx.sems, semNet := [], semWait := [] }
  let s := putBwJob s p j
  forAll (partCores x) resumeRange (bindTask s p { t with lastMeet := s.time })

/-! ### The context image (R97, Table 4-14) -/

def coreCtx (x : CoreSt) (liveKib : Nat) : CoreCtx :=
  { pc := x.seq.pc + 1, sregs := x.seq.sregs, rings := x.eng.rings, syncTimeout := x.seq.syncTimeout
    decisionTimeout := x.seq.decisionTimeout, liveBytes := min (liveKib * 1024) (workTop x.spTask)
    live := (x.eng.sp.filter fun b => decide (x.spTask.baseGrp.toNat * 0x20000 ≤ b.1) &&
      decide (b.1 < x.spTask.baseGrp.toNat * 0x20000 + min (liveKib * 1024) (workTop x.spTask))).map
      fun b => (b.1 - x.spTask.baseGrp.toNat * 0x20000, b.2) }

/-- Bytes of an image: header, core records, live scratchpad. -/
def ctxSize (k : Ctx) : Nat := 256 + k.cores.length * (512 + k.liveKib.toNat * 1024)

/-- The 256-byte header (Table 4-14). -/
def ctxHeader (k : Ctx) : List Byte :=
  leBytes 256 (k.model.toNat + k.log2Courses.toNat * 2 ^ 6 + k.capoId.toNat * 2 ^ 16 + k.liveKib.toNat * 2 ^ 32 + k.bundleNo.toNat * 2 ^ 64 +
    ((List.range 64).map fun i => (tget 0 k.sems i).toNat * 2 ^ (128 + 16 * i)).sum)

/-- A ring record as 64 bits (Table 5-7). -/
def ringBits (r : RingRec) : Nat := r.base.toNat + r.size.toNat * 2 ^ 14 + r.head.toNat * 2 ^ 28 + r.tail.toNat * 2 ^ 46

/-- The 512-byte record of a core (Table 4-14). -/
def ctxCore (k : CoreCtx) : List Byte :=
  leBytes 512 (k.pc.toNat + ((List.range 31).map fun i => (sregT k.sregs (i + 1)).toNat * 2 ^ (64 * (i + 1))).sum +
    ((List.range 16).map fun i => ringBits (tget .reset k.rings i) * 2 ^ (2048 + 64 * i)).sum +
    (k.syncTimeout.toNat + k.decisionTimeout.toNat * 2 ^ 32) * 2 ^ 3072)

/-- The image is written to memory at `a`. -/
def writeCtx (s : State) (k : Ctx) (a : Nat) : State :=
  let m := Memory.zero s.mem a (ctxSize k)
  let m := Memory.wrs m a (ctxHeader k ++ k.cores.flatMap ctxCore)
  let live := a + 256 + k.cores.length * 512
  { s with mem := k.cores.zipIdx.foldl (fun m (c, i) => Memory.wrList m (c.live.map fun b => (live + i * (k.liveKib.toNat * 1024) + b.1, b.2))) m }

/-- Where the runtime puts the job's image: where its last one stands, if that is large enough; else the lowest free place of tier 0, as a
region of the job (log 126). -/
def placeCtx (s : State) (p : PartId) (j : Job) (n : Nat) : Option Nat × State :=
  match (j.ctx.bind (·.place)).filter fun r => decide (n ≤ r.2) with
  | some r => (some r.1, s)
  | none =>
    match firstPlace (usedSpace s) 0 tier1Base 4096 (pages n) with
    | none => (none, s)
    | some a => (some a, { s with regions := s.regions ++ [⟨a, pages n, .job p j.num⟩] })

/-- The context of the job is saved, and its image written to the job's region in tier 0. -/
def saveCtx (s : State) (p : PartId) (capoId : BitVec 16) (liveKib : BitVec 11) : State :=
  let x := getPart s p
  match x.task, x.task.bind fun t => findJob x t.job with
  | some t, some j =>
    let cores := (partCores x).map fun c => coreCtx (getCore s c) liveKib.toNat
    let k : Ctx :=
      ⟨jobModel j, BitVec.ofNat 3 (Nat.log2 (partCourses x).length), capoId, liveKib, (t.bundle.map (·.no)).getD 0, x.sems, cores, none⟩
    let (a, s) := placeCtx s p j (ctxSize k)
    let s := match a with | some a => writeCtx s k a | none => s
    modJob s p j.num fun j => { j with ctx := some { k with place := a.map fun a => (a, pages (ctxSize k)) } }
  | _, _ => s

/-! ### Firmware window accesses that waited (R119) -/

/-- Does the access touch the row? -/
def winTouches (w : WinAccess) (r : SramRow) : Bool := overlaps w.addr.toNat w.bytes.length (rowAddr r) 64

/-- Applies an access to a core's scratchpad; a read changes nothing but the counts of the errors that it meets (R119, R121). -/
def applyWin (s : State) (c : CoreId) (w : WinAccess) : State :=
  if w.write then modEng s c fun e => { e with sp := Memory.wrs e.sp w.addr.toNat w.bytes }
  else (w.corrected.filter (winTouches w)).foldl (correctRow c) s

def runWindows (s : State) (p : PartId) : State :=
  forAll (partCores (getPart s p)) (fun s c =>
    (getCore s c).winWait.foldl (fun s w => applyWin s c w) (modCore s c fun x => { x with winWait := [] })) s

/-! ### The end of a task -/

/-- The counters of the cores are added to the job's telemetry (Table 9-4, Table 11-5). -/
def addTele (s : State) (p : PartId) (j : JobNo) : State :=
  forAll (partCores (getPart s p)) (fun s c =>
    let e := (getCore s c).eng
    modJob s p j fun b => { b with tele :=
      ⟨b.tele.qzNonfinite + e.qzNonfinite.toNat, b.tele.qzSat + e.qzSat.toNat, b.tele.czCoded + e.czCoded.toNat,
       b.tele.czFallback + e.czFallback.toNat, b.tele.czSuppressed + e.czSuppressed.toNat, b.tele.mxSat + e.mxSat.toNat⟩ }) s

/-- The time by which the job of the slice has run past it (R280). -/
def noteOvershoot (s : State) (p : PartId) : State :=
  let x := getPart s p
  match x.task with
  | some t =>
    if t.job = x.sliceJob then
      modJob s p t.job fun j => { j with overshoot := (s.time - x.sliceStart).toNat - x.sliceLen }
    else s
  | none => s

/-- No task is bound any more: the task has been charged, the cores stand idle. -/
def unbind (s : State) (p : PartId) : State :=
  let s := noteOvershoot s p
  let x := getPart s p
  match x.task with
  | none => s
  | some t =>
    let s := addTele (closeCharge s p) p t.job
    let s := forAll (partCores x) (fun s c => modSeq (landAll s c) c fun q => { q with phase := .idle, asks := [], ldPend := [], due := none }) s
    let s := match t.bundle with
      | some b => releaseRegions s fun r => decide (r.use = .bundle b.no)
      | none => s
    let s := modPart s p fun x => { x with
      task := none, job := 0, atMeet := false, semNet := [], semWait := [], endReq := none, idleFrom := some s.time, idleSince := some s.time }
    runWindows s p

/-! ### Stops (R282, R380) -/

/-- Frames of the core go on without it. -/
def disownFrames (s : State) (c : CoreId) : State :=
  let own (t : TxFrame) : TxFrame := if (t.owner.map (·.1)) = some c then { t with owner := none } else t
  { s with br := { s.br with pairs := s.br.pairs.map fun x => (x.1, { x.2 with waitTx := x.2.waitTx.map own, unacked := x.2.unacked.map own }) } }

/-- What a stopped core leaves on the pairs: read responses still to come have no core to go to, writes that no port has
accepted yet are abandoned with their command, and frames left on a failed pair have no core that waits for them. -/
def dropWaits (s : State) (c : CoreId) : State :=
  let mine (t : TxFrame) : Bool := decide ((t.owner.map (·.1)) = some c)
  let rd (r : ReadWait) : ReadWait := if (r.owner.map (·.1)) = some c then { r with owner := none } else r
  let tx (t : TxFrame) : TxFrame := if mine t then { t with owner := none } else t
  let pr (p : Pair) : Pair :=
    { p with
      reads := p.reads.map rd, unacked := if p.failed then p.unacked.map tx else p.unacked
      waitTx := if p.failed then p.waitTx.map tx else p.waitTx.filter fun t => !(mine t && isWriteFrame t) }
  sendWaiting { s with br := { s.br with pairs := s.br.pairs.map fun x => (x.1, pr x.2) } }

/-- Space of the summary ring that a core's unfinished summaries have reserved is free again. -/
def dropReserved (s : State) (c : CoreId) : State :=
  let n := ((getCore s c).seq.dmaQ.filter fun e => e.started && (decide (e.kind = .summarySend) || decide (e.kind = .summaryAsk))).map fun e => 16 + sumBytes e
  match partOfCore s c with
  | some p => if n.isEmpty then s else modPart s p fun x => { x with sumDue := x.sumDue - n.sum }
  | none => s

/-- One core stops in the cycle of a hard stop: writes it has presented land, its queues are emptied. -/
def stopCore (s : State) (c : CoreId) : State :=
  let s := modSeq (landAll (dropReserved s c) c) c fun q => { q with phase := .idle, ldPend := [], due := none, asks := [] }
  emptyQueues (dropWaits s c) c

def stopCores (s : State) (p : PartId) : State :=
  modPart (forAll (partCores (getPart s p)) stopCore s) p fun x => { x with semNet := [], semWait := [] }

/-- A core reset (R380). -/
def resetCore (s : State) (c : CoreId) : State :=
  let s := disownFrames (stopCore s c) c
  modCore s c fun x => { x with
    seq := { x.seq with pc := 0, sregs := [] }
    eng := { x.eng with vl := 0, rings := [], mx := .reset } }

def resetCores (s : State) (p : PartId) : State := forAll (partCores (getPart s p)) resetCore s

/-! ### Settlement of a bundle -/

def taskMembers (t : Task) : List Member := match t.bundle with | some b => b.members | none => []

/-- The commit of a bundle: every member in one update, then records, messages and what waited for them (R183,
R308, R427, R207, R208). -/
def commitBundle (s : State) (p : PartId) (blocks : List NewBlock) : State :=
  let x := getPart s p
  match x.task with
  | none => s
  | some t =>
    match t.bundle with
    | none => s
    | some b =>
      if !t.committed ∨ t.settled then s
      else
        let (toks, s) := bundleTokens s p b.model b.members.length
        let s := applyStateStats (applyPegReports s p b.model b) p b.model
        let (s, done) := b.members.zipIdx.foldl (fun a (m, i) =>
          let r := endChunk a.1 m.handle .commit m.reset (tget [] toks i)
          (r.1, a.2 ++ r.2)) (s, [])
        let s := modJob s p t.job fun j => { j with errRuns := 0, hsRuns := 0 }
        let s := modTask s p fun t => { t with settled := true }
        forAll (b.members.map (·.handle)) (fun s h => afterChunk s blocks h) (postDone s done)

/-- Ends some member chunks by failure and requeues the others. `late`: the cores of the stopped task; `fails m c`: does the member's
chunk fail; `hs`, `err`: the counts of a requeued chunk. -/
def settleMembers (s : State) (late : List CoreId) (ms : List Member) (fails : Member → Chunk → Bool) (hs err : Nat → Nat) (blocks : List NewBlock) : State :=
  let (s, done) := ms.foldl (fun a m =>
    match (getStream a.1 m.handle).chunks.head? with
    | some c => if fails m c then
        let r := endChunk a.1 m.handle .fail m.reset []
        (r.1, a.2 ++ r.2)
      else (requeueChunk a.1 m.handle hs err late, a.2)
    | none => (requeueChunk a.1 m.handle hs err late, a.2)) (s, [])
  forAll (ms.map (·.handle)) (fun s h => afterChunk s blocks h) (postDone s done)

/-- The same for the members of the partition's task that `skip` does not name. -/
def settleChunks (s : State) (p : PartId) (fails : Member → Chunk → Bool) (hs err : Nat → Nat) (skip : Handle → Bool)
    (blocks : List NewBlock) : State :=
  match (getPart s p).task with
  | none => s
  | some t => settleMembers s (partCores (getPart s p)) ((taskMembers t).filter fun m => !skip m.handle) fails hs err blocks

/-- A bundle whose task ended without a commit meet: every member chunk fails (R96). -/
def failBundle (s : State) (p : PartId) : State := settleChunks s p (fun _ _ => true) id id (fun _ => false) []

/-- Sums of the interference report: a task that ended at END (R293). -/
def reportTask (s : State) (p : PartId) (t : Task) : State :=
  let n := (taskMembers t).length
  let solo := t.variant.tSolo.getD (if n = 0 then 0 else n - 1) 0
  modJob s p t.job fun j => { j with obsCycles := j.obsCycles + t.obs / max 1 t.variant.courses, soloTicks := j.soloTicks + solo, tasks := j.tasks + 1 }

/-- Every core has executed END (R96, R285): a bundle commits or its chunks fail; a program job has ended. -/
def endTask (s : State) (p : PartId) : State :=
  let s := closeCharge s p
  match (getPart s p).task with
  | none => s
  | some t =>
    let s := traceRec s p 0 5 t.job 0 ((t.bundle.map (·.no)).getD 0)
    let s := reportTask s p t
    match t.bundle with
    | some _ => unbind (if t.committed then commitBundle s p [] else failBundle s p) p
    | none =>
      let s := modJob s p t.job fun j => { j with ended := true }
      postJobEnd (unbind s p) p t.job 0

/-- A task stopped at a meet leaves the partition; its job keeps it until it resumes (R94, R97). A commit that the meet made has been
applied. -/
def parkTask (s : State) (p : PartId) : State :=
  match (getPart s p).task with
  | none => s
  | some t0 =>
    let s := if t0.committed then commitBundle s p [] else s
    let s := addTele s p t0.job
    let s := match (getPart s p).task with
      | some t => modJob s p t.job fun j => { j with stopped := some t }
      | none => s
    let s := modPart s p fun x => { x with
      task := none, job := 0, atMeet := false, semNet := [], semWait := [], endReq := none, idleFrom := some s.time, idleSince := some s.time }
    runWindows (forAll (partCores (getPart s p)) (fun s c => modSeq s c fun q => { q with phase := .idle }) s) p

/-- A bundle that was formed and not bound returns its chunks (R40). -/
def unformBundle (s : State) (b : Bundle) : State :=
  forAll (b.members.map (·.handle)) (fun s h => afterChunk (requeueChunk s h id id []) [] h) s

end Sys2Proof.Machine
end

