-- ==== Sys2Proof/Machine/Registers.lean ====
section
/-! DEFINITION. Registers that firmware and hosts write: SP_TASK, ST_IMAGE, SP_DRONE, the firmware window, and the
registers with no behaviour of their own (R8, R111, R117, R119, R177). -/

namespace Sys2Proof.Machine
open Sys2Proof

def execSpTaskWrite (c : CoreId) (v : W64) (s : State) : Host.Outcome State Fault Refusal :=
  .next (if rtRuns s ∧ taskRuns s c = false then modCore s c fun x => writeSpTask x v else s)

def execStImageWrite (c : CoreId) (v : W64) (s : State) : Host.Outcome State Fault Refusal :=
  .next (if rtRuns s ∧ taskRuns s c = false then modCore s c fun x => writeStImage x v else s)

/-- The monitor changes SP_DRONE where R117 lets it, and answers in its ring (R355). -/
def execDroneMark (c : CoreId) (groups : BitVec 2) (s : State) : Host.Outcome State Fault Refusal :=
  let x := getCore s c
  .next (if devRuns s = false then s
    else if taskRuns s c = false ∧ groups ≠ 3 ∧ spTaskOk groups.toNat x.spTask then answer (setCore s c (setDrone x groups)) opDRONE false
    else answer s opDRONE true)

def execFirmwareWindowAccess (c : CoreId) (addr : BitVec 20) (bytes : List Byte) (mode : WinMode) (s : State) :
    Host.Outcome State Fault Refusal :=
  let w : WinAccess := ⟨addr, bytes, mode.write, mode.corrected⟩
  .next (if !rtRuns s then s
    else if taskRuns s c then modCore s c fun x => { x with winWait := x.winWait ++ [w] }
    else applyWin s c w)

/-! ### REGISTER_WRITE -/

/-- Messages of a vector wait for its interrupt, and its condition holds now (R309). -/
def vecDue (x : Fn) (y : Vec) : Bool := y.first.isSome && (decide (x.holdoff = 0) || decide (x.count.toNat ≤ y.count))

/-- Every vector whose condition holds sends its interrupt. -/
def fireDue (x : Fn) : Fn := x.vecs.foldl (fun x v => if vecDue x (getVec x v.1) then setVec x v.1 (fireVec (getVec x v.1)) else x) x

/-- MB_IRQ_MOD (Table 14-8). -/
def writeIrqMod (x : Fn) (v : W64) : Fn :=
  let h := v.extractLsb' 0 10
  let n := v.extractLsb' 12 10
  let ok := decide (h.toNat ≤ 1000) && decide (1 ≤ n.toNat) && decide (n.toNat ≤ 512)
  { x with holdoff := rangedWrite ok x.holdoff h, count := rangedWrite ok x.count n }

def writeMbStat (x : Fn) (v : W64) : Fn :=
  { x with badWrite := w1cBit x.badWrite (v.getLsbD 0), lost := w1cBit x.lost (v.getLsbD 1) }

/-- Vectors of a function (R309). -/
def vecOk (f : Func) (v : VecNo) : Bool := decide (f = 0) || decide (v.toNat < 64)

/-- The mask bit of a vector; unmasking sends what is pending (R309). Nothing is sent after a device error until
recovery (R402). -/
def maskVec (quiet : Bool) (y : Vec) (m : Bool) : Vec :=
  if m then { y with masked := true }
  else if y.pend && !quiet then { y with masked := false, pend := false, sent := y.sent + 1 }
  else { y with masked := false }

def setMask (s : State) (f : Func) (v : VecNo) (m : Bool) : State :=
  let q := hostQuiet s
  modFn s f fun x => setVec x v.toNat (maskVec q (getVec x v.toNat) m)

/-- PW_CAP and PW_CTL (Table 18-9). -/
def writeCap (x : PwSt) (v : W64) : PwSt :=
  let w := v.extractLsb' 0 16
  let h := v.extractLsb' 16 6
  let ok := decide (250 ≤ w.toNat) && decide (w.toNat ≤ 500) && decide (5 ≤ h.toNat) && decide (h.toNat ≤ 50)
  { x with capWatts := rangedWrite ok x.capWatts w, capHyst := rangedWrite ok x.capHyst h }

def writePwCtl (x : PwSt) (v : W64) : PwSt :=
  let d := v.extractLsb' 0 14
  { x with c2Delay := rangedWrite (decide (d.toNat ≤ 10000)) x.c2Delay d }

/-- BR_CFG (Table 16-2), written while every port is down (R338). -/
def writeBrCfg (x : BrSt) (v : W64) : BrSt :=
  let u := v.extractLsb' 16 8
  let m := v.extractLsb' 24 8
  { x with
    ethertype := v.extractLsb' 0 16, retryUs := rangedWrite (decide (u ≠ 0)) x.retryUs u, retryMax := rangedWrite (decide (m ≠ 0)) x.retryMax m
    syncEn := v.getLsbD 32 }

/-- Replaces 64-bit word `i` of a register. -/
def putWord {n : Nat} (r : BitVec n) (i : Nat) (v : W64) : BitVec n :=
  (r &&& ~~~((BitVec.ofNat n (2 ^ 64 - 1)) <<< (64 * i))) ||| ((v.setWidth n) <<< (64 * i))

def portsDown (s : State) : Bool := (List.range 8).all fun n => !(getPort s (BitVec.ofNat 3 n)).up

/-- The life-cycle state is RETIRED. -/
def isRetired (s : State) : Bool := decide (lcState s.fuses = lcRETIRED)

end Sys2Proof.Machine
end

