-- ==== Sys2Proof/Machine/Mailbox.lean ====
section
/-! DEFINITION. Mailbox slots, MSI-X events and BAR2 (R299, R301 to R305, R309). -/

namespace Sys2Proof.Machine
open Sys2Proof

/-- A write that R299 or R303 discards is counted (Table 14-8). -/
def countBad (s : State) (f : Func) : State := modFn s f fun x => { x with badWrite := true, nBad := satAdd x.nBad 1 }

/-! ### Slots (R303) -/

/-- A slot of 64 bytes with some bytes replaced. -/
def patchSlot (v : BitVec 512) (off : Nat) (b : List Byte) : BitVec 512 :=
  BitVec.ofNat 512 (leNat (splice (leBytes 64 v.toNat) off b))

def inSlot (x : Fn) (n : Nat) : BitVec 512 := tget 0 x.inbound n

/-- A host write to an inbound slot is applied where the host owns the slot. -/
def writeSlot (f : Func) (slot : BitVec 6) (off : BitVec 6) (bytes : List Byte) (s : State) : State :=
  let v := inSlot (getFn s f) slot.toNat
  if !hostReaches s f then s
  else if v.getLsbD 0 then countBad s f
  else modFn s f fun x => { x with inbound := tput 0 x.inbound slot.toNat (patchSlot v off.toNat bytes) }

def execMailboxSlotWrite (f : Func) (slot : BitVec 6) (off : BitVec 6) (bytes : List Byte) (s : State) :
    Host.Outcome State Fault Refusal := .next (writeSlot f slot off bytes s)

/-- Waiting messages move to slots, while messages are posted at all (R305, R402, R403). -/
def drainMsgs (s : State) (f : Func) : State :=
  if rtRuns s && !hostQuiet s then modFn s f fun x => drainOut s.time 65 x else s

/-- A host returns an outbound slot by writing full = 0 in its first byte; any other write is discarded. -/
def returnSlot (f : Func) (slot : BitVec 6) (off : BitVec 6) (bytes : List Byte) (s : State) : State :=
  let returns := decide (off = 0) && (match bytes.head? with | some b => !b.getLsbD 0 | none => false)
  if !hostReaches s f then s
  else if !returns then countBad s f
  else drainMsgs (modFn s f fun x =>
    { x with outbound := tput 0 x.outbound slot.toNat ((tget 0 x.outbound slot.toNat) &&& ~~~(1#512)) }) f

def execOutboundSlotReturn (f : Func) (slot : BitVec 6) (off : BitVec 6) (bytes : List Byte) (s : State) :
    Host.Outcome State Fault Refusal := .next (returnSlot f slot off bytes s)

/-- The opcodes of Table 15-1. -/
def opcodes : List Nat :=
  [0x0101, 0x0102, 0x0110, 0x0111, 0x0112, 0x0113, 0x0114, 0x0115, 0x0120, 0x0121, 0x0201, 0x0202, 0x0203, 0x0204,
   0x0205, 0x0206, 0x0207, 0x0208, 0x0210, 0x0211, 0x0212, 0x0220, 0x0221, 0x0230, 0x0231, 0x0232]

/-- The command in a slot (Table 14-4). -/
def takenOf (v : BitVec 512) : Taken :=
  ⟨v.extractLsb' 16 16, v.extractLsb' 32 16, v.extractLsb' 48 6,
   decide (v.extractLsb' 1 7 ≠ 0) || decide (v.extractLsb' 54 10 ≠ 0), v.extractLsb' 64 448⟩

/-- The function's next slot is full, and the runtime may take it. -/
def slotWaits (s : State) (f : Func) : Bool :=
  let x := getFn s f
  rtRuns s && x.ready && (inSlot x x.inNext.toNat).getLsbD 0 && decide (x.outQ.length < 4032)

/-- May the runtime take the next slot of the function now? Functions are served round-robin: not while a function whose
slot has waited since this one's last turn still waits (R304, log 67). -/
def mayTake (s : State) (f : Func) : Bool := slotWaits s f && !s.turns.any fun k => decide (k.1 = f) && slotWaits s k.2

/-- The function has had its turn: those that wait now come before its next. -/
def noteTurn (s : State) (f : Func) : State :=
  { s with turns := (s.turns.filter fun k => decide (k.1 ≠ f ∧ k.2 ≠ f)) ++
      (allFuncs.filter fun g => decide (g ≠ f) && slotWaits s g).map fun g => (f, g) }

/-- The runtime takes the next slot of the function: MB_SEQ and UNKNOWN_OP are answered here, any other command waits for its own
row (R304, R315). -/
def takeSlot (s : State) (f : Func) : State :=
  let x := getFn s f
  let v := inSlot x x.inNext.toNat
  let seq : BitVec 8 := v.extractLsb' 8 8
  let t := takenOf v
  let s := setFn (noteTurn s f) f { x with
    inbound := tput 0 x.inbound x.inNext.toNat (v &&& ~~~(1#512)), inNext := x.inNext + 1, expect := seq + 1 }
  if seq ≠ x.expect then postResult s f t.opcode t.tag stMB_SEQ 0
  else if !opcodes.contains t.opcode.toNat then postResult s f t.opcode t.tag stUNKNOWN_OP 0
  else modFn s f fun y => { y with taken := y.taken ++ [t] }

def execMailboxSlotTake (f : Func) (s : State) : Host.Outcome State Fault Refusal :=
  .next (if mayTake s f then takeSlot s f else s)

/-! ### MSI-X (R309) -/

/-- The holdoff of a vector has passed since its first unsignalled message. -/
def holdoffOver (s : State) (f : Func) (v : VecNo) (dt : Nat) : Bool :=
  let x := getFn s f
  match (getVec x v.toNat).first with
  | none => false
  | some t0 => decide (x.holdoff.toNat * 100 ≤ (s.time + BitVec.ofNat 64 dt - t0).toNat)

def execMsixHoldoffExpiry (f : Func) (v : VecNo) (dt : Nat) (s : State) : Host.Outcome State Fault Refusal :=
  .next (if devRuns s && !hostQuiet s && holdoffOver s f v dt then
      modFn (tick s dt) f fun x => setVec x v.toNat (fireVec (getVec x v.toNat))
    else s)

def execMsixUnmask (f : Func) (v : VecNo) (s : State) : Host.Outcome State Fault Refusal :=
  .next (if hostReaches s f && vecOk f v then setMask s f v false else s)

/-! ### BAR2 (R299) -/

/-- Does a grant of the partition, whatever its job, permit the access? -/
def bar2Grant (s : State) (p : PartId) (write : Bool) (a n : Nat) : Bool :=
  decide (a + n ≤ tierEnd) &&
  inOneGrant s.mon.grants (fun e => decide (gPart e = p) && (if write then gPartW e else gPartR e)) a n

/-- The local address that an access of `n` bytes through BAR2 reaches, where it is mapped and permitted. -/
def bar2Addr (s : State) (write : Bool) (off n : Nat) : Option Nat :=
  match tfind s.apertures (off / 2 ^ 30) with
  | none => none
  | some ap =>
    let a := ap.base + off % 2 ^ 30
    if off % 2 ^ 30 + n ≤ 2 ^ 30 ∧ bar2Grant s ap.part write a n then some a else none

def execBar2Read (off : BitVec 36) (len : Nat) (s : State) : Host.Outcome State Fault Refusal :=
  .next (if hostReaches s 0 && devRuns s then
      match bar2Addr s false off.toNat len with
      | some a => { s with cpl := some (Memory.rds s.mem a len) }
      | none => countBad { s with cpl := none } 0
    else s)

def execBar2Write (off : BitVec 36) (bytes : List Byte) (s : State) : Host.Outcome State Fault Refusal :=
  .next (if hostReaches s 0 && devRuns s then
      match bar2Addr s true off.toNat bytes.length with
      | some a => { s with mem := Memory.wrs s.mem a bytes }
      | none => countBad s 0
    else s)

end Sys2Proof.Machine
end

