-- ==== Sys2Proof/Machine/Signed.lean ====
section
/-! DEFINITION. Signed objects: digests, vendor and owner signatures, floors (R357 to R360). -/

namespace Sys2Proof.Machine
open Sys2Proof

/-- The header that stands in the first 128 bytes (Table 17-2). -/
def hdrOfBytes (b : List Byte) : ObjHeader :=
  let v := leNat (fitBytes 128 b)
  let f (hi lo : Nat) : Nat := nfld v hi lo
  { version := BitVec.ofNat 8 (f 7 0), type := BitVec.ofNat 4 (f 11 8), keyId := BitVec.ofNat 4 (f 15 12), owner := decide (f 16 16 = 1)
    raise := decide (f 17 17 = 1), svn := BitVec.ofNat 6 (f 23 18), rsv := decide (f 63 24 ≠ 0) || decide (f 1023 120 ≠ 0)
    bodyLen := BitVec.ofNat 40 (f 103 64), certLen := BitVec.ofNat 16 (f 119 104) }

def objHdr (o : SignedObj) : ObjHeader := hdrOfBytes o.bytes

/-- Bytes of an object with this header: header, body, certificate and signature. -/
def objBytes (h : ObjHeader) : Nat := 128 + h.bodyLen.toNat + h.certLen.toNat + 96

/-- The object at the start of a place that holds `n` bytes; `rd k` reads its first `k` bytes. An object that its header makes longer
than the place is cut off there, and is malformed. -/
def objFrom (n : Nat) (rd : Nat → List Byte) (key : BitVec 776) : SignedObj :=
  ⟨rd (min n (objBytes (hdrOfBytes (rd 128)))), key⟩

/-- The digest of an object: SHA-384 over header and body (R358). -/
def digestOf (o : SignedObj) : BitVec 384 := sha384 (o.bytes.take (128 + (objHdr o).bodyLen.toNat))

/-- The certificate, after the body, where the header gives it a length. -/
def objCert (o : SignedObj) : Option Cert :=
  let h := objHdr o
  if h.certLen = 0 then none else Config.certOf ((o.bytes.drop (128 + h.bodyLen.toNat)).take h.certLen.toNat)

/-- The signature: the last 96 bytes. -/
def objSig (o : SignedObj) : BitVec 768 :=
  let h := objHdr o
  BitVec.ofNat 768 (leNat (o.bytes.drop (128 + h.bodyLen.toNat + h.certLen.toNat)))

/-- The digest of a public key: SHA-384 over its 97 bytes. -/
def keyDigest (k : BitVec 776) : BitVec 384 := sha384 (keyBytes k)

/-- A certificate is signed by its issuer. -/
def certOk (c : Cert) : Bool := ecdsaOk c.issuer c.digest c.sig

/-- The object's signature verifies under a key. -/
def sigUnder (k : BitVec 776) (o : SignedObj) : Bool := ecdsaOk k (digestOf o) (objSig o)

/-- A vendor signature (R357). -/
def vendorOk (u : Fuses) (o : SignedObj) : Bool :=
  match objCert o with
  | none => false
  | some c => sigUnder c.subject o && certOk c && decide (keyDigest c.issuer = u.rootDigest) && !u.revoked.getLsbD (objHdr o).keyId.toNat

/-- An owner signature (R357): by the owner key itself where the object carries no certificate, else by a delegate. -/
def ownerOk (u : Fuses) (o : SignedObj) : Bool :=
  (decide (lcState u = lcDEPLOYED) || decide (lcState u = lcFIELD_DEBUG)) &&
  if (objHdr o).certLen = 0 then sigUnder o.key o && decide (keyDigest o.key = u.ownerDigest)
  else match objCert o with
  | none => false
  | some c => sigUnder c.subject o && certOk c && decide (keyDigest c.issuer = u.ownerDigest)

/-- A well-formed header of the type (Table 17-2), and the bytes that it announces. -/
def hdrOk (o : SignedObj) (type : Nat) : Bool :=
  let h := objHdr o
  decide (h.version = 1) && decide (h.type.toNat = type) && !h.rsv && (!h.owner || decide (h.keyId = 0)) &&
  decide (h.certLen.toNat ≤ 2048) && decide (o.bytes.length = objBytes h)

/-- The floor of a boot image (Table 17-3). -/
def floorOf (u : Fuses) (type : Nat) : Nat := if type = 1 then u.floorMon.toNat else if type = 2 then u.floorRt.toNat else 0

/-- The signer that the type needs in this life-cycle state (Table 17-3). -/
def signerOk (u : Fuses) (o : SignedObj) (type : Nat) : Bool :=
  if type ≤ 2 ∨ lcState u ≤ lcPROVISIONED then !(objHdr o).owner && vendorOk u o else (objHdr o).owner && ownerOk u o

/-- An object is accepted (R359). -/
def objOk (u : Fuses) (o : SignedObj) (type : Nat) : Bool :=
  hdrOk o type && signerOk u o type && decide (floorOf u type ≤ (objHdr o).svn.toNat)

/-- The fail code of SM_BOOT for a source (Table 17-8); 0 where the object is accepted. -/
def bootFail (u : Fuses) (b : BootSource) (type : Nat) : Nat :=
  match b with
  | none => 5
  | some o =>
    if !hdrOk o type then 4
    else if u.revoked.getLsbD (objHdr o).keyId.toNat then 3
    else if !signerOk u o type then 1
    else if (objHdr o).svn.toNat < floorOf u type then 2
    else 0

end Sys2Proof.Machine
end

