-- ==== Sys2Proof/Machine/CmdOps.lean ====
section
/-! DEFINITION. What the firmware commands share: the command taken, its checks in the order of R315, objects of
commands in progress, the checks and the creation of placements, and the trigger of a reclaim (R278, R288,
R314 to R317). -/

namespace Sys2Proof.Machine
open Sys2Proof

/-! ### The command taken -/

def argF (t : Taken) (hi lo : Nat) : Nat := nfld t.args.toNat hi lo
def argB (t : Taken) (i : Nat) : Bool := t.args.getLsbD i
def argFn (t : Taken) (hi lo : Nat) : Func := BitVec.ofNat 5 (argF t hi lo)
def argPart (t : Taken) (hi lo : Nat) : PartId := BitVec.ofNat 5 (argF t hi lo)

/-- The oldest command taken from the function, where it is one of the opcode and the runtime serves it. -/
def headCmd (s : State) (f : Func) (op : Nat) : Option Taken :=
  match (getFn s f).taken with
  | t :: _ => if rtRuns s && (getFn s f).ready && decide (t.opcode.toNat = op) then some t else none
  | [] => none

def dropCmd (s : State) (f : Func) : State := modFn s f fun x => { x with taken := x.taken.tail }

/-- Carries out the oldest command of the function. `none`: the row does not occur with these choices of the
runtime (log 2). -/
def runCmd (f : Func) (op : Nat) (dt : Nat) (s : State) (body : Taken → State → Option State) : Host.Outcome State Fault Refusal :=
  .next (match headCmd s f op with
    | none => s
    | some t => (body t (dropCmd (tick s dt) f)).getD s)

/-! ### Checks (R314 to R316) -/

/-- The header's reserved bits, alen, and every argument bit outside the fields (R314). -/
def argsBad (t : Taken) (alen : Nat) (fs : List (Nat × Nat)) : Bool :=
  let m := fieldMask fs
  t.rsv || decide (t.alen.toNat ≠ alen) || decide (t.args.toNat ||| m ≠ m)

def isExpert (s : State) (f : Func) : Bool := decide (f = 0) || (getFn s f).expert

/-- The first check that fails. -/
def firstBad (l : List (Bool × BitVec 16)) : Option (BitVec 16) := (l.find? (·.1)).map (·.2)

def refuseCmd (s : State) (f : Func) (t : Taken) (st : BitVec 16) : State := postResult s f t.opcode t.tag st 0
def okCmd (s : State) (f : Func) (t : Taken) (res : Nat) : State := postResult s f t.opcode t.tag stOK res

/-- Refused with the first status that applies, else carried out. -/
def checked (s : State) (f : Func) (t : Taken) (l : List (Bool × BitVec 16)) (go : Option State) : Option State :=
  match firstBad l with
  | some st => some (refuseCmd s f t st)
  | none => go

/-- LEVEL then PF_ONLY of a command (R316). -/
def levelChecks (s : State) (f : Func) (expert pf : Bool) : List (Bool × BitVec 16) :=
  [(expert && !isExpert s f, stLEVEL), (pf && decide (f ≠ 0), stPF_ONLY)]

/-- An object that a command in progress holds (R317, log 44). -/
def busy (s : State) (o : Obj) : Bool := s.inProgress.any fun p => p.objs.contains o

def partAbsent (s : State) (p : PartId) : Bool := !(getPart s p).valid || (getPart s p).destroying
def notMine (s : State) (f : Func) (p : PartId) : Bool := decide ((getPart s p).owner ≠ f)

/-- The host read that a command needs failed: AER reports it (R311). -/
def noteHostFault (s : State) : State := { s with aer := s.aer ++ [1] }

/-! ### Declarations (R425) -/

/-- The course counts that variants exist for (Table 13-2). -/
def courseCounts : List Nat := [1, 2, 4, 8, 16, 32]

/-- An index range of a pegged tensor: of 8 bits, signed, and in order (R205). -/
def pegRangeOk (r : PegRange) : Bool :=
  decide (-128 ≤ r.kmin) && decide (r.kmin ≤ r.k0) && decide (r.k0 ≤ r.kmax) && decide (r.kmax ≤ 127)

/-- The image layout as ST_IMAGE accepts it (R177), every layer after the header (R175). -/
def layoutOk (d : ImageDecl) : Bool :=
  (decide (d.genSize = 0) && decide (d.wcap = 0) && decide (d.blkSize = 0) && d.layers.isEmpty) ||
  (decide (1 ≤ d.genSize) && decide (d.genSize < 2 ^ 20) && decide (d.blkSize < 2 ^ 24) && decide (2 * d.genSize ≤ d.blkSize) &&
    (decide (d.wcap = 0) || (decide (d.fe ≤ d.wcap) && decide (d.wcap ≤ min 4095 (65 * d.fe)) && decide (2 * d.genSize < d.blkSize))) &&
    d.layers.all fun l => decide (1 ≤ l.loff) && decide (1 ≤ l.count) && decide (l.loff < 64 * d.genSize))

/-- A codebook that values are mapped through at load is strictly ascending (R215). -/
def quantOk (q : QuantTensor) : Bool := q.w8 || (q.c1.zip q.c1.tail).all fun x => decide (x.1 < x.2)

/-- The soundboard parameters are in the ranges of Table 3-1. -/
def sbRangesOk (d : SbDecl) : Bool :=
  decide (d.modelRate ≠ 3) && decide (d.window ≠ 3) && decide (9 ≤ d.winM1.toNat) && decide (5 ≤ d.hopMs.toNat) && decide (d.hopMs.toNat ≤ 20) &&
  decide (39 ≤ d.melM1.toNat) && decide (1 ≤ d.floorExp.toNat) && decide (d.floorExp.toNat ≤ 126)

/-- A supported course count has its program for every promotion step, and an anchor program where the image declares re-anchoring
(R189, R210). -/
def variantsOk (d : ImageDecl) : Bool :=
  d.variants.all fun v =>
    (List.range (d.maxStep + 1)).all (fun k => d.variants.any fun w => decide (w.courses = v.courses) && decide (w.step = k) && !w.anchor && !w.twoPass) &&
    (d.anchorK.isNone || d.variants.any fun w => decide (w.courses = v.courses) && w.anchor)

/-- Re-anchoring: the period, and the length of every anchored layer (R189). -/
def anchorOk (d : ImageDecl) : Bool :=
  match d.anchorK with
  | none => true
  | some k => decide (2 ≤ k) && decide (k ≤ 255) && d.anchorLens.all fun l => decide (d.fe ≤ l) && decide (l ≤ d.wcap)

/-- The declarations of a model image, each within its range (R425); those that the model does not hold stand in `complete` (log 10). -/
def modelDeclOk (d : ImageDecl) : Bool :=
  !d.program && d.complete && decide (1 ≤ d.bstride) && decide (d.bstride ≤ 512) && decide (1 ≤ d.fe) && decide (d.fe ≤ 64) &&
  decide (40 ≤ d.chunkMs) && decide (d.chunkMs ≤ 640) && decide (d.chunkMs % 10 = 0) && layoutOk d && anchorOk d && sbRangesOk d.sb &&
  decide (d.pegs.length ≤ 64) && d.pegs.all (fun t => pegRangeOk t.base && pegRangeOk t.a8) && decide (d.maxStep ≤ 7) &&
  d.quants.all quantOk && variantsOk d && d.variants.all fun v => courseCounts.contains v.courses && decide (v.tSolo.length = 256)

/-- The same for a program: no drone allotment, and t_solo where it declares it (R425). -/
def programDeclOk (d : ImageDecl) : Bool :=
  d.program && d.complete && decide (1 ≤ d.bstride) && decide (d.bstride ≤ 512) &&
  d.variants.all fun v => courseCounts.contains v.courses && decide (v.dalloc = 0)

/-! ### Placement (Table 13-2) -/

/-- The variant that a placement on `n` courses is checked for. -/
def placeVariant (d : ImageDecl) (n : Nat) : Option Variant :=
  if courseCounts.contains n then d.variants.find? fun v => decide (v.courses = n) else none

/-- Does a drone allotment of `d` units at unit `b` lie in one drone group, apart from those allotted? -/
def droneAt (x : Part) (d b : Nat) : Bool :=
  decide (droneStart x.drone.toNat ≤ b * 4096) && decide (b + d ≤ 256) && decide (b / 32 = (b + d - 1) / 32) &&
  x.jobs.all fun j => decide (j.dsize = 0) || decide (b + d ≤ j.dbase.toNat) || decide (j.dbase.toNat + j.dsize ≤ b)

def droneFits (x : Part) (d : Nat) : Bool := decide (d = 0) || (List.range 256).any (droneAt x d)

/-- Sizes of the tier 0 regions that the placement needs: the weights, unless they are there, then the declared
work regions. -/
def placeSizes (d : ImageDecl) (weights : Bool) : List Nat := (if weights then [pages d.weightBytes] else []) ++ d.regions.map fun r => pages r.size

/-- Check 2: the working bound and the allotment do not fit the cores. -/
def planBad (x : Part) (v : Variant) : Bool :=
  decide (droneStart x.drone.toNat < v.bound * 4096) || decide (v.bound + v.dalloc > 256) || decide (v.dalloc > 32)

/-- Check 4: the runtime finds no place for the regions, and tier 0 lacks the space. -/
def tier0Full (s : State) (d : ImageDecl) (weights : Bool) (ch : PlaceChoice) : Bool :=
  ch.regions.isNone && !hasSpace s 0 tier1Base (paged (placeSizes d weights))

/-- The checks of Table 13-2 in order; programs skip the third (R278). `weights`: those of the image are not in tier 0 yet. -/
def placeChecks (s : State) (p : PartId) (d : ImageDecl) (weights : Bool) (ch : PlaceChoice) : List (Bool × BitVec 16) :=
  let x := getPart s p
  match placeVariant d (partCourses x).length with
  | none => [(true, stNO_VARIANT)]
  | some v =>
    [ (planBad x v, stSP_PLAN)
    , (!d.program && !droneFits x v.dalloc, stDRONE_FULL)
    , (tier0Full s d weights ch, stTIER_FULL)
    , (decide (16 ≤ x.jobs.length), stJOB_LIMIT) ]

/-- A job number that is free: no job has it, and no grant names it (R277). -/
def jobFree (s : State) (p : PartId) (j : JobNo) : Bool :=
  decide (j ≠ 0) && (findJob (getPart s p) j).isNone && !s.mon.grants.any fun e => decide (gPart e = p) && decide (gJob e = j)

/-- The runtime's choices fit the placement. -/
def choiceOk (s : State) (p : PartId) (d : ImageDecl) (weights : Bool) (ch : PlaceChoice) : Bool :=
  let x := getPart s p
  match ch.regions, placeVariant d (partCourses x).length with
  | some bases, some v =>
    jobFree s p ch.job && placesOk 0 tier1Base (usedSpace s) bases (placeSizes d weights) &&
    (d.program || decide (v.dalloc = 0) || (match ch.drone with | some b => droneAt x v.dalloc b.toNat | none => false))
  | _, _ => false

/-- A new job of a partition. -/
def newJob (x : Part) (j : JobNo) (k : JobKind) (dbase : BitVec 8) (dsize : Nat) (key : W64) (regions : List (Nat × Nat)) : Job :=
  { num := j, kind := k, ctx := none, stopped := none, sliceUs := x.sliceUs, hsLimit := x.hsLimit, hsNext := x.hsLimit, overshoot := 0, hsRuns := 0
    errRuns := 0, dbase := dbase, dsize := dsize, key := key, step := 0, epoch := 0, regions := regions, ended := false
    crashed := none, obsCycles := 0, soloTicks := 0, tasks := 0, tele := ⟨0, 0, 0, 0, 0, 0⟩ }

/-- Jobs in ascending number (R280). -/
def insertJob (j : Job) : List Job → List Job
  | [] => [j]
  | k :: l => if j.num.toNat < k.num.toNat then j :: k :: l else k :: insertJob j l

/-- Writes bytes into the drone allotment of every core of the partition through the firmware window, waiting where
a task runs (R118, R119). -/
def fillDrone (s : State) (p : PartId) (dbase : Nat) (bytes : List Byte) : State :=
  if bytes.isEmpty then s
  else forAll (partCores (getPart s p)) (fun s c =>
    let w : WinAccess := ⟨BitVec.ofNat 20 (dbase * 4096), bytes, true, []⟩
    if taskRuns s c then modCore s c fun x => { x with winWait := x.winWait ++ [w] } else applyWin s c w) s

/-- The drone allotment of a model: as the image gives it, with the sign vector of every spread tensor in its place (R118, R213). -/
def droneBytes (y : Model) : List Byte :=
  y.signVectors.foldl (fun b v => splice b v.1 (v.2.flatMap fun w => leBytes 4 w.toNat)) y.decl.drone

/-- The job that a placement or a program becomes, with its regions and its drone allotment. -/
def createJob (s : State) (p : PartId) (d : ImageDecl) (k : JobKind) (key : W64) (weights : Bool) (drone : List Byte) (ch : PlaceChoice) : State :=
  let x := getPart s p
  let bases := ch.regions.getD []
  let sizes := placeSizes d weights
  let both := bases.zip sizes
  let own := if weights && !d.program then both.tail else both
  let v := placeVariant d (partCourses x).length
  let dsize := if d.program then 0 else (v.map (·.dalloc)).getD 0
  let dbase := if dsize = 0 then 0 else ch.drone.getD 0
  let s := { s with regions := s.regions ++ own.map fun r => ⟨r.1, r.2, .job p ch.job⟩ }
  let s := modPart s p fun x => { x with jobs := insertJob (newJob x ch.job k dbase dsize key own) x.jobs }
  if dsize = 0 then s else fillDrone s p dbase.toNat (drone.take (dsize * 4096))

/-- Places a resident model: its weights are copied into tier 0 where they are not yet (R278). -/
def placeModel (s : State) (p : PartId) (m : ModelSlot) (y : Model) (ch : PlaceChoice) : State :=
  let first := y.weightsAt.isEmpty
  let s := createJob s p y.decl (.placement m) 0 first (droneBytes y) ch
  match first, (ch.regions.getD []).head? with
  | true, some a =>
    let n := pages y.decl.weightBytes
    let s := { s with regions := s.regions ++ [⟨a, n, .model m⟩], mem := Memory.wrs s.mem a (devRead s y.imageAt y.imageSize) }
    modModel s m fun z => { z with weightsAt := [(n, a)] }
  | _, _ => s

/-- The default partition of a function. -/
def defaultPart (s : State) (f : Func) : Option PartId :=
  allParts.find? fun p => let x := getPart s p; x.valid && x.dflt && decide (x.owner = f) && !x.destroying

/-! ### The trigger of a reclaim (R285, R287, R288 step 1) -/

/-- The reason of a reclaim that posts no JOB_END: by a reset or a token. -/
def rsSilent : BitVec 8 := 0xFF
def rsTASK_ERROR : BitVec 8 := 1
def rsOVERRUN : BitVec 8 := 2
def rsREMOVED : BitVec 8 := 3
def rsDESTROYED : BitVec 8 := 4
def rsFAULTED : BitVec 8 := 5

/-- A job is to be reclaimed: a task of it that is bound is stopped at once without grace, and stopping is set. -/
def triggerReclaim (s : State) (p : PartId) (j : JobNo) (reason : BitVec 8) : State :=
  let s := modJob s p j fun b => { b with crashed := some (b.crashed.getD reason) }
  let x := getPart s p
  if x.task.isSome ∧ x.job = j then modPart (closeCharge (stopCores s p) p) p fun x => { x with stopping := true, endReq := none } else s

end Sys2Proof.Machine
end

