-- ==== Sys2Proof/Machine/PairOps.lean ====
section
/-! DEFINITION. Pairs and windows: what arrives, credits and acknowledgements, the failure of a pair, the failure of a migration, the end
of a window (R331, R332, R341, R342, R344, R348 to R350). -/

namespace Sys2Proof.Machine
open Sys2Proof

/-! ### What arrives (R338, R339, R345) -/

/-- The length of a frame agrees with its type (Table 16-8). -/
def lenAgrees (fr : Frame) : Bool :=
  let n := fr.payload.length
  let l := fr.len.toNat
  match fr.type.toNat with
  | 0 | 2 | 4 => decide (n = l) && decide (1 ≤ l) && decide (l ≤ 4096)
  | 1 => decide (n = 0) && decide (1 ≤ l) && decide (l ≤ 4096)
  | 3 => decide (n = 8) && decide (l = 8)
  | 5 | 9 => decide (n = 64) && decide (l = 64)
  | 6 | 7 | 8 | 11 => decide (n = 0) && decide (l = 0)
  | 10 | 12 => decide (n = 16) && decide (l = 16)
  | _ => false

/-- A frame of a type reaches the bridge block through a port: a well-formed Lemrix frame for this device. -/
def arrives (s : State) (n : PortNo) (fr : Frame) (t : BitVec 4) : Bool :=
  devRuns s && (getPort s n).up && decide (fr.ver = 1) && decide (fr.type = t) && lenAgrees fr &&
  (decide (t = ftHELLO) || (decide (fr.dst = myDev s) && !s.br.devidConflict))

/-- The window admits a device (Table 16-5). -/
def admits (w : Win) (d : DevNo) : Bool := decide (d &&& w.smask = w.src &&& w.smask)

/-! ### Migrations out and in that end by failure (R47, R332) -/

/-- The stream remains as it was, with moving = 0; the command ends with MIGRATE_FAIL and the receiver's reason. -/
def migFail (s : State) (m : MigOut) (reason : BitVec 16) : State :=
  let s := { s with
    br := { s.br with migOut := s.br.migOut.filter fun x => decide (x ≠ m) }
    inProgress := s.inProgress.filter fun q => !decide (q.f = m.f ∧ q.tag = m.tag ∧ q.opcode = 0x0212) }
  let s := match m.copy with | some tag => dropDescs s tag | none => s
  let s := modStream s m.handle fun x => { x with moving := false, migrating := false }
  postResult s m.f 0x0212 m.tag stMIGRATE_FAIL (reason.toNat * 2 ^ 16)

/-- The pair that a migration uses stands. -/
def pairStands (s : State) (w : WinNo) (d : DevNo) : Bool :=
  s.br.pairs.any fun x => decide (x.2.window = w) && decide (x.2.peer = d) && !x.2.failed

/-- Migrations whose pair is gone end (R350); what had arrived is discarded. -/
def failMigs (s : State) : State :=
  let lost := s.br.migOut.filter fun m => m.copy.isSome && !pairStands s m.window m.device
  let s := lost.foldl (fun s m => migFail s m 0) s
  { s with br := { s.br with migIn := s.br.migIn.filter fun m => pairStands s m.window m.peer } }

/-! ### Windows that close (R331, R348) -/

/-- A pair of the window has everything back: nothing waits, nothing is unacknowledged or to be read; or it has failed. -/
def pairQuiet (p : Pair) : Bool := p.failed || (p.waitTx.isEmpty && p.unacked.isEmpty && p.reads.isEmpty)

/-- The windows go, with their pairs and the migrations on them; a `window.close` of one of them is complete. -/
def endWindows (s : State) (ws : List Nat) : State :=
  let cmds := s.br.wins.filterMap fun w => if ws.contains w.1 then w.2.closeFor else none
  let s := failMigs { s with br := { s.br with
      wins := s.br.wins.filter fun w => !ws.contains w.1, pairs := s.br.pairs.filter fun x => !ws.contains x.2.window.toNat } }
  cmds.foldl (fun s c =>
    postResult { s with inProgress := s.inProgress.filter fun q => !decide (q.f = c.1 ∧ q.tag = c.2 ∧ q.opcode = 0x0211) } c.1 0x0211 c.2 stOK 0) s

/-- Closing windows whose pairs are all quiet end. -/
def settleCloses (s : State) : State :=
  let done := s.br.wins.filter fun w => w.2.closing && s.br.pairs.all fun x => decide (x.2.window.toNat ≠ w.1) || pairQuiet x.2
  if done.isEmpty then s else endWindows s (done.map (·.1))

/-! ### Failure of a pair (R350) -/

/-- No task is bound to the core's partition. -/
def noTask (s : State) (c : CoreId) : Bool := (taskOfCore s c).isNone

/-- The pair fails once, and is reported; frames stay only for the cores that wait for them. -/
def pairFail (s : State) (i : Nat) : State :=
  match getPair s i with
  | none => s
  | some p =>
    if p.failed then s
    else
      let own (t : TxFrame) : TxFrame := match t.owner with | some (c, _) => if noTask s c then { t with owner := none } else t | none => t
      let s := setPair s i { p with failed := true, waitTx := p.waitTx.map own, unacked := p.unacked.map own }
      settleCloses (failMigs (logError s (errInfo cPAIR_FAILED 7)))

/-! ### Acknowledgement and credits (R348, R349) -/

/-- A frame acknowledges all before `ack` and returns `cred` credits; then what waits may go. -/
def takeAckOf (s : State) (i : Nat) (fr : Frame) (cred : Nat) : State :=
  match getPair s i with
  | none => s
  | some p =>
    if p.failed ∨ !fr.ackV then s
    else
      let k := (fr.ack - p.txAcked).toNat
      let got := decide (1 ≤ k) && decide (k ≤ p.unacked.length)
      let p := { p with avail := BitVec.ofNat 16 (min p.granted.toNat (p.avail.toNat + cred)) }
      let p := if got then { p with unacked := p.unacked.drop k, txAcked := fr.ack, timeouts := 0, progress := s.time } else p
      settleCloses (pairSend p.waitTx.length i (setPair s i p))

/-- An ACK, NAK or REJECT, which is sent once, returns its credits as it comes. -/
def takeAck (s : State) (i : Nat) (fr : Frame) : State := takeAckOf s i fr fr.cred.toNat

/-- An ACK, NAK or REJECT of the pair. -/
def ctlFrame (s : State) (p : Pair) (t : BitVec 4) (seq : BitVec 16) : Frame :=
  { stampAck p (mkFrame s t p.peer p.window 0 0 []) with seq := seq }

/-- Sends an ACK, NAK or REJECT, which carries the credits to return; they stay to be returned where it cannot leave (R348). -/
def sendCtl (s : State) (i : Nat) (t : BitVec 4) (seq : BitVec 16) : State :=
  match getPair s i with
  | none => s
  | some p => if mayLeave s p.peer then sendFrame (setPair s i { p with credRet := 0 }) (ctlFrame s p t seq) else s

/-- Every unacknowledged frame is sent again, in order (R349). It carries the credits that it carried first, which the receiver takes with
it once (R348, log 121). -/
def resendAll (s : State) (i : Nat) : State :=
  match getPair s i with
  | none => s
  | some p => p.unacked.foldl (fun s t => sendFrame s { t.fr with ackV := true, ack := p.rxNext }) s

/-! ### Forming pairs (R342) -/

/-- The descriptor that a PAIR frame carries, laid out as Table 16-5, with the reply bit (log 48). -/
def pairPayload (w : Win) (reply : Bool) : List Byte :=
  leBytes 64 ((if reply then 1 else 0) + w.base / 4096 * 2 ^ 22 + w.size / 4096 * 2 ^ 58 + w.perm.toNat * 2 ^ 114 + w.credits.toNat * 2 ^ 128)

def sendPair (s : State) (n : WinNo) (w : Win) (d : DevNo) (reply : Bool) : State :=
  sendFrame s (mkFrame s ftPAIR d n 0 0 (pairPayload w reply))

/-- Devices with a valid route, this one apart. -/
def reachable (s : State) : List DevNo := (s.br.routes.filter fun r => !r.2.isEmpty).map fun r => BitVec.ofNat 14 r.1

/-- A window that opens is offered to every admitted device that has a route. -/
def offerWindow (s : State) (n : WinNo) (w : Win) : State :=
  ((reachable s).filter (admits w)).foldl (fun s d => sendPair s n w d false) s

/-- Every open window that admits a device newly reached is offered to it; where its pair has been formed already, as one that needs no
answer (log 48). -/
def offerDevice (s : State) (d : DevNo) : State :=
  (s.br.wins.filter fun w => admits w.2 d && !w.2.closing).foldl (fun s w =>
    let n : WinNo := BitVec.ofNat 8 w.1
    sendPair s n w.2 d (pairIdx s n d).isSome) s

/-- The lowest free pair. -/
def freePair (s : State) : Option Nat := (List.range 1024).find? fun i => (getPair s i).isNone

/-- A pair as a PAIR frame forms it. -/
def newPair (w : WinNo) (d : DevNo) (v : Nat) (now : W64) : Pair :=
  let c : BitVec 16 := BitVec.ofNat 16 (nfld v 143 128)
  { failed := false, window := w, peer := d, rbase := nfld v 57 22 * 4096, rsize := nfld v 85 58 * 4096, rperm := BitVec.ofNat 3 (nfld v 116 114)
    granted := c, avail := c, txNext := 0, txAcked := 0, rxNext := 0, waitTx := [], unacked := [], timeouts := 0, credRet := 0
    reads := [], nakSent := false, tagNext := 0, progress := now }

/-- Records the pair, where there is room. -/
def formPair (s : State) (fr : Frame) (i : Option Nat) : Option State :=
  match i with
  | some i => some (setPair s i (newPair fr.win fr.src (leNat fr.payload) s.time))
  | none => none

/-- Something is on its way over the pair. -/
def pairBusy (s : State) (p : Pair) : Bool :=
  !(p.waitTx.isEmpty && p.unacked.isEmpty && p.reads.isEmpty) ||
  s.br.migOut.any fun m => m.copy.isSome && decide (m.window = p.window) && decide (m.device = p.peer)

/-- What was on its way over a pair that its peer forms anew is lost with it; cores that wait for it are told by a failed pair that is kept
apart from the 1,024 for them alone (R350). -/
def setAside (s : State) (i : Nat) : State :=
  match getPair s i with
  | none => s
  | some p =>
    if !pairBusy s p then s
    else
      let s := pairFail s i
      match getPair s i with
      | some p => setPair s (1024 + i) p
      | none => s

/-- A PAIR frame of a window that admits its sender. The peer of an offer, which is no reply, holds no pair: its window has been opened, or opened
again, and the pair is formed anew on both sides; a reply forms a pair where there is none (R342, R350, log 48). -/
def receivePair (s : State) (w : Win) (fr : Frame) : State :=
  let reply := (leNat fr.payload).testBit 0
  let answer (s : State) : State := if reply then s else sendPair s fr.win w fr.src true
  match pairIdx s fr.win fr.src with
  | some i =>
    if reply then s
    else match formPair (setAside s i) fr (some i) with
      | some s => answer s
      | none => s
  | none =>
    match formPair s fr (freePair s) with
    | some s => answer s
    | none => { s with br := { s.br with offersIgnored := s.br.offersIgnored + 1 } }

end Sys2Proof.Machine
end

