-- ==== Sys2Proof/Machine/Reclaim.lean ====
section
/-! DEFINITION. Reclaim of a job, the end of a partition, and the completion of the commands that wait for reclaims (R276,
R285 to R288, R320, R325, R326). -/

namespace Sys2Proof.Machine
open Sys2Proof

/-! ### Steps of Table 13-4 -/

/-- Windows of a job. -/
def jobWindows (s : State) (p : PartId) (j : JobNo) : List Nat :=
  (s.br.wins.filter fun w => decide (w.2.part = p) && decide (w.2.job = j)).map (·.1)

/-- Step 2: the job's writes have completed and its credits have returned, or their pair has failed (R283, R350). -/
def jobQuiet (s : State) (p : PartId) (j : JobNo) : Bool :=
  s.br.pairs.all fun x => x.2.failed || !(jobWindows s p j).contains x.2.window.toNat || (x.2.waitTx.isEmpty && x.2.unacked.isEmpty)

/-- A descriptor at work, or whose record is due, reads or writes under the entry. -/
def engineUses (s : State) (e : BitVec 128) : Bool :=
  s.mig.work.any fun w =>
    let n := nfld w.desc.toNat 167 128
    gTouches e (nfld w.desc.toNat 79 32) n || gTouches e (nfld w.desc.toNat 127 80) n

/-- R260: no task of the entry's job runs, or of any job of its partition where it names none, and the writes under it have completed, those
of the migration engine among them. -/
def revokeQuiet (s : State) (e : BitVec 128) : Bool :=
  let x := getPart s (gPart e)
  let mine (j : JobNo) : Bool := decide (gJob e = 0) || decide (gJob e = j)
  !(x.task.isSome && !x.atMeet && mine x.job) && !((partCores x).any (bridgeBusy s)) && !engineUses s e &&
  x.jobs.all fun b => !mine b.num || jobQuiet s (gPart e) b.num

/-- R260 for the grants of a job whose tasks have stopped: its writes have completed, and the engine works under none of them. -/
def jobDone (s : State) (p : PartId) (j : JobNo) : Bool :=
  jobQuiet s p j && (s.mon.grants.filter fun e => decide (gPart e = p) && decide (gJob e = j)).all fun e => !engineUses s e

/-- Another placement of the model exists. -/
def otherPlacement (s : State) (m : ModelSlot) (p : PartId) (j : JobNo) : Bool :=
  allParts.any fun q => (getPart s q).valid && (getPart s q).jobs.any fun b =>
    decide (b.kind = .placement m) && b.crashed.isNone && !decide (q = p ∧ b.num = j)

/-- The chunk of a stream that ends with it is dropped (R286, R312). -/
def dropChunk (s : State) (h : Handle) : State :=
  endClose (modStream s h fun x => { x with inBundle := false, chunks := [], discard := none }) h

/-- Step 3 for a list of members: dropped with their stream, requeued, or failed (R286). -/
def settleReclaimed (s : State) (p : PartId) (j : JobNo) (ms : List Member) : State :=
  let gone := ms.filter fun m => isSilent (getStream s m.handle)
  let rest := ms.filter fun m => !isSilent (getStream s m.handle)
  let s := settleMembers s (partCores (getPart s p)) rest (fun m _ => !otherPlacement s (getStream s m.handle).model p j) id id []
  forAll (gone.map (·.handle)) dropChunk s

/-- Step 4 on one core: the working region and everything that holds the task's state is zeroed. -/
def wipeCore (s : State) (c : CoreId) : State :=
  modCore s c fun x =>
    let e := zeroEng x.eng x.spTask
    { x with eng := { e with fret := x.eng.fret, codebooks := x.eng.codebooks, decay := x.eng.decay, tbls := x.eng.tbls
                             rescale := x.eng.rescale, rings := x.eng.rings, hist := x.eng.hist, vl := x.eng.vl } }

def wipeCores (s : State) (p : PartId) : State :=
  let x := getPart s p
  let s := forAll (partCores x) wipeCore s
  forAll (partCourses x) (fun s k => setCourse s k { getCourse s k with lastJob := none }) s

/-- Step 5: the drone allotment is zeroed. -/
def wipeDrone (s : State) (p : PartId) (b : Job) : State :=
  if b.dsize = 0 then s
  else forAll (partCores (getPart s p)) (fun s c => modEng s c fun e => { e with sp := tclear e.sp (b.dbase.toNat * 4096) (b.dsize * 4096) }) s

/-- Pages that a job held last are no later holder's: the next grant of them zeroes them first, whatever its job number (R270). -/
def forgetHolder (s : State) (q : Holder → Bool) (h : Holder) : State :=
  (s.mon.holders.filter fun x => q x.2).foldl (fun s x => { s with mon := { s.mon with holders := putHolder s s.mon.holders x.1 h } }) s

/-- Step 6: windows closed, grants revoked, regions and context images zeroed. -/
def wipeTiers (s : State) (p : PartId) (j : JobNo) : State :=
  let s := endWindows s (jobWindows s p j)
  let s := { s with mon := { s.mon with grants := s.mon.grants.filter fun e => !decide (gPart e = p ∧ gJob e = j) } }
  forgetHolder (wipeRegions s fun r => decide (r.use = .job p j)) (fun h => decide (h = .part p j)) .unknown

/-- Step 6 for a bundle record area (R288). -/
def wipeBundle (s : State) (t : Task) : State :=
  match t.bundle with
  | some b => wipeRegions s fun r => decide (r.use = .bundle b.no)
  | none => s

/-- The remappings of the partition's cores take effect (R122). -/
def sparePart (s : State) (p : PartId) : State := forAll (partCores (getPart s p)) applySpares s

/-- The whole reclaim of a job that step 2 lets go on. -/
def reclaimJob (s : State) (p : PartId) (b : Job) : State :=
  let j := b.num
  let x := getPart s p
  let bound := match x.task with | some t => decide (t.job = j) | none => false
  let s := if bound then
      let s := match x.task with | some t => logTaskErrors s p t 3 | none => s
      let s := match x.task with
        | some t => if t.committed then commitBundle s p [] else if t.settled then s else settleReclaimed s p j (taskMembers t)
        | none => s
      unbind (match x.task with | some t => wipeBundle s t | none => s) p
    else s
  let s := match b.stopped with
    | some t => wipeBundle (if t.settled then s else settleReclaimed s p j (taskMembers t)) t
    | none => s
  let s := sparePart (if (getPart s p).task.isSome then s else wipeCores s p) p
  let s := wipeTiers (wipeDrone s p b) p j
  let s := match findJob (getPart s p) j with | some b => keepReport s p b | none => s
  let s := modPart s p fun x => { x with jobs := x.jobs.filter fun b => decide (b.num ≠ j), stopping := if bound || x.task.isNone then false else x.stopping }
  match b.crashed with
  | some r => if r = rsSilent then s else postJobEnd s p j r
  | none => s

/-! ### The end of a partition (R288 step 7) -/

/-- The entry is the partition's: it grants it something, or its seal is of its key. -/
def partEntry (p : PartId) (e : BitVec 128) : Bool := decide (gPart e = p) && (gPartR e || gPartW e || gSealed e)

/-- The sealed regions of the partition are erased with its key (R269, R270); pages that its jobs held otherwise are zeroed at their next
grant. -/
def eraseSealed (s : State) (p : PartId) : State :=
  let s := (s.mon.grants.filter fun e => partEntry p e && gSealed e).foldl (fun s e => setHolder s (gBase e) (gSize e) .zeroed) s
  forgetHolder s (fun h => match h with | .part q _ => decide (q = p) | _ => false) .unknown

def destroyPartition (s : State) (p : PartId) : State :=
  let s := eraseSealed (closeIdle s p) p
  let x := getPart s p
  let s := forAll (partCores x) (fun s c => modCore s c fun y => setDrone { y with spTask := .reset } 0) s
  let s := { s with
    mon := { s.mon with keys := tdel s.mon.keys p.toNat, grants := s.mon.grants.filter fun e => !partEntry p e }
    apertures := s.apertures.filter fun a => decide (a.2.part ≠ p) }
  let s := answer (answer (answer s opKEYS false) opDRONE false) opFENCE false
  setPart s p { Part.reset with t0 := x.t0, t1 := x.t1, t2 := x.t2, br := x.br, qReqs := x.qReqs, qWait := x.qWait }

/-- A partition that is being destroyed ends once it has no job and R260 is met for what it still holds (R269). -/
def endDestroy (s : State) (p : PartId) : State :=
  let x := getPart s p
  if x.valid ∧ x.destroying ∧ x.jobs.isEmpty ∧ (s.mon.grants.filter (partEntry p)).all (fun e => !engineUses s e) then destroyPartition s p else s

/-! ### Models without a user (R320) -/

/-- A slot with no user is freed: its regions are released. -/
def releaseModel (s : State) (m : ModelSlot) : State :=
  match getModel s m with
  | none => s
  | some y =>
    if y.users.isEmpty then
      let s := releaseRegions s fun r => decide (r.use = .model m)
      { s with models := tdel s.models m.toNat }
    else s

/-- The function stops being a user; an owner's ownership passes to the lowest function (R320). -/
def dropUser (s : State) (m : ModelSlot) (f : Func) : State :=
  modModel s m fun y =>
    let us := y.users.filter fun g => decide (g ≠ f)
    { y with users := us, owner := if y.owner = f then (allFuncs.find? fun g => us.contains g).getD y.owner else y.owner }

/-! ### Commands that wait for reclaims -/

def objGone (s : State) (o : Obj) : Bool :=
  match o with
  | .job p j => (findJob (getPart s p) j).isNone
  | _ => true

/-- Has the command in progress finished? -/
def waitOver (s : State) (q : InProgress) : Bool :=
  if q.opcode = 0x0202 then
    let x := getPart s (BitVec.ofNat 5 q.res)
    !(x.valid && x.destroying)
  else (decide (q.opcode = 0x0102) || decide (q.opcode = 0x0204)) && q.objs.all (objGone s)

/-- The end of such a command: an unloaded image with no user left is released, and the RESULT is posted. -/
def finishCmd (s : State) (q : InProgress) : State :=
  let s := if q.opcode = 0x0102 then
      q.objs.foldl (fun s o => match o with | .model m => releaseModel s m | _ => s) s
    else s
  postResult s q.f q.opcode q.tag stOK 0

def settleCmds (s : State) : State :=
  let done := s.inProgress.filter (waitOver s)
  done.foldl finishCmd { s with inProgress := s.inProgress.filter fun q => !waitOver s q }

/-! ### The end of an FLR (R312, R378) -/

/-- Nothing of the function's is left but its models: every stream is FREE and every partition gone. -/
def flrOver (s : State) (f : Func) : Bool :=
  (s.streams.all fun x => decide (x.2.state = .free) || decide (x.2.client ≠ f)) && allParts.all fun p => !(getPart s p).valid || decide ((getPart s p).owner ≠ f)

/-- A slot is in use by a command in progress. -/
def slotHeld (s : State) (m : ModelSlot) : Bool := s.inProgress.any fun q => q.objs.contains (.model m)

/-- The function stops being a user of every slot; slots left without a user are freed. -/
def dropModels (s : State) (f : Func) : State :=
  let slots := s.models.map fun m => (BitVec.ofNat 6 m.1 : ModelSlot)
  slots.foldl (fun s m =>
    let s := dropUser s m f
    if slotHeld s m then s else releaseModel s m) s

/-- The effects of an FLR are finished: the function is ready again, where it exists and the device serves it. -/
def finishFlr (s : State) (f : Func) : State :=
  if (getFn s f).flr && flrOver s f then
    let up := !s.fatal && !s.pw.pfD3
    modFn (dropModels s f) f fun x => { x with flr := false, ready := up && x.enabled }
  else s

def settleFlrs (s : State) : State := forAll allFuncs finishFlr s

def settleProgress (s : State) : State := settleFlrs (settleCmds s)

/-! ### RECLAIM -/

/-- The job is to be reclaimed: a trigger of Table 13-3 has come, or it has ended. -/
def reclaimDue (b : Job) : Bool := b.crashed.isSome || b.ended

/-- What waited for the migration engine goes on (R260, R269). -/
def settleDestroys (s : State) : State := settleProgress (forAll allParts endDestroy s)

def reclaimStep (s : State) (p : PartId) (b : Job) : State := settleProgress (endDestroy (reclaimJob s p b) p)

def execReclaim (p : PartId) (job : JobNo) (dt : Nat) (s : State) : Host.Outcome State Fault Refusal :=
  .next (match findJob (getPart s p) job with
    | none => s
    | some b => if rtRuns s && reclaimDue b && jobDone s p job then reclaimStep (tick s dt) p b else s)

end Sys2Proof.Machine
end

