-- ==== Sys2Proof/Machine/DeviceOps.lean ====
section
/-! DEFINITION. Stops without grace and device-severity errors (R282, R376, R402). -/

namespace Sys2Proof.Machine
open Sys2Proof

/-- A task is stopped without grace: what its commit meet decided stands, else every member chunk is requeued with
nothing counted; a program job runs on from its saved context, or from the start (R282, R284). -/
def stopNoGrace (s : State) (p : PartId) : State :=
  match (getPart s p).task with
  | none => s
  | some t =>
    let s := logTaskErrors (closeCharge (stopCores s p) p) p t (if t.committed || t.bundle.isNone then 0 else 1)
    let s := if t.committed then commitBundle s p [] else settleMembers s (partCores (getPart s p)) (taskMembers t) (fun _ _ => false) id id []
    unbind s p

/-- A number conflict is reported once the runtime runs to report it (R339). -/
def tellConflict (s : State) : State :=
  if s.br.devidConflict && !s.br.conflictTold && devRuns s then
    logError { s with br := { s.br with conflictTold := true } } (errInfo cDEVID_CONFLICT 7)
  else s

/-- Every partition is hard stopped without grace. -/
def stopAll (s : State) : State := forAll allParts stopNoGrace s

/-- No function is ready. -/
def unready (s : State) : State := forAll allFuncs (fun s f => modFn s f fun x => { x with ready := false }) s

/-- Causes that stop the clocks (R373, R389). -/
def stopsClocks (cause : BitVec 8) : Bool := decide (cause = cCLOCK) || decide (cause = cTHERMTRIP)

/-- Causes that the monitor's automatic warm reset recovers (Table 19-3). -/
def autoCause (cause : BitVec 8) : Bool := decide (cause = cSERVICE_FENCE) || decide (cause = cWATCHDOG)

/-- 600 s of device time, in ticks. -/
def autoSpan : Nat := 60000000000

/-- Another automatic warm reset would not be the third within 600 s (R403). -/
def autoOk (s : State) : Bool := decide ((s.pw.autoResets.filter fun t => decide ((s.time - t).toNat < autoSpan)).length < 2)

/-- What a device error's record gives as its outcome. -/
def deviceOutcome (s : State) (cause : BitVec 8) : BitVec 3 := if autoCause cause && autoOk s then 5 else 6

/-- MB_STATUS.fatal is set; where it becomes 1, ALERT_N asserts (R402, R422). -/
def setFatal (s : State) : State := { s with fatal := true, pw := { s.pw with alert := s.pw.alert || !s.fatal } }

/-- The monitor's automatic warm reset is due where the cause and R403 let it be. -/
def noteAuto (s : State) (cause : BitVec 8) : State :=
  { s with pw := { s.pw with autoDue := s.pw.autoDue || (autoCause cause && autoOk s) } }

/-- R402, in its order. The record's seq is the error ring's next. -/
def deviceError (s : State) (i : ErrInfo) : State :=
  let i := { i with outcome := deviceOutcome s i.cause }
  let s := unready (setFatal (noteAuto s i.cause))
  let s := { s with aer := s.aer ++ [0] }
  let s := stopAll s
  let s := { s with mon := { s.mon with fatal := if s.mon.fatal = 0 then errBits s.tele.nextSeq s.time i else s.mon.fatal } }
  let s := if stopsClocks i.cause then { s with pw := { s.pw with clockStop := some i.cause } } else s
  logError s i

/-- An access of a service requester is checked against the grant table; a refused one is SERVICE_FENCE (R254, R258,
R394). -/
def svcGuard (s : State) (write : Bool) (a n : Nat) (ok : State) : State :=
  if svcGrant s write a n then ok
  else deviceError s { errInfo cSERVICE_FENCE 4 with addr := some (BitVec.ofNat 48 a) }

end Sys2Proof.Machine
end

