-- ==== Sys2Proof/Machine/Models.lean ====
section
/-! DEFINITION. Firmware commands over models: load, completion of a load, unload, place, quantisation policy; weights
quantised at load (R209, R213, R215, R318 to R320, R326, R329). -/

namespace Sys2Proof.Machine
open Sys2Proof

/-! ### Weights quantised at load (R199, R200, R215) -/

/-- The greatest magnitude of a codebook: of its entries, or for W8 of the sums C1[h] + C2[l]. -/
def bookMax (q : QuantTensor) : Nat :=
  let vals := if q.w8 then q.c1.flatMap fun a => q.c2.map fun b => a + b else q.c1
  (vals.map Int.natAbs).foldl max 0

/-- A BF16 value as the engines read it. -/
def bfIn (v : BitVec 16) : W32 := (f32In (v ++ 0#16)).1

/-- max |v| over the tensor. -/
def tensorMax (q : QuantTensor) : W32 :=
  q.vals.foldl (fun (a : W32) v => let x := f32Abs (bfIn v); if f32Key x > f32Key a then x else a) 0

/-- Does the scaled maximum fit the codebook at index `k`? -/
def quantFits (q : QuantTensor) (a : W32) (k : Int) : Bool :=
  let e := effScale q.mult.toNat q.shift.toNat (-k)
  dyLe (scaled a e.1 e.2) (dyInt (bookMax q))

/-- The least fitting index in −128 to 127 (log 42 where there is none). -/
def quantIndex (q : QuantTensor) : Int :=
  let a := tensorMax q
  match (List.range 256).find? fun (i : Nat) => quantFits q a ((i : Int) - 128) with
  | some i => (i : Int) - 128
  | none => Config.quantIndex a

/-- R199: the midpoints that `t` equals or exceeds. -/
def nearestCode (c : List Int) (t : Dy) : Nat :=
  ((c.zip c.tail).filter fun x => dyLe (dyInt (x.1 + x.2)) (dyScale t 1)).length

/-- |t − (C1[h] + C2[l])|, exactly. -/
def pairDist (t : Dy) (n : Int) : Dy := let d := dySub t (dyInt n); if d.m < 0 then dyNeg d else d

/-- R200: the pair of least distance, and among equals the least 16h + l. -/
def nearestPair (c1 c2 : List Int) (t : Dy) : Nat :=
  let sums := c1.flatMap fun a => c2.map fun b => a + b
  (sums.zipIdx.foldl
    (fun (best : Option (Dy × Nat)) x =>
      let d := pairDist t x.1
      match best with
      | none => some (d, x.2)
      | some b => if dyLt d b.1 then some (d, x.2) else some b) none).elim 0 (·.2)

/-- The codes of a tensor. -/
def quantCodes (q : QuantTensor) : List Nat :=
  let k := quantIndex q
  let e := effScale q.mult.toNat q.shift.toNat (-k)
  q.vals.map fun v =>
    let t := scaled (bfIn v) e.1 e.2
    if q.w8 then nearestPair q.c1 q.c2 t else nearestCode q.c1 t

/-- A stored rescale entry with `k` folded into its mult and shift (R197 with k' = k). -/
def foldEntry (b : List Byte) (k : Int) : List Byte :=
  let v := leNat b
  let e := effScale (nfld v 23 0) (nfld v 29 24) k
  leBytes 8 (e.1 % 2 ^ 24 + (e.2 % 64).toNat * 2 ^ 24 + (v >>> 30) * 2 ^ 30)

/-- Entry (a, j) of a fret table (R194). -/
def fretEntry (f : FretBuild) (cb : List Int) (a j : Nat) : Int :=
  (match f.ac with
   | some ac => ac.getD a 0
   | none => sxt 4 a - f.zp.toInt) * cb.getD j 0

/-- The 768 bytes of a fret table, as CONFIG loads it (R127). -/
def fretBytes (f : FretBuild) (q : QuantTensor) : List Byte :=
  let cb := if f.second then q.c2 else q.c1
  (List.range 256).flatMap fun i => leBytes 3 (ofI 24 (fretEntry f cb (i / 16) (i % 16))).toNat

/-- The image with one tensor quantised: its codes, its fret tables, the rescale entries that consume it (R194, R215). -/
def quantTensor (b : List Byte) (q : QuantTensor) : List Byte :=
  let b := splice b q.codesAt (packBits ((quantCodes q).flatMap (bitsLsb q.bits)))
  let b := q.frets.foldl (fun b f => splice b f.at_ (fretBytes f q)) b
  q.consumers.foldl (fun b o => splice b o (foldEntry ((b.drop o).take 8) (quantIndex q))) b

/-- The bytes of the image as it is kept. -/
def imageBytes (img : Image) (quant : Bool) : List Byte :=
  if quant then img.decl.quants.foldl quantTensor img.obj.bytes else img.obj.bytes

/-! ### A new model -/

/-- The sign vector of a spread tensor: 256 bits in 8 words (R213). -/
def signVector (key : W64) (tau : Nat) : List W32 :=
  (List.range 8).map fun i => mix key (bowCounter 0xFF1 (BitVec.ofNat 28 tau) (BitVec.ofNat 24 i))

/-- Table 9-11, defaults. -/
def policyDefault (d : ImageDecl) : Policy := ⟨1, 64, 0, 16, 8, 0, BitVec.ofNat 3 d.maxStep⟩

def newModel (img : Image) (f : Func) (at_ : Nat) (size : Nat) (quant : Bool) : Model :=
  { digest := digestOf img.obj, decl := img.decl, owner := f, users := [f], faulted := false, loading := true
    imageAt := at_, imageSize := size, weightsAt := [], signed := if quant then some img.obj.bytes else none, pegs := pegInit img.decl 0, policy := policyDefault img.decl
    promRun := 0, lvlEpoch := 0, signVectors := img.decl.spread.map fun t => (t.2, signVector img.decl.modelKey t.1)
    tele := ⟨0, 0, 0, 0, [], [], 0⟩ }

/-! ### model.load (R318, R319, R400) -/

def imageOk (s : State) (img : Image) : Bool := objOk s.fuses img.obj 3 && modelDeclOk img.decl

/-- The slot that holds the image of a digest. -/
def slotOfDigest (s : State) (d : BitVec 384) : Option ModelSlot :=
  (s.models.find? fun m => decide (m.2.digest = d)).map fun m => BitVec.ofNat 6 m.1

/-- The checks of the default partition (R318 steps 4 and 5). -/
def defaultChecks (s : State) (f : Func) (d : ImageDecl) (noplace weights : Bool) (ch : PlaceChoice) : List (Bool × BitVec 16) :=
  if noplace then []
  else match defaultPart s f with
    | none => [(true, stNO_PARTITION)]
    | some p => placeChecks s p d weights ch

/-- A course that no partition holds. -/
def anyFreeCourse (s : State) : Bool := allCourses.any fun k => (partOfCourse s k).isNone

/-- The result payload of a load (Table 15-3). -/
def loadRes (slot : ModelSlot) (shared : Bool) (job : JobNo) (digest : BitVec 384) : Nat :=
  slot.toNat + (if shared then 2 ^ 8 else 0) + job.toNat * 2 ^ 16 + digest.toNat % 2 ^ 64 * 2 ^ 64

/-- Places the model on the default partition, where asked; the state and the job. -/
def placeDefault (s : State) (f : Func) (m : ModelSlot) (noplace : Bool) (ch : PlaceChoice) : Option (State × JobNo) :=
  if noplace then some (s, 0)
  else match defaultPart s f, getModel s m with
    | some p, some y => if choiceOk s p y.decl y.weightsAt.isEmpty ch then some (placeModel s p m y ch, ch.job) else none
    | _, _ => none

/-- What a load in progress holds. -/
def loadObjs (s : State) (f : Func) (m : ModelSlot) (noplace : Bool) (j : JobNo) : List Obj :=
  if noplace then [.model m] else match defaultPart s f with | some p => [.model m, .part p, .job p j] | none => [.model m]

/-- The load goes on with the model in its slot: the issuer is a user, the placement is reserved. -/
def loadInto (s : State) (f : Func) (t : Taken) (m : ModelSlot) (shared noplace : Bool) (ch : PlaceChoice) : Option State :=
  match getModel s m, placeDefault s f m noplace ch with
  | some y, some (s', j) =>
    let s' := modModel s' m fun z => { z with users := if z.users.contains f then z.users else z.users ++ [f] }
    some { s' with inProgress := s'.inProgress ++ [⟨f, t.tag, t.opcode, loadObjs s f m noplace j, false, noplace, loadRes m shared j y.digest⟩] }
  | _, _ => none

/-- A first load: the image takes its slot and its place. -/
def loadNew (s : State) (f : Func) (t : Taken) (img : Image) (noplace quant : Bool) (ch : LoadChoice) : Option State :=
  let bytes := imageBytes img quant
  match ch.imageAt with
  | none => none
  | some a =>
    if (getModel s ch.slot).isSome ∨ spaceOk s tier1Base tier2Base a (pages bytes.length) = false then none
    else
      let s := setModel s ch.slot (newModel img f a bytes.length quant)
      let s := { devWrite s a bytes with regions := s.regions ++ [⟨a, pages bytes.length, .model ch.slot⟩] }
      loadInto s f t ch.slot false noplace ch.place

/-- A faulted model as its reload leaves it: the users and streams stay, its weights are placed anew, and every index starts anew (R205, R400). -/
def reloadModel (y : Model) (img : Image) (quant : Bool) : Model :=
  { y with
    loading := true, weightsAt := [], signed := if quant then some img.obj.bytes else none
    pegs := pegInit y.decl y.policy.step.toNat, promRun := 0 }

/-- A faulted image is reloaded into its slot (R400). Its old weights in tier 0 are given up; a verified region is not written (R360). -/
def loadAgain (s : State) (f : Func) (t : Taken) (m : ModelSlot) (y : Model) (img : Image) (noplace quant : Bool) (ch : LoadChoice) : Option State :=
  let s := releaseRegions s fun r => decide (r.use = .model m) && decide (r.base ≠ y.imageAt)
  let s := devWrite (setModel s m (reloadModel y img quant)) y.imageAt (imageBytes img quant)
  loadInto s f t m true noplace ch.place

/-- A first load of a resident image waits for a load of the slot that is in progress (R319). -/
def loadWaits (s : State) (m : ModelSlot) : Bool := s.inProgress.any fun q => decide (q.opcode = 0x0101) && q.objs.contains (.model m)

/-- The slot is held by another command than a load. -/
def slotBusy (s : State) (m : ModelSlot) : Bool := s.inProgress.any fun q => decide (q.opcode ≠ 0x0101) && q.objs.contains (.model m)

/-- The image is of the length that the command gives. -/
def lengthIs (img : Option Image) (n : Nat) : Bool := match img with | some i => decide (i.obj.bytes.length = n) | none => true

def execModelLoad (f : Func) (img : Option Image) (ch : LoadChoice) (dt : Nat) (s : State) : Host.Outcome State Fault Refusal :=
  runCmd f 0x0101 dt s fun t s =>
    let quant := argB t 104
    let noplace := argB t 105
    checked s f t ([((quant || noplace) && !isExpert s f, stLEVEL),
        (argsBad t 14 [(63, 0), (103, 64), (104, 104), (105, 105)] || decide (argF t 63 0 % 64 ≠ 0) || decide (argF t 103 64 = 0), stMALFORMED)]) <|
    if !lengthIs img (argF t 103 64) then none
    else match img with
    | none => some (noteHostFault (refuseCmd s f t stHOST_FAULT))
    | some img =>
      checked s f t [(!imageOk s img, stIMAGE_INVALID)] <|
      match slotOfDigest s (digestOf img.obj) with
      | some m =>
        match getModel s m with
        | none => none
        | some y =>
          if loadWaits s m then
            some { s with inProgress := s.inProgress ++ [⟨f, t.tag, t.opcode, [.model m], true, noplace, 0⟩] }
          else
            checked s f t ((slotBusy s m, stBUSY) :: defaultChecks s f y.decl noplace (y.faulted || y.weightsAt.isEmpty) ch.place ++
                [(y.faulted && quant && !anyFreeCourse s, stNO_COURSE)]) <|
              if y.faulted then loadAgain s f t m y img noplace quant ch else loadInto s f t m true noplace ch.place
      | none =>
        checked s f t ((decide (64 ≤ s.models.length), stMODEL_FULL) :: defaultChecks s f img.decl noplace true ch.place ++
          [(quant && !anyFreeCourse s, stNO_COURSE),
           (ch.imageAt.isNone && !hasSpace s tier1Base tier2Base (paged [pages img.obj.bytes.length]), stTIER_FULL)]) <|
          loadNew s f t img noplace quant ch

/-- The model slot that a command in progress holds. -/
def slotOfObjs (l : List Obj) : Option ModelSlot := l.findSome? fun o => match o with | .model m => some m | _ => none

/-- The load of `q` completes: the image is resident, or the waiting load places it (R319). -/
def completeLoad (s : State) (q : InProgress) (m : ModelSlot) (y : Model) (ch : PlaceChoice) : Option State :=
  let s' := { s with inProgress := s.inProgress.filter fun r => decide (r ≠ q) }
  if !q.waits then
    let s' := modModel s' m fun z => { z with loading := false, faulted := false }
    some (postResult s' q.f q.opcode q.tag stOK q.res)
  else if y.loading then none
  else
    match firstBad (defaultChecks s' q.f y.decl q.noplace y.weightsAt.isEmpty ch) with
    | some st => some (postResult s' q.f q.opcode q.tag st 0)
    | none =>
      match placeDefault s' q.f m q.noplace ch with
      | none => none
      | some (s'', j) =>
        let s'' := modModel s'' m fun z => { z with users := if z.users.contains q.f then z.users else z.users ++ [q.f] }
        some (postResult s'' q.f q.opcode q.tag stOK (loadRes m true j y.digest))

def execModelLoadComplete (f : Func) (tag : BitVec 16) (ch : PlaceChoice) (dt : Nat) (s : State) : Host.Outcome State Fault Refusal :=
  .next (match s.inProgress.find? fun q => decide (q.f = f) && decide (q.tag = tag) && decide (q.opcode = 0x0101) with
    | none => s
    | some q =>
      match slotOfObjs q.objs with
      | none => s
      | some m =>
        match getModel s m with
        | none => s
        | some y => if rtRuns s then (completeLoad (tick s dt) q m y ch).getD s else s)

/-! ### model.unload (R320) -/

/-- The function's placements of a model. -/
def placementsOf (s : State) (f : Func) (m : ModelSlot) : List (PartId × JobNo) :=
  allParts.flatMap fun p =>
    let x := getPart s p
    if x.valid ∧ x.owner = f then (x.jobs.filter fun b => decide (b.kind = .placement m)).map fun b => (p, b.num) else []

/-- Is the function a user of the slot? -/
def usesModel (s : State) (f : Func) (m : ModelSlot) : Bool := match getModel s m with | some y => y.users.contains f | none => false

/-- A stream of the function names the model (R45). -/
def modelHeld (s : State) (f : Func) (m : ModelSlot) : Bool :=
  s.streams.any fun x => decide (x.2.state ≠ .free) && decide (x.2.client = f) && decide (x.2.model = m)

def execModelUnload (f : Func) (dt : Nat) (s : State) : Host.Outcome State Fault Refusal :=
  runCmd f 0x0102 dt s fun t s =>
    let m : ModelSlot := BitVec.ofNat 6 (argF t 5 0)
    checked s f t [(argsBad t 1 [(5, 0)], stMALFORMED), (busy s (.model m), stBUSY), (!usesModel s f m, stMODEL_STATE), (modelHeld s f m, stMODEL_BUSY)] <|
      let js := placementsOf s f m
      let s := dropUser s m f
      let s := js.foldl (fun s k => triggerReclaim s k.1 k.2 rsREMOVED) s
      some (settleProgress { s with inProgress := s.inProgress ++ [⟨f, t.tag, t.opcode, .model m :: js.map (fun k => .job k.1 k.2), false, false, 0⟩] })

/-! ### model.place (R326) -/

def execModelPlace (f : Func) (ch : PlaceChoice) (dt : Nat) (s : State) : Host.Outcome State Fault Refusal :=
  runCmd f 0x0203 dt s fun t s =>
    let m : ModelSlot := BitVec.ofNat 6 (argF t 5 0)
    let p := argPart t 12 8
    checked s f t (levelChecks s f true false ++
      [(argsBad t 2 [(5, 0), (12, 8)], stMALFORMED), (busy s (.model m) || busy s (.part p), stBUSY),
       (!usesModel s f m || (match getModel s m with | some y => y.faulted | none => true), stMODEL_STATE),
       (partAbsent s p, stPART_STATE), (notMine s f p, stNOT_OWNER)]) <|
    match getModel s m with
    | none => none
    | some y =>
      checked s f t (placeChecks s p y.decl y.weightsAt.isEmpty ch) <|
        if choiceOk s p y.decl y.weightsAt.isEmpty ch then some (okCmd (placeModel s p m y ch) f t ch.job.toNat) else none

/-! ### quant.policy (R209, R210, R329) -/

/-- The policy with the parameters whose mask bit is 1 taken from the arguments. -/
def policyFrom (t : Taken) (c : Policy) : Policy :=
  let k (i : Nat) : Bool := argB t (8 + i)
  { mode := if k 0 then BitVec.ofNat 2 (argF t 7 6) else c.mode, hiNum := if k 1 then BitVec.ofNat 16 (argF t 31 16) else c.hiNum
    loNum := if k 2 then BitVec.ofNat 16 (argF t 47 32) else c.loNum, nUnder := if k 3 then BitVec.ofNat 8 (argF t 55 48) else c.nUnder
    promWin := if k 4 then BitVec.ofNat 8 (argF t 63 56) else c.promWin, step := if k 5 then BitVec.ofNat 3 (argF t 66 64) else c.step
    stepMax := if k 6 then BitVec.ofNat 3 (argF t 69 67) else c.stepMax }

/-- The ranges of Table 9-11. -/
def policyOk (maxStep : Nat) (c : Policy) : Bool :=
  decide (c.mode ≠ 3) && decide (1 ≤ c.hiNum.toNat) && decide (c.loNum.toNat ≤ c.hiNum.toNat) && decide (1 ≤ c.nUnder.toNat) &&
  decide (c.step.toNat ≤ maxStep) && decide (c.step.toNat ≤ c.stepMax.toNat) && decide (c.stepMax.toNat ≤ maxStep)

/-- The policy in the argument layout, mask 0 (Table 15-8). -/
def policyRes (m : ModelSlot) (c : Policy) : Nat :=
  m.toNat + c.mode.toNat * 2 ^ 6 + c.hiNum.toNat * 2 ^ 16 + c.loNum.toNat * 2 ^ 32 + c.nUnder.toNat * 2 ^ 48 + c.promWin.toNat * 2 ^ 56 +
  c.step.toNat * 2 ^ 64 + c.stepMax.toNat * 2 ^ 67

/-- A new policy takes effect: a step change restarts the tensors whose format changes (R210). -/
def setPolicy (y : Model) (c : Policy) : Model :=
  if c.step = y.policy.step then { y with policy := c } else { setStep y c.step.toNat with policy := c }

def execQuantPolicy (f : Func) (dt : Nat) (s : State) : Host.Outcome State Fault Refusal :=
  runCmd f 0x0207 dt s fun t s =>
    let m : ModelSlot := BitVec.ofNat 6 (argF t 5 0)
    checked s f t (levelChecks s f true false ++ [(argsBad t 9 [(5, 0), (7, 6), (14, 8), (31, 16), (47, 32), (55, 48), (63, 56), (66, 64), (69, 67)], stMALFORMED)]) <|
    match getModel s m with
    | none => some (refuseCmd s f t stMODEL_STATE)
    | some y =>
      let c := policyFrom t y.policy
      checked s f t [(!policyOk y.decl.maxStep c, stMALFORMED), (busy s (.model m), stBUSY), (decide (y.owner ≠ f), stNOT_OWNER),
          (decide (c.mode = 2) && !(y.decl.variants.any fun v => v.twoPass), stNO_TWO_PASS)] <|
        some (okCmd (setModel s m (setPolicy y c)) f t (policyRes m c))

end Sys2Proof.Machine
end

