-- ==== Sys2Proof/Machine/Partitions.lean ====
section
/-! DEFINITION. Firmware commands over partitions and jobs: create, destroy, remove, move, slice, program submission (R275 to R280,
R325 to R328, R330). -/

namespace Sys2Proof.Machine
open Sys2Proof

/-- The partition checks of a command that its owner alone may give. -/
def partChecks (s : State) (f : Func) (p : PartId) : List (Bool × BitVec 16) := [(partAbsent s p, stPART_STATE), (notMine s f p, stNOT_OWNER)]

/-! ### partition.create (R275, R276, R325) -/

def createBad (t : Taken) : Bool :=
  argsBad t 8 [(31, 0), (36, 32), (38, 37), (39, 39), (48, 40)] || decide (argF t 31 0 = 0) || decide (argF t 38 37 = 3) || decide (500 < argF t 48 40)

/-- A named course belongs to a partition. -/
def coursesTaken (s : State) (mask : Nat) : Bool := allCourses.any fun k => mask.testBit k.toNat && (partOfCourse s k).isSome

/-- The monitor's three steps: fence, drone groups, sealing keys. -/
def createPart (s : State) (t : Taken) (p : PartId) : State :=
  let owner := argFn t 36 32
  let x := getPart s p
  let g := argF t 48 40
  let groups : BitVec 2 := BitVec.ofNat 2 (argF t 38 37)
  let s := if argB t 39 then forAll allParts (fun s q => if (getPart s q).owner = owner then modPart s q fun y => { y with dflt := false } else s) s else s
  let s := setPart s p { Part.reset with
    courses := BitVec.ofNat 32 (argF t 31 0), valid := true, drone := groups, owner := owner, dflt := argB t 39
    grace := if g = 0 then 20 else g, idleFrom := some s.time, idleSince := some s.time
    t0 := x.t0, t1 := x.t1, t2 := x.t2, br := x.br, qReqs := x.qReqs, qWait := x.qWait }
  let s := forAll (partCores (getPart s p)) (fun s c => modCore s c fun y => setDrone { y with spTask := .reset } groups) s
  let s := { s with mon := { s.mon with keys := tset s.mon.keys p.toNat (Config.entropy s.free) }, free := s.free + 1 }
  answer (answer (answer s opFENCE false) opDRONE false) opKEYS false

def execPartitionCreate (f : Func) (p : PartId) (dt : Nat) (s : State) : Host.Outcome State Fault Refusal :=
  runCmd f 0x0201 dt s fun t s =>
    checked s f t (levelChecks s f true true ++
      [ (createBad t, stMALFORMED), (argFn t 36 32 ≠ 0 && !(getFn s (argFn t 36 32)).enabled, stFUNC_STATE)
      , (coursesTaken s (argF t 31 0), stCOURSE_BUSY), (allParts.all fun q => (getPart s q).valid, stPART_LIMIT) ]) <|
      if !s.mon.entropyOk then some (refuseCmd (answer s opKEYS true) f t Config.entropyStatus)
      else if (getPart s p).valid then none
      else some (okCmd (createPart s t p) f t p.toNat)

/-! ### partition.destroy, job.remove -/

def execPartitionDestroy (f : Func) (dt : Nat) (s : State) : Host.Outcome State Fault Refusal :=
  runCmd f 0x0202 dt s fun t s =>
    let p := argPart t 4 0
    checked s f t (levelChecks s f true true ++ [(argsBad t 1 [(4, 0)], stMALFORMED), (busy s (.part p), stBUSY), (partAbsent s p, stPART_STATE)]) <|
      let s := modPart s p fun x => { x with destroying := true }
      let s := ((getPart s p).jobs.map (·.num)).foldl (fun s j => triggerReclaim s p j rsDESTROYED) s
      let s := { s with inProgress := s.inProgress ++ [⟨f, t.tag, t.opcode, [], false, false, p.toNat⟩] }
      some (settleProgress (endDestroy s p))

def execJobRemove (f : Func) (dt : Nat) (s : State) : Host.Outcome State Fault Refusal :=
  runCmd f 0x0204 dt s fun t s =>
    let p := argPart t 4 0
    let j := BitVec.ofNat 16 (argF t 31 16)
    checked s f t (levelChecks s f true false ++
      [(argsBad t 4 [(4, 0), (31, 16)], stMALFORMED), (busy s (.part p) || busy s (.job p j), stBUSY)] ++ partChecks s f p ++
      [((findJob (getPart s p) j).isNone, stJOB_STATE)]) <|
      some { triggerReclaim s p j rsREMOVED with inProgress := s.inProgress ++ [⟨f, t.tag, t.opcode, [.job p j], false, false, 0⟩] }

/-! ### job.move (R98, R277, R327) -/

/-- A task of the job is bound and not stopped at a meet. -/
def jobRunning (x : Part) (j : JobNo) : Bool := match x.task with | some t => decide (t.job = j) && !x.atMeet | none => false

/-- The context that a move to another course count would lose (R98). -/
def ctxHolds (b : Job) : Bool := match b.ctx with | some c => decide (c.liveKib ≠ 0) | none => false

/-- Tier 0 lacks space for the declared regions of a job that moves: those that it has are its own and move with it. -/
def moveFull (s : State) (d : ImageDecl) (b : Job) : Bool :=
  decide (b.regions.map (·.2) ≠ placeSizes d true) && !hasSpace s 0 tier1Base (paged (placeSizes d true))

/-- Checks 2, 4 and 5 of Table 13-2 at the destination (R327). Check 1 is none of them: with no variant for the destination's course count there
is no bound to check, and the job does not run there (log 120). -/
def moveChecks (s : State) (q : PartId) (d : ImageDecl) (b : Job) : List (Bool × BitVec 16) :=
  let x := getPart s q
  [ ((match placeVariant d (partCourses x).length with | some v => planBad x v | none => false), stSP_PLAN)
  , (moveFull s d b, stTIER_FULL), (decide (16 ≤ x.jobs.length), stJOB_LIMIT) ]

/-- A grant entry under another partition and job. -/
def regrant (e : BitVec 128) (q : PartId) (k : JobNo) : BitVec 128 :=
  BitVec.ofNat 128 (e.toNat - nfld e.toNat 86 66 * 2 ^ 66 + (q.toNat + k.toNat * 2 ^ 5) * 2 ^ 66)

/-- Grants, their pages' holders, regions and windows of a job go to another partition. -/
def moveHoldings (s : State) (p : PartId) (j : JobNo) (q : PartId) (k : JobNo) : State :=
  let mine (e : BitVec 128) : Bool := decide (gPart e = p) && decide (gJob e = j)
  let s := (s.mon.grants.filter mine).foldl (fun s e =>
    if entryHolder e = .part p j then setHolder s (gBase e) (gSize e) (.part q k) else s) s
  { s with
    mon := { s.mon with grants := s.mon.grants.map fun e => if mine e then regrant e q k else e }
    regions := s.regions.map fun r => if r.use = .job p j then { r with use := .job q k } else r
    br := { s.br with wins := s.br.wins.map fun w => if w.2.part = p ∧ w.2.job = j then (w.1, { w.2 with part := q, job := k }) else w } }

/-- The job as it goes on at the destination: it resumes there from its context, or restarts on the variant for another
course count. -/
def movedJob (b : Job) (k : JobNo) (same : Bool) : Job := if same then { b with num := k } else { b with num := k, ctx := none, stopped := none }

def moveJob (s : State) (p : PartId) (j : JobNo) (q : PartId) (k : JobNo) : State :=
  let s := if (getPart s p).task.isSome ∧ (getPart s p).job = j then parkTask s p else s
  match findJob (getPart s p) j with
  | none => s
  | some b =>
    let same := decide ((partCourses (getPart s p)).length = (partCourses (getPart s q)).length)
    let s := modPart s p fun x => { x with jobs := x.jobs.filter fun c => decide (c.num ≠ j) }
    let s := modPart s q fun x => { x with jobs := insertJob (movedJob b k same) x.jobs }
    let s := match (b.ctx.bind (·.place)).filter (fun _ => !same) with
      | some a => releaseRegions s fun r => decide (r.base = a.1 ∧ r.use = .job p j)
      | none => s
    moveHoldings s p j q k

def execJobMove (f : Func) (ch : PlaceChoice) (dt : Nat) (s : State) : Host.Outcome State Fault Refusal :=
  runCmd f 0x0205 dt s fun t s =>
    let p := argPart t 4 0
    let q := argPart t 36 32
    let j := BitVec.ofNat 16 (argF t 31 16)
    checked s f t (levelChecks s f true false ++
      [(argsBad t 5 [(4, 0), (31, 16), (36, 32)], stMALFORMED), (busy s (.part p) || busy s (.part q) || busy s (.job p j), stBUSY)] ++
      partChecks s f p ++ partChecks s f q) <|
    match findJob (getPart s p) j with
    | none => some (refuseCmd s f t stJOB_STATE)
    | some b =>
      match b.kind with
      | .placement _ => some (refuseCmd s f t stJOB_STATE)
      | .program d =>
        let same := decide ((partCourses (getPart s p)).length = (partCourses (getPart s q)).length)
        checked s f t ([(jobRunning (getPart s p) j || b.crashed.isSome || b.ended, stJOB_STATE), (!same && ctxHolds b, stCOURSE_COUNT)] ++
          moveChecks s q d b) <|
          if jobFree s q ch.job then some (okCmd (moveJob s p j q ch.job) f t ch.job.toNat) else none

/-! ### sched.slice (R280, R284, R328) -/

def sliceBad (t : Taken) : Bool :=
  argsBad t 9 [(4, 0), (31, 16), (34, 32), (56, 40), (65, 57), (69, 66)] ||
  (argB t 32 && (decide (argF t 56 40 < 1000) || decide (100000 < argF t 56 40))) ||
  (argB t 33 && (decide (argF t 31 16 ≠ 0) || decide (argF t 65 57 < 1) || decide (500 < argF t 65 57))) || (argB t 34 && decide (argF t 69 66 = 0))

/-- The masked values of a job. -/
def sliceJob (t : Taken) (b : Job) : Job :=
  { b with sliceUs := if argB t 32 then argF t 56 40 else b.sliceUs, hsNext := if argB t 34 then argF t 69 66 else b.hsNext }

def setSlice (s : State) (t : Taken) (p : PartId) (j : JobNo) : State :=
  if j ≠ 0 then modJob s p j (sliceJob t)
  else modPart s p fun x => { x with
    sliceUs := if argB t 32 then argF t 56 40 else x.sliceUs, grace := if argB t 33 then argF t 65 57 else x.grace
    hsLimit := if argB t 34 then argF t 69 66 else x.hsLimit, jobs := x.jobs.map (sliceJob t) }

def execSchedSlice (f : Func) (dt : Nat) (s : State) : Host.Outcome State Fault Refusal :=
  runCmd f 0x0206 dt s fun t s =>
    let p := argPart t 4 0
    let j := BitVec.ofNat 16 (argF t 31 16)
    checked s f t (levelChecks s f true false ++ [(sliceBad t, stMALFORMED), (busy s (.part p) || busy s (.job p j), stBUSY)] ++ partChecks s f p ++
      [(decide (j ≠ 0) && (findJob (getPart s p) j).isNone, stJOB_STATE)]) <| some (okCmd (setSlice s t p j) f t 0)

/-! ### program.submit (R225, R226, R278, R330, R425) -/

/-- A program is sound: signed, every declaration in its range, no drone allotment. -/
def programOk (s : State) (img : Image) : Bool := objOk s.fuses img.obj 4 && programDeclOk img.decl

/-- The job of a program: its bytes stand in the first of its regions. -/
def submitJob (s : State) (p : PartId) (img : Image) (seed : W64) (ch : PlaceChoice) : State :=
  let s := createJob s p img.decl (.program img.decl) (deriveKey seed 0x10000) true [] ch
  match (ch.regions.getD []).head? with
  | some a => { s with mem := Memory.wrs s.mem a (img.obj.bytes.take (pages img.decl.weightBytes)) }
  | none => s

def execProgramSubmit (f : Func) (img : Option Image) (ch : PlaceChoice) (dt : Nat) (s : State) : Host.Outcome State Fault Refusal :=
  runCmd f 0x0208 dt s fun t s =>
    let p := argPart t 100 96
    checked s f t (levelChecks s f true false ++
      [(argsBad t 24 [(63, 0), (95, 64), (100, 96), (191, 128)] || decide (argF t 63 0 % 64 ≠ 0), stMALFORMED), (busy s (.part p), stBUSY)]) <|
    if !lengthIs img (argF t 95 64) then none
    else match img with
    | none => some (refuseCmd (noteHostFault s) f t stHOST_FAULT)
    | some img =>
      checked s f t ((!programOk s img, stIMAGE_INVALID) :: partChecks s f p ++ placeChecks s p img.decl true ch) <|
        if choiceOk s p img.decl true ch then
          some (okCmd (submitJob s p img (BitVec.ofNat 64 (argF t 191 128)) ch) f t ch.job.toNat)
        else none

end Sys2Proof.Machine
end

