-- ==== Sys2Proof/Machine/SbOps.lean ====
section
/-! DEFINITION. The soundboard: pre-emphasis and dither, frames, readiness of chunks, the padding of a drained close, profiles
(R52 to R68). -/

namespace Sys2Proof.Machine
open Sys2Proof

/-! ### Pre-emphasis and dither (R57) -/

/-- z[n] from y[n] and y[n − 1]. -/
def preDither (d : SbDecl) (key : W64) (n : BitVec 52) (y yPrev : W32) : W32 :=
  let e := if d.preemph = 0 then y else iFma (rdI ⟨-(d.preemph.toNat : Int), -16⟩ false) yPrev y
  if d.dither = 0 then e
  else
    let u := mix key (0xFF0#12 ++ n)
    iAdd e (rdI ⟨(nfld u.toNat 11 0 : Int) - (nfld u.toNat 23 12 : Int), -(12 + d.dither.toNat : Int)⟩ false)

/-- A model-rate sample enters the partial frame. -/
def sbSample (d : SbDecl) (key : W64) (padded : Bool) (c : SbCtx) (y : W32) : SbCtx :=
  { c with yPrev := y, n := c.n + 1, zbuf := c.zbuf ++ [preDither d key c.n y c.yPrev], hop := c.hop + 1, padded := c.padded || padded }

/-- One input sample is taken. -/
def sbTake (p : Profile) (key : W64) (c : SbCtx) (v : Conv) : SbCtx :=
  let ys := resample (rateOf p.inRate.toNat) (modelRate p.sb) c.taken c.n.toNat v.x c.hist
  let c := { c with
    hist := (firTaps v.x c.hist).take 31, taken := c.taken + 1
    clipped := c.clipped || v.clipped, nonfinite := c.nonfinite || v.nonfinite }
  ys.foldl (sbSample p.sb key false) c

/-! ### A frame (R58 to R60) -/

/-- Window coefficients, each rounded once. -/
def winCoef (d : SbDecl) (i : Nat) : W32 :=
  let c := fxCos i (winLen d - 1)
  match d.window.toNat with
  | 0 => rdI ⟨fxOne - c, -(fxBits : Int) - 1⟩ false
  | 1 => rdI ⟨(27 * fxOne - 23 * c) * 2 ^ 64 / 50, -(fxBits : Int) - 64⟩ false
  | _ => f32One

def evens {α : Type} : List α → List α
  | [] => []
  | [a] => [a]
  | a :: _ :: r => a :: evens r

def odds {α : Type} : List α → List α
  | [] => []
  | [_] => []
  | _ :: b :: r => b :: odds r

/-- A butterfly: the sum and the difference. -/
def butterfly (k span : Nat) (a b : W32 × W32) : (W32 × W32) × (W32 × W32) :=
  let wr := rdI (dyCos k span) false
  let wi := rdI (dyNeg (dyCos (4 * k + 3 * span) (4 * span))) false
  let tr := iFma wr b.1 (f32Flip (iMul wi b.2))
  let ti := iFma wr b.2 (iMul wi b.1)
  ((iAdd a.1 tr, iAdd a.2 ti), (iSub a.1 tr, iSub a.2 ti))

/-- Radix-2 decimation in time of 2^k points. -/
def fftDit : Nat → List (W32 × W32) → List (W32 × W32)
  | 0, l => l
  | k + 1, l =>
    let r := ((fftDit k (evens l)).zip (fftDit k (odds l))).zipIdx.map fun (x, i) => butterfly i (2 ^ (k + 1)) x.1 x.2
    r.map (·.1) ++ r.map (·.2)

/-- P[k] of a window of samples (R58, steps 1 to 3). -/
def framePower (d : SbDecl) (z : List W32) : List W32 :=
  let s := z.zipIdx.map fun (x, i) => iMul (winCoef d i) x
  let s := (s ++ List.replicate (fftLen d) 0).take (fftLen d)
  ((fftDit (7 + d.fft.toNat) (s.map fun x => (x, (0 : W32)))).take (fftLen d / 2 + 1)).map fun x => iFma x.1 x.1 (iMul x.2 x.2)

/-- ln(max(x, 2^−floor)) rounded once (R58, steps 5 and 7). -/
def logFloor (floor : Nat) (x : W32) : W32 :=
  let f : W32 := rdI ⟨1, -(floor : Int)⟩ false
  let v := f32Val (if f32Key x < f32Key f then f else x)
  rdI ⟨fxLn (v.m * (2 ^ ((fxBits : Int) + v.e).toNat : Nat)), -(fxBits : Int)⟩ false

/-- The highest mel edge in Hz. -/
def melHi (d : SbDecl) : Nat := if d.fHi = 0 then modelRate d / 2 else 4 * d.fHi.toNat

/-- ln(1 + f / 700) for f = a / b Hz: the mel scale, but for its factor 1127, which the edge points do not depend on. -/
def lnMel (a b : Nat) : Int := fxLn (((700 * b + a : Nat) : Int) * fxOne / ((700 * b : Nat) : Int))

/-- The edge point f_i in Hz (Table 3-5); the outermost two are f_lo and f_hi themselves. -/
def melEdge (d : SbDecl) (i : Nat) : Int :=
  let m := melOf d + 1
  if i = 0 then (d.fLo.toNat : Int) * fxOne
  else if i = m then (melHi d : Int) * fxOne
  else
    let lo := lnMel d.fLo.toNat 1
    700 * (fxExp (lo + ((i : Nat) : Int) * (lnMel (melHi d) 1 - lo) / (m : Int)) - fxOne)

/-- The weight of a filter with edges `a`, `b`, `c` at the frequency `f` (Table 3-5). -/
def melWeight (a b c f : Int) : W32 :=
  if a < f ∧ f ≤ b then coefOf (fxDiv (f - a) (b - a))
  else if b < f ∧ f < c then coefOf (fxDiv (c - f) (c - b))
  else 0

/-- E[j] (R58, step 4): W[j][k] · P[k] by fma in ascending k, at the bin frequencies k · fs / N. -/
def melSum (d : SbDecl) (j : Nat) (p : List W32) : W32 :=
  let a := melEdge d j
  let b := melEdge d (j + 1)
  let c := melEdge d (j + 2)
  p.zipIdx.foldl (fun (e : W32) x => iFma (melWeight a b c (((x.2 * modelRate d : Nat) : Int) * fxOne / (fftLen d : Int))) x.1 e) 0

/-- What a frame holds. -/
structure FrameOut where
  o : List W32
  energy : W32
  mu : List W32
  deriving DecidableEq, Repr

/-- R58 and R59 on the samples of a frame. -/
def frameOut (d : SbDecl) (muSet : Bool) (mu : List W32) (z : List W32) : FrameOut :=
  let p := framePower d z
  let fl := d.floorExp.toNat
  let v := (List.range (melOf d)).map fun j => logFloor fl (melSum d j p)
  let e := logFloor fl (p.foldl iAdd 0)
  if d.norm = 0 then ⟨v, e, mu⟩
  else if !muSet then ⟨v.map fun _ => 0, e, v⟩
  else
    let beta := rdI ⟨1, -(d.norm.toNat : Int)⟩ false
    let dv := (v.zip mu).map fun x => iSub x.1 x.2
    ⟨dv, e, (dv.zip mu).map fun x => iFma beta x.1 x.2⟩

/-- e_f < sil_thr. -/
def belowThr (e thr : W32) : Bool := !f32IsNan thr && decide (f32Key e < f32Key thr)

/-- silent_run after the frame (R60). -/
def silentNext (p : Profile) (e : W32) (run : BitVec 16) : BitVec 16 :=
  if p.silEn && belowThr e p.silThr then satAdd run 1 else 0

/-- The slot of a frame (R60, Table 3-4). -/
def frameSlot (d : SbDecl) (c : SbCtx) (o : List W32) (e : W32) (run : BitVec 16) : List Byte :=
  let b (x : Bool) (i : Nat) : Nat := if x then 2 ^ i else 0
  let t := c.frame.toNat + e.toNat * 2 ^ 32 + run.toNat * 2 ^ 64 + b c.clipped 80 + b c.nonfinite 81 + b c.padded 82
  fitBytes (slotBytes d - 16) (o.flatMap fun v => leBytes 4 v.toNat) ++ leBytes 16 t

/-! ### Streams and the soundboard -/

def sbStreamOn (x : Stream) : Bool := decide (x.state ≠ .free)

/-- The feature ring is full (R62). -/
def ringFull (x : Stream) : Bool := decide (frFrames x ≤ (x.frWr - x.frRd).toNat)

/-- Whole samples in the inbox (R55). -/
def inboxSamples (p : Profile) (x : Stream) : Nat := ibHeld x / sampleBytes p.inFmt.toNat

/-- The bytes of the next sample; it may wrap. -/
def nextSample (s : State) (x : Stream) (n : Nat) : List Byte :=
  (List.range n).map fun i => Memory.rd s.mem (ibAddr x + (x.ibRd.toNat + i) % ibBytes x)

/-- What was counted in the last 100 ms. -/
def loadSum (now : W64) (l : List (W64 × Nat)) : Nat := ((l.filter (inWindow now)).map (·.2)).sum

def frameLoad (s : State) : W32 := BitVec.ofNat 32 (loadSum s.time s.sbtm.frames / 2)
def sampleLoad (s : State) : W32 := BitVec.ofNat 32 (loadSum s.time s.sbtm.samples / 1000)

/-- Counts of Table 3-6. -/
def sbCount (s : State) (v : Conv) : State :=
  { s with sbtm := { s.sbtm with
    nonfinite := if v.nonfinite then satAdd s.sbtm.nonfinite 1 else s.sbtm.nonfinite
    clip := if v.clipped then satAdd s.sbtm.clip 1 else s.sbtm.clip, samples := noteLoad s.time 1 s.sbtm.samples } }

/-- One more sample of the stream can be taken: a whole one is there, the ring has room (R62), and no complete hop waits
for its frame. Nothing is taken of a stream that migrates to another device (R47, log 114). -/
def mayTakeSample (p : Profile) (x : Stream) : Bool :=
  sbStreamOn x && !x.migrating && decide (0 < inboxSamples p x) && !ringFull x && decide (x.sb.hop < hopLen p.sb)

/-- The pieces of `n` bytes at offset `off` of a ring. -/
def ringPieces (base size off n : Nat) : List (Nat × Nat) :=
  let a := min n (size - off % size)
  if n ≤ a then [(base + off % size, n)] else [(base + off % size, a), (base, n - a)]

/-- A service access to several pieces. -/
def svcGuards (s : State) (write : Bool) (l : List (Nat × Nat)) (ok : State) : State :=
  match l.find? fun x => !svcGrant s write x.1 x.2 with
  | some x => svcGuard s write x.1 x.2 ok
  | none => ok

/-- A byte of the sample lies in a line that was not delivered (R396). -/
def sampleBad (x : Stream) (n : Nat) : Bool :=
  (List.range n).any fun i => let k := x.ibRd + BitVec.ofNat 32 i; x.badLines.contains (k - BitVec.ofNat 32 (k.toNat % 64))

/-- Lines that are still ahead of the read counter. -/
def linesAhead (rd : W32) (l : List W32) : List W32 := l.filter fun k => decide ((k + 63 - rd).toNat < 2 ^ 31)

/-- The next sample as taken: a zero sample where its line was not delivered. -/
def sampleOf (s : State) (p : Profile) (x : Stream) (n : Nat) : Conv :=
  if sampleBad x n then ⟨0, false, false⟩ else convSample p.inFmt.toNat (nextSample s x n)

/-- Takes one sample. -/
def takeSample (s : State) (h : Handle) : State :=
  let x := getStream s h
  let p := profileOf s x
  let n := sampleBytes p.inFmt.toNat
  let v := sampleOf s p x n
  let rd := x.ibRd + BitVec.ofNat 32 n
  svcGuards s false (ringPieces (ibAddr x) (ibBytes x) x.ibRd.toNat n)
    (modStream (sbCount s v) h fun x => { x with sb := sbTake p x.bowKey x.sb v, ibRd := rd, badLines := linesAhead rd x.badLines })

/-- Takes up to `k` samples; a device error ends it. -/
def takeSamples : Nat → State → Handle → State
  | 0, s, _ => s
  | k + 1, s, h =>
    if !s.fatal && mayTakeSample (profileOf s (getStream s h)) (getStream s h) then takeSamples k (takeSample s h) h else s

/-- The frame number at which chunks are counted (R30, R35). -/
def chunkBase (x : Stream) : BitVec 24 := x.discard.getD x.frRd

/-- Frames written beyond the last chunk boundary. -/
def pastBoundary (f : Nat) (x : Stream) : Nat := (x.frWr - chunkBase x).toNat % max 1 f

/-- The close drains: no audio is left to take, and what R63 pads is there. -/
def draining (x : Stream) (p : Profile) : Bool :=
  (match x.closing with | some c => !c.abort && !c.silently | none => false) && decide (x.state = .closing) && decide (x.reserved = 0) &&
  decide (inboxSamples p x = 0)

def padNeeded (s : State) (x : Stream) : Bool :=
  let p := profileOf s x
  draining x p && (decide (0 < x.sb.hop) || decide (pastBoundary (chunkFrames s x) x ≠ 0))

/-- A drained close that has nothing left to pad is so marked; it may then end. -/
def markDrained (s : State) (h : Handle) : State :=
  let x := getStream s h
  if draining x (profileOf s x) && !padNeeded s x then
    modStream s h fun x => { x with closing := x.closing.map fun c => { c with drained := true } }
  else s

/-- Zero samples fill the hop (R63). -/
def padHop (p : Profile) (key : W64) : Nat → SbCtx → SbCtx
  | 0, c => c
  | k + 1, c => padHop p key k (sbSample p.sb key true c 0)

/-- The seq of the chunk that ends at frame fr_wr. -/
def chunkSeq (f : Nat) (x : Stream) : W32 :=
  let j := (x.frWr - chunkBase x).toNat / f
  match x.discard with
  | none => x.nextSeq + BitVec.ofNat 32 (j - 1)
  | some d => x.nextSeq + 1 + BitVec.ofNat 32 ((d - (x.frRd + BitVec.ofNat 24 f)).toNat / f) + BitVec.ofNat 32 (j - 1)

/-- A chunk whose last frame has just been written is ready (R30, R36, R60). -/
def chunkReady (s : State) (h : Handle) : State :=
  let x := getStream s h
  let f := chunkFrames s x
  if f = 0 ∨ pastBoundary f x ≠ 0 then s
  else
    modStream s h fun x => { x with chunks := x.chunks ++
      [⟨chunkSeq f x, s.time, s.time + classDeadline s x.client x.dclass, decide (f ≤ x.sb.silentRun.toNat), 0, 0, []⟩] }

/-- The address of frame slot `fr_wr`. -/
def frameAddr (s : State) (x : Stream) : Nat :=
  frAddr x + 1024 + x.sb.frame.toNat % frFrames x * slotBytes (profileOf s x).sb

/-- The samples of the frame: the last Nw, zeros before the first. -/
def frameSamples (d : SbDecl) (c : SbCtx) : List W32 :=
  let z := c.zbuf.take (c.zbuf.length - (c.hop - hopLen d))
  let z := z.drop (z.length - winLen d)
  List.replicate (winLen d - z.length) 0 ++ z

/-- The context after a frame. -/
def afterFrame (d : SbDecl) (c : SbCtx) (r : FrameOut) (run : BitVec 16) : SbCtx :=
  let keep := winLen d - hopLen d + (c.hop - hopLen d)
  { c with
    zbuf := c.zbuf.drop (c.zbuf.length - keep), hop := c.hop - hopLen d, mu := r.mu, muSet := c.muSet || decide (d.norm ≠ 0)
    silentRun := run, frame := c.frame + 1, clipped := false, nonfinite := false, padded := false }

/-- Computes the frame whose last sample exists: the slot is written whole before fr_wr advances (R61). -/
def computeFrame (s : State) (h : Handle) : State :=
  let x := getStream s h
  let p := profileOf s x
  let d := p.sb
  let r := frameOut d x.sb.muSet x.sb.mu (frameSamples d x.sb)
  let run := silentNext p r.energy x.sb.silentRun
  let b := frameSlot d x.sb r.o r.energy run
  let a := frameAddr s x
  let s' := { s with mem := Memory.wrs s.mem a b, sbtm := { s.sbtm with frames := noteLoad s.time (if d.fft = 3 then 3 else 2) s.sbtm.frames } }
  let s' := modAcct s' x.client fun a => { a with frameUnits := a.frameUnits + (if d.fft = 3 then 3 else 2) }
  svcGuard s true a b.length (endClose (markDrained (chunkReady (modStream s' h fun x =>
    { x with sb := afterFrame d x.sb r run, frWr := x.frWr + 1 }) h) h) h)

/-! ### Discard and reset (R34, R35, R64) -/

/-- Normalisation and silent_run restart at the next frame. -/
def sbRestart (c : SbCtx) : SbCtx := { c with muSet := false, silentRun := 0 }

/-- Resampler history, y[n − 1] and the partial frame are cleared. -/
def sbClear (c : SbCtx) : SbCtx :=
  { c with hist := [], yPrev := 0, zbuf := [], hop := 0, clipped := false, nonfinite := false, padded := false }

/-- All buffered audio and frames are dropped; those after a chunk in a bundle, or after one that was requeued with a drop
pending, wait for its end (R35). -/
def discardAudio (f : Nat) (x : Stream) : Stream :=
  let x := { x with ibRd := x.ibWr, dropReserved := x.reserved, sb := sbClear x.sb }
  if x.inBundle || x.discard.isSome then { x with chunks := x.chunks.take 1, discard := some x.frWr }
  else
    let n := (x.frWr - x.frRd).toNat
    { x with
      frRd := x.frWr, nextSeq := x.nextSeq + BitVec.ofNat 32 (n / max 1 f), firstFrameAbs := x.firstFrameAbs + n, chunks := [], discard := none }

/-! ### Profiles (R52, R53, R68) -/

/-- Every mel filter has a nonzero weight: a bin lies strictly between its outer edges (Table 3-5). -/
def melsOk (d : SbDecl) : Bool :=
  let m := melOf d
  let lo := lnMel d.fLo.toNat 1
  let hi := lnMel (melHi d) 1
  let bins := (List.range (fftLen d / 2 + 1)).map fun k => lnMel (k * modelRate d) (fftLen d) * ((m + 1 : Nat) : Int)
  (List.range m).all fun j =>
    let a := lo * ((m + 1 : Nat) : Int) + (j : Int) * (hi - lo)
    bins.any fun v => decide (a < v) && decide (v < a + 2 * (hi - lo))

/-- The ranges of Table 3-1 and the limits of R53. -/
def profileOk (synth : Bool) (chunkMs : Nat) (p : Profile) : Bool :=
  let d := p.sb
  decide (p.inFmt.toNat ≤ 4) && decide (p.inRate.toNat ≤ 6) && decide (d.modelRate ≠ 3) &&
  (decide (p.outFmt = 7) || (decide (p.outFmt.toNat ≤ 4) && decide (p.outRate.toNat ≤ 6) && synth)) && decide (d.window ≠ 3) &&
  decide (9 ≤ d.winM1.toNat) && decide (5 ≤ d.hopMs.toNat) && decide (d.hopMs.toNat ≤ 20) && decide (39 ≤ d.melM1.toNat) &&
  decide (1 ≤ d.floorExp.toNat) && decide (d.floorExp.toNat ≤ 126) && decide (p.pcmSize.toNat ≤ 12) &&
  decide (winLen d ≤ fftLen d) && decide (hopLen d ≤ winLen d) && decide (d.fLo.toNat < melHi d) && decide (melHi d ≤ modelRate d / 2) &&
  decide (chunkMs % d.hopMs.toNat = 0) && melsOk d

/-- Frame units of a stream in units of 1 / (2 · lcm(5..20)) per millisecond (R68). -/
def frameLoadOf (d : SbDecl) : Nat := (if d.fft = 3 then 3 else 2) * (232792560 / max 1 d.hopMs.toNat)

def rateLoadOf (p : Profile) : Nat := rateOf p.inRate.toNat + (if p.outFmt = 7 then 0 else rateOf p.outRate.toNat)

/-- The stream would pass the capacity of the soundboard (R68). -/
def overCapacity (s : State) (p : Profile) : Bool :=
  let all := (s.streams.filter fun x => decide (x.2.state ≠ .free)).map fun x => profileOf s x.2
  decide (24000 * 232792560 < frameLoadOf p.sb + (all.map fun q => frameLoadOf q.sb).sum) ||
  decide (4000000000 < rateLoadOf p + (all.map rateLoadOf).sum)

end Sys2Proof.Machine
end

