-- ==== Sys2Proof/Machine/Settings.lean ====
section
/-! DEFINITION. Firmware commands that read status and accounts and set traces, the cap, apertures and functions (R323, R324, R333,
R334). -/

namespace Sys2Proof.Machine
open Sys2Proof

/-! ### status.get (R323, Table 15-6) -/

/-- The bits set of a small word. -/
def popCount (n v : Nat) : Nat := ((List.range n).filter fun i => v.testBit i).length

def statusPage0 (s : State) (f : Func) : Nat :=
  let mine := (s.streams.filter fun x => decide (x.2.state ≠ .free) && decide (x.2.client = f)).length
  let users := (s.models.filter fun m => m.2.users.contains f).length
  let parts := (allParts.filter fun p => (getPart s p).valid && decide ((getPart s p).owner = f)).length
  let d := defaultPart s f
  Config.runtimeVersion.toNat + mine % 2 ^ 16 * 2 ^ 32 + users * 2 ^ 48 + parts * 2 ^ 56 + (d.getD 0).toNat * 2 ^ 64 + bitN d.isSome 69

def statusPage1 (s : State) : Nat :=
  s.sbtm.nonfinite.toNat + s.sbtm.clip.toNat * 2 ^ 32 + (frameLoad s).toNat * 2 ^ 64 + (sampleLoad s).toNat * 2 ^ 96

def statusPage2 (s : State) : Nat :=
  s.fuses.sparingStatus.toNat + bitN s.pw.t1Refused 2 + popCount 4 (s.pw.expPresent &&& ~~~s.pw.expDown).toNat * 2 ^ 3 +
  (s.streams.filter fun x => decide (x.2.state ≠ .free)).length % 2 ^ 16 * 2 ^ 16

/-- The counters that page 1 returns and a write can clear (R11, Table 3-6). -/
def clearSb (s : State) : State := { s with sbtm := { s.sbtm with nonfinite := 0, clip := 0 } }

def execStatusGet (f : Func) (dt : Nat) (s : State) : Host.Outcome State Fault Refusal :=
  runCmd f 0x0120 dt s fun t s =>
    let page := argF t 7 0
    checked s f t [(decide (f ≠ 0) && (decide (page = 1) || decide (page = 2)), stPF_ONLY),
        (argsBad t 2 [(7, 0), (8, 8)] || decide (2 < page) || (argB t 8 && decide (page ≠ 1)), stMALFORMED)] <|
      some (match page with
        | 0 => okCmd s f t (statusPage0 s f)
        | 1 => okCmd (if argB t 8 then clearSb s else s) f t (statusPage1 s)
        | _ => okCmd s f t (statusPage2 s))

/-! ### account.get (R292, R324, Table 13-7) -/

/-- The mJ of an account as 64 bits. -/
def mjBits (a : Account) : Nat := (BitVec.ofInt 64 (a.uj / 1000)).toNat

/-- The record of an account; the device account adds the measured total. -/
def accountBits (a : Account) (dev : Bool) : Nat :=
  a.interval.toNat + a.courseCycles.toNat * 2 ^ 64 + a.t0.toNat * 2 ^ 128 + a.t1.toNat * 2 ^ 192 + a.t2.toNat * 2 ^ 256 + a.host.toNat * 2 ^ 320 +
  a.bridge.toNat * 2 ^ 384 + mjBits a * 2 ^ 448 + a.committed.toNat * 2 ^ 512 + a.failed.toNat * 2 ^ 544 + a.late.toNat * 2 ^ 576 +
  a.hardStops.toNat * 2 ^ 608 + a.overrun.toNat * 2 ^ 640 + a.heldIdle.toNat * 2 ^ 704 + (if dev then a.measured / 1000 % 2 ^ 64 * 2 ^ 768 else 0)

def execAccountGet (f : Func) (dt : Nat) (s : State) : Host.Outcome State Fault Refusal :=
  runCmd f 0x0121 dt s fun t s =>
    let dev := argB t 69
    let g := argFn t 68 64
    checked s f t [(decide (f ≠ 0) && (dev || decide (g ≠ f)), stPF_ONLY),
        (argsBad t 9 [(63, 0), (68, 64), (69, 69)] || decide (argF t 63 0 % 128 ≠ 0), stMALFORMED)] <|
      let s := if dev then s else forAll allParts (fun s p => if (getPart s p).owner = g then closeIdle s p else s) s
      let a := if dev then s.tele.device else getAcct s g
      some (okCmd (hostWr s f (argF t 63 0) (leBytes 128 (accountBits a dev))) f t (a.interval.toNat + mjBits a * 2 ^ 64))

/-! ### trace.start, trace.stop (R333) -/

def isPow2 (n : Nat) : Bool := decide (0 < n) && decide (2 ^ Nat.log2 n = n)

def traceBad (t : Taken) : Bool :=
  argsBad t 13 [(63, 0), (95, 64), (100, 96), (103, 101)] || decide (argF t 63 0 % 4096 ≠ 0) || !isPow2 (argF t 95 64) ||
  decide (argF t 95 64 < 4096) || decide (2 ^ 30 < argF t 95 64)

def execTraceStart (f : Func) (dt : Nat) (s : State) : Host.Outcome State Fault Refusal :=
  runCmd f 0x0220 dt s fun t s =>
    let p := argPart t 100 96
    checked s f t (levelChecks s f true false ++ [(traceBad t, stMALFORMED), (busy s (.part p), stBUSY)] ++ partChecks s f p) <|
      let r : Trace := ⟨f, BitVec.ofNat 64 (argF t 63 0), BitVec.ofNat 32 (argF t 95 64), BitVec.ofNat 3 (argF t 103 101), 0, true⟩
      some (okCmd (modPart s p fun x => { x with trace := some r }) f t 0)

def execTraceStop (f : Func) (dt : Nat) (s : State) : Host.Outcome State Fault Refusal :=
  runCmd f 0x0221 dt s fun t s =>
    let p := argPart t 4 0
    checked s f t (levelChecks s f true false ++ [(argsBad t 1 [(4, 0)], stMALFORMED), (busy s (.part p), stBUSY)] ++ partChecks s f p) <|
      some (okCmd (modPart s p fun x => { x with trace := none }) f t 0)

/-! ### power.cap, bar2.map, function.config (R334) -/

def execPowerCap (f : Func) (dt : Nat) (s : State) : Host.Outcome State Fault Refusal :=
  runCmd f 0x0230 dt s fun t s =>
    let w := argF t 15 0
    checked s f t (levelChecks s f true true ++ [(argsBad t 2 [(15, 0)] || decide (w < 250) || decide (500 < w), stMALFORMED)]) <|
      some (okCmd { s with pw := { s.pw with capWatts := BitVec.ofNat 16 w } } f t w)

def execBar2Map (f : Func) (dt : Nat) (s : State) : Host.Outcome State Fault Refusal :=
  runCmd f 0x0231 dt s fun t s =>
    let ap := argF t 5 0
    let p := argPart t 12 8
    let a := argF t 127 64
    let unmap := argB t 6
    checked s f t (levelChecks s f true true ++
      [(argsBad t 16 [(5, 0), (6, 6), (12, 8), (127, 64)] || (!unmap && (decide (a % 2 ^ 30 ≠ 0) || decide (2 ^ 38 ≤ a))), stMALFORMED)]) <|
      if unmap then some (okCmd { s with apertures := tdel s.apertures ap } f t 0)
      else checked s f t ((busy s (.part p), stBUSY) :: partChecks s f p) <| some (okCmd { s with apertures := tset s.apertures ap ⟨p, a⟩ } f t 0)

/-- The values that a configuration leaves: the masked ones from the arguments. -/
def fconfOf (t : Taken) (x : Fn) : Fn :=
  { x with
    expert := if argB t 8 then argB t 16 else x.expert, delay1 := if argB t 9 then argF t 63 32 else x.delay1
    delay2 := if argB t 10 then argF t 95 64 else x.delay2, tGuard := if argB t 11 then argF t 111 96 else x.tGuard
    deadlines := if argB t 12 then (List.range 8).map fun c => argF t (16 * c + 127) (16 * c + 112) else x.deadlines }

/-- The ranges of Table 15-10, of the masked fields, and delay2 against delay1. -/
def fconfBad (t : Taken) (x : Fn) : Bool :=
  let y := fconfOf t x
  let delayBad (d : Nat) : Bool := decide (d < 100) || decide (3600000 < d)
  argsBad t 30 [(4, 0), (12, 8), (16, 16), (63, 32), (95, 64), (111, 96), (239, 112)] || (argB t 9 && delayBad y.delay1) ||
  (argB t 10 && delayBad y.delay2) || (argB t 11 && decide (20000 < y.tGuard)) ||
  (argB t 12 && y.deadlines.any fun d => decide (d < 10) || decide (10000 < d)) || decide (y.delay2 < y.delay1)

def execFunctionConfig (f : Func) (dt : Nat) (s : State) : Host.Outcome State Fault Refusal :=
  runCmd f 0x0232 dt s fun t s =>
    let g := argFn t 4 0
    checked s f t [ (!isExpert s f, stLEVEL), (decide (f ≠ 0) && (decide (g ≠ f) || argB t 8), stPF_ONLY), (fconfBad t (getFn s g), stMALFORMED)
      , (!((decide (g = 0) || (getFn s g).enabled) && (getFn s g).ready), stFUNC_STATE) ] <|
      some (okCmd (modFn s g (fconfOf t)) f t 0)

end Sys2Proof.Machine
end

