-- ==== Sys2Proof/Machine/ImageOps.lean ====
section
/-! DEFINITION. Committed images that are lost, retired pages, faulted models (R285, R397, R399, R400). -/

namespace Sys2Proof.Machine
open Sys2Proof

/-- No block at all: a stream whose images are lost and that waits for tier 0 space (R399). -/
def noBlock : BitVec 36 := 0xFFFFFFFFF

/-- The bundle that was formed with the stream returns to its streams whole (R40). -/
def unformWith (s : State) (h : Handle) : State :=
  match s.bundles.find? fun b => b.members.any fun m => decide (m.handle = h) with
  | none => s
  | some b => unformBundle { s with bundles := s.bundles.filter fun c => decide (c.no ≠ b.no) } b

/-- IMAGE_LOST names the stream, unless its reset flag is 1 already (R399 step 3). -/
def logLost (s : State) (h : Handle) (source : BitVec 3) : State :=
  if (getStream s h).resetFlag then s else logError s { errInfo cIMAGE_LOST source with handle := some h }

/-- Steps 1 to 3 of R399: images discarded, a new block where one is given, the record. -/
def loseImages (s : State) (h : Handle) (block : Option Nat) : State :=
  let s := logLost s h 7
  let s := dropMove s h
  let s := releaseRegions s fun r => decide (r.use = .image h)
  let s := modStream s h fun x => { x with resetFlag := true, resetNext := false, statePtr := noBlock }
  match block with
  | some a => zeroedBlock s h a
  | none => s

/-- R399 for a stream whose chunk is in no bound task. -/
def imageLost (s : State) (h : Handle) (block : Option Nat) : State := unformWith (loseImages s h block) h

/-- A place for a stream's image block, where the runtime allocated one. -/
def blockFor (s : State) (blocks : List NewBlock) (h : Handle) : Option Nat :=
  match streamDecl s (getStream s h), (blocks.find? fun b => decide (b.handle = h)).map (·.base) with
  | some d, some a => if spaceOk s 0 tier1Base a (blkBytes d) then some a else none
  | _, _ => none

/-- The images stand on an expander that went down (R400). -/
def imageDown (s : State) (h : Handle) : Bool :=
  let x := getStream s h
  match streamDecl s x with
  | some d => decide (imageTier x ≠ 0) && onDown s (imgAddr x) (blkBytes d)
  | none => false

/-- The images of a stream that stand outside tier 0 are brought back, in migration class `cls`, or zeroed ones are allocated in their place
where the chunk carries reset (R27, R41, R428); images on an expander that is down are lost (R400). -/
def bringBack (s : State) (blocks : List NewBlock) (cls : Nat) (reset : Bool) (h : Handle) : State :=
  let x := getStream s h
  if imageTier x = 0 ∨ (x.moving ∧ x.move.isSome) then s
  else if !reset ∧ imageDown s h then imageLost s h (blockFor s blocks h)
  else match blockFor s blocks h with
    | none => s
    | some a => if reset then zeroedBlock s h a else startMove s h true cls a

/-! ### Retirement of pages (R397) -/

def maxRetired : Nat := 4096

/-- A page is retired, or only recorded where the list is full. -/
def retirePage (s : State) (a : Nat) (source : BitVec 3) : State :=
  let pg := a / 4096
  if s.mon.retired.contains pg then s
  else
    let s := if s.mon.retired.length < maxRetired then { s with mon := { s.mon with retired := s.mon.retired ++ [pg] } } else s
    logError s { errInfo cPAGE_RETIRED source with addr := some (BitVec.ofNat 48 (pg * 4096)) }

/-- A corrected error of a tier 0 or 1 line: the sixteenth of a page within 24 hours retires the page. -/
def noteCorrectedPage (s : State) (a : Nat) : State :=
  let pg := a / 4096
  let times := lastDay s.time (tget [] s.mon.pageErrs pg) ++ [s.time]
  let src := if a < tier1Base then 1 else 2
  let s := { s with
    tele := { s.tele with corrected := tmod 0 s.tele.corrected src (· + 1) }
    mon := { s.mon with pageErrs := tput [] s.mon.pageErrs pg times } }
  if 16 ≤ times.length then retirePage s a (BitVec.ofNat 3 src) else s

/-! ### Faulted models (R285, R400) -/

/-- The payload of MODEL_FAULTED goes to every user of the model. -/
def postFaulted (s : State) (m : ModelSlot) : State :=
  match getModel s m with
  | none => s
  | some y => y.users.foldl (fun s f => postEvent s f evMODEL_FAULTED m.toNat) s

/-- The model is marked faulted: its users are told, and it is not placed again until it is reloaded. -/
def faultModel (s : State) (m : ModelSlot) : State :=
  match getModel s m with
  | none => s
  | some y => if y.faulted then s else postFaulted (modModel s m fun y => { y with faulted := true }) m

/-- Every placement of a model is to be reclaimed. -/
def reclaimPlacements (s : State) (m : ModelSlot) : State :=
  allParts.foldl (fun s p =>
    (((getPart s p).jobs.filter fun b => decide (b.kind = .placement m)).map (·.num)).foldl (fun s j => triggerReclaim s p j rsFAULTED) s) s

/-- Does an address lie in a model's weights in tier 0? -/
def weightsHold (y : Model) (a : Nat) : Bool := y.weightsAt.any fun w => decide (w.2 ≤ a) && decide (a < w.2 + w.1)

/-- A model whose weights or tables hold the address is faulted (R400). -/
def faultWeights (s : State) (a : Nat) : State :=
  match s.models.find? fun m => weightsHold m.2 a with
  | some m => reclaimPlacements (faultModel s (BitVec.ofNat 6 m.1)) (BitVec.ofNat 6 m.1)
  | none => s

end Sys2Proof.Machine
end

