-- ==== Sys2Proof/Machine/Soundboard.lean ====
section
/-! DEFINITION. The soundboard's own rows: taking samples, computing a frame, the synthesis output (R55 to R67). -/

namespace Sys2Proof.Machine
open Sys2Proof

/-- The soundboard works: it needs no control core, but stops with the device. -/
def sbRuns (s : State) : Bool := devRuns s && !s.fatal

def execSampleTake (h : Handle) (count : Nat) (s : State) : Host.Outcome State Fault Refusal :=
  .next (if sbRuns s && mayTakeSample (profileOf s (getStream s h)) (getStream s h) then
      endClose (markDrained (takeSamples count s h) h) h
    else s)

/-- A frame can be computed: its last sample exists, or a drained close pads it (R58, R62, R63). -/
def mayFrame (s : State) (x : Stream) : Bool :=
  sbStreamOn x && !x.migrating && !ringFull x && (decide (hopLen (profileOf s x).sb ≤ x.sb.hop) || padNeeded s x)

/-- The context with the hop padded where it is short (R63). -/
def padFrame (s : State) (h : Handle) : State :=
  modStream s h fun x => { x with sb := padHop (profileOf s x) x.bowKey (hopLen (profileOf s x).sb - x.sb.hop) x.sb }

def execFrameCompute (h : Handle) (dt : Nat) (s : State) : Host.Outcome State Fault Refusal :=
  .next (if sbRuns s && mayFrame s (getStream s h) then computeFrame (padFrame (tick s dt) h) h else s)

/-- The stream has a synthesis output, and samples of its current chunk are still to be put out (R67). -/
def hasSynth (s : State) (x : Stream) : Bool := sbStreamOn x && decide (0 < synthLeft s x) && decide (0 < stagingSamples s x)

def execSynthesisOutput (h : Handle) (count : Nat) (s : State) : Host.Outcome State Fault Refusal :=
  .next (if sbRuns s && hasSynth s (getStream s h) then synthSamples (min count (synthLeft s (getStream s h))) s h else s)

end Sys2Proof.Machine
end

