-- ==== Sys2Proof/Machine/Streams.lean ====
section
/-! DEFINITION. Firmware commands over streams: open, push and its gather, pause, resume, close, reset (R22 to R29, R34 to
R36, R43, R306, R307, R321, R322, R428). -/

namespace Sys2Proof.Machine
open Sys2Proof

/-! ### stream.open (R321) -/

/-- A number as a binary32 bit pattern or field of width `n`. -/
def argV (n : Nat) (t : Taken) (hi lo : Nat) : BitVec n := BitVec.ofNat n (argF t hi lo)

/-- The profile that an open asks for. -/
def openProfile (t : Taken) (d : ImageDecl) : Profile :=
  { inFmt := argV 3 t 178 176, inRate := argV 3 t 181 179, outFmt := argV 3 t 186 184, outRate := argV 3 t 189 187, sb := d.sb
    silEn := argB t 172, silThr := argV 32 t 159 128, pcmSize := argV 4 t 211 208 }

/-- The slot of a profile with these contents. -/
def profileSlot (s : State) (p : Profile) : Option (BitVec 8) :=
  (s.profiles.find? fun x => decide (x.2 = p)).map fun x => BitVec.ofNat 8 x.1

/-- The fields and ranges of Table 15-4 (R23, R314, R321). -/
def openBad (f : Func) (t : Taken) : Bool :=
  argsBad t 30 [(63, 0), (127, 64), (159, 128), (165, 160), (170, 168), (171, 171), (172, 172), (178, 176), (181, 179), (186, 184),
    (189, 187), (196, 192), (203, 200), (206, 204), (211, 208), (234, 224)] ||
  decide (argF t 63 0 % 4096 ≠ 0) || decide (argF t 196 192 < 16) || decide (23 < argF t 196 192) || decide (7 < argF t 203 200) ||
  decide (6 < argF t 206 204) || decide (f ≠ 0 ∧ 63 < argF t 234 224) || decide (argF t 186 184 = 7 ∧ argF t 211 208 ≠ 0)

/-- The ring sizes of R23. -/
def ringsBad (t : Taken) (d : ImageDecl) (p : Profile) : Bool :=
  decide (2 ^ argF t 196 192 * 1000 < 2 * d.chunkMs * rateOf p.inRate.toNat * sampleBytes p.inFmt.toNat) ||
  decide (2 ^ (argF t 203 200 + 5) < 2 * (d.chunkMs / d.sb.hopMs.toNat)) || decide (2 ^ (argF t 206 204 + 6) < 4 * d.maxRecords)

/-- Bytes of the feature region: context, slots, staging area. -/
def featureBytes (d : ImageDecl) (p : Profile) (frSize : Nat) : Nat :=
  1024 + 2 ^ (frSize + 5) * slotBytes d.sb + (if d.synth ∧ p.outFmt ≠ 7 then 2 * (d.chunkMs * modelRate d.sb / 1000) * 4 else 0)

/-- The places of a stream: image block, inbox ring, feature region, apart from all else. -/
def streamPlacesOk (s : State) (d : ImageDecl) (pl : Nat × Nat × Nat) (ib fr : Nat) : Bool :=
  decide (pl.2.1 % 65536 = 0) && decide (pl.2.2 % 65536 = 0) &&
  placesOk 0 tier1Base (usedSpace s) [pl.1, pl.2.1, pl.2.2] [blkBytes d, ib, pages fr]

/-- Tier 0 lacks the space for a stream's places. -/
def streamFull (s : State) (d : ImageDecl) (ib fr : Nat) : Bool :=
  !hasSpace s 0 tier1Base [(4096, blkBytes d), (65536, ib), (65536, pages fr)]

/-- The entry's regions. -/
def streamRegions (d : ImageDecl) (h : Handle) (pl : Nat × Nat × Nat) (ib fr : Nat) : List Region :=
  [⟨pl.1, blkBytes d, .image h⟩, ⟨pl.2.1, ib, .inbox h⟩, ⟨pl.2.2, pages fr, .feature h⟩]

def usedStreams (s : State) : Nat := (s.streams.filter fun x => decide (x.2.state ≠ .free)).length

/-- The handle is FREE, and a new profile takes a free slot. -/
def openChoiceOk (s : State) (p : Profile) (ch : OpenChoice) : Bool :=
  decide ((getStream s ch.handle).state = .free) && ((profileSlot s p).isSome || (getProfile s ch.profile).isNone)

/-- The slot the stream names, and the profiles with it. -/
def takeProfile (s : State) (p : Profile) (ch : OpenChoice) : BitVec 8 × State :=
  match profileSlot s p with
  | some i => (i, s)
  | none => (ch.profile, { s with profiles := tset s.profiles ch.profile.toNat p })

/-- Table 2-3: the entry of a stream that has just been opened. -/
def openedStream (f : Func) (t : Taken) (y : Model) (m : ModelSlot) (i : BitVec 8) (h : Handle) (pl : Nat × Nat × Nat) : Stream :=
  { Stream.reset with
    state := .opened, resetFlag := true, skipSilence := argB t 171, model := m, dclass := argV 3 t 170 168, client := f, feProfile := i
    statePtr := BitVec.ofNat 36 (pl.1 / 4096), bowKey := deriveKey (argV 64 t 127 64) h.toNat
    ibBase := BitVec.ofNat 32 (pl.2.1 / 65536), ibSize := argV 5 t 196 192, frSize := argV 4 t 203 200, obSize := argV 4 t 206 204
    obPhase := true, frBase := BitVec.ofNat 32 (pl.2.2 / 65536), obBase := BitVec.ofNat 52 (argF t 63 0 / 4096)
    vector := argV 11 t 234 224, lvlEpoch := y.lvlEpoch }

/-- The open is carried out. -/
def openStream (s : State) (f : Func) (t : Taken) (y : Model) (m : ModelSlot) (p : Profile) (pl : Nat × Nat × Nat) (ch : OpenChoice) : State :=
  let fr := featureBytes y.decl p (argF t 203 200)
  let (i, s) := takeProfile s p ch
  let s := { s with regions := s.regions ++ streamRegions y.decl ch.handle pl (2 ^ argF t 196 192) fr }
  okCmd (setStream s ch.handle (openedStream f t y m i ch.handle pl)) f t (ch.handle.toNat + i.toNat * 2 ^ 16)

def execStreamOpen (f : Func) (ch : OpenChoice) (dt : Nat) (s : State) : Host.Outcome State Fault Refusal :=
  runCmd f 0x0110 dt s fun t s =>
    let m : ModelSlot := argV 6 t 165 160
    checked s f t [(openBad f t, stMALFORMED), (busy s (.model m), stBUSY), (!usesModel s f m, stMODEL_STATE)] <|
    match getModel s m with
    | none => none
    | some y =>
      let p := openProfile t y.decl
      checked s f t
        [ (y.faulted, stMODEL_STATE), (!profileOk y.decl.synth y.decl.chunkMs p, stPROFILE_INVALID), (ringsBad t y.decl p, stRING_SIZE)
        , ((profileSlot s p).isNone && decide (256 ≤ s.profiles.length), stPROFILES_FULL), (overCapacity s p, stSB_CAPACITY)
        , (decide (65536 ≤ usedStreams s), stSTREAMS_FULL), 
          (ch.places.isNone && streamFull s y.decl (2 ^ argF t 196 192) (featureBytes y.decl p (argF t 203 200)), stTIER_FULL) ] <|
      match ch.places with
      | none => none
      | some pl =>
        if openChoiceOk s p ch && streamPlacesOk s y.decl pl (2 ^ argF t 196 192) (featureBytes y.decl p (argF t 203 200)) then
          some (openStream s f t y m p pl ch)
        else none

/-! ### stream.push (R28, R306, R307) -/

/-- One entry of a list (Table 14-9). -/
structure PushEntry where
  handle : Handle
  rsv : Bool
  len : Nat
  deriving DecidableEq, Repr

def pushEntry (b : List Byte) (i : Nat) : PushEntry :=
  let v := leNat ((b.drop (16 * i)).take 16)
  ⟨BitVec.ofNat 16 (nfld v 15 0), decide (nfld v 31 16 ≠ 0), nfld v 63 32⟩

/-- Outcome codes (Table 14-10). -/
def poACCEPTED : Byte := 1
def poSTREAM_STATE : Byte := 2
def poINBOX_FULL : Byte := 3
def poMALFORMED : Byte := 4
def poNOT_OWNER : Byte := 5
def poHOST_FAULT : Byte := 6

/-- Is a stream another function's (R296)? -/
def othersStream (f : Func) (x : Stream) : Bool := decide (x.state ≠ .free) && decide (x.client ≠ f)

/-- R28: the outcome of an entry. -/
def pushOutcome (s : State) (f : Func) (e : PushEntry) : Byte :=
  let x := getStream s e.handle
  if e.rsv then poMALFORMED
  else if othersStream f x then poNOT_OWNER
  else if x.state ≠ .opened ∧ x.state ≠ .active then poSTREAM_STATE
  else if ibBytes x < ibHeld x + x.reserved + e.len then poINBOX_FULL
  else poACCEPTED

/-- The tests of a list so far: the state with the space reserved, and what becomes of each entry. -/
structure PushScan where
  s : State
  good : List (Handle × List Byte)
  outs : List Byte
  bad : List (Handle × Nat)     -- accepted, and their audio could not be read
  deriving DecidableEq, Repr

/-- One entry: tested, its space reserved, its audio read (R28, R311). -/
def pushOne (f : Func) (a : PushScan) (e : PushEntry) (audio : HostRead) : PushScan :=
  let o := pushOutcome a.s f e
  if o ≠ poACCEPTED then { a with outs := a.outs ++ [o] }
  else if e.len = 0 then { a with outs := a.outs ++ [poACCEPTED] }
  else
    let s := modStream a.s e.handle fun x => { x with reserved := x.reserved + e.len }
    match audio with
    | none => { a with s := noteHostFault s, outs := a.outs ++ [poHOST_FAULT], bad := a.bad ++ [(e.handle, e.len)] }
    | some b =>
      { a with
        s := modStream s e.handle fun x => { x with state := .active }
        good := a.good ++ [(e.handle, fitBytes e.len b)], outs := a.outs ++ [poACCEPTED] }

/-- Space reserved for audio that could not be read is free again. -/
def dropBad (s : State) (l : List (Handle × Nat)) : State :=
  l.foldl (fun s e => modStream s e.1 fun x => { x with reserved := x.reserved - e.2 }) s

/-- The list is tested; the gather of its accepted audio begins. -/
def pushList (s : State) (f : Func) (t : Taken) (count : Nat) (b : List Byte) (audio : List HostRead) : State :=
  let a := (List.range count).foldl (fun a i => pushOne f a (pushEntry b i) (audio.getD i none)) (⟨s, [], [], []⟩ : PushScan)
  let ok := (a.outs.filter fun o => decide (o = poACCEPTED)).length
  let outs := a.outs.zipIdx.map fun (o, i) => (BitVec.ofNat 64 (argF t 63 0 + 16 * i + 3), o)
  let g : Gather := ⟨t.tag, a.good, outs, ok, count - ok, (a.good.map fun e => e.2.length).sum, false⟩
  modFn (dropBad a.s a.bad) f fun x => { x with gathers := x.gathers ++ [g] }

def execStreamPush (f : Func) (list : HostRead) (audio : List HostRead) (dt : Nat) (s : State) : Host.Outcome State Fault Refusal :=
  runCmd f 0x0111 dt s fun t s =>
    let count := argF t 79 64
    checked s f t [(argsBad t 10 [(63, 0), (79, 64)] || decide (argF t 63 0 % 16 ≠ 0) || decide (256 < count), stMALFORMED)] <|
    if count = 0 then some (okCmd s f t 0)
    else match list with
      | none => some (refuseCmd (noteHostFault s) f t stHOST_FAULT)
      | some b => some (pushList s f t count b audio)

/-- Bytes enter the inbox ring at ib_wr (R29). -/
def putInbox (s : State) (h : Handle) (b : List Byte) : State :=
  let x := getStream s h
  let size := ibBytes x
  let off := x.ibWr.toNat % size
  let a := min b.length (size - off)
  { s with mem := Memory.wrs (Memory.wrs s.mem (ibAddr x + off) (b.take a)) (ibAddr x) (b.drop a) }

/-- An accepted entry's bytes are in the inbox: ib_wr advances; bytes that a discard has dropped are gone (R35, R307). -/
def gatherOne (s : State) (e : Handle × List Byte) : State :=
  let h := e.1
  let x := getStream s h
  let n := e.2.length
  let s' := modStream (putInbox s h e.2) h fun x =>
    let wr := x.ibWr + BitVec.ofNat 32 n
    { x with ibWr := wr, reserved := x.reserved - n, dropReserved := x.dropReserved - n, ibRd := if 0 < x.dropReserved then wr else x.ibRd }
  svcGuards s true (ringPieces (ibAddr x) (ibBytes x) x.ibWr.toNat n) (endClose (markDrained (chargeHost s' x.client n) h) h)

/-- The gather of a push has finished: inboxes, outcome bytes, RESULT. -/
def finishGather (s : State) (f : Func) (g : Gather) : State :=
  let s := modFn s f fun x => { x with gathers := x.gathers.tail }
  let s := g.entries.foldl (fun s e => if s.fatal then s else gatherOne s e) s
  let s := g.outcomes.foldl (fun s o => hostWr s f o.1.toNat [o.2]) s
  postResult s f 0x0111 g.tag stOK (g.accepted % 2 ^ 16 + g.refused % 2 ^ 16 * 2 ^ 16 + g.bytes % 2 ^ 32 * 2 ^ 32)

def execPushGatherDone (f : Func) (dt : Nat) (s : State) : Host.Outcome State Fault Refusal :=
  .next (match (getFn s f).gathers with
    | [] => s
    | g :: _ => if rtRuns s && !s.fatal then finishGather (tick s dt) f g else s)

/-! ### Handle lists (R322) -/

/-- The handles of a list. -/
def listHandles (t : Taken) : List Handle := (List.range (argF t 7 0)).map fun i => argV 16 t (16 * i + 47) (16 * i + 32)

/-- The form of a handle list (Table 15-5); `opt`: the option may be set. -/
def listBad (t : Taken) (opt : Bool) : Bool :=
  let n := argF t 7 0
  decide (n = 0) || decide (26 < n) || argsBad t (4 + 2 * n) [(7, 0), (8, 8), (16 * n + 31, 32)] || (!opt && argB t 8)

/-- Applies a command to each handle in order; the statuses. `app` answers `none` where the state refuses it (R24). -/
def listEach (s : State) (f : Func) (app : State → Handle → Option State) : List Handle → State × List (BitVec 16)
  | [] => (s, [])
  | h :: l =>
    let x := getStream s h
    let (s', st) :=
      if x.state = .free then (s, stSTREAM_STATE)
      else if x.client ≠ f then (s, stNOT_OWNER)
      else match app s h with
        | some s' => (s', stOK)
        | none => (s, stSTREAM_STATE)
    let r := listEach s' f app l
    (r.1, st :: r.2)

/-- The result payload and status of a list. -/
def listResult (s : State) (f : Func) (t : Taken) (sts : List (BitVec 16)) : State :=
  let res := (sts.zipIdx.map fun (st, i) => st.toNat * 2 ^ (16 * i)).sum
  postResult s f t.opcode t.tag (if sts.all fun st => decide (st = stOK) then stOK else stPARTIAL) res

/-- A handle-list command; `after`: what follows for each handle once the RESULT is posted. -/
def listCmd (s : State) (f : Func) (t : Taken) (opt : Bool) (app : State → Handle → Option State) (after : State → Handle → State) :
    Option State :=
  checked s f t [(listBad t opt, stMALFORMED)] <|
    let r := listEach s f app (listHandles t)
    some ((listHandles t).foldl after (listResult r.1 f t r.2))

/-- `stream.pause`: ready chunks are held, the pause timer starts (Table 2-3). -/
def pauseStream (s : State) (h : Handle) : Option State :=
  let x := getStream s h
  if x.state = .active then
    let y := getFn s x.client
    some (modStream s h fun x => { x with state := .paused, pauseAt := some s.time, delays := (y.delay1, y.delay2) })
  else none

def execStreamPause (f : Func) (dt : Nat) (s : State) : Host.Outcome State Fault Refusal :=
  runCmd f 0x0112 dt s fun t s => listCmd s f t false pauseStream fun s _ => s

/-- Held chunks take new deadlines (R36). -/
def restartDeadlines (s : State) (x : Stream) : List Chunk :=
  let dl := s.time + classDeadline s x.client x.dclass
  if x.inBundle then x.chunks.take 1 ++ x.chunks.tail.map fun c => { c with deadline := dl } else x.chunks.map fun c => { c with deadline := dl }

/-- A demotion in progress is abandoned (R27). -/
def dropDemotion (s : State) (h : Handle) : State :=
  match (getStream s h).move with
  | some m => if m.promote then s else dropMove s h
  | none => s

/-- `stream.resume` (Table 2-3). -/
def resumeStream (blocks : List NewBlock) (s : State) (h : Handle) : Option State :=
  let x := getStream s h
  if (x.state = .paused ∨ x.state = .evicted) ∧ !x.migrating then
    let s := modStream (dropDemotion s h) h fun x => { x with state := .active, pauseAt := none, chunks := restartDeadlines s x }
    some (bringBack s blocks 1 x.resetFlag h)
  else none

def execStreamResume (f : Func) (blocks : List NewBlock) (dt : Nat) (s : State) : Host.Outcome State Fault Refusal :=
  runCmd f 0x0113 dt s fun t s => listCmd s f t false (resumeStream blocks) fun s _ => s

/-- Aborted: what is buffered and not in a bundle is dropped (R43). -/
def abortAudio (x : Stream) : Stream :=
  { x with
    ibRd := x.ibWr, dropReserved := x.reserved, sb := sbClear x.sb, chunks := if x.inBundle then x.chunks.take 1 else []
    discard := if x.inBundle then some x.frWr else none }

/-- `stream.close`: CLOSING; what is left is drained, or dropped with the option (R43). -/
def closeStream (abort : Bool) (s : State) (h : Handle) : Option State :=
  let x := getStream s h
  if x.state ≠ .closing ∧ !x.migrating then
    let s := modStream (dropDemotion s h) h fun x =>
      let x := { x with state := .closing, closing := some ⟨abort, false, false⟩, pauseAt := none }
      if abort then abortAudio x else x
    some (markDrained s h)
  else none

def execStreamClose (f : Func) (dt : Nat) (s : State) : Host.Outcome State Fault Refusal :=
  runCmd f 0x0114 dt s fun t s =>
    listCmd s f t true (closeStream (argB t 8)) endClose

/-- `stream.reset`: the next chunk dispatched starts from zero state; with the option all that is buffered is dropped
(R34, R35, R64). -/
def resetStream (discard : Bool) (s : State) (h : Handle) : Option State :=
  let x := getStream s h
  if x.state ≠ .closing ∧ !x.migrating then
    let f := chunkFrames s x
    some (modStream s h fun x =>
      let x := { x with resetFlag := true, resetNext := x.inBundle, sb := sbRestart x.sb }
      if discard then discardAudio f x else x)
  else none

def execStreamReset (f : Func) (dt : Nat) (s : State) : Host.Outcome State Fault Refusal :=
  runCmd f 0x0115 dt s fun t s => listCmd s f t true (resetStream (argB t 8)) fun s _ => s

end Sys2Proof.Machine
end

