-- ==== Sys2Proof/Machine/Bundles.lean ====
section
/-! DEFINITION. Bundles: silent chunks, pause timers, formation, residency and binding, commit (R25 to R42, R79, R176, R183, R189, R205, R208,
R278 to R280, R428). -/

namespace Sys2Proof.Machine
open Sys2Proof

/-! ### Blocks the runtime allocates -/

/-- The new blocks of a row have free places in tier 0, apart from each other. -/
def blocksOk (s : State) (l : List NewBlock) : Bool :=
  placesOk 0 tier1Base (usedSpace s) (l.map (·.base)) (l.map fun b => match streamDecl s (getStream s b.handle) with | some d => blkBytes d | none => 0)

/-! ### SILENT_COMMIT (R33) -/

/-- The eligible chunk of the stream, where it has one (R31). -/
def eligibleChunk (x : Stream) : Option Chunk :=
  if (x.state = .active ∨ x.state = .closing) ∧ !x.inBundle ∧ !isSilent x then x.chunks.head? else none

def isSilentChunk (x : Stream) : Bool := match eligibleChunk x with | some c => x.skipSilence && c.silent | none => false

def execSilentCommit (h : Handle) (dt : Nat) (s : State) : Host.Outcome State Fault Refusal :=
  .next (if rtRuns s && isSilentChunk (getStream s h) then
      let r := endChunk (tick s dt) h .silent false []
      afterChunk (postDone r.1 r.2) [] h
    else s)

/-! ### Pause timers (R25, R26) -/

/-- The greatest pause delay, which disables its step. -/
def delayOff : Nat := 3600000

/-- The pause timer has reached a delay in ms. -/
def pauseReached (s : State) (x : Stream) (ms : Nat) : Bool :=
  match x.pauseAt with
  | some t => decide (x.state = .paused) && decide (ms ≠ delayOff) && decide (ms * 100000 ≤ (s.time - t).toNat)
  | none => false

/-- A demotion starts, or waits for the chunk in a bundle to end (R26). -/
def demote (s : State) (h : Handle) (dst : Nat) : State :=
  startDue (modStream s h fun x => { x with move := some ⟨false, dst, 0⟩ }) h

/-- The timer step may start a demotion out of a tier. -/
def mayDemote (s : State) (h : Handle) (tier ms dst : Nat) : Bool :=
  let x := getStream s h
  pauseReached s x ms && decide (imageTier x = tier) && !x.moving && !x.migrating && x.move.isNone && moveFits s h dst

def execPauseTimerTier1 (h : Handle) (dst : Nat) (dt : Nat) (s : State) : Host.Outcome State Fault Refusal :=
  .next (if rtRuns s && mayDemote (tick s dt) h 0 (getStream s h).delays.1 dst then demote (tick s dt) h dst else s)

def execPauseTimerTier2 (h : Handle) (dst : Nat) (dt : Nat) (s : State) : Host.Outcome State Fault Refusal :=
  .next (if rtRuns s && mayDemote (tick s dt) h 1 (getStream s h).delays.2 dst then demote (tick s dt) h dst else s)

/-! ### BUNDLE_FORM (R37, R38) -/

/-- Deadlines ascending, then handles. -/
def beforeQ (a b : Handle × Chunk) : Bool :=
  decide (a.2.deadline.toNat < b.2.deadline.toNat) || (decide (a.2.deadline = b.2.deadline) && decide (a.1.toNat ≤ b.1.toNat))

def insertQ (a : Handle × Chunk) : List (Handle × Chunk) → List (Handle × Chunk)
  | [] => [a]
  | b :: l => if beforeQ a b then a :: b :: l else b :: insertQ a l

/-- The eligible chunks of a model that are to be bundled, in bundle order. -/
def eligibleQueue (s : State) (m : ModelSlot) : List (Handle × Chunk) :=
  (s.streams.filterMap fun x =>
    if x.2.model = m ∧ !isSilentChunk x.2 then (eligibleChunk x.2).map fun c => (BitVec.ofNat 16 x.1, c) else none).foldr insertQ []

/-- The slice of the partition has time left (R280). -/
def sliceLeft (s : State) (x : Part) : Bool := decide (x.sliceJob ≠ 0) && decide ((s.time - x.sliceStart).toNat < x.sliceLen)

/-- The placement of a model that the partition's slice is for, where it can start a task (R279, R280). -/
def acceptsModel (s : State) (p : PartId) (m : ModelSlot) : Option Job :=
  let x := getPart s p
  if canBind s p && x.task.isNone && sliceLeft s x then
    (findJob x x.sliceJob).filter fun b => decide (b.kind = .placement m) && b.crashed.isNone && b.stopped.isNone
  else none

/-- No partition of a lower number can take the model's bundle too (R279, R294). -/
def lowestFor (s : State) (p : PartId) (m : ModelSlot) : Bool :=
  allParts.all fun q => decide (p.toNat ≤ q.toNat) || (acceptsModel s q m).isNone

/-- t_run of R38: the declared chunk time at 256 streams. -/
def tRun (s : State) (x : Part) (b : Job) : Nat := match jobVariant s x b false with | some v => v.tSolo.getD 255 0 | none => 0

/-- The queue meets the formation condition. -/
def mayForm (s : State) (x : Part) (b : Job) (q : List (Handle × Chunk)) : Bool :=
  match q.head? with
  | none => false
  | some a =>
    decide (256 ≤ q.length) ||
    decide (a.2.deadline.toNat ≤ s.time.toNat + tRun s x b + (getFn s (getStream s a.1).client).tGuard * 100)

/-- Bundles formed, bound or stopped at a meet. -/
def bundlesInFlight (s : State) : Nat :=
  s.bundles.length + (allParts.map fun p =>
    let x := getPart s p
    (if (x.task.bind (·.bundle)).isSome then 1 else 0) + (x.jobs.filter fun b => (b.stopped.bind (·.bundle)).isSome).length).sum

/-- A member as it stands at formation: whether its chunk carries reset is settled here (R34). -/
def formMember (s : State) (a : Handle × Chunk) : Member :=
  let x := getStream s a.1
  { handle := a.1, seq := x.nextSeq, gen := x.gen, reset := x.resetFlag, statePtr := x.statePtr, bowStep := x.bowStep, bowKey := x.bowKey
    frBase := x.frBase, firstFrame := x.frRd, frSize := x.frSize, peg := x.peg, deadline := a.2.deadline }

def formBundle (s : State) (m : ModelSlot) (q : List (Handle × Chunk)) : State :=
  let q := q.take 256
  let b : Bundle := ⟨s.bundleNo + 1, m, q.map (formMember s), false, 0⟩
  let s := { s with bundles := s.bundles ++ [b], bundleNo := s.bundleNo + 1 }
  q.foldl (fun s a => modStream s a.1 fun x => { x with inBundle := true, resetNext := false }) s

/-- The runtime forms a bundle for a partition that can accept it. -/
def canForm (s : State) (m : ModelSlot) (p : PartId) : Bool :=
  match acceptsModel s p m with
  | none => false
  | some b => lowestFor s p m && decide (bundlesInFlight s < 32) && mayForm s (getPart s p) b (eligibleQueue s m)

def execBundleForm (m : ModelSlot) (p : PartId) (dt : Nat) (s : State) : Host.Outcome State Fault Refusal :=
  .next (if rtRuns s && canForm (tick s dt) m p then formBundle (tick s dt) m (eligibleQueue s m) else s)

/-! ### BUNDLE_BIND (R41, R42, R79, R176, R189) -/

def findBundle (s : State) (b : Nat) : Option Bundle := s.bundles.find? fun x => decide (x.no.toNat = b)

/-- The bundle is still formed. -/
def stillFormed (s : State) (b : Bundle) : Bool := s.bundles.any fun c => decide (c.no = b.no)

/-- Every member whose images are elsewhere gets its promotion, or zeroed images; a member whose images are lost returns the
bundle's chunks (R400). -/
def resolveMembers (s : State) (blocks : List NewBlock) (b : Bundle) : State :=
  b.members.foldl (fun s m => if stillFormed s b then bringBack s blocks 0 m.reset m.handle else s) s

/-- Every member's images are in tier 0. -/
def allResident (s : State) (b : Bundle) : Bool :=
  b.members.all fun m => let x := getStream s m.handle; decide (imageTier x = 0) && (!x.moving || x.migrating)

/-- A generation header (Table 8-4). -/
structure GenHdr where
  seq : Nat
  ran : Nat
  age : Nat
  deriving DecidableEq, Repr

def readHdr (s : State) (a : Nat) : GenHdr := ⟨Memory.rdNat s.mem a 4, Memory.rdNat s.mem (a + 4) 8, Memory.rdNat s.mem (a + 12) 1⟩

/-- The header of the generation that the chunk writes (R176). -/
def nextHdr (c : GenHdr) (seq : W32) (reset anchored : Bool) : GenHdr :=
  let d := (seq - 1 - BitVec.ofNat 32 c.seq).toNat
  { seq := seq.toNat, ran := if reset then 0 else if d < 64 then ((2 * c.ran + 1) * 2 ^ d) % 2 ^ 64 else 0
    age := if anchored then 0 else min (c.age + 1) 255 }

def hdrBytes (h : GenHdr) (fprint : Nat) : List Byte :=
  leBytes 64 (h.seq + h.ran * 2 ^ 32 + h.age * 2 ^ 96 + fprint % 2 ^ 64 * 2 ^ 128)

/-- The committed and the uncommitted generation of a member. -/
def committedAt (d : ImageDecl) (x : Stream) : Nat := genAddr d (imgAddr x) x.gen
def uncommittedAt (d : ImageDecl) (x : Stream) : Nat := genAddr d (imgAddr x) (!x.gen)

/-- The bundle is due for re-anchoring (R189). -/
def dueAnchor (s : State) (d : ImageDecl) (b : Bundle) : Bool :=
  match d.anchorK with
  | some k => decide (0 < d.genSize) && b.members.any fun m => decide (k - 1 ≤ (readHdr s (committedAt d (getStream s m.handle))).age)
  | none => false

/-- The headers of every member's uncommitted generation. -/
def writeHeaders (s : State) (y : Model) (b : Bundle) (anchored : Bool) : State :=
  if y.decl.genSize = 0 then s
  else b.members.foldl (fun s m =>
    let x := getStream s m.handle
    let h := nextHdr (readHdr s (committedAt y.decl x)) m.seq m.reset anchored
    { s with mem := Memory.wrs s.mem (uncommittedAt y.decl x) (hdrBytes h y.digest.toNat) }) s

/-- A member as it stands at dispatch. -/
def bindMember (s : State) (y : Model) (m : Member) : Member :=
  let x := getStream s m.handle
  { m with
    gen := x.gen, statePtr := x.statePtr, bowStep := x.bowStep, bowKey := x.bowKey, frBase := x.frBase, firstFrame := x.frRd
    frSize := x.frSize, peg := pegAtDispatch y x m.reset }

/-- The bundle record (Table 4-7). -/
def memberBytes (m : Member) : List Byte :=
  leBytes 64 (m.handle.toNat + bitN m.reset 16 + bitN m.gen 17 + m.seq.toNat * 2 ^ 32 + m.statePtr.toNat * 2 ^ 64 + m.bowStep.toNat * 2 ^ 100 +
    m.bowKey.toNat * 2 ^ 128 + m.frBase.toNat * 2 ^ 192 + m.firstFrame.toNat * 2 ^ 224 + m.frSize.toNat * 2 ^ 248 + m.peg.toNat * 2 ^ 256)

def recordBytes (b : Bundle) (now : W64) : List Byte :=
  leBytes 64 (b.members.length + b.model.toNat * 2 ^ 16 + b.no.toNat * 2 ^ 32 + now.toNat * 2 ^ 64) ++ b.members.flatMap memberBytes

/-- The service accesses of the binding: headers and record. -/
def bindPieces (s : State) (y : Model) (b : Bundle) (rec : Nat) : List (Nat × Nat) :=
  (rec, 64 + 64 * b.members.length) :: (if y.decl.genSize = 0 then [] else b.members.map fun m => (uncommittedAt y.decl (getStream s m.handle), 64))

/-- The streams' peg fields as dispatched (R208). -/
def stampPegs (s : State) (y : Model) (b : Bundle) : State :=
  b.members.foldl (fun s m => modStream s m.handle fun x => { x with peg := m.peg, lvlEpoch := y.lvlEpoch }) s

/-- The bundle becomes the partition's task. -/
def bindTo (s : State) (p : PartId) (j : Job) (y : Model) (b : Bundle) (v : Variant) (anchored : Bool) (rec : Nat) : State :=
  let b := { b with members := b.members.map (bindMember s y), anchored := anchored, recAddr := rec }
  let n := 64 + 64 * b.members.length
  let s' := stampPegs (writeHeaders s y b anchored) y b
  let s' := { s' with
    mem := Memory.wrs s'.mem rec (recordBytes b s.time), regions := s'.regions ++ [⟨rec, pages n, .bundle b.no⟩]
    bundles := s'.bundles.filter fun c => decide (c.no ≠ b.no) }
  svcGuards s true (bindPieces s y b rec) (startTask s' p j y.decl (some b) v (pegRegs y (b.members.map (·.peg))))

/-- Every write of a stopped task that ran a member's chunk has completed (R185). -/
def writesDone (s : State) (b : Bundle) : Bool :=
  b.members.all fun m => (getStream s m.handle).chunks.all fun c => c.late.all fun k => !bridgeBusy s k

/-- Binds a resident bundle, where the partition accepts it; else it keeps waiting (R42). -/
def tryBind (s : State) (b : Bundle) (p : PartId) (rec : Nat) : State :=
  if !allResident s b ∨ !writesDone s b ∨ !stillFormed s b ∨ !lowestFor s p b.model then s
  else match acceptsModel s p b.model, getModel s b.model with
    | some j, some y =>
      let anchored := dueAnchor s y.decl b
      match jobVariant s (getPart s p) j anchored with
      | some v =>
        if !jobVerified s j then reportLoad s p j.num
        else if spaceOk s 0 tier1Base rec (pages (64 + 64 * b.members.length)) then bindTo s p j y b v anchored rec else s
      | none => s
    | _, _ => s

def execBundleBind (b : Nat) (p : PartId) (rec : Nat) (blocks : List NewBlock) (dt : Nat) (s : State) : Host.Outcome State Fault Refusal :=
  .next (match findBundle s b with
    | none => s
    | some x => if rtRuns s && !s.fatal && blocksOk s blocks then tryBind (resolveMembers (tick s dt) blocks x) x p rec else s)

/-! ### COMMIT_UPDATE (R32, R183) -/

/-- A commit meet has completed and is not applied yet. -/
def commitDue (x : Part) : Bool := match x.task with | some t => t.committed && !t.settled && t.bundle.isSome | none => false

def execCommitUpdate (p : PartId) (blocks : List NewBlock) (dt : Nat) (s : State) : Host.Outcome State Fault Refusal :=
  .next (if rtRuns s && commitDue (getPart s p) && blocksOk s blocks then commitBundle (tick s dt) p blocks else s)

end Sys2Proof.Machine
end

