-- ==== Sys2Proof/Machine/Issue.lean ====
section
/-! DEFINITION. The issue of a core command: who may issue, waits, malformed words, branches, and the entry into a queue (R69 to R73, R78, R99). -/

namespace Sys2Proof.Machine
open Sys2Proof

/-! ### Issue -/

/-- Queues named in the wait field have completed everything (R70). -/
def waitsMet (q : Seq) (w : CmdWord) : Bool :=
  (!wbit w 12 || q.dmaQ.isEmpty) && (!wbit w 13 || q.wlQ.isEmpty) && (!wbit w 14 || q.mxQ.isEmpty) && (!wbit w 15 || q.vxQ.isEmpty)

/-- The core may issue the word `w` in its present cycle: the device runs, the core's task runs, the word is the one at its PC, its cycle
has come and the queues it waits for are empty (log 2). -/
def mayIssue (s : State) (c : CoreId) (w : CmdWord) : Bool :=
  let q := (getCore s c).seq
  devRuns s && (taskOfCore s c).isSome && decide (q.phase = .running) && decide (q.cmdMem[q.pc.toNat]? = some w) &&
  decide (q.next ≤ q.cycle) && waitsMet q w

/-- The beginning of the cycle of the issue: time has passed, the core's clock has run up to it. -/
def reached (s : State) (c : CoreId) (e : IssueEnv) : State := beginCycle (runFor e.run (tick s e.dt) c e.gap) c

/-- The state in which the command acts: the next command issues in the cycle after it, unless the command says otherwise. -/
def atIssue (s : State) (c : CoreId) (e : IssueEnv) : State := modSeq (reached s c e) c fun q => { q with next := q.cycle + 1 }

/-- A branch to `target`, taken or not (R75, Table 4-6). -/
def branch (s : State) (c : CoreId) (taken : Bool) (target : Nat) : State :=
  let q := (getCore s c).seq
  if q.cmdMem.length ≤ target then raiseTask s c cPC_RANGE q.pc
  else if taken then modSeq s c fun q => { q with pc := BitVec.ofNat 13 target, next := q.cycle + 4 }
  else advance s c

/-- The issue of a word under a row of the table: refused where the word is another row's; nothing happens where the core does not issue it
or its own condition is not met; ILLEGAL_COMMAND where it is malformed (R72); else `body` acts. The cycle then takes its course. -/
def issueWhen (ready : State → Bool) (row : CmdRow) (c : CoreId) (w : CmdWord) (e : IssueEnv) (s : State) (body : State → State) :
    Host.Outcome State Fault Refusal :=
  if rowOfWord w ≠ none ∧ rowOfWord w ≠ some row then
    .refused (.wordOfAnotherRow (BitVec.ofNat 8 (opcodeOf w)) (BitVec.ofNat 4 (variantOf w)))
  else if !mayIssue (reached s c e) c w then .next s
  else
    let t := atIssue s c e
    if rowOfWord w = none ∨ malformed row (getCore t c).seq.sregs w then .next (endCycle e.run (raiseTask t c cILLEGAL (pcOf t c)) c)
    else if !ready t then .next s
    else .next (endCycle e.run (body t) c)

/-- A command with no condition of its own. -/
def issueCore (row : CmdRow) (c : CoreId) (w : CmdWord) (e : IssueEnv) (s : State) (body : State → State) : Host.Outcome State Fault Refusal :=
  issueWhen (fun _ => true) row c w e s body

/-! ### Commands that go to a queue -/

/-- Entries of a queue that have not started (R70: eight at most). -/
def unstarted (l : List QEntry) : Nat := (l.filter fun e => !e.started).length

/-- The queue of the kind has a free entry (R70). -/
def queueFree (c : CoreId) (kind : QKind) (s : State) : Bool := decide (unstarted (getQ (getCore s c).seq (queueOf kind)) < 8)

/-- The command enters its queue. -/
def enqueue (s : State) (c : CoreId) (kind : QKind) (w : CmdWord) : State :=
  let x := getCore s c
  let e := newEntry x.seq x.eng kind w
  advance (modSeq s c fun q => setQ { q with issued := q.issued + 1 } (queueOf kind) (getQ q (queueOf kind) ++ [e])) c

/-- The issue of a queued command: it stalls while its queue has no free entry (R70). -/
def issueQ (row : CmdRow) (kind : QKind) (c : CoreId) (w : CmdWord) (e : IssueEnv) (s : State) : Host.Outcome State Fault Refusal :=
  issueWhen (queueFree c kind) row c w e s fun s => enqueue s c kind w

end Sys2Proof.Machine
end

