-- ==== Sys2Proof/Machine/Ctrl.lean ====
section
/-! DEFINITION. CTRL: the sequencer's own commands, decisions collected by DWAIT, capo points and END (R74 to R78,
R85, R92 to R97). -/

namespace Sys2Proof.Machine
open Sys2Proof

/-- s[k] of the core. -/
def sOf (s : State) (c : CoreId) (k : Nat) : W64 := sreg (getCore s c).seq k

/-- Writes s[d] and goes on. -/
def setAdvance (s : State) (c : CoreId) (d : Nat) (v : W64) : State := advance (modSeq s c fun q => setSreg q d v) c

def execCtrlNop (c : CoreId) (w : CmdWord) (e : IssueEnv) (s : State) : Host.Outcome State Fault Refusal :=
  issueCore .nop c w e s fun s => advance s c

/-- LI (Table 4-3). -/
def execCtrlLi (c : CoreId) (w : CmdWord) (e : IssueEnv) (s : State) : Host.Outcome State Fault Refusal :=
  issueCore .li c w e s fun s => setAdvance s c (wfld w 36 32) (BitVec.ofNat 64 (wfld w 127 64))

/-! ### ALU, BR, LOOP (R74 to R76) -/

/-- Table 4-4. -/
def aluOp (op : Nat) (a y : W64) : W64 :=
  let sh := y.toNat % 64
  match op with
  | 0 => a + y
  | 1 => a - y
  | 2 => a &&& y
  | 3 => a ||| y
  | 4 => a ^^^ y
  | 5 => a <<< sh
  | 6 => a >>> sh
  | 7 => a.sshiftRight sh
  | 8 => a * y
  | 9 => if a.slt y then a else y
  | 10 => if a.slt y then y else a
  | 11 => if a.ult y then a else y
  | 12 => if a.ult y then y else a
  | 13 => if a.slt y then 1 else 0
  | 14 => if a.ult y then 1 else 0
  | _ => if a = y then 1 else 0

/-- The second operand: the sign-extended immediate or s[b]. -/
def aluY (s : State) (c : CoreId) (w : CmdWord) : W64 :=
  if wbit w 47 then (BitVec.ofNat 32 (wfld w 95 64)).signExtend 64 else sOf s c (wfld w 46 42)

def execCtrlAlu (c : CoreId) (w : CmdWord) (e : IssueEnv) (s : State) : Host.Outcome State Fault Refusal :=
  issueCore .alu c w e s fun s =>
    setAdvance s c (wfld w 36 32) (aluOp (wfld w 52 48) (sOf s c (wfld w 41 37)) (aluY s c w))

/-- The conditions of BR (R75). -/
def brCond (k : Nat) (a b : W64) : Bool :=
  match k with
  | 0 => true
  | 1 => decide (a = b)
  | 2 => decide (a ≠ b)
  | 3 => a.slt b
  | 4 => !a.slt b
  | 5 => a.ult b
  | _ => !a.ult b

def execCtrlBr (c : CoreId) (w : CmdWord) (e : IssueEnv) (s : State) : Host.Outcome State Fault Refusal :=
  issueCore .br c w e s fun s =>
    branch s c (brCond (wfld w 44 42) (sOf s c (wfld w 36 32)) (sOf s c (wfld w 41 37))) (wfld w 76 64)

/-- LOOP (R76); with a target beyond the stream it is not executed, and leaves s[c] (R75, R99). -/
def loopBody (c : CoreId) (k target : Nat) (s : State) : State :=
  let v := sOf s c k
  if (getCore s c).seq.cmdMem.length ≤ target ∨ v = 0 then branch s c false target
  else branch (modSeq s c fun q => setSreg q k (v - 1)) c (decide (v ≠ 1)) target

def execCtrlLoop (c : CoreId) (w : CmdWord) (e : IssueEnv) (s : State) : Host.Outcome State Fault Refusal :=
  issueCore .loop c w e s (loopBody c (wfld w 36 32) (wfld w 76 64))

/-! ### LD and ST (R77, R78, R104, R106) -/

/-- The address used by LD and ST. -/
def narrowAddr (s : State) (c : CoreId) (w : CmdWord) : Nat := idxVal (getCore s c).seq.sregs w 64

/-- The checks of LD and ST: alignment, then bounds. -/
def narrowErr (s : State) (c : CoreId) (write : Bool) (a : Nat) : Option (BitVec 8) :=
  if a % 8 ≠ 0 then some cALIGN else rangeErr (getCore s c).spTask ⟨write, a, 8⟩

/-- LD or ST is carried out: its access is presented in the issue cycle (R78, R104). -/
def narrowBody (write : Bool) (c : CoreId) (w : CmdWord) (s : State) : State :=
  match narrowErr s c write (narrowAddr s c w) with
  | some e => raiseTask s c e (pcOf s c)
  | none => advance (startSeq s c (if write then .st else .ld) w 0) c

def execCtrlLd (c : CoreId) (w : CmdWord) (e : IssueEnv) (s : State) : Host.Outcome State Fault Refusal :=
  issueCore .ld c w e s (narrowBody false c w)

def execCtrlSt (c : CoreId) (w : CmdWord) (e : IssueEnv) (s : State) : Host.Outcome State Fault Refusal :=
  issueCore .st c w e s (narrowBody true c w)

/-! ### RDSYS (Table 4-5) -/

def sysValue (s : State) (c : CoreId) (sel : Nat) : W64 :=
  let t := taskOfCore s c
  match partOfCore s c with
  | none => 0
  | some p =>
    let x := getPart s p
    match sel with
    | 0 => BitVec.ofNat 64 (coreIndex x c)
    | 1 => BitVec.ofNat 64 (partCourses x).length
    | 2 => BitVec.ofNat 64 (membersOf s c).length
    | 3 => BitVec.ofNat 64 (match t.bind (·.bundle) with | some b => b.recAddr | none => 0)
    | 4 => s.time
    | 5 => s.fuses.devid.setWidth 64
    | 6 => match t with | some t => t.lastCapo.setWidth 64 | none => 0
    | _ => c.setWidth 64

def execCtrlRdsys (c : CoreId) (w : CmdWord) (e : IssueEnv) (s : State) : Host.Outcome State Fault Refusal :=
  issueCore .rdsys c w e s fun s => setAdvance s c (wfld w 36 32) (sysValue s c (wfld w 67 64))

/-! ### DWAIT (R85) -/

/-- A DWAIT stalls until its copy starts (`startDecision`). -/
def dwaitBody (c : CoreId) (d : BitVec 5) (tag : BitVec 16) (s : State) : State :=
  let q := (getCore s c).seq
  if q.asks.any fun a => decide (a.tag = tag) then modSeq s c fun q => { q with phase := .dwait d tag }
  else raiseTask s c cTAG q.pc

def execCtrlDwait (c : CoreId) (w : CmdWord) (e : IssueEnv) (s : State) : Host.Outcome State Fault Refusal :=
  issueCore .dwait c w e s (dwaitBody c (BitVec.ofNat 5 (wfld w 36 32)) (BitVec.ofNat 16 (wfld w 77 62)))

/-! ### CAPO and END (R92 to R97) -/

/-- A core's own frames or reads stand on a pair that has failed (R350). -/
def onFailedPair (s : State) (c : CoreId) : Bool :=
  s.br.pairs.any fun x => x.2.failed && ((x.2.waitTx ++ x.2.unacked).any fun t => isWriteFrame t && decide ((t.owner.map (·.1)) = some c))

/-- What CAPO and END wait for: empty queues and acknowledged bridge writes. -/
def quietCore (s : State) (c : CoreId) : Bool :=
  let q := (getCore s c).seq
  q.dmaQ.isEmpty && q.wlQ.isEmpty && q.mxQ.isEmpty && q.vxQ.isEmpty && !bridgeBusy s c

/-- The command issues as CAPO and END do: an outstanding ASK raises CAPO_PENDING, writes on a failed pair
LINK_FAIL; until the core is quiet the issue stalls. -/
def capoIssue (s : State) (c : CoreId) (body : State → State) : State :=
  let q := (getCore s c).seq
  if !q.asks.isEmpty then raiseTask s c cCAPO_PENDING q.pc
  else if onFailedPair s c then raiseTask s c cLINK_FAIL q.pc
  else body s

def capoOf (s : State) (c : CoreId) : Option (BitVec 16 × Bool × BitVec 11) :=
  match (getCore s c).seq.phase with
  | .atCapo id cm lk => some (id, cm, lk)
  | _ => none

/-- The initial semaphore values of a job. -/
def semInitOf (s : State) (j : Job) : Tbl (BitVec 16) := match jobDecl s j with | some d => d.semInit | none => []

def semsInitial (s : State) (x : Part) (j : Job) : Bool :=
  (List.range 64).all fun i => decide (tget 0 x.sems i = (semInitOf s j).foldl (fun v e => if e.1 % 64 = i then e.2 else v) 0)

/-- Every core is released from the CAPO; the next commands issue at cycle 20 (Table 4-9). -/
def releaseMeet (s : State) (p : PartId) (cyc : Nat) : State :=
  forAll (partCores (getPart s p)) (fun s c => advance (modSeq s c fun q => { q with phase := .running, next := max q.next (cyc + 20) }) c) s

/-- The last core of the partition has arrived: the checks, the commit, and the release or the stop (R92 to
R94, R97). -/
def completeMeet (s : State) (p : PartId) (c : CoreId) : State :=
  let x := getPart s p
  match x.task, capoOf s c with
  | some t, some (id, commit, live) =>
    let all_ := (partCores x).filterMap (capoOf s)
    let commitAll := all_.all (·.2.1)
    let liveMax := (all_.map (·.2.2.toNat)).foldl max 0
    let pc := pcOf s c
    let job := findJob x t.job
    if all_.any (fun k => decide (k.1 ≠ id)) ∨ (commit ∧ commitAll ∧ t.committed) then raiseTask s c cCAPO_MISMATCH pc
    else if (match job with | some j => !semsInitial s x j | none => false) then raiseTask s c cCAPO_SEM pc
    else
      let s := modTask s p fun t =>
        { t with lastMeet := s.time, lastCapo := id, liveKib := BitVec.ofNat 11 (max live.toNat liveMax)
                 committed := t.committed || commitAll }
      let s := modJob s p t.job fun j => { j with hsRuns := 0 }
      let s := traceRec s p 1 2 t.job id.toNat ((t.bundle.map (·.no)).getD 0)
      if x.endReq.isSome ∧ (partCores x).any (fun d => (getCore s d).seq.due.isSome) then forAll (partCores x) raiseDue s
      else if x.endReq.isSome then
        let s := forAll (partCores x) settleWrites s
        let s := saveCtx s p id (BitVec.ofNat 11 (max live.toNat liveMax))
        let s := noteOvershoot (closeCharge s p) p
        runWindows (modPart s p fun x => { x with atMeet := true, endReq := none }) p
      else releaseMeet s p (getCore s c).seq.cycle
  | _, _ => s

/-- SEM_OVERFLOW is on its way: it reaches the posting core 19 cycles after the POST issued (R81). -/
def overflowDue (s : State) (m : SemMsg) : State :=
  modSeq s m.core fun q => { q with due := some ((q.due.map (·.1)).getD (m.cycle + 19), cSEM_OVERFLOW, (q.due.map (·.2.2)).getD m.pc) }

/-- Applies one POST; one that would take the count above 65,535 is not applied and raises SEM_OVERFLOW. -/
def applyPost (s : State) (p : PartId) (m : SemMsg) : State :=
  let v := (tget 0 (getPart s p).sems m.i.toNat).toNat + m.n.toNat
  if v > 65535 then overflowDue s m
  else modPart s p fun x => { x with sems := tput 0 x.sems m.i.toNat (BitVec.ofNat 16 v) }

/-- POSTs on their way to the semaphore block are applied before a meet is judged: each issued before its core's CAPO, a
POST is applied 9 cycles after its issue, and a meet is judged 9 cycles after the last CAPO's (R81, Table 4-9, log 66). -/
def settlePosts (s : State) (p : PartId) : State :=
  let l := (getPart s p).semNet
  (l.filter (·.post)).foldl (fun s m => applyPost s p m) (modPart s p fun x => { x with semNet := [] })

/-- Every core of the partition stands at a CAPO. -/
def allAtCapo (s : State) (p : PartId) : Bool := (partCores (getPart s p)).all fun d => (capoOf s d).isSome

def arriveCapo (c : CoreId) (id : BitVec 16) (commit : Bool) (live : BitVec 11) (s : State) : State :=
  let s := modSeq s c fun q => { q with phase := .atCapo id commit live }
  match partOfCore s c with
  | none => s
  | some p =>
    if allAtCapo s p then
      let s := settlePosts s p
      if allAtCapo s p then completeMeet s p c else s
    else s

/-- CAPO stalls until the core is quiet, unless an error is due. -/
def capoMay (s : State) (c : CoreId) : Bool := !(getCore s c).seq.asks.isEmpty || onFailedPair s c || quietCore s c

def execCtrlCapo (c : CoreId) (w : CmdWord) (e : IssueEnv) (s : State) : Host.Outcome State Fault Refusal :=
  issueWhen (fun s => capoMay s c) .capo c w e s fun s =>
    capoIssue s c (arriveCapo c (BitVec.ofNat 16 (wfld w 47 32)) (wbit w 48) (BitVec.ofNat 11 (wfld w 59 49)))

def arriveEnd (c : CoreId) (s : State) : State :=
  let s := modSeq s c fun q => { q with phase := .ended }
  match partOfCore s c with
  | none => s
  | some p =>
    if (partCores (getPart s p)).all fun d => decide ((getCore s d).seq.phase = .ended) then endTask s p else s

def execCtrlEnd (c : CoreId) (w : CmdWord) (e : IssueEnv) (s : State) : Host.Outcome State Fault Refusal :=
  issueWhen (fun s => capoMay s c) .end_ c w e s fun s => capoIssue s c (arriveEnd c)

end Sys2Proof.Machine
end

