-- ==== Sys2Proof/Machine/Scheduling.lean ====
section
/-! DEFINITION. Slices, slice-end requests, hard stops, and the settlement of task errors (R280 to R287, R398 to R400). -/

namespace Sys2Proof.Machine
open Sys2Proof

/-! ### SLICE_START (R280) -/

/-- The job has work. -/
def hasWork (s : State) (x : Part) (b : Job) : Bool :=
  b.crashed.isNone && !b.ended &&
  (b.stopped.isSome || (x.atMeet && decide (x.job = b.num)) ||
   match b.kind with
   | .placement m => (s.bundles.any fun c => decide (c.model = m) && allResident s c) || mayForm s x b (eligibleQueue s m)
   | .program _ => true)

/-- The first job with work after the job that last ran, in the cyclic order of the numbers. -/
def nextJob (s : State) (x : Part) : Option Job :=
  ((x.jobs.filter fun b => decide (x.lastRan.toNat < b.num.toNat)) ++ x.jobs.filter fun b => decide (b.num.toNat ≤ x.lastRan.toNat)).find?
    (hasWork s x)

/-- The length of a job's next slice in ticks: its overshoot is taken off, down to 0. -/
def sliceTicks (b : Job) : Nat := b.sliceUs * 100 - b.overshoot

def beginSlice (s : State) (p : PartId) (b : Job) : State :=
  modJob (modPart s p fun x => { x with sliceJob := b.num, sliceStart := s.time, sliceLen := sliceTicks b, lastRan := b.num }) p b.num
    fun j => { j with overshoot := 0, hsLimit := j.hsNext }

/-- The job of the slice while it has time left and work. -/
def currentJob (s : State) (x : Part) : Option Job := if sliceLeft s x then (findJob x x.sliceJob).filter (hasWork s x) else none

/-- Peg registers of a task with no model (R198, R205). -/
def noPegs : List (BitVec 8) := List.replicate 64 0

/-- A job stopped at a meet resumes. -/
def resumeJob (s : State) (p : PartId) (b : Job) (t : Task) : State :=
  match b.ctx, jobDecl s b with
  | some k, some d => restoreTask (modJob s p b.num fun j => { j with stopped := none }) p b d k false t
  | _, _ => s

/-- The task of a program job starts, from its last context image where it has one (R282). -/
def runProgram (s : State) (p : PartId) (b : Job) (d : ImageDecl) : State :=
  match jobVariant s (getPart s p) b false with
  | none => s
  | some v =>
    if !jobVerified s b then reportLoad s p b.num
    else match b.ctx with
      | some k => restoreTask s p b d k true (newTask s b.num none v noPegs)
      | none => startTask s p b d none v noPegs

/-- A task of the job starts or resumes at once, where one is ready and the slice has time; a placement otherwise waits for
its next bundle. -/
def runJob (s : State) (p : PartId) (b : Job) : State :=
  if !canBind s p ∨ !sliceLeft s (getPart s p) ∨ (getPart s p).task.isSome then s
  else match b.stopped, b.kind with
    | some t, _ => resumeJob s p b t
    | none, .program d => runProgram s p b d
    | none, .placement _ => s

/-- The task stopped at a meet goes on in place (R94). -/
def goOn (s : State) (p : PartId) : State :=
  let s := markTask (modPart s p fun x => { x with atMeet := false }) p
  let s := modTask s p fun t => { t with lastMeet := s.time }
  releaseMeet s p 0

/-- A new slice for a job. -/
def newSlice (s : State) (p : PartId) (b : Job) : State :=
  let x := getPart s p
  let same := x.atMeet && decide (x.job = b.num)
  if same then
    let s := beginSlice s p b
    if sliceLeft s (getPart s p) then goOn s p else s
  else
    let s := beginSlice (parkTask s p) p b
    runJob s p b

/-- The partition is between tasks, or its task is stopped at a meet. -/
def canSlice (s : State) (p : PartId) : Bool :=
  let x := getPart s p
  rtRuns s && !s.fatal && !s.pw.pfD3 && x.valid && !x.stopping && !x.destroying && (x.task.isNone || x.atMeet)

def startSlice (s : State) (p : PartId) : State :=
  let x := getPart s p
  match currentJob s x with
  | some b => if x.atMeet then (if x.job = b.num then goOn s p else s) else runJob s p b
  | none => match nextJob s x with
    | some b => newSlice s p b
    | none => s

def execSliceStart (p : PartId) (dt : Nat) (s : State) : Host.Outcome State Fault Refusal :=
  .next (if canSlice s p then startSlice (tick s dt) p else s)

/-! ### SLICE_EXPIRY (R280, R281, R294) -/

/-- The slice is over while its task runs, and no end has been requested. -/
def expired (s : State) (p : PartId) : Bool :=
  let x := getPart s p
  rtRuns s && !s.fatal && !x.stopping && decide (x.sliceJob ≠ 0) && !sliceLeft s x && x.endReq.isNone && !x.atMeet &&
  (match x.task with | some t => t.errors.isEmpty && decide (t.job = x.sliceJob) | none => false)

/-- Another job of the partition has work. -/
def othersWork (s : State) (x : Part) : Bool := x.jobs.any fun b => decide (b.num ≠ x.sliceJob) && hasWork s x b

/-- The runtime asks the slice to end, under the grace limit of now. -/
def requestEnd (s : State) (p : PartId) : State :=
  let x := getPart s p
  let s := modPart s p fun x => { x with endReq := some s.time, reqGrace := x.grace }
  traceRec s p 2 3 x.job 0 (((x.task.bind (·.bundle)).map (·.no)).getD 0)

def sliceOver (s : State) (p : PartId) : State :=
  let x := getPart s p
  if othersWork s x then requestEnd s p
  else match findJob x x.sliceJob with
    | some b => beginSlice s p b
    | none => s

def execSliceExpiry (p : PartId) (dt : Nat) (s : State) : Host.Outcome State Fault Refusal :=
  .next (if expired (tick s dt) p then sliceOver (tick s dt) p else s)

/-! ### HARD_STOP (R281 to R284) -/

/-- max(r, m + t_capo) of R281, in ticks. -/
def overrunFrom (t : Task) (r : W64) : Nat := max r.toNat (t.lastMeet.toNat + t.variant.tCapo)

/-- A task that has reached t_hs. -/
def hardDue (s : State) (p : PartId) : Option Nat :=
  let x := getPart s p
  match x.task, x.endReq with
  | some t, some r =>
    if rtRuns s && !s.fatal && !x.stopping && !x.atMeet && t.errors.isEmpty && decide (overrunFrom t r + x.reqGrace * 10000 ≤ s.time.toNat) then
      some (overrunFrom t r)
    else none
  | _, _ => none

/-- The fate of the task: a bundle's chunks, or a program job's count (R282, R284). -/
def settleHard (s : State) (p : PartId) (t : Task) (b : Job) (blocks : List NewBlock) : State :=
  if t.committed then unbind (commitBundle s p blocks) p
  else if t.bundle.isSome then
    unbind (settleMembers s (partCores (getPart s p)) (taskMembers t) (fun _ c => decide (b.hsLimit ≤ c.hsRuns + 1)) (· + 1) id blocks) p
  else
    let s := modJob s p b.num fun j => { j with hsRuns := j.hsRuns + 1 }
    if b.hsLimit ≤ b.hsRuns + 1 then triggerReclaim s p b.num rsOVERRUN else unbind s p

def hardStop (s : State) (p : PartId) (blocks : List NewBlock) (mark : Nat) : State :=
  match (getPart s p).task with
  | none => s
  | some t =>
    let s := chargeHardStop (closeCharge (stopCores s p) p) p (s.time.toNat - mark)
    let s := traceRec s p 2 4 t.job 0 ((t.bundle.map (·.no)).getD 0)
    match findJob (getPart s p) t.job with
    | some b => settleHard s p t b blocks
    | none => unbind s p

/-- The cores' clocks run as far as the operand says, and stop there. -/
def execHardStop (p : PartId) (env : StopEnv) (dt : Nat) (s : State) : Host.Outcome State Fault Refusal :=
  .next (match hardDue (tick s dt) p with
    | some mark => if blocksOk s env.blocks then hardStop (runCores p env.runs (tick s dt)) p env.blocks mark else s
    | none => s)

/-! ### BUNDLE_ERROR_SETTLE (R99, R398 to R400) -/

/-- The error stands in the committed generation of a member's block (R398). -/
def hitBy (s : State) (errs : List TaskErr) (h : Handle) : Bool :=
  let x := getStream s h
  match streamDecl s x with
  | none => false
  | some d => decide (x.state ≠ .free) && errs.any fun e => decide (e.cause = cDATA_T0) &&
      match e.addr with
      | some a => decide (committedAt d x ≤ a.toNat) && decide (a.toNat < committedAt d x + genBytes d)
      | none => false

/-- The outcome of the first error (Table 19-4): by the fate of the chunks. -/
def errOutcome (s : State) (t : Task) (errs : List TaskErr) : BitVec 3 :=
  if t.bundle.isNone then 3
  else if t.committed then 0
  else if (taskMembers t).any fun m => hitBy s errs m.handle || ((getStream s m.handle).chunks.head?.map (·.errRuns)).getD 0 = 0 then 1
  else 2

/-- Pages with uncorrectable errors of tiers 0 and 1 are retired (R397). -/
def retireErrors (s : State) (errs : List TaskErr) : State :=
  errs.foldl (fun s e =>
    match e.addr with
    | some a => if e.cause = cDATA_T0 ∨ (e.cause = cDATA_T1 ∧ !s.pw.lpddrDown) then retirePage s a.toNat (errSource e.cause) else s
    | none => s) s

/-- Chunks of a bundle that did not commit: requeued uncounted where the images are lost; else failed at the second error
run (R398, R399). -/
def settleErrored (s : State) (t : Task) (lost : List Member) (blocks : List NewBlock) : State :=
  let rest := (taskMembers t).filter fun m => !lost.contains m
  let s := settleMembers s [] rest (fun _ c => decide (1 ≤ c.errRuns)) (fun _ => 0) (fun _ => 1) blocks
  settleMembers s [] lost (fun _ _ => false) id id blocks

/-- A scratchpad error within the drone allotment (R400). -/
def droneHit (b : Job) (errs : List TaskErr) : Bool :=
  errs.any fun e => decide (e.cause = cSRAM_UE) && match e.addr with
    | some a => decide (b.dbase.toNat * 4096 ≤ a.toNat) && decide (a.toNat < (b.dbase.toNat + b.dsize) * 4096)
    | none => false

/-- A drone allotment that met an error is written again from the model image. -/
def mendDrone (s : State) (p : PartId) (b : Job) (errs : List TaskErr) : State :=
  if droneHit b errs then
    match b.kind with
    | .placement m => (match getModel s m with | some y => fillDrone s p b.dbase.toNat ((droneBytes y).take (b.dsize * 4096)) | none => s)
    | .program _ => s
  else s

/-- The error stands in the weights or tables of the job's model. -/
def weightsHit (s : State) (b : Job) (errs : List TaskErr) : Bool :=
  match b.kind with
  | .program _ => false
  | .placement m => match getModel s m with
    | none => false
    | some y => errs.any fun e => decide (e.cause = cDATA_T0) && match e.addr with | some a => weightsHold y a.toNat | none => false

/-- The end of the errored task: the reclaim of a program or of a faulted placement is due, else the partition is free (R285). -/
def endErrored (s : State) (p : PartId) (t : Task) (b : Job) (errs : List TaskErr) : State :=
  let n := if t.committed then 0 else b.errRuns + 1
  let s := mendDrone (modJob s p b.num fun j => { j with errRuns := n }) p b errs
  match b.kind with
  | .program _ => triggerReclaim s p b.num rsTASK_ERROR
  | .placement m =>
    if weightsHit s b errs ∨ 3 ≤ n then
      triggerReclaim (faultModel (modTask s p fun t => { t with settled := true }) m) p b.num rsFAULTED
    else unbind s p

def settleErrors (s : State) (p : PartId) (blocks : List NewBlock) : State :=
  match (getPart s p).task with
  | none => s
  | some t =>
    let s := retireErrors (logTaskErrors (closeCharge (resetCores s p) p) p t (errOutcome s t t.errors)) t.errors
    let s := modTask s p fun t => { t with errors := [] }
    let s := if t.committed then commitBundle s p blocks else s
    let lost := (taskMembers t).filter fun m => hitBy s t.errors m.handle
    let s := lost.foldl (fun s m => loseImages s m.handle (blockFor s blocks m.handle)) s
    let s := if t.committed ∨ t.bundle.isNone then s else settleErrored s t lost blocks
    match findJob (getPart s p) t.job with
    | some b => endErrored s p t b t.errors
    | none => unbind s p

/-- Errors at which each queue first completes the command it is executing (R81, R108, R250, R350, R396). -/
def queuesFirst (cause : BitVec 8) : Bool :=
  [cBANK_CONFLICT, cCZ_INTEGRITY, cSEM_OVERFLOW, cLINK_FAIL, cDATA_T0, cDATA_T1, cDATA_T2, cSRAM_UE].contains cause

/-- The queues of the core of such an error still hold commands. -/
def queuesHold (s : State) (e : TaskErr) : Bool :=
  let q := (getCore s e.core).seq
  queuesFirst e.cause && !(q.dmaQ.isEmpty && q.wlQ.isEmpty && q.mxQ.isEmpty && q.vxQ.isEmpty)

/-- A task error waits for its settlement, the queues that it lets complete have done so, and so have the task's writes (R185). -/
def settleDue (s : State) (p : PartId) : Bool :=
  let x := getPart s p
  rtRuns s && !s.fatal && !x.stopping && !((partCores x).any (bridgeBusy s)) &&
  (match x.task with | some t => !t.errors.isEmpty && !(t.errors.any (queuesHold s)) | none => false)

def execBundleErrorSettle (p : PartId) (blocks : List NewBlock) (dt : Nat) (s : State) : Host.Outcome State Fault Refusal :=
  .next (if settleDue s p && blocksOk s blocks then settleErrors (tick s dt) p blocks else s)

end Sys2Proof.Machine
end

