-- ==== Sys2Proof/Machine/Accounts.lean ====
section
/-! DEFINITION. The reconciliation of energy and the telemetry pages, and the interference report (R188, R262, R291 to R293, R300, R390,
R407). -/

namespace Sys2Proof.Machine
open Sys2Proof

/-! ### Energy (R291) -/

/-- TCLK ticks of an interval, and the course-cycles in one. -/
def intervalTicks : Nat := 10000000
def cTot : Nat := 32 * 120000000

/-- The last closed interval, by number. -/
def intervalOf (s : State) : Nat := s.time.toNat / intervalTicks

/-- An interval has ended and is not closed. -/
def closeDue (s : State) : Bool := decide (s.tele.device.interval.toNat < intervalOf s)

/-- Cycles of every task part on a course. -/
def courseSum (l : List TaskPart) (k : CourseId) : Nat := ((l.filter fun a => decide (a.course = k)).map (·.cycles)).sum

/-- E_k: the energy of a course in the interval. -/
def courseUj (s : State) (k : CourseId) : Nat := ((getCourse s k).energy - tget 0 s.tele.lastCourse k.toNat).toNat

/-- e_t of a task part. -/
def partUj (s : State) (eSh : Nat) (a : TaskPart) : Nat :=
  courseUj s a.course * a.cycles / courseSum s.tele.parts a.course + eSh * a.cycles / cTot

/-- Every client's rounded-down share of the parts. -/
def clientUj (s : State) (eSh : Nat) (f : Func) : Nat := (s.tele.parts.map fun a => partShare a.clients (partUj s eSh a) f).sum

/-- The energies of the interval: measured, shared, and whether the shared energy was clamped at 0. -/
def eMeas (s : State) : Nat := (s.pw.energy - s.tele.lastPw).toNat
def eCourses (s : State) : Nat := (allCourses.map (courseUj s)).sum
def eShared (s : State) : Nat := eMeas s - eCourses s

/-- The energy of the interval is divided: to clients, and what is left to the device account. -/
def divideEnergy (s : State) : State :=
  let eSh := eShared s
  let e := eMeas s
  let clamp := decide (e < eCourses s)
  let shares := allFuncs.map fun f => (f, clientUj s eSh f)
  let total := (shares.map (·.2)).sum
  let s' := shares.foldl (fun s x => if x.2 = 0 then s else modAcct s x.1 fun a => { a with uj := a.uj + x.2 }) s
  { s' with tele := { s'.tele with
      device := { s'.tele.device with
        uj := s'.tele.device.uj + ((e : Int) - total), measured := s'.tele.device.measured + e
        clamped := s'.tele.device.clamped + if clamp then 1 else 0 }
      parts := [], lastPw := s.pw.energy
      lastCourse := allCourses.foldl (fun t k => tput 0 t k.toNat (getCourse s k).energy) [] } }

/-! ### The telemetry pages (R300, R390, R407) -/

/-- PT_PARTp (Table 13-1). -/
def ptPart (x : Part) : W64 :=
  BitVec.ofNat 64 (x.courses.toNat + (if x.valid then 2 ^ 32 else 0) + x.drone.toNat * 2 ^ 33 + x.owner.toNat * 2 ^ 35 + x.job.toNat * 2 ^ 40 +
    (if x.atMeet then 2 ^ 56 else 0) + (if x.stopping then 2 ^ 57 else 0))

/-- The duty in force (R387). -/
def dutyNow (x : PwSt) : BitVec 5 := if x.dutyP.toNat ≤ x.dutyT.toNat then x.dutyP else x.dutyT

/-- Corrections of each source since the last interval are recorded. -/
def logCorrected (s : State) : State :=
  let s' := s.tele.corrected.foldl (fun s c => logError s { errInfo cCORRECTED (BitVec.ofNat 3 c.1) with count := BitVec.ofNat 32 c.2 }) s
  { s' with tele := { s'.tele with corrected := [] } }

/-- What is reported of a state layer: Σ sqerr / (Σ conv × 2^16), in spill units², and Σ sat / Σ conv; 0 where nothing was converted
(R188). -/
def layerReport (l : Nat × Nat × Nat) : Rat × Rat := ((l.2.2 : Rat) / ((l.2.1 : Rat) * 65536), (l.1 : Rat) / (l.2.1 : Rat))

/-- The areas are rewritten; each update word passes through an odd value to the next even one. -/
def rewritePages (s : State) (n : Nat) (mw : Nat) : State :=
  let t := s.tele
  let acc : Tbl Account := allFuncs.foldl (fun a f => tmod .reset a f.toNat fun y => { y with interval := BitVec.ofNat 64 n }) t.accounts
  let dev := { t.device with interval := BitVec.ofNat 64 n }
  { s with tele := { t with
      accounts := acc, device := dev, accSnap := acc, devSnap := dev
      partSnap := allParts.foldl (fun a p => tput 0 a p.toNat (ptPart (getPart s p))) []
      pwSnap := { t.pwRun with powerMw := BitVec.ofNat 32 mw, cap := s.pw.capWatts }
      pwRun := { PwSum.run with dutyMin := dutyNow s.pw, tmax := s.pw.tmax }
      sbSnap := (s.sbtm.nonfinite, s.sbtm.clip, frameLoad s, sampleLoad s)
      modSnap := s.models.map fun m => (m.1, m.2.pegs, m.2.tele, m.2.tele.layers.map layerReport)
      accUpd := t.accUpd + 2, partUpd := t.partUpd + 2, pwUpd := t.pwUpd + 2, sbUpd := t.sbUpd + 2, modUpd := t.modUpd + 2 } }

/-- Tasks that run are split at the interval's edge. -/
def cutAll (s : State) : State := forAll allParts (fun s p => if (getPart s p).atMeet then s else cutParts s p) s

def closeInterval (s : State) : State :=
  let n := intervalOf s
  let k := n - s.tele.device.interval.toNat
  let s := forAll allParts closeIdle s
  let s := cutAll s
  let e := eMeas s
  let s := logCorrected (divideEnergy s)
  rewritePages s n (e / (100 * k))

def execReconciliationClose (dt : Nat) (s : State) : Host.Outcome State Fault Refusal :=
  .next (if rtRuns s && closeDue (tick s dt) then closeInterval (tick s dt) else s)

/-! ### INTERFERENCE_REPORT (R293) -/

/-- The second that has ended last. -/
def secondOf (s : State) : Nat := s.time.toNat / 100000000

/-- The mean tier 0 wait of a partition's requests since the last report. -/
def meanWait (s : State) (p : PartId) : Nat :=
  let x := getPart s p
  let l := tget (0, 0) s.tele.lastQ p.toNat
  let n := (x.qReqs - l.1).toNat
  if n = 0 then 0 else (x.qWait - l.2).toNat / n

/-- The reports of a partition: of its jobs, and of those that ended and were reclaimed within the second. -/
def jobReports (s : State) (p : PartId) : List Interf :=
  let l : List Interf := (s.tele.gone.filter fun r => decide (r.part = p)) ++ (getPart s p).jobs.map fun b => ⟨p, b.num, b.tasks, ratioOf b, 0, 0⟩
  l.map fun r => { r with qwait := meanWait s p, second := BitVec.ofNat 64 (secondOf s * 100000000) }

/-- The sums of the next second start at 0. -/
def clearSums (s : State) (p : PartId) : State :=
  let x := getPart s p
  if x.jobs.isEmpty then s
  else setPart s p { x with jobs := x.jobs.map fun b => { b with obsCycles := 0, soloTicks := 0, tasks := 0 } }

def reportAll (s : State) : State :=
  let rep := allParts.flatMap (jobReports s)
  let q := allParts.foldl (fun t p => let x := getPart s p; tput (0, 0) t p.toNat (x.qReqs, x.qWait)) []
  let n := secondOf s
  let s := forAll allParts clearSums s
  { s with tele := { s.tele with interf := rep, gone := [], lastQ := q, lastSec := n, intfUpd := s.tele.intfUpd + 2 } }

def execInterferenceReport (dt : Nat) (s : State) : Host.Outcome State Fault Refusal :=
  .next (if rtRuns s && decide (s.tele.lastSec < secondOf (tick s dt)) then reportAll (tick s dt) else s)

end Sys2Proof.Machine
end

