-- ==== Sys2Proof/Machine/Sync.lean ====
section
/-! DEFINITION. SYNC and the semaphore block, time limits of WAIT and of decisions, the arrival of decisions and the
freeing of summary space (R80 to R85). -/

namespace Sys2Proof.Machine
open Sys2Proof

/-! ### SYNC commands (Table 4-8) -/

/-- A message leaves for the semaphore block of the core's partition. -/
def sendSem (s : State) (c : CoreId) (m : SemMsg) : State :=
  match partOfCore s c with
  | none => s
  | some p => modPart s p fun x => { x with semNet := x.semNet ++ [m] }

def semMsg (s : State) (c : CoreId) (w : CmdWord) (post : Bool) : SemMsg :=
  ⟨c, clockOf s c, pcOf s c, BitVec.ofNat 6 (wfld w 37 32), BitVec.ofNat 16 (wfld w 63 48), post⟩

def execSyncPost (c : CoreId) (w : CmdWord) (e : IssueEnv) (s : State) : Host.Outcome State Fault Refusal :=
  issueCore .post c w e s fun s => advance (sendSem s c (semMsg s c w true)) c

def execSyncWait (c : CoreId) (w : CmdWord) (e : IssueEnv) (s : State) : Host.Outcome State Fault Refusal :=
  issueCore .wait c w e s fun s =>
    let m := semMsg s c w false
    if m.n = 0 then advance s c
    else modSeq (sendSem s c m) c fun q => { q with phase := .waitSem m.i m.n s.time }

def execSyncTry (c : CoreId) (w : CmdWord) (e : IssueEnv) (s : State) : Host.Outcome State Fault Refusal :=
  issueCore .try_ c w e s fun s =>
    let m := semMsg s c w false
    modSeq (sendSem s c m) c fun q => { q with phase := .trySem m.i m.n (BitVec.ofNat 5 (wfld w 44 40)) }

/-! ### The semaphore block (R81) -/

/-- The oldest message of a core on the network. -/
def firstMsg (l : List SemMsg) (c : CoreId) : Option SemMsg := l.find? fun m => decide (m.core = c)

/-- The network without the oldest message of a core. -/
def dropMsg : List SemMsg → CoreId → List SemMsg
  | [], _ => []
  | m :: r, c => if m.core = c then r else m :: dropMsg r c

/-- The core goes on after its WAIT or TRY, 20 cycles after the message that settled it was issued (Table 4-9); a TRY writes s[d]. -/
def grantSem (s : State) (c : CoreId) (at_ : Nat) (got : Bool) : State :=
  match (getCore s c).seq.phase with
  | .waitSem _ _ _ => advance (modSeq s c fun q => { q with phase := .running, next := at_ + 20 }) c
  | .trySem _ _ d => advance (modSeq s c fun q => setSreg { q with phase := .running, next := at_ + 20 } d.toNat (if got then 1 else 0)) c
  | _ => s

/-- Does the core still wait for a TRY? -/
def isTry (s : State) (c : CoreId) : Bool := match (getCore s c).seq.phase with | .trySem _ _ _ => true | _ => false

/-- Evaluates one waiting request; `at_` is the cycle in which the messages that arrive were issued. -/
def evalSem (s : State) (p : PartId) (at_ : Nat) (m : SemMsg) : State :=
  let x := getPart s p
  let v := (tget 0 x.sems m.i.toNat).toNat
  let rest := dropMsg x.semWait m.core
  if m.n.toNat ≤ v then
    grantSem (modPart s p fun x => { x with sems := tput 0 x.sems m.i.toNat (BitVec.ofNat 16 (v - m.n.toNat)), semWait := rest }) m.core (max m.cycle at_) true
  else if isTry s m.core then grantSem (modPart s p fun x => { x with semWait := rest }) m.core (max m.cycle at_) false
  else s

/-- The semaphore block's cycle: the messages of `arrivals` arrive; POSTs are applied in ascending core index, then
waiting requests are evaluated in ascending core index (R81). -/
def execSemBlockCycle (p : PartId) (arrivals : List CoreId) (s : State) : Host.Outcome State Fault Refusal :=
  if !devRuns s ∨ (getPart s p).task.isNone then .next s
  else
    let x := getPart s p
    let cores := (partCores x).filter fun c => arrivals.contains c
    let msgs := cores.filterMap fun c => firstMsg x.semNet c
    let s := modPart s p fun x => { x with
      semNet := msgs.foldl (fun l m => dropMsg l m.core) x.semNet, semWait := x.semWait ++ msgs.filter fun m => !m.post }
    let s := (msgs.filter (·.post)).foldl (fun s m => applyPost s p m) s
    let waiting := (partCores (getPart s p)).filterMap fun c => firstMsg (getPart s p).semWait c
    .next (waiting.foldl (fun s m => evalSem s p ((msgs.map (·.cycle)).foldl max 0) m) s)

/-! ### Time limits (R82, R85) -/

/-- The core's requests leave the semaphore block. -/
def dropSem (s : State) (c : CoreId) : State :=
  match partOfCore s c with
  | none => s
  | some p => modPart s p fun x => { x with
      semNet := x.semNet.filter fun m => decide (m.core ≠ c) || m.post, semWait := x.semWait.filter fun m => decide (m.core ≠ c) }

def execSyncTimeout (c : CoreId) (dt : Nat) (s : State) : Host.Outcome State Fault Refusal :=
  let q := (getCore s c).seq
  match q.phase with
  | .waitSem _ _ t0 =>
    if !devRuns s ∨ (s.time + BitVec.ofNat 64 dt - t0).toNat < q.syncTimeout.toNat then .next s
    else .next (raiseTask (dropSem (tick s dt) c) c cSYNC_TIMEOUT q.pc)
  | _ => .next s

/-- A decision has not come within decision_timeout of its ASK's issue. -/
def execDecisionTimeout (c : CoreId) (tag : BitVec 16) (dt : Nat) (s : State) : Host.Outcome State Fault Refusal :=
  let q := (getCore s c).seq
  match q.asks.find? fun a => decide (a.tag = tag) && a.decision.isNone with
  | none => .next s
  | some a =>
    if !devRuns s ∨ (s.time + BitVec.ofNat 64 dt - a.issued).toNat < q.decisionTimeout.toNat then .next s
    else .next (raiseTask (dropSem (tick s dt) c) c cDECISION_TIMEOUT q.pc)

/-! ### Decisions and summary space (R84, R85) -/

/-- The runtime has had the ASK's summary. -/
def askDelivered (s : State) (c : CoreId) (tag : BitVec 16) : Bool :=
  match taskOfCore s c with
  | none => false
  | some t => t.sums.any fun r => decide (r.core = c) && r.ask && decide (r.tag = tag)

/-- The runtime writes a decision of at most dlen bytes; one that no ASK waits for is discarded (R100). -/
def execDecisionArrival (r : CoreRun) (tag : BitVec 16) (bytes : List Byte) (s : State) : Host.Outcome State Fault Refusal :=
  let c := r.core
  let q := (getCore s c).seq
  if !rtRuns s ∨ !askDelivered s c tag then .next s
  else
    match q.asks.find? fun a => decide (a.tag = tag) && a.decision.isNone && decide (bytes.length ≤ a.dlen) with
    | none => .next s
    | some _ =>
      .next (modSeq (runFor r.run s c r.gap) c fun q => { q with asks := q.asks.map fun a => if a.tag = tag then { a with decision := some bytes } else a })

/-- The runtime frees space of the summary ring, from the oldest byte on, once the cores' clocks have run as far as the operand says; what
waits for it may start in their next cycles. -/
def execSummaryRingFreed (p : PartId) (bytes : Nat) (runs : List CoreRun) (s : State) : Host.Outcome State Fault Refusal :=
  if !rtRuns s then .next s
  else .next (modPart (runCores p runs s) p fun x => { x with sumRing := x.sumRing.drop bytes })

end Sys2Proof.Machine
end

