-- ==== Sys2Proof/Machine/CoreQ.lean ====
section
/-! DEFINITION. The commands of a core that go through its queues, one meaning each over the shared issue, and the
events that complete them (R70, R83 to R90, 06, 07, 08, 09, 11). -/

namespace Sys2Proof.Machine
open Sys2Proof

/-! ### SUMMARY (R83 to R85) -/

def execSummarySend (c : CoreId) (w : CmdWord) (e : IssueEnv) (s : State) : Host.Outcome State Fault Refusal :=
  issueQ .send .summarySend c w e s

/-- An ASK is outstanding from its issue; TAG and ASK_LIMIT are checked there. -/
def askBody (c : CoreId) (w : CmdWord) (s : State) : State :=
  let q := (getCore s c).seq
  let tag := BitVec.ofNat 16 (wfld w 77 62)
  if q.asks.any fun a => decide (a.tag = tag) then raiseTask s c cTAG q.pc
  else if q.asks.length ≥ 4 then raiseTask s c cASK_LIMIT q.pc
  else
    let a : AskRec := ⟨tag, s.time, BitVec.ofNat 20 (wfld w 97 78), wfld w 104 98 * 64, none⟩
    enqueue (modSeq s c fun q => { q with asks := q.asks ++ [a] }) c .summaryAsk w

def execSummaryAsk (c : CoreId) (w : CmdWord) (e : IssueEnv) (s : State) : Host.Outcome State Fault Refusal :=
  issueWhen (queueFree c .summaryAsk) .ask c w e s (askBody c w)

/-! ### DMA (R86 to R89) -/

def execDmaLoad (c : CoreId) (w : CmdWord) (e : IssueEnv) (s : State) : Host.Outcome State Fault Refusal := issueQ .dmaLoad .dmaLoad c w e s
def execDmaStore (c : CoreId) (w : CmdWord) (e : IssueEnv) (s : State) : Host.Outcome State Fault Refusal := issueQ .dmaStore .dmaStore c w e s
def execDmaCopy (c : CoreId) (w : CmdWord) (e : IssueEnv) (s : State) : Host.Outcome State Fault Refusal := issueQ .dmaCopy .dmaCopy c w e s
def execDmaZero (c : CoreId) (w : CmdWord) (e : IssueEnv) (s : State) : Host.Outcome State Fault Refusal := issueQ .dmaZero .dmaZero c w e s

/-! ### CONFIG into a queue (Table 4-12) -/

def execConfigFretTables (c : CoreId) (w : CmdWord) (e : IssueEnv) (s : State) : Host.Outcome State Fault Refusal := issueQ .cfgFret .cfgFret c w e s
def execConfigCodebooks (c : CoreId) (w : CmdWord) (e : IssueEnv) (s : State) : Host.Outcome State Fault Refusal := issueQ .cfgCodebook .cfgCodebook c w e s
def execConfigDecayTable (c : CoreId) (w : CmdWord) (e : IssueEnv) (s : State) : Host.Outcome State Fault Refusal := issueQ .cfgDecay .cfgDecay c w e s
def execConfigRescaleTables (c : CoreId) (w : CmdWord) (e : IssueEnv) (s : State) : Host.Outcome State Fault Refusal := issueQ .cfgRescale .cfgRescale c w e s
def execConfigTblSegments (c : CoreId) (w : CmdWord) (e : IssueEnv) (s : State) : Host.Outcome State Fault Refusal := issueQ .cfgTbl .cfgTbl c w e s
def execConfigCodingLoad (c : CoreId) (w : CmdWord) (e : IssueEnv) (s : State) : Host.Outcome State Fault Refusal := issueQ .cfgCzLoad .cfgCzLoad c w e s
def execConfigCodingBuild (c : CoreId) (w : CmdWord) (e : IssueEnv) (s : State) : Host.Outcome State Fault Refusal := issueQ .cfgCzBuild .cfgCzBuild c w e s

/-! ### Matrix, weight-load and vector queues -/

def execMatmulPlain (c : CoreId) (w : CmdWord) (e : IssueEnv) (s : State) : Host.Outcome State Fault Refusal := issueQ .mmPlain .matmulPlain c w e s
def execMatmulAccum (c : CoreId) (w : CmdWord) (e : IssueEnv) (s : State) : Host.Outcome State Fault Refusal := issueQ .mmAccum .matmulAccum c w e s
def execMatmulDecay (c : CoreId) (w : CmdWord) (e : IssueEnv) (s : State) : Host.Outcome State Fault Refusal := issueQ .mmDecay .matmulDecay c w e s
def execMatmulRotate (c : CoreId) (w : CmdWord) (e : IssueEnv) (s : State) : Host.Outcome State Fault Refusal := issueQ .mmRotate .matmulRotate c w e s
def execWload (c : CoreId) (w : CmdWord) (e : IssueEnv) (s : State) : Host.Outcome State Fault Refusal := issueQ .wload .wload c w e s
def execAdrainDrain (c : CoreId) (w : CmdWord) (e : IssueEnv) (s : State) : Host.Outcome State Fault Refusal := issueQ .drain .adrainDrain c w e s
def execAdrainFill (c : CoreId) (w : CmdWord) (e : IssueEnv) (s : State) : Host.Outcome State Fault Refusal := issueQ .fill .adrainFill c w e s
def execVchain (c : CoreId) (w : CmdWord) (e : IssueEnv) (s : State) : Host.Outcome State Fault Refusal := issueQ .vchain .vchain c w e s
def execVdescLoad (c : CoreId) (w : CmdWord) (e : IssueEnv) (s : State) : Host.Outcome State Fault Refusal := issueQ .vdLoad .vdescLoad c w e s
def execVdescSetvl (c : CoreId) (w : CmdWord) (e : IssueEnv) (s : State) : Host.Outcome State Fault Refusal := issueQ .vdSetvl .vdescSetvl c w e s
def execVdescStats (c : CoreId) (w : CmdWord) (e : IssueEnv) (s : State) : Host.Outcome State Fault Refusal := issueQ .vdStats .vdescStats c w e s
def execStateioLoad (c : CoreId) (w : CmdWord) (e : IssueEnv) (s : State) : Host.Outcome State Fault Refusal := issueQ .stLoad .stLoad c w e s
def execStateioSave (c : CoreId) (w : CmdWord) (e : IssueEnv) (s : State) : Host.Outcome State Fault Refusal := issueQ .stSave .stSave c w e s
def execStateioWread (c : CoreId) (w : CmdWord) (e : IssueEnv) (s : State) : Host.Outcome State Fault Refusal := issueQ .stWread .stWread c w e s
def execStateioWwrite (c : CoreId) (w : CmdWord) (e : IssueEnv) (s : State) : Host.Outcome State Fault Refusal := issueQ .stWwrite .stWwrite c w e s
def execSpreadFwd (c : CoreId) (w : CmdWord) (e : IssueEnv) (s : State) : Host.Outcome State Fault Refusal := issueQ .spreadFwd .spreadFwd c w e s
def execSpreadInv (c : CoreId) (w : CmdWord) (e : IssueEnv) (s : State) : Host.Outcome State Fault Refusal := issueQ .spreadInv .spreadInv c w e s
def execQscanScan (c : CoreId) (w : CmdWord) (e : IssueEnv) (s : State) : Host.Outcome State Fault Refusal := issueQ .scan .scan c w e s
def execQscanMerge (c : CoreId) (w : CmdWord) (e : IssueEnv) (s : State) : Host.Outcome State Fault Refusal := issueQ .merge .merge c w e s
def execQscanPick (c : CoreId) (w : CmdWord) (e : IssueEnv) (s : State) : Host.Outcome State Fault Refusal := issueQ .pick .pick c w e s

/-! ### Completions (R70, log 31) -/

/-- A command whose timing is its own and that is at the head of a queue: the core's clock runs past its completion. -/
def runPast (s : State) (c : CoreId) (k : QSel) (run : RunEnv) (kind : QKind → Bool) : State :=
  match runningHead s c k with
  | none => s
  | some q => match q.endAt with
    | some n => if kind q.kind then runTo run s c (n + 1) else s
    | none => s

/-- A MATMUL, or a CONFIG of the matrix queue, completes. -/
def execMatmulComplete (e : CoreEnv) (s : State) : Host.Outcome State Fault Refusal :=
  if devRuns s then .next (runPast s e.core .mx e.run fun k => !isAdrain k) else .next s

def execWloadComplete (e : CoreEnv) (s : State) : Host.Outcome State Fault Refusal :=
  if devRuns s then .next (runPast s e.core .wl e.run fun _ => true) else .next s

def execVchainComplete (e : CoreEnv) (s : State) : Host.Outcome State Fault Refusal :=
  if devRuns s then .next (runPast s e.core .vx e.run fun _ => true) else .next s

/-- A draining shadow slot is empty (R130, R131): the clock runs past the cycle in which it turns so. -/
def execShadowDrainEnd (e : CoreEnv) (s : State) : Host.Outcome State Fault Refusal :=
  let c := e.core
  if devRuns s ∧ (getCore s c).eng.mx.shState = 3 then .next (drainDue (runTo e.run s c ((getCore s c).seq.drainAt + 1)) c) else .next s

/-- A memory command at the head of a queue: what is left of it moves, and it completes once its frames have been accepted (R89, R145, R181);
what completed behind it follows. -/
def finishMemory (s : State) (c : CoreId) (k : QSel) (q : QEntry) : State :=
  let s := moveRest c q (unitsLeft q) s
  let q := entryNow s c q
  if q.remoteReads ≠ 0 ∨ framesWaiting s c q.n then s else popAll (completeEntry s c k q) c (clockOf s c - 1)

/-- The DMA queue's head, or an ADRAIN, completes once the core's clock has run as far as the operand says. -/
def execAdrainComplete (r : CoreRun) (s : State) : Host.Outcome State Fault Refusal :=
  let c := r.core
  if !devRuns s then .next s
  else
    let s := runFor r.run s c r.gap
    match (runningHead s c .mx).filter fun q => isAdrain q.kind with
    | some q => .next (finishMemory s c .mx q)
    | none => .next s

/-- A pair on which the command of entry `n` waits has failed (R350). -/
def entryFailed (s : State) (c : CoreId) (n : Nat) : Bool :=
  s.br.pairs.any fun x => x.2.failed &&
    (x.2.waitTx.any (fun t => decide (t.owner = some (c, n))) || x.2.reads.any fun r => decide (r.owner = some (c, n)))

/-- The command at the head of the DMA queue fails by its pair (R350). -/
def failHead (s : State) (c : CoreId) (q : QEntry) : State :=
  let s := modEng (dropEntry s c .dma q.n) c fun e => dropCounts e [q]
  abandonRest (raiseTask s c cLINK_FAIL q.pc) c

/-- The head of the DMA queue completes once its remote reads are in and its frames accepted (R89). -/
def execDmaComplete (r : CoreRun) (s : State) : Host.Outcome State Fault Refusal :=
  let c := r.core
  if !devRuns s then .next s
  else
    let s := runFor r.run s c r.gap
    match runningHead s c .dma with
    | none => .next s
    | some q =>
      if !byMemory q.kind then .next (runPast s c .dma r.run fun _ => true)
      else if entryFailed s c q.n then .next (failHead s c q)
      else .next (finishMemory s c .dma q)

end Sys2Proof.Machine
end

