-- ==== Sys2Proof/Machine/Frames.lean ====
section
/-! DEFINITION. Lemrix frames received: PAIR, the sequenced types but MIG_CTRL, ACK, NAK, REJECT; the retry timeout; discards (R338, R342,
R344 to R351). -/

namespace Sys2Proof.Machine
open Sys2Proof

def execPairReceive (n : PortNo) (fr : Frame) (dt : Nat) (s : State) : Host.Outcome State Fault Refusal :=
  .next (match (if arrives s n fr ftPAIR then getWin s fr.win else none) with
    | some w => if admits w fr.src then receivePair (tick s dt) w fr else s
    | none => s)

/-! ### Sequenced frames (R344, R349) -/

/-- The frame's range lies in the window, which permits the operation (R344). -/
def windowTakes (w : Win) (fr : Frame) (perm : Nat) : Bool :=
  !w.closing && admits w fr.src && w.perm.getLsbD perm && decide (w.base ≤ fr.addr.toNat) && decide (fr.addr.toNat + fr.len.toNat ≤ w.base + w.size)

/-- R344 for a frame: `none` for the types that no window checks. -/
def frameTaken (s : State) (fr : Frame) (perm : Option Nat) : Bool :=
  match perm with
  | none => true
  | some k => match getWin s fr.win with
    | some w => windowTakes w fr k && !onDown s fr.addr.toNat fr.len.toNat && decide (k ≠ 2 ∨ fr.addr.toNat % 8 = 0)
    | none => false

/-- A REJECT names the frame. -/
def rejectFrame (s : State) (fr : Frame) : State :=
  match pairIdx s fr.win fr.src with
  | none => sendFrame s { mkFrame s ftREJECT fr.src fr.win 0 0 [] with seq := fr.seq }
  | some i => sendCtl s i ftREJECT fr.seq

/-- The expected frame: applied, acknowledged, its credits on their way back. -/
def takeExpected (s : State) (i : Nat) (p : Pair) (fr : Frame) (apply : Nat → State → State) : State :=
  let s := apply i (setPair s i { p with rxNext := p.rxNext + 1, credRet := p.credRet + creditsOf fr, nakSent := false })
  match getPair s i with
  | none => s
  | some q => if q.txNext = p.txNext then sendCtl s i ftACK 0 else s

/-- A sequenced frame of a pair, in its order: applied, discarded and acknowledged again, or beyond a gap. A pair that has failed here applies
none, and rejects what its window does not take (R344, R350). -/
def takeSequenced (s : State) (i : Nat) (p : Pair) (fr : Frame) (ok : Bool) (apply : Nat → State → State) : State :=
  if p.failed then (if ok then s else rejectFrame s fr)
  else if fr.seq = p.rxNext then (if ok then takeExpected s i p fr apply else rejectFrame s fr)
  else if 32768 ≤ (fr.seq - p.rxNext).toNat then sendCtl s i ftACK 0
  else if p.nakSent then s
  else sendCtl (setPair s i { p with nakSent := true }) i ftNAK 0

/-- The credits that a sequenced frame brings back: with the frame that is taken, and not again with one that is sent anew (log 121). -/
def credsOf (p : Pair) (fr : Frame) (ok : Bool) : Nat := if ok ∧ fr.seq = p.rxNext then fr.cred.toNat else 0

def receiveSequenced (s : State) (fr : Frame) (perm : Option Nat) (apply : Nat → State → State) : State :=
  match pairIdx s fr.win fr.src with
  | none => if perm.isSome && !frameTaken s fr perm then rejectFrame s fr else s
  | some i =>
    let ok := frameTaken s fr perm
    let s := match getPair s i with | some p => takeAckOf s i fr (credsOf p fr ok) | none => s
    match getPair s i with
    | none => s
    | some p => takeSequenced s i p fr ok apply

/-- An access of the bridge inbound class, within the owning job's grants (R344, R258). -/
def inboundGuard (s : State) (fr : Frame) (write : Bool) (ok : State) : State :=
  match getWin s fr.win with
  | none => s
  | some w =>
    if partGrant s w.part w.job write fr.addr.toNat fr.len.toNat then ok
    else deviceError s { errInfo cSERVICE_FENCE 4 with addr := some fr.addr }

def applyWrite (fr : Frame) (_ : Nat) (s : State) : State :=
  inboundGuard s fr true (devWrite s fr.addr.toNat fr.payload)

/-- The client that a window's bridge bytes are charged to: the owner of its partition (Table 13-7). -/
def winClient (s : State) (w : WinNo) : Func := match getWin s w with | some x => (getPart s x.part).owner | none => 0

/-- Answers with a READ_RESP that carries the bytes. -/
def respond (s : State) (i : Nat) (fr : Frame) (b : List Byte) : State :=
  let r := mkFrame s ftREAD_RESP fr.src fr.win 0 fr.tag b
  pairEnqueue (chargeBridge s (winClient s fr.win) b.length) i [⟨r, none, 0, 0⟩]

def applyReadReq (fr : Frame) (i : Nat) (s : State) : State :=
  inboundGuard s fr false (respond s i fr (devRead s fr.addr.toNat fr.len.toNat))

/-- The addend goes on the old value, which the answer carries (R347). -/
def applyAtomic (fr : Frame) (i : Nat) (s : State) : State :=
  let old := devRead s fr.addr.toNat 8
  inboundGuard s fr true
    (respond (devWrite s fr.addr.toNat (leBytes 8 ((leNat old + leNat fr.payload) % 2 ^ 64))) i fr old)

/-! ### Read responses (R351) -/

/-- A response's bytes go to the command that asked for them. -/
def deliverRead (s : State) (c : CoreId) (n : Nat) (r : ReadWait) (b : List Byte) : State :=
  modEntry s c .dma n fun q => { q with got := tputs 0 q.got r.off (fitBytes r.len b), remoteReads := q.remoteReads - 1 }

def applyReadResp (fr : Frame) (i : Nat) (s : State) : State :=
  match getPair s i with
  | none => s
  | some p =>
    match p.reads.find? fun r => decide (r.tag = fr.tag) with
    | none => s
    | some r =>
      let s := setPair s i { p with reads := p.reads.erase r }
      let s := match r.owner with | some (c, n) => deliverRead s c n r fr.payload | none => s
      settleCloses s

/-! ### The rows -/

def execWriteFrame (n : PortNo) (fr : Frame) (dt : Nat) (s : State) : Host.Outcome State Fault Refusal :=
  .next (if arrives s n fr ftWRITE then receiveSequenced (tick s dt) fr (some 0) (applyWrite fr) else s)

def execReadReqFrame (n : PortNo) (fr : Frame) (dt : Nat) (s : State) : Host.Outcome State Fault Refusal :=
  .next (if arrives s n fr ftREAD_REQ then receiveSequenced (tick s dt) fr (some 1) (applyReadReq fr) else s)

def execReadRespFrame (n : PortNo) (fr : Frame) (dt : Nat) (s : State) : Host.Outcome State Fault Refusal :=
  .next (if arrives s n fr ftREAD_RESP then receiveSequenced (tick s dt) fr none (applyReadResp fr) else s)

def execAtomicFrame (n : PortNo) (fr : Frame) (dt : Nat) (s : State) : Host.Outcome State Fault Refusal :=
  .next (if arrives s n fr ftATOMIC then receiveSequenced (tick s dt) fr (some 2) (applyAtomic fr) else s)

def execMigDataFrame (n : PortNo) (fr : Frame) (dt : Nat) (s : State) : Host.Outcome State Fault Refusal :=
  .next (if arrives s n fr ftMIG_DATA then receiveSequenced (tick s dt) fr (some 0) (applyWrite fr) else s)

def execAckFrame (n : PortNo) (fr : Frame) (dt : Nat) (s : State) : Host.Outcome State Fault Refusal :=
  .next (if arrives s n fr ftACK then (match pairIdx s fr.win fr.src with | some i => takeAck (tick s dt) i fr | none => s) else s)

/-- The frames before the one named are acknowledged; the rest are sent again. -/
def execNakFrame (n : PortNo) (fr : Frame) (dt : Nat) (s : State) : Host.Outcome State Fault Refusal :=
  .next (if arrives s n fr ftNAK then
      (match pairIdx s fr.win fr.src with
       | some i => if pairStands s fr.win fr.src then resendAll (takeAck (tick s dt) i fr) i else s
       | none => s)
    else s)

def execRejectFrame (n : PortNo) (fr : Frame) (dt : Nat) (s : State) : Host.Outcome State Fault Refusal :=
  .next (if arrives s n fr ftREJECT then
      (match pairIdx s fr.win fr.src with
       | some i => pairFail (takeAck (tick s dt) i fr) i
       | none => s)
    else s)

/-! ### RETRY_TIMEOUT (R349, R350) -/

/-- tx_acked has not advanced for retry_us. -/
def retryDue (s : State) (p : Pair) : Bool := !p.failed && !p.unacked.isEmpty && decide (s.br.retryUs.toNat * 100 ≤ (s.time - p.progress).toNat)

def retry (s : State) (i : Nat) (p : Pair) : State :=
  if s.br.retryMax.toNat ≤ p.timeouts + 1 then pairFail s i else resendAll (setPair s i { p with timeouts := p.timeouts + 1, progress := s.time }) i

def execRetryTimeout (pair : BitVec 10) (dt : Nat) (s : State) : Host.Outcome State Fault Refusal :=
  .next (match getPair s pair.toNat with
    | some p => if devRuns s && retryDue (tick s dt) p then retry (tick s dt) pair.toNat p else s
    | none => s)

/-! ### FRAME_DISCARD (R337, R338, R345) -/

/-- What has a frame discarded. -/
def discardable (s : State) (etherType : BitVec 16) (fcsOk : Bool) (fr : Frame) : Bool :=
  decide (etherType ≠ s.br.ethertype) || !fcsOk || decide (fr.ver ≠ 1) || !lenAgrees fr

def execFrameDiscard (n : PortNo) (etherType : BitVec 16) (fcsOk : Bool) (fr : Frame) (s : State) : Host.Outcome State Fault Refusal :=
  .next (if linksRun s && (getPort s n).up && discardable s etherType fcsOk fr then
      let x := getPort s n
      setPort s n { x with dropped := x.dropped + 1, fecUncorr := if fcsOk then x.fecUncorr else x.fecUncorr + 1 }
    else s)

end Sys2Proof.Machine
end

