-- ==== Sys2Proof/Machine/MigCode.lean ====
section
/-! DEFINITION. The coded form of a committed generation and its window region (R251). -/

namespace Sys2Proof.Machine
open Sys2Proof

/-- The layers by ascending offset. -/
def insertLayer (a : StateLayer) : List StateLayer → List StateLayer
  | [] => [a]
  | b :: l => if a.loff ≤ b.loff then a :: b :: l else b :: insertLayer a l

def layersInOrder (d : ImageDecl) : List StateLayer := d.layers.foldr insertLayer []

/-- The coding format of a layer, and its bytes (R251, Table 8-3). -/
def layerFmt (l : StateLayer) : Nat := if l.s24 then 5 else 4
def layerBytes (l : StateLayer) : Nat := l.count * esizeOf (layerFmt l)

/-- A code table record built from the bytes alone, then their extent. -/
def codePart (fmt : Nat) (b : List Byte) : List Byte :=
  let h := addHist [] fmt b
  let r := recordOf fmt (buildLens ((List.range (czClasses fmt)).map fun k => tget 0 h k))
  r ++ (encodeRow (slotOfRecord r) 0 fmt b).1

/-- The coded form: header, layers, window region. -/
def codeGen (d : ImageDecl) (gen win : List Byte) : List Byte :=
  gen.take 64 ++ ((layersInOrder d).flatMap fun l => codePart (layerFmt l) ((gen.drop (64 * l.loff)).take (layerBytes l))) ++ codePart 3 win

/-- One part of a coded form: its bytes, and how long the part is; `none` where a block or the record is corrupt. -/
def decodePart (fmt n : Nat) (b : List Byte) : Option (List Byte × Nat) :=
  let r := b.take 320
  let emax := emaxOf n (esizeOf fmt)
  let ext := (b.drop 320).take emax
  if !czRecordOk r ∨ (slotOfRecord r).fmt.toNat ≠ fmt then none
  else
    let x := decodeRow (slotOfRecord r) 0 fmt n ext
    if x.2 then none else some (x.1, 320 + extentBytes (n / esizeOf fmt) emax ext)

/-- What a coded form holds: pieces of the generation by offset, the window region's bytes, and its length. -/
structure Uncoded where
  gen : List (Nat × List Byte)
  win : List Byte
  len : Nat
  deriving DecidableEq, Repr

/-- The layers from offset `o` of the coded form on. -/
def decodeLayers (b : List Byte) : List StateLayer → Nat → Option (List (Nat × List Byte) × Nat)
  | [], o => some ([], o)
  | l :: r, o =>
    match decodePart (layerFmt l) (layerBytes l) (b.drop o) with
    | none => none
    | some (x, k) => match decodeLayers b r (o + k) with
      | none => none
      | some (xs, e) => some ((64 * l.loff, x) :: xs, e)

/-- The coded form read back; `none`: a block is corrupt. -/
def decodeGen (d : ImageDecl) (b : List Byte) : Option Uncoded :=
  match decodeLayers b (layersInOrder d) 64 with
  | none => none
  | some (xs, o) => match decodePart 3 (winBytes d) (b.drop o) with
    | none => none
    | some (w, k) => some ⟨(0, b.take 64) :: xs, w, o + k⟩

/-- Writes a decoded generation and its window region. -/
def putGen (s : State) (u : Uncoded) (gen win : Nat) : State :=
  devWrite (u.gen.foldl (fun s x => devWrite s (gen + x.1) x.2) s) win u.win

end Sys2Proof.Machine
end

