-- ==== Sys2Proof/Machine/Windows.lean ====
section
/-! DEFINITION. Bridge windows opened and closed by command (R331, R341, R342, R348). -/

namespace Sys2Proof.Machine
open Sys2Proof

/-! ### window.open -/

def wopenBad (t : Taken) : Bool :=
  argsBad t 21 [(4, 0), (5, 5), (15, 8), (31, 16), (79, 32), (119, 80), (133, 120), (147, 134), (150, 148), (166, 151)] ||
  (argB t 5 && decide (argF t 15 8 ≠ 0)) || decide (argF t 79 32 % 4096 ≠ 0) || decide (argF t 119 80 % 4096 ≠ 0) || decide (argF t 166 151 = 0)

/-- Every byte of `[a, a + n)` lies in an entry that `ok` permits. -/
def covered (g : List (BitVec 128)) (ok : BitVec 128 → Bool) : Nat → Nat → Nat → Bool
  | 0, _, n => decide (n = 0)
  | fuel + 1, a, n =>
    if n = 0 then true
    else match g.find? fun e => gCovers e a && ok e with
      | none => false
      | some e => covered g ok fuel (gBase e + gSize e) (n - (gBase e + gSize e - a))

/-- The range lies within regions granted to the job, several together allowed (R331 check 4, log 65). -/
def jobCovers (s : State) (p : PartId) (j : JobNo) (a n : Nat) : Bool :=
  decide (a + n ≤ tierEnd) &&
  covered s.mon.grants (fun e => decide (gPart e = p) && (decide (gJob e = 0) || decide (gJob e = j))) (s.mon.grants.length + 1) a n

/-- The range meets an open window. -/
def windowOverlap (s : State) (a n : Nat) : Bool := s.br.wins.any fun w => overlaps a n w.2.base w.2.size

/-- The lowest free window number. -/
def freeWindow (s : State) : Option WinNo := ((List.range 256).map (BitVec.ofNat 8)).find? fun w => (getWin s w).isNone

/-- The job stands: it is not being reclaimed and has not ended. -/
def jobStands (s : State) (p : PartId) (j : JobNo) : Bool :=
  match findJob (getPart s p) j with
  | some b => b.crashed.isNone && !b.ended
  | none => false

/-- The window that the command names or takes. -/
def wopenNumber (s : State) (t : Taken) : Option WinNo := if argB t 5 then freeWindow s else some (BitVec.ofNat 8 (argF t 15 8))

def wopenChecks (s : State) (f : Func) (t : Taken) (p : PartId) (j : JobNo) : List (Bool × BitVec 16) :=
  levelChecks s f true false ++
  [(wopenBad t, stMALFORMED), (busy s (.part p) || busy s (.job p j) || (!argB t 5 && busy s (.window (BitVec.ofNat 8 (argF t 15 8)))), stBUSY)] ++
  partChecks s f p ++
  [ (!jobStands s p j, stJOB_STATE), (decide (argF t 119 80 = 0), stWINDOW_SIZE)
  , (!jobCovers s p j (argF t 79 32) (argF t 119 80) || windowOverlap s (argF t 79 32) (argF t 119 80), stFENCE)
  , ((freeWindow s).isNone, stWINDOW_LIMIT), (!argB t 5 && (getWin s (BitVec.ofNat 8 (argF t 15 8))).isSome, stWINDOW_TAKEN) ]

def newWindow (t : Taken) (p : PartId) (j : JobNo) : Win :=
  { part := p, job := j, base := argF t 79 32, size := argF t 119 80, src := BitVec.ofNat 14 (argF t 133 120), smask := BitVec.ofNat 14 (argF t 147 134)
    perm := BitVec.ofNat 3 (argF t 150 148), credits := BitVec.ofNat 16 (argF t 166 151), closing := false, closeFor := none }

def openWindow (s : State) (n : WinNo) (w : Win) : State :=
  offerWindow { s with br := { s.br with wins := tset s.br.wins n.toNat w } } n w

def execWindowOpen (f : Func) (dt : Nat) (s : State) : Host.Outcome State Fault Refusal :=
  runCmd f 0x0210 dt s fun t s =>
    let p := argPart t 4 0
    let j := BitVec.ofNat 16 (argF t 31 16)
    checked s f t (wopenChecks s f t p j) <|
      (wopenNumber s t).map fun n => okCmd (openWindow s n (newWindow t p j)) f t n.toNat

/-! ### window.close -/

/-- The credits still to be returned for the window go back. -/
def flushCredits (s : State) (n : WinNo) : State :=
  (s.br.pairs.filter fun x => decide (x.2.window = n) && !x.2.failed && decide (0 < x.2.credRet)).foldl (fun s x => sendCtl s x.1 ftACK 0) s

/-- New frames are rejected from now on; the close completes when everything has come back. -/
def closeWindow (s : State) (f : Func) (t : Taken) (n : WinNo) (w : Win) : State :=
  let s := flushCredits s n
  let s := { s with
    br := { s.br with wins := tset s.br.wins n.toNat { w with closing := true, closeFor := some (f, t.tag) } }
    inProgress := s.inProgress ++ [⟨f, t.tag, t.opcode, [.window n], false, false, 0⟩] }
  settleCloses s

def execWindowClose (f : Func) (dt : Nat) (s : State) : Host.Outcome State Fault Refusal :=
  runCmd f 0x0211 dt s fun t s =>
    let n : WinNo := BitVec.ofNat 8 (argF t 7 0)
    checked s f t (levelChecks s f true false ++ [(argsBad t 1 [(7, 0)], stMALFORMED), (busy s (.window n) || s.br.migIn.any fun g => decide (g.window = n), stBUSY)]) <|
      match getWin s n with
      | none => some (refuseCmd s f t stNO_WINDOW)
      | some w => checked s f t [(notMine s f w.part, stNOT_OWNER)] (some (closeWindow s f t n w))

end Sys2Proof.Machine
end

