-- ==== Sys2Proof/Machine/Migrate.lean ====
section
/-! DEFINITION. The migration engine's descriptors, `stream.migrate`, and migration over a pair (R25 to R27, R46, R47, R251, R272, R273,
R332, R352, R399). -/

namespace Sys2Proof.Machine
open Sys2Proof

/-! ### Fields of a descriptor (Table 12-6) -/

def dOp (d : BitVec 256) : Nat := nfld d.toNat 2 0
def dClass (d : BitVec 256) : Nat := nfld d.toNat 4 3
def dTag (d : BitVec 256) : BitVec 16 := BitVec.ofNat 16 (nfld d.toNat 31 16)
def dSrc (d : BitVec 256) : Nat := nfld d.toNat 79 32
def dDst (d : BitVec 256) : Nat := nfld d.toNat 127 80
def dLen (d : BitVec 256) : Nat := nfld d.toNat 167 128

/-- The stream whose images a descriptor moves within the device. -/
def movingStream (s : State) (tag : BitVec 16) : Option Handle :=
  (s.streams.find? fun x => match x.2.move with | some m => x.2.move.isSome && decide (m.tag = tag) && x.2.moving | none => false).map
    fun x => BitVec.ofNat 16 x.1

/-- The migration to another device that a descriptor serves. -/
def outOfTag (s : State) (tag : BitVec 16) : Option MigOut := s.br.migOut.find? fun m => decide (m.copy = some tag)

/-! ### The copy to another device starts (R332, R352) -/

def mcSTART : Nat := 1
def mcEND : Nat := 2
def mcACCEPT : Nat := 3
def mcREFUSE : Nat := 4

/-- A MIG_CTRL frame of a pair. -/
def migCtrl (s : State) (i : Nat) (v : Nat) : State :=
  match getPair s i with
  | none => s
  | some p =>
    let fr := mkFrame s ftMIG_CTRL p.peer p.window 0 0 (leBytes 64 v)
    pairEnqueue s i [⟨fr, none, creditsOf fr, 0⟩]

/-- START: the entry fields of R47, and what the receiver needs to enter the stream (log 50). -/
def startWord (x : Stream) (y : Model) (p : Profile) (m : MigOut) : Nat :=
  mcSTART + m.handle.toNat * 2 ^ 8 + x.nextSeq.toNat * 2 ^ 24 + bitN x.gen 56 + bitN x.resetFlag 57 + bitN x.skipSilence 58 + x.dclass.toNat * 2 ^ 59 +
  x.peg.toNat * 2 ^ 64 + x.bowStep.toNat * 2 ^ 88 + x.bowEpoch.toNat * 2 ^ 116 + x.bowKey.toNat * 2 ^ 128 +
  (y.digest.toNat % 2 ^ 64) * 2 ^ 192 + (m.dobAddr.toNat / 4096) * 2 ^ 256 + m.dfunc.toNat * 2 ^ 308 + m.dvec.toNat * 2 ^ 313 + x.ibSize.toNat * 2 ^ 324 +
  x.frSize.toNat * 2 ^ 329 + x.obSize.toNat * 2 ^ 333 + p.inFmt.toNat * 2 ^ 337 + p.inRate.toNat * 2 ^ 340 + p.outFmt.toNat * 2 ^ 343 +
  p.outRate.toNat * 2 ^ 346 + bitN p.silEn 349 + p.silThr.toNat * 2 ^ 352 + p.pcmSize.toNat * 2 ^ 384

/-- The descriptor of the generation: coded on its way out, or copied where it is held coded (R47, R251). -/
def genDescs (s : State) (x : Stream) (y : Model) (base : Nat) (tag : BitVec 16) : List (BitVec 256) :=
  let d := y.decl
  let a := imgAddr x
  if blkBytes d = 0 then []
  else if imageTier x = 0 then [mkDesc 2 2 tag (genAddr d a x.gen) base (genBytes d) y.imageAt]
  else if touchesSealed s a (blkBytes d) then [mkDesc 2 2 tag a base (genBytes d) y.imageAt]
  else
    let n := match decodeGen d (devRead s a (lowBytes d)) with | some u => u.len | none => lowBytes d
    [mkDesc 0 2 tag a base n 0]

/-- The unconsumed audio and the frames not yet consumed (R47). -/
def audioPieces (x : Stream) : List (Nat × Nat) :=
  (ringPieces (ibAddr x) (ibBytes x) x.ibRd.toNat (ibHeld x)).filter fun p => decide (0 < p.2)

def framePieces (s : State) (x : Stream) : List (Nat × Nat) :=
  let n := slotBytes (profileOf s x).sb
  (ringPieces (frAddr x + 1024) (frFrames x * n) (x.frRd.toNat % frFrames x * n) ((x.frWr - x.frRd).toNat * n)).filter fun p => decide (0 < p.2)

/-- Bytes of a list of pieces. -/
def pieceBytes (l : List (Nat × Nat)) : Nat := (l.map (·.2)).sum

/-- Copies of pieces to consecutive remote addresses. -/
def pieceDescs (tag : BitVec 16) : Nat → List (Nat × Nat) → List (BitVec 256)
  | _, [] => []
  | dst, (a, n) :: r => mkDesc 0 2 tag a dst n 0 :: pieceDescs tag (dst + n) r

/-! ### The soundboard context on its way (R47, R352, log 51) -/

def putNats (l : List Nat) : List Nat := l.length :: l

def chunkNats (c : Chunk) : List Nat := [c.seq.toNat, (if c.silent then 1 else 0) + c.hsRuns * 2 ^ 8 + c.errRuns * 2 ^ 32]

def ctxNats (x : Stream) : List Nat :=
  let c := x.sb
  let w (l : List W32) : List Nat := putNats (l.map (·.toNat))
  [ c.yPrev.toNat, c.n.toNat, c.taken, c.silentRun.toNat, c.hop, c.frame.toNat, c.outTaken, c.outCount, x.pcmTotal.toNat, x.firstFrameAbs
  , x.synthEnd
  , bitN c.muSet 0 + bitN c.clipped 1 + bitN c.nonfinite 2 + bitN c.padded 3 + bitN x.pcmChunk 4 ] ++
  w c.hist ++ w c.mu ++ w c.zbuf ++ w c.outHist ++ putNats (x.chunks.flatMap chunkNats)

def ctxBytes (x : Stream) : List Byte := (ctxNats x).flatMap (leBytes 8)

/-- The words of a byte string. -/
def wordsOf (b : List Byte) : List Nat := (List.range (b.length / 8)).map fun i => leNat ((b.drop (8 * i)).take 8)

/-- A counted list and what follows it. -/
def takeNats (l : List Nat) : List Nat × List Nat :=
  match l with
  | [] => ([], [])
  | n :: r => (r.take n, r.drop n)

def chunksOfNats (now dl : W64) : List Nat → List Chunk
  | a :: b :: r =>
    { seq := BitVec.ofNat 32 a, ready := now, deadline := dl, silent := decide (b % 2 = 1), hsRuns := nfld b 31 8, errRuns := b / 2 ^ 32, late := [] } :: chunksOfNats now dl r
  | _ => []

/-- The context enters a stream. -/
def withCtx (x : Stream) (now dl : W64) (b : List Byte) : Stream :=
  let l := wordsOf b
  let g (i : Nat) : Nat := l.getD i 0
  let flags := g 11
  let w (l : List Nat) : List W32 := l.map (BitVec.ofNat 32)
  let h := takeNats (l.drop 12)
  let mu := takeNats h.2
  let z := takeNats mu.2
  let o := takeNats z.2
  let ch := takeNats o.2
  { x with
    pcmTotal := BitVec.ofNat 32 (g 8), firstFrameAbs := g 9, synthEnd := g 10, pcmChunk := flags.testBit 4, chunks := chunksOfNats now dl ch.1
    sb := { SbCtx.reset with
      yPrev := BitVec.ofNat 32 (g 0), n := BitVec.ofNat 52 (g 1), taken := g 2, silentRun := BitVec.ofNat 16 (g 3), hop := g 4, frame := BitVec.ofNat 32 (g 5)
      outTaken := g 6, outCount := g 7, muSet := flags.testBit 0, clipped := flags.testBit 1, nonfinite := flags.testBit 2, padded := flags.testBit 3
      hist := w h.1, mu := w mu.1, zbuf := w z.1, outHist := w o.1 } }

/-! ### Stages of the copy -/

/-- Changes the record of a migration out. -/
def modOut (s : State) (m n : MigOut) : State := { s with br := { s.br with migOut := s.br.migOut.map fun x => if x = m then n else x } }

/-- END: the lengths of what was sent, and the ring counters (log 50). -/
def endWord (x : Stream) (coded ctx : Nat) : Nat :=
  mcEND + x.frRd.toNat * 2 ^ 8 + x.frWr.toNat * 2 ^ 32 + x.ibRd.toNat * 2 ^ 64 + x.ibWr.toNat * 2 ^ 96 + coded * 2 ^ 128 + ctx * 2 ^ 192

/-- Migration data leaves in order. -/
def sendMigData (s : State) (i : Nat) (c : Func) (a : Nat) (b : List Byte) : State :=
  match getPair s i with
  | none => s
  | some p => pairEnqueue (chargeBridge s c b.length) i (writeFrames s p ftMIG_DATA none 0 a b)

/-- The context and END follow the data. -/
def finishOut (s : State) (m : MigOut) (coded : Nat) : State :=
  match pairIdx s m.window m.device with
  | none => s
  | some i =>
    let x := getStream s m.handle
    let b := ctxBytes x
    let base := match getPair s i with | some p => p.rbase | none => 0
    let at_ := base + coded + pieceBytes (audioPieces x) + pieceBytes (framePieces s x)
    migCtrl (sendMigData s i x.client at_ b) i (endWord x coded b.length)

/-- The audio and the frames follow the generation. -/
def secondStage (s : State) (m : MigOut) (coded : Nat) : State :=
  let x := getStream s m.handle
  match m.copy, pairIdx s m.window m.device with
  | some tag, some i =>
    let base := match getPair s i with | some p => p.rbase | none => 0
    let l := pieceDescs tag (base + coded) (audioPieces x ++ framePieces s x)
    let m' := { m with coded := some coded }
    let s := modOut s m m'
    if l.isEmpty then finishOut s m' coded else { s with mig := { s.mig with queue := s.mig.queue ++ l } }
  | _, _ => s

/-- The copy starts once the stream has no chunk in a bundle, no audio of it is being gathered, and no other copy of it runs. -/
def startOut (s : State) (m : MigOut) : State :=
  let x := getStream s m.handle
  if m.copy.isSome ∨ x.inBundle ∨ x.reserved ≠ 0 ∨ x.move.isSome then s
  else match pairIdx s m.window m.device, getModel s x.model with
    | some i, some y =>
      if !pairStands s m.window m.device then migFail s m 0
      else
        let base := match getPair s i with | some p => p.rbase | none => 0
        let (tag, s) := queueDescs s (genDescs s x y base)
        let m' := { m with copy := some tag }
        let s := migCtrl (modOut s m m') i (startWord x y (profileOf s x) m)
        if blkBytes y.decl = 0 then secondStage s m' 0 else s
    | _, _ => migFail s m 0

def startOuts (s : State) : State := s.br.migOut.foldl startOut s

/-! ### stream.migrate (R46, R332) -/

def migrateBad (t : Taken) : Bool :=
  argsBad t 16 [(15, 0), (29, 16), (36, 32), (47, 37), (55, 48), (127, 64)] || decide (argF t 127 64 % 4096 ≠ 0) ||
  (decide (argF t 36 32 ≠ 0) && decide (63 < argF t 47 37))

/-- The staging size of R352. -/
def stagingBytes (s : State) (x : Stream) (d : ImageDecl) : Nat :=
  4096 + genBytes d + winBytes d + ibBytes x + pages (featureBytes d (profileOf s x) x.frSize.toNat)

/-- A pair with the device over the window of that number, large enough (R352). -/
def noPair (s : State) (x : Stream) (w : WinNo) (dev : DevNo) : Bool :=
  match (pairIdx s w dev).bind (getPair s), streamDecl s x with
  | some p, some d => p.failed || decide (p.rsize < stagingBytes s x d)
  | _, _ => true

/-- The migration is accepted: moving := 1 from now on; a demotion that was due is given up. -/
def acceptMigrate (s : State) (f : Func) (t : Taken) (h : Handle) (dev : DevNo) (w : WinNo) : State :=
  let s := modStream s h fun x => { x with moving := true, migrating := true, move := none }
  let m : MigOut :=
    { f := f, tag := t.tag, handle := h, device := dev, window := w, dfunc := BitVec.ofNat 5 (argF t 36 32), dvec := BitVec.ofNat 11 (argF t 47 37)
      dobAddr := BitVec.ofNat 64 (argF t 127 64), copy := none, coded := none }
  startOut { s with br := { s.br with migOut := s.br.migOut ++ [m] }
                    inProgress := s.inProgress ++ [⟨f, t.tag, t.opcode, [.window w, .stream h], false, false, 0⟩] } m

def execStreamMigrate (f : Func) (remoteHolds : Bool) (dt : Nat) (s : State) : Host.Outcome State Fault Refusal :=
  runCmd f 0x0212 dt s fun t s =>
    let h : Handle := BitVec.ofNat 16 (argF t 15 0)
    let x := getStream s h
    let w : WinNo := BitVec.ofNat 8 (argF t 55 48)
    let dev : DevNo := BitVec.ofNat 14 (argF t 29 16)
    checked s f t (levelChecks s f true false ++
      [ (migrateBad t, stMALFORMED), (busy s (.window w) || busy s (.stream h), stBUSY), (othersStream f x, stNOT_OWNER)
      , ((decide (x.state ≠ .paused) && decide (x.state ≠ .evicted)) || x.moving, stSTREAM_STATE), (noPair s x w dev, stNO_WINDOW)
      , (!remoteHolds, stMODEL_REMOTE) ]) <|
      some (acceptMigrate s f t h dev w)

/-! ### MIGRATION_DESCRIPTOR (R270, R272, R273) -/

/-- The model whose state-layer list stands at an address (Table 12-6; the list's place is the model's, log 84). -/
def layDecl (s : State) (a : Nat) : Option ImageDecl := (s.models.find? fun m => decide (m.2.imageAt = a)).map (·.2.decl)

/-- A descriptor that the runtime writes on its own under the next tag: a known op, reserved bits 0, the layer list of a model where the op
needs one (Table 12-6). -/
def descForm (s : State) (d : BitVec 256) : Bool :=
  decide (dOp d ≤ 3) && decide (nfld d.toNat 15 5 = 0) && decide (nfld d.toNat 255 216 = 0) && decide (dTag d = s.mig.next) &&
  (decide (dOp d ≠ 1) || decide (dSrc d = 0)) &&
  (if dOp d ≤ 1 then decide (nfld d.toNat 215 168 = 0) else
    match layDecl s (nfld d.toNat 215 168) with | some y => decide (dLen d = genBytes y) | none => false)

def withDesc (s : State) (d : Option (BitVec 256)) : State :=
  match d with
  | some d => if descForm s d then { s with mig := { s.mig with queue := s.mig.queue ++ [d], next := s.mig.next + 1 } } else s
  | none => s

/-- R260 is met for every entry over a released region. -/
def releaseQuiet (s : State) (r : Release) : Bool := (s.mon.grants.filter fun e => gTouches e r.base r.size).all (revokeQuiet s)

/-- The entry under which a released region is zeroed: service writing alone (R270). -/
def zeroEntry (a n : Nat) : BitVec 128 := BitVec.ofNat 128 (a / 4096 + n / 4096 * 2 ^ 36 + 2 ^ 90)

/-- The monitor replaces the entries over a released region, and the runtime queues its class 3 ZERO (R270). -/
def startRelease (s : State) (r : Release) : State :=
  if r.tag.isSome ∨ !releaseQuiet s r then s
  else
    let (tag, s) := queueDescs s fun tag => [mkDesc 1 3 tag 0 r.base r.size 0]
    let s := carveAll s r.base r.size
    { s with
      mon := { s.mon with grants := s.mon.grants ++ [zeroEntry r.base r.size] }
      mig := { s.mig with releasing := s.mig.releasing.map fun x => if x = r then { x with tag := some tag } else x } }

def startReleases (s : State) : State := s.mig.releasing.foldl startRelease s

/-- The oldest deadline of the formed bundle that waits for the stream. -/
def waitDeadline (s : State) (h : Handle) : Nat :=
  match s.bundles.find? fun b => b.members.any fun m => decide (m.handle = h) with
  | some b => (b.members.map fun m => m.deadline.toNat).foldl min (2 ^ 64)
  | none => 2 ^ 64

/-- The formed bundle's deadline that a promotion is needed by, if one waits for it. -/
def neededBy (s : State) (tag : BitVec 16) : Option Nat :=
  match movingStream s tag with
  | some h =>
    let dl := waitDeadline s h
    if ((getStream s h).move.map (·.promote)) = some true ∧ dl < 2 ^ 64 then some dl else none
  | none => none

/-- The order of service: class, and in class 0 the deadline of the bundle. A promotion that a `stream.resume` began and a formed
bundle has come to need is served with the bundle's own (R41). -/
def descKey (s : State) (d : BitVec 256) : Nat × Nat :=
  match neededBy s (dTag d) with
  | some dl => (0, dl)
  | none => (dClass d, if dClass d = 0 then 2 ^ 64 else 0)

def keyLt (a b : Nat × Nat) : Bool := decide (a.1 < b.1) || (decide (a.1 = b.1) && decide (a.2 < b.2))

/-- The descriptor to be worked on: the first of the least key, those begun before those not begun. -/
def nextDesc (s : State) : Option (BitVec 256) :=
  (s.mig.work.map (·.desc) ++ s.mig.queue).foldl (fun b d => match b with
    | none => some d
    | some e => if keyLt (descKey s d) (descKey s e) then some d else some e) none

/-- How a descriptor ended: status, bytes moved, and whether the error stands in its source. -/
structure DescEnd where
  status : BitVec 2
  bytes : Nat
  dataErr : Bool
  deriving DecidableEq, Repr

def stFence : BitVec 2 := 1
def stDataError : BitVec 2 := 2
def stIntegrity : BitVec 2 := 3

/-- Grants for every byte, then the expanders that are down (R272, R400). -/
def descCheck (s : State) (src dst : List (Nat × Nat)) : Option DescEnd :=
  if !src.all (fun r => svcGrant s false r.1 r.2) || !dst.all (fun r => svcGrant s true r.1 r.2) then some ⟨stFence, 0, false⟩
  else if src.any (fun r => onDown s r.1 r.2) then some ⟨stDataError, 0, true⟩
  else if dst.any (fun r => onDown s r.1 r.2) then some ⟨stDataError, 0, false⟩
  else none

/-- Where the window region stands beside a generation in a stream's block; elsewhere it follows the generation (R251). -/
def winBeside (s : State) (h : Option Handle) (d : ImageDecl) (gen : Nat) : Nat :=
  let inBlock (a : Nat) : Bool := decide (a ≤ gen) && decide (gen < a + blkBytes d)
  let home (x : Stream) : Option Nat := if imageTier x = 0 && inBlock (imgAddr x) then some (winAddr d (imgAddr x)) else none
  let dest (x : Stream) : Option Nat := match x.move with | some m => if m.promote && inBlock m.dst then some (winAddr d m.dst) else none | none => none
  let found := match h with
    | some h => let x := getStream s h; (dest x).orElse fun _ => home x
    | none => s.streams.findSome? fun (x : Nat × Stream) => home x.2
  found.getD (gen + genBytes d)

/-- Bytes charged to a stream's client, by tier (R290). -/
def chargeStream (s : State) (h : Option Handle) (l : List (Nat × Nat)) : State :=
  match h with
  | some h => l.foldl (fun s r => chargeTier s (getStream s h).client r.1 r.2) s
  | none => s

/-- The stream that a descriptor serves. -/
def descStream (s : State) (d : BitVec 256) : Option Handle :=
  match outOfTag s (dTag d) with
  | some m => some m.handle
  | none => movingStream s (dTag d)

/-- The layout that CODE and DECODE work by. -/
def descDecl (s : State) (d : BitVec 256) : Option ImageDecl :=
  match descStream s d with
  | some h => streamDecl s (getStream s h)
  | none => layDecl s (nfld d.toNat 215 168)

/-- What CODE makes of its generation and the window region beside it. -/
def codedOf (s : State) (y : ImageDecl) (d : BitVec 256) : List Byte :=
  codeGen y (devRead s (dSrc d) (dLen d)) (devRead s (winBeside s (descStream s d) y (dSrc d)) (winBytes y))

def uncodedOf (s : State) (y : ImageDecl) (d : BitVec 256) : Option Uncoded := decodeGen y (devRead s (dSrc d) (lowBytes y))

/-- The source and destination ranges of a descriptor; those of a destination on another device are its pair's concern. -/
def descRanges (s : State) (d : BitVec 256) : List (Nat × Nat) × List (Nat × Nat) :=
  let far := (outOfTag s (dTag d)).isSome
  let dst (n : Nat) : List (Nat × Nat) := if far then [] else [(dDst d, n)]
  match dOp d, descDecl s d with
  | 0, _ => ([(dSrc d, dLen d)], dst (dLen d))
  | 2, some y => ([(dSrc d, dLen d), (winBeside s (descStream s d) y (dSrc d), winBytes y)], dst (codedOf s y d).length)
  | 3, some y =>
    ([(dSrc d, match uncodedOf s y d with | some u => u.len | none => lowBytes y)],
      [(dDst d, genBytes y), (winBeside s (descStream s d) y (dDst d), winBytes y)])
  | _, _ => ([], dst (dLen d))

/-- A descriptor leaves the engine with its end; its record is due. -/
def endDesc (s : State) (d : BitVec 256) (e : DescEnd) : State :=
  { s with mig := { s.mig with
    work := s.mig.work.filter fun w => decide (w.desc ≠ d), cur := s.mig.cur.filter fun c => decide (c ≠ d)
    due := s.mig.due ++ [⟨⟨dTag d, e.bytes, e.status⟩, e.dataErr⟩] } }

/-- The first entry equal to `d` leaves the queue. -/
def removeDesc (d : BitVec 256) : List (BitVec 256) → List (BitVec 256)
  | [] => []
  | e :: r => if e = d then r else e :: removeDesc d r

/-- The engine begins a descriptor: every byte of source and destination is checked before any moves (R272). -/
def beginDesc (s : State) (d : BitVec 256) : State :=
  if s.mig.work.any fun w => decide (w.desc = d) then s
  else
    let s := { s with mig := { s.mig with queue := removeDesc d s.mig.queue } }
    match descCheck s (descRanges s d).1 (descRanges s d).2 with
    | some e => endDesc s d e
    | none => { s with mig := { s.mig with work := s.mig.work ++ [⟨d, 0⟩] } }

/-- 64 KiB, at whose boundaries the engine may switch descriptors (R273). -/
def migPiece : Nat := 65536

/-- `n` bytes of a COPY or ZERO from offset `o` on: they land, or leave as MIG_DATA for another device. -/
def movePlain (s : State) (d : BitVec 256) (o n : Nat) : State :=
  let b := if dOp d = 0 then devRead s (dSrc d + o) n else List.replicate n 0
  let src := if dOp d = 0 then [(dSrc d + o, n)] else []
  match outOfTag s (dTag d) with
  | some m =>
    let s := chargeStream s (some m.handle) src
    match pairIdx s m.window m.device with
    | some i => sendMigData s i (getStream s m.handle).client (dDst d + o) b
    | none => s
  | none => chargeStream (devWrite s (dDst d + o) b) (descStream s d) (src ++ [(dDst d + o, n)])

/-- CODE lands as a whole, or leaves for another device. -/
def landCode (s : State) (y : ImageDecl) (d : BitVec 256) : State × DescEnd :=
  let b := codedOf s y d
  let src := (descRanges s d).1
  match outOfTag s (dTag d) with
  | some m =>
    let s := chargeStream s (some m.handle) src
    match pairIdx s m.window m.device with
    | some i => (sendMigData s i (getStream s m.handle).client (dDst d) b, ⟨0, b.length, false⟩)
    | none => (s, ⟨stDataError, 0, false⟩)
  | none => (chargeStream (devWrite s (dDst d) b) (descStream s d) (src ++ [(dDst d, b.length)]), ⟨0, b.length, false⟩)

/-- DECODE lands as a whole; a corrupt block ends it with INTEGRITY (R251). -/
def landDecode (s : State) (y : ImageDecl) (d : BitVec 256) : State × DescEnd :=
  match uncodedOf s y d with
  | none => (s, ⟨stIntegrity, 0, true⟩)
  | some u =>
    let r := descRanges s d
    (chargeStream (putGen s u (dDst d) (winBeside s (descStream s d) y (dDst d))) (descStream s d) (r.1 ++ r.2), ⟨0, u.len, false⟩)

/-- The last bytes of a descriptor have landed. -/
def finishDesc (s : State) (d : BitVec 256) : State :=
  match dOp d, descDecl s d with
  | 2, some y => let r := landCode s y d; endDesc r.1 d r.2
  | 3, some y => let r := landDecode s y d; endDesc r.1 d r.2
  | 2, none | 3, none => endDesc s d ⟨stDataError, 0, false⟩
  | _, _ => endDesc s d ⟨0, dLen d, false⟩

/-- A descriptor at work moves on by up to `n` bytes, and ends with its last. -/
def advanceDesc (s : State) (w : MigWork) (n : Nat) : State :=
  let k := min n (dLen w.desc - w.moved)
  let s := if dOp w.desc ≤ 1 ∧ 0 < k then movePlain s w.desc w.moved k else s
  if w.moved + k < dLen w.desc then
    { s with mig := { s.mig with cur := none, work := s.mig.work.map fun x => if x = w then { x with moved := w.moved + k } else x } }
  else finishDesc s w.desc

/-- The descriptor of a value at work. -/
def workOf (s : State) (d : BitVec 256) : Option MigWork := s.mig.work.find? fun w => decide (w.desc = d)

/-- The bytes on their way land. -/
def landPiece (s : State) : State :=
  match s.mig.cur.bind (workOf s) with
  | some w => advanceDesc s w migPiece
  | none => s

/-- The engine takes the next 64 KiB, of the highest-priority pending descriptor. -/
def takeDesc (s : State) : State :=
  match nextDesc s with
  | none => s
  | some d =>
    let s := beginDesc s d
    { s with mig := { s.mig with cur := (workOf s d).map (·.desc) } }

def execMigrationDescriptor (d : Option (BitVec 256)) (s : State) : Host.Outcome State Fault Refusal :=
  .next (if rtRuns s then takeDesc (landPiece (withDesc (startReleases (startOuts s)) d)) else s)

/-! ### MIGRATION_COMPLETE (R25 to R27, R270, R273, R399) -/

/-- A copy within the device has ended well: state_ptr switches (R27); in tier 2 a paused stream is EVICTED (R24). -/
def moveDone (s : State) (h : Handle) (m : Move) : State :=
  let s := switchPtr s h m.dst
  if !m.promote ∧ tierOf m.dst = 2 then modStream s h fun x => if x.state = .paused then { x with state := .evicted } else x else s

/-- A copy within the device has failed: it is abandoned; an error of its source discards the images (R399). -/
def moveFailed (s : State) (h : Handle) (lost : Bool) : State := if lost then imageLost (dropMove s h) h none else dropMove s h

/-- More descriptors of the tag wait, or are at work. -/
def moreOf (s : State) (tag : BitVec 16) : Bool :=
  s.mig.queue.any (fun d => decide (dTag d = tag)) || s.mig.work.any (fun w => decide (dTag w.desc = tag)) ||
  s.mig.due.any fun x => decide (x.out.tag = tag)

/-- A migration to another device goes on, or has failed. -/
def outDone (s : State) (m : MigOut) (r : MigDone) (lost : Bool) : State :=
  if r.status ≠ 0 then
    let s := migFail s m 0
    if lost then imageLost s m.handle none else s
  else match m.coded with
    | none => secondStage s m r.bytes
    | some n => if moreOf s r.tag then s else finishOut s m n

/-- A released region has been zeroed: its entry ends, and its pages are recorded as zeroed; a ZERO that failed is queued anew (R270). -/
def releaseDone (s : State) (x : Release) (r : MigDone) : State :=
  let s := { s with mon := { s.mon with grants := s.mon.grants.erase (zeroEntry x.base x.size) } }
  if r.status = 0 then
    setHolder { s with mig := { s.mig with releasing := s.mig.releasing.filter fun y => decide (y ≠ x) } } x.base x.size .zeroed
  else { s with mig := { s.mig with releasing := s.mig.releasing.map fun y => if y = x then { y with tag := none } else y } }

def settleDesc (s : State) (r : MigDone) (lost : Bool) : State :=
  match outOfTag s r.tag with
  | some m => outDone s m r lost
  | none =>
    match movingStream s r.tag, s.mig.releasing.find? fun x => decide (x.tag = some r.tag) with
    | none, some x => releaseDone s x r
    | none, none => s
    | some h, _ =>
      if r.status ≠ 0 then moveFailed s h lost
      else if moreOf s r.tag then s
      else match (getStream s h).move with
        | some m => moveDone s h m
        | none => s

/-- The destination bytes are visible, or acknowledged by the receiving device. -/
def visible (s : State) (tag : BitVec 16) : Bool :=
  match outOfTag s tag with
  | none => true
  | some m => match (pairIdx s m.window m.device).bind (getPair s) with
    | some p => p.waitTx.isEmpty && p.unacked.isEmpty
    | none => true

/-- The first record that is due and may be written. -/
def readyDue (s : State) : Option MigDue := s.mig.due.find? fun x => visible s x.out.tag

/-- The record is written, and the runtime acts on it. -/
def completeDesc (s : State) (x : MigDue) : State :=
  settleDesc { s with mig := { s.mig with done := s.mig.done ++ [x.out], due := s.mig.due.erase x } } x.out
    (x.dataErr && decide (x.out.status ≠ stFence))

/-- The engine works until a descriptor has ended: the bytes on their way land, and where that ends none, the highest-priority one is
carried to its end. -/
def runToEnd (s : State) : State :=
  let s := landPiece s
  if (readyDue s).isSome then s
  else match nextDesc s with
    | none => s
    | some d =>
      let s := beginDesc s d
      match workOf s d with
      | some w => advanceDesc s w (dLen d)
      | none => s

/-- A record is written, and the engine goes on. -/
def completeNext (s : State) : State :=
  match readyDue s with
  | some x => takeDesc (settleDestroys (completeDesc s x))
  | none => s

def execMigrationComplete (dt : Nat) (s : State) : Host.Outcome State Fault Refusal :=
  .next (if rtRuns s then
      let s := tick s dt
      completeNext (if (readyDue s).isSome then s else runToEnd (startReleases (startOuts s)))
    else s)

/-! ### MIG_CTRL (R332, R352) -/

/-- The stream that a START names, as it is entered here (R47). -/
def arrivedStream (s : State) (v e : Nat) (m : ModelSlot) (y : Model) (i : BitVec 8) (pl : Nat × Nat × Nat) (ctx : List Byte) : Stream :=
  let f : Func := BitVec.ofNat 5 (nfld v 312 308)
  let fn := getFn s f
  let c : BitVec 3 := BitVec.ofNat 3 (nfld v 61 59)
  withCtx { Stream.reset with
    state := .paused, nextSeq := BitVec.ofNat 32 (nfld v 55 24), gen := v.testBit 56, resetFlag := v.testBit 57, skipSilence := v.testBit 58, dclass := c
    peg := BitVec.ofNat 24 (nfld v 87 64), bowStep := BitVec.ofNat 28 (nfld v 115 88), bowEpoch := BitVec.ofNat 12 (nfld v 127 116)
    bowKey := BitVec.ofNat 64 (nfld v 191 128), model := m, client := f, feProfile := i, statePtr := BitVec.ofNat 36 (pl.1 / 4096)
    ibBase := BitVec.ofNat 32 (pl.2.1 / 65536), frBase := BitVec.ofNat 32 (pl.2.2 / 65536), obBase := BitVec.ofNat 52 (nfld v 307 256)
    vector := BitVec.ofNat 11 (nfld v 323 313), ibSize := BitVec.ofNat 5 (nfld v 328 324), frSize := BitVec.ofNat 4 (nfld v 332 329)
    obSize := BitVec.ofNat 4 (nfld v 336 333), obPhase := true, frRd := BitVec.ofNat 24 (nfld e 31 8), frWr := BitVec.ofNat 24 (nfld e 55 32)
    ibRd := BitVec.ofNat 32 (nfld e 95 64), ibWr := BitVec.ofNat 32 (nfld e 127 96), pauseAt := some s.time, delays := (fn.delay1, fn.delay2)
    lvlEpoch := y.lvlEpoch } s.time (s.time + classDeadline s f c) ctx

/-- The profile that a START carries. -/
def arrivedProfile (v : Nat) (d : ImageDecl) : Profile :=
  { inFmt := BitVec.ofNat 3 (nfld v 339 337), inRate := BitVec.ofNat 3 (nfld v 342 340), outFmt := BitVec.ofNat 3 (nfld v 345 343)
    outRate := BitVec.ofNat 3 (nfld v 348 346), sb := d.sb, silEn := v.testBit 349, silThr := BitVec.ofNat 32 (nfld v 383 352)
    pcmSize := BitVec.ofNat 4 (nfld v 387 384) }

/-- The model of the same fingerprint (R46). -/
def modelOfPrint (s : State) (k : Nat) : Option (ModelSlot × Model) :=
  (s.models.find? fun m => decide (m.2.digest.toNat % 2 ^ 64 = k) && !m.2.loading && !m.2.faulted).map fun m => (BitVec.ofNat 6 m.1, m.2)

/-- Writes consecutive bytes into pieces. -/
def putPieces (m : Tbl Byte) : List (Nat × Nat) → List Byte → Tbl Byte
  | [], _ => m
  | (a, n) :: r, b => putPieces (Memory.wrs m a (b.take n)) r (b.drop n)

/-- The staged data enters the stream's own blocks: generation, audio, frames. -/
def placeArrived (s : State) (x : Stream) (d : ImageDecl) (u : Option Uncoded) (data : List Byte) : State :=
  let a := audioPieces x
  let fr := framePieces s x
  let s := match u with
    | some u => putGen s u (genAddr d (imgAddr x) x.gen) (winAddr d (imgAddr x))
    | none => s
  let m := putPieces s.mem a data
  { s with mem := putPieces m fr (data.drop (pieceBytes a)) }

/-- The answer to a migration that has arrived: refused with a reason, or entered under its handle. -/
inductive Arrival where
  | refuse (reason : BitVec 16)
  | accept (s : State) (h : Handle)
  | unfit

/-- END at the receiver: its checks, then the stream PAUSED, STREAM_ARRIVED (R332). -/
def arrive (s : State) (g : MigIn) (w : Win) (e : Nat) (ch : OpenChoice) : Arrival :=
  let v := leNat g.start
  let f : Func := BitVec.ofNat 5 (nfld v 312 308)
  match (if (getFn s f).enabled && (getFn s f).ready then modelOfPrint s (nfld v 255 192) else none) with
  | none => .refuse stFUNC_STATE
  | some (m, y) =>
    let d := y.decl
    let p := arrivedProfile v d
    let coded := nfld e 191 128
    let u := if blkBytes d = 0 then none else decodeGen d (devRead s w.base coded)
    match firstBad [ ((profileSlot s p).isNone && decide (256 ≤ s.profiles.length), stPROFILES_FULL), (overCapacity s p, stSB_CAPACITY)
                   , (decide (65536 ≤ usedStreams s), stSTREAMS_FULL), 
                     (ch.places.isNone && streamFull s d (2 ^ nfld v 328 324) (featureBytes d p (nfld v 332 329)), stTIER_FULL)
                   , (decide (blkBytes d ≠ 0) && u.isNone, 0) ], ch.places with
    | some r, _ => .refuse r
    | none, none => .unfit
    | none, some pl =>
      let ib := 2 ^ nfld v 328 324
      let fr := featureBytes d p (nfld v 332 329)
      if !(openChoiceOk s p ch && streamPlacesOk s d pl ib fr) then .unfit
      else
        let (i, s) := takeProfile s p ch
        let s := { s with regions := s.regions ++ streamRegions d ch.handle pl ib fr }
        let data := devRead s (w.base + coded) (w.size - coded)
        let x0 := arrivedStream s v e m y i pl []
        let s := setStream s ch.handle x0
        let n := pieceBytes (audioPieces x0) + pieceBytes (framePieces s x0)
        let x := arrivedStream s v e m y i pl ((data.drop n).take (nfld e 223 192))
        let s := placeArrived (setStream s ch.handle x) x d u data
        .accept (postEvent s f evSTREAM_ARRIVED (ch.handle.toNat + g.peer.toNat * 2 ^ 16 + nfld v 23 8 * 2 ^ 32 + nfld v 55 24 * 2 ^ 64)) ch.handle

/-- The migration on a window from a device. -/
def findIn (s : State) (w : WinNo) (d : DevNo) : Option MigIn := s.br.migIn.find? fun g => decide (g.window = w) && decide (g.peer = d)

def dropIn (s : State) (w : WinNo) (d : DevNo) : State :=
  { s with br := { s.br with migIn := s.br.migIn.filter fun g => !decide (g.window = w ∧ g.peer = d) } }

/-- The migration out that the peer answers: its data is all sent. -/
def findOut (s : State) (w : WinNo) (d : DevNo) : Option MigOut :=
  s.br.migOut.find? fun m => decide (m.window = w) && decide (m.device = d) && m.coded.isSome

/-- ACCEPT: the source entry is FREE, and the RESULT carries the new handle. -/
def migAccepted (s : State) (m : MigOut) (h : Nat) : State :=
  let s := { s with
    br := { s.br with migOut := s.br.migOut.filter fun x => decide (x ≠ m) }
    inProgress := s.inProgress.filter fun q => !decide (q.f = m.f ∧ q.tag = m.tag ∧ q.opcode = 0x0212) }
  postResult (freeStream s m.handle) m.f 0x0212 m.tag stOK h

/-- What a MIG_CTRL frame does; ACCEPT and REFUSE carry their value in bits [31:16]. -/
def applyMigCtrl (fr : Frame) (ch : OpenChoice) (i : Nat) (s : State) : State :=
  let v := leNat fr.payload
  match v % 256 with
  | 1 =>
    let s := dropIn s fr.win fr.src
    { s with br := { s.br with migIn := s.br.migIn ++ [⟨fr.win, fr.src, fr.payload⟩] } }
  | 2 =>
    match findIn s fr.win fr.src, getWin s fr.win with
    | some g, some w =>
      match arrive s g w v ch with
      | .refuse r => migCtrl (dropIn s fr.win fr.src) i (mcREFUSE + r.toNat * 2 ^ 16)
      | .accept s h => migCtrl (dropIn s fr.win fr.src) i (mcACCEPT + h.toNat * 2 ^ 16)
      | .unfit => s
    | _, _ => s
  | 3 => match findOut s fr.win fr.src with | some m => migAccepted s m (nfld v 31 16) | none => s
  | 4 => match findOut s fr.win fr.src with | some m => migFail s m (BitVec.ofNat 16 (nfld v 31 16)) | none => s
  | _ => s

/-- An END that the runtime's choices fit. -/
def endFits (s : State) (fr : Frame) (ch : OpenChoice) : Bool :=
  if leNat fr.payload % 256 = 2 then
    match findIn s fr.win fr.src, getWin s fr.win with
    | some g, some w => match arrive s g w (leNat fr.payload) ch with | .unfit => false | _ => true
    | _, _ => true
  else true

def execMigCtrlFrame (n : PortNo) (fr : Frame) (ch : OpenChoice) (dt : Nat) (s : State) : Host.Outcome State Fault Refusal :=
  .next (if arrives s n fr ftMIG_CTRL && endFits (tick s dt) fr ch then receiveSequenced (tick s dt) fr none (applyMigCtrl fr ch) else s)

end Sys2Proof.Machine
end

