-- ==== Sys2Proof/Machine/Faults.lean ====
section
/-! DEFINITION. Uncorrectable reads by requester, and the partition reset (R379, R394, R396, R397, R400, R401). -/

namespace Sys2Proof.Machine
open Sys2Proof

/-! ### What is not delivered (R396) -/

/-- The cause of an uncorrectable read at a local address, by tier. -/
def dataCause (a : Nat) : BitVec 8 := if tierOf a = 0 then cDATA_T0 else if tierOf a = 1 then cDATA_T1 else cDATA_T2

/-- A memory line is not delivered to what the core's started commands still read of it. -/
def loseLine (s : State) (c : CoreId) (a : Nat) : State :=
  let f (e : QEntry) : QEntry := if e.started && byMemory e.kind then { e with lost := e.lost ++ [a / 64] } else e
  modSeq s c fun q => { q with dmaQ := q.dmaQ.map f, mxQ := q.mxQ.map f }

/-- A scratchpad word delivers zeros to what the core's started commands still read of it. -/
def zeroWord (s : State) (c : CoreId) (w : Nat) : State :=
  let f (e : QEntry) : QEntry := if e.started then { e with zeros := e.zeros ++ [w] } else e
  [QSel.dma, .wl, .mx, .vx, .sq].foldl (fun s k => modSeq s c fun q => setQ q k ((getQ q k).map f)) s

/-! ### By requester -/

/-- A task that has been stopped and is settled elsewhere keeps nothing of a later error but its record (R396). -/
def taskLive (s : State) (c : CoreId) : Bool :=
  match partOfCore s c with
  | some p => (getPart s p).task.isSome && !(getPart s p).stopping
  | none => false

/-- Tiers 0 and 1: the page is retired (R397). -/
def retireAt (s : State) (a : Nat) : State := if tierOf a < 2 then retirePage s a (if tierOf a = 0 then 1 else 2) else s

/-- The record of an error that stops nothing any more. -/
def lateRecord (s : State) (c : CoreId) (cause : BitVec 8) (a : Nat) (detail : BitVec 16) : State :=
  logError s { errInfo cause (errSource cause) with core := some (c, (getCore s c).seq.pc), addr := some (BitVec.ofNat 48 a), detail := detail }

/-- A core's read of memory: the line is not delivered, and the task stops with its error (R396). -/
def coreRead (s : State) (c : CoreId) (a : Nat) (sym : BitVec 16) : State :=
  if taskLive s c then
    let pc := match (runningHead s c .dma).orElse fun _ => (runningHead s c .mx).filter fun q => isAdrain q.kind with
      | some q => q.pc
      | none => (getCore s c).seq.pc
    let s := loseLine s c a
    abandonRest (raiseTaskAt s c (dataCause a) pc (some (BitVec.ofNat 48 a)) sym) c
  else retireAt (lateRecord s c (dataCause a) a sym) a

/-- A scratchpad read: zeros are delivered, and the task stops with SRAM_UE (R396). -/
def sramRead (s : State) (c : CoreId) (r : SramRow) : State :=
  if taskLive s c then
    let s := zeroWord s c (rowWord r)
    abandonRest (raiseTaskAt s c cSRAM_UE (getCore s c).seq.pc (some (BitVec.ofNat 48 (rowAddr r))) (rowDetail r)) c
  else lateRecord s c cSRAM_UE (rowAddr r) (rowDetail r)

/-- The bytes on their way are read at the address: within the next 64 KiB of a COPY, or anywhere in the source of CODE and DECODE. -/
def readsNow (s : State) (w : MigWork) (a : Nat) : Bool :=
  let lo := dSrc w.desc + w.moved
  match dOp w.desc with
  | 0 => decide (lo ≤ a) && decide (a < lo + min migPiece (dLen w.desc - w.moved))
  | 1 => false
  | _ => (descRanges s w.desc).1.any fun r => decide (r.1 ≤ a) && decide (a < r.1 + r.2)

/-- The descriptor fails with DATA_ERROR: what a COPY read before the line is delivered, the line is not (R266). -/
def failAt (s : State) (w : MigWork) (a : Nat) : State :=
  let n := if dOp w.desc = 0 then a / 64 * 64 - (dSrc w.desc + w.moved) else 0
  endDesc (if 0 < n then movePlain s w.desc w.moved n else s) w.desc ⟨stDataError, w.moved + n, true⟩

/-- The migration engine's descriptor at work fails with DATA_ERROR (R273, R396). -/
def migrationRead (s : State) (a : Nat) (sym : BitVec 16) : State :=
  match s.mig.cur.bind (workOf s) with
  | none => s
  | some w =>
    if !readsNow s w a then s
    else
      let s := failAt s w a
      let s := logError s { errInfo (dataCause a) (errSource (dataCause a)) with addr := some (BitVec.ofNat 48 a), detail := sym }
      faultWeights (retireAt s a) a

/-- The inbox counter of the first sample byte of a line that has not been taken, at or after ib_rd. -/
def lineCounter (x : Stream) (a : Nat) : W32 :=
  let off := (a - ibAddr x) / 64 * 64
  let at_ := x.ibRd.toNat / 64 * 64
  BitVec.ofNat 32 (at_ + (off + ibBytes x - at_ % ibBytes x) % ibBytes x)

/-- The soundboard's read of an inbox line: its samples are zeros, and SB_DATA is recorded (R396). -/
def inboxRead (s : State) (h : Handle) (a : Nat) : State :=
  let x := getStream s h
  if x.state ≠ .free ∧ ibAddr x ≤ a ∧ a < ibAddr x + ibBytes x then
    let s := modStream s h fun x => { x with badLines := x.badLines ++ [lineCounter x a] }
    retireAt (logError s { errInfo cSB_DATA 5 with addr := some (BitVec.ofNat 48 a), handle := some h }) a
  else s

/-- A host-port read of tier 0: CTRL_UE (R396). -/
def hostRead (s : State) (a : Nat) : State :=
  faultWeights (retireAt (deviceError s { errInfo cCTRL_UE 7 with addr := some (BitVec.ofNat 48 a) }) a) a

/-- Command memory, semaphore block or core control block: the partition is to be reset; its task stops at once (R401, R379). -/
def partUnitError (s : State) (c : CoreId) : State :=
  match partOfCore s c with
  | none => logError s { errInfo cPART_UE 0 with core := some (c, (getCore s c).seq.pc) }
  | some p =>
    let n := match (getPart s p).task with | some t => (taskMembers t).length | none => 0
    let s := logError s { errInfo cPART_UE 0 with
      outcome := 4, part := taskPart s p, core := some (c, (getCore s c).seq.pc), members := BitVec.ofNat 16 n }
    modPart (closeCharge (stopCores s p) p) p fun x => { x with resetDue := true, stopping := true, endReq := none }

def readFault (s : State) (r : Requester) (a : Nat) (sym : BitVec 16) : State :=
  match r with
  | .core c => coreRead s c a sym
  | .sram c b row => sramRead s c ⟨b, row⟩
  | .migration => migrationRead s a sym
  | .soundboard h => inboxRead s h a
  | .hostDma => hostRead s a
  | .partUnit c => partUnitError s c
  | .controlSram => deviceError s (errInfo cCTRL_UE 7)
  | .fabric => deviceError s (errInfo cFABRIC_UE 4)
  | .serviceFence => deviceError s { errInfo cSERVICE_FENCE 4 with addr := some (BitVec.ofNat 48 a) }

def execUncorrectableRead (r : Requester) (addr : BitVec 48) (sym : BitVec 16) (dt : Nat) (s : State) :
    Host.Outcome State Fault Refusal :=
  .next (if devRuns s && decide (addr.toNat < tierEnd) then readFault (tick s dt) r addr.toNat sym else s)

/-! ### PARTITION_RESET (R379) -/

/-- Chunks of the stopped task: a commit stands; else they are requeued and count one error run, at the second of which they
fail (R379, R398). -/
def settleReset (s : State) (p : PartId) : State :=
  match (getPart s p).task with
  | none => s
  | some t =>
    let s := logTaskErrors (closeCharge s p) p t 4
    let s := modTask s p fun t => { t with errors := [] }
    if t.committed then commitBundle s p []
    else if t.settled then s
    else settleMembers s (partCores (getPart s p)) (taskMembers t) (fun _ c => decide (1 ≤ c.errRuns)) id (· + 1) []

/-- Core resets, settlement, step 4 of Table 13-4; then the partition accepts a task again. -/
def resetPartition (s : State) (p : PartId) : State :=
  let s := wipeCores (unbind (settleReset (resetCores s p) p) p) p
  modPart s p fun x => { x with resetDue := false, stopping := false }

/-- The writes of the partition's task have completed (step 2). -/
def resetQuiet (s : State) (p : PartId) : Bool :=
  match (getPart s p).task with
  | some t => jobQuiet s p t.job
  | none => true

def execPartitionReset (p : PartId) (dt : Nat) (s : State) : Host.Outcome State Fault Refusal :=
  .next (if rtRuns s && (getPart s p).resetDue && resetQuiet s p then resetPartition (tick s dt) p else s)

end Sys2Proof.Machine
end

