-- ==== Sys2Proof/Machine/Links.lean ====
section
/-! DEFINITION. Links, HELLOs, routes, and the alignment of device time (R337, R339, R340, R353). -/

namespace Sys2Proof.Machine
open Sys2Proof

def allPorts : List PortNo := (List.range 8).map (BitVec.ofNat 3)

/-! ### Routes (R340) -/

/-- 350 ms and 100 ms in ticks. -/
def routeLife : Nat := 35000000
def helloGap : Nat := 10000000

/-- Every source that `keep` names stays. -/
def filterRoutes (s : State) (keep : Nat → RouteSrc → Bool) : State :=
  { s with br := { s.br with routes := (s.br.routes.map fun r => (r.1, r.2.filter (keep r.1))).filter fun r => !r.2.isEmpty } }

/-- Devices heard on a port, with their remote ports. -/
def heardOn (s : State) (n : PortNo) : List (DevNo × PortNo) :=
  s.br.routes.filterMap fun r => (r.2.find? fun a => decide (a.port = n)).map fun a => (BitVec.ofNat 14 r.1, a.remote)

/-- BR_PORTn as the HELLOs heard have it (Table 16-3). -/
def setPeer (s : State) (n : PortNo) : State :=
  let x := getPort s n
  setPort s n (match heardOn s n with
    | [] => { x with multi := false, peerValid := false }
    | [(d, r)] => { x with multi := false, peerValid := true, peerDev := d, peerPort := r }
    | _ => { x with multi := true, peerValid := true })

/-- The lowest-numbered device of the route table. -/
def lowestRoute (s : State) : Option DevNo := (s.br.routes.find? fun r => !r.2.isEmpty).map fun r => BitVec.ofNat 14 r.1

/-- The root is the lowest number of this device and its routes; any other device synchronises to that device (R353). -/
def setRoot (s : State) : State :=
  let low := lowestRoute s
  let root := match low with | some d => decide ((myDev s).toNat < d.toNat) | none => true
  { s with br := { s.br with
    root := root, parent := if root then myDev s else low.getD 0, locked := if root then true else s.br.locked && !s.br.root } }

def refreshPorts (s : State) : State := setRoot (allPorts.foldl setPeer s)

/-! ### HELLO -/

/-- Port, time state, root device (log 49). -/
def helloPayload (s : State) (n : PortNo) : List Byte :=
  let r := if s.br.root then myDev s else s.br.parent
  leBytes 16 (n.toNat + (if s.br.locked then 2 ^ 8 else 0) + (if s.br.root then 2 ^ 9 else 0) + r.toNat * 2 ^ 16)

def sendHello (s : State) (n : PortNo) : State :=
  if (getPort s n).up then
    sendOn (setPort s n { getPort s n with helloAt := s.time }) n helloMac (mkFrame s ftHELLO 0 0 0 0 (helloPayload s n))
  else s

/-- 100 ms have passed since the port's last HELLO. -/
def helloDue (s : State) (n : PortNo) : Bool := (getPort s n).up && decide (helloGap ≤ (s.time - (getPort s n).helloAt).toNat)

def execBridgeLinkUp (n : PortNo) (dt : Nat) (s : State) : Host.Outcome State Fault Refusal :=
  .next (if linksRun s && !(getPort s n).up then
      let s := tick s dt
      sendHello (setRoot (setPort s n { getPort s n with up := true })) n
    else s)

/-- Routes through the port end; the others stand (Table 16-10). -/
def execBridgeLinkDown (n : PortNo) (dt : Nat) (s : State) : Host.Outcome State Fault Refusal :=
  .next (if linksRun s && (getPort s n).up then
      let s := tick s dt
      let s := setPort s n { getPort s n with up := false }
      refreshPorts (filterRoutes s fun _ a => decide (a.port ≠ n))
    else s)

def execHelloTimer (dt : Nat) (s : State) : Host.Outcome State Fault Refusal :=
  let t := tick s dt
  .next (if linksRun s && allPorts.any (helloDue t) then (allPorts.filter (helloDue t)).foldl sendHello (setRoot t) else s)

/-- This device's own number: no Lemrix traffic but HELLO from now on (R339). -/
def numberConflict (s : State) : State := tellConflict { s with br := { s.br with devidConflict := true } }

/-- A HELLO makes or refreshes a source of its device's route; a device newly reached is offered the windows (R342). -/
def hearHello (s : State) (n remote : PortNo) (d : DevNo) : State :=
  let old := tget [] s.br.routes d.toNat
  let s := { s with br := { s.br with routes := tset s.br.routes d.toNat (old.filter (fun a => decide (a.port ≠ n)) ++ [⟨n, remote, s.time⟩]) } }
  let s := refreshPorts s
  if old.isEmpty && devRuns s then offerDevice s d else s

def execHelloReceive (n : PortNo) (remotePort : PortNo) (fr : Frame) (dt : Nat) (s : State) : Host.Outcome State Fault Refusal :=
  .next (if linksRun s && (getPort s n).up && decide (fr.ver = 1) && decide (fr.type = ftHELLO) && lenAgrees fr then
      if fr.src = myDev s then numberConflict (tick s dt) else hearHello (tick s dt) n remotePort fr.src
    else s)

/-- A source lapses 350 ms after its last HELLO. -/
def lapsed (s : State) (a : RouteSrc) : Bool := decide (routeLife < (s.time - a.at_).toNat)

def execRouteExpiry (d : DevNo) (dt : Nat) (s : State) : Host.Outcome State Fault Refusal :=
  let t := tick s dt
  .next (if linksRun s && (tget [] s.br.routes d.toNat).any (lapsed t) then
      refreshPorts (filterRoutes t fun k a => !(decide (k = d.toNat) && lapsed t a))
    else s)

/-! ### Device time (R353) -/

/-- 10 ms in ticks. -/
def syncGap : Nat := 1000000

/-- The device takes part and is not the root. -/
def follows (s : State) : Bool := s.br.syncEn && !s.br.root && (lowestRoute s).isSome

def execSyncTimer (dt : Nat) (s : State) : Host.Outcome State Fault Refusal :=
  let t := tick s dt
  .next (if linksRun s && follows s && decide (syncGap ≤ (t.time - t.br.syncAt).toNat) then
      let tag := t.br.syncTag + 1
      let t := { t with br := { t.br with syncAt := t.time, syncTag := tag } }
      sendFrame t (mkFrame t ftSYNC_REQ t.br.parent 0 0 tag [])
    else s)

/-- A SYNC frame reaches this device. -/
def syncArrives (s : State) (n : PortNo) (fr : Frame) (t : BitVec 4) : Bool :=
  linksRun s && (getPort s n).up && decide (fr.ver = 1) && decide (fr.type = t) && lenAgrees fr && decide (fr.dst = myDev s) && !s.br.devidConflict

/-- Device time in ns. -/
def nowNs (s : State) : Nat := s.time.toNat * 10

/-- A time that the MAC stamps to within 1 ns falls in the tick of now. -/
def stampedNow (s : State) (t : W64) : Bool := decide (nowNs s ≤ t.toNat) && decide (t.toNat < nowNs s + 10)

/-- The answer carries the receive and send times in ns, as the MAC stamps them. -/
def execSyncReqReceive (n : PortNo) (fr : Frame) (stamps : SyncStamps) (s : State) : Host.Outcome State Fault Refusal :=
  let t2 := stamps.t2
  let t3 := stamps.t3
  let dt := stamps.dt
  .next (if syncArrives s n fr ftSYNC_REQ && stampedNow (tick s dt) t2 && stampedNow (tick s dt) t3 && decide (t2.toNat ≤ t3.toNat) then
      let t := tick s dt
      sendFrame t (mkFrame t ftSYNC_RESP fr.src 0 0 fr.tag (leBytes 8 t2.toNat ++ leBytes 8 t3.toNat))
    else s)

/-- ((t2 − t1) − (t4 − t3)) / 2 in ns. -/
def syncOffset (t1 t2 t3 t4 : Nat) : Int := (((t2 : Int) - t1) - ((t4 : Int) - t3)) / 2

/-- A 32-bit two's complement number, saturating (Table 16-9). -/
def sat32 (v : Int) : W32 := ofI 32 (satn 32 v)

/-- Device time steps; the spans since a route's or a port's last HELLO and the last SYNC_REQ are no longer or shorter for it (R340). -/
def stepTime (s : State) (d : W64) : State :=
  { s with
    time := s.time + d
    br := { s.br with
      locked := true, stepped := true, syncAt := s.br.syncAt + d
      routes := s.br.routes.map fun r => (r.1, r.2.map fun a => { a with at_ := a.at_ + d })
      ports := s.br.ports.map fun p => (p.1, { p.2 with helloAt := p.2.helloAt + d }) } }

/-- Stepped once before the runtime starts, slewed afterwards (R353). -/
def correctTime (s : State) (ns : Int) : State :=
  let s := { s with br := { s.br with offset := sat32 ns } }
  if s.pw.phase = .running ∨ s.br.stepped then
    { s with br := { s.br with slew := ns / 10, slewAcc := 0, locked := decide (ns.natAbs ≤ 1000) } }
  else stepTime s (BitVec.ofInt 64 (ns / 10))

def execSyncRespReceive (n : PortNo) (fr : Frame) (t1 t4 : W64) (dt : Nat) (s : State) : Host.Outcome State Fault Refusal :=
  .next (if syncArrives s n fr ftSYNC_RESP && follows s && decide (fr.src = s.br.parent) && decide (fr.tag = s.br.syncTag) then
      correctTime (tick s dt) (syncOffset t1.toNat (leNat (fr.payload.take 8)) (leNat (fr.payload.drop 8)) t4.toNat)
    else s)

end Sys2Proof.Machine
end

