-- ==== Sys2Proof/Machine/Monitor.lean ====
section
/-! DEFINITION. The secure monitor's requests, the background zeroing and scrubbing of the tiers, expanders that go down (R258 to R260, R265,
R266, R270, R355, R356, R360, R397, R400, R426). -/

namespace Sys2Proof.Machine
open Sys2Proof

/-! ### GRANT (R258, R259, R270, R356, R426) -/

def gEnd (e : BitVec 128) : Nat := gBase e + gSize e

def gOverlap (a b : BitVec 128) : Bool := decide (gBase a < gEnd b) && decide (gBase b < gEnd a)

/-- Partition reading alone. -/
def gReadOnly (e : BitVec 128) : Bool := gPartR e && !gPartW e && !gSvcR e && !gSvcW e && !gSealed e

/-- A well-formed entry: a size, no reserved bit, one tier, a seal only outside tier 0 and under the partition's own key. -/
def grantForm (e : BitVec 128) : Bool :=
  decide (1 ≤ nfld e.toNat 65 36) && decide (nfld e.toNat 65 36 ≤ 805306368) && decide (nfld e.toNat 127 97 = 0) &&
  decide (tierOf (gBase e) < 3) && decide (tierOf (gBase e) = tierOf (gEnd e - 1)) &&
  (!gSealed e || (decide (tierOf (gBase e) ≠ 0) && decide (gKey e = gPart e)))

/-- The bytes of both entries in common lie in a verified region. -/
def commonVerified (s : State) (a b : BitVec 128) : Bool :=
  let lo := max (gBase a) (gBase b)
  let hi := min (gEnd a) (gEnd b)
  s.mon.verified.any fun v => decide (v.base ≤ lo) && decide (hi ≤ v.base + v.size)

/-- The one overlap that the monitor allows. -/
def overlapOk (s : State) (e g : BitVec 128) : Bool := !gOverlap e g || (gReadOnly e && gReadOnly g && commonVerified s e g)

/-- Verified bytes may be granted for partition reading alone until RELEASE (R356, R360). -/
def verifiedOk (s : State) (e : BitVec 128) : Bool :=
  gReadOnly e || !(s.mon.verified.any fun v => decide (v.base < gEnd e) && decide (gBase e < v.base + v.size))

/-- The entry's bytes are there, and the interface to them is up: every expander that holds one is present, maps it and is up (R254, R255,
R264, R400). -/
def slicesUp (s : State) (e : BitVec 128) : Bool :=
  regionFree (notThere s) (gBase e) (gSize e) && !onDown s (gBase e) (gSize e)

def noRetired (s : State) (e : BitVec 128) : Bool :=
  !(s.mon.retired.any fun pg => decide (gBase e ≤ pg * 4096) && decide (pg * 4096 < gEnd e))

/-- The stream table is fenced to the control complex: no partition reads or writes it (Table 12-2's note). -/
def tableFenced (e : BitVec 128) : Bool :=
  !(gPartR e || gPartW e) || !(decide (gBase e < tableBase + tableBytes) && decide (tableBase < gEnd e))

/-- A grant of partition writing over a state image block is not made: blocks are granted to partitions for reading only (R259). -/
def imageFenced (s : State) (e : BitVec 128) : Bool :=
  !gPartW e || s.regions.all fun r => match r.use with | .image _ => !gTouches e r.base r.size | _ => true

/-- The monitor's checks of a GRANT. -/
def grantOk (s : State) (e : BitVec 128) : Bool :=
  grantForm e && tableFenced e && imageFenced s e && decide (s.mon.grants.length < 8192) && s.mon.grants.all (overlapOk s e) && verifiedOk s e && slicesUp s e && noRetired s e

/-- The entry reaches into a released region that is not yet zeroed. -/
def releasedOver (s : State) (e : BitVec 128) : Bool := s.mig.releasing.any fun r => gTouches e r.base r.size

/-- Bytes not yet zeroed, in the background or after their release: the grant waits (R270, Table 12-8). -/
def grantWaits (s : State) (e : BitVec 128) : Bool :=
  releasedOver s e || (decide (tierOf (gBase e) = 1) && decide (s.sbtm.zero1.toNat < gEnd e))

/-- The background zeroing of tier 1 has got to an address, in ascending order; the spec gives its rate about, so the row says how far
(R270, log 116). -/
def zeroedTo (s : State) (a : Nat) : State :=
  if s.sbtm.zero1Done ∨ a ≤ s.sbtm.zero1.toNat then s else { s with sbtm := { s.sbtm with zero1 := BitVec.ofNat 48 (min a tier2Base) } }

/-- One page becomes the holder's: zeroed first where its last holder was another. -/
def takePage (h : Holder) (s : State) (pg : Nat) : State :=
  let k := holderOf s pg
  if k = .verified ∨ k = h then s
  else
    let s := if k = .zeroed then s else { s with mem := Memory.zero s.mem (pg * 4096) 4096 }
    { s with mon := { s.mon with holders := putHolder s s.mon.holders pg h } }

def doGrant (s : State) (e : BitVec 128) : State :=
  let s := (pagesOf (gBase e) (gSize e)).foldl (takePage (entryHolder e)) s
  answer { s with mon := { s.mon with grants := s.mon.grants ++ [e] } } opGRANT false

def execGrant (g : GrantReq) (s : State) : Host.Outcome State Fault Refusal :=
  let e := g.entry
  .next (if !rtRuns s then s
    else
      let s := zeroedTo s g.zeroed.toNat
      if releasedOver s e then s else if !grantOk s e then answer s opGRANT true else if grantWaits s e then s else doGrant s e)

/-! ### REVOKE (R260) -/

def execRevoke (e : BitVec 128) (s : State) : Host.Outcome State Fault Refusal :=
  .next (if !rtRuns s then s
    else if !s.mon.grants.contains e then answer s opREVOKE true
    else if revokeQuiet s e then answer { s with mon := { s.mon with grants := s.mon.grants.erase e } } opREVOKE false
    else s)

/-! ### VERIFY and RELEASE (R356, R360) -/

/-- The entry without permission to write. -/
def noWrite (e : BitVec 128) : BitVec 128 := e &&& ~~~((1#128 <<< 88) ||| (1#128 <<< 90))

/-- An entry loses its permission to write within a range, and keeps it outside (R360). -/
def noWriteIn (a n : Nat) (e : BitVec 128) : List (BitVec 128) :=
  if gPartW e || gSvcW e then carve e a n ++ (within e a n).map noWrite else [e]

/-- The region of an object that the runtime has placed: its weights, or the first region of a job. -/
def placedRegion (s : State) (base : Nat) : Option Region :=
  s.regions.find? fun r => decide (r.base = base) && match r.use with | .model _ | .job _ _ => true | _ => false

/-- The bytes of the region's object: those of an image whose weights the load has quantised, as they were read (log 91). -/
def objectBytes (s : State) (r : Region) : Nat → List Byte :=
  match r.use with
  | .model m => match (getModel s m).bind (·.signed) with
    | some b => fun n => b.take n
    | none => Memory.rds s.mem r.base
  | _ => Memory.rds s.mem r.base

/-- The object that stands at the start of a region. -/
def objectAt (s : State) (r : Region) (key : BitVec 776) : SignedObj := objFrom r.size (objectBytes s r) key

/-- Type, header, signature and floor (R359). -/
def verifyOk (s : State) (img : SignedObj) : Bool :=
  (decide ((objHdr img).type = 3) || decide ((objHdr img).type = 4)) && objOk s.fuses img (objHdr img).type.toNat

def doVerify (s : State) (r : Region) (img : SignedObj) : State :=
  let g := s.mon.grants.flatMap (noWriteIn r.base r.size)
  let v : Verified := ⟨r.base, r.size, digestOf img, decide ((objHdr img).type = 4)⟩
  let s := setHolder { s with mon := { s.mon with grants := g, verified := s.mon.verified ++ [v] } } r.base r.size .verified
  answer s opVERIFY false

def execVerify (base : Nat) (key : BitVec 776) (s : State) : Host.Outcome State Fault Refusal :=
  .next (if !rtRuns s then s
    else match placedRegion s base with
      | none => answer s opVERIFY true
      | some r =>
        let img := objectAt s r key
        if tierOf base ≠ 0 ∨ isVerified s base ∨ !verifyOk s img then answer s opVERIFY true
        else if (s.mon.grants.filter fun e => gTouches e r.base r.size && (gPartW e || gSvcW e)).all (revokeQuiet s) then doVerify s r img
        else s)

/-- The use of the object has ended: the runtime has given the region up. -/
def givenUp (s : State) (v : Verified) : Bool := s.regions.all fun r => decide (r.base ≠ v.base)

def doRelease (s : State) (v : Verified) : State :=
  let s := { carveAll s v.base v.size with mem := Memory.zero s.mem v.base v.size }
  let s := { s with mon := { s.mon with verified := s.mon.verified.filter fun w => decide (w ≠ v) } }
  answer (setHolder s v.base v.size .zeroed) opRELEASE false

def execRelease (base : Nat) (s : State) : Host.Outcome State Fault Refusal :=
  .next (if !rtRuns s then s
    else match s.mon.verified.find? fun v => decide (v.base = base) with
      | none => answer s opRELEASE true
      | some v =>
        if givenUp s v && (s.mon.grants.filter fun e => gTouches e v.base v.size).all (revokeQuiet s) then doRelease s v else s)

/-! ### Background zeroing and scrub (R266, R270, R397) -/

def execTier1ZeroDone (s : State) : Host.Outcome State Fault Refusal :=
  .next (if devRuns s && !s.sbtm.zero1Done then { s with sbtm := { s.sbtm with zero1 := BitVec.ofNat 48 tier2Base, zero1Done := true } } else s)

/-- A scrubbed line of tier 0 or 1: what it meets is reported to the monitor. -/
def scrubLine (s : State) (a : Nat) (corrected uncorrectable : Bool) : State :=
  let s := if corrected then noteCorrectedPage s a else s
  if uncorrectable then retirePage s a (if a < tier1Base then 1 else 2) else s

def execScrubPass (addr : BitVec 48) (corrected uncorrectable : Bool) (dt : Nat) (s : State) : Host.Outcome State Fault Refusal :=
  .next (if devRuns s && decide (addr.toNat < tier2Base) then scrubLine (tick s dt) addr.toNat corrected uncorrectable else s)

/-! ### Expanders (R265, R373, R400) -/

def expanderDown (s : State) (x : BitVec 2) : State :=
  let s := { s with pw := { s.pw with expDown := s.pw.expDown ||| (1#4 <<< x.toNat) } }
  logError s { errInfo cEXPANDER_DOWN 3 with addr := some (BitVec.ofNat 48 (tier2Base + x.toNat * sliceSize)) }

def execExpanderDown (x : BitVec 2) (dt : Nat) (s : State) : Host.Outcome State Fault Refusal :=
  .next (if devRuns s && s.pw.expPresent.getLsbD x.toNat && !s.pw.expDown.getLsbD x.toNat then expanderDown (tick s dt) x else s)

end Sys2Proof.Machine
end

