-- ==== Sys2Proof/Machine/Boot.lean ====
section
/-! DEFINITION. What the whole-device resets leave (Table 18-7) and boot (R339, R359, R361, R366, R370, R415, Table 17-4). -/

namespace Sys2Proof.Machine
open Sys2Proof

/-! ### What a reset leaves -/

/-- MSI-X vectors over a reset that keeps their table: mask and pending bits stay, the moderation starts anew. -/
def keepVecs (t : Tbl Vec) : Tbl Vec := t.foldl (fun a v => tput .reset a v.1 { v.2 with count := 0, first := none }) []

/-- A function after a device reset: its mailbox block and settings at their reset values; its MSI-X table is kept. -/
def warmFn (x : Fn) : Fn := { Fn.reset with enabled := x.enabled, vecs := keepVecs x.vecs }

/-- A function after an FLR: its mailbox block and MSI-X table at their reset values (R312); the delays, t_guard and deadlines that
`function.config` set stand outside that block and are kept (log 68). -/
def flrFn (x : Fn) : Fn :=
  { Fn.reset with enabled := x.enabled, delay1 := x.delay1, delay2 := x.delay2, tGuard := x.tGuard, deadlines := x.deadlines }

/-- Spares in use as the applied sparing record has them (R122, R123). -/
def sparesOf (u : Fuses) : Tbl Nat :=
  u.sparing.foldl (fun t e =>
    let k := nfld e.toNat 7 0 * 64 + nfld e.toNat 13 8
    tput 0 t k (max (tget 0 t k) (nfld e.toNat 23 22 + 1))) []

/-- The monitor after a reset; SM_FATAL is kept (R408). `h`: what the record of last holders says of every page. -/
def freshMon (m : MonSt) (h : Holder) : MonSt := { MonSt.reset with holderDefault := h, fatal := m.fatal }

/-- TM_ZERO1 after a reset that zeroes nothing in the background (Table 12-10). -/
def warmSbTm : SbTmSt := { SbTmSt.reset with zero1 := BitVec.ofNat 48 tier2Base, zero1Done := true }

/-- While the power-on reset holds the device: everything at its reset value but fuses and boot flash, the pins, and a latched trip
(R374, R391, Table 18-7). The environment's side stays: the queue, host memory, frames sent and the draws made. -/
def coldHold (s : State) : State :=
  { State.reset with
    pending := s.pending, free := s.free, hostMem := s.hostMem, fuses := s.fuses, br := { BrSt.reset with sent := s.br.sent }
    pw := { PwSt.reset with
      pwrgood := s.pw.pwrgood, perstLow := s.pw.perstLow, railsBad := s.pw.railsBad, thermtrip := s.pw.thermtrip, samples := s.pw.samples } }

/-- While PERST_N holds the device: as a power-on reset, but RWS registers stay, and so do the bytes of the tiers, every page with an
unknown last holder (R375). A power-on reset in progress goes on as one (R417). -/
def perstHold (s : State) : State :=
  let t := coldHold s
  { t with
    mem := s.mem, sbtm := warmSbTm, mon := freshMon s.mon .unknown
    br := { t.br with devidConflict := s.br.devidConflict, conflictTold := s.br.conflictTold }
    pw := { t.pw with perstLow := true, capWatts := s.pw.capWatts, capHyst := s.pw.capHyst, poweredOn := decide (s.pw.phase = .held) && s.pw.poweredOn } }

/-- Bridge ports over a warm reset: links stay trained, counters and what HELLOs told go (R376). -/
def warmPorts (t : Tbl Port) : Tbl Port := t.foldl (fun a x => tput .reset a x.1 { Port.reset with up := x.2.up, helloAt := x.2.helloAt }) []

/-- What a device warm reset leaves before boot (R376, Table 18-7): host link, configuration space, MSI-X tables, RWS registers, device
time, straps and enumeration stay. -/
def warmState (s : State) (cause : BitVec 2) : State :=
  let t := coldHold s
  { t with
    time := s.time, mem := s.mem, sbtm := warmSbTm, mon := freshMon s.mon .unknown, aer := s.aer
    funcs := s.funcs.foldl (fun a x => tput .reset a x.1 (warmFn x.2)) []
    br := { t.br with ports := warmPorts s.br.ports, devidConflict := s.br.devidConflict, conflictTold := s.br.conflictTold }
    beatAt := s.time
    pw := { t.pw with
      poweredOn := false, enumDue := s.pw.enumDue, capWatts := s.pw.capWatts, capHyst := s.pw.capHyst, wrCount := satAdd s.pw.wrCount 1, wrCause := cause
      autoResets := s.pw.autoResets, pfD3 := s.pw.pfD3, lpddrDown := s.pw.lpddrDown, stackDown := s.pw.stackDown
      expPresent := s.pw.expPresent, expDown := s.pw.expDown, expCap := s.pw.expCap, t1Refused := s.pw.t1Refused, hot := s.pw.hot } }

/-! ### Boot (Table 17-4) -/

/-- Straps are sampled at the end of a power-on reset and of PERST_N (R339, R415). -/
def sampleStraps (s : State) : State := { s with fuses := { s.fuses with devid := s.fuses.devidPins, bootsrc := s.fuses.bootsrcPin } }

/-- Boot stops: no function is ready. -/
def stopBoot (s : State) : State := { s with pw := { s.pw with phase := .bootStopped } }

/-- The first source of an image that is accepted, with its number, and the code of the last that was not (R361). A source is
tried only while none before it was accepted. -/
def tryBoot (u : Fuses) (type : Nat) : Nat → Nat → List BootSource → Option (Nat × SignedObj) × Nat
  | _, fail, [] => (none, fail)
  | i, fail, b :: l =>
    match b, bootFail u b type with
    | some o, 0 => (some (i, o), fail)
    | _, c => tryBoot u type (i + 1) c l

/-- An image in the host load area: its header, body, certificate and signature must fit its 3.75 MiB (R361). -/
def hostSource (b : BootSource) : BootSource := b.filter fun o => decide (o.bytes.length ≤ 0x3C0000)

/-- The sources of a step, in order; the host's where BOOTSRC permits, never in RETIRED (R361, R370, R415). -/
def bootSources (s : State) (a b h : BootSource) : List BootSource :=
  [a, b] ++ if s.fuses.bootsrc && decide (lcState s.fuses ≠ lcRETIRED) then [hostSource h] else []

/-- The floor that an accepted image raises, before it starts (R359). -/
def raisedFloor (floor : BitVec 6) (o : SignedObj) : BitVec 6 := if (objHdr o).raise ∧ floor.toNat < (objHdr o).svn.toNat then (objHdr o).svn else floor

/-- Step 2 with an accepted image. -/
def takeMonitor (s : State) (src : Nat) (o : SignedObj) : State :=
  { s with
    fuses := { s.fuses with floorMon := raisedFloor s.fuses.floorMon o }
    mon := { s.mon with step := 2, monSrc := BitVec.ofNat 2 src, monDigest := digestOf o, monKey := (objHdr o).keyId } }

/-- Step 5 with an accepted image. -/
def takeRuntime (s : State) (src : Nat) (o : SignedObj) : State :=
  { s with
    fuses := { s.fuses with floorRt := raisedFloor s.fuses.floorRt o }
    mon := { s.mon with step := 5, rtSrc := BitVec.ofNat 2 src, rtDigest := digestOf o, rtKey := (objHdr o).keyId } }

/-- The secret scalar of the attestation key: HMAC-SHA-384, keyed with the wrapped identity secret, over the life-cycle state and the
digests of both boot images (R366; the order and widths within the message, and the scalar's byte order, are the model's, log 11). -/
def attestSecret (identity : BitVec 384) (lc : Nat) (mon rt : BitVec 384) : BitVec 384 :=
  let h := hmac384 (leBytes 128 (Config.wrappedSecret identity).toNat) (leBytes 1 lc ++ leBytes 48 mon.toNat ++ leBytes 48 rt.toNat)
  let v := beNat h % ecN
  BitVec.ofNat 384 (if v = 0 then 1 else v)

/-- The attestation key of the images that boot starts (R366); none without an identity. -/
def deriveAttest (s : State) (rt : BitVec 384) : State :=
  match s.fuses.idSecret with
  | some k => { s with mon := { s.mon with attest := attestSecret k (lcState s.fuses) s.mon.monDigest rt } }
  | none => s

/-- The sparing record that bytes of the boot flash hold: version 1, reserved fields 0, its entries, the signature (Table 5-10). -/
def readRecord (u : Fuses) (b : List Byte) : Option Fuses :=
  let h := leNat (b.take 16)
  let n := nfld h 31 16
  if nfld h 7 0 = 1 ∧ nfld h 15 8 = 0 ∧ nfld h 127 64 = 0 ∧ n ≤ 4096 ∧ b.length = 16 + 8 * n + 96 then
    some { u with
      sparing := (List.range n).map fun i => BitVec.ofNat 64 (leNat ((b.drop (16 + 8 * i)).take 8))
      sparingNo := BitVec.ofNat 32 (nfld h 63 32), sparingSig := BitVec.ofNat 768 (leNat (b.drop (16 + 8 * n))) }
  else none

/-- The record that stands in the boot flash: what the monitor wrote last, or other bytes. -/
def flashRecord (u : Fuses) (flash : Option (List Byte)) : Option Fuses :=
  match flash with
  | none => some u
  | some b => readRecord u b

/-- The record of the boot flash is applied where its signature verifies; one that does not counts as empty from then on (R123,
log 115). -/
def applyRecord (s : State) (flash : Option (List Byte)) : State :=
  if !sparesInField s then s
  else
    match (flashRecord s.fuses flash).filter fun u => ecdsaOk u.idPub (sha384 (spareBytes u)) u.sparingSig with
    | some u => { s with
      mon := { s.mon with spares := sparesOf u }, fuses := { u with sparingStatus := if u.sparing.length ≥ 4096 then 2 else 0 } }
    | none => { s with fuses := { s.fuses with sparing := [], sparingStatus := 1 } }

/-- The slice of an expander, by its lowest lane (R255). -/
def laneSlice (x : BitVec 4 × Nat) : Nat := x.1.toNat / 4

/-- The slices with an expander. -/
def presentOf (l : List (BitVec 4 × Nat)) : BitVec 4 := l.foldl (fun m x => m ||| (1#4 <<< laneSlice x)) 0

/-- What each maps. -/
def capsOf (l : List (BitVec 4 × Nat)) : Tbl Nat := l.foldl (fun t x => tput 0 t (laneSlice x) x.2) []

/-- Step 4: links train, but those that are up; expanders are enumerated after a power-on reset and PERST_N alone (R264, R265, R376). -/
def trainLinks (s : State) (b : BootEnv) : State :=
  { s with
    mon := { s.mon with step := 4 }
    pw := { s.pw with
      lpddrDown := false, enumDue := false, expPresent := if s.pw.enumDue then presentOf b.expanders else s.pw.expPresent
      expCap := if s.pw.enumDue then capsOf b.expanders else s.pw.expCap
      expDown := if s.pw.enumDue then 0 else s.pw.expDown, t1Refused := if s.pw.enumDue then b.t1Refused else s.pw.t1Refused } }

/-- The PF is there, and every function that is enabled becomes ready. -/
def readyAll (s : State) : State :=
  forAll allFuncs (fun s f => if f = 0 ∨ (getFn s f).enabled then modFn s f fun x => { x with enabled := true, ready := true } else s) s

/-- Step 6: the runtime starts. With the PF still in D3hot the device enters standby (Table 18-12). -/
def startRuntime (s : State) : State :=
  let s := { s with mon := { s.mon with step := 6, hostLoad := [] }, beatAt := s.time, pw := { s.pw with phase := .running, standby := s.pw.pfD3 } }
  if s.pw.pfD3 then modFn s 0 fun x => { x with enabled := true } else readyAll s

/-- Steps 5 and 6. -/
def bootRuntime (s : State) (b : BootEnv) : State :=
  let r := tryBoot s.fuses 2 0 s.mon.fail.toNat (bootSources s b.rtA b.rtB b.rtHost)
  let s := { s with mon := { s.mon with fail := BitVec.ofNat 8 r.2 } }
  match r.1 with
  | some (i, o) => startRuntime (takeRuntime s i o)
  | none => stopBoot s

/-- The digest of the runtime that boot will start, 0 where none verifies. -/
def nextRuntime (s : State) (b : BootEnv) : BitVec 384 :=
  match (tryBoot s.fuses 2 0 0 (bootSources s b.rtA b.rtB b.rtHost)).1 with
  | some (_, o) => digestOf o
  | none => 0

/-- Steps 3 to 6. A stack that does not respond, or a link that does not train, stops boot, fatal. -/
def bootFrom3 (s : State) (b : BootEnv) : State :=
  let s := applyRecord (deriveAttest s (nextRuntime s b)) b.sparingFlash
  let s := { s with mon := { s.mon with step := 3 } }
  if b.linksOk ∧ s.pw.stackDown = 0 then bootRuntime (trainLinks s b) b else stopBoot (setFatal s)

/-- In RETIRED boot stops after step 2 with fail = 0 (R370). -/
def afterMonitor (s : State) (b : BootEnv) : State :=
  if lcState s.fuses = lcRETIRED then stopBoot { s with mon := { s.mon with fail := 0 } } else bootFrom3 s b

/-- Boot from step 1 (R361). `enum`: after a power-on reset or PERST_N. -/
def boot (s : State) (b : BootEnv) (enum : Bool) : State :=
  let s := if enum then sampleStraps s else s
  let s := { s with mon := { s.mon with step := 1 }, pw := { s.pw with smbAck := true, poweredOn := false, enumDue := enum || s.pw.enumDue } }
  let r := tryBoot s.fuses 1 0 0 (bootSources s b.monA b.monB b.monHost)
  let s := { s with mon := { s.mon with fail := BitVec.ofNat 8 r.2 } }
  match r.1 with
  | some (i, o) => afterMonitor (takeMonitor s i o) b
  | none => stopBoot s

end Sys2Proof.Machine
end

