-- ==== Sys2Proof/Machine/Resets.lean ====
section
/-! DEFINITION. The reset kinds of Table 18-3 but those of one partition and one core: pins and rails, warm reset, hot reset, FLR,
and VF Enable (R295, R296, R312, R374 to R378, R381, R416 to R418). -/

namespace Sys2Proof.Machine
open Sys2Proof

/-! ### Power-on reset (R374, R417, R418) -/

/-- PWRGOOD is high, every watched rail is within range, PERST_N is high: a reset that holds the device ends. -/
def mayBoot (s : State) : Bool := s.pw.pwrgood && s.pw.railsBad.isEmpty && !s.pw.perstLow

/-- A reset that holds the device ends here, where nothing else holds it. -/
def release (s : State) (b : BootEnv) : State := if mayBoot s then boot s b true else s

/-- PWRGOOD rises. -/
def powerOn (s : State) (b : BootEnv) : State := release { s with pw := { s.pw with pwrgood := true, poweredOn := true } } b

def execPowerOnReset (b : BootEnv) (s : State) : Host.Outcome State Fault Refusal :=
  .next (if !s.pw.pwrgood && s.pw.railsBad.isEmpty then powerOn s b else s)

/-- PWRGOOD falls: the device is held in reset. -/
def execPwrgoodFall (s : State) : Host.Outcome State Fault Refusal :=
  .next (if s.pw.pwrgood then coldHold { s with pw := { s.pw with pwrgood := false } } else s)

/-- A watched rail below its minimum starts a power-on reset at once. -/
def execUndervoltage (r : Rail) (s : State) : Host.Outcome State Fault Refusal :=
  .next (if s.pw.pwrgood && !s.pw.railsBad.contains r then coldHold { s with pw := { s.pw with railsBad := s.pw.railsBad ++ [r] } } else s)

/-- The rail returns: with the last of them that reset ends. -/
def execRailReturn (r : Rail) (b : BootEnv) (s : State) : Host.Outcome State Fault Refusal :=
  .next (if s.pw.railsBad.contains r then release { s with pw := { s.pw with railsBad := s.pw.railsBad.filter fun q => decide (q ≠ r) } } b else s)

/-! ### PERST_N (R375, R381, R417) -/

/-- PERST_N holds a device that PWRGOOD does not hold; a tripped device answers to a power-on reset alone (R389). -/
def execPerstNAssert (s : State) : Host.Outcome State Fault Refusal :=
  .next (if s.pw.perstLow then s
    else if s.pw.pwrgood && decide (s.pw.clockStop ≠ some cTHERMTRIP) then perstHold s
    else { s with pw := { s.pw with perstLow := true } })

def execPerstNDeassert (b : BootEnv) (s : State) : Host.Outcome State Fault Refusal :=
  .next (if !s.pw.perstLow then s
    else
      let s := { s with pw := { s.pw with perstLow := false } }
      if s.pw.phase = .held then release s b else s)

/-! ### Device warm reset (R376, R377) -/

/-- Steps 1 to 5 of R376. -/
def warmReset (s : State) (cause : BitVec 2) (b : BootEnv) : State := boot (warmState s cause) b false

def wresetKey : W32 := 0x57525354

/-- The PF's configuration space answers: the device is not held, and its clocks run (R373, R389). -/
def configReaches (s : State) : Bool := decide (s.pw.phase ≠ .held) && decide (s.pw.clockStop = none)

def execPwWresetWrite (v : W32) (b : BootEnv) (dt : Nat) (s : State) : Host.Outcome State Fault Refusal :=
  .next (if configReaches s && decide (v = wresetKey) then warmReset (tick s dt) 1 b else s)

/-! ### FLR (R312, R378, Table 2-3, R285) -/

/-- The stream closes as with abort, and nothing more is written for it. A formed bundle that holds its chunk and is not bound is
stopped: its chunks return to their streams (Table 2-6, log 107). -/
def closeSilently (s : State) (h : Handle) : State :=
  let s := dropMove (unformWith s h) h
  let s := modStream s h fun x =>
    { abortAudio x with state := .closing, closing := some ⟨true, true, true⟩, pauseAt := none, migrating := false, moving := false, reserved := 0, dropReserved := 0 }
  endClose s h

def handlesOf (s : State) (f : Func) : List Handle :=
  (s.streams.filter fun x => decide (x.2.state ≠ .free) && decide (x.2.client = f)).map fun x => BitVec.ofNat 16 x.1

/-- Every job of the partition is reclaimed without a report, and then the partition. -/
def dropPartition (s : State) (p : PartId) : State :=
  let s := modPart s p fun x => { x with destroying := true, trace := none }
  let s := ((getPart s p).jobs.map (·.num)).foldl (fun s j =>
    modJob (triggerReclaim s p j rsSilent) p j fun b => { b with crashed := some rsSilent }) s
  endDestroy s p

/-- A load of the function is abandoned: the slot stays for its other users, and for loads that wait for it (R319). -/
def abandonLoad (f : Func) (s : State) (q : InProgress) : State :=
  match slotOfObjs q.objs with
  | some m =>
    if q.opcode = 0x0101 ∧ !q.waits then
      let ws := (s.inProgress.filter fun r => r.waits && r.objs.contains (.model m) && decide (r.f ≠ f)).map (·.f)
      modModel s m fun y => { y with loading := false, users := y.users ++ ws.filter fun g => !y.users.contains g }
    else s
  | none => s

/-- Commands of the function in progress are abandoned, with no RESULT: loads, migrations, closes of windows. -/
def dropCommands (s : State) (f : Func) : State :=
  let mine := s.inProgress.filter fun q => decide (q.f = f)
  let s := mine.foldl (abandonLoad f) s
  { s with
    inProgress := s.inProgress.filter fun q => decide (q.f ≠ f)
    br := { s.br with
      migOut := s.br.migOut.filter fun m => decide (m.f ≠ f)
      wins := s.br.wins.map fun w => if (w.2.closeFor.map (·.1)) = some f then (w.1, { w.2 with closeFor := none }) else w } }

/-- The monitor and the runtime can act on a reset of a function: boot has ended, the clocks run, nothing is halted. -/
def runtimeUp (s : State) : Bool := decide (s.pw.phase = .running) && decide (s.pw.clockStop = none)

/-- What the runtime does on an FLR of a function. -/
def flrEffects (s : State) (f : Func) : State :=
  let s := dropCommands s f
  let s := (handlesOf s f).foldl closeSilently s
  let s := (allParts.filter fun p => (getPart s p).valid && decide ((getPart s p).owner = f)).foldl dropPartition s
  settleProgress (modFn s f fun x => { x with flr := true })

/-- The turns that a function owes or is owed go with its mailbox. -/
def dropTurns (s : State) (f : Func) : State := { s with turns := s.turns.filter fun k => decide (k.1 ≠ f ∧ k.2 ≠ f) }

/-- An FLR of one function: its mailbox block returns to its reset values, then the runtime's effects. -/
def flrOne (s : State) (f : Func) : State :=
  let s := dropTurns (modFn s f flrFn) f
  if runtimeUp s then flrEffects s f else s

/-- VF Enable is cleared. -/
def clearVfs (s : State) : State := forAll allFuncs (fun s f => if f = 0 then s else modFn s f fun x => { x with enabled := false }) s

def flrAll (s : State) : State := forAll allFuncs flrOne (clearVfs s)

/-- The PF is in D0 and standby is left: bridge links are to train again, the watchdog resumes (R384). -/
def leaveStandby (s : State) : State := { s with beatAt := if s.pw.standby then s.time else s.beatAt, pw := { s.pw with standby := false, pfD3 := false } }

/-- The function answers configuration requests. -/
def fnExists (s : State) (f : Func) : Bool := decide (f = 0) || (getFn s f).enabled

def execFlr (f : Func) (dt : Nat) (s : State) : Host.Outcome State Fault Refusal :=
  .next (if !(configReaches s && fnExists s f) then s
    else if f = 0 then flrAll (leaveStandby (tick s dt)) else flrOne (tick s dt) f)

/-- The host port's own PLL runs on when the clocks have stopped, but not after a trip (R373, R389). -/
def execHotReset (dt : Nat) (s : State) : Host.Outcome State Fault Refusal :=
  .next (if decide (s.pw.phase ≠ .held) && decide (s.pw.clockStop ≠ some cTHERMTRIP) then flrAll (leaveStandby (tick s dt)) else s)

/-! ### VF Enable (R295, R296) -/

/-- VFs 1 to n come into being, and are ready where the runtime takes commands. -/
def enableVfs (s : State) (n : Nat) : State :=
  let up := devRuns s && !s.fatal && !s.pw.pfD3
  forAll allFuncs (fun s f => if f ≠ 0 ∧ f.toNat ≤ n then modFn s f fun x => { x with enabled := true, ready := up && !x.flr } else s) s

/-- VF Enable is set. -/
def vfsOn (s : State) : Bool := allFuncs.any fun f => decide (f ≠ 0) && (getFn s f).enabled

/-- The VFs cease to exist, with the effects of their FLR. -/
def disableVfs (s : State) : State := forAll (allFuncs.filter fun f => decide (f ≠ 0)) flrOne (clearVfs s)

def execVfEnableWrite (enable : Bool) (n : BitVec 6) (s : State) : Host.Outcome State Fault Refusal :=
  .next (if !configReaches s then s
    else if enable then (if vfsOn s || decide (31 < n.toNat) then s else enableVfs s n.toNat)
    else if vfsOn s then disableVfs s else s)

end Sys2Proof.Machine
end

