-- ==== Sys2Proof/Machine/Security.lean ====
section
/-! DEFINITION. Requests of the diagnostic window, life-cycle tokens, host-supplied boot images, SM_FATAL, and the entropy source (R355,
R361 to R371, R408). -/

namespace Sys2Proof.Machine
open Sys2Proof

/-! ### SM_REQ (Table 17-8) -/

def rqOK : BitVec 8 := 0
def rqREFUSED : BitVec 8 := 1
def rqNO_KEY : BitVec 8 := 2
def rqBAD_TOKEN : BitVec 8 := 3
def rqNONCE : BitVec 8 := 4
def rqEXHAUSTED : BitVec 8 := 5
def rqBUSY : BitVec 8 := 6

/-- The monitor serves a request of the PF: its stage 1 has started (Table 17-4 step 2). -/
def monServes (s : State) : Bool := hostReaches s 0 && decide (2 ≤ s.mon.step.toNat)

/-- A request has been served: its code and status stand in SM_REQ. -/
def served (s : State) (op : BitVec 4) (st : BitVec 8) : State := { s with mon := { s.mon with reqOp := op, reqBusy := false, reqStatus := st } }

/-- The request `op` of the PF: while the monitor serves another it is ignored, with BUSY. One that a register write has started
is served now; one that cannot end (R271) stays. -/
def askMon (s : State) (op : BitVec 4) (go : State) : State :=
  if !monServes s then s
  else if s.mon.reqBusy && (decide (s.mon.reqOp ≠ op) || decide (s.pw.phase = .halted)) then { s with mon := { s.mon with reqStatus := rqBUSY } }
  else go

/-! ### NONCE (R368) -/

def giveNonce (s : State) : State :=
  { s with free := s.free + 1, mon := { s.mon with nonce := (Config.entropy s.free).setWidth 256, nonceValid := true } }

def execSmReqNonce (dt : Nat) (s : State) : Host.Outcome State Fault Refusal :=
  .next (askMon s 1 (served (giveNonce (tick s dt)) 1 rqOK))

/-! ### QUOTE (R364, R365, Table 17-9) -/

/-- Slots that hold a verified image, with the digest that the monitor measured (R360, R365). -/
def verifiedModels (s : State) : List (Nat × BitVec 384) :=
  s.models.filterMap fun m => (s.mon.verified.find? fun v => m.2.weightsAt.any fun w => decide (w.2 = v.base)).map fun v => (m.1, v.digest)

def digestBytes (d : BitVec 384) : List Byte := leBytes 48 d.toNat

def modelEntry (e : Nat × BitVec 384) : List Byte := leBytes 1 e.1 ++ List.replicate 15 0 ++ digestBytes e.2

/-- A signature that the device makes. -/
def signWith (secret : BitVec 384) (d : BitVec 384) : BitVec 768 := ecdsaSign secret d (Config.signNonce secret d)

/-- Everything of the quote but its signature. -/
def quoteBody (s : State) (secret : BitVec 384) : List Byte :=
  let l := verifiedModels s
  let pub := publicKey s.mon.attest
  leBytes 8 (1 + lcState s.fuses * 2 ^ 8 + l.length * 2 ^ 16) ++ leBytes 8 s.time.toNat ++ leBytes 32 s.mon.qnonce.toNat ++
  digestBytes (keyDigest s.fuses.idPub) ++ digestBytes s.mon.monDigest ++ digestBytes s.mon.rtDigest ++
  fitBytes 64 [s.fuses.floorMon.setWidth 8, s.fuses.floorRt.setWidth 8, s.fuses.debugUsed.setWidth 8, s.mon.monKey.setWidth 8, s.mon.rtKey.setWidth 8] ++
  l.flatMap modelEntry ++
  fitBytes 256 (leBytes 97 pub.toNat ++ leBytes 96 (signWith secret (keyDigest pub)).toNat)

def quoteBytes (s : State) (secret : BitVec 384) : List Byte :=
  let b := quoteBody s secret
  b ++ leBytes 96 (signWith s.mon.attest (sha384 b)).toNat

def serveQuote (s : State) : State :=
  if lcState s.fuses = lcRETIRED then served s 2 rqREFUSED
  else match s.fuses.idSecret with
    | none => served s 2 rqNO_KEY
    | some k => served { s with mon := { s.mon with quote := quoteBytes s k } } 2 rqOK

def execSmReqQuote (dt : Nat) (s : State) : Host.Outcome State Fault Refusal := .next (askMon s 2 (serveQuote (tick s dt)))

/-! ### TOKEN (R367 to R369, Tables 17-6, 17-10) -/

/-- The first `n` bytes of the token buffer or the host load area. -/
def areaBytes (t : Tbl W64) (n : Nat) : List Byte := ((List.range (cdiv n 8)).flatMap fun i => leBytes 8 (tget 0 t i).toNat).take n

/-- The object that stands at the start of an area of `size` bytes. -/
def areaObj (t : Tbl W64) (size : Nat) (key : BitVec 776) : SignedObj := objFrom size (areaBytes t) key

/-- The 256-byte body as a number, and its fields. -/
def tokBody (o : SignedObj) : Nat := leNat ((o.bytes.drop 128).take 256)
def tokFrom (o : SignedObj) : Nat := nfld (tokBody o) 2 0
def tokTo (o : SignedObj) : Nat := nfld (tokBody o) 5 3
def tokNonce (o : SignedObj) : Nat := nfld (tokBody o) 639 384
def tokOwner (o : SignedObj) : BitVec 776 := BitVec.ofNat 776 (nfld (tokBody o) 1799 1024)

/-- A type 5 object with its body of 256 bytes. -/
def tokForm (o : SignedObj) : Bool := hdrOk o 5 && decide ((objHdr o).bodyLen = 256)

def tokVendor (u : Fuses) (o : SignedObj) : Bool := !(objHdr o).owner && vendorOk u o

/-- The signer that the transition needs. -/
def tokSigned (u : Fuses) (o : SignedObj) : Bool :=
  let f := tokFrom o
  let t := tokTo o
  if f = lcMANUFACTURE ∧ t = lcPROVISIONED then tokVendor u o
  else if f = lcPROVISIONED ∧ t = lcDEPLOYED then (objHdr o).owner && sigUnder (tokOwner o) o
  else if (f = lcDEPLOYED ∧ t = lcFIELD_DEBUG) ∨ (f = lcFIELD_DEBUG ∧ t = lcDEPLOYED) then tokVendor u o
  else if f = lcPROVISIONED ∧ t = lcRETIRED then tokVendor u o
  else if (f = lcDEPLOYED ∨ f = lcFIELD_DEBUG) ∧ t = lcRETIRED then tokVendor u o || ((objHdr o).owner && ownerOk u o)
  else false

/-- The device that the token names: by its identity key, or in MANUFACTURE by lot, wafer and die. -/
def tokDevice (u : Fuses) (o : SignedObj) : Bool :=
  if lcState u = lcMANUFACTURE then
    decide (nfld (tokBody o) 127 64 = u.lot.toNat) && decide (nfld (tokBody o) 132 128 = u.wafer.toNat) &&
    decide (nfld (tokBody o) 143 136 = u.dieX.toNat) && decide (nfld (tokBody o) 151 144 = u.dieY.toNat)
  else decide (nfld (tokBody o) 1023 640 = (keyDigest u.idPub).toNat)

/-- How a token is answered. -/
def tokStatus (s : State) (o : SignedObj) : BitVec 8 :=
  if lcState s.fuses = lcRETIRED then rqREFUSED
  else if !(tokForm o && tokSigned s.fuses o && decide (tokFrom o = lcState s.fuses) && tokDevice s.fuses o) then rqBAD_TOKEN
  else if !(s.mon.nonceValid && decide (tokNonce o = s.mon.nonce.toNat)) then rqNONCE
  else if tokTo o = lcFIELD_DEBUG ∧ 64 ≤ s.fuses.debugUsed.toNat then rqEXHAUSTED
  else rqOK

/-- Fuses burnt by the transition; the identity key is generated at that into PROVISIONED, where the sparing record is empty (R123, R362). -/
def burnFuses (n : Nat) (u : Fuses) (o : SignedObj) : Fuses :=
  let t := tokTo o
  if t = lcPROVISIONED then
    let k : BitVec 384 := (Config.entropy n).setWidth 384
    signRecord { u with
      prov := true, idSecret := some k, idPub := publicKey k, idCert := Config.identityCert (publicKey k), sparing := [], sparingNo := 0 }
  else if t = lcRETIRED then { u with retired := true, idSecret := none }
  else if tokFrom o = lcPROVISIONED then { u with ownerBurnt := true, ownerDigest := keyDigest (tokOwner o) }
  else { u with debugUsed := u.debugUsed + 1 }

/-- Steps 1 to 6 of R369: everything is wiped, tier 2 once every expander has reported (R271), the fuses are burnt, and the device boots
in the new state. -/
def runToken (s : State) (o : SignedObj) (b : BootEnv) : State :=
  let s := { s with mem := [], free := s.free + 1, fuses := burnFuses s.free s.fuses o }
  warmReset s 3 b

/-- An expander that does not report leaves the transition incomplete: the wipes have been made, and no fuse is burnt (R271, R369). -/
def stallToken (s : State) : State :=
  let t := warmState s s.pw.wrCause
  { t with
    mem := [], pw := { t.pw with phase := .halted, wrCount := s.pw.wrCount, smbAck := s.pw.smbAck }
    mon := { t.mon with step := s.mon.step, monSrc := s.mon.monSrc, rtSrc := s.mon.rtSrc, reqOp := 3, reqBusy := true, nonce := s.mon.nonce } }

/-- A token that names what it may: carried out, or answered. -/
def serveToken (s : State) (o : SignedObj) (b : BootEnv) (sanitized : Bool) : State :=
  let st := tokStatus s o
  if st ≠ rqOK then served s 3 st
  else if sanitized ∨ s.pw.expPresent = 0 then runToken s o b
  else stallToken s

def execSmReqToken (key : BitVec 776) (b : BootEnv) (sanitized : Bool) (dt : Nat) (s : State) : Host.Outcome State Fault Refusal :=
  .next (askMon s 3 (serveToken (tick s dt) (areaObj s.mon.token 4096 key) b sanitized))

/-! ### HOSTIMG (R361, R370) -/

/-- Boot has stopped for want of an image that the host may supply. -/
def wantsImage (s : State) : Bool :=
  hostReaches s 0 && decide (s.pw.phase = .bootStopped) && s.fuses.bootsrc && decide (lcState s.fuses ≠ lcRETIRED) &&
  (decide (s.mon.step = 1) || decide (s.mon.step = 4))

/-- The image in the host load area is tried as the host's source of the step that waits; it fails as any source does, or boot goes on. -/
def tryHostImage (s : State) (o : SignedObj) (b : BootEnv) : State :=
  let type := if s.mon.step = 1 then 1 else 2
  match tryBoot s.fuses type 2 s.mon.fail.toNat [hostSource (some o)] with
  | (some (i, o), _) =>
    let s := served s 4 rqOK
    if type = 1 then afterMonitor (takeMonitor s i o) b
    else startRuntime (takeRuntime (deriveAttest s (digestOf o)) i o)
  | (none, c) => served { s with mon := { s.mon with fail := BitVec.ofNat 8 c } } 4 rqREFUSED

def execSmReqHostimg (key : BitVec 776) (b : BootEnv) (dt : Nat) (s : State) : Host.Outcome State Fault Refusal :=
  .next (if wantsImage s then tryHostImage (tick s dt) (areaObj s.mon.hostLoad 0x3C0000 key) b else askMon s 4 (served (tick s dt) 4 rqREFUSED))

/-- A PF write of SM_REQ: a request is started where the monitor, or boot that waits for an image, takes it; while one is served the
write is ignored, with BUSY. -/
def writeSmReq (v : W64) (s : State) : State :=
  let op : BitVec 4 := v.extractLsb' 0 4
  if !monServes s && !(wantsImage s && decide (op = 4)) then s
  else if s.mon.reqBusy then { s with mon := { s.mon with reqStatus := rqBUSY } }
  else { s with mon := { s.mon with reqOp := op, reqBusy := decide (1 ≤ op.toNat) && decide (op.toNat ≤ 4) } }

/-! ### SM_FATAL (R408) -/

/-- A PF write of one of the eight registers. -/
def writeFatal (i : BitVec 3) (v : W64) (s : State) : State :=
  if hostReaches s 0 then { s with mon := { s.mon with fatal := putWord s.mon.fatal i.toNat v } } else s

def execSmFatalClear (s : State) : Host.Outcome State Fault Refusal :=
  .next (if hostReaches s 0 then { s with mon := { s.mon with fatal := 0 } } else s)

/-! ### The entropy source (R355, R394) -/

/-- The source fails its health tests, and is reported once. -/
def failEntropy (s : State) : State :=
  let s' := { s with mon := { s.mon with entropyOk := false, entropyReported := true } }
  if s.mon.entropyReported then s' else logError s' (errInfo cENTROPY 7)

def execEntropyFail (dt : Nat) (s : State) : Host.Outcome State Fault Refusal :=
  .next (if runtimeUp s && s.mon.entropyOk then failEntropy (tick s dt) else s)

end Sys2Proof.Machine
end

