-- ==== Sys2Proof/Machine/Power.lean ====
section
/-! DEFINITION. Low-power states, the power and thermal loops, energy samples, clock and interface losses, the heartbeat and the watchdog,
the board management bus (R120, R373, R382 to R390, R402, R403, R420 to R422). -/

namespace Sys2Proof.Machine
open Sys2Proof

/-! ### C1 and C2 (R120, R382, Table 18-5) -/

/-- A task is bound to the course, running or stopped at a meet. -/
def courseBound (s : State) (k : CourseId) : Bool :=
  match partOfCourse s k with
  | some p => (getPart s p).task.isSome
  | none => false

def putCState (s : State) (k : CourseId) (c : CState) : State := setCourse s k { getCourse s k with cst := c }

/-- A course without a task for 16 ACLK cycles gates its clocks. -/
def execC1Entry (k : CourseId) (s : State) : Host.Outcome State Fault Refusal :=
  .next (if devRuns s && decide ((getCourse s k).cst = .c0) && !courseBound s k then putCState s k .c1 else s)

/-- c2_delay has passed since the partition last had a task bound; 0 is never. -/
def c2Due (s : State) (x : Part) : Bool :=
  x.task.isNone && decide (s.pw.c2Delay ≠ 0) &&
  match x.idleSince with
  | some t0 => decide (s.pw.c2Delay.toNat * 100000 ≤ (s.time - t0).toNat)
  | none => false

/-- A free course at once; a partition's courses together. -/
def execC2Entry (k : CourseId) (s : State) : Host.Outcome State Fault Refusal :=
  .next (if !rtRuns s ∨ (getCourse s k).cst = .c2 then s
    else match partOfCourse s k with
      | none => putCState s k .c2
      | some p => if c2Due s (getPart s p) then forAll (partCourses (getPart s p)) (fun s k => putCState s k .c2) s else s)

/-- A core after C2: the unmarked banks are zeroed, the control block is at its reset values but for SP_DRONE, the drone region and the
tables that R382 does not name stay. -/
def wokenCore (x : CoreSt) : CoreSt :=
  { CoreSt.reset with
    eng := { Engines.reset with
      sp := tclear x.eng.sp 0 (droneStart x.drone.toNat), fret := x.eng.fret, codebooks := x.eng.codebooks, decay := x.eng.decay
      tbls := x.eng.tbls, rescale := x.eng.rescale, hist := x.eng.hist }
    drone := x.drone, winWait := x.winWait }

/-- The course leaves C2; remappings decided for its cores take effect with the zeroing (R122, Table 5-12). -/
def wakeCourse (s : State) (k : CourseId) : State :=
  let s := forAll (courseCores k) (fun s c => applySpares (modCore s c wokenCore) c) s
  setCourse s k { getCourse s k with cst := .c0, lastJob := none }

def execC2Exit (k : CourseId) (s : State) : Host.Outcome State Fault Refusal :=
  .next (if rtRuns s && decide ((getCourse s k).cst = .c2) then wakeCourse s k else s)

/-! ### Device idle (R383) -/

def execDeviceIdleEntry (s : State) : Host.Outcome State Fault Refusal :=
  .next (if devRuns s && !s.pw.idle && allCourses.all (fun k => decide ((getCourse s k).cst = .c2)) then { s with pw := { s.pw with idle := true } } else s)

def execDeviceIdleExit (s : State) : Host.Outcome State Fault Refusal :=
  .next (if devRuns s && s.pw.idle then { s with pw := { s.pw with idle := false } } else s)

/-! ### Standby (R384) -/

/-- The PF has entered D3hot: no command is taken any more, and the end of every slice is requested. -/
def askStandby (s : State) : State :=
  let s := unready { s with pw := { s.pw with pfD3 := true } }
  forAll allParts (fun s p =>
    let x := getPart s p
    if x.task.isSome ∧ !x.atMeet ∧ x.endReq.isNone then requestEnd s p else s) s

/-- Every bound task has ended or stands at a meet, and no stop is under way. -/
def tasksOver (s : State) : Bool := allParts.all fun p => let x := getPart s p; (x.task.isNone || x.atMeet) && !x.stopping

/-- A task that ended at a meet leaves: a bundle's uncommitted chunks are requeued, a program keeps its context. -/
def clearMeet (s : State) (p : PartId) : State :=
  match (getPart s p).task with
  | some t => if t.bundle.isSome then stopNoGrace s p else parkTask s p
  | none => s

/-- Courses in C2, bridge ports in electrical idle, the watchdog suspended, device time no longer locked (Table 18-8). -/
def sleep (s : State) : State :=
  let s := forAll allParts clearMeet s
  let s := forAll allCourses (fun s k => putCState s k .c2) s
  let s := forAll allPorts (fun s n => setPort s n { getPort s n with up := false }) s
  let s := refreshPorts (filterRoutes s fun _ _ => false)
  { s with br := { s.br with locked := false }, pw := { s.pw with standby := true } }

/-- D3hot, then standby once no task is left to end (log 63). -/
def execStandbyEntry (dt : Nat) (s : State) : Host.Outcome State Fault Refusal :=
  .next (if !devRuns s then s
    else
      let s := tick s dt
      let s := if s.pw.pfD3 then s else askStandby s
      if tasksOver s then sleep s else s)

/-- The PF returns to D0: every function becomes ready again, but under a device error. -/
def wake (s : State) : State :=
  let s := leaveStandby s
  if s.fatal ∨ !devRuns s then s
  else forAll allFuncs (fun s f => modFn s f fun x => { x with ready := x.enabled && !x.flr }) s

def execStandbyExit (dt : Nat) (s : State) : Host.Outcome State Fault Refusal :=
  .next (if s.pw.pfD3 && configReaches s then wake (tick s dt) else s)

/-! ### Sensors, loops, energy (R386 to R390, R420, R422) -/

/-- A temperature in units of 0.125 °C. -/
def celsius (n : Int) : Int := 8 * n

/-- The hottest sensor has a new reading; ALERT_N asserts when it reaches 100 °C. -/
def putTmax (s : State) (t : BitVec 12) : State :=
  let hot := decide (celsius 100 ≤ t.toInt)
  { s with
    pw := { s.pw with tmax := t, hot := hot, alert := s.pw.alert || (hot && !s.pw.hot) }
    tele := { s.tele with pwRun := { s.tele.pwRun with tmax := if s.tele.pwRun.tmax.toInt < t.toInt then t else s.tele.pwRun.tmax } } }

/-- The lowest duty in force of the interval. -/
def noteDuty (s : State) : State :=
  let d := dutyNow s.pw
  if d.toNat < s.tele.pwRun.dutyMin.toNat then { s with tele := { s.tele with pwRun := { s.tele.pwRun with dutyMin := d } } } else s

/-- R388. -/
def powerStep (d : BitVec 5) (power watts hyst : Nat) : BitVec 5 :=
  if watts < power then BitVec.ofNat 5 (max 4 (d.toNat - 1))
  else if power + hyst ≤ watts then BitVec.ofNat 5 (min 16 (d.toNat + 1))
  else d

/-- A loop period ends: what it was is counted, and the duty moves. -/
def powerLoop (s : State) (power : BitVec 16) : State :=
  let d := s.pw.dutyP
  let r := s.tele.pwRun
  let r := { r with
    thrPower := if d.toNat < 16 then r.thrPower + 1 else r.thrPower
    overCap := if d.toNat ≤ 4 ∧ s.pw.capWatts.toNat < power.toNat then r.overCap + 1 else r.overCap }
  noteDuty { s with
    tele := { s.tele with pwRun := r }
    pw := { s.pw with power := power, dutyP := powerStep d power.toNat s.pw.capWatts.toNat s.pw.capHyst.toNat } }

def execPowerLoopTick (power : BitVec 16) (dt : Nat) (s : State) : Host.Outcome State Fault Refusal :=
  .next (if devRuns s then powerLoop (tick s dt) power else s)

/-- R389. -/
def thermalStep (d : BitVec 5) (t : Int) : BitVec 5 :=
  if celsius 100 ≤ t then BitVec.ofNat 5 (max 4 (d.toNat - 1))
  else if t ≤ celsius 97 then BitVec.ofNat 5 (min 16 (d.toNat + 1))
  else d

def thermalLoop (s : State) (t : BitVec 12) : State :=
  let d := s.pw.dutyT
  let s := putTmax s t
  let r := s.tele.pwRun
  noteDuty { s with
    tele := { s.tele with pwRun := { r with thrTherm := if d.toNat < 16 then r.thrTherm + 1 else r.thrTherm } }
    pw := { s.pw with dutyT := thermalStep d t.toInt } }

def execThermalLoopTick (tmax : BitVec 12) (dt : Nat) (s : State) : Host.Outcome State Fault Refusal :=
  .next (if devRuns s then thermalLoop (tick s dt) tmax else s)

/-- A course's sample: energy, and busy cycles while a task is bound (Table 13-5). -/
def courseSample (s : State) (e : CourseId × Nat × Nat) : State :=
  let y := getCourse s e.1
  setCourse s e.1 { y with busy := if courseBound s e.1 then y.busy + BitVec.ofNat 64 e.2.1 else y.busy, energy := y.energy + BitVec.ofNat 64 e.2.2 }

/-- Tier 0 requests of a partition's cores and what they waited (Table 12-4). -/
def waitSample (s : State) (e : PartId × Nat × Nat) : State :=
  modPart s e.1 fun x => { x with qReqs := x.qReqs + BitVec.ofNat 64 e.2.1, qWait := x.qWait + BitVec.ofNat 64 e.2.2 }

def energySample (s : State) (m : EnergySample) : State :=
  let s := putTmax { s with pw := { s.pw with energy := s.pw.energy + BitVec.ofNat 64 m.uj, power := m.power, samples := s.pw.samples + 1 } } m.tmax
  m.qwait.foldl waitSample (m.courses.foldl courseSample s)

def execEnergySample (smp : EnergySample) (dt : Nat) (s : State) : Host.Outcome State Fault Refusal :=
  .next (if configReaches s then energySample (tick s dt) smp else s)

/-! ### Losses (R373, R389, R402) -/

/-- The device is out of reset and its clocks run: an error of them can come. -/
def canFail (s : State) : Bool := configReaches s

/-- A sensor at 110 °C: THERMTRIP_N is asserted, every clock stops. -/
def trip (s : State) : State := deviceError { s with pw := { s.pw with thermtrip := true } } (errInfo cTHERMTRIP 7)

def execThermtrip (dt : Nat) (s : State) : Host.Outcome State Fault Refusal := .next (if canFail s then trip (tick s dt) else s)

/-- Loss of the root PLL, of its reference, or of an HBM4 PLL: ACLK, FCLK and CCLK stop. -/
def execClockLoss (k : ClockLossCause) (dt : Nat) (s : State) : Host.Outcome State Fault Refusal :=
  .next (match k with
    | .rootPll | .refclkSys | .hbmPll => if canFail s then deviceError (tick s dt) (errInfo cCLOCK 7) else s)

/-- A stack stops responding. -/
def stackFails (s : State) (st : BitVec 2) : State :=
  deviceError { s with pw := { s.pw with stackDown := s.pw.stackDown ||| (1#4 <<< st.toNat) } } (errInfo cHBM_STACK 1)

def execHbmStackFailure (st : BitVec 2) (dt : Nat) (s : State) : Host.Outcome State Fault Refusal :=
  .next (if canFail s && !s.pw.stackDown.getLsbD st.toNat then stackFails (tick s dt) st else s)

/-- Tier 1 goes down with its PLL (log 62). -/
def execLpddr6PllLoss (dt : Nat) (s : State) : Host.Outcome State Fault Refusal :=
  .next (if canFail s then
      let s := tick s dt
      { s with pw := { s.pw with lpddrDown := true } }
    else s)

/-! ### Heartbeat and watchdog (R384, R403) -/

/-- 1 ms in ticks. -/
def beatTicks : Nat := 100000

/-- The runtime's beat; what an FLR left to do is finished by it too (log 64), and a number conflict met before it started is told. -/
def beatOnce (s : State) : State := settleFlrs <| tellConflict { s with beat := s.beat + 1, beatAt := s.time }

def execHeartbeat (dt : Nat) (s : State) : Host.Outcome State Fault Refusal :=
  .next (if rtRuns (tick s dt) && decide (beatTicks ≤ ((tick s dt).time - s.beatAt).toNat) then beatOnce (tick s dt) else s)

/-- The monitor's warm reset. -/
def autoReset (s : State) (b : BootEnv) : State :=
  warmReset { s with pw := { s.pw with autoResets := s.pw.autoResets ++ [s.time] } } 2 b

/-- R402 for a runtime that stands still: it writes no record into its ring. -/
def watchdogError (s : State) : State := deviceError { s with pw := { s.pw with phase := .halted } } (errInfo cWATCHDOG 7)

/-- The watchdog expires: the automatic warm reset follows, unless it would be the third within 600 s; then the device stays halted. -/
def expireDog (s : State) (b : BootEnv) : State := if autoOk s then autoReset (watchdogError s) b else watchdogError s

/-- The monitor's automatic warm reset, for a stalled runtime or a SERVICE_FENCE that has it due (Table 19-3). -/
def execWatchdogExpiry (b : BootEnv) (dt : Nat) (s : State) : Host.Outcome State Fault Refusal :=
  .next (if s.pw.autoDue && configReaches s then autoReset (tick s dt) b
    else if devRuns s && stalled (tick s dt) then expireDog (tick s dt) b else s)

/-! ### Board management (R421, R422, Table 20-7) -/

/-- The device's 7-bit address. -/
def smbAddr (s : State) : BitVec 7 := 0x58#7 + (s.fuses.devid.extractLsb' 0 3).setWidth 7

/-- The secure monitor answers on the bus. -/
def smbServes (s : State) : Bool := s.pw.smbAck && decide (s.pw.clockStop = none)

/-- A sensor's reading; none for an id that Table 20-7 does not list. -/
def sensorOf (s : State) (id : Nat) : Option W64 :=
  match id with
  | 1 => some (s.pw.power.setWidth 64)
  | 2 => some (BitVec.ofInt 64 (s.pw.tmax.toInt / 8))
  | 3 => some ((dutyNow s.pw).setWidth 64)
  | 4 => some (BitVec.ofNat 64 (s.pw.energy.toNat / 1000000))
  | 5 => some (s.pw.capWatts.setWidth 64)
  | 6 | 7 | 8 | 9 => some ((Config.stackTemp s.pw.samples (id - 6)).setWidth 64)
  | 10 => some (if s.fatal then 1 else 0)
  | _ => none

/-- A transaction reads; nothing it carries changes the device. The reply on the bus is recorded. -/
def execSmbusTransaction (addr : BitVec 7) (pecOk : Bool) (sensor : Nat) (s : State) : Host.Outcome State Fault Refusal :=
  .next { s with pw := { s.pw with smbReply := if smbServes s && decide (addr = smbAddr s) && pecOk then sensorOf s sensor else none } }

/-- The device answers a read of the Alert Response Address with its own address, and releases ALERT_N. -/
def execAlertResponseRead (s : State) : Host.Outcome State Fault Refusal :=
  .next (if smbServes s && s.pw.alert then { s with pw := { s.pw with alert := false, smbReply := some ((smbAddr s).setWidth 64) } }
    else { s with pw := { s.pw with smbReply := none } })

end Sys2Proof.Machine
end

