-- ==== Sys2Proof/Machine/RegMap.lean ====
section
/-! DEFINITION. Registers by name and by where they lie: the BAR0 of a function (R297, R298, R300, R363), the device register blocks
(R257), core control blocks and scratchpad windows (R14); REGISTER_WRITE, and what a read of a register word returns. -/

namespace Sys2Proof.Machine
open Sys2Proof

/-! ### Names -/

/-- What a write does to a register that is named; the agent that may write it, and when, is part of it (R8, R257, R363). -/
def writeNamed (s : State) (r : RegName) (v : W64) : State :=
  match r with
  | .mbIrqMod f => if hostReaches s f then modFn s f fun x => (if devRuns s && !hostQuiet s then fireDue (writeIrqMod x v) else writeIrqMod x v) else s
  | .mbStat f => if hostReaches s f then modFn s f fun x => writeMbStat x v else s
  | .msixMask f n => if hostReaches s f && vecOk f n then setMask s f n (v.getLsbD 0) else s
  | .spConflict c => if rtRuns s then modCore s c fun x => { x with conflict := { x.conflict with valid := w1cBit x.conflict.valid (v.getLsbD 0) } } else s
  | .qzPeg c n =>
    if rtRuns s && !taskRuns s c then
      modEng s c fun e => { e with peg := tputs 0 e.peg (8 * n.toNat) ((List.range 8).map fun i => v.extractLsb' (8 * i) 8) }
    else s
  | .bwJobKey c => if rtRuns s && !taskRuns s c then modCore s c fun x => { x with bwKey := v } else s
  | .bwJobStep c => if rtRuns s && !taskRuns s c then modCore s c fun x => { x with bwStep := v.extractLsb' 0 28 } else s
  | .sbNonfinite => if rtRuns s then { s with sbtm := { s.sbtm with nonfinite := w1c s.sbtm.nonfinite (v.setWidth 32) } } else s
  | .sbClip => if rtRuns s then { s with sbtm := { s.sbtm with clip := w1c s.sbtm.clip (v.setWidth 32) } } else s
  | .brCfg => if rtRuns s && portsDown s then { s with br := writeBrCfg s.br v } else s
  | .pwCap => if rtRuns s then { s with pw := writeCap s.pw v } else s
  | .pwCtl => if rtRuns s then { s with pw := writePwCtl s.pw v } else s
  | .smQnonce i => if hostReaches s 0 then { s with mon := { s.mon with qnonce := putWord s.mon.qnonce i.toNat v } } else s
  | .tokenBuffer i =>
    if hostReaches s 0 && !isRetired s then { s with mon := { s.mon with token := tput 0 s.mon.token i.toNat v } } else s
  | .hostLoad off =>
    if hostReaches s 0 && !isRetired s && decide (s.pw.phase = .bootStopped) && decide (off < 0x3C0000 / 8) then
      { s with mon := { s.mon with hostLoad := tput 0 s.mon.hostLoad off v } }
    else s
  | .smFatal i => writeFatal i v s
  | .smReq => writeSmReq v s
  | _ => s

/-! ### Where registers lie -/

/-- What a 64-bit word of a map is: a register, a word of an inbound or outbound slot, a word of a core's control block or
scratchpad, or a word that is only read: of a block, telemetry page or monitor page. -/
inductive Place where
  | reg (r : RegName)
  | slotIn (f : Func) (slot : BitVec 6) (off : BitVec 6)
  | slotOut (f : Func) (slot : BitVec 6) (off : BitVec 6)
  | status (f : Func) (off : Nat)
  | mbox (f : Func) (off : Nat)
  | tele (off : Nat)
  | monPage (off : Nat)
  | quote (off : Nat)
  | ccb (c : CoreId) (off : Nat)
  | window (c : CoreId) (addr : BitVec 20)
  | block (n off : Nat)
  | unlisted
  deriving DecidableEq, Repr

/-- A mailbox block (R301 to R309, Table 14-8), by byte offset. -/
def mailboxPlace (f : Func) (off : Nat) : Place :=
  if off < 0x1000 then .slotIn f (BitVec.ofNat 6 (off / 64)) (BitVec.ofNat 6 (off % 64))
  else if off < 0x2000 then .slotOut f (BitVec.ofNat 6 (off / 64)) (BitVec.ofNat 6 (off % 64))
  else if off = 0x2010 then .reg (.mbIrqMod f)
  else if off = 0x2018 then .reg (.mbStat f)
  else if 0x2800 ≤ off ∧ off < 0x2820 then .status f (off - 0x2800)
  else if off < 0x2010 then .mbox f off
  else .unlisted

/-- The diagnostic window (Table 17-7), where the life-cycle state and the boot step make it available. -/
def diagPlace (s : State) (off : Nat) : Place :=
  let lc := lcState s.fuses
  if off < 0x801000 then
    let o := off - 0x800000
    if o = 0x010 then .reg .smReq
    else if 0x060 ≤ o ∧ o < 0x080 then .reg (.smQnonce (BitVec.ofNat 2 ((o - 0x060) / 8)))
    else if 0xF00 ≤ o ∧ o < 0xF40 then .reg (.smFatal (BitVec.ofNat 3 ((o - 0xF00) / 8)))
    else .monPage o
  else if off < 0x803000 then (if lc = lcPROVISIONED ∨ lc = lcDEPLOYED ∨ lc = lcFIELD_DEBUG then .quote (off - 0x801000) else .unlisted)
  else if 0x804000 ≤ off ∧ off < 0x805000 then .reg (.tokenBuffer (BitVec.ofNat 9 ((off - 0x804000) / 8)))
  else if 0x840000 ≤ off ∧ off < 0xC00000 then .reg (.hostLoad ((off - 0x840000) / 8))
  else .unlisted

/-- BAR0 of a function (R297), by byte offset: 16 MiB of the PF, 64 KiB of a VF. -/
def hostPlace (s : State) (f : Func) (off : Nat) : Place :=
  if f ≠ 0 then (if off < 0x10000 then mailboxPlace f off else .unlisted)
  else if off < 0x1000 then .status 0 off
  else if 0x10000 ≤ off ∧ off < 0x20000 then mailboxPlace 0 (off - 0x10000)
  else if 0x100000 ≤ off ∧ off < 0x200000 then .tele (off - 0x100000)
  else if 0x800000 ≤ off then diagPlace s off
  else .unlisted

/-- The registers of a core control block that are written (05, 08, 09, 10), by byte offset. -/
def ccbPlace (c : CoreId) (off : Nat) : Place :=
  if off = 0x1010 then .reg (.spConflict c)
  else if 0x1300 ≤ off ∧ off < 0x1340 then .reg (.qzPeg c (BitVec.ofNat 3 ((off - 0x1300) / 8)))
  else if off = 0x1480 then .reg (.bwJobKey c)
  else if off = 0x1488 then .reg (.bwJobStep c)
  else .ccb c off

/-- A device address that firmware reaches (R14, R119, R257). -/
def devicePlace (a : Nat) : Place :=
  if 0xF00000000000 ≤ a ∧ a < 0xF00000000000 + 128 * 0x100000 then
    let o := a - 0xF00000000000
    .window (BitVec.ofNat 7 (o / 0x100000)) (BitVec.ofNat 20 o)
  else if 0xFF0000000000 ≤ a ∧ a < 0xFF0000000000 + 128 * 0x100000 then
    let o := a - 0xFF0000000000
    ccbPlace (BitVec.ofNat 7 (o / 0x100000)) (o % 0x100000)
  else if 0xFE0000000000 ≤ a ∧ a < 0xFE0000000000 + 5 * 0x10000 then
    let n := (a - 0xFE0000000000) / 0x10000
    let o := a % 0x10000
    if n = 3 ∧ o = 0 then .reg .brCfg
    else if n = 4 ∧ o = 0 then .reg .pwCap
    else if n = 4 ∧ o = 0x18 then .reg .pwCtl
    else .block n o
  else .unlisted

/-! ### REGISTER_WRITE -/

/-- Firmware writes a word of a scratchpad; while a task runs on the core the write waits for its end (R119). -/
def writeWindow (c : CoreId) (addr : BitVec 20) (v : W64) (s : State) : State :=
  let w : WinAccess := ⟨addr, leBytes 8 v.toNat, true, []⟩
  if !rtRuns s then s else if taskRuns s c then modCore s c fun x => { x with winWait := x.winWait ++ [w] } else applyWin s c w

/-- A word that is not written as a named register: slots, SP_TASK, ST_IMAGE, the counters of the SB block, scratchpads. -/
def writePlace (s : State) (p : Place) (v : W64) : State :=
  match p with
  | .reg r => writeNamed s r v
  | .slotIn f n o => writeSlot f n o (leBytes 8 v.toNat) s
  | .slotOut f n o => returnSlot f n o (leBytes 8 v.toNat) s
  | .ccb c o =>
    if !rtRuns s || taskRuns s c then s
    else if o = 0x1000 then modCore s c fun x => writeSpTask x v
    else if o = 0x1200 then modCore s c fun x => writeStImage x v
    else s
  | .window c a => writeWindow c a v s
  | .block n o => if n = 2 ∧ o = 0 then writeNamed (writeNamed s .sbNonfinite v) .sbClip (v >>> 32) else s
  | .status .. | .mbox .. | .tele _ | .monPage _ | .quote _ | .unlisted => s

/-- The debug area is available (Table 17-7); what a write there does to a core control block is what firmware's write does (log 122). -/
def debugOpen (s : State) : Bool :=
  hostReaches s 0 && (decide (lcState s.fuses = lcMANUFACTURE) || decide (lcState s.fuses = lcFIELD_DEBUG))

/-- Where a register's name leads (R297, R257, R363): words by where they lie, the others by name. -/
def placeOf (s : State) (r : RegName) : Place :=
  match r with
  | .hostAt f w => hostPlace s f (8 * w.toNat)
  | .deviceAt w => devicePlace (8 * w.toNat)
  | .debugCcb c w => if debugOpen s then ccbPlace c (8 * w.toNat) else .unlisted
  | r => .reg r

/-- What a write does to the register; the agent that may write it, and when, is part of it (R8, R257, R363). -/
def writeReg (s : State) (r : RegName) (v : W64) : State := writePlace s (placeOf s r) v

def execRegisterWrite (r : RegName) (v : W64) (s : State) : Host.Outcome State Fault Refusal := .next (writeReg s r v)

/-! ### What a word reads as -/

/-- Word `i` of a number. -/
def wordAt (n i : Nat) : W64 := BitVec.ofNat 64 (n / 2 ^ (64 * i))

/-- Fields at their lowest bits. -/
def bitsOf (l : List (Nat × Nat)) : Nat := (l.map fun x => x.1 * 2 ^ x.2).sum

/-- Word `i` of a list of bytes. -/
def byteWord (l : List Byte) (i : Nat) : W64 := BitVec.ofNat 64 (leNat ((l.drop (8 * i)).take 8))

/-- The identity and status page of a function (Table 14-3). -/
def statusWord (s : State) (f : Func) (off : Nat) : W64 :=
  let x := getFn s f
  if off = 0 then s.fuses.rev.setWidth 64
  else if off = 8 then BitVec.ofNat 64 (bitN x.ready 0 + bitN s.fatal 1 + bitsOf [(lcState s.fuses, 2), (s.beat.toNat, 32)])
  else if off = 0x10 then BitVec.ofNat 64 (f.toNat + bitN (decide (f = 0) || x.expert) 5)
  else if off = 0x18 then s.time
  else 0

/-- MB_IN, MB_OUT, MB_IRQ_MOD, MB_STAT (Table 14-8). -/
def mboxWord (s : State) (f : Func) (off : Nat) : W64 :=
  let x := getFn s f
  BitVec.ofNat 64 (
    if off = 0x2000 then bitsOf [(x.inNext.toNat, 0), (x.expect.toNat, 8)]
    else if off = 0x2008 then bitsOf [(x.outNext.toNat, 0), (x.outQ.length, 16)]
    else if off = 0x2010 then bitsOf [(x.holdoff.toNat, 0), (x.count.toNat, 12)]
    else if off = 0x2018 then bitN x.badWrite 0 + bitN x.lost 1 + bitsOf [(x.nBad.toNat, 16), (x.nLost.toNat, 32)]
    else 0)

/-- An interference record (Table 14-7). -/
def interfBits (r : Interf) : Nat := bitsOf [(r.job.toNat, 0), (r.tasks % 2 ^ 16, 16), (r.ratio % 2 ^ 32, 32), (r.qwait % 2 ^ 32, 64), (r.second.toNat, 96)]

/-- The power summary (Table 18-10). -/
def powerBits (u : W64) (x : PwSum) : Nat :=
  bitsOf [(u.toNat, 0), (x.powerMw.toNat, 64), (x.cap.toNat, 96), (x.dutyMin.toNat, 112), (x.thrPower.toNat, 128), (x.thrTherm.toNat, 160),
    (x.overCap.toNat, 192), (x.tmax.toNat, 224)]

/-- The error summary (Table 19-5). -/
def errorBits (s : State) : Nat :=
  let t := s.tele
  bitsOf [(t.errUpd.toNat, 0), (t.nextSeq.toNat, 64), (t.nTask.toNat, 96), (t.nPart.toNat, 128), (t.nReport.toNat, 160), (s.mon.retired.length, 192)]

/-- The soundboard counters as they were when the page was rewritten (Table 3-6). -/
def sbBits (t : TeleSt) : Nat :=
  bitsOf [(t.sbSnap.1.toNat, 0), (t.sbSnap.2.1.toNat, 32), (t.sbSnap.2.2.1.toNat, 64), (t.sbSnap.2.2.2.toNat, 96)]

/-- The telemetry and accounting pages (Table 14-6), by byte offset. The layout of a model's page is not given; its words are a free
value beside the update word (log 122). -/
def teleWord (s : State) (off : Nat) : W64 :=
  let t := s.tele
  if off = 0 then t.accUpd
  else if 0x40 ≤ off ∧ off < 0x1040 then wordAt (accountBits (tget .reset t.accSnap ((off - 0x40) / 128)) false) ((off - 0x40) % 128 / 8)
  else if 0x1040 ≤ off ∧ off < 0x10C0 then wordAt (accountBits t.devSnap true) ((off - 0x1040) / 8)
  else if off = 0x2000 then t.partUpd
  else if 0x2008 ≤ off ∧ off < 0x2108 then tget 0 t.partSnap ((off - 0x2008) / 8)
  else if off = 0x10000 then t.intfUpd
  else if 0x10040 ≤ off ∧ off < 0x14040 then
    let p := (off - 0x10040) / 512
    let j := (off - 0x10040) % 512 / 32
    match (t.interf.filter fun r => decide (r.part.toNat = p))[j]? with
    | some r => wordAt (interfBits r) (off % 32 / 8)
    | none => 0
  else if 0x20000 ≤ off ∧ off < 0x60000 then
    (if off % 0x1000 = 0 then t.modUpd else Config.modelPage t.modUpd ((off - 0x20000) / 0x1000) (off % 0x1000))
  else if off = 0x80000 then t.sbUpd
  else if 0x80008 ≤ off ∧ off < 0x80018 then wordAt (sbBits t) ((off - 0x80008) / 8)
  else if 0x80100 ≤ off ∧ off < 0x80120 then wordAt (powerBits t.pwUpd t.pwSnap) ((off - 0x80100) / 8)
  else if 0x80200 ≤ off ∧ off < 0x80220 then wordAt (errorBits s) ((off - 0x80200) / 8)
  else if 0x81000 ≤ off ∧ off < 0x85000 then wordAt (tget 0 t.errRing ((off - 0x81000) / 64)).toNat (off % 64 / 8)
  else 0

/-- The identity record (Table 17-5). -/
def identityBits (u : Fuses) : Nat :=
  bitsOf [(u.lot.toNat, 0), (u.wafer.toNat, 64), (u.dieX.toNat, 72), (u.dieY.toNat, 80), (u.site.toNat, 88), (u.fuseRev.toNat, 96),
    (u.idPub.toNat, 128), (u.idCert.toNat, 1024)]

/-- The monitor page (Table 17-8), the identity record (R362), SM_FATAL (R408), by byte offset. -/
def monWord (s : State) (o : Nat) : W64 :=
  let m := s.mon
  let u := s.fuses
  if o = 0 then BitVec.ofNat 64 (bitsOf [(lcState u, 0), (u.debugUsed.toNat, 8), (u.floorMon.toNat, 16), (u.floorRt.toNat, 24)])
  else if o = 8 then BitVec.ofNat 64 (bitsOf [(m.monSrc.toNat, 0), (m.rtSrc.toNat, 2), (m.step.toNat, 4), (m.fail.toNat, 8)])
  else if o = 0x10 then BitVec.ofNat 64 (bitsOf [(m.reqOp.toNat, 0), (m.reqStatus.toNat, 8)] + bitN m.reqBusy 4)
  else if 0x40 ≤ o ∧ o < 0x60 then wordAt m.nonce.toNat ((o - 0x40) / 8)
  else if 0x60 ≤ o ∧ o < 0x80 then wordAt m.qnonce.toNat ((o - 0x60) / 8)
  else if 0x100 ≤ o ∧ o < 0x600 then wordAt (identityBits u) ((o - 0x100) / 8)
  else if 0xF00 ≤ o ∧ o < 0xF40 then wordAt m.fatal.toNat ((o - 0xF00) / 8)
  else 0

/-- A core control block (05, 06, 08 to 11), by byte offset. -/
def ccbWord (s : State) (c : CoreId) (o : Nat) : W64 :=
  let x := getCore s c
  let e := x.eng
  let czSlot (z : CzSlot) := bitN z.valid 0 + bitsOf [(z.fmt.toNat, 1), (z.fp.toNat, 4), (z.maxlen.toNat, 12), (z.count.toNat, 16)]
  let site (z : BitVec 12 × BitVec 24) := bitsOf [(z.1.toNat, 0), (z.2.toNat, 16)]
  BitVec.ofNat 64 (
    if o = 0x1000 then
      bitsOf [(x.spTask.baseGrp.toNat, 0), (x.spTask.bound.toNat, 3), (x.spTask.dbase.toNat, 12), (x.spTask.dsize.toNat, 20)] + bitN x.spTask.cfgRej 63
    else if o = 0x1008 then x.drone.toNat
    else if o = 0x1010 then
      bitN x.conflict.valid 0 + bitsOf [(x.conflict.winner.toNat, 1), (x.conflict.loser.toNat, 4), (x.conflict.bank.toNat, 7),
        (x.conflict.pc.toNat, 13), (x.conflict.time.toNat, 32)]
    else if o = 0x1018 then x.conflictCount.toNat
    else if o = 0x1100 then
      bitsOf [(e.mx.actState.toNat, 0), (e.mx.actFmt.toNat, 2), (e.mx.actKrowsM1.toNat, 4), (e.mx.shState.toNat, 12), (e.mx.shFmt.toNat, 14),
        (e.mx.shKrowsM1.toNat, 16)]
    else if o = 0x1108 then e.mxSat.toNat
    else if o = 0x1200 then
      bitsOf [(x.stImage.genSize.toNat, 0), (x.stImage.fe.toNat, 20), (x.stImage.wcap.toNat, 27), (x.stImage.blkSize.toNat, 39)] +
      bitN x.stImage.cfgRej 63
    else if 0x1300 ≤ o ∧ o < 0x1340 then leNat ((List.range 8).map fun i => tget 0 e.peg (o - 0x1300 + i))
    else if o = 0x1340 then bitsOf [(e.qzNonfinite.toNat, 0), (e.qzSat.toNat, 32)]
    else if 0x1400 ≤ o ∧ o < 0x1480 then site (tget (0, 0) e.sites ((o - 0x1400) / 8))
    else if o = 0x1480 then x.bwKey.toNat
    else if o = 0x1488 then x.bwStep.toNat
    else if 0x1500 ≤ o ∧ o < 0x1540 then czSlot (tget .reset e.czSlots ((o - 0x1500) / 8))
    else if o = 0x1540 then bitsOf [(e.czCoded.toNat, 0), (e.czFallback.toNat, 32)]
    else if o = 0x1548 then e.czSuppressed.toNat
    else 0)

/-- BR_WINn (Table 16-5) and BR_PAIRi (Table 16-6). -/
def winBits (w : Win) : Nat :=
  1 + bitsOf [(w.part.toNat, 1), (w.job.toNat, 6), (w.base / 4096, 22), (w.size / 4096, 58), (w.src.toNat, 86), (w.smask.toNat, 100),
    (w.perm.toNat, 114), (w.credits.toNat, 128)] + bitN w.closing 144

def pairBits (x : Pair) : Nat :=
  1 + bitN x.failed 1 + bitsOf [(x.window.toNat, 2), (x.peer.toNat, 10), (x.rbase / 4096, 24), (x.rsize / 4096, 60), (x.rperm.toNat, 88),
    (x.granted.toNat, 96), (x.avail.toNat, 112), (x.txNext.toNat, 128), (x.txAcked.toNat, 144), (x.rxNext.toNat, 160)]

/-- BR_PORTn (Table 16-3). -/
def portBits (x : Port) : Nat :=
  bitN x.up 0 + bitN x.multi 1 + bitN x.peerValid 5 +
  bitsOf [(x.peerPort.toNat, 2), (x.peerDev.toNat, 6), (x.dropped.toNat, 64), (x.fecUncorr.toNat, 96)]

/-- A device register block (Table 12-9), by byte offset. -/
def blockWord (s : State) (n o : Nat) : W64 :=
  let part (i : Nat) := getPart s (BitVec.ofNat 5 i)
  match n with
  | 0 =>
    if o < 0x100 then ptPart (part (o / 8))
    else if o < 0x300 then (let k := getCourse s (BitVec.ofNat 5 ((o - 0x100) / 16)); if o % 16 = 0 then k.busy else k.energy)
    else if 0x400 ≤ o ∧ o < 0x800 then
      (let x := part ((o - 0x400) / 32); if o % 32 = 0 then x.t0 else if o % 32 = 8 then x.t1 else if o % 32 = 16 then x.t2 else x.br)
    else 0
  | 1 =>
    if o = 0 then BitVec.ofNat 64 (s.sbtm.zero1.toNat + bitN s.sbtm.zero1Done 63)
    else if 0x100 ≤ o ∧ o < 0x300 then (let x := part ((o - 0x100) / 16); if o % 16 = 0 then x.qReqs else x.qWait)
    else 0
  | 2 =>
    if o < 16 then wordAt (bitsOf [(s.sbtm.nonfinite.toNat, 0), (s.sbtm.clip.toNat, 32), ((frameLoad s).toNat, 64), ((sampleLoad s).toNat, 96)]) (o / 8)
    else 0
  | 3 =>
    let b := s.br
    if o = 0 then BitVec.ofNat 64 (bitsOf [(b.ethertype.toNat, 0), (b.retryUs.toNat, 16), (b.retryMax.toNat, 24)] + bitN b.syncEn 32)
    else if 0x100 ≤ o ∧ o < 0x180 then wordAt (portBits (getPort s (BitVec.ofNat 3 ((o - 0x100) / 16)))) (o % 16 / 8)
    else if o = 0x200 then BitVec.ofNat 64 (bitN b.locked 0 + bitN b.root 1 + bitsOf [(b.parent.toNat, 2), (b.offset.toNat, 32)])
    else if 0x1000 ≤ o ∧ o < 0x3000 then
      (match getWin s (BitVec.ofNat 8 ((o - 0x1000) / 32)) with | some w => wordAt (winBits w) (o % 32 / 8) | none => 0)
    else if 0x4000 ≤ o ∧ o < 0xC000 then
      (match getPair s ((o - 0x4000) / 32) with | some x => wordAt (pairBits x) (o % 32 / 8) | none => 0)
    else 0
  | 4 =>
    let x := s.pw
    if o = 0 then BitVec.ofNat 64 (bitsOf [(x.capWatts.toNat, 0), (x.capHyst.toNat, 16)])
    else if o = 8 then
      BitVec.ofNat 64 (bitsOf [((dutyNow x).toNat, 0), (x.dutyP.toNat, 5), (x.dutyT.toNat, 10), (x.power.toNat, 16), (x.tmax.toNat, 32)])
    else if o = 0x10 then x.energy
    else if o = 0x18 then BitVec.ofNat 64 x.c2Delay.toNat
    else 0
  | _ => 0

/-- Where a named register lies, among the words of its kind. -/
def namedWord (s : State) (r : RegName) : W64 :=
  match r with
  | .mbIrqMod f => mboxWord s f 0x2010
  | .mbStat f => mboxWord s f 0x2018
  | .msixMask f v => BitVec.ofNat 64 (bitN (getVec (getFn s f) v.toNat).masked 0)
  | .spConflict c => ccbWord s c 0x1010
  | .qzPeg c n => ccbWord s c (0x1300 + 8 * n.toNat)
  | .bwJobKey c => ccbWord s c 0x1480
  | .bwJobStep c => ccbWord s c 0x1488
  | .sbNonfinite => blockWord s 2 0 &&& 0xFFFFFFFF
  | .sbClip => blockWord s 2 0 >>> 32
  | .brCfg => blockWord s 3 0
  | .pwCap => blockWord s 4 0
  | .pwCtl => blockWord s 4 0x18
  | .smReq => monWord s 0x10
  | .smQnonce i => monWord s (0x60 + 8 * i.toNat)
  | .smFatal i => monWord s (0xF00 + 8 * i.toNat)
  | .tokenBuffer i => if isRetired s then 0 else tget 0 s.mon.token i.toNat
  | .hostLoad o => if isRetired s || !decide (s.pw.phase = .bootStopped) then 0 else tget 0 s.mon.hostLoad o
  | _ => 0

/-- What a read of the word returns (R8, R10, R257, R297, R363): nothing is listed where it reads as zero. -/
def readPlace (s : State) (p : Place) : W64 :=
  match p with
  | .reg r => namedWord s r
  | .slotIn f n o => wordAt (tget 0 (getFn s f).inbound n.toNat).toNat (o.toNat / 8)
  | .slotOut f n o => wordAt (tget 0 (getFn s f).outbound n.toNat).toNat (o.toNat / 8)
  | .status f o => statusWord s f o
  | .mbox f o => mboxWord s f o
  | .tele o => teleWord s o
  | .monPage o => monWord s o
  | .quote o => byteWord s.mon.quote (o / 8)
  | .ccb c o => ccbWord s c o
  | .window c a => BitVec.ofNat 64 (leNat (Memory.rds (getCore s c).eng.sp a.toNat 8))
  | .block n o => blockWord s n o
  | .unlisted => 0

/-- What a read of a register returns to the agent that reaches it. -/
def readReg (s : State) (r : RegName) : W64 := readPlace s (placeOf s r)

end Sys2Proof.Machine
end

