-- ==== Sys2Proof/Machine/Ring.lean ====
section
/-! DEFINITION. RING, and the CONFIG targets that the sequencer itself loads: the core control record and the bow site
selection (R91, R113 to R115, R223). -/

namespace Sys2Proof.Machine
open Sys2Proof

/-! ### RING (R113 to R115) -/

def ringOf (s : State) (c : CoreId) (k : Nat) : RingRec := tget .reset (getCore s c).eng.rings k

def setRing (s : State) (c : CoreId) (k : Nat) (r : RingRec) : State := modEng s c fun e => { e with rings := tput .reset e.rings k r }

/-- Words pushed and not popped (R114). -/
def ringOccupancy (r : RingRec) : Nat := (r.head - r.tail).toNat

/-- Task-relative address of the slot at a counter (Table 5-8). -/
def ringSlot (r : RingRec) (k : BitVec 18) : W64 := BitVec.ofNat 64 (r.base.toNat * 64 + k.toNat % r.size.toNat * 64)

def ringK (w : CmdWord) : Nat := wfld w 35 32
def ringD (w : CmdWord) : Nat := wfld w 40 36
def ringN (w : CmdWord) : Nat := wfld w 54 41

/-- SET: its checks in the order of R115, then the record. -/
def ringSetBody (c : CoreId) (w : CmdWord) (s : State) : State :=
  let base := idxVal (getCore s c).seq.sregs w 64
  let n := ringN w
  let pc := pcOf s c
  if base % 64 ≠ 0 then raiseTask s c cALIGN pc
  else if n = 0 then raiseTask s c cRING_CONFIG pc
  else if base + 64 * n > workTop (getCore s c).spTask then raiseTask s c cBOUND pc
  else advance (setRing s c (ringK w) ⟨BitVec.ofNat 14 (base / 64), BitVec.ofNat 14 n, 0, 0⟩) c

def execRingSet (c : CoreId) (w : CmdWord) (e : IssueEnv) (s : State) : Host.Outcome State Fault Refusal :=
  issueCore .ringSet c w e s (ringSetBody c w)

/-- A ring command other than SET on a configured ring. -/
def withRing (c : CoreId) (w : CmdWord) (s : State) (f : RingRec → State) : State :=
  let r := ringOf s c (ringK w)
  if r.size = 0 then raiseTask s c cRING_CONFIG (pcOf s c) else f r

def ringPushBody (c : CoreId) (w : CmdWord) (s : State) : State :=
  withRing c w s fun r =>
    let n := ringN w
    if ringOccupancy r + n > r.size.toNat then raiseTask s c cRING_OVERFLOW (pcOf s c)
    else if r.head.toNat % r.size.toNat + n > r.size.toNat then raiseTask s c cRING_SPLIT (pcOf s c)
    else setAdvance (setRing s c (ringK w) { r with head := r.head + BitVec.ofNat 18 n }) c (ringD w) (ringSlot r r.head)

def execRingPush (c : CoreId) (w : CmdWord) (e : IssueEnv) (s : State) : Host.Outcome State Fault Refusal :=
  issueCore .ringPush c w e s (ringPushBody c w)

def ringPopBody (c : CoreId) (w : CmdWord) (s : State) : State :=
  withRing c w s fun r =>
    let n := ringN w
    if n > ringOccupancy r then raiseTask s c cRING_UNDERFLOW (pcOf s c)
    else if r.tail.toNat % r.size.toNat + n > r.size.toNat then raiseTask s c cRING_SPLIT (pcOf s c)
    else setAdvance (setRing s c (ringK w) { r with tail := r.tail + BitVec.ofNat 18 n }) c (ringD w) (ringSlot r r.tail)

def execRingPop (c : CoreId) (w : CmdWord) (e : IssueEnv) (s : State) : Host.Outcome State Fault Refusal :=
  issueCore .ringPop c w e s (ringPopBody c w)

def execRingHead (c : CoreId) (w : CmdWord) (e : IssueEnv) (s : State) : Host.Outcome State Fault Refusal :=
  issueCore .ringHead c w e s fun s => withRing c w s fun r => setAdvance s c (ringD w) (ringSlot r r.head)

def execRingTail (c : CoreId) (w : CmdWord) (e : IssueEnv) (s : State) : Host.Outcome State Fault Refusal :=
  issueCore .ringTail c w e s fun s => withRing c w s fun r => setAdvance s c (ringD w) (ringSlot r r.tail)

def execRingOcc (c : CoreId) (w : CmdWord) (e : IssueEnv) (s : State) : Host.Outcome State Fault Refusal :=
  issueCore .ringOcc c w e s fun s => withRing c w s fun r => setAdvance s c (ringD w) (BitVec.ofNat 64 (ringOccupancy r))

/-! ### CONFIG in the sequencer (R91, R223) -/

/-- The CONFIG reads its words through the narrow port, one a cycle from its issue; it takes effect `m` cycles after it, and the next command
issues one cycle later, at the command after this one. -/
def narrowConfig (kind : QKind) (c : CoreId) (w : CmdWord) (m : Nat) (s : State) : State :=
  match rangeErr (getCore s c).spTask ⟨false, idxVal (getCore s c).seq.sregs w 32, wfld w 71 60 * 64⟩ with
  | some e => raiseTask s c e (pcOf s c)
  | none => modSeq (startSeq s c kind w m) c fun q => { q with next := q.cycle + m + 1 }

/-- The core control record (Table 4-13). -/
def execConfigCoreControl (c : CoreId) (w : CmdWord) (e : IssueEnv) (s : State) : Host.Outcome State Fault Refusal :=
  issueCore .cfgCtrl c w e s (narrowConfig .cfgCtrl c w 10)

/-- The bow site selection (R223). -/
def execConfigBowSites (c : CoreId) (w : CmdWord) (e : IssueEnv) (s : State) : Host.Outcome State Fault Refusal :=
  issueCore .cfgBow c w e s (narrowConfig .cfgBow c w (8 * wfld w 71 60 + 2))

end Sys2Proof.Machine
end

