-- ==== Sys2Proof/Machine/Dispatch.lean ====
section
/-! DEFINITION. The dispatch of a command to its meaning, one arm for each constructor of `Instr`. -/

namespace Sys2Proof.Machine
open Sys2Proof

def exec (i : Instr) (s : State) : Host.Outcome State Fault Refusal :=
  match i with
  | .ctrlNop c w e => Sys2Proof.Machine.execCtrlNop c w e s
  | .ctrlLi c w e => Sys2Proof.Machine.execCtrlLi c w e s
  | .ctrlAlu c w e => Sys2Proof.Machine.execCtrlAlu c w e s
  | .ctrlBr c w e => Sys2Proof.Machine.execCtrlBr c w e s
  | .ctrlLoop c w e => Sys2Proof.Machine.execCtrlLoop c w e s
  | .ctrlLd c w e => Sys2Proof.Machine.execCtrlLd c w e s
  | .ctrlSt c w e => Sys2Proof.Machine.execCtrlSt c w e s
  | .ctrlRdsys c w e => Sys2Proof.Machine.execCtrlRdsys c w e s
  | .ctrlDwait c w e => Sys2Proof.Machine.execCtrlDwait c w e s
  | .ctrlCapo c w e => Sys2Proof.Machine.execCtrlCapo c w e s
  | .ctrlEnd c w e => Sys2Proof.Machine.execCtrlEnd c w e s
  | .syncPost c w e => Sys2Proof.Machine.execSyncPost c w e s
  | .syncWait c w e => Sys2Proof.Machine.execSyncWait c w e s
  | .syncTry c w e => Sys2Proof.Machine.execSyncTry c w e s
  | .semBlockCycle p arrivals => Sys2Proof.Machine.execSemBlockCycle p arrivals s
  | .syncTimeout c dt => Sys2Proof.Machine.execSyncTimeout c dt s
  | .summarySend c w e => Sys2Proof.Machine.execSummarySend c w e s
  | .summaryAsk c w e => Sys2Proof.Machine.execSummaryAsk c w e s
  | .summaryRingFreed p bytes runs => Sys2Proof.Machine.execSummaryRingFreed p bytes runs s
  | .decisionArrival c tag bytes => Sys2Proof.Machine.execDecisionArrival c tag bytes s
  | .decisionTimeout c tag dt => Sys2Proof.Machine.execDecisionTimeout c tag dt s
  | .dmaLoad c w e => Sys2Proof.Machine.execDmaLoad c w e s
  | .dmaStore c w e => Sys2Proof.Machine.execDmaStore c w e s
  | .dmaCopy c w e => Sys2Proof.Machine.execDmaCopy c w e s
  | .dmaZero c w e => Sys2Proof.Machine.execDmaZero c w e s
  | .dmaComplete c => Sys2Proof.Machine.execDmaComplete c s
  | .ringSet c w e => Sys2Proof.Machine.execRingSet c w e s
  | .ringPush c w e => Sys2Proof.Machine.execRingPush c w e s
  | .ringPop c w e => Sys2Proof.Machine.execRingPop c w e s
  | .ringHead c w e => Sys2Proof.Machine.execRingHead c w e s
  | .ringTail c w e => Sys2Proof.Machine.execRingTail c w e s
  | .ringOcc c w e => Sys2Proof.Machine.execRingOcc c w e s
  | .configCoreControl c w e => Sys2Proof.Machine.execConfigCoreControl c w e s
  | .configFretTables c w e => Sys2Proof.Machine.execConfigFretTables c w e s
  | .configCodebooks c w e => Sys2Proof.Machine.execConfigCodebooks c w e s
  | .configDecayTable c w e => Sys2Proof.Machine.execConfigDecayTable c w e s
  | .configRescaleTables c w e => Sys2Proof.Machine.execConfigRescaleTables c w e s
  | .configTblSegments c w e => Sys2Proof.Machine.execConfigTblSegments c w e s
  | .configCodingLoad c w e => Sys2Proof.Machine.execConfigCodingLoad c w e s
  | .configCodingBuild c w e => Sys2Proof.Machine.execConfigCodingBuild c w e s
  | .configBowSites c w e => Sys2Proof.Machine.execConfigBowSites c w e s
  | .matmulPlain c w e => Sys2Proof.Machine.execMatmulPlain c w e s
  | .matmulAccum c w e => Sys2Proof.Machine.execMatmulAccum c w e s
  | .matmulDecay c w e => Sys2Proof.Machine.execMatmulDecay c w e s
  | .matmulRotate c w e => Sys2Proof.Machine.execMatmulRotate c w e s
  | .shadowDrainEnd c => Sys2Proof.Machine.execShadowDrainEnd c s
  | .wload c w e => Sys2Proof.Machine.execWload c w e s
  | .wloadComplete c => Sys2Proof.Machine.execWloadComplete c s
  | .adrainDrain c w e => Sys2Proof.Machine.execAdrainDrain c w e s
  | .adrainFill c w e => Sys2Proof.Machine.execAdrainFill c w e s
  | .adrainComplete c => Sys2Proof.Machine.execAdrainComplete c s
  | .vchain c w e => Sys2Proof.Machine.execVchain c w e s
  | .vdescLoad c w e => Sys2Proof.Machine.execVdescLoad c w e s
  | .vdescSetvl c w e => Sys2Proof.Machine.execVdescSetvl c w e s
  | .vdescStats c w e => Sys2Proof.Machine.execVdescStats c w e s
  | .stateioLoad c w e => Sys2Proof.Machine.execStateioLoad c w e s
  | .stateioSave c w e => Sys2Proof.Machine.execStateioSave c w e s
  | .stateioWread c w e => Sys2Proof.Machine.execStateioWread c w e s
  | .stateioWwrite c w e => Sys2Proof.Machine.execStateioWwrite c w e s
  | .spreadFwd c w e => Sys2Proof.Machine.execSpreadFwd c w e s
  | .spreadInv c w e => Sys2Proof.Machine.execSpreadInv c w e s
  | .qscanScan c w e => Sys2Proof.Machine.execQscanScan c w e s
  | .qscanMerge c w e => Sys2Proof.Machine.execQscanMerge c w e s
  | .qscanPick c w e => Sys2Proof.Machine.execQscanPick c w e s
  | .spTaskWrite c v => Sys2Proof.Machine.execSpTaskWrite c v s
  | .stImageWrite c v => Sys2Proof.Machine.execStImageWrite c v s
  | .droneMark c groups => Sys2Proof.Machine.execDroneMark c groups s
  | .firmwareWindowAccess c addr bytes mode => Sys2Proof.Machine.execFirmwareWindowAccess c addr bytes mode s
  | .registerWrite r v => Sys2Proof.Machine.execRegisterWrite r v s
  | .mailboxSlotWrite f slot off bytes => Sys2Proof.Machine.execMailboxSlotWrite f slot off bytes s
  | .mailboxSlotTake f => Sys2Proof.Machine.execMailboxSlotTake f s
  | .outboundSlotReturn f slot off bytes => Sys2Proof.Machine.execOutboundSlotReturn f slot off bytes s
  | .msixHoldoffExpiry f v dt => Sys2Proof.Machine.execMsixHoldoffExpiry f v dt s
  | .msixUnmask f v => Sys2Proof.Machine.execMsixUnmask f v s
  | .bar2Read off len => Sys2Proof.Machine.execBar2Read off len s
  | .bar2Write off bytes => Sys2Proof.Machine.execBar2Write off bytes s
  | .modelLoad f img ch dt => Sys2Proof.Machine.execModelLoad f img ch dt s
  | .modelLoadComplete f tag ch dt => Sys2Proof.Machine.execModelLoadComplete f tag ch dt s
  | .modelUnload f dt => Sys2Proof.Machine.execModelUnload f dt s
  | .streamOpen f ch dt => Sys2Proof.Machine.execStreamOpen f ch dt s
  | .streamPush f list audio dt => Sys2Proof.Machine.execStreamPush f list audio dt s
  | .pushGatherDone f dt => Sys2Proof.Machine.execPushGatherDone f dt s
  | .streamPause f dt => Sys2Proof.Machine.execStreamPause f dt s
  | .streamResume f blocks dt => Sys2Proof.Machine.execStreamResume f blocks dt s
  | .streamClose f dt => Sys2Proof.Machine.execStreamClose f dt s
  | .streamReset f dt => Sys2Proof.Machine.execStreamReset f dt s
  | .statusGet f dt => Sys2Proof.Machine.execStatusGet f dt s
  | .accountGet f dt => Sys2Proof.Machine.execAccountGet f dt s
  | .partitionCreate f p dt => Sys2Proof.Machine.execPartitionCreate f p dt s
  | .partitionDestroy f dt => Sys2Proof.Machine.execPartitionDestroy f dt s
  | .modelPlace f ch dt => Sys2Proof.Machine.execModelPlace f ch dt s
  | .jobRemove f dt => Sys2Proof.Machine.execJobRemove f dt s
  | .jobMove f ch dt => Sys2Proof.Machine.execJobMove f ch dt s
  | .schedSlice f dt => Sys2Proof.Machine.execSchedSlice f dt s
  | .quantPolicy f dt => Sys2Proof.Machine.execQuantPolicy f dt s
  | .programSubmit f img ch dt => Sys2Proof.Machine.execProgramSubmit f img ch dt s
  | .windowOpen f dt => Sys2Proof.Machine.execWindowOpen f dt s
  | .windowClose f dt => Sys2Proof.Machine.execWindowClose f dt s
  | .streamMigrate f remoteHolds dt => Sys2Proof.Machine.execStreamMigrate f remoteHolds dt s
  | .traceStart f dt => Sys2Proof.Machine.execTraceStart f dt s
  | .traceStop f dt => Sys2Proof.Machine.execTraceStop f dt s
  | .powerCap f dt => Sys2Proof.Machine.execPowerCap f dt s
  | .bar2Map f dt => Sys2Proof.Machine.execBar2Map f dt s
  | .functionConfig f dt => Sys2Proof.Machine.execFunctionConfig f dt s
  | .sampleTake h count => Sys2Proof.Machine.execSampleTake h count s
  | .frameCompute h dt => Sys2Proof.Machine.execFrameCompute h dt s
  | .silentCommit h dt => Sys2Proof.Machine.execSilentCommit h dt s
  | .pauseTimerTier1 h dst dt => Sys2Proof.Machine.execPauseTimerTier1 h dst dt s
  | .pauseTimerTier2 h dst dt => Sys2Proof.Machine.execPauseTimerTier2 h dst dt s
  | .bundleForm m p dt => Sys2Proof.Machine.execBundleForm m p dt s
  | .bundleBind b p rec blocks dt => Sys2Proof.Machine.execBundleBind b p rec blocks dt s
  | .commitUpdate p blocks dt => Sys2Proof.Machine.execCommitUpdate p blocks dt s
  | .sliceStart p dt => Sys2Proof.Machine.execSliceStart p dt s
  | .sliceExpiry p dt => Sys2Proof.Machine.execSliceExpiry p dt s
  | .hardStop p env dt => Sys2Proof.Machine.execHardStop p env dt s
  | .reclaim p job dt => Sys2Proof.Machine.execReclaim p job dt s
  | .bundleErrorSettle p blocks dt => Sys2Proof.Machine.execBundleErrorSettle p blocks dt s
  | .reconciliationClose dt => Sys2Proof.Machine.execReconciliationClose dt s
  | .interferenceReport dt => Sys2Proof.Machine.execInterferenceReport dt s
  | .migrationDescriptor d => Sys2Proof.Machine.execMigrationDescriptor d s
  | .migrationComplete dt => Sys2Proof.Machine.execMigrationComplete dt s
  | .grant g => Sys2Proof.Machine.execGrant g s
  | .revoke e => Sys2Proof.Machine.execRevoke e s
  | .verify base key => Sys2Proof.Machine.execVerify base key s
  | .release base => Sys2Proof.Machine.execRelease base s
  | .tier1ZeroDone => Sys2Proof.Machine.execTier1ZeroDone s
  | .scrubPass addr corrected uncorrectable dt => Sys2Proof.Machine.execScrubPass addr corrected uncorrectable dt s
  | .uncorrectableRead r addr sym dt => Sys2Proof.Machine.execUncorrectableRead r addr sym dt s
  | .expanderDown x dt => Sys2Proof.Machine.execExpanderDown x dt s
  | .bridgeLinkUp n dt => Sys2Proof.Machine.execBridgeLinkUp n dt s
  | .bridgeLinkDown n dt => Sys2Proof.Machine.execBridgeLinkDown n dt s
  | .helloTimer dt => Sys2Proof.Machine.execHelloTimer dt s
  | .helloReceive n remotePort fr dt => Sys2Proof.Machine.execHelloReceive n remotePort fr dt s
  | .routeExpiry d dt => Sys2Proof.Machine.execRouteExpiry d dt s
  | .pairReceive n fr dt => Sys2Proof.Machine.execPairReceive n fr dt s
  | .writeFrame n fr dt => Sys2Proof.Machine.execWriteFrame n fr dt s
  | .readReqFrame n fr dt => Sys2Proof.Machine.execReadReqFrame n fr dt s
  | .readRespFrame n fr dt => Sys2Proof.Machine.execReadRespFrame n fr dt s
  | .atomicFrame n fr dt => Sys2Proof.Machine.execAtomicFrame n fr dt s
  | .migDataFrame n fr dt => Sys2Proof.Machine.execMigDataFrame n fr dt s
  | .migCtrlFrame n fr ch dt => Sys2Proof.Machine.execMigCtrlFrame n fr ch dt s
  | .ackFrame n fr dt => Sys2Proof.Machine.execAckFrame n fr dt s
  | .nakFrame n fr dt => Sys2Proof.Machine.execNakFrame n fr dt s
  | .rejectFrame n fr dt => Sys2Proof.Machine.execRejectFrame n fr dt s
  | .retryTimeout pair dt => Sys2Proof.Machine.execRetryTimeout pair dt s
  | .frameDiscard n etherType fcsOk fr => Sys2Proof.Machine.execFrameDiscard n etherType fcsOk fr s
  | .syncTimer dt => Sys2Proof.Machine.execSyncTimer dt s
  | .syncReqReceive n fr stamps => Sys2Proof.Machine.execSyncReqReceive n fr stamps s
  | .syncRespReceive n fr t1 t4 dt => Sys2Proof.Machine.execSyncRespReceive n fr t1 t4 dt s
  | .smReqNonce dt => Sys2Proof.Machine.execSmReqNonce dt s
  | .smReqQuote dt => Sys2Proof.Machine.execSmReqQuote dt s
  | .smReqToken key b sanitized dt => Sys2Proof.Machine.execSmReqToken key b sanitized dt s
  | .smReqHostimg key b dt => Sys2Proof.Machine.execSmReqHostimg key b dt s
  | .smFatalClear => Sys2Proof.Machine.execSmFatalClear s
  | .entropyFail dt => Sys2Proof.Machine.execEntropyFail dt s
  | .powerOnReset b => Sys2Proof.Machine.execPowerOnReset b s
  | .pwrgoodFall => Sys2Proof.Machine.execPwrgoodFall s
  | .perstNAssert => Sys2Proof.Machine.execPerstNAssert s
  | .perstNDeassert b => Sys2Proof.Machine.execPerstNDeassert b s
  | .pwWresetWrite v b dt => Sys2Proof.Machine.execPwWresetWrite v b dt s
  | .hotReset dt => Sys2Proof.Machine.execHotReset dt s
  | .flr f dt => Sys2Proof.Machine.execFlr f dt s
  | .partitionReset p dt => Sys2Proof.Machine.execPartitionReset p dt s
  | .c1Entry k => Sys2Proof.Machine.execC1Entry k s
  | .c2Entry k => Sys2Proof.Machine.execC2Entry k s
  | .c2Exit k => Sys2Proof.Machine.execC2Exit k s
  | .deviceIdleEntry => Sys2Proof.Machine.execDeviceIdleEntry s
  | .deviceIdleExit => Sys2Proof.Machine.execDeviceIdleExit s
  | .standbyEntry dt => Sys2Proof.Machine.execStandbyEntry dt s
  | .standbyExit dt => Sys2Proof.Machine.execStandbyExit dt s
  | .powerLoopTick power dt => Sys2Proof.Machine.execPowerLoopTick power dt s
  | .thermalLoopTick tmax dt => Sys2Proof.Machine.execThermalLoopTick tmax dt s
  | .thermtrip dt => Sys2Proof.Machine.execThermtrip dt s
  | .energySample smp dt => Sys2Proof.Machine.execEnergySample smp dt s
  | .clockLoss k dt => Sys2Proof.Machine.execClockLoss k dt s
  | .undervoltage r => Sys2Proof.Machine.execUndervoltage r s
  | .heartbeat dt => Sys2Proof.Machine.execHeartbeat dt s
  | .watchdogExpiry b dt => Sys2Proof.Machine.execWatchdogExpiry b dt s
  | .smbusTransaction addr pecOk sensor => Sys2Proof.Machine.execSmbusTransaction addr pecOk sensor s
  | .alertResponseRead => Sys2Proof.Machine.execAlertResponseRead s
  | .matmulComplete c => Sys2Proof.Machine.execMatmulComplete c s
  | .vchainComplete c => Sys2Proof.Machine.execVchainComplete c s
  | .synthesisOutput h count => Sys2Proof.Machine.execSynthesisOutput h count s
  | .hbmStackFailure st dt => Sys2Proof.Machine.execHbmStackFailure st dt s
  | .railReturn r b => Sys2Proof.Machine.execRailReturn r b s
  | .lpddr6PllLoss dt => Sys2Proof.Machine.execLpddr6PllLoss dt s
  | .vfEnableWrite enable n => Sys2Proof.Machine.execVfEnableWrite enable n s

end Sys2Proof.Machine
end

