-- ==== Sys2Proof/Safety.lean ====
section
/-! DEFINITION. What the claims speak of: completion, the invariant of every step, what fuses keep for good, and what a command leaves
alone. -/

namespace Sys2Proof

/-- The outcome is a next state. -/
def completes (o : Host.Outcome Machine.State Machine.Fault Machine.Refusal) : Prop := ∃ t, o = .next t

/-- A run of `k` steps stops nowhere. -/
def safeRun (k : Nat) (s : Machine.State) : Prop := completes (core.run k s)

/-! ### The invariant -/

/-- The ranges of PW_STATUS, PW_CAP and PW_CTL (Table 18-9). -/
structure PwOk (x : Machine.PwSt) : Prop where
  dutyP : 4 ≤ x.dutyP.toNat ∧ x.dutyP.toNat ≤ 16
  dutyT : 4 ≤ x.dutyT.toNat ∧ x.dutyT.toNat ≤ 16
  cap : 250 ≤ x.capWatts.toNat ∧ x.capWatts.toNat ≤ 500
  hyst : 5 ≤ x.capHyst.toNat ∧ x.capHyst.toNat ≤ 50
  delay : x.c2Delay.toNat ≤ 10000

/-- Device memory and host memory are canonical, the PW registers are in their ranges, and no more debug bits are burnt than there
are (R367, Table 18-9). -/
structure Inv (s : Machine.State) : Prop where
  mem : Machine.Memory.wf s.mem = true
  host : Machine.Memory.wf s.hostMem = true
  pw : PwOk s.pw
  debug : s.fuses.debugUsed.toNat ≤ 64

/-! ### One-way fuses (R359, R362, R367) -/

/-- Burnt fuses stay burnt, floors only rise, and what is written once stays. -/
structure FusesLe (u v : Machine.Fuses) : Prop where
  prov : u.prov = true → v.prov = true
  owner : u.ownerBurnt = true → v.ownerBurnt = true
  retired : u.retired = true → v.retired = true
  debug : u.debugUsed.toNat ≤ 64 → u.debugUsed.toNat ≤ v.debugUsed.toNat
  floorMon : u.floorMon.toNat ≤ v.floorMon.toNat
  floorRt : u.floorRt.toNat ≤ v.floorRt.toNat
  root : v.rootDigest = u.rootDigest
  revoked : v.revoked = u.revoked
  ownerKey : u.ownerBurnt = true → v.ownerDigest = u.ownerDigest
  identity : u.prov = true → v.idPub = u.idPub

/-! ### The issue of a core's command -/

/-- The core issues `w`, a sound word of the row, in the cycle that the environment gives: what R70 and R72 ask (the queue's free entry
apart). -/
structure Issues (row : CmdRow) (c : CoreId) (w : CmdWord) (e : IssueEnv) (s : Machine.State) : Prop where
  ofRow : rowOfWord w = some row
  may : Machine.mayIssue (Machine.reached s c e) c w = true
  sound : Machine.malformed row (Machine.getCore (Machine.atIssue s c e) c).seq.sregs w = false

/-- A command follows the one at the core's PC (R75). -/
def HasNext (s : Machine.State) (c : CoreId) : Prop := (Machine.getCore s c).seq.pc.toNat + 1 < (Machine.getCore s c).seq.cmdMem.length

/-- The outcome where the command's act leads to `t`: the issue cycle then takes its course. -/
def cycleFrom (c : CoreId) (e : IssueEnv) (t : Machine.State) : Host.Outcome Machine.State Machine.Fault Machine.Refusal :=
  .next (Machine.endCycle e.run t c)

/-- Scalar register `d` holds `v`; a write to s0 is discarded (R69). -/
def putS (s : Machine.State) (c : CoreId) (d : Nat) (v : W64) : Machine.State := Machine.modSeq s c fun q => Machine.setSreg q d v

/-- The PC stands at the next command. -/
def onward (s : Machine.State) (c : CoreId) : Machine.State := Machine.modSeq s c fun q => { q with pc := q.pc + 1 }

/-- The PC stands at `target`; the next command issues 4 cycles after this one (Table 4-6). -/
def jumpTo (s : Machine.State) (c : CoreId) (target : Nat) : Machine.State :=
  Machine.modSeq s c fun q => { q with pc := BitVec.ofNat 13 target, next := q.cycle + 4 }

/-- Table 4-4 over the integers: what `v` is for the operation and its operands. -/
def AluResult (op : Nat) (a y v : W64) : Prop :=
  match op with
  | 0 => v.toNat = (a.toNat + y.toNat) % 2 ^ 64
  | 1 => (v.toNat + y.toNat) % 2 ^ 64 = a.toNat
  | 2 => ∀ i, v.getLsbD i = (a.getLsbD i && y.getLsbD i)
  | 3 => ∀ i, v.getLsbD i = (a.getLsbD i || y.getLsbD i)
  | 4 => ∀ i, v.getLsbD i = (a.getLsbD i != y.getLsbD i)
  | 5 => v.toNat = a.toNat * 2 ^ (y.toNat % 64) % 2 ^ 64
  | 6 => v.toNat = a.toNat / 2 ^ (y.toNat % 64)
  | 7 => v.toInt = a.toInt / 2 ^ (y.toNat % 64)
  | 8 => v.toNat = a.toNat * y.toNat % 2 ^ 64
  | 9 => v.toInt = min a.toInt y.toInt
  | 10 => v.toInt = max a.toInt y.toInt
  | 11 => v.toNat = min a.toNat y.toNat
  | 12 => v.toNat = max a.toNat y.toNat
  | 13 => v.toNat = if a.toInt < y.toInt then 1 else 0
  | 14 => v.toNat = if a.toNat < y.toNat then 1 else 0
  | 15 => v.toNat = if a = y then 1 else 0
  | _ => False

/-- The condition of BR holds (R75). -/
def BrHolds (cond : Nat) (a b : W64) : Prop :=
  match cond with
  | 0 => True
  | 1 => a = b
  | 2 => a ≠ b
  | 3 => a.toInt < b.toInt
  | 4 => b.toInt ≤ a.toInt
  | 5 => a.toNat < b.toNat
  | 6 => b.toNat ≤ a.toNat
  | _ => False

/-- The commands that go to a queue, with their row, kind and operands (Tables 4-2 and 4-12). -/
def queuedOf : Instr → Option (CmdRow × Machine.QKind × CoreId × CmdWord × IssueEnv)
  | .summarySend c w e => some (.send, .summarySend, c, w, e)
  | .summaryAsk c w e => some (.ask, .summaryAsk, c, w, e)
  | .dmaLoad c w e => some (.dmaLoad, .dmaLoad, c, w, e)
  | .dmaStore c w e => some (.dmaStore, .dmaStore, c, w, e)
  | .dmaCopy c w e => some (.dmaCopy, .dmaCopy, c, w, e)
  | .dmaZero c w e => some (.dmaZero, .dmaZero, c, w, e)
  | .configFretTables c w e => some (.cfgFret, .cfgFret, c, w, e)
  | .configCodebooks c w e => some (.cfgCodebook, .cfgCodebook, c, w, e)
  | .configDecayTable c w e => some (.cfgDecay, .cfgDecay, c, w, e)
  | .configRescaleTables c w e => some (.cfgRescale, .cfgRescale, c, w, e)
  | .configTblSegments c w e => some (.cfgTbl, .cfgTbl, c, w, e)
  | .configCodingLoad c w e => some (.cfgCzLoad, .cfgCzLoad, c, w, e)
  | .configCodingBuild c w e => some (.cfgCzBuild, .cfgCzBuild, c, w, e)
  | .matmulPlain c w e => some (.mmPlain, .matmulPlain, c, w, e)
  | .matmulAccum c w e => some (.mmAccum, .matmulAccum, c, w, e)
  | .matmulDecay c w e => some (.mmDecay, .matmulDecay, c, w, e)
  | .matmulRotate c w e => some (.mmRotate, .matmulRotate, c, w, e)
  | .wload c w e => some (.wload, .wload, c, w, e)
  | .adrainDrain c w e => some (.drain, .adrainDrain, c, w, e)
  | .adrainFill c w e => some (.fill, .adrainFill, c, w, e)
  | .vchain c w e => some (.vchain, .vchain, c, w, e)
  | .vdescLoad c w e => some (.vdLoad, .vdescLoad, c, w, e)
  | .vdescSetvl c w e => some (.vdSetvl, .vdescSetvl, c, w, e)
  | .vdescStats c w e => some (.vdStats, .vdescStats, c, w, e)
  | .stateioLoad c w e => some (.stLoad, .stLoad, c, w, e)
  | .stateioSave c w e => some (.stSave, .stSave, c, w, e)
  | .stateioWread c w e => some (.stWread, .stWread, c, w, e)
  | .stateioWwrite c w e => some (.stWwrite, .stWwrite, c, w, e)
  | .spreadFwd c w e => some (.spreadFwd, .spreadFwd, c, w, e)
  | .spreadInv c w e => some (.spreadInv, .spreadInv, c, w, e)
  | .qscanScan c w e => some (.scan, .scan, c, w, e)
  | .qscanMerge c w e => some (.merge, .merge, c, w, e)
  | .qscanPick c w e => some (.pick, .pick, c, w, e)
  | _ => none

/-- The four queues of the core are empty. -/
def IdleQueues (s : Machine.State) (c : CoreId) : Prop := ∀ k : Machine.QSel, Machine.getQ (Machine.getCore s c).seq k = []

/-- The entry that a command becomes, as captured at issue (R73, R224). -/
def entryOf (s : Machine.State) (c : CoreId) (kind : Machine.QKind) (w : CmdWord) : Machine.QEntry :=
  Machine.newEntry (Machine.getCore s c).seq (Machine.getCore s c).eng kind w

/-- The core's only queued command is `q`. -/
def OnlyEntry (s : Machine.State) (c : CoreId) (q : Machine.QEntry) : Prop :=
  ∀ k : Machine.QSel, Machine.getQ (Machine.getCore s c).seq k = if k = Machine.queueOf q.kind then [q] else []

/-- Nothing that the core has presented to its banks is on the way, and no register waits for its LD (R78, R104). -/
def Settled (s : Machine.State) (c : CoreId) : Prop :=
  (Machine.getCore s c).seq.landing = [] ∧ (Machine.getCore s c).seq.ldPend = []

/-- The state without its core `c`, as far as a core command may leave it alone: what the commands of one core do not reach. -/
structure SameElsewhere (s t : Machine.State) (c : CoreId) : Prop where
  pending : t.pending = s.pending
  mem : t.mem = s.mem
  host : t.hostMem = s.hostMem
  cores : ∀ d, d ≠ c → Machine.getCore t d = Machine.getCore s d
  courses : t.courses = s.courses
  streams : t.streams = s.streams
  models : t.models = s.models
  funcs : t.funcs = s.funcs
  fuses : t.fuses = s.fuses
  pw : t.pw = s.pw

/-! ### Firmware commands -/

/-- The runtime carries out the function's oldest command taken, `k`, which is one of the opcode (R304). -/
structure Serves (f : Func) (op : Nat) (k : Machine.Taken) (s : Machine.State) : Prop where
  runs : Machine.rtRuns s = true
  ready : (Machine.getFn s f).ready = true
  front : (Machine.getFn s f).taken.head? = some k
  opcode : k.opcode.toNat = op

/-- The state in which the command acts: time has passed, and the command is no longer waiting. -/
def servedIn (s : Machine.State) (f : Func) (dt : Nat) : Machine.State := Machine.dropCmd (Machine.tick s dt) f

/-- The checks all pass. -/
def Passes (l : List (Bool × BitVec 16)) : Prop := ∀ x ∈ l, x.1 = false

/-- A handle-list command of sound form on distinct streams of the function, none of them FREE (R322). -/
structure SoundList (f : Func) (k : Machine.Taken) (opt : Bool) (s : Machine.State) : Prop where
  form : Machine.listBad k opt = false
  distinct : (Machine.listHandles k).Nodup
  mine : ∀ h ∈ Machine.listHandles k, (Machine.getStream s h).state ≠ .free ∧ (Machine.getStream s h).client = f

/-- Every stream that the list does not name is as before. -/
def OtherStreamsSame (s t : Machine.State) (hs : List Handle) : Prop := ∀ h, h ∉ hs → Machine.getStream t h = Machine.getStream s h

end Sys2Proof
end

