-- ==== Sys2Proof/Certificates/Slice0/Obligations.lean ====
section
/-! DEFINITION. The statements for the provers. Each docstring names the rules of spec/ it is about; a statement that rests on a choice of
the model names the log entry. -/

open Sys2Proof Sys2Proof.Machine

/-! ### Steps, invariant, reset -/

/-- A step is the meaning of the command at the front of the queue, on the state with the queue's rest. -/
def Obligations.StepRunsTheFrontCommand : Prop :=
  ∀ (c : Instr) (rest : List Instr) (s : State), s.pending = c :: rest → step s = exec c { s with pending := rest }

/-- A step takes the command at the front and puts none: the queue is first in, first out. On an empty queue the block idles (the model's
choice, log 3). -/
def Obligations.StepsTakeFromTheFront : Prop :=
  (∀ s : State, s.pending = [] → step s = .next s) ∧
  (∀ s t : State, step s = .next t → t.pending = s.pending.tail)

/-- Every step keeps both memories in canonical form, the PW registers in the ranges of Table 18-9, and the debug count in its 64
fuse bits. -/
def Obligations.StepKeepsInvariant : Prop := ∀ s t : State, Inv s → step s = .next t → Inv t

/-- The invariant holds at reset. -/
def Obligations.ResetHasInvariant : Prop := Inv State.reset

/-- No step unburns a fuse, lowers a floor, or changes what is written once. -/
def Obligations.FusesAreOneWay : Prop := ∀ s t : State, Inv s → step s = .next t → FusesLe s.fuses t.fuses

/-- What the spec gives for reset: registers of the device, a core, a partition, a stream, a function, power and TM_ZERO1. -/
def Obligations.ResetGivesTheResetColumns : Prop :=
  let s := State.reset
  s.pending = [] ∧ s.time = 0 ∧ s.bundleNo = 0 ∧ s.fatal = false ∧ s.beat = 0 ∧
  (∀ c : CoreId, (getCore s c).seq.pc = 0 ∧ (∀ k, sOf s c k = 0) ∧ (getCore s c).seq.syncTimeout = 500000 ∧
    (getCore s c).seq.decisionTimeout = 100000 ∧ (getCore s c).spTask = .reset ∧ (getCore s c).stImage = .reset ∧
    (getCore s c).drone = 0 ∧ (getCore s c).conflictCount = 0 ∧ (getCore s c).bwKey = 0 ∧ (getCore s c).bwStep = 0) ∧
  (∀ p : PartId, (getPart s p).courses = 0 ∧ (getPart s p).valid = false ∧ (getPart s p).atMeet = false ∧ (getPart s p).stopping = false) ∧
  (∀ h : Handle, (getStream s h).state = .free) ∧
  (∀ f : Func, (getFn s f).holdoff = 20 ∧ (getFn s f).count = 16 ∧ (getFn s f).nBad = 0 ∧ (getFn s f).nLost = 0) ∧
  s.pw.dutyP = 16 ∧ s.pw.dutyT = 16 ∧ s.pw.capWatts = 500 ∧ s.pw.capHyst = 15 ∧ s.pw.c2Delay = 50 ∧
  s.br.ethertype = 0x88B5 ∧ s.br.retryUs = 20 ∧ s.br.retryMax = 32 ∧ s.br.syncEn = true ∧
  s.sbtm.zero1 = 0x004000000000#48 ∧ s.sbtm.zero1Done = false

/-! ### The sequencer (04, 05, 10) -/

/-- NOP, LI and ALU: the result in s[d], the PC on, and nothing else (R69, R74, Table 4-3); the rest of the issue cycle is the queues' own. -/
def Obligations.NopLiAluComplete : Prop :=
  ∀ (c : CoreId) (w : CmdWord) (e : IssueEnv) (s : State),
    let t := atIssue s c e
    HasNext t c →
    (Issues .nop c w e s → exec (.ctrlNop c w e) s = cycleFrom c e (onward t c)) ∧
    (Issues .li c w e s →
      exec (.ctrlLi c w e) s = cycleFrom c e (onward (putS t c (wfld w 36 32) (BitVec.ofNat 64 (wfld w 127 64))) c)) ∧
    (Issues .alu c w e s →
      ∃ v, AluResult (wfld w 52 48) (sOf t c (wfld w 41 37))
          (if wbit w 47 then (BitVec.ofNat 32 (wfld w 95 64)).signExtend 64 else sOf t c (wfld w 46 42)) v ∧
        exec (.ctrlAlu c w e) s = cycleFrom c e (onward (putS t c (wfld w 36 32) v) c))

/-- BR goes to its target when its condition holds and on otherwise (R75); LOOP counts s[c] down and goes to its target while the
count is nonzero (R76). A target past the end raises PC_RANGE, taken or not; that LOOP then leaves s[c] is the model's choice (log 30). -/
def Obligations.BrAndLoopComplete : Prop :=
  ∀ (c : CoreId) (w : CmdWord) (e : IssueEnv) (s : State),
    let t := atIssue s c e
    let target := wfld w 76 64
    let len := (getCore t c).seq.cmdMem.length
    HasNext t c →
    (Issues .br c w e s →
      let yes := BrHolds (wfld w 44 42) (sOf t c (wfld w 36 32)) (sOf t c (wfld w 41 37))
      (target < len → ¬yes → exec (.ctrlBr c w e) s = cycleFrom c e (onward t c)) ∧
      (target < len → yes → exec (.ctrlBr c w e) s = cycleFrom c e (jumpTo t c target)) ∧
      (len ≤ target → exec (.ctrlBr c w e) s = cycleFrom c e (raiseTask t c cPC_RANGE (pcOf t c)))) ∧
    (Issues .loop c w e s →
      let k := wfld w 36 32
      let v := sOf t c k
      (target < len → v = 0 → exec (.ctrlLoop c w e) s = cycleFrom c e (onward t c)) ∧
      (target < len → v = 1 → exec (.ctrlLoop c w e) s = cycleFrom c e (onward (putS t c k 0) c)) ∧
      (target < len → 1 < v.toNat → exec (.ctrlLoop c w e) s = cycleFrom c e (jumpTo (putS t c k (v - 1)) c target)) ∧
      (len ≤ target → exec (.ctrlLoop c w e) s = cycleFrom c e (raiseTask t c cPC_RANGE (pcOf t c))))

/-- LD and ST of an aligned address in the task's bounds present their access in the issue cycle. With no queued command about, the register that LD
writes may be read, and the bytes that ST writes are in the banks, 4 cycles after it; an address that is no multiple of 8 raises ALIGN
(R73, R77, R78, R104, R112). -/
def Obligations.LdAndStComplete : Prop :=
  ∀ (c : CoreId) (w : CmdWord) (e : IssueEnv) (s : State),
    let t := atIssue s c e
    let x := getCore t c
    let a := idxVal x.seq.sregs w 64
    let ok (write : Bool) : Prop := a % 8 = 0 ∧ rangeErr x.spTask ⟨write, a, 8⟩ = none
    HasNext t c →
    (Issues .ld c w e s →
      (ok false → exec (.ctrlLd c w e) s = cycleFrom c e (onward (startSeq t c .ld w 0) c)) ∧
      (ok false → IdleQueues t c → ∃ u, exec (.ctrlLd c w e) s = .next u ∧ IdleQueues u c ∧ (getCore u c).eng = x.eng ∧
        (getCore u c).seq.ldPend = x.seq.ldPend ++
          [(x.seq.cycle + 4, BitVec.ofNat 5 (wfld w 36 32), BitVec.ofNat 64 (leNat (spRead x [] a 8)))]) ∧
      (a % 8 ≠ 0 → exec (.ctrlLd c w e) s = cycleFrom c e (raiseTask t c cALIGN (pcOf t c)))) ∧
    (Issues .st c w e s →
      (ok true → exec (.ctrlSt c w e) s = cycleFrom c e (onward (startSeq t c .st w 0) c)) ∧
      (∀ p, ok true → IdleQueues t c → xlat x.spTask a = some p →
        ∃ u, exec (.ctrlSt c w e) s = .next u ∧ IdleQueues u c ∧ (getCore u c).eng = x.eng ∧
          (getCore u c).seq.landing = x.seq.landing ++
            [(x.seq.cycle + 4, (leBytes 8 (sOf t c (wfld w 36 32)).toNat).zipIdx.map fun b => (p + b.2, b.1))]) ∧
      (a % 8 ≠ 0 → exec (.ctrlSt c w e) s = cycleFrom c e (raiseTask t c cALIGN (pcOf t c))))

/-- RDSYS writes s[d] with the value its selector names (Table 4-5). DWAIT waits for its decision, or raises TAG where no ASK has the tag. With the
decision in the buffer and the queues empty it goes on at once: the ASK is no longer outstanding, s[d] has the decision's first 8 bytes, and its bytes
go to dst, 512 a cycle (R85). -/
def Obligations.RdsysAndDwaitComplete : Prop :=
  (∀ (c : CoreId) (w : CmdWord) (e : IssueEnv) (s : State) (p : PartId),
    let t := atIssue s c e
    let sel := wfld w 67 64
    HasNext t c → Issues .rdsys c w e s → partOfCore t c = some p →
    ∃ v : W64, exec (.ctrlRdsys c w e) s = cycleFrom c e (onward (putS t c (wfld w 36 32) v) c) ∧
      (sel = 0 → v.toNat = coreIndex (getPart t p) c) ∧ (sel = 1 → v.toNat = (partCourses (getPart t p)).length) ∧
      (sel = 4 → v = t.time) ∧ (sel = 5 → v.toNat = t.fuses.devid.toNat) ∧ (sel = 7 → v.toNat = c.toNat) ∧
      (∀ k, (getPart t p).task = some k → sel = 6 → v.toNat = k.lastCapo.toNat) ∧
      (∀ k, (getPart t p).task = some k → k.bundle = none → (sel = 2 ∨ sel = 3) → v = 0) ∧
      (∀ k b, (getPart t p).task = some k → k.bundle = some b →
        (sel = 2 → v = BitVec.ofNat 64 b.members.length) ∧ (sel = 3 → v = BitVec.ofNat 64 b.recAddr))) ∧
  (∀ (c : CoreId) (w : CmdWord) (e : IssueEnv) (s : State), Issues .dwait c w e s →
    let t := atIssue s c e
    let x := getCore t c
    let d := wfld w 36 32
    let tag : BitVec 16 := BitVec.ofNat 16 (wfld w 77 62)
    ((∃ a ∈ x.seq.asks, a.tag = tag) →
      exec (.ctrlDwait c w e) s = cycleFrom c e (modSeq t c fun q => { q with phase := .dwait (BitVec.ofNat 5 d) tag })) ∧
    (∀ a b, HasNext t c → IdleQueues t c → x.seq.asks.find? (fun a => decide (a.tag = tag)) = some a → a.decision = some b →
      rangeErr x.spTask ⟨true, a.dst.toNat, b.length⟩ = none →
      ∃ u, exec (.ctrlDwait c w e) s = .next u ∧ (getCore u c).seq.phase = .running ∧
        (getCore u c).seq.pc = x.seq.pc + 1 ∧ (getCore u c).seq.asks = x.seq.asks.filter (fun a => decide (a.tag ≠ tag)) ∧
        (getCore u c).seq.next = x.seq.cycle + max 1 (cdiv b.length 512) + 3 ∧
        (8 ≤ b.length → d ≠ 0 → sOf u c d = BitVec.ofNat 64 (leNat (b.take 8))) ∧
        (b ≠ [] → (getCore u c).seq.landing = x.seq.landing ++
          [(x.seq.cycle + 4, (b.take 512).zipIdx.filterMap fun y => (xlat x.spTask (a.dst.toNat + y.2)).map fun p => (p, y.1))])) ∧
    ((∀ a ∈ x.seq.asks, a.tag ≠ tag) → exec (.ctrlDwait c w e) s = cycleFrom c e (raiseTask t c cTAG (pcOf t c))))

/-- CAPO on a core that is not the last to arrive stands at the meet; END on one that is not the last to end has ended (R92, R96). The last core to
arrive at the same CAPO, with the semaphores at their initial values, no POST on the way and no slice end asked, completes the meet, and its next
command issues 20 cycles after its CAPO (R93, R94, Table 4-9). -/
def Obligations.MeetsAndEndsComplete : Prop :=
  (∀ (c : CoreId) (w : CmdWord) (e : IssueEnv) (s : State) (p : PartId) (d : CoreId),
    let t := atIssue s c e
    partOfCore t c = some p → d ∈ partCores (getPart t p) → d ≠ c → (getCore t c).seq.asks = [] → onFailedPair t c = false → quietCore t c = true →
    (Issues .capo c w e s → capoOf t d = none →
      exec (.ctrlCapo c w e) s = cycleFrom c e (modSeq t c fun q =>
        { q with phase := .atCapo (BitVec.ofNat 16 (wfld w 47 32)) (wbit w 48) (BitVec.ofNat 11 (wfld w 59 49)) })) ∧
    (Issues .end_ c w e s → (getCore t d).seq.phase ≠ .ended →
      exec (.ctrlEnd c w e) s = cycleFrom c e (modSeq t c fun q => { q with phase := .ended }))) ∧
  (∀ (c : CoreId) (w : CmdWord) (e : IssueEnv) (s : State) (p : PartId) (k : Task) (j : Job),
    let t := atIssue s c e
    partOfCore t c = some p → (getPart t p).task = some k → findJob (getPart t p) k.job = some j → (getPart t p).endReq = none →
    (getCore t c).seq.asks = [] → onFailedPair t c = false → quietCore t c = true → Issues .capo c w e s → HasNext t c →
    semsInitial t (getPart t p) j = true → (∀ m ∈ (getPart t p).semNet, m.post = false) → k.committed = false →
    (∀ d ∈ partCores (getPart t p), d ≠ c → ∃ lk, (getCore t d).seq.phase = .atCapo (BitVec.ofNat 16 (wfld w 47 32)) (wbit w 48) lk) →
    ∃ u y, exec (.ctrlCapo c w e) s = cycleFrom c e u ∧ (getPart u p).task = some y ∧ y.lastCapo = BitVec.ofNat 16 (wfld w 47 32) ∧
      y.committed = wbit w 48 ∧ y.lastMeet = t.time ∧ (getCore u c).seq.phase = .running ∧ (getCore u c).seq.pc = (getCore t c).seq.pc + 1 ∧
      (getCore u c).seq.next = (getCore t c).seq.cycle + 20)

/-- What the act of a core's command leaves alone, CAPO and END apart: memory, every other core, streams, models, functions, fuses and power, and of
its own core all but the sequencer and the rings; a queued command takes effect in later cycles. On a core with nothing under way, a command of
the sequencer leaves them alone to the end of its cycle. -/
def Obligations.CoreCommandsFrame : Prop :=
  ∀ (c : CoreId) (w : CmdWord) (e : IssueEnv) (i : Instr) (s u : State), exec i s = .next u →
    let seq_ : List Instr := [.ctrlNop c w e, .ctrlLi c w e, .ctrlAlu c w e, .ctrlBr c w e, .ctrlLoop c w e, .ctrlRdsys c w e,
      .syncPost c w e, .syncWait c w e, .syncTry c w e, .ringSet c w e, .ringPush c w e, .ringPop c w e, .ringHead c w e, .ringTail c w e, .ringOcc c w e]
    let t := atIssue s c e
    ((i ∈ seq_ ∨ i ∈ [.ctrlLd c w e, .ctrlSt c w e, .ctrlDwait c w e, .configCoreControl c w e, .configBowSites c w e] ∨
        ∃ row kind, queuedOf i = some (row, kind, c, w, e)) →
      u = s ∨ ∃ v, u = endCycle e.run v c ∧ SameElsewhere t v c ∧ (∀ a, Memory.rd v.mem a = Memory.rd t.mem a) ∧
        (getCore v c).eng = { (getCore t c).eng with rings := (getCore v c).eng.rings } ∧ (getCore v c).spTask = (getCore t c).spTask ∧
        (getCore v c).stImage = (getCore t c).stImage ∧ (getCore v c).drone = (getCore t c).drone) ∧
    (i ∈ seq_ → atRest (getCore s c).seq = true → (getCore s c).seq.due = none →
      SameElsewhere s u c ∧ (∀ a, Memory.rd u.mem a = Memory.rd s.mem a) ∧
      (Settled s c → ∀ a, Memory.rd (getCore u c).eng.sp a = Memory.rd (getCore s c).eng.sp a) ∧
      (getCore u c).eng.acc = (getCore s c).eng.acc ∧ (getCore u c).spTask = (getCore s c).spTask)

/-- POST and TRY send their message and go on or wait for the answer; WAIT of 0 completes at once, and any other sends its message
and waits (R80, R81, Table 4-8). -/
def Obligations.SyncCommandsComplete : Prop :=
  ∀ (c : CoreId) (w : CmdWord) (e : IssueEnv) (s : State) (p : PartId),
    let t := atIssue s c e
    HasNext t c → partOfCore t c = some p →
    let i : BitVec 6 := BitVec.ofNat 6 (wfld w 37 32)
    let n : BitVec 16 := BitVec.ofNat 16 (wfld w 63 48)
    let send (post : Bool) : State := modPart t p fun x => { x with semNet := x.semNet ++ [⟨c, clockOf t c, pcOf t c, i, n, post⟩] }
    (Issues .post c w e s → exec (.syncPost c w e) s = cycleFrom c e (onward (send true) c)) ∧
    (Issues .wait c w e s → n = 0 → exec (.syncWait c w e) s = cycleFrom c e (onward t c)) ∧
    (Issues .wait c w e s → n ≠ 0 →
      exec (.syncWait c w e) s = cycleFrom c e (modSeq (send false) c fun q => { q with phase := .waitSem i n t.time })) ∧
    (Issues .try_ c w e s →
      exec (.syncTry c w e) s = cycleFrom c e (modSeq (send false) c fun q => { q with phase := .trySem i n (BitVec.ofNat 5 (wfld w 44 40)) }))

/-- A POST that arrives alone adds its n; above 65,535 it is not applied, and SEM_OVERFLOW reaches its core 19 cycles after its issue (R80, R81). A WAIT
or TRY that can be satisfied subtracts its n and its core goes on, 20 cycles after its issue; a TRY that cannot be writes 0, a WAIT that cannot be
stays (R81, Tables 4-8, 4-9). -/
def Obligations.SemaphoreBlockCycles : Prop :=
  (∀ (s : State) (p : PartId) (m : SemMsg), devRuns s = true → (getPart s p).task.isSome = true → m.core ∈ partCores (getPart s p) →
    (getPart s p).semNet = [m] → (getPart s p).semWait = [] → m.post = true →
    let v := (tget 0 (getPart s p).sems m.i.toNat).toNat
    ∃ t, exec (.semBlockCycle p [m.core]) s = .next t ∧ (getPart t p).semNet = [] ∧ t.mem = s.mem ∧
      (v + m.n.toNat ≤ 65535 → (tget 0 (getPart t p).sems m.i.toNat).toNat = v + m.n.toNat ∧ t.cores = s.cores) ∧
      (65535 < v + m.n.toNat → (getPart t p).sems = (getPart s p).sems ∧
        ((getCore s m.core).seq.due = none → (getCore t m.core).seq.due = some (m.cycle + 19, cSEM_OVERFLOW, m.pc))) ∧
      (∀ i, i ≠ m.i.toNat → tget 0 (getPart t p).sems i = tget 0 (getPart s p).sems i)) ∧
  (∀ (s : State) (p : PartId) (m : SemMsg), devRuns s = true → (getPart s p).task.isSome = true → m.core ∈ partCores (getPart s p) →
    (getPart s p).semNet = [] → (getPart s p).semWait = [m] → m.post = false → HasNext s m.core →
    let v := (tget 0 (getPart s p).sems m.i.toNat).toNat
    let q := (getCore s m.core).seq
    ∃ t, exec (.semBlockCycle p []) s = .next t ∧
      (m.n.toNat ≤ v → (tget 0 (getPart t p).sems m.i.toNat).toNat = v - m.n.toNat ∧ (getPart t p).semWait = []) ∧
      (v < m.n.toNat → (getPart t p).sems = (getPart s p).sems) ∧
      (∀ t0, q.phase = .waitSem m.i m.n t0 →
        (m.n.toNat ≤ v → (getCore t m.core).seq.phase = .running ∧ (getCore t m.core).seq.pc = q.pc + 1 ∧ (getCore t m.core).seq.next = m.cycle + 20) ∧
        (v < m.n.toNat → (getPart t p).semWait = [m] ∧ t.cores = s.cores)) ∧
      (∀ d, q.phase = .trySem m.i m.n d →
        (getCore t m.core).seq.phase = .running ∧ (getCore t m.core).seq.pc = q.pc + 1 ∧ (getCore t m.core).seq.next = m.cycle + 20 ∧
        (d ≠ 0 → sOf t m.core d.toNat = if m.n.toNat ≤ v then 1 else 0))) ∧
  (∀ (s : State) (c : CoreId) (n : Nat) (cause : BitVec 8) (pc : BitVec 13), (taskOfCore s c).isSome = true →
    (getCore s c).seq.due = some (n, cause, pc) →
    (n ≤ clockOf s c → (getCore (errorDue s c) c).seq.phase = .stopped cause pc ∧ (getCore (errorDue s c) c).seq.due = none) ∧
    (clockOf s c < n → errorDue s c = s))

/-- Time limits, decisions and summary space: WAIT and ASK that have waited their limit stop the core with SYNC_TIMEOUT and
DECISION_TIMEOUT; a decision goes into its ASK's buffer; freed bytes leave the ring, from the oldest on (R82, R84, R85). -/
def Obligations.TimeLimitsAndDecisions : Prop :=
  ∀ (c : CoreId) (s : State), devRuns s = true →
    (∀ i n t0 dt, (getCore s c).seq.phase = .waitSem i n t0 →
      (getCore s c).seq.syncTimeout.toNat ≤ (s.time + BitVec.ofNat 64 dt - t0).toNat →
      ∃ t, exec (.syncTimeout c dt) s = .next t ∧ (getCore t c).seq.phase = .stopped cSYNC_TIMEOUT (getCore s c).seq.pc) ∧
    (∀ a dt, (getCore s c).seq.asks.find? (fun x => decide (x.tag = a.tag) && x.decision.isNone) = some a →
      (getCore s c).seq.decisionTimeout.toNat ≤ (s.time + BitVec.ofNat 64 dt - a.issued).toNat →
      ∃ t, exec (.decisionTimeout c a.tag dt) s = .next t ∧ (getCore t c).seq.phase = .stopped cDECISION_TIMEOUT (getCore s c).seq.pc) ∧
    (∀ a bytes gap run, rtRuns s = true → a ∈ (getCore s c).seq.asks → a.decision = none → bytes.length ≤ a.dlen →
      (∀ b ∈ (getCore s c).seq.asks, b.tag = a.tag → b = a) → askDelivered s c a.tag = true →
      ∃ t, exec (.decisionArrival ⟨c, gap, run⟩ a.tag bytes) s = .next t ∧
        (getCore t c).seq.asks = (getCore (runFor run s c gap) c).seq.asks.map fun b => if b.tag = a.tag then { b with decision := some bytes } else b) ∧
    (∀ p bytes runs, rtRuns s = true →
      ∃ t, exec (.summaryRingFreed p bytes runs) s = .next t ∧
        (getPart t p).sumRing = ((getPart (runCores p runs s) p).sumRing).drop bytes ∧ t.mem = (runCores p runs s).mem)

/-- RING (Table 5-8): SET configures, PUSH and POP move a counter and give the slot's address, HEAD, TAIL and OCC read; the errors of R115, each with
nothing else changed. -/
def Obligations.RingCommandsAndErrors : Prop :=
  (∀ (c : CoreId) (w : CmdWord) (e : IssueEnv) (s : State),
    let t := atIssue s c e
    HasNext t c →
    let k := wfld w 35 32
    let d := wfld w 40 36
    let n := wfld w 54 41
    let r := tget .reset (getCore t c).eng.rings k
    let put (r : RingRec) : State := modEng t c fun x => { x with rings := tput .reset x.rings k r }
    let slot (v : BitVec 18) : W64 := BitVec.ofNat 64 (r.base.toNat * 64 + v.toNat % r.size.toNat * 64)
    let occ := (r.head - r.tail).toNat
    (Issues .ringSet c w e s →
      let base := idxVal (getCore t c).seq.sregs w 64
      base % 64 = 0 → 0 < n → base + 64 * n ≤ (getCore t c).spTask.bound.toNat * 4096 →
      exec (.ringSet c w e) s = cycleFrom c e (onward (put ⟨BitVec.ofNat 14 (base / 64), BitVec.ofNat 14 n, 0, 0⟩) c)) ∧
    (Issues .ringPush c w e s → r.size ≠ 0 → occ + n ≤ r.size.toNat → r.head.toNat % r.size.toNat + n ≤ r.size.toNat →
      exec (.ringPush c w e) s = cycleFrom c e (onward (putS (put { r with head := r.head + BitVec.ofNat 18 n }) c d (slot r.head)) c)) ∧
    (Issues .ringPop c w e s → r.size ≠ 0 → n ≤ occ → r.tail.toNat % r.size.toNat + n ≤ r.size.toNat →
      exec (.ringPop c w e) s = cycleFrom c e (onward (putS (put { r with tail := r.tail + BitVec.ofNat 18 n }) c d (slot r.tail)) c)) ∧
    (Issues .ringHead c w e s → r.size ≠ 0 → exec (.ringHead c w e) s = cycleFrom c e (onward (putS t c d (slot r.head)) c)) ∧
    (Issues .ringTail c w e s → r.size ≠ 0 → exec (.ringTail c w e) s = cycleFrom c e (onward (putS t c d (slot r.tail)) c)) ∧
    (Issues .ringOcc c w e s → r.size ≠ 0 → exec (.ringOcc c w e) s = cycleFrom c e (onward (putS t c d (BitVec.ofNat 64 occ)) c))) ∧
  (∀ (c : CoreId) (w : CmdWord) (e : IssueEnv) (s : State),
    let t := atIssue s c e
    let n := wfld w 54 41
    let r := tget .reset (getCore t c).eng.rings (wfld w 35 32)
    let base := idxVal (getCore t c).seq.sregs w 64
    let occ := (r.head - r.tail).toNat
    let raised (cause : BitVec 8) : Host.Outcome State Fault Refusal := cycleFrom c e (raiseTask t c cause (pcOf t c))
    (Issues .ringSet c w e s →
      (base % 64 ≠ 0 → exec (.ringSet c w e) s = raised cALIGN) ∧
      (base % 64 = 0 → n = 0 → exec (.ringSet c w e) s = raised cRING_CONFIG) ∧
      (base % 64 = 0 → 0 < n → (getCore t c).spTask.bound.toNat * 4096 < base + 64 * n → exec (.ringSet c w e) s = raised cBOUND)) ∧
    (r.size = 0 → (Issues .ringPush c w e s → exec (.ringPush c w e) s = raised cRING_CONFIG) ∧
      (Issues .ringPop c w e s → exec (.ringPop c w e) s = raised cRING_CONFIG) ∧
      (Issues .ringHead c w e s → exec (.ringHead c w e) s = raised cRING_CONFIG) ∧
      (Issues .ringTail c w e s → exec (.ringTail c w e) s = raised cRING_CONFIG) ∧
      (Issues .ringOcc c w e s → exec (.ringOcc c w e) s = raised cRING_CONFIG)) ∧
    (r.size ≠ 0 → Issues .ringPush c w e s →
      (r.size.toNat < occ + n → exec (.ringPush c w e) s = raised cRING_OVERFLOW) ∧
      (occ + n ≤ r.size.toNat → r.size.toNat < r.head.toNat % r.size.toNat + n → exec (.ringPush c w e) s = raised cRING_SPLIT)) ∧
    (r.size ≠ 0 → Issues .ringPop c w e s →
      (occ < n → exec (.ringPop c w e) s = raised cRING_UNDERFLOW) ∧
      (n ≤ occ → r.size.toNat < r.tail.toNat % r.size.toNat + n → exec (.ringPop c w e) s = raised cRING_SPLIT)))

/-! ### Queued commands (04, 06 to 09, 11) -/

/-- A queued command whose queue holds eight that have not started stays at issue (R70). A malformed word that reaches issue raises ILLEGAL_COMMAND
and does nothing else (R72), a word of no row under every queued row's name. -/
def Obligations.MalformedRaisesAndFullQueueStalls : Prop :=
  ∀ (i : Instr) (row : CmdRow) (kind : QKind) (c : CoreId) (w : CmdWord) (e : IssueEnv) (s : State), queuedOf i = some (row, kind, c, w, e) →
    let t := atIssue s c e
    (Issues row c w e s → unstarted (getQ (getCore t c).seq (queueOf kind)) = 8 → exec i s = .next s) ∧
    (mayIssue (reached s c e) c w = true →
      (rowOfWord w = none ∨ (rowOfWord w = some row ∧ malformed row (getCore t c).seq.sregs w = true)) →
      exec i s = cycleFrom c e (raiseTask t c cILLEGAL (pcOf t c)))

/-- Every queued command whose queue has a free entry enters it, last, as captured at issue, and the sequencer goes on (R70, R73; SUMMARY ASK has its
own statement). The first command of a queue that has not started starts as soon as it may: an error of its checks ends it, and it completes at once,
or runs, as its start says (R70). -/
def Obligations.QueuedCommandsEnterTheirQueue : Prop :=
  (∀ (i : Instr) (row : CmdRow) (kind : QKind) (c : CoreId) (w : CmdWord) (e : IssueEnv) (s : State),
    let t := atIssue s c e
    queuedOf i = some (row, kind, c, w, e) → kind ≠ .summaryAsk → Issues row c w e s → HasNext t c →
    unstarted (getQ (getCore t c).seq (queueOf kind)) < 8 →
    exec i s = cycleFrom c e (onward (modSeq t c fun q =>
      setQ { q with issued := q.issued + 1 } (queueOf kind) (getQ q (queueOf kind) ++ [entryOf t c kind w])) c)) ∧
  (∀ (c : CoreId) (s : State) (q : QEntry), OnlyEntry s c q → q.started = false → queueOf q.kind ≠ .sq →
    (∀ d tag, (getCore s c).seq.phase ≠ .dwait d tag) →
    let v := countStall s c
    (∀ u, startOf v c q = .done u → starts s c = dropEntry u c (queueOf q.kind) q.n) ∧
    (∀ u p, startOf v c q = .run u p → starts s c = modEntry u c (queueOf q.kind) q.n fun _ => p) ∧
    (startOf v c q = .wait → starts s c = v) ∧
    (∀ cause addr, startOf v c q = .fail cause addr false →
      starts s c = raiseTaskAt (dropEntry v c (queueOf q.kind) q.n) c cause q.pc addr 0))

/-- SUMMARY: an ASK is outstanding from its issue, an equal tag raises TAG and a fifth ASK ASK_LIMIT; with room in the ring the command runs with the
header of Table 4-10, and what it has read follows the header in the ring when it completes (R83 to R85). That TAG comes first where both hold is the
model's choice (log 110). -/
def Obligations.SummariesAreDelivered : Prop :=
  (∀ (c : CoreId) (w : CmdWord) (e : IssueEnv) (s : State), Issues .ask c w e s →
    let t := atIssue s c e
    let asks := (getCore t c).seq.asks
    let tag : BitVec 16 := BitVec.ofNat 16 (wfld w 77 62)
    let v := modSeq t c fun q => { q with asks := q.asks ++ [⟨tag, t.time, BitVec.ofNat 20 (wfld w 97 78), wfld w 104 98 * 64, none⟩] }
    unstarted (getCore t c).seq.dmaQ < 8 →
    ((∀ a ∈ asks, a.tag ≠ tag) → asks.length < 4 → HasNext t c →
      exec (.summaryAsk c w e) s = cycleFrom c e (onward (modSeq v c fun q =>
        setQ { q with issued := q.issued + 1 } .dma (q.dmaQ ++ [entryOf v c .summaryAsk w])) c)) ∧
    ((∃ a ∈ asks, a.tag = tag) → exec (.summaryAsk c w e) s = cycleFrom c e (raiseTask t c cTAG (pcOf t c))) ∧
    ((∀ a ∈ asks, a.tag ≠ tag) → 4 ≤ asks.length → exec (.summaryAsk c w e) s = cycleFrom c e (raiseTask t c cASK_LIMIT (pcOf t c)))) ∧
  (∀ (c : CoreId) (s : State) (q : QEntry) (p : PartId) (k : Task), partOfCore s c = some p → (getPart s p).task = some k →
    let x := getPart s p
    let n := wfld q.w 61 52 * 16
    let ask := decide (q.kind = .summaryAsk)
    (q.kind = .summarySend ∨ q.kind = .summaryAsk) →
    (0 < n ∨ q.kind = .summaryAsk) → dmaMayStart (getCore s c) q = true →
    rangeErr (getCore s c).spTask ⟨false, idxVal q.regs q.w 32, n⟩ = none →
    (131072 < x.sumRing.length + x.sumDue + 16 + n → startOf s c q = .wait) ∧
    (x.sumRing.length + x.sumDue + 16 + n ≤ 131072 → ∃ u r, startOf s c q = .run u r ∧ u.mem = s.mem ∧ r.started = true ∧ r.n = q.n ∧
      (getPart u p).sumDue = x.sumDue + 16 + n ∧ (getPart u p).sumRing = x.sumRing ∧
      (let h := leNat (capOf r keyBlock)
       (capOf r keyBlock).length = 16 ∧ (coreIndex x c < 128 → nfld h 6 0 = coreIndex x c) ∧ h.testBit 7 = ask ∧ nfld h 12 8 = p.toNat ∧
         nfld h 31 16 = wfld q.w 77 62 ∧ nfld h 47 32 = k.lastCapo.toNat ∧ nfld h 57 48 = wfld q.w 61 52 ∧ nfld h 127 64 = s.time.toNat))) ∧
  (∀ (c : CoreId) (s : State) (q : QEntry) (p : PartId), partOfCore s c = some p → (q.kind = .summarySend ∨ q.kind = .summaryAsk) →
    let b := (List.range (cdiv (wfld q.w 61 52 * 16) 128)).flatMap fun j => capOf q (keyPiece j)
    0 < wfld q.w 61 52 →
    (getPart (endEntry s c q) p).sumRing = (getPart s p).sumRing ++ capOf q keyBlock ++ b ∧ (endEntry s c q).mem = s.mem ∧
      (endEntry s c q).cores = s.cores)

/-- DMA without coding on this device: a command that passes its checks runs, one of length 0 completes at its start, and each of its units moves 128
bytes of a row at most, from memory to the scratchpad (LOAD), the other way (STORE), within memory (COPY), or zeros (ZERO); nothing else is
written (R86 to R89). -/
def Obligations.DmaCommandsMoveRows : Prop :=
  ∀ (c : CoreId) (s : State) (q : QEntry), q.kind ∈ [.dmaLoad, .dmaStore, .dmaCopy, .dmaZero] → dmaCz q.w = 0 →
    let x := getCore s c
    (dmaMayStart x q = true → (∀ d ∈ dmaSides q, gaBad d.value = false) →
      (dmaLen q.w = 0 → startOf s c q = .done s) ∧
      (0 < dmaLen q.w → (∀ d ∈ dmaSides q, isRemote s d = false) → dmaErr s c q = none →
        ∃ r, startOf s c q = .run s r ∧ r.started = true ∧ r.w = q.w ∧ r.regs = q.regs ∧ r.uRow = q.uRow ∧ r.uIdx = q.uIdx)) ∧
    ((∀ d ∈ dmaSides q, isRemote s d = false) → OnlyEntry s c q → q.started = true → q.lost = [] → q.zeros = [] → q.supp = [] → q.cap = [] →
      q.gslot = none → q.remoteReads = 0 → q.uRow < dmaRows q.w → q.uIdx < cdiv (dmaLen q.w) 128 →
      let r := q.uRow
      let j := q.uIdx
      let n := min 128 (dmaLen q.w - 128 * j)
      let ga (f : Nat) := gaLocal (sregT q.regs f) + r * (wfld q.w 110 95 * 16) + 128 * j
      let ra := ga (wfld q.w 36 32)
      let rb := ga (wfld q.w 41 37)
      let spa := idxVal q.regs q.w 42 + r * (cdiv (dmaLen q.w) 64 * 64) + 128 * j
      let u := moveUnit s c q
      (∃ e, getQ (getCore u c).seq .dma = [e] ∧ e.n = q.n ∧ e.started = true ∧
        e.uRow * cdiv (dmaLen q.w) 128 + e.uIdx = r * cdiv (dmaLen q.w) 128 + j + 1) ∧
      (∀ d, d ≠ c → getCore u d = getCore s d) ∧
      (q.kind = .dmaLoad → u.mem = s.mem ∧
        (getCore u c).eng = { x.eng with sp := Memory.wrList x.eng.sp (spWrites x spa (devRead s ra n)) }) ∧
      (q.kind = .dmaStore → u.mem = devWritten s ra (spRead x [] spa n) ∧ (getCore u c).eng = x.eng) ∧
      (q.kind = .dmaCopy → u.mem = devWritten s rb (devRead s ra n) ∧ (getCore u c).eng = x.eng) ∧
      (q.kind = .dmaZero → u.mem = devWritten s ra (List.replicate n 0) ∧ (getCore u c).eng = x.eng))

/-- Completions: the clock of a core runs past the completion of a command with a timing of its own; a memory command at the head of its queue, alone and
with nothing left to move, leaves its queue, and nothing else changes (R70, R89). A tile is usable, a table in its slot, when its command completes
(R130, R133, R140). A DRAINING shadow slot becomes EMPTY (R130, R131; what its fields then read is the model's choice, log 113). -/
def Obligations.CompletionsTakeEffect : Prop :=
  (∀ (c : CoreId) (s : State) (run : RunEnv) (q : QEntry) (n : Nat), devRuns s = true → q.endAt = some n →
    (runningHead s c .mx = some q → isAdrain q.kind = false → exec (.matmulComplete ⟨c, run⟩) s = .next (runTo run s c (n + 1))) ∧
    (runningHead s c .wl = some q → exec (.wloadComplete ⟨c, run⟩) s = .next (runTo run s c (n + 1))) ∧
    (runningHead s c .vx = some q → exec (.vchainComplete ⟨c, run⟩) s = .next (runTo run s c (n + 1))) ∧
    (runningHead s c .dma = some q → byMemory q.kind = false → exec (.dmaComplete ⟨c, 0, run⟩) s = .next (runTo run s c (n + 1)))) ∧
  (∀ (c : CoreId) (s : State) (run : RunEnv) (q : QEntry), devRuns s = true → OnlyEntry s c q → q.started = true → byMemory q.kind = true →
    q.kind ≠ .summarySend → q.kind ≠ .summaryAsk → (shapeOf q).1 ≤ q.uRow → q.remoteReads = 0 → framesWaiting s c q.n = false →
    let took (i : Instr) : Prop := ∃ t, exec i s = .next t ∧ IdleQueues t c ∧ t.mem = s.mem ∧ (getCore t c).eng = (getCore s c).eng ∧
      ∀ d, d ≠ c → getCore t d = getCore s d
    (isAdrain q.kind = true → took (.adrainComplete ⟨c, 0, run⟩)) ∧
    (queueOf q.kind = .dma → entryFailed s c q.n = false → took (.dmaComplete ⟨c, 0, run⟩))) ∧
  (∀ (c : CoreId) (s : State) (q : QEntry),
    let x := getCore s c
    let u := completeEntry s c (queueOf q.kind) q
    let b := capAll q (wfld q.w 71 60 * 64) 512
    let slot := wfld q.w 59 52
    (∀ k, getQ (getCore u c).seq k = if k = queueOf q.kind then (getQ x.seq k).filter (fun e => decide (e.n ≠ q.n)) else getQ x.seq k) ∧
    (q.kind = .wload → (getCore u c).eng =
      { x.eng with mx := applyTile x.eng.mx (BitVec.ofNat 2 (wfld q.w 53 52)) (BitVec.ofNat 8 (wfld q.w 61 54)) (capAll q (wlBytes q) 512) }) ∧
    (q.kind = .cfgFret → (getCore u c).eng = { x.eng with fret := tputs 0 x.eng.fret (slot * 256) ((valsOf 3 b).map (BitVec.ofNat 24)) }) ∧
    (q.kind = .cfgCodebook → (getCore u c).eng = { x.eng with codebooks := tputs 0 x.eng.codebooks (slot * 16) ((valsOf 2 b).map (BitVec.ofNat 12)) }) ∧
    (q.kind = .cfgDecay → (getCore u c).eng = { x.eng with decay := tputs 0 x.eng.decay (slot * 256) ((valsOf 3 b).map (BitVec.ofNat 24)) })) ∧
  (∀ (c : CoreId) (s : State) (run : RunEnv), devRuns s = true → (getCore s c).eng.mx.shState = 3 →
    let n := (getCore s c).seq.drainAt
    exec (.shadowDrainEnd ⟨c, run⟩) s = .next (drainDue (runTo run s c (n + 1)) c) ∧
    (atRest (getCore s c).seq = true → (getCore s c).seq.due = none → clockOf s c ≤ n →
      let t := drainDue (runTo run s c (n + 1)) c
      clockOf t c = n + 1 ∧ t.mem = s.mem ∧ (getCore t c).eng.mx = { (getCore s c).eng.mx with shState := 0, shFmt := 0, shKrowsM1 := 0, shCodes := [] }))

/-- MATMUL with a usable tile runs, one whose tile is not raises TILE_STATE; with swap the shadow tile becomes active and the old one drains; rows are
presented one a cycle, two cycles apart with W8, and a row read becomes its exact column sums, which the accumulator stage then takes
(R127, R131, R132, R137, R146). -/
def Obligations.MatmulsRun : Prop :=
  ∀ (c : CoreId) (s : State) (q : QEntry), isMatmul q.kind = true →
    let x := getCore s c
    let m := wfld q.w 89 80 + 1
    let swap := wbit q.w 68
    let mx := if swap then swapSlots x.eng.mx else x.eng.mx
    let first := x.seq.cycle + if swap then 1 else 0
    let w8 := decide (mx.actState = 2)
    let src (i : Nat) := idxVal q.regs q.w 32 + i * wfld q.w 63 52 * 64
    let ahead := earlier x.seq.mxQ q.n
    ((∀ e ∈ ahead, isMatmul e.kind = true) → freeAt ahead ≤ x.seq.cycle →
      (tileStateErr x.eng.mx swap (wfld q.w 95 90) = true → startOf s c q = .fail cTILE_STATE none false) ∧
      (tileStateErr x.eng.mx swap (wfld q.w 95 90) = false →
        ((q.kind = .matmulDecay ∨ q.kind = .matmulRotate) → memberErr s c (wfld q.w 119 112) m = false) →
        rangesErr x.spTask (if wbit q.w 69 then [] else (List.range m).flatMap (actRanges q)) = none →
        ∃ u p, startOf s c q = .run u p ∧ u.mem = s.mem ∧ (getCore u c).eng = { x.eng with mx := mx } ∧ p.started = true ∧ p.w = q.w ∧
          p.sched.length = m ∧ p.outs.length = m ∧ p.endAt = p.outs.getLast? ∧
          (wfld q.w 65 64 = 0 → ∀ i < m, p.sched[i]? = some (first + i * if w8 then 2 else 1) ∧
            p.outs[i]? = some (first + i * (if w8 then 2 else 1) + 6 + if w8 then 273 else 272)))) ∧
    (∀ t i, wfld q.w 65 64 = 0 → wbit q.w 69 = false → q.sched[i]? = some t →
      reads q 2 0 [(src i, actRowBytes (wfld q.w 67 66))] ∈ matmulAccess x.spTask q t ∧
      (i, colSums x.eng (wfld q.w 67 66) (wfld q.w 95 90) (sxt 8 (wfld q.w 103 96)) x.eng.mx.actFmt.toNat (x.eng.mx.actKrowsM1.toNat + 1)
        (tileRows x.eng.mx.actFmt.toNat (x.eng.mx.actKrowsM1.toNat + 1) x.eng.mx.actCodes) (actElems (wfld q.w 67 66) (capOf q 0))) ∈
          (matmulRead x q t).sums) ∧
    (∀ old t i, (q.outs.zipIdx.filter fun o => decide (o.1 = t)) = [(t, i)] →
      (getCore (matmulWrite old s c q t) c).eng = accRowUpd old (rowUpdate s c q i) x.eng ∧ (matmulWrite old s c q t).mem = s.mem)

/-- A column sum of a tile that is not W8 is the sum, over its array rows, of the products that the codes select (R126 to R128). PLAIN writes a
row's sums and ACCUM adds them to the row as the cycle before left it, saturated to 40 bits; ACCUM without input changes nothing; every other
accumulator row is as before (R135, R136, R138). -/
def Obligations.ColumnSumsAndAccumulatorRows : Prop :=
  (∀ (g : Engines) (afmt tsel : Nat) (azp : Int) (fmt krows : Nat) (tile : List (List Nat)) (elems : List Nat) (n : Nat),
    fmt ≠ 3 → n < 256 → (∀ r ∈ tile, r.length = 256) →
    (colSums g afmt tsel azp fmt krows tile elems)[n]? =
      some (((tile.take krows).zip elems).map fun x => (productRow g afmt tsel azp x.2).getD (x.1.getD n 0) 0).sum) ∧
  (∀ (m : RowUpdate) (old g : Engines) (n : Nat), n < 256 → m.mode.toNat ≤ 1 →
    let s := m.sums.getD n 0
    ((m.noin = false ∨ m.mode = 0) →
      accI (accRowUpd old m g) m.row n = satn 40 (if m.mode = 0 then s else accI old m.row n + s) ∧
      ∀ r k, k < 256 → r ≠ m.row → accI (accRowUpd old m g) r k = accI g r k) ∧
    (m.noin = true → m.mode ≠ 0 → accRowUpd old m g = g))

/-- WLOAD starts once no slot drains and the array is free: its slot is LOADING, and the bytes of its tile are read 512 a cycle (R131, R133, R143). DRAIN
and FILL of granted rows on this device run; a unit of DRAIN writes 64 cells of a row to memory, one of FILL sets 64 cells from memory, and nothing
else is written (R144, R145). -/
def Obligations.WloadAndAdrainRun : Prop :=
  ∀ (c : CoreId) (s : State) (q : QEntry),
    let x := getCore s c
    (q.kind = .wload → earlier x.seq.wlQ q.n = [] → x.eng.mx.shState ≠ 3 → arrayBusy x q = false →
      let fmt := wfld q.w 53 52
      let n := tileRowBytes fmt * (wfld q.w 61 54 + 1)
      let src := idxVal q.regs q.w 32
      (∀ e, rangeErr x.spTask ⟨false, src, n⟩ = some e → startOf s c q = .fail e none false) ∧
      (rangeErr x.spTask ⟨false, src, n⟩ = none →
        ∃ u p, startOf s c q = .run u p ∧ p.started = true ∧ p.endAt = some (x.seq.cycle + cdiv n 512 + 6) ∧ u.mem = s.mem ∧
          (fmt ≠ 3 → (getCore u c).eng.mx.shState = 1 ∧
            (x.eng.mx.actState ≠ 2 → (getCore u c).eng.mx.actState = x.eng.mx.actState ∧ (getCore u c).eng.mx.actCodes = x.eng.mx.actCodes) ∧
            (x.eng.mx.actState = 2 → (getCore u c).eng.mx.actState = 0)) ∧
          (fmt = 3 → (getCore u c).eng.mx.actState = 3 ∧ (getCore u c).eng.mx.shState = 0) ∧
          ∀ j, j * 512 < n → wloadAccess p (p.startAt + j) = [reads p 3 j [(src + j * 512, min 512 (n - j * 512))]])) ∧
    (isAdrain q.kind = true →
      let fill := decide (q.kind = .adrainFill)
      let va := sregT q.regs (wfld q.w 36 32)
      let form := wfld q.w 59 57
      let wb := aformBytes form
      let sh := wfld q.w 64 60
      (earlier x.seq.mxQ q.n = [] → gaBad va = false → gaLocal va % 16 = 0 → gaDev va = s.fuses.devid.toNat →
        localErr s c (!fill) (adrainRanges q.w (gaLocal va)) = none → downErr s (adrainRanges q.w (gaLocal va)) = none →
        startOf s c q = .run s (begun s c q)) ∧
      (let row := wfld q.w 46 37 + q.uRow
       let col := 64 * (wfld q.w 66 65 + q.uIdx)
       let a := gaLocal va + q.uRow * (wfld q.w 84 69 * 16) + 64 * q.uIdx * wb
       let u := unitEffect s c q
       (q.kind = .adrainDrain → (getCore u c).eng.acc = x.eng.acc ∧ (getCore u c).eng.sp = x.eng.sp ∧
         u.mem = devWritten s a ((List.range 64).flatMap fun i => leBytes wb (drainElem form sh (accI x.eng row (col + i))).1)) ∧
       (q.kind = .adrainFill → q.lost = [] → col + 64 ≤ 256 → u.mem = s.mem ∧ (getCore u c).eng.sp = x.eng.sp ∧
         (∀ i < 64, tget 0 (getCore u c).eng.acc (row * 256 + col + i) = ofI 40 (fillElem form sh (devNat s (a + i * wb) wb)).1) ∧
         ∀ k, (k < row * 256 + col ∨ row * 256 + col + 64 ≤ k) → tget 0 (getCore u c).eng.acc k = tget 0 x.eng.acc k)))

/-- CONFIG of the core control record and of the bow sites: the sequencer reads the words and waits; a sound record then takes effect and the
next command follows (R91, R223). CONFIG of a table reads its payload and holds its slot's tables when it completes, where they are sound; a coding build
counts the payload into the pending histogram (R140, R160, R196, R248). -/
def Obligations.ConfigCommandsComplete : Prop :=
  (∀ (c : CoreId) (w : CmdWord) (e : IssueEnv) (s : State),
    let t := atIssue s c e
    let after (kind : QKind) (n : Nat) : State := modSeq (startSeq t c kind w n) c fun q => { q with next := q.cycle + n + 1 }
    rangeErr (getCore t c).spTask ⟨false, idxVal (getCore t c).seq.sregs w 32, wfld w 71 60 * 64⟩ = none →
    (Issues .cfgCtrl c w e s → exec (.configCoreControl c w e) s = cycleFrom c e (after .cfgCtrl 10)) ∧
    (Issues .cfgBow c w e s → exec (.configBowSites c w e) s = cycleFrom c e (after .cfgBow (8 * wfld w 71 60 + 2)))) ∧
  (∀ (c : CoreId) (s : State) (q : QEntry), HasNext s c → (getCore s c).seq.phase = .running →
    let x := getCore s c
    let u := endEntry s c q
    let ws := narrowWords q
    let v := (ws.getD 0 0).toNat
    (q.kind = .cfgCtrl → 100 ≤ v % 2 ^ 32 → v % 2 ^ 32 ≤ 5000000 → 100 ≤ v / 2 ^ 32 → v / 2 ^ 32 ≤ 5000000 → (∀ y ∈ ws.drop 1, y = 0) →
      (getCore u c).seq.syncTimeout.toNat = v % 2 ^ 32 ∧ (getCore u c).seq.decisionTimeout.toNat = v / 2 ^ 32 ∧
        (getCore u c).seq.pc = x.seq.pc + 1 ∧ (getCore u c).eng = x.eng ∧ SameElsewhere s u c) ∧
    (q.kind = .cfgBow → (∀ y ∈ ws, siteOk y = true) →
      (getCore u c).seq.pc = x.seq.pc + 1 ∧ SameElsewhere s u c ∧
        ∀ k, (h : k < ws.length) →
          (tget (0, 0) (getCore u c).eng.sites (wfld q.w 59 52 + k)).1.toNat = ws[k].toNat % 2 ^ 12 ∧
          (tget (0, 0) (getCore u c).eng.sites (wfld q.w 59 52 + k)).2.toNat = ws[k].toNat / 2 ^ 16 % 2 ^ 24)) ∧
  (∀ (c : CoreId) (s : State) (q : QEntry),
    let x := getCore s c
    let n := wfld q.w 71 60 * 64
    let src := idxVal q.regs q.w 32
    let mxKind := q.kind = .cfgFret ∨ q.kind = .cfgCodebook ∨ q.kind = .cfgDecay
    let cut (k : Nat) := (List.range (n / k)).map fun i => (((capAll q n 256).drop (i * k)).take k)
    let cz := wfld q.w 54 52
    (mxKind → earlier x.seq.mxQ q.n = [] → rangeErr x.spTask ⟨false, src, n⟩ = none →
      startOf s c q = .run s (timed s c q (cdiv n 512 + 6))) ∧
    ((q.kind = .cfgRescale ∨ q.kind = .cfgTbl) → earlier x.seq.vxQ q.n = [] → rangeErr x.spTask ⟨false, src, n⟩ = none →
      ∃ p, startOf s c q = .run s p ∧ p.started = true ∧ p.endAt = some (x.seq.cycle + (cdiv n 256 + 6))) ∧
    (q.kind = .cfgRescale →
      ((∀ b ∈ cut 2112, rescaleBad b = false) →
        (getCore (endEntry s c q) c).eng = { x.eng with rescale := tputs .reset x.eng.rescale (wfld q.w 59 52) ((cut 2112).map rescaleOf) }) ∧
      ((∃ b ∈ cut 2112, rescaleBad b = true) → endEntry s c q = raiseTask s c cDESC_MALFORMED q.pc)) ∧
    (q.kind = .cfgTbl →
      ((∀ b ∈ cut 576, tblBad b = false) →
        (getCore (endEntry s c q) c).eng = { x.eng with tbls := tputs .reset x.eng.tbls (wfld q.w 59 52) ((cut 576).map tblOf) }) ∧
      ((∃ b ∈ cut 576, tblBad b = true) → endEntry s c q = raiseTask s c cDESC_MALFORMED q.pc)) ∧
    (q.kind = .cfgCzLoad ∨ q.kind = .cfgCzBuild → dmaMayStart x q = true →
      ((tget .reset x.eng.czSlots cz).count ≠ 0 → startOf s c q = .wait) ∧
      ((tget .reset x.eng.czSlots cz).count = 0 →
        rangesErr x.spTask (if q.kind = .cfgCzLoad then [⟨false, src, 320⟩]
          else [⟨false, src, n⟩] ++ if wbit q.w 59 then [] else [⟨true, src + n, 320⟩]) = none →
        ∃ p, startOf s c q = .run s p ∧ p.started = true)) ∧
    (q.kind = .cfgCzLoad → let b := capAll q n 128
      (czRecordOk b = true → (getCore (endEntry s c q) c).eng = installEng x.eng (.czTable cz (slotOfRecord b))) ∧
      (czRecordOk b = false → endEntry s c q = raiseTask s c cCZ_TABLE q.pc)) ∧
    (q.kind = .cfgCzBuild → (getCore (czCompute s c q (q.startAt + czReads q)) c).eng =
      { x.eng with hist := addHist x.eng.hist (wfld q.w 58 56) (capAll q n 128) }))

/-- VCHAIN without an error runs, with its first row presented after the prologue; with VL = 0 it completes at its start; what it writes of a row lies in
the row's range, and is what its stages make of the row's operands (R149, R155, R167, R168). VDESC: LOAD of a sound descriptor fills its
slot, a malformed one raises DESC_MALFORMED; SETVL; STATS writes the slot's statistics and may clear them (R150, R151, R166). -/
def Obligations.VectorCommandsRun : Prop :=
  ∀ (c : CoreId) (s : State) (q : QEntry),
    let x := getCore s c
    let vl := x.eng.vl.toNat
    let d := descOf (dslot x (wfld q.w 35 32)).words
    let rows := wfld q.w 70 61 + 1
    (q.kind = .vchain → earlier x.seq.vxQ q.n = [] →
      (x.eng.vl = 0 → startOf s c q = .done s) ∧
      (∀ e, x.eng.vl ≠ 0 → chainErr s c q d vl rows = some e → startOf s c q = .fail e none false) ∧
      (x.eng.vl ≠ 0 → chainErr s c q d vl rows = none →
        ∃ p, startOf s c q = .run s p ∧ p.started = true ∧ p.vl = vl ∧ p.sched.length = rows ∧ p.outs.length = rows ∧
          p.sched.head? = some (x.seq.cycle + (if usesSrc d 4 then cdiv vl 64 else 0) + if usesSrc d 5 then cdiv rows 64 else 0))) ∧
    (q.kind = .vchain → d.redOp = 0 → (∀ r, (capOf q (vkey 3 r 0)).length ≤ fmtBytes d.ofmt q.vl) → 0 < q.vl → q.outs.length = rows →
      ∀ t, ∀ a ∈ chainWrites d q t, d.wen = true ∧ a.port = 4 ∧ ∃ r < rows, ∃ o b, a.data = some b ∧
        a.pieces = [(vaddr q 50 46 + r * (wfld q.w 106 95 * 64) + o, b.length)] ∧ (b ≠ [] → o + b.length ≤ fmtBytes d.ofmt q.vl)) ∧
    (∀ r, q.kind = .vchain → d.redOp = 0 → OnlyEntry s c q →
      let i := chainIn s c q d r
      let y := runRow x.eng i.1 d r
      let u := chainRow s c q r
      u.mem = s.mem ∧ (getCore u c).eng = { x.eng with descs := (getCore u c).eng.descs } ∧
        ∃ e old, getQ (getCore u c).seq .vx = [e] ∧ capOf e (vkey 3 r 0) = (rowOut d.ofmt old y.1).1) ∧
    (q.kind = .vdescLoad → earlier x.seq.vxQ q.n = [] → rangeErr x.spTask ⟨false, idxVal q.regs q.w 32, 72⟩ = none →
      ∃ p, startOf s c q = .run s p ∧ p.started = true ∧ vxAccess x p p.startAt = [reads p 5 0 [(idxVal q.regs q.w 32, 72)]]) ∧
    (q.kind = .vdescLoad → let words := (valsOf 8 (capOf q 0)).map (BitVec.ofNat 64)
      (descBad words = false → (getCore (endEntry s c q) c).eng =
        { x.eng with descs := tput .reset x.eng.descs (wfld q.w 55 52) ⟨true, words, 0, 0, 0, 0⟩ }) ∧
      (descBad words = true → endEntry s c q = raiseTask s c cDESC_MALFORMED q.pc)) ∧
    (q.kind = .vdescSetvl → let v := if wbit q.w 32 then (sregT q.regs (wfld q.w 37 33)).toNat else wfld q.w 46 38
      (v ≤ 256 → startOf s c q = .done (modEng s c fun e => { e with vl := BitVec.ofNat 9 v })) ∧
      (256 < v → startOf s c q = .fail cVL_RANGE none false)) ∧
    (q.kind = .vdescStats → earlier x.seq.vxQ q.n = [] → rangeErr x.spTask ⟨true, idxVal q.regs q.w 32, 32⟩ = none →
      ∃ p, startOf s c q = .run s p ∧ p.started = true ∧
        vxAccess x p p.startAt = [writes p 4 (idxVal q.regs q.w 32) (statsRecord (dslot x (wfld q.w 55 52)))]) ∧
    (q.kind = .vdescStats → wbit q.w 56 = true → let y := dslot (getCore (endEntry s c q) c) (wfld q.w 55 52)
      y = { dslot x (wfld q.w 55 52) with nonfinite := 0, sat := 0, conv := 0, sqerr := 0 })

/-- STATEIO without an error runs once no ADRAIN executes. A unit of LOAD sets 64 cells of its member's row, to the committed elements or to zeros; one of
SAVE writes 64 elements into the member's uncommitted generation and nowhere else; one of WREAD writes only the scratchpad, one of WWRITE only its frame's
slot (R178, R179, R181, R186, R187). -/
def Obligations.StateioCommandsRun : Prop :=
  ∀ (c : CoreId) (s : State) (q : QEntry),
    let x := getCore s c
    (adrainRuns x = false → ∀ ms,
      (q.kind = .stLoad → stCheck s c q false (·.gen) = .ok ms → ∃ p, startOf s c q = .run s p ∧ p.started = true) ∧
      (q.kind = .stSave → stCheck s c q (wbit q.w 111) (fun m => !m.gen) = .ok ms → ∃ p, startOf s c q = .run s p ∧ p.started = true)) ∧
    (adrainRuns x = false → (q.kind = .stWread ∨ q.kind = .stWwrite) →
      let write := decide (q.kind = .stWwrite)
      let nfr := wfld q.w 111 102 + 1
      let fb := wfld q.w 85 74 * 64
      let rel := sxt 10 (wfld q.w 121 112)
      let fe : Int := x.stImage.fe.toNat
      ∀ ms, stMembers s c (wfld q.w 93 86) (wfld q.w 101 94 + 1) = some ms → x.stImage.genSize ≠ 0 → x.stImage.wcap ≠ 0 →
      let frames := ms.zipIdx.flatMap fun m => (List.range nfr).map fun k => (m.1, m.2, k)
      let slots := frames.map fun y => (winSlot x q.w y.1 (winFrame x q.w y.1 y.2.2), fb)
      (∀ y ∈ frames, winSlot x q.w y.1 (winFrame x q.w y.1 y.2.2) + fb ≤ blockOf y.1 + x.stImage.blkSize.toNat * 4096) →
      rel + ((nfr - 1 : Nat) : Int) < fe → (if write then 0 ≤ rel else fe - (x.stImage.wcap.toNat : Int) ≤ rel) →
      localErr s c false (blockRanges x ms ++ slots) = none → downErr s slots = none →
      rangesErr x.spTask (frames.map fun y => ⟨!write, idxVal q.regs q.w 32 + (y.2.1 * nfr + y.2.2) * fb, fb⟩) = none →
      ∃ p, startOf s c q = .run s p ∧ p.started = true) ∧
    (∀ m, q.lost = [] → memberAt s c (wfld q.w 91 84) q.uRow = some m →
      let wd := stWidth q.w
      let row := wfld q.w 83 74 + q.uRow
      let col := stCol0 q.w + 64 * q.uIdx
      let u := unitEffect s c q
      (q.kind = .stLoad → u.mem = s.mem ∧ (getCore u c).eng.sp = x.eng.sp ∧
        (∀ i < 64, tget 0 (getCore u c).eng.acc (row * 256 + col + i) = if wbit q.w 110 || m.reset then 0
          else ofI 40 (sxt (8 * wd) (devNat s ((stRange x q m m.gen).1 + 64 * q.uIdx * wd + i * wd) wd) * (2 ^ stSh q.w : Nat))) ∧
        ∀ k, (k < row * 256 + col ∨ row * 256 + col + 64 ≤ k) → tget 0 (getCore u c).eng.acc k = tget 0 x.eng.acc k) ∧
      (q.kind = .stSave → (getCore u c).eng.acc = x.eng.acc ∧ (getCore u c).eng.sp = x.eng.sp ∧
        ∃ b, b.length = 64 * wd ∧ u.mem = devWritten s ((stRange x q m (!m.gen)).1 + 64 * q.uIdx * wd) b ∧
          (q.uIdx < (stShape q).2 → 64 * q.uIdx * wd + b.length ≤ (stRange x q m (!m.gen)).2))) ∧
    (∀ m f o n, OnlyEntry s c q → q.started = true → q.lost = [] → q.zeros = [] → q.cap = [] → q.remoteReads = 0 →
      winUnit s c q q.uRow q.uIdx = some (m, f, o, n) →
      let a := winSlot x q.w m f + o
      let u := moveUnit s c q
      let put := spWrites x (winAt q q.uRow q.uIdx) (if winLive s x m f then devRead s a n else List.replicate n 0)
      (q.kind = .stWread → u.mem = s.mem ∧ (getCore u c).eng = { x.eng with sp := Memory.wrList x.eng.sp put }) ∧
      (q.kind = .stWwrite → (getCore u c).eng = x.eng ∧ u.mem = devWritten s a (spRead x [] (winAt q q.uRow q.uIdx) n)))

/-- SPREAD and QSCAN without an error run, and present writes only to their destination: rows of SPREAD, the 128-byte record of SCAN and MERGE, and
bytes 16 and 17 of PICK's record, whose index goes to its peg register; records that do not match raise SCAN_MISMATCH
(R201 to R203, R211, R212). -/
def Obligations.SpreadAndQscanRun : Prop :=
  ∀ (c : CoreId) (s : State) (q : QEntry),
    let x := getCore s c
    let vl := x.eng.vl.toNat
    let src := idxVal q.regs q.w 32
    let runs : Prop := ∃ p, startOf s c q = .run s p ∧ p.started = true ∧ p.vl = vl ∧ p.w = q.w
    let fmt (b : Nat) := if wbit q.w b then 1 else 0
    earlier x.seq.vxQ q.n = [] →
    ((q.kind = .spreadFwd ∨ q.kind = .spreadInv) →
      let rows := wfld q.w 104 95 + 1
      let pitch := wfld q.w 116 105 * 64
      let dst := wfld q.w 71 52
      let b := match wfld q.w 93 92 with | 0 => 4 | 1 => 6 | _ => 8
      (vl = 0 → startOf s c q = .done s) ∧
      (0 < vl → vl % 2 ^ b ≠ 0 → startOf s c q = .fail cSPREAD_SHAPE none false) ∧
      (0 < vl → vl % 2 ^ b = 0 →
        rangesErr x.spTask ((List.range rows).map (fun r => ⟨false, src + r * pitch, fmtBytes (fmt 94) vl⟩) ++
          [⟨false, wfld q.w 91 72, 32⟩] ++ (List.range rows).map (fun r => ⟨true, dst + r * pitch, 4 * vl⟩)) = none → runs) ∧
      (0 < q.vl → (∀ r, (capOf q (vkey 3 r 0)).length ≤ 4 * q.vl) → ∀ t, ∀ a ∈ spreadAccess q t, ∀ y, a.data = some y →
        ∃ r < rows, ∃ o, a.pieces = [(dst + r * pitch + o, y.length)] ∧ (y ≠ [] → o + y.length ≤ 4 * q.vl))) ∧
    (q.kind = .scan →
      (wbit q.w 52 = false →
        rangesErr x.spTask ((List.range (wfld q.w 78 69 + 1)).map (fun r => ⟨false, src + r * (wfld q.w 90 79 * 64), fmtBytes (fmt 53) vl⟩) ++
          [⟨true, wfld q.w 110 91, 128⟩]) = none → runs) ∧
      (wbit q.w 52 = true → (vl = 0 ∨ src + wfld q.w 78 69 ≤ 1023) → rangeErr x.spTask ⟨true, wfld q.w 110 91, 128⟩ = none → runs) ∧
      (wbit q.w 52 = true → vl ≠ 0 → 1023 < src + wfld q.w 78 69 → startOf s c q = .fail cACC_RANGE none false) ∧
      ∀ t, ∀ a ∈ scanAccess q t, ∀ y, a.data = some y → y = capOf q (vkey 4 0 0) ∧ a.pieces = [(wfld q.w 110 91, y.length)]) ∧
    (q.kind = .merge →
      (rangesErr x.spTask [⟨false, src, 128 * (wfld q.w 58 52 + 1)⟩, ⟨true, wfld q.w 78 59, 128⟩] = none → runs) ∧
      (∀ t, ∀ a ∈ mergeAccess q t, ∀ y, a.data = some y → y = capOf q (vkey 4 0 0) ∧ a.pieces = [(wfld q.w 78 59, y.length)]) ∧
      (∀ r rest, mergeRecs q = r :: rest → (∃ y ∈ rest, sameHeader r y = false) →
        vxCompute s c q (mergeOut q) = raiseTask s c cSCAN_MISMATCH q.pc)) ∧
    (q.kind = .pick →
      (rangesErr x.spTask [⟨false, src, 128⟩, ⟨true, src, 128⟩] = none → runs) ∧
      (let r := scanOf (capOf q 0)
       let k : BitVec 8 := ofI 8 (pickIndex r (tget .reset x.eng.rescale r.rslot) (wbit q.w 58))
       let t := q.startAt + 22
       tget 0 (getCore (vxCompute s c q t) c).eng.peg (wfld q.w 57 52) = k ∧
         vxAccess x q t = [writes q 4 (src + 16) [k, (capOf q 0).getD 17 0 ||| 1]]))

/-! ### Registers, windows, mailbox (05, 08, 14) -/

/-- ST_IMAGE of a core with no task running: a value whose fields are all 0 or meet R177's list is taken; any other keeps the old value and
sets cfg_rej (Table 8-5, R177). -/
def Obligations.StImageIsTaken : Prop :=
  ∀ (c : CoreId) (v : W64) (s : State), rtRuns s = true → taskRuns s c = false →
    let x := getCore s c
    let gen := v.toNat % 2 ^ 20
    let fe := v.toNat / 2 ^ 20 % 2 ^ 7
    let wcap := v.toNat / 2 ^ 27 % 2 ^ 12
    let blk := v.toNat / 2 ^ 39 % 2 ^ 24
    let sound : Prop := (gen = 0 ∧ fe = 0 ∧ wcap = 0 ∧ blk = 0) ∨
      (1 ≤ gen ∧ 1 ≤ fe ∧ fe ≤ 64 ∧ (wcap = 0 ∨ fe ≤ wcap ∧ wcap ≤ min 4095 (65 * fe)) ∧ 2 * gen ≤ blk ∧ (wcap ≠ 0 → 2 * gen < blk))
    ∃ t, exec (.stImageWrite c v) s = .next t ∧ SameElsewhere s t c ∧ (∃ r, getCore t c = { x with stImage := r }) ∧
      (sound → let r := (getCore t c).stImage
        r.genSize.toNat = gen ∧ r.fe.toNat = fe ∧ r.wcap.toNat = wcap ∧ r.blkSize.toNat = blk ∧ r.cfgRej = (x.stImage.cfgRej && !v.getLsbD 63)) ∧
      (¬sound → (getCore t c).stImage = { x.stImage with cfgRej := true })

/-- The drone region begins at 0x10_0000 − 0x2_0000 × groups; SP_DRONE changes only where no task runs (a task at a meet does not) and the
constraints of R111 stay satisfied, and a group newly marked or unmarked reads as zeros then (R117). -/
def Obligations.DroneRegionIsMarked : Prop :=
  (∀ groups : BitVec 2, groups ≠ 3 → droneStart groups.toNat = 0x100000 - 0x20000 * groups.toNat) ∧
  ∀ (c : CoreId) (g : BitVec 2) (s : State), devRuns s = true →
    let x := getCore s c
    let begin : Nat := 0x100000 - 0x20000 * g.toNat
    let r := x.spTask
    let lo := r.dbase.toNat * 4096
    let hi := (r.dbase.toNat + r.dsize.toNat) * 4096
    let holds : Prop := r.baseGrp.toNat * 0x20000 + r.bound.toNat * 4096 ≤ begin ∧ r.bound.toNat * 4096 + r.dsize.toNat * 4096 ≤ 0x100000 ∧
      (r.dsize = 0 ∨ begin ≤ lo ∧ hi ≤ 0x100000 ∧ lo / 0x20000 = (hi - 1) / 0x20000)
    let running : Prop := ∃ p, partOfCore s c = some p ∧ (getPart s p).task.isSome = true ∧ (getPart s p).atMeet = false
    (g ≠ 3 → ¬running → holds →
      ∃ t, exec (.droneMark c g) s = .next t ∧ (getCore t c).drone = g ∧ (getCore t c).spTask = r ∧ SameElsewhere s t c ∧
        ∀ a, a < 0x100000 → Memory.rd (getCore t c).eng.sp a =
          if (decide (0x100000 - 0x20000 * x.drone.toNat ≤ a) != decide (begin ≤ a)) then 0 else Memory.rd x.eng.sp a) ∧
    (g = 3 ∨ running ∨ ¬holds → ∃ t, exec (.droneMark c g) s = .next t ∧ t.cores = s.cores ∧ t.mem = s.mem ∧ t.parts = s.parts)

/-- The translation of a task-relative address (R112), and the check of a range: in bounds on either side, no write to the drone
window, no crossing. -/
def Obligations.AddressesTranslate : Prop :=
  ∀ (r : SpTask) (t : Nat),
    let top := r.bound.toNat * 4096
    let bot := 0x100000 - r.dsize.toNat * 4096
    (t < top → xlat r t = some (r.baseGrp.toNat * 0x20000 + t)) ∧
    (top ≤ t → bot ≤ t → t < 0x100000 → xlat r t = some (r.dbase.toNat * 4096 + (t - bot))) ∧
    (top ≤ t → t < bot → xlat r t = none) ∧ (top ≤ t → 0x100000 ≤ t → xlat r t = none) ∧
    ∀ (w : Bool) (n : Nat), 0 < n →
      (t + n ≤ top → rangeErr r ⟨w, t, n⟩ = none) ∧
      (top < t + n → bot ≤ t → t + n ≤ 0x100000 → rangeErr r ⟨w, t, n⟩ = if w then some cDRONE_WRITE else none) ∧
      (top < t + n → (t < bot ∨ 0x100000 < t + n) → rangeErr r ⟨w, t, n⟩ = some cBOUND)

/-- SP_TASK of a core with no task running: a value that R111 admits is taken, any other keeps the old value and sets cfg_rej (Table 5-6). A
firmware window access acts at once with no task running, and waits while one runs (R119); a row corrected in a read is counted (R121). -/
def Obligations.SpTaskAndWindowAccessesComplete : Prop :=
  (∀ (c : CoreId) (v : W64) (s : State), rtRuns s = true → taskRuns s c = false →
    let x := getCore s c
    ∃ t, exec (.spTaskWrite c v) s = .next t ∧ SameElsewhere s t c ∧
      (spTaskOk x.drone.toNat (spTaskOf v) = true →
        getCore t c = { x with spTask := { spTaskOf v with cfgRej := x.spTask.cfgRej && !v.getLsbD 63 } }) ∧
      (spTaskOk x.drone.toNat (spTaskOf v) = false → getCore t c = { x with spTask := { x.spTask with cfgRej := true } })) ∧
  ∀ (c : CoreId) (a : BitVec 20) (b : List Byte) (s : State), rtRuns s = true → a.toNat + b.length ≤ 0x100000 →
    (∀ rows, taskRuns s c = false → ∃ t, exec (.firmwareWindowAccess c a b ⟨true, rows⟩) s = .next t ∧ SameElsewhere s t c ∧
      (∀ i, (h : i < b.length) → Memory.rd (getCore t c).eng.sp (a.toNat + i) = b[i]) ∧
      ∀ x, x < a.toNat ∨ a.toNat + b.length ≤ x → Memory.rd (getCore t c).eng.sp x = Memory.rd (getCore s c).eng.sp x) ∧
    (taskRuns s c = false → exec (.firmwareWindowAccess c a b ⟨false, []⟩) s = .next s) ∧
    (∀ row, taskRuns s c = false → overlaps a.toNat b.length (rowAddr row) 64 = true →
      ∃ t, exec (.firmwareWindowAccess c a b ⟨false, [row]⟩) s = .next t ∧ t.mem = s.mem ∧ t.cores = s.cores ∧
        tget 0 t.tele.corrected 0 = tget 0 s.tele.corrected 0 + 1) ∧
    (∀ w rows, taskRuns s c = true → ∃ t, exec (.firmwareWindowAccess c a b ⟨w, rows⟩) s = .next t ∧ (getCore t c).eng = (getCore s c).eng ∧
      (getCore t c).winWait = (getCore s c).winWait ++ [⟨a, b, w, rows⟩])

/-- REGISTER_WRITE: a field takes a value in its range and keeps its own otherwise, W1C bits clear, RWS registers take what is written, a
read-only register stays (R8, Tables 3-6, 10-7, 14-8, 16-2, 17-8, 18-9, R408). A word of BAR0 or of a device block is the register that lies there,
and one beyond a function's BAR0 is none (R257, R297). -/
def Obligations.RegisterWritesComplete : Prop :=
  ∀ (v : W64) (s : State),
    (∀ f, hostReaches s f = true →
      (∃ t, exec (.registerWrite (.mbIrqMod f) v) s = .next t ∧
        (getFn t f).holdoff.toNat = (if v.toNat % 2 ^ 10 ≤ 1000 ∧ 1 ≤ v.toNat / 2 ^ 12 % 2 ^ 10 ∧ v.toNat / 2 ^ 12 % 2 ^ 10 ≤ 512 then v.toNat % 2 ^ 10 else (getFn s f).holdoff.toNat) ∧
        (getFn t f).count.toNat = (if v.toNat % 2 ^ 10 ≤ 1000 ∧ 1 ≤ v.toNat / 2 ^ 12 % 2 ^ 10 ∧ v.toNat / 2 ^ 12 % 2 ^ 10 ≤ 512 then v.toNat / 2 ^ 12 % 2 ^ 10 else (getFn s f).count.toNat)) ∧
      (∃ t, exec (.registerWrite (.mbStat f) v) s = .next t ∧
        (getFn t f).badWrite = ((getFn s f).badWrite && !v.getLsbD 0) ∧ (getFn t f).lost = ((getFn s f).lost && !v.getLsbD 1)) ∧
      (∀ n, vecOk f n = true → v.getLsbD 0 = true → ∃ t, exec (.registerWrite (.msixMask f n) v) s = .next t ∧ (getVec (getFn t f) n.toNat).masked = true)) ∧
    (rtRuns s = true →
      (∀ c, ∃ t, exec (.registerWrite (.spConflict c) v) s = .next t ∧ (getCore t c).conflict.valid = ((getCore s c).conflict.valid && !v.getLsbD 0)) ∧
      (∀ c, taskRuns s c = false →
        (∃ t, exec (.registerWrite (.bwJobKey c) v) s = .next t ∧ (getCore t c).bwKey = v) ∧
        (∃ t, exec (.registerWrite (.bwJobStep c) v) s = .next t ∧ (getCore t c).bwStep.toNat = v.toNat % 2 ^ 28) ∧
        (∀ n : BitVec 3, ∃ t, exec (.registerWrite (.qzPeg c n) v) s = .next t ∧
          ∀ i < 8, (tget 0 (getCore t c).eng.peg (8 * n.toNat + i)).toNat = v.toNat / 2 ^ (8 * i) % 2 ^ 8)) ∧
      exec (.registerWrite .sbNonfinite v) s = .next { s with sbtm := { s.sbtm with nonfinite := s.sbtm.nonfinite &&& ~~~(v.setWidth 32) } } ∧
      exec (.registerWrite .sbClip v) s = .next { s with sbtm := { s.sbtm with clip := s.sbtm.clip &&& ~~~(v.setWidth 32) } } ∧
      (∃ t, exec (.registerWrite .pwCap v) s = .next t ∧
        (250 ≤ v.toNat % 2 ^ 16 → v.toNat % 2 ^ 16 ≤ 500 → 5 ≤ v.toNat / 2 ^ 16 % 2 ^ 6 → v.toNat / 2 ^ 16 % 2 ^ 6 ≤ 50 →
          t.pw.capWatts.toNat = v.toNat % 2 ^ 16 ∧ t.pw.capHyst.toNat = v.toNat / 2 ^ 16 % 2 ^ 6) ∧
        (¬(250 ≤ v.toNat % 2 ^ 16 ∧ v.toNat % 2 ^ 16 ≤ 500 ∧ 5 ≤ v.toNat / 2 ^ 16 % 2 ^ 6 ∧ v.toNat / 2 ^ 16 % 2 ^ 6 ≤ 50) → t.pw = s.pw)) ∧
      (∃ t, exec (.registerWrite .pwCtl v) s = .next t ∧
        t.pw.c2Delay.toNat = if v.toNat % 2 ^ 14 ≤ 10000 then v.toNat % 2 ^ 14 else s.pw.c2Delay.toNat) ∧
      ((∀ n : PortNo, (getPort s n).up = false) → ∃ t, exec (.registerWrite .brCfg v) s = .next t ∧ t.br.ethertype.toNat = v.toNat % 2 ^ 16 ∧
        t.br.retryUs.toNat = (if v.toNat / 2 ^ 16 % 2 ^ 8 = 0 then s.br.retryUs.toNat else v.toNat / 2 ^ 16 % 2 ^ 8) ∧
        t.br.retryMax.toNat = (if v.toNat / 2 ^ 24 % 2 ^ 8 = 0 then s.br.retryMax.toNat else v.toNat / 2 ^ 24 % 2 ^ 8) ∧ t.br.syncEn = v.getLsbD 32)) ∧
    (hostReaches s 0 = true →
      (∀ i : BitVec 3, ∃ t, exec (.registerWrite (.smFatal i) v) s = .next t ∧ t.mem = s.mem ∧
        ∀ j : BitVec 3, t.mon.fatal.extractLsb' (64 * j.toNat) 64 = if j = i then v else s.mon.fatal.extractLsb' (64 * j.toNat) 64)) ∧
    (monServes s = true →
      (s.mon.reqBusy = true → exec (.registerWrite .smReq v) s = .next { s with mon := { s.mon with reqStatus := rqBUSY } }) ∧
      (s.mon.reqBusy = false → ∃ t, exec (.registerWrite .smReq v) s = .next t ∧ t.mon.reqOp.toNat = v.toNat % 16 ∧
        (t.mon.reqBusy = true ↔ 1 ≤ v.toNat % 16 ∧ v.toNat % 16 ≤ 4))) ∧
    (∀ f : Func, f ≠ 0 → exec (.registerWrite (.hostAt f 0x402) v) s = exec (.registerWrite (.mbIrqMod f) v) s ∧
      ∀ w : BitVec 21, 0x2000 ≤ w.toNat → exec (.registerWrite (.hostAt f w) v) s = .next s) ∧
    exec (.registerWrite (.deviceAt (BitVec.ofNat 45 (0xFE0000030000 / 8))) v) s = exec (.registerWrite .brCfg v) s ∧
    exec (.registerWrite .readOnly v) s = .next s

/-- Mailbox slots: a host writes one it owns, the runtime takes them in order, the host returns outbound ones (R301 to R304). A vector whose holdoff is
over, or that is unmasked with a message pending, sends (R309). BAR2 reaches memory through an aperture and a grant; any other access is counted (R299). -/
def Obligations.HostInterfaceCommandsComplete : Prop :=
  (∀ (f : Func) (s : State),
    (∀ (n off : BitVec 6) (b : List Byte), hostReaches s f = true → 0 < b.length → off.toNat + b.length ≤ 64 →
      ((inSlot (getFn s f) n.toNat).getLsbD 0 = false → ∃ t, exec (.mailboxSlotWrite f n off b) s = .next t ∧
        (∀ i, (h : i < b.length) → (inSlot (getFn t f) n.toNat).toNat / 2 ^ (8 * (off.toNat + i)) % 2 ^ 8 = b[i].toNat) ∧
        (∀ i, i < 64 → (i < off.toNat ∨ off.toNat + b.length ≤ i) →
          (inSlot (getFn t f) n.toNat).toNat / 2 ^ (8 * i) % 2 ^ 8 = (inSlot (getFn s f) n.toNat).toNat / 2 ^ (8 * i) % 2 ^ 8) ∧
        (∀ m : BitVec 6, m ≠ n → inSlot (getFn t f) m.toNat = inSlot (getFn s f) m.toNat)) ∧
      ((inSlot (getFn s f) n.toNat).getLsbD 0 = true → ∃ t, exec (.mailboxSlotWrite f n off b) s = .next t ∧
        (getFn t f).badWrite = true ∧ (getFn t f).inbound = (getFn s f).inbound ∧ (getFn t f).nBad = satAdd (getFn s f).nBad 1)) ∧
    (let v := inSlot (getFn s f) (getFn s f).inNext.toNat
     mayTake s f = true → v.extractLsb' 8 8 = (getFn s f).expect → (v.extractLsb' 16 16).toNat ∈ opcodes →
     ∃ t, exec (.mailboxSlotTake f) s = .next t ∧ (getFn t f).taken = (getFn s f).taken ++ [takenOf v] ∧
       (getFn t f).inNext = (getFn s f).inNext + 1 ∧ (getFn t f).expect = (getFn s f).expect + 1 ∧
       (inSlot (getFn t f) (getFn s f).inNext.toNat).getLsbD 0 = false) ∧
    (∀ (n : BitVec 6) (b : Byte) (r : List Byte), hostReaches s f = true → b.getLsbD 0 = false → (getFn s f).outQ = [] →
      ∃ t, exec (.outboundSlotReturn f n 0 (b :: r)) s = .next t ∧ (tget 0 (getFn t f).outbound n.toNat).getLsbD 0 = false ∧
        (getFn t f).inbound = (getFn s f).inbound)) ∧
  (∀ (f : Func) (v : VecNo) (s : State),
    let y := getVec (getFn s f) v.toNat
    (∀ dt t0, devRuns s = true → s.fatal = false → y.first = some t0 →
      (getFn s f).holdoff.toNat * 100 ≤ (s.time + BitVec.ofNat 64 dt - t0).toNat →
      ∃ t, exec (.msixHoldoffExpiry f v dt) s = .next t ∧
        (y.masked = false → getVec (getFn t f) v.toNat = { y with sent := y.sent + 1, count := 0, first := none }) ∧
        (y.masked = true → getVec (getFn t f) v.toNat = { y with pend := true, count := 0, first := none })) ∧
    (hostReaches s f = true → vecOk f v = true → ∃ t, exec (.msixUnmask f v) s = .next t ∧
      (s.fatal = false → y.pend = true → getVec (getFn t f) v.toNat = { y with masked := false, pend := false, sent := y.sent + 1 }) ∧
      (y.pend = false → getVec (getFn t f) v.toNat = { y with masked := false }))) ∧
  (∀ (off : BitVec 36) (s : State), hostReaches s 0 = true → devRuns s = true →
    (∀ n a, bar2Addr s false off.toNat n = some a → exec (.bar2Read off n) s = .next { s with cpl := some (Memory.rds s.mem a n) }) ∧
    (∀ n, bar2Addr s false off.toNat n = none → ∃ t, exec (.bar2Read off n) s = .next t ∧ t.cpl = none ∧ t.mem = s.mem ∧ (getFn t 0).nBad = satAdd (getFn s 0).nBad 1) ∧
    (∀ b a, bar2Addr s true off.toNat b.length = some a → ∃ t, exec (.bar2Write off b) s = .next t ∧
      (∀ i, (h : i < b.length) → Memory.rd t.mem (a + i) = b[i]) ∧
      ∀ x, x < a ∨ a + b.length ≤ x → Memory.rd t.mem x = Memory.rd s.mem x) ∧
    (∀ b, bar2Addr s true off.toNat b.length = none → ∃ t, exec (.bar2Write off b) s = .next t ∧ t.mem = s.mem ∧ (getFn t 0).nBad = satAdd (getFn s 0).nBad 1))

/-! ### Firmware commands (15) -/

/-- `status.get` and `account.get` answer with the page or write the 128-byte record (R323, R324). Settings by command: the cap, the apertures, a
function's settings, the trace ring, slices and the quantisation policy (R209, R328, R329, R333, R334). -/
def Obligations.StatusAndSettingsCommandsComplete : Prop :=
  (∀ (f : Func) (k : Taken) (dt : Nat) (s : State),
    let u := servedIn s f dt
    (Serves f 0x0120 k s → argsBad k 2 [(7, 0), (8, 8)] = false →
      (argF k 7 0 = 0 → argB k 8 = false → exec (.statusGet f dt) s = .next (okCmd u f k (statusPage0 u f))) ∧
      (argF k 7 0 = 1 → f = 0 → exec (.statusGet f dt) s = .next (okCmd (if argB k 8 then clearSb u else u) f k (statusPage1 u))) ∧
      (argF k 7 0 = 2 → argB k 8 = false → f = 0 → exec (.statusGet f dt) s = .next (okCmd u f k (statusPage2 u)))) ∧
    (Serves f 0x0121 k s → argsBad k 9 [(63, 0), (68, 64), (69, 69)] = false → argF k 63 0 % 128 = 0 →
      (f = 0 → argB k 69 = true → let a := (servedIn s f dt).tele.device
        exec (.accountGet f dt) s = .next (okCmd (hostWr (servedIn s f dt) f (argF k 63 0) (leBytes 128 (accountBits a true))) f k
          (a.interval.toNat + mjBits a * 2 ^ 64))) ∧
      (f = 0 ∨ argFn k 68 64 = f → argB k 69 = false →
        ∃ v, v.mem = s.mem ∧ v.streams = s.streams ∧
          exec (.accountGet f dt) s = .next (okCmd (hostWr v f (argF k 63 0) (leBytes 128 (accountBits (getAcct v (argFn k 68 64)) false))) f k
            ((getAcct v (argFn k 68 64)).interval.toNat + mjBits (getAcct v (argFn k 68 64)) * 2 ^ 64))))) ∧
  (∀ (f : Func) (k : Taken) (dt : Nat) (s : State),
    let u := servedIn s f dt
    (Serves f 0x0230 k s → f = 0 → argsBad k 2 [(15, 0)] = false → 250 ≤ argF k 15 0 → argF k 15 0 ≤ 500 →
      exec (.powerCap f dt) s = .next (okCmd { u with pw := { u.pw with capWatts := BitVec.ofNat 16 (argF k 15 0) } } f k (argF k 15 0))) ∧
    (Serves f 0x0231 k s → f = 0 → argsBad k 16 [(5, 0), (6, 6), (12, 8), (127, 64)] = false →
      (argB k 6 = true → exec (.bar2Map f dt) s = .next (okCmd { u with apertures := tdel u.apertures (argF k 5 0) } f k 0)) ∧
      (argB k 6 = false → argF k 127 64 % 2 ^ 30 = 0 → argF k 127 64 < 2 ^ 38 → busy u (.part (argPart k 12 8)) = false →
        Passes (partChecks u f (argPart k 12 8)) →
        exec (.bar2Map f dt) s = .next (okCmd { u with apertures := tset u.apertures (argF k 5 0) ⟨argPart k 12 8, argF k 127 64⟩ } f k 0))) ∧
    (Serves f 0x0232 k s → isExpert u f = true → (f = 0 ∨ argFn k 4 0 = f ∧ argB k 8 = false) → fconfBad k (getFn u (argFn k 4 0)) = false →
      (argFn k 4 0 = 0 ∨ (getFn u (argFn k 4 0)).enabled = true) → (getFn u (argFn k 4 0)).ready = true →
      exec (.functionConfig f dt) s = .next (okCmd (modFn u (argFn k 4 0) (fconfOf k)) f k 0)) ∧
    (Serves f 0x0220 k s → isExpert u f = true → traceBad k = false → busy u (.part (argPart k 100 96)) = false → Passes (partChecks u f (argPart k 100 96)) →
      exec (.traceStart f dt) s = .next (okCmd (modPart u (argPart k 100 96) fun x =>
        { x with trace := some ⟨f, BitVec.ofNat 64 (argF k 63 0), BitVec.ofNat 32 (argF k 95 64), BitVec.ofNat 3 (argF k 103 101), 0, true⟩ }) f k 0)) ∧
    (Serves f 0x0221 k s → isExpert u f = true → argsBad k 1 [(4, 0)] = false → busy u (.part (argPart k 4 0)) = false → Passes (partChecks u f (argPart k 4 0)) →
      exec (.traceStop f dt) s = .next (okCmd (modPart u (argPart k 4 0) fun x => { x with trace := none }) f k 0)) ∧
    (Serves f 0x0206 k s → isExpert u f = true → sliceBad k = false → busy u (.part (argPart k 4 0)) = false →
      let j : JobNo := BitVec.ofNat 16 (argF k 31 16)
      busy u (.job (argPart k 4 0) j) = false → Passes (partChecks u f (argPart k 4 0)) →
      (j ≠ 0 → (findJob (getPart u (argPart k 4 0)) j).isSome = true →
        exec (.schedSlice f dt) s = .next (okCmd (modJob u (argPart k 4 0) j (sliceJob k)) f k 0)) ∧
      (j = 0 → ∃ t, exec (.schedSlice f dt) s = .next (okCmd t f k 0) ∧
        (getPart t (argPart k 4 0)).sliceUs = (if argB k 32 then argF k 56 40 else (getPart u (argPart k 4 0)).sliceUs) ∧
        (getPart t (argPart k 4 0)).grace = (if argB k 33 then argF k 65 57 else (getPart u (argPart k 4 0)).grace) ∧
        (getPart t (argPart k 4 0)).jobs = (getPart u (argPart k 4 0)).jobs.map (sliceJob k))) ∧
    (∀ y, Serves f 0x0207 k s → isExpert u f = true →
      argsBad k 9 [(5, 0), (7, 6), (14, 8), (31, 16), (47, 32), (55, 48), (63, 56), (66, 64), (69, 67)] = false →
      let m : ModelSlot := BitVec.ofNat 6 (argF k 5 0)
      let c := policyFrom k y.policy
      getModel u m = some y → policyOk y.decl.maxStep c = true → busy u (.model m) = false → y.owner = f →
      (c.mode = 2 → ∃ v ∈ y.decl.variants, v.twoPass = true) →
      exec (.quantPolicy f dt) s = .next (okCmd (setModel u m (setPolicy y c)) f k (policyRes m c))))

/-- Partitions and jobs by command: create, destroy, place, remove, move, submit (R275 to R278, R325 to R327, R330). -/
def Obligations.PartitionAndJobCommandsComplete : Prop :=
  ∀ (f : Func) (k : Taken) (dt : Nat) (s : State),
    let u := servedIn s f dt
    (∀ p, Serves f 0x0201 k s → f = 0 → createBad k = false → (argFn k 36 32 = 0 ∨ (getFn u (argFn k 36 32)).enabled = true) →
      coursesTaken u (argF k 31 0) = false → (getPart u p).valid = false → u.mon.entropyOk = true →
      ∃ t, exec (.partitionCreate f p dt) s = .next (okCmd t f k p.toNat) ∧ (getPart t p).valid = true ∧ (getPart t p).courses.toNat = argF k 31 0 ∧
        (getPart t p).owner = argFn k 36 32 ∧ (getPart t p).drone.toNat = argF k 38 37 ∧ (getPart t p).dflt = argB k 39 ∧ (getPart t p).jobs = [] ∧
        (getPart t p).grace = (if argF k 48 40 = 0 then 20 else argF k 48 40) ∧ (tfind t.mon.keys p.toNat).isSome = true ∧ t.mem = s.mem ∧
        ∀ c ∈ partCores (getPart t p), (getCore t c).drone.toNat = argF k 38 37 ∧ (getCore t c).spTask = .reset) ∧
    (Serves f 0x0202 k s → f = 0 → argsBad k 1 [(4, 0)] = false → let p := argPart k 4 0
      busy u (.part p) = false → partAbsent u p = false →
      ∃ t, exec (.partitionDestroy f dt) s = .next t ∧
        ((getPart s p).jobs = [] → (∀ e ∈ s.mon.grants, partEntry p e = true → engineUses s e = false) →
          (getPart t p).valid = false ∧ tfind t.mon.keys p.toNat = none ∧ ∀ e ∈ t.mon.grants, partEntry p e = false) ∧
        ((getPart s p).jobs ≠ [] → (getPart t p).destroying = true ∧ ∀ b ∈ (getPart t p).jobs, b.crashed.isSome = true)) ∧
    (∀ y ch, Serves f 0x0203 k s → isExpert u f = true → argsBad k 2 [(5, 0), (12, 8)] = false →
      let m : ModelSlot := BitVec.ofNat 6 (argF k 5 0)
      let p := argPart k 12 8
      busy u (.model m) = false → busy u (.part p) = false → getModel u m = some y → f ∈ y.users → y.faulted = false →
      Passes (partChecks u f p) → Passes (placeChecks u p y.decl y.weightsAt.isEmpty ch) → choiceOk u p y.decl y.weightsAt.isEmpty ch = true →
      ∃ t j, exec (.modelPlace f ch dt) s = .next (okCmd t f k ch.job.toNat) ∧ findJob (getPart t p) ch.job = some j ∧ j.kind = .placement m) ∧
    (Serves f 0x0204 k s → isExpert u f = true → argsBad k 4 [(4, 0), (31, 16)] = false →
      let p := argPart k 4 0
      let j : JobNo := BitVec.ofNat 16 (argF k 31 16)
      busy u (.part p) = false → busy u (.job p j) = false → Passes (partChecks u f p) → (findJob (getPart u p) j).isSome = true →
      ∃ t b, exec (.jobRemove f dt) s = .next t ∧ findJob (getPart t p) j = some b ∧ b.crashed.isSome = true ∧
        t.inProgress = u.inProgress ++ [⟨f, k.tag, k.opcode, [.job p j], false, false, 0⟩]) ∧
    (∀ b d ch, Serves f 0x0205 k s → isExpert u f = true → argsBad k 5 [(4, 0), (31, 16), (36, 32)] = false →
      let p := argPart k 4 0
      let q := argPart k 36 32
      let j : JobNo := BitVec.ofNat 16 (argF k 31 16)
      p ≠ q → busy u (.part p) = false → busy u (.part q) = false → busy u (.job p j) = false → Passes (partChecks u f p) → Passes (partChecks u f q) →
      findJob (getPart u p) j = some b → b.kind = .program d → (getPart u p).task = none → b.crashed = none → b.ended = false →
      (partCourses (getPart u p)).length = (partCourses (getPart u q)).length → Passes (moveChecks u q d b) → jobFree u q ch.job = true →
      ∃ t, exec (.jobMove f ch dt) s = .next (okCmd t f k ch.job.toNat) ∧ findJob (getPart t p) j = none ∧
        findJob (getPart t q) ch.job = some { b with num := ch.job } ∧ t.mem = s.mem) ∧
    (∀ img ch, Serves f 0x0208 k s → isExpert u f = true → argsBad k 24 [(63, 0), (95, 64), (100, 96), (191, 128)] = false → argF k 63 0 % 64 = 0 →
      let p := argPart k 100 96
      img.obj.bytes.length = argF k 95 64 → busy u (.part p) = false → Passes (partChecks u f p) → Passes (placeChecks u p img.decl true ch) →
      choiceOk u p img.decl true ch = true →
      ∃ t, exec (.programSubmit f (some img) ch dt) s = .next t ∧
        (programOk u img = false → t = refuseCmd u f k stIMAGE_INVALID) ∧
        (programOk u img = true → ∃ z j, t = okCmd z f k ch.job.toNat ∧ findJob (getPart z p) ch.job = some j ∧
          j.kind = .program img.decl ∧ j.key = deriveKey (BitVec.ofNat 64 (argF k 191 128)) 0x10000))

/-- Models by command: a first load takes its slot and place, a load of an image that is there adds a user, one of an image whose load is in
progress waits for it, the load completes, and an unload drops the user (R318 to R320). -/
def Obligations.ModelCommandsComplete : Prop :=
  ∀ (f : Func) (k : Taken) (dt : Nat) (s : State),
    let u := servedIn s f dt
    (∀ img ch, Serves f 0x0101 k s → isExpert u f = true → argB k 105 = true →
      argsBad k 14 [(63, 0), (103, 64), (104, 104), (105, 105)] = false → argF k 63 0 % 64 = 0 → argF k 103 64 ≠ 0 →
      img.obj.bytes.length = argF k 103 64 →
      (∀ a, slotOfDigest u (digestOf img.obj) = none → u.models.length < 64 → (argB k 104 = true → anyFreeCourse u = true) → ch.imageAt = some a →
        getModel u ch.slot = none → spaceOk u tier1Base tier2Base a (pages (imageBytes img (argB k 104)).length) = true →
        ∃ t, exec (.modelLoad f (some img) ch dt) s = .next t ∧ (imageOk u img = false → t = refuseCmd u f k stIMAGE_INVALID) ∧
          (imageOk u img = true → t.mem = devWritten s a (imageBytes img (argB k 104)) ∧ (∃ q ∈ t.inProgress, q.f = f ∧ q.tag = k.tag) ∧
            ∃ y, getModel t ch.slot = some y ∧ y.digest = digestOf img.obj ∧ y.loading = true ∧ y.users = [f] ∧ y.owner = f ∧ y.imageAt = a)) ∧
      (∀ m y, slotOfDigest u (digestOf img.obj) = some m → getModel u m = some y → y.faulted = false → busy u (.model m) = false →
        ∃ t, exec (.modelLoad f (some img) ch dt) s = .next t ∧ (imageOk u img = false → t = refuseCmd u f k stIMAGE_INVALID) ∧
          (imageOk u img = true → t.mem = s.mem ∧ (∃ q ∈ t.inProgress, q.f = f ∧ q.tag = k.tag) ∧
            ∃ z, getModel t m = some z ∧ f ∈ z.users ∧ z.digest = y.digest)) ∧
      (∀ m y, slotOfDigest u (digestOf img.obj) = some m → getModel u m = some y → loadWaits u m = true → imageOk u img = true →
        exec (.modelLoad f (some img) ch dt) s = .next
          { u with inProgress := u.inProgress ++ [⟨f, k.tag, k.opcode, [.model m], true, true, 0⟩] })) ∧
    (∀ (q : InProgress) ch m y, rtRuns s = true → q.opcode = 0x0101 → q.waits = false → slotOfObjs q.objs = some m → getModel s m = some y →
      s.inProgress.find? (fun r => decide (r.f = q.f) && decide (r.tag = q.tag) && decide (r.opcode = 0x0101)) = some q →
      exec (.modelLoadComplete q.f q.tag ch dt) s = .next (postResult
        (modModel { tick s dt with inProgress := s.inProgress.filter fun r => decide (r ≠ q) } m fun z => { z with loading := false, faulted := false })
        q.f q.opcode q.tag stOK q.res)) ∧
    (Serves f 0x0102 k s → argsBad k 1 [(5, 0)] = false → let m : ModelSlot := BitVec.ofNat 6 (argF k 5 0)
      busy u (.model m) = false → usesModel u f m = true → modelHeld u f m = false →
      ∃ t, exec (.modelUnload f dt) s = .next t ∧ usesModel t f m = false)

/-- `stream.open` makes the entry of Table 2-3 (R22, R321). `stream.push` of one entry with room makes the stream ACTIVE and reserves its bytes; when
the gather is done they are in the inbox (R28, R29, R307). -/
def Obligations.OpenAndPushComplete : Prop :=
  (∀ (f : Func) (k : Taken) (dt : Nat) (s : State) (ch : OpenChoice) (y : Model) (pl : Nat × Nat × Nat),
    let u := servedIn s f dt
    let m : ModelSlot := BitVec.ofNat 6 (argF k 165 160)
    let p := openProfile k y.decl
    Serves f 0x0110 k s → openBad f k = false → busy u (.model m) = false → usesModel u f m = true → getModel u m = some y → y.faulted = false →
    profileOk y.decl.synth y.decl.chunkMs p = true → ringsBad k y.decl p = false → ((profileSlot u p).isSome = true ∨ u.profiles.length < 256) →
    overCapacity u p = false → usedStreams u < 65536 → ch.places = some pl → openChoiceOk u p ch = true →
    streamPlacesOk u y.decl pl (2 ^ argF k 196 192) (featureBytes y.decl p (argF k 203 200)) = true →
    ∃ t i, exec (.streamOpen f ch dt) s = .next (okCmd t f k (ch.handle.toNat + i * 2 ^ 16)) ∧ i < 256 ∧
      (let x := getStream t ch.handle
       x.state = .opened ∧ x.resetFlag = true ∧ x.gen = false ∧ x.model = m ∧ x.client = f ∧ x.nextSeq = 0 ∧ x.feProfile.toNat = i ∧
       x.statePtr = BitVec.ofNat 36 (pl.1 / 4096) ∧ x.bowStep = 0 ∧ x.bowEpoch = 0 ∧ x.ibWr = 0 ∧ x.ibRd = 0 ∧ x.frWr = 0 ∧ x.frRd = 0 ∧
       x.obHead = 0 ∧ x.obPhase = true ∧ x.chunks = []) ∧
      OtherStreamsSame s t [ch.handle] ∧ t.mem = s.mem) ∧
  (∀ (f : Func) (k : Taken) (dt : Nat) (s : State),
    (∀ l audio b, let u := servedIn s f dt
      Serves f 0x0111 k s → argsBad k 10 [(63, 0), (79, 64)] = false → argF k 63 0 % 16 = 0 → argF k 79 64 = 1 →
      let e := pushEntry l 0
      let x := getStream u e.handle
      e.rsv = false → (x.state = .opened ∨ x.state = .active) → x.client = f → 0 < e.len → ibHeld x + x.reserved + e.len ≤ ibBytes x →
      ∃ t g, exec (.streamPush f (some l) (some b :: audio) dt) s = .next t ∧ (getStream t e.handle).state = .active ∧
        (getStream t e.handle).reserved = x.reserved + e.len ∧ (getFn t f).gathers = (getFn u f).gathers ++ [g] ∧ g.tag = k.tag ∧
        g.accepted = 1 ∧ g.refused = 0 ∧ g.entries = [(e.handle, fitBytes e.len b)] ∧ t.mem = s.mem) ∧
    (∀ g r h b, rtRuns s = true → s.fatal = false → (getFn s f).gathers = g :: r → g.entries = [(h, b)] → g.outcomes = [] →
      let x := getStream s h
      x.state = .active → x.dropReserved = 0 → b.length ≤ ibBytes x →
      (∀ q ∈ ringPieces (ibAddr x) (ibBytes x) x.ibWr.toNat b.length, svcGrant s true q.1 q.2 = true) →
      ∃ t, exec (.pushGatherDone f dt) s = .next (postResult t f 0x0111 g.tag stOK (g.accepted % 2 ^ 16 + g.refused % 2 ^ 16 * 2 ^ 16 + g.bytes % 2 ^ 32 * 2 ^ 32)) ∧
        (getFn t f).gathers = r ∧ (getStream t h).ibWr = x.ibWr + BitVec.ofNat 32 b.length ∧ (getStream t h).ibRd = x.ibRd ∧
        (getStream t h).reserved = x.reserved - b.length ∧
        ∀ i, (hi : i < b.length) → Memory.rd t.mem (ibAddr x + (x.ibWr.toNat + i) % ibBytes x) = b[i]))

/-- Pause, resume, close and reset of streams by handle list (R25, R27, R34, R43, R322, Table 2-3). -/
def Obligations.HandleListCommandsComplete : Prop :=
  ∀ (f : Func) (k : Taken) (dt : Nat) (s : State),
    let u := servedIn s f dt
    let hs := listHandles k
    (Serves f 0x0112 k s → SoundList f k false s → (∀ h ∈ hs, (getStream s h).state = .active) →
      ∃ t, exec (.streamPause f dt) s = .next t ∧ OtherStreamsSame s t hs ∧ t.mem = s.mem ∧
        ∀ h ∈ hs, getStream t h = { getStream s h with state := .paused, pauseAt := some u.time, delays := ((getFn s f).delay1, (getFn s f).delay2) }) ∧
    (∀ blocks, Serves f 0x0113 k s → SoundList f k false s →
      (∀ h ∈ hs, (getStream s h).state = .paused ∧ (getStream s h).migrating = false ∧ (getStream s h).move = none ∧ imageTier (getStream s h) = 0) →
      ∃ t, exec (.streamResume f blocks dt) s = .next t ∧ OtherStreamsSame s t hs ∧ t.mem = s.mem ∧
        ∀ h ∈ hs, (getStream t h).state = .active ∧ (getStream t h).pauseAt = none ∧ (getStream t h).chunks.length = (getStream s h).chunks.length) ∧
    (Serves f 0x0114 k s → SoundList f k true s →
      (∀ h ∈ hs, (getStream s h).state ≠ .closing ∧ (getStream s h).migrating = false ∧ (getStream s h).inBundle = true ∧ (getStream s h).move = none) →
      ∃ t, exec (.streamClose f dt) s = .next t ∧ OtherStreamsSame s t hs ∧
        ∀ h ∈ hs, (getStream t h).state = .closing ∧ ∃ c, (getStream t h).closing = some c ∧ c.abort = argB k 8 ∧ c.silently = false) ∧
    (Serves f 0x0114 k s → SoundList f k true s → argB k 8 = true →
      (∀ h ∈ hs, (getStream s h).state ≠ .closing ∧ (getStream s h).migrating = false ∧ (getStream s h).inBundle = false ∧ (getStream s h).move = none) →
      ∃ t, exec (.streamClose f dt) s = .next t ∧ OtherStreamsSame s t hs ∧ ∀ h ∈ hs, (getStream t h).state = .free) ∧
    (Serves f 0x0115 k s → SoundList f k true s → (∀ h ∈ hs, (getStream s h).state ≠ .closing ∧ (getStream s h).migrating = false) →
      ∃ t, exec (.streamReset f dt) s = .next t ∧ OtherStreamsSame s t hs ∧ t.mem = s.mem ∧
        ∀ h ∈ hs, (getStream t h).resetFlag = true ∧ (getStream t h).resetNext = (getStream s h).inBundle ∧ (getStream t h).state = (getStream s h).state ∧
          (argB k 8 = false → (getStream t h).chunks = (getStream s h).chunks ∧ (getStream t h).ibRd = (getStream s h).ibRd))

/-! ### Soundboard, streams, bundles, scheduling (02, 03, 13) -/

/-- The soundboard takes a sample and computes a frame whose last sample is there, on a stream that is not closing, and puts out a synthesis
sample, while its function is not reset (R55, R58, R61, R66, R67; a NaN or infinity of the staging area is a free value, log 109). -/
def Obligations.SoundboardCommandsComplete : Prop :=
  ∀ (h : Handle) (s : State), devRuns s = true → s.fatal = false →
    let x := getStream s h
    let p := profileOf s x
    let n := sampleBytes p.inFmt.toNat
    (mayTakeSample p x = true → x.state ≠ .closing →
      (∀ q ∈ ringPieces (ibAddr x) (ibBytes x) x.ibRd.toNat n, svcGrant s false q.1 q.2 = true) →
      ∃ t, exec (.sampleTake h 1) s = .next t ∧ t.mem = s.mem ∧ OtherStreamsSame s t [h] ∧ (getStream t h).ibRd = x.ibRd + BitVec.ofNat 32 n ∧
        (getStream t h).ibWr = x.ibWr ∧ (getStream t h).sb = sbTake p x.bowKey x.sb (sampleOf s p x n)) ∧
    (∀ dt, sbStreamOn x = true → x.migrating = false → ringFull x = false → hopLen p.sb ≤ x.sb.hop → x.state ≠ .closing →
      let a := frameAddr s x
      let k := slotBytes p.sb
      let r := frameOut p.sb x.sb.muSet x.sb.mu (frameSamples p.sb x.sb)
      svcGrant s true a k = true →
      ∃ t, exec (.frameCompute h dt) s = .next t ∧ OtherStreamsSame s t [h] ∧ (getStream t h).frWr = x.frWr + 1 ∧
        (getStream t h).sb.frame = x.sb.frame + 1 ∧ (getStream t h).sb.hop = x.sb.hop - hopLen p.sb ∧
        Memory.rds t.mem a k = frameSlot p.sb x.sb r.o r.energy (silentNext p r.energy x.sb.silentRun) ∧
        (∀ b, b < a ∨ a + k ≤ b → Memory.rd t.mem b = Memory.rd s.mem b) ∧
        ((x.frWr + 1 - chunkBase x).toNat % chunkFrames s x = 0 → chunkFrames s x ≠ 0 → (getStream t h).chunks.length = x.chunks.length + 1)) ∧
    (hasSynth s x = true → isSilent x = false → modelRate p.sb = rateOf p.outRate.toNat →
      let y := stagedValue (BitVec.ofNat 32 (Memory.rdNat s.mem (stagingAddr s x x.sb.outTaken) 4))
      ∃ t, exec (.synthesisOutput h 1) s = .next t ∧ t.mem = s.mem ∧ OtherStreamsSame s t [h] ∧
        (getStream t h).sb.outTaken = x.sb.outTaken + 1 ∧ (getStream t h).sb.outCount = x.sb.outCount + 1 ∧ (getStream t h).pcmChunk = true ∧
        (getStream t h).pcmTotal = x.pcmTotal + BitVec.ofNat 32 (encodeSample p.outFmt.toNat y).1.length)

/-- A silent chunk of an active stream with no discard pending is committed without a bundle (R33); a pause timer that has reached its
delay starts the demotion, or waits for the chunk in a bundle (R25, R26). -/
def Obligations.SilenceAndPauseTimers : Prop :=
  ∀ (h : Handle) (dt : Nat) (s : State), rtRuns s = true →
    let x := getStream s h
    (isSilentChunk x = true → x.state = .active → x.discard = none →
      ∃ t, exec (.silentCommit h dt) s = .next t ∧ t.mem = s.mem ∧ OtherStreamsSame s t [h] ∧ (getStream t h).nextSeq = x.nextSeq + 1 ∧
        (getStream t h).frRd = x.frRd + BitVec.ofNat 24 (chunkFrames s x) ∧ (getStream t h).chunks = x.chunks.tail ∧
        (getStream t h).gen = x.gen ∧ (getStream t h).bowStep = x.bowStep ∧ (getStream t h).peg = x.peg) ∧
    (∀ i tier ms dst, (i, tier, ms) ∈ [(.pauseTimerTier1 h dst dt, 0, x.delays.1), (.pauseTimerTier2 h dst dt, 1, x.delays.2)] →
      mayDemote (tick s dt) h tier ms dst = true →
      ∃ t, exec i s = .next t ∧ t.mem = s.mem ∧ OtherStreamsSame s t [h] ∧ (getStream t h).state = .paused ∧
        (getStream t h).statePtr = x.statePtr ∧
        (x.inBundle = true → (getStream t h).moving = false ∧ (getStream t h).move = some ⟨false, dst, 0⟩ ∧ t.mig.queue = s.mig.queue) ∧
        (x.inBundle = false → (getStream t h).moving = true ∧ (getStream t h).move = some ⟨false, dst, s.mig.next⟩ ∧
          ∃ l, l ≠ [] ∧ t.mig.queue = s.mig.queue ++ l ∧ ∀ d ∈ l, dTag d = s.mig.next))

/-- A bundle is formed from the queue of eligible chunks (R37, R38); a bound bundle is the partition's task, with its record (R42, R79);
the commit flips the generation of every member in one update (R32, R183). -/
def Obligations.BundlesAreFormedBoundAndCommitted : Prop :=
  ∀ (p : PartId) (dt : Nat) (s : State), rtRuns s = true →
    let u := tick s dt
    (∀ m, canForm u m p = true →
      ∃ t b, exec (.bundleForm m p dt) s = .next t ∧ t.mem = s.mem ∧ t.bundles = s.bundles ++ [b] ∧ b.no = s.bundleNo + 1 ∧ b.model = m ∧
        b.members.map (·.handle) = ((eligibleQueue u m).take 256).map (·.1) ∧ ∀ y ∈ b.members, (getStream t y.handle).inBundle = true) ∧
    (∀ b x rec j y v, s.fatal = false → findBundle s b = some x → allResident s x = true → acceptsModel u p x.model = some j →
      writesDone s x = true → lowestFor u p x.model = true →
      getModel s x.model = some y → jobVariant s (getPart s p) j (dueAnchor s y.decl x) = some v → jobVerified s j = true →
      spaceOk s 0 tier1Base rec (pages (64 + 64 * x.members.length)) = true → (∀ q ∈ bindPieces s y x rec, svcGrant s true q.1 q.2 = true) →
      ∃ t k c, exec (.bundleBind b p rec [] dt) s = .next t ∧ (getPart t p).task = some k ∧ k.job = j.num ∧ k.bundle = some c ∧ k.committed = false ∧
        c.no = x.no ∧ c.recAddr = rec ∧ c.members.map (·.handle) = x.members.map (·.handle) ∧
        Memory.rds t.mem rec (64 + 64 * x.members.length) = recordBytes c u.time ∧ (∀ q ∈ t.bundles, q.no ≠ x.no) ∧
        ∀ d ∈ partCores (getPart s p), (getCore t d).seq.phase = .running ∧ (getCore t d).seq.pc = 0) ∧
    (∀ k b, (getPart s p).task = some k → k.committed = true → k.settled = false → k.bundle = some b → (b.members.map (·.handle)).Nodup →
      (∀ m ∈ b.members, (getStream s m.handle).state = .active ∧ (getStream s m.handle).discard = none) →
      ∃ t z, exec (.commitUpdate p [] dt) s = .next t ∧ t.mem = s.mem ∧ (getPart t p).task = some z ∧ z.settled = true ∧
        OtherStreamsSame s t (b.members.map (·.handle)) ∧
        ∀ m ∈ b.members, (getStream t m.handle).gen = !(getStream s m.handle).gen ∧ (getStream t m.handle).inBundle = false ∧
          (getStream t m.handle).nextSeq = (getStream s m.handle).nextSeq + 1 ∧
          (getStream t m.handle).chunks = (getStream s m.handle).chunks.tail ∧
          (getStream t m.handle).resetFlag = if m.reset then (getStream s m.handle).resetNext else (getStream s m.handle).resetFlag)

/-- A slice starts for the first job with work in cyclic order: a program that has not run starts its task, a placement has the slice and
waits for a bundle; a slice that is over ends at a request, or begins anew where no other job has work (R280, R281). -/
def Obligations.SlicesStartAndExpire : Prop :=
  ∀ (p : PartId) (dt : Nat) (s : State) (b : Job),
    let u := tick s dt
    (canSlice s p = true → (getPart s p).task = none → (getPart s p).atMeet = false → currentJob u (getPart s p) = none → nextJob u (getPart s p) = some b →
      b.stopped = none → b.num ≠ 0 → 0 < sliceTicks b →
      ∃ t, exec (.sliceStart p dt) s = .next t ∧ (getPart t p).sliceJob = b.num ∧ (getPart t p).sliceStart = u.time ∧
        (getPart t p).sliceLen = sliceTicks b ∧ (getPart t p).lastRan = b.num ∧ t.mem = s.mem ∧
        (∀ m, b.kind = .placement m → (getPart t p).task = none) ∧
        (∀ d v, b.kind = .program d → b.ctx = none → canBind s p = true → jobVariant s (getPart s p) b false = some v → jobVerified s b = true →
          ∃ k, (getPart t p).task = some k ∧ k.job = b.num ∧ k.bundle = none ∧
            ∀ c ∈ partCores (getPart s p), (getCore t c).seq.phase = .running ∧ (getCore t c).seq.pc = 0)) ∧
    (expired u p = true →
      (othersWork u (getPart s p) = true →
        ∃ t, exec (.sliceExpiry p dt) s = .next t ∧ (getPart t p).endReq = some u.time ∧ (getPart t p).reqGrace = (getPart s p).grace ∧
          (getPart t p).task = (getPart s p).task ∧ t.mem = s.mem) ∧
      (othersWork u (getPart s p) = false → findJob (getPart s p) (getPart s p).sliceJob = some b →
        ∃ t, exec (.sliceExpiry p dt) s = .next t ∧ (getPart t p).sliceStart = u.time ∧ (getPart t p).sliceLen = sliceTicks b ∧
          (getPart t p).endReq = none ∧ t.mem = s.mem))

/-- A task of a bundle that reaches its hard-stop time, or whose errors are settled without a fault of the model, leaves the partition; its cores stand
idle (R281, R282, R285, R398). The reclaim of a job that no task runs takes its grants and regions (R285, R288). -/
def Obligations.StoppedTasksAndReclaim : Prop :=
  (∀ (p : PartId) (dt : Nat) (s : State) (k : Task) (b : Bundle), (getPart s p).task = some k → k.bundle = some b →
    let u := tick s dt
    let gone (i : Instr) : Prop := ∃ t, exec i s = .next t ∧ (getPart t p).task = none ∧ (getPart t p).endReq = none ∧
      ∀ c ∈ partCores (getPart s p), (getCore t c).seq.phase = .idle ∧ IdleQueues t c ∧ (getCore t c).seq.asks = []
    (∀ runs mark, hardDue u p = some mark → ((getPart (runCores p runs u) p).task.bind (·.bundle)).isSome = true → gone (.hardStop p ⟨runs, []⟩ dt)) ∧
    (∀ j m, settleDue s p = true → findJob (getPart s p) k.job = some j → j.kind = .placement m → weightsHit s j k.errors = false →
      (k.committed = true ∨ j.errRuns + 1 < 3) → gone (.bundleErrorSettle p [] dt))) ∧
  (∀ (p : PartId) (j : JobNo) (dt : Nat) (s : State) (b : Job), rtRuns s = true → findJob (getPart s p) j = some b → reclaimDue b = true →
    jobDone s p j = true → (getPart s p).task = none → b.stopped = none →
    ∃ t, exec (.reclaim p j dt) s = .next t ∧ findJob (getPart t p) j = none ∧ (∀ e ∈ t.mon.grants, ¬(gPart e = p ∧ gJob e = j)) ∧
      (∀ r ∈ t.regions, r.use ≠ .job p j) ∧ (getPart t p).stopping = false)

/-- The 100 ms interval closes: energies measured and divided, to the last microjoule, and the pages rewritten (R291, R300); the second's
interference report; an energy sample adds its microjoules (R293, R390). -/
def Obligations.IntervalsClose : Prop :=
  ∀ (dt : Nat) (s : State),
    let u := tick s dt
    (rtRuns s = true → closeDue u = true →
      ∃ t, exec (.reconciliationClose dt) s = .next t ∧ t.mem = s.mem ∧ t.tele.device.interval.toNat = intervalOf u ∧
        t.tele.device.measured = s.tele.device.measured + eMeas s ∧ t.tele.lastPw = s.pw.energy ∧ t.tele.parts = [] ∧
        t.tele.accSnap = t.tele.accounts ∧ t.tele.devSnap = t.tele.device ∧ t.tele.accUpd = s.tele.accUpd + 2 ∧
        (∀ f, (getAcct t f).interval = BitVec.ofNat 64 (intervalOf u)) ∧
        t.tele.device.uj + (allFuncs.map fun f => (getAcct t f).uj).sum =
          s.tele.device.uj + (allFuncs.map fun f => (getAcct s f).uj).sum + eMeas s) ∧
    (rtRuns s = true → s.tele.lastSec < secondOf u →
      ∃ t, exec (.interferenceReport dt) s = .next t ∧ t.mem = s.mem ∧ t.tele.interf = allParts.flatMap (jobReports u) ∧
        t.tele.lastSec = secondOf u ∧ t.tele.gone = [] ∧ t.tele.intfUpd = s.tele.intfUpd + 2 ∧
        ∀ p, ∀ b ∈ (getPart t p).jobs, b.tasks = 0 ∧ b.soloTicks = 0 ∧ b.obsCycles = 0) ∧
    (∀ m, configReaches s = true →
      ∃ t, exec (.energySample m dt) s = .next t ∧ t.mem = s.mem ∧ t.pw.energy = s.pw.energy + BitVec.ofNat 64 m.uj ∧ t.pw.power = m.power ∧
        t.pw.tmax = m.tmax)

/-! ### Monitor, memory, migration (12, 17, 19) -/

/-- GRANT, REVOKE, VERIFY and RELEASE (R258, R260, R270, R355, R356, R360): a granted byte is zeroed where its last holder was another, and
a released one is zeroed. -/
def Obligations.MonitorRequestsComplete : Prop :=
  ∀ (s : State), rtRuns s = true →
    (∀ e z, releasedOver s e = false → grantOk s e = false → exec (.grant ⟨e, z⟩) s = .next (answer (zeroedTo s z.toNat) opGRANT true)) ∧
    (∀ e z, grantOk s e = true → grantWaits (zeroedTo s z.toNat) e = true → exec (.grant ⟨e, z⟩) s = .next (zeroedTo s z.toNat)) ∧
    (∀ e z, grantOk s e = true → grantWaits (zeroedTo s z.toNat) e = false →
      ∃ t, exec (.grant ⟨e, z⟩) s = .next t ∧ t.mon.grants = s.mon.grants ++ [e] ∧
        (∀ a, (a < gBase e ∨ gEnd e ≤ a) → Memory.rd t.mem a = Memory.rd s.mem a) ∧
        (∀ a, gBase e ≤ a → a < gEnd e → Memory.rd t.mem a =
          if holderOf s (a / 4096) = .zeroed ∨ holderOf s (a / 4096) = .verified ∨ holderOf s (a / 4096) = entryHolder e then Memory.rd s.mem a else 0)) ∧
    (∀ e, s.mon.grants.contains e = false → exec (.revoke e) s = .next (answer s opREVOKE true)) ∧
    (∀ e, s.mon.grants.contains e = true → revokeQuiet s e = true →
      exec (.revoke e) s = .next (answer { s with mon := { s.mon with grants := s.mon.grants.erase e } } opREVOKE false)) ∧
    (∀ base key r, placedRegion s base = some r → tierOf base = 0 → isVerified s base = false → r.base % 4096 = 0 → r.size % 4096 = 0 →
      r.base + r.size ≤ tier1Base →
      (∀ e ∈ s.mon.grants, gTouches e r.base r.size = true → gPartW e = true ∨ gSvcW e = true → revokeQuiet s e = true) →
      let img := objectAt s r key
      ∃ t, exec (.verify base key) s = .next t ∧ t.mem = s.mem ∧
        (verifyOk s img = false → t = answer s opVERIFY true) ∧
        (verifyOk s img = true → (∃ v ∈ t.mon.verified, v.base = r.base ∧ v.size = r.size ∧ v.digest = digestOf img) ∧
          ∀ e ∈ t.mon.grants, gTouches e r.base r.size = true → gPartW e = false ∧ gSvcW e = false)) ∧
    (∀ base v, s.mon.verified.find? (fun v => decide (v.base = base)) = some v → givenUp s v = true →
      v.base % 4096 = 0 → v.size % 4096 = 0 → v.base + v.size ≤ tier1Base →
      (∀ e ∈ s.mon.grants, gTouches e v.base v.size = true → revokeQuiet s e = true) →
      ∃ t, exec (.release base) s = .next t ∧ v ∉ t.mon.verified ∧ (∀ e ∈ t.mon.grants, gTouches e v.base v.size = false) ∧
        ∀ a, Memory.rd t.mem a = if v.base ≤ a ∧ a < v.base + v.size then 0 else Memory.rd s.mem a)

/-- Background zeroing ends, a scrub pass, an expander or the tier 1 PLL goes down (R265, R266, R270, R373, R397, R400; log 62 for the loss of tier 1). An
uncorrectable read stops, fails or resets what its requester decides (R396, R400, R401). -/
def Obligations.MemoryServicesAndUncorrectableReads : Prop :=
  (∀ (s : State) (dt : Nat),
    let u := tick s dt
    (devRuns s = true → s.sbtm.zero1Done = false →
      exec .tier1ZeroDone s = .next { s with sbtm := { s.sbtm with zero1 := BitVec.ofNat 48 tier2Base, zero1Done := true } }) ∧
    (∀ a : BitVec 48, devRuns s = true → a.toNat < tier2Base →
      let pg := a.toNat / 4096
      let src := if a.toNat < tier1Base then 1 else 2
      exec (.scrubPass a false false dt) s = .next u ∧
      ((lastDay u.time (tget [] s.mon.pageErrs pg)).length < 15 →
        ∃ t, exec (.scrubPass a true false dt) s = .next t ∧ tget 0 t.tele.corrected src = tget 0 s.tele.corrected src + 1 ∧
          t.mon.retired = s.mon.retired ∧ t.mem = s.mem) ∧
      (rtRuns u = true → s.mon.retired.contains pg = false → s.mon.retired.length < 4096 →
        ∃ t, exec (.scrubPass a false true dt) s = .next t ∧ t.mon.retired = s.mon.retired ++ [pg] ∧ t.tele.nextSeq = s.tele.nextSeq + 1 ∧
          t.mem = s.mem)) ∧
    (∀ x : BitVec 2, rtRuns u = true → s.pw.expPresent.getLsbD x.toNat = true → s.pw.expDown.getLsbD x.toNat = false →
      ∃ t, exec (.expanderDown x dt) s = .next t ∧ (∀ i, t.pw.expDown.getLsbD i = (s.pw.expDown.getLsbD i || decide (i = x.toNat))) ∧
        t.tele.nextSeq = s.tele.nextSeq + 1 ∧ t.mem = s.mem) ∧
    (configReaches s = true → exec (.lpddr6PllLoss dt) s = .next { u with pw := { u.pw with lpddrDown := true } })) ∧
  (∀ (a : BitVec 48) (sym : BitVec 16) (dt : Nat) (s : State), devRuns s = true → a.toNat < tierEnd →
    (∀ c, taskLive s c = true →
      ∃ t pc, exec (.uncorrectableRead (.core c) a sym dt) s = .next t ∧ (getCore t c).seq.phase = .stopped (dataCause a.toNat) pc ∧ t.mem = s.mem) ∧
    (∀ c bank row, taskLive s c = true →
      ∃ t pc, exec (.uncorrectableRead (.sram c bank row) a sym dt) s = .next t ∧ (getCore t c).seq.phase = .stopped cSRAM_UE pc ∧ t.mem = s.mem) ∧
    (∀ w, s.mig.cur.bind (workOf s) = some w → dOp w.desc = 0 → outOfTag s (dTag w.desc) = none → readsNow s w a.toNat = true →
      let at_ := dSrc w.desc + w.moved
      let n := a.toNat / 64 * 64 - at_
      ∃ t, exec (.uncorrectableRead .migration a sym dt) s = .next t ∧ t.mig.work = s.mig.work.filter (fun x => decide (x.desc ≠ w.desc)) ∧
        t.mig.due = s.mig.due ++ [⟨⟨dTag w.desc, w.moved + n, 2⟩, true⟩] ∧
        t.mem = if 0 < n then devWritten s (dDst w.desc + w.moved) (devRead s at_ n) else s.mem) ∧
    (∀ h, (getStream s h).state ≠ .free → ibAddr (getStream s h) ≤ a.toNat → a.toNat < ibAddr (getStream s h) + ibBytes (getStream s h) →
      ∃ t l, exec (.uncorrectableRead (.soundboard h) a sym dt) s = .next t ∧ (getStream t h).badLines = (getStream s h).badLines ++ [l] ∧
        t.fatal = s.fatal ∧ t.mem = s.mem) ∧
    (∀ c p, partOfCore s c = some p →
      ∃ t, exec (.uncorrectableRead (.partUnit c) a sym dt) s = .next t ∧ (getPart t p).resetDue = true ∧ (getPart t p).stopping = true ∧
        ∀ d ∈ partCores (getPart s p), (getCore t d).seq.phase = .idle) ∧
    (∀ r, r ∈ [.hostDma, .controlSram, .fabric, .serviceFence] →
      ∃ t, exec (.uncorrectableRead r a sym dt) s = .next t ∧ t.fatal = true ∧ (∀ f, (getFn t f).ready = false) ∧
        ∀ p, (getPart t p).task = none))

/-- The migration engine begins a COPY or ZERO that its grants permit and refuses any other, moves it on by 64 KiB at a time, and takes a descriptor
of a higher class at the boundary (R272 to R274); one that ends is recorded, and a copy of images that ended well switches state_ptr (R27).
`stream.migrate` sets the stream moving (R46, R332). That a row is one 64 KiB step is the model's choice (log 84). -/
def Obligations.MigrationEngineMovesData : Prop :=
  (∀ (f : Func) (k : Taken) (dt : Nat) (s : State), Serves f 0x0212 k s →
    let u := servedIn s f dt
    let h : Handle := BitVec.ofNat 16 (argF k 15 0)
    let w : WinNo := BitVec.ofNat 8 (argF k 55 48)
    let x := getStream s h
    let dev : DevNo := BitVec.ofNat 14 (argF k 29 16)
    isExpert u f = true → migrateBad k = false → busy u (.window w) = false → busy u (.stream h) = false → othersStream f x = false →
    (x.state = .paused ∨ x.state = .evicted) → x.moving = false → noPair u x w dev = false → pairStands u w dev = true →
    ∃ t, exec (.streamMigrate f true dt) s = .next t ∧ (getStream t h).moving = true ∧ (getStream t h).migrating = true ∧
      (getStream t h).state = x.state ∧ OtherStreamsSame s t [h] ∧ t.mem = s.mem ∧
      ∃ q ∈ t.inProgress, q.f = f ∧ q.tag = k.tag ∧ q.opcode = k.opcode) ∧
  ∀ (s : State), rtRuns s = true → s.br.migOut = [] → s.mig.releasing = [] → s.mig.due = [] →
    let mine (d : BitVec 256) : Prop := dOp d ≤ 1 ∧ movingStream s (dTag d) = none
    let permitted (d : BitVec 256) : Prop := (dOp d = 0 → svcGrant s false (dSrc d) (dLen d) = true) ∧ svcGrant s true (dDst d) (dLen d) = true
    let up (d : BitVec 256) : Prop := (dOp d = 0 → onDown s (dSrc d) (dLen d) = false) ∧ onDown s (dDst d) (dLen d) = false
    (∀ d, s.mig.queue = [] → s.mig.work = [] → s.mig.cur = none → mine d → descForm s d = true →
      ∃ t, exec (.migrationDescriptor (some d)) s = .next t ∧ t.mig.queue = [] ∧ t.mig.next = s.mig.next + 1 ∧ t.streams = s.streams ∧ t.mem = s.mem ∧
        (¬permitted d → t.mig.work = [] ∧ t.mig.cur = none ∧ t.mig.due = [⟨⟨dTag d, 0, 1⟩, false⟩]) ∧
        (permitted d → up d → t.mig.work = [⟨d, 0⟩] ∧ t.mig.cur = some d ∧ t.mig.due = [])) ∧
    (∀ w, s.mig.queue = [] → s.mig.work = [w] → s.mig.cur = some w.desc → mine w.desc → w.moved < dLen w.desc →
      let n := min 65536 (dLen w.desc - w.moved)
      let bytes := if dOp w.desc = 0 then devRead s (dSrc w.desc + w.moved) n else List.replicate n 0
      ∃ t, exec (.migrationDescriptor none) s = .next t ∧ t.streams = s.streams ∧ t.mem = devWritten s (dDst w.desc + w.moved) bytes ∧
        (w.moved + n < dLen w.desc → t.mig.work = [⟨w.desc, w.moved + n⟩] ∧ t.mig.cur = some w.desc ∧ t.mig.due = []) ∧
        (w.moved + n = dLen w.desc → t.mig.work = [] ∧ t.mig.cur = none ∧ t.mig.due = [⟨⟨dTag w.desc, dLen w.desc, 0⟩, false⟩])) ∧
    (∀ w d, s.mig.queue = [] → s.mig.work = [w] → s.mig.cur = some w.desc → mine w.desc → w.moved + 65536 < dLen w.desc → mine d →
      descForm s d = true → permitted d → up d → dClass d < dClass w.desc →
      ∃ t, exec (.migrationDescriptor (some d)) s = .next t ∧ t.mig.work = [⟨w.desc, w.moved + 65536⟩, ⟨d, 0⟩] ∧ t.mig.cur = some d ∧ t.mig.queue = []) ∧
    ∀ x dt, s.mig.queue = [] → s.mig.work = [] → s.mig.cur = none →
      let u : State := { s with mig := { s.mig with due := [x] } }
      (movingStream s x.out.tag = none →
        ∃ t, exec (.migrationComplete dt) u = .next t ∧ t.mig.done = s.mig.done ++ [x.out] ∧ t.mig.due = [] ∧ t.mem = s.mem ∧ t.streams = s.streams) ∧
      (∀ h m, movingStream s x.out.tag = some h → x.out.status = 0 → (getStream s h).move = some m →
        ∃ t, exec (.migrationComplete dt) u = .next t ∧ t.mig.due = [] ∧ t.mig.done = s.mig.done ++ [x.out] ∧ OtherStreamsSame s t [h] ∧
          (getStream t h).statePtr = BitVec.ofNat 36 (m.dst / 4096) ∧ (getStream t h).move = none ∧
          (getStream t h).state = if m.promote = false ∧ tierOf m.dst = 2 ∧ (getStream s h).state = .paused then .evicted else (getStream s h).state)

/-- Requests of the diagnostic window: NONCE, QUOTE, TOKEN, HOSTIMG, and the clearing of SM_FATAL; the entropy source fails (R361, R365, R367
to R370, R408). Another request meets BUSY while one is served. -/
def Obligations.MonitorWindowRequestsComplete : Prop :=
  ∀ (dt : Nat) (s : State),
    let u := tick s dt
    let idle := monServes s = true ∧ s.mon.reqBusy = false
    let status (t : State) (op : BitVec 4) (st : BitVec 8) : Prop := t.mon.reqOp = op ∧ t.mon.reqBusy = false ∧ t.mon.reqStatus = st
    (idle → ∃ t, exec (.smReqNonce dt) s = .next t ∧ status t 1 rqOK ∧ t.mon.nonce = (Config.entropy s.free).setWidth 256 ∧
      t.mon.nonceValid = true ∧ t.mem = s.mem) ∧
    (monServes s = true → s.mon.reqBusy = true → s.mon.reqOp ≠ 1 → exec (.smReqNonce dt) s = .next { s with mon := { s.mon with reqStatus := rqBUSY } }) ∧
    (idle → ∃ t, exec (.smReqQuote dt) s = .next t ∧ t.mem = s.mem ∧
      (lcState s.fuses = lcRETIRED → status t 2 rqREFUSED ∧ t.mon.quote = s.mon.quote) ∧
      (∀ k, lcState s.fuses ≠ lcRETIRED → s.fuses.idSecret = some k → status t 2 rqOK ∧ t.mon.quote = quoteBytes u k) ∧
      (lcState s.fuses ≠ lcRETIRED → s.fuses.idSecret = none → status t 2 rqNO_KEY ∧ t.mon.quote = s.mon.quote)) ∧
    (∀ key b san, idle → let tok := areaObj s.mon.token 4096 key
      ∃ t, exec (.smReqToken key b san dt) s = .next t ∧
        (tokStatus s tok ≠ rqOK → status t 3 (tokStatus s tok) ∧ t.fuses = s.fuses ∧ t.mem = s.mem) ∧
        (tokStatus s tok = rqOK → t.mem = [] ∧
          (san = true → t.pw.wrCause = 3 ∧ (tokTo tok = lcRETIRED → t.fuses.retired = true ∧ t.fuses.idSecret = none) ∧
            (tokTo tok = lcPROVISIONED → t.fuses.prov = true ∧ t.fuses.idSecret.isSome = true)) ∧
          (san = false → s.pw.expPresent ≠ 0 → t.fuses = s.fuses ∧ t.pw.phase = .halted))) ∧
    (∀ key b, wantsImage s = true →
      let c := bootFail s.fuses (hostSource (some (areaObj s.mon.hostLoad 0x3C0000 key))) (if s.mon.step = 1 then 1 else 2)
      ∃ t, exec (.smReqHostimg key b dt) s = .next t ∧ (c ≠ 0 → status t 4 rqREFUSED ∧ t.mon.fail = BitVec.ofNat 8 c ∧ t.pw.phase = .bootStopped) ∧
        (c = 0 → status t 4 rqOK)) ∧
    (∀ key b, idle → wantsImage s = false → ∃ t, exec (.smReqHostimg key b dt) s = .next t ∧ status t 4 rqREFUSED) ∧
    (hostReaches s 0 = true → exec .smFatalClear s = .next { s with mon := { s.mon with fatal := 0 } }) ∧
    (runtimeUp s = true → s.mon.entropyOk = true →
      ∃ t, exec (.entropyFail dt) s = .next t ∧ t.mon.entropyOk = false ∧ t.mon.entropyReported = true ∧ t.mem = s.mem)

/-! ### Bridge (16) -/

/-- `window.open` makes the window and offers it; `window.close` of a window ends it at once where no pair uses it, leaves it
closing while a frame of its pair is unacknowledged, and is refused with BUSY while a stream migrates in over it (R331, R336, R341). -/
def Obligations.WindowsOpenAndClose : Prop :=
  ∀ (f : Func) (k : Taken) (dt : Nat) (s : State),
    let u := servedIn s f dt
    (∀ n, Serves f 0x0210 k s → let p := argPart k 4 0; let j : JobNo := BitVec.ofNat 16 (argF k 31 16)
      Passes (wopenChecks u f k p j) → wopenNumber u k = some n →
      ∃ t, exec (.windowOpen f dt) s = .next (okCmd t f k n.toNat) ∧ getWin t n = some (newWindow k p j) ∧
        (∀ m, m ≠ n → getWin t m = getWin s m) ∧ t.mem = s.mem ∧ t.br.pairs = s.br.pairs) ∧
    (∀ w, Serves f 0x0211 k s → isExpert u f = true → argsBad k 1 [(7, 0)] = false → let n : WinNo := BitVec.ofNat 8 (argF k 7 0)
      busy u (.window n) = false → getWin s n = some w → notMine u f w.part = false →
      ((∃ g ∈ s.br.migIn, g.window = n) → exec (.windowClose f dt) s = .next (refuseCmd u f k stBUSY)) ∧
      ((∀ g ∈ s.br.migIn, g.window ≠ n) → (∀ x ∈ s.br.pairs, x.2.window ≠ n) → ∃ t, exec (.windowClose f dt) s = .next t ∧ getWin t n = none ∧ t.mem = s.mem) ∧
      (∀ i q, (∀ g ∈ s.br.migIn, g.window ≠ n) → getPair s i = some q → q.window = n → q.failed = false → q.unacked ≠ [] →
        ∃ t, exec (.windowClose f dt) s = .next t ∧ getWin t n = some { w with closing := true, closeFor := some (f, k.tag) } ∧ t.mem = s.mem))

/-- Links, HELLOs and routes (R339, R340): a HELLO makes a route source, a source lapses, a link that goes down takes its sources. -/
def Obligations.LinksAndRoutesComplete : Prop :=
  ∀ (dt : Nat) (s : State), linksRun s = true →
    let u := tick s dt
    (∀ n, (getPort s n).up = false →
      ∃ t fr, exec (.bridgeLinkUp n dt) s = .next t ∧ (getPort t n).up = true ∧ (∀ m, m ≠ n → getPort t m = getPort s m) ∧
        (getPort t n).helloAt = u.time ∧ (∃ o, t.br.sent = s.br.sent ++ [⟨n, fr, o⟩]) ∧ fr.type = ftHELLO ∧ fr.src = myDev s) ∧
    (∀ n, (getPort s n).up = true →
      ∃ t, exec (.bridgeLinkDown n dt) s = .next t ∧ (getPort t n).up = false ∧ ∀ d, ∀ a ∈ tget [] t.br.routes d, a.port ≠ n) ∧
    ((∃ n, helloDue u n = true) →
      ∃ t l, exec (.helloTimer dt) s = .next t ∧ (∀ n, helloDue u n = true → (getPort t n).helloAt = u.time) ∧ t.br.sent = s.br.sent ++ l ∧
        l.map (·.port) = allPorts.filter (helloDue u) ∧ ∀ x ∈ l, x.fr.type = ftHELLO) ∧
    (∀ n remote fr, (getPort s n).up = true → fr.ver = 1 → fr.type = ftHELLO → lenAgrees fr = true →
      (fr.src = myDev s → ∃ t, exec (.helloReceive n remote fr dt) s = .next t ∧ t.br.devidConflict = true ∧ t.br.routes = s.br.routes) ∧
      (fr.src ≠ myDev s → ∃ t, exec (.helloReceive n remote fr dt) s = .next t ∧
        ∃ a ∈ tget [] t.br.routes fr.src.toNat, a.port = n ∧ a.remote = remote ∧ a.at_ = u.time)) ∧
    (∀ d : DevNo, (tget [] s.br.routes d.toNat).any (lapsed u) = true →
      ∃ t, exec (.routeExpiry d dt) s = .next t ∧ ∀ a ∈ tget [] t.br.routes d.toNat, lapsed u a = false)

/-- A sequenced frame of a sound pair that comes in its turn is applied: a write lands, a read and an atomic are answered, a response
goes to the read of its tag, a START is noted, an ACCEPT frees the source entry; rx_next advances (R332, R344, R346, R347, R349, R351). While
windows are closing this says it of frames that acknowledge nothing. -/
def Obligations.SequencedFramesAreApplied : Prop :=
  ∀ (n : PortNo) (fr : Frame) (dt : Nat) (s : State) (i : Nat) (q : Pair) (w : Win),
    pairIdx s fr.win fr.src = some i → getPair s i = some q → q.window = fr.win → q.failed = false → fr.seq = q.rxNext →
    (fr.ackV = false ∨ ∀ x ∈ s.br.wins, x.2.closing = false) → getWin s fr.win = some w →
    let a := fr.addr.toNat
    let next (t : State) (z : Pair) : Prop := getPair t i = some z ∧ z.rxNext = q.rxNext + 1
    let answered (t : State) (b : List Byte) : Prop := ∃ z, next t z ∧
      ∃ x ∈ z.waitTx ++ z.unacked, x.fr.type = ftREAD_RESP ∧ x.fr.tag = fr.tag ∧ x.fr.payload = b
    (∀ ins ty, (ins, ty) ∈ [(.writeFrame n fr dt, ftWRITE), (.migDataFrame n fr dt, ftMIG_DATA)] → arrives s n fr ty = true →
      frameTaken s fr (some 0) = true → partGrant s w.part w.job true a fr.len.toNat = true →
      ∃ t z, exec ins s = .next t ∧ next t z ∧ t.mem = devWritten s a fr.payload) ∧
    (arrives s n fr ftREAD_REQ = true → frameTaken s fr (some 1) = true → partGrant s w.part w.job false a fr.len.toNat = true →
      ∃ t, exec (.readReqFrame n fr dt) s = .next t ∧ answered t (devRead s a fr.len.toNat) ∧ t.mem = s.mem) ∧
    (arrives s n fr ftATOMIC = true → frameTaken s fr (some 2) = true → partGrant s w.part w.job true a fr.len.toNat = true →
      ∃ t, exec (.atomicFrame n fr dt) s = .next t ∧ answered t (devRead s a 8) ∧
        t.mem = devWritten s a (leBytes 8 ((leNat (devRead s a 8) + leNat fr.payload) % 2 ^ 64))) ∧
    (∀ r, arrives s n fr ftREAD_RESP = true → q.reads.find? (fun r => decide (r.tag = fr.tag)) = some r → (∀ x ∈ s.br.wins, x.2.closing = false) →
      ∃ t z, exec (.readRespFrame n fr dt) s = .next t ∧ next t z ∧ z.reads = q.reads.erase r ∧
        ∀ c m e, r.owner = some (c, m) → (getCore s c).seq.dmaQ.find? (fun e => decide (e.n = m)) = some e →
          ∃ y ∈ (getCore t c).seq.dmaQ, y.n = m ∧ y.remoteReads = e.remoteReads - 1 ∧ y.got = tputs 0 e.got r.off (fitBytes r.len fr.payload)) ∧
    (∀ ch, arrives s n fr ftMIG_CTRL = true →
      (leNat fr.payload % 256 = mcSTART →
        ∃ t z, exec (.migCtrlFrame n fr ch dt) s = .next t ∧ next t z ∧ ⟨fr.win, fr.src, fr.payload⟩ ∈ t.br.migIn ∧ t.mem = s.mem) ∧
      (∀ m, leNat fr.payload % 256 = mcACCEPT → findOut s fr.win fr.src = some m → (∀ x ∈ s.br.wins, x.2.closing = false) →
        ∃ t z, exec (.migCtrlFrame n fr ch dt) s = .next t ∧ next t z ∧ (getStream t m.handle).state = .free ∧ m ∉ t.br.migOut))

/-- PAIR forms a pair of an open window that admits its sender; ACK, NAK and REJECT, the retry timeout and a discarded frame (R337, R338, R342,
R348 to R350), while no window is closing. An offer forms a pair that stands anew: the model's choice (log 48). -/
def Obligations.PairsFormAcknowledgeAndFail : Prop :=
  ∀ (n : PortNo) (fr : Frame) (dt : Nat) (s : State), (∀ x ∈ s.br.wins, x.2.closing = false) →
    let u := tick s dt
    (∀ w i, arrives s n fr ftPAIR = true → getWin s fr.win = some w → admits w fr.src = true → pairIdx s fr.win fr.src = none → freePair s = some i →
      ∃ t, exec (.pairReceive n fr dt) s = .next t ∧ getPair t i = some (newPair fr.win fr.src (leNat fr.payload) u.time) ∧ t.mem = s.mem) ∧
    (∀ w i q, arrives s n fr ftPAIR = true → getWin s fr.win = some w → admits w fr.src = true → pairIdx s fr.win fr.src = some i →
      getPair s i = some q → pairBusy s q = false → (leNat fr.payload).testBit 0 = false →
      ∃ t, exec (.pairReceive n fr dt) s = .next t ∧ getPair t i = some (newPair fr.win fr.src (leNat fr.payload) u.time) ∧ t.mem = s.mem) ∧
    (∀ i q, pairIdx s fr.win fr.src = some i → getPair s i = some q →
      let m := (fr.ack - q.txAcked).toNat
      let acked (z : Pair) : Prop := z.unacked = q.unacked.drop m ∧ z.txAcked = fr.ack ∧ z.timeouts = 0 ∧
        z.avail.toNat = min q.granted.toNat (q.avail.toNat + fr.cred.toNat)
      (arrives s n fr ftACK = true → q.failed = false → fr.ackV = true → 1 ≤ m → m ≤ q.unacked.length → q.waitTx = [] →
        ∃ t z, exec (.ackFrame n fr dt) s = .next t ∧ getPair t i = some z ∧ acked z ∧ t.mem = s.mem) ∧
      (∀ r, arrives s n fr ftNAK = true → pairStands s fr.win fr.src = true → q.failed = false → fr.ackV = true → 1 ≤ m → m ≤ q.unacked.length →
        q.waitTx = [] → (∀ x ∈ q.unacked, x.fr.dst = fr.src) → routeTo s fr.src = some r → (getPort s r.port).up = true →
        ∃ t z l, exec (.nakFrame n fr dt) s = .next t ∧ getPair t i = some z ∧ acked z ∧ t.br.sent = s.br.sent ++ l ∧
          l.map (·.fr.seq) = (q.unacked.drop m).map (·.fr.seq) ∧ t.mem = s.mem) ∧
      (arrives s n fr ftREJECT = true → ∃ t z, exec (.rejectFrame n fr dt) s = .next t ∧ getPair t i = some z ∧ z.failed = true)) ∧
    (∀ (pair : BitVec 10) q, getPair s pair.toNat = some q → devRuns s = true → retryDue u q = true →
      ∃ t z, exec (.retryTimeout pair dt) s = .next t ∧ getPair t pair.toNat = some z ∧
        (q.timeouts + 1 < s.br.retryMax.toNat → z.timeouts = q.timeouts + 1 ∧ z.failed = false ∧ z.unacked = q.unacked) ∧
        (s.br.retryMax.toNat ≤ q.timeouts + 1 → z.failed = true)) ∧
    (∀ et ok, linksRun s = true → (getPort s n).up = true → discardable s et ok fr = true →
      exec (.frameDiscard n et ok fr) s = .next (setPort s n
        { getPort s n with dropped := (getPort s n).dropped + 1, fecUncorr := if ok then (getPort s n).fecUncorr else (getPort s n).fecUncorr + 1 }))

/-- Device time by SYNC frames: the request goes to the parent, the answer carries the receive and send times, and the offset is slewed, or
stepped once before the runtime has started (R353). -/
def Obligations.DeviceTimeFollows : Prop :=
  ∀ (dt : Nat) (s : State),
    let u := tick s dt
    (∀ r, linksRun s = true → follows s = true → syncGap ≤ (u.time - s.br.syncAt).toNat → routeTo s s.br.parent = some r →
      (getPort s r.port).up = true → s.br.devidConflict = false →
      ∃ t fr o, exec (.syncTimer dt) s = .next t ∧ t.br.syncAt = u.time ∧ t.br.syncTag = s.br.syncTag + 1 ∧ t.br.sent = s.br.sent ++ [⟨r.port, fr, o⟩] ∧
        fr.type = ftSYNC_REQ ∧ fr.dst = s.br.parent ∧ fr.tag = s.br.syncTag + 1) ∧
    (∀ n q r t2 t3, syncArrives s n q ftSYNC_REQ = true → routeTo s q.src = some r → (getPort s r.port).up = true →
      stampedNow u t2 = true → stampedNow u t3 = true → t2.toNat ≤ t3.toNat →
      ∃ t fr o, exec (.syncReqReceive n q ⟨t2, t3, dt⟩) s = .next t ∧ t.br.sent = s.br.sent ++ [⟨r.port, fr, o⟩] ∧ fr.type = ftSYNC_RESP ∧ fr.dst = q.src ∧
        fr.tag = q.tag ∧ fr.payload = leBytes 8 t2.toNat ++ leBytes 8 t3.toNat) ∧
    (∀ n fr t1 t4, syncArrives s n fr ftSYNC_RESP = true → follows s = true → fr.src = s.br.parent → fr.tag = s.br.syncTag →
      let ns := syncOffset t1.toNat (leNat (fr.payload.take 8)) (leNat (fr.payload.drop 8)) t4.toNat
      ∃ t, exec (.syncRespReceive n fr t1 t4 dt) s = .next t ∧ t.br.offset = sat32 ns ∧
        (s.pw.phase = .running ∨ s.br.stepped = true → t.time = u.time ∧ t.br.slew = ns / 10 ∧ (t.br.locked = true ↔ ns.natAbs ≤ 1000)) ∧
        (s.pw.phase ≠ .running → s.br.stepped = false →
          t.time = u.time + BitVec.ofInt 64 (ns / 10) ∧ t.br.locked = true ∧ t.br.stepped = true))

/-! ### Resets, power, errors (18 to 20) -/

/-- Pins and rails (R374, R375, R417, R418): what holds the device in reset loses all but fuses; PERST_N keeps the tiers' bytes and the RWS
registers; the last cause that goes away boots. -/
def Obligations.PinsAndRailsResetTheDevice : Prop :=
  ∀ (s : State),
    let held (t : State) : Prop := t.pw.phase = .held ∧ t.cores = [] ∧ t.parts = [] ∧ t.streams = [] ∧ t.models = [] ∧ t.funcs = [] ∧ t.fatal = false ∧
      t.time = 0 ∧ t.fuses = s.fuses ∧ t.hostMem = s.hostMem
    let booted (t : State) : Prop := (t.pw.phase = .running ∨ t.pw.phase = .bootStopped) ∧ t.fuses.devid = s.fuses.devidPins ∧
      t.fuses.bootsrc = s.fuses.bootsrcPin
    (∀ b, s.pw.pwrgood = false → s.pw.railsBad = [] →
      ∃ t, exec (.powerOnReset b) s = .next t ∧ t.pw.pwrgood = true ∧ (s.pw.perstLow = true → t.pw.phase = s.pw.phase) ∧
        (s.pw.perstLow = false → booted t)) ∧
    (s.pw.pwrgood = true → ∃ t, exec .pwrgoodFall s = .next t ∧ held t ∧ t.mem = [] ∧ t.pw.pwrgood = false) ∧
    (∀ r, s.pw.pwrgood = true → s.pw.railsBad.contains r = false →
      ∃ t, exec (.undervoltage r) s = .next t ∧ held t ∧ t.mem = [] ∧ t.pw.railsBad = s.pw.railsBad ++ [r]) ∧
    (∀ r b, s.pw.railsBad.contains r = true →
      ∃ t, exec (.railReturn r b) s = .next t ∧ t.pw.railsBad = s.pw.railsBad.filter (fun q => decide (q ≠ r)) ∧
        (s.pw.pwrgood = true → s.pw.perstLow = false → (∀ q ∈ s.pw.railsBad, q = r) → booted t)) ∧
    (s.pw.perstLow = false → s.pw.pwrgood = true → s.pw.clockStop ≠ some cTHERMTRIP →
      ∃ t, exec .perstNAssert s = .next t ∧ held t ∧ t.mem = s.mem ∧ t.pw.perstLow = true ∧ t.pw.capWatts = s.pw.capWatts ∧
        t.pw.capHyst = s.pw.capHyst) ∧
    (∀ b, s.pw.perstLow = true → s.pw.phase = .held →
      ∃ t, exec (.perstNDeassert b) s = .next t ∧ t.pw.perstLow = false ∧ (s.pw.pwrgood = true → s.pw.railsBad = [] → booted t))

/-- The warm reset, hot reset, an FLR, VF Enable and the partition reset (R295, R296, R312, R376 to R379): what each leaves. -/
def Obligations.NarrowerResetsComplete : Prop :=
  ∀ (dt : Nat) (s : State),
    let u := tick s dt
    let fresh (t : State) (f : Func) : Prop := (getFn t f).holdoff = 20 ∧ (getFn t f).count = 16 ∧ (getFn t f).taken = [] ∧ (getFn t f).inNext = 0
    (∀ b, configReaches s = true →
      ∃ t, exec (.pwWresetWrite 0x57525354 b dt) s = .next t ∧ t.pw.wrCause = 1 ∧ t.pw.wrCount = satAdd s.pw.wrCount 1 ∧ t.time = u.time ∧
        t.mem = s.mem ∧ t.streams = [] ∧ t.models = [] ∧ t.parts = [] ∧ t.pw.capWatts = s.pw.capWatts ∧
        (t.pw.phase = .running ∨ t.pw.phase = .bootStopped)) ∧
    (∀ v b, v ≠ 0x57525354 → exec (.pwWresetWrite v b dt) s = .next s) ∧
    (s.pw.phase ≠ .held → s.pw.clockStop ≠ some cTHERMTRIP →
      ∃ t, exec (.hotReset dt) s = .next t ∧ (∀ f, fresh t f) ∧ (∀ f, f ≠ 0 → (getFn t f).enabled = false) ∧
        (runtimeUp s = true → ∀ h, (getStream t h).state = .free ∨ (getStream t h).state = .closing)) ∧
    (∀ f, configReaches s = true → fnExists s f = true → f ≠ 0 →
      ∃ t, exec (.flr f dt) s = .next t ∧ fresh t f ∧ (getFn t f).enabled = (getFn s f).enabled ∧
        (runtimeUp s = true → ∀ h, (getStream t h).client = f → (getStream t h).state = .free ∨ (getStream t h).state = .closing)) ∧
    (configReaches s = true →
      (∀ n, vfsOn s = false → n.toNat ≤ 31 →
        ∃ t, exec (.vfEnableWrite true n) s = .next t ∧ (∀ f, f ≠ 0 → f.toNat ≤ n.toNat → (getFn t f).enabled = true) ∧
          (∀ f, n.toNat < f.toNat → getFn t f = getFn s f) ∧ t.mem = s.mem) ∧
      (∀ n, vfsOn s = true → ∃ t, exec (.vfEnableWrite false n) s = .next t ∧ ∀ f, f ≠ 0 → (getFn t f).enabled = false)) ∧
    (∀ p, rtRuns s = true → (getPart s p).resetDue = true → resetQuiet s p = true →
      ∃ t, exec (.partitionReset p dt) s = .next t ∧ (getPart t p).resetDue = false ∧ (getPart t p).stopping = false ∧ (getPart t p).task = none ∧
        ∀ c ∈ partCores (getPart s p), (getCore t c).seq.phase = .idle ∧ (getCore t c).seq.pc = 0 ∧ (getCore t c).seq.sregs = [] ∧ IdleQueues t c)

/-- C1, C2, device idle and standby (R120, R382 to R384): a course that leaves C2 has its unmarked banks zeroed and its drone region kept. -/
def Obligations.LowPowerStatesComplete : Prop :=
  ∀ (dt : Nat) (s : State),
    (∀ k, devRuns s = true → (getCourse s k).cst = .c0 → courseBound s k = false → exec (.c1Entry k) s = .next (putCState s k .c1)) ∧
    (∀ k, rtRuns s = true → (getCourse s k).cst ≠ .c2 →
      (partOfCourse s k = none → exec (.c2Entry k) s = .next (putCState s k .c2)) ∧
      (∀ p, partOfCourse s k = some p → c2Due s (getPart s p) = true →
        ∃ t, exec (.c2Entry k) s = .next t ∧ (∀ l ∈ partCourses (getPart s p), (getCourse t l).cst = .c2) ∧ t.cores = s.cores ∧ t.parts = s.parts)) ∧
    (∀ k, rtRuns s = true → (getCourse s k).cst = .c2 →
      ∃ t, exec (.c2Exit k) s = .next t ∧ (getCourse t k).cst = .c0 ∧ t.mem = s.mem ∧ ∀ c ∈ courseCores k,
        (getCore t c).drone = (getCore s c).drone ∧ (getCore t c).spTask = .reset ∧ (getCore t c).seq = .reset ∧
        ∀ a, Memory.rd (getCore t c).eng.sp a = if a < droneStart (getCore s c).drone.toNat then 0 else Memory.rd (getCore s c).eng.sp a) ∧
    (devRuns s = true → s.pw.idle = false → (∀ k, (getCourse s k).cst = .c2) →
      exec .deviceIdleEntry s = .next { s with pw := { s.pw with idle := true } }) ∧
    (devRuns s = true → s.pw.idle = true → exec .deviceIdleExit s = .next { s with pw := { s.pw with idle := false } }) ∧
    (devRuns s = true → tasksOver s = true →
      ∃ t, exec (.standbyEntry dt) s = .next t ∧ t.pw.standby = true ∧ t.pw.pfD3 = true ∧ (∀ k, (getCourse t k).cst = .c2) ∧
        (∀ n, (getPort t n).up = false) ∧ (s.pw.pfD3 = false → ∀ f, (getFn t f).ready = false)) ∧
    (s.pw.pfD3 = true → s.pw.phase = .running → s.pw.clockStop = none → s.fatal = false →
      ∃ t, exec (.standbyExit dt) s = .next t ∧ t.pw.standby = false ∧ t.pw.pfD3 = false ∧
        ∀ f, (getFn t f).ready = ((getFn s f).enabled && !(getFn s f).flr))

/-- The power loop at the end of a period: one step down above the cap, one up at or below the cap less the hysteresis; a period above the cap
at the lowest duty is counted (R388). -/
def Obligations.PowerLoopMovesTheDuty : Prop :=
  ∀ (power : BitVec 16) (dt : Nat) (s : State), devRuns s = true →
    let d := s.pw.dutyP.toNat
    let cap := s.pw.capWatts.toNat
    ∃ t, exec (.powerLoopTick power dt) s = .next t ∧ t.pw.power = power ∧ t.pw.dutyT = s.pw.dutyT ∧ t.mem = s.mem ∧
      t.tele.pwRun.overCap = s.tele.pwRun.overCap + (if d ≤ 4 ∧ cap < power.toNat then 1 else 0) ∧
      t.pw.dutyP.toNat =
        if cap < power.toNat then max 4 (d - 1) else if power.toNat + s.pw.capHyst.toNat ≤ cap then min 16 (d + 1) else d

/-- The thermal loop's duty (R389, R422). A trip, a loss of clocks and a failed stack are device errors (R373, R402, R408). The heartbeat advances beat;
50 ms without it is a watchdog error, which ends in an automatic warm reset, or halted at the third within 600 s (R403). -/
def Obligations.DeviceErrorsHeartbeatAndThermalLoop : Prop :=
  (∀ (tmax : BitVec 12) (dt : Nat) (s : State), devRuns s = true →
    let d := s.pw.dutyT.toNat
    ∃ t, exec (.thermalLoopTick tmax dt) s = .next t ∧ t.pw.tmax = tmax ∧ t.pw.dutyP = s.pw.dutyP ∧ t.mem = s.mem ∧
      (800 ≤ tmax.toInt → s.pw.hot = false → t.pw.alert = true) ∧ (tmax.toInt < 800 → t.pw.alert = s.pw.alert) ∧
      t.pw.dutyT.toNat = if 800 ≤ tmax.toInt then max 4 (d - 1) else if tmax.toInt ≤ 776 then min 16 (d + 1) else d) ∧
  (∀ (dt : Nat) (s : State), configReaches s = true →
    let failed (t : State) : Prop := t.fatal = true ∧ (∀ f, (getFn t f).ready = false) ∧ (∀ p, (getPart t p).task = none) ∧
      t.aer = s.aer ++ [0] ∧ (s.fatal = false → t.pw.alert = true) ∧ (s.mon.fatal ≠ 0 → t.mon.fatal = s.mon.fatal) ∧ (s.mon.fatal = 0 → t.mon.fatal ≠ 0)
    (∃ t, exec (.thermtrip dt) s = .next t ∧ failed t ∧ t.pw.thermtrip = true ∧ t.pw.clockStop = some cTHERMTRIP) ∧
    (∀ k, ∃ t, exec (.clockLoss k dt) s = .next t ∧ failed t ∧ t.pw.clockStop = some cCLOCK) ∧
    (∀ st : BitVec 2, s.pw.stackDown.getLsbD st.toNat = false →
      ∃ t, exec (.hbmStackFailure st dt) s = .next t ∧ failed t ∧ t.pw.stackDown.getLsbD st.toNat = true ∧ t.pw.clockStop = none)) ∧
  (∀ (dt : Nat) (s : State),
    let u := tick s dt
    (rtRuns u = true → beatTicks ≤ (u.time - s.beatAt).toNat →
      ∃ t, exec (.heartbeat dt) s = .next t ∧ t.beat = s.beat + 1 ∧ t.beatAt = u.time) ∧
    (∀ b, stalled u = true → s.pw.autoDue = false →
      (autoOk u = true → ∃ t, exec (.watchdogExpiry b dt) s = .next t ∧ t.pw.wrCause = 2 ∧ t.pw.wrCount = satAdd s.pw.wrCount 1 ∧
        t.streams = [] ∧ t.pw.autoResets = s.pw.autoResets ++ [u.time]) ∧
      (autoOk u = false → ∃ t, exec (.watchdogExpiry b dt) s = .next t ∧ t.pw.phase = .halted ∧ t.fatal = true ∧ (∀ f, (getFn t f).ready = false))) ∧
    (∀ b, s.pw.autoDue = true → configReaches s = true → ∃ t, exec (.watchdogExpiry b dt) s = .next t ∧ t.pw.wrCause = 2 ∧ t.streams = []))

/-- The board management bus: a transaction for this device with a sound PEC reads the sensor and changes nothing else; the Alert Response
Address answers with the device's address and releases ALERT_N (R421, R422). -/
def Obligations.BoardManagementBusComplete : Prop :=
  ∀ (s : State), s.pw.smbAck = true → s.pw.clockStop = none →
    (∀ id, exec (.smbusTransaction (smbAddr s) true id) s = .next { s with pw := { s.pw with smbReply := sensorOf s id } }) ∧
    (∀ addr pec id, addr ≠ smbAddr s ∨ pec = false → exec (.smbusTransaction addr pec id) s = .next { s with pw := { s.pw with smbReply := none } }) ∧
    (s.pw.alert = true → exec .alertResponseRead s = .next { s with pw := { s.pw with alert := false, smbReply := some ((smbAddr s).setWidth 64) } }) ∧
    sensorOf s 1 = some (s.pw.power.setWidth 64) ∧ sensorOf s 5 = some (s.pw.capWatts.setWidth 64) ∧
    (sensorOf s 10 = some 1 ↔ s.fatal = true) ∧ (∀ id, (id = 0 ∨ 10 < id) → sensorOf s id = none)
end

