-- ==== Sys2Proof/Laws/Memory.lean ====
section
/-! SUPPORT. Sparse tables and memory: reading after a write, and the canonical form that every operation keeps. -/

namespace Sys2Proof.Machine
open Sys2Proof

variable {α : Type}

/-! ### Reads -/

theorem tget_tdel_ne {d : α} {t : Tbl α} {k j : Nat} (h : j ≠ k) : tget d (tdel t k) j = tget d t j := by
  induction t with
  | nil => rfl
  | cons x r ih =>
    obtain ⟨i, v⟩ := x
    by_cases hi : i = k
    · subst hi
      simp [tdel, tget, ih, Ne.symm h]
    · simp [tdel, tget, hi, ih]

theorem tget_tdel_self {d : α} {t : Tbl α} {k : Nat} : tget d (tdel t k) k = d := by
  induction t with
  | nil => rfl
  | cons x r ih =>
    obtain ⟨i, v⟩ := x
    by_cases hi : i = k <;> simp [tdel, tget, hi, ih]

theorem tget_tins_self {d : α} {t : Tbl α} {k : Nat} {v : α} (h : ∀ x ∈ t, x.1 ≠ k) : tget d (tins t k v) k = v := by
  induction t with
  | nil => simp [tins, tget]
  | cons x r ih =>
    obtain ⟨i, w⟩ := x
    have hi : i ≠ k := h (i, w) (by simp)
    have hr := ih fun y hy => h y (by simp [hy])
    by_cases hk : k < i <;> simp [tins, tget, hk, hi, hr]

theorem tget_tins_ne {d : α} {t : Tbl α} {k j : Nat} {v : α} (h : j ≠ k) : tget d (tins t k v) j = tget d t j := by
  induction t with
  | nil => simp [tins, tget, Ne.symm h]
  | cons x r ih =>
    obtain ⟨i, w⟩ := x
    by_cases hk : k < i <;> simp [tins, tget, hk, ih, Ne.symm h]

theorem tdel_not_mem {t : Tbl α} {k : Nat} : ∀ x ∈ tdel t k, x.1 ≠ k := by
  induction t with
  | nil => simp [tdel]
  | cons y r ih =>
    obtain ⟨i, v⟩ := y
    by_cases hi : i = k
    · simpa [tdel, hi] using ih
    · intro x hx
      rcases List.mem_cons.1 (by simpa [tdel, hi] using hx) with rfl | h
      · exact hi
      · exact ih x h

/-- A table holds what was put under a key. -/
@[simp] theorem tget_tput_self [DecidableEq α] {d : α} {t : Tbl α} {k : Nat} {v : α} : tget d (tput d t k v) k = v := by
  by_cases h : v = d
  · simp [tput, h, tget_tdel_self]
  · simp [tput, h, tset, tget_tins_self tdel_not_mem]

/-- Every other key keeps its value. -/
theorem tget_tput_ne [DecidableEq α] {d : α} {t : Tbl α} {k j : Nat} {v : α} (h : j ≠ k) : tget d (tput d t k v) j = tget d t j := by
  by_cases hv : v = d
  · simp [tput, hv, tget_tdel_ne h]
  · simp [tput, hv, tset, tget_tins_ne h, tget_tdel_ne h]

theorem tget_tclear {d : α} {t : Tbl α} {lo n j : Nat} : tget d (tclear t lo n) j = if lo ≤ j ∧ j < lo + n then d else tget d t j := by
  induction t with
  | nil => simp [tclear, tget]
  | cons x r ih =>
    obtain ⟨i, v⟩ := x
    simp only [tclear] at ih ⊢
    by_cases hin : i < lo ∨ lo + n ≤ i
    · simp only [List.filter_cons, hin, decide_true, if_true, tget, ih]
      by_cases hij : i = j
      · subst hij
        have : ¬(lo ≤ i ∧ i < lo + n) := by omega
        simp [this]
      · simp [hij]
    · simp only [List.filter_cons, hin, decide_false, Bool.false_eq_true, if_false, ih, tget]
      by_cases hij : i = j
      · subst hij
        have : lo ≤ i ∧ i < lo + n := by omega
        simp [this]
      · simp [hij]

/-! ### The canonical form -/

theorem tabove_mono {a b : Nat} {t : Tbl α} (hab : a ≤ b) (h : tabove b t = true) : tabove a t = true := by
  cases t with
  | nil => rfl
  | cons x r =>
    obtain ⟨i, v⟩ := x
    simp only [tabove, Bool.and_eq_true, decide_eq_true_eq] at h ⊢
    exact ⟨by omega, h.2⟩

theorem tabove_filter {p : Nat × α → Bool} {b : Nat} {t : Tbl α} (h : tabove b t = true) : tabove b (t.filter p) = true := by
  induction t generalizing b with
  | nil => rfl
  | cons x r ih =>
    obtain ⟨i, v⟩ := x
    simp only [tabove, Bool.and_eq_true, decide_eq_true_eq] at h
    by_cases hp : p (i, v)
    · simp [List.filter_cons, hp, tabove, h.1, ih h.2]
    · simp [List.filter_cons, hp, tabove_mono (Nat.le_of_lt h.1) (ih h.2)]

theorem trising_of_tabove {b : Nat} {t : Tbl α} (h : tabove b t = true) : trising t = true := by
  cases t with
  | nil => rfl
  | cons x r =>
    obtain ⟨i, v⟩ := x
    simp only [tabove, Bool.and_eq_true, decide_eq_true_eq] at h
    exact h.2

theorem trising_filter {p : Nat × α → Bool} {t : Tbl α} (h : trising t = true) : trising (t.filter p) = true := by
  cases t with
  | nil => rfl
  | cons x r =>
    obtain ⟨i, v⟩ := x
    have hr : tabove i (r.filter p) = true := tabove_filter h
    by_cases hp : p (i, v)
    · simpa [List.filter_cons, hp, trising] using hr
    · simpa [List.filter_cons, hp] using trising_of_tabove hr

theorem tdel_eq_filter {t : Tbl α} {k : Nat} : tdel t k = t.filter fun x => decide (x.1 ≠ k) := by
  induction t with
  | nil => rfl
  | cons x r ih =>
    obtain ⟨i, v⟩ := x
    by_cases hi : i = k <;> simp [tdel, hi, List.filter_cons, ih]

theorem tabove_tins {b k : Nat} {v : α} {t : Tbl α} (hb : b < k) (h : tabove b t = true) (hk : ∀ x ∈ t, x.1 ≠ k) :
    tabove b (tins t k v) = true := by
  induction t generalizing b with
  | nil => simp [tins, tabove, hb]
  | cons x r ih =>
    obtain ⟨i, w⟩ := x
    simp only [tabove, Bool.and_eq_true, decide_eq_true_eq] at h
    have hik : i ≠ k := hk (i, w) (by simp)
    by_cases hlt : k < i
    · simp [tins, hlt, tabove, hb, h.2]
    · have hr := ih (b := i) (by omega) h.2 fun y hy => hk y (by simp [hy])
      simp [tins, hlt, tabove, h.1, hr]

theorem trising_tins {k : Nat} {v : α} {t : Tbl α} (h : trising t = true) (hk : ∀ x ∈ t, x.1 ≠ k) : trising (tins t k v) = true := by
  cases t with
  | nil => simp [tins, trising, tabove]
  | cons x r =>
    obtain ⟨i, w⟩ := x
    have hr : tabove i r = true := h
    have hik : i ≠ k := hk (i, w) (by simp)
    by_cases hlt : k < i
    · simp [tins, hlt, trising, tabove, hr]
    · have := tabove_tins (v := v) (show i < k by omega) hr fun y hy => hk y (by simp [hy])
      simpa [tins, hlt, trising] using this

theorem mem_tins {k : Nat} {v : α} {t : Tbl α} {x : Nat × α} (h : x ∈ tins t k v) : x = (k, v) ∨ x ∈ t := by
  induction t with
  | nil => simpa [tins] using h
  | cons y r ih =>
    obtain ⟨i, w⟩ := y
    by_cases hlt : k < i
    · simpa [tins, hlt] using h
    · rcases List.mem_cons.1 (by simpa [tins, hlt] using h) with rfl | h
      · simp
      · rcases ih h with rfl | h <;> simp [*]

theorem twf_filter [DecidableEq α] {d : α} {p : Nat × α → Bool} {t : Tbl α} (h : twf d t = true) : twf d (t.filter p) = true := by
  simp only [twf, Bool.and_eq_true, List.all_eq_true] at h ⊢
  exact ⟨trising_filter h.1, fun x hx => h.2 x (List.mem_filter.1 hx).1⟩

/-- Putting a value keeps the form: the default is never listed. -/
theorem twf_tput [DecidableEq α] {d : α} {t : Tbl α} {k : Nat} {v : α} (h : twf d t = true) : twf d (tput d t k v) = true := by
  have hd : twf d (tdel t k) = true := tdel_eq_filter (t := t) ▸ twf_filter h
  by_cases hv : v = d
  · simpa [tput, hv] using hd
  · simp only [twf, Bool.and_eq_true, List.all_eq_true] at hd
    simp only [tput, hv, if_false, tset, twf, Bool.and_eq_true, List.all_eq_true]
    refine ⟨trising_tins hd.1 tdel_not_mem, fun x hx => ?_⟩
    rcases mem_tins hx with rfl | hx
    · simpa using hv
    · exact hd.2 x hx

theorem twf_tputs [DecidableEq α] {d : α} {l : List α} {t : Tbl α} {k : Nat} (h : twf d t = true) : twf d (tputs d t k l) = true := by
  induction l generalizing t k with
  | nil => exact h
  | cons v r ih => exact ih (twf_tput h)

/-! ### Memory -/

@[simp] theorem Memory.rd_wr_self {m : Tbl Byte} {a : Nat} {b : Byte} : Memory.rd (Memory.wr m a b) a = b := tget_tput_self

theorem Memory.rd_wr_ne {m : Tbl Byte} {a x : Nat} {b : Byte} (h : x ≠ a) : Memory.rd (Memory.wr m a b) x = Memory.rd m x := tget_tput_ne h

/-- Bytes outside a write read as before. -/
theorem Memory.rd_wrs_out {l : List Byte} {m : Tbl Byte} {a x : Nat} (h : x < a ∨ a + l.length ≤ x) :
    Memory.rd (Memory.wrs m a l) x = Memory.rd m x := by
  induction l generalizing m a with
  | nil => rfl
  | cons b r ih =>
    simp only [List.length_cons] at h
    have := ih (m := tput 0#8 m a b) (a := a + 1) (by omega)
    exact this.trans (tget_tput_ne (by omega))

/-- Bytes inside a write read as written. -/
theorem Memory.rd_wrs_in {l : List Byte} {m : Tbl Byte} {a i : Nat} (h : i < l.length) : Memory.rd (Memory.wrs m a l) (a + i) = l[i] := by
  induction l generalizing m a i with
  | nil => simp at h
  | cons b r ih =>
    cases i with
    | zero =>
      have := Memory.rd_wrs_out (l := r) (m := tput 0#8 m a b) (a := a + 1) (x := a) (by omega)
      simpa [Memory.wrs, tputs] using this.trans tget_tput_self
    | succ i =>
      have := ih (m := tput 0#8 m a b) (a := a + 1) (i := i) (by simpa using h)
      have e : a + (i + 1) = a + 1 + i := by omega
      rw [e]
      simpa [Memory.wrs, tputs] using this

theorem Memory.rd_zero {m : Tbl Byte} {a n x : Nat} : Memory.rd (Memory.zero m a n) x = if a ≤ x ∧ x < a + n then 0 else Memory.rd m x :=
  tget_tclear

theorem Memory.wf_wr {m : Tbl Byte} {a : Nat} {b : Byte} (h : Memory.wf m = true) : Memory.wf (Memory.wr m a b) = true := twf_tput h
theorem Memory.wf_wrs {m : Tbl Byte} {a : Nat} {l : List Byte} (h : Memory.wf m = true) : Memory.wf (Memory.wrs m a l) = true := twf_tputs h
theorem Memory.wf_zero {m : Tbl Byte} {a n : Nat} (h : Memory.wf m = true) : Memory.wf (Memory.zero m a n) = true := twf_filter h

theorem Memory.wf_wrList {l : List (Nat × Byte)} {m : Tbl Byte} (h : Memory.wf m = true) : Memory.wf (Memory.wrList m l) = true := by
  induction l generalizing m with
  | nil => exact h
  | cons x r ih => exact ih (Memory.wf_wr h)

theorem Memory.wf_reset : Memory.wf State.reset.mem = true := rfl

end Sys2Proof.Machine
end

