-- ==== Sys2Proof/Laws/Keeps.lean ====
section
/-! SUPPORT. What every shared operation keeps: the queue, the canonical form of both memories, the ranges of the PW registers, and what
fuses keep for good. -/

namespace Sys2Proof

theorem FusesLe.refl (u : Machine.Fuses) : FusesLe u u := ⟨id, id, id, fun _ => Nat.le_refl _, Nat.le_refl _, Nat.le_refl _, rfl, rfl, fun _ => rfl, fun _ => rfl⟩

theorem FusesLe.trans {u v w : Machine.Fuses} (h : FusesLe u v) (hd : u.debugUsed.toNat ≤ 64 → v.debugUsed.toNat ≤ 64) (k : FusesLe v w) : FusesLe u w :=
  ⟨fun i => k.prov (h.prov i), fun i => k.owner (h.owner i), fun i => k.retired (h.retired i), fun i => Nat.le_trans (h.debug i) (k.debug (hd i)),
    Nat.le_trans h.floorMon k.floorMon, Nat.le_trans h.floorRt k.floorRt, k.root.trans h.root, k.revoked.trans h.revoked,
    fun i => (k.ownerKey (h.owner i)).trans (h.ownerKey i), fun i => (k.identity (h.prov i)).trans (h.identity i)⟩

namespace Machine

/-! ### The relation -/

/-- `t` came from `s0` by operations that keep the invariant, the queue and the fuses' promises. -/
structure Keeps (s0 t : State) : Prop where
  pending : t.pending = s0.pending
  mem : Memory.wf s0.mem = true → Memory.wf t.mem = true
  host : Memory.wf s0.hostMem = true → Memory.wf t.hostMem = true
  pw : PwOk s0.pw → PwOk t.pw
  debug : s0.fuses.debugUsed.toNat ≤ 64 → t.fuses.debugUsed.toNat ≤ 64
  fuses : FusesLe s0.fuses t.fuses

theorem Keeps.refl (s : State) : Keeps s s := ⟨rfl, id, id, id, id, .refl _⟩

theorem Keeps.inv {s0 t : State} (h : Keeps s0 t) (i : Inv s0) : Inv t := ⟨h.mem i.mem, h.host i.host, h.pw i.pw, h.debug i.debug⟩

/-- An update that leaves the queue and the fuses alone. -/
theorem keeps_of {s0 s t : State} (h : Keeps s0 s) (q : t.pending = s.pending) (f : t.fuses = s.fuses)
    (m : Memory.wf s.mem = true → Memory.wf t.mem = true) (m' : Memory.wf s.hostMem = true → Memory.wf t.hostMem = true)
    (w : PwOk s.pw → PwOk t.pw) : Keeps s0 t :=
  ⟨q.trans h.pending, fun i => m (h.mem i), fun i => m' (h.host i), fun i => w (h.pw i), by rw [f]; exact h.debug, by rw [f]; exact h.fuses⟩

/-- An update of nothing that the relation looks at. -/
theorem keeps_upd {s0 s : State} {x_time : W64} {x_free : Nat} {x_regions : List Region} {x_cores : Tbl CoreSt} {x_courses : Tbl Course} {x_parts :
    Tbl Part} {x_streams : Tbl Stream} {x_profiles : Tbl Profile} {x_models : Tbl Model} {x_bundles : List Bundle} {x_bundleNo : W32} {x_funcs : Tbl
    Fn} {x_turns : List (Func × Func)} {x_fatal : Bool} {x_beat : W32} {x_beatAt : W64} {x_apertures : Tbl Aperture} {x_cpl : Option (List Byte)}
    {x_inProgress : List InProgress} {x_aer : List (BitVec 2)} {x_sbtm : SbTmSt} {x_mig : MigSt} {x_mon : MonSt} {x_br : BrSt} {x_tele : TeleSt} :
    Keeps s0 ⟨s.pending, x_time, x_free, s.mem, s.hostMem, x_regions, x_cores, x_courses, x_parts, x_streams, x_profiles, x_models, x_bundles,
    x_bundleNo, x_funcs, x_turns, x_fatal, x_beat, x_beatAt, x_apertures, x_cpl, x_inProgress, x_aer, x_sbtm, x_mig, x_mon, s.fuses, x_br, x_tele,
    s.pw⟩ ↔ Keeps s0 s :=
  ⟨fun h => keeps_of h rfl rfl id id id, fun h => keeps_of h rfl rfl id id id⟩
/-- An update of PW fields without a range. -/
theorem keeps_updPw {s0 s : State} {x_time : W64} {x_free : Nat} {x_regions : List Region} {x_cores : Tbl CoreSt} {x_courses : Tbl Course} {x_parts :
    Tbl Part} {x_streams : Tbl Stream} {x_profiles : Tbl Profile} {x_models : Tbl Model} {x_bundles : List Bundle} {x_bundleNo : W32} {x_funcs : Tbl
    Fn} {x_turns : List (Func × Func)} {x_fatal : Bool} {x_beat : W32} {x_beatAt : W64} {x_apertures : Tbl Aperture} {x_cpl : Option (List Byte)}
    {x_inProgress : List InProgress} {x_aer : List (BitVec 2)} {x_sbtm : SbTmSt} {x_mig : MigSt} {x_mon : MonSt} {x_br : BrSt} {x_tele : TeleSt}
    {p_phase : DevPhase} {p_pwrgood : Bool} {p_perstLow : Bool} {p_poweredOn : Bool} {p_enumDue : Bool} {p_clockStop : Option (BitVec 8)} {p_thermtrip
    : Bool} {p_alert : Bool} {p_hot : Bool} {p_smbAck : Bool} {p_smbReply : Option (BitVec 64)} {p_railsBad : List Rail} {p_power : BitVec 16} {p_tmax
    : BitVec 12} {p_energy : W64} {p_wrBusy : Bool} {p_wrCount : BitVec 8} {p_wrCause : BitVec 2} {p_autoResets : List W64} {p_autoDue : Bool}
    {p_standby : Bool} {p_pfD3 : Bool} {p_idle : Bool} {p_lpddrDown : Bool} {p_stackDown : BitVec 4} {p_expPresent : BitVec 4} {p_expDown : BitVec 4}
    {p_expCap : Tbl Nat} {p_t1Refused : Bool} {p_samples : Nat} : Keeps s0 ⟨s.pending, x_time, x_free, s.mem, s.hostMem, x_regions, x_cores,
    x_courses, x_parts, x_streams, x_profiles, x_models, x_bundles, x_bundleNo, x_funcs, x_turns, x_fatal, x_beat, x_beatAt, x_apertures, x_cpl,
    x_inProgress, x_aer, x_sbtm, x_mig, x_mon, s.fuses, x_br, x_tele, ⟨p_phase, p_pwrgood, p_perstLow, p_poweredOn, p_enumDue, p_clockStop,
    p_thermtrip, p_alert, p_hot, p_smbAck, p_smbReply, p_railsBad, s.pw.dutyP, s.pw.dutyT, p_power, p_tmax, p_energy, s.pw.capWatts, s.pw.capHyst,
    s.pw.c2Delay, p_wrBusy, p_wrCount, p_wrCause, p_autoResets, p_autoDue, p_standby, p_pfD3, p_idle, p_lpddrDown, p_stackDown, p_expPresent,
    p_expDown, p_expCap, p_t1Refused, p_samples⟩⟩ ↔ Keeps s0 s :=
  ⟨fun h => keeps_of h rfl rfl id id (fun i => ⟨i.dutyP, i.dutyT, i.cap, i.hyst, i.delay⟩), fun h => keeps_of h rfl rfl id id (fun i => ⟨i.dutyP, i.dutyT, i.cap, i.hyst, i.delay⟩)⟩
/-- An update of what may be written again. -/
theorem keeps_updFuses {s0 s : State} {x_time : W64} {x_free : Nat} {x_regions : List Region} {x_cores : Tbl CoreSt} {x_courses : Tbl Course} {x_parts
    : Tbl Part} {x_streams : Tbl Stream} {x_profiles : Tbl Profile} {x_models : Tbl Model} {x_bundles : List Bundle} {x_bundleNo : W32} {x_funcs : Tbl
    Fn} {x_turns : List (Func × Func)} {x_fatal : Bool} {x_beat : W32} {x_beatAt : W64} {x_apertures : Tbl Aperture} {x_cpl : Option (List Byte)}
    {x_inProgress : List InProgress} {x_aer : List (BitVec 2)} {x_sbtm : SbTmSt} {x_mig : MigSt} {x_mon : MonSt} {u_lot : W64} {u_wafer : BitVec 5}
    {u_dieX : BitVec 8} {u_dieY : BitVec 8} {u_site : BitVec 8} {u_fuseRev : BitVec 8} {u_rev : BitVec 8} {u_idSecret : Option (BitVec 384)} {u_idCert
    : BitVec 8208} {u_devidPins : DevNo} {u_bootsrcPin : Bool} {u_devid : DevNo} {u_bootsrc : Bool} {u_sparing : List (BitVec 64)} {u_sparingNo : W32}
    {u_sparingSig : BitVec 768} {u_sparingStatus : BitVec 2} {x_br : BrSt} {x_tele : TeleSt} : Keeps s0 ⟨s.pending, x_time, x_free, s.mem, s.hostMem,
    x_regions, x_cores, x_courses, x_parts, x_streams, x_profiles, x_models, x_bundles, x_bundleNo, x_funcs, x_turns, x_fatal, x_beat, x_beatAt,
    x_apertures, x_cpl, x_inProgress, x_aer, x_sbtm, x_mig, x_mon, ⟨s.fuses.prov, s.fuses.ownerBurnt, s.fuses.retired, s.fuses.debugUsed,
    s.fuses.floorMon, s.fuses.floorRt, s.fuses.revoked, s.fuses.rootDigest, s.fuses.ownerDigest, u_lot, u_wafer, u_dieX, u_dieY, u_site, u_fuseRev,
    u_rev, s.fuses.idPub, u_idSecret, u_idCert, u_devidPins, u_bootsrcPin, u_devid, u_bootsrc, u_sparing, u_sparingNo, u_sparingSig, u_sparingStatus⟩,
    x_br, x_tele, s.pw⟩ ↔ Keeps s0 s :=
  ⟨fun h => ⟨h.pending, h.mem, h.host, h.pw, h.debug, ⟨h.fuses.1, h.fuses.2, h.fuses.3, h.fuses.4, h.fuses.5, h.fuses.6, h.fuses.7, h.fuses.8, h.fuses.9, h.fuses.10⟩⟩, fun h => ⟨h.pending, h.mem, h.host, h.pw, h.debug, ⟨h.fuses.1, h.fuses.2, h.fuses.3, h.fuses.4, h.fuses.5, h.fuses.6, h.fuses.7, h.fuses.8, h.fuses.9, h.fuses.10⟩⟩⟩
/-- A write to device memory. -/
theorem keeps_mem {s0 s : State} {x_time : W64} {x_free : Nat} {x_mem : Tbl Byte} {x_regions : List Region} {x_cores : Tbl CoreSt} {x_courses : Tbl
    Course} {x_parts : Tbl Part} {x_streams : Tbl Stream} {x_profiles : Tbl Profile} {x_models : Tbl Model} {x_bundles : List Bundle} {x_bundleNo :
    W32} {x_funcs : Tbl Fn} {x_turns : List (Func × Func)} {x_fatal : Bool} {x_beat : W32} {x_beatAt : W64} {x_apertures : Tbl Aperture} {x_cpl :
    Option (List Byte)} {x_inProgress : List InProgress} {x_aer : List (BitVec 2)} {x_sbtm : SbTmSt} {x_mig : MigSt} {x_mon : MonSt} {x_br : BrSt}
    {x_tele : TeleSt} (h : Keeps s0 s) (m : Memory.wf s.mem = true → Memory.wf x_mem = true) : Keeps s0 ⟨s.pending, x_time, x_free, x_mem, s.hostMem,
    x_regions, x_cores, x_courses, x_parts, x_streams, x_profiles, x_models, x_bundles, x_bundleNo, x_funcs, x_turns, x_fatal, x_beat, x_beatAt,
    x_apertures, x_cpl, x_inProgress, x_aer, x_sbtm, x_mig, x_mon, s.fuses, x_br, x_tele, s.pw⟩ :=
  keeps_of h rfl rfl m id id
/-- A write to host memory. -/
theorem keeps_host {s0 s : State} {x_time : W64} {x_free : Nat} {x_hostMem : Tbl Byte} {x_regions : List Region} {x_cores : Tbl CoreSt} {x_courses :
    Tbl Course} {x_parts : Tbl Part} {x_streams : Tbl Stream} {x_profiles : Tbl Profile} {x_models : Tbl Model} {x_bundles : List Bundle} {x_bundleNo
    : W32} {x_funcs : Tbl Fn} {x_turns : List (Func × Func)} {x_fatal : Bool} {x_beat : W32} {x_beatAt : W64} {x_apertures : Tbl Aperture} {x_cpl :
    Option (List Byte)} {x_inProgress : List InProgress} {x_aer : List (BitVec 2)} {x_sbtm : SbTmSt} {x_mig : MigSt} {x_mon : MonSt} {x_br : BrSt}
    {x_tele : TeleSt} (h : Keeps s0 s) (m : Memory.wf s.hostMem = true → Memory.wf x_hostMem = true) : Keeps s0 ⟨s.pending, x_time, x_free, s.mem,
    x_hostMem, x_regions, x_cores, x_courses, x_parts, x_streams, x_profiles, x_models, x_bundles, x_bundleNo, x_funcs, x_turns, x_fatal, x_beat,
    x_beatAt, x_apertures, x_cpl, x_inProgress, x_aer, x_sbtm, x_mig, x_mon, s.fuses, x_br, x_tele, s.pw⟩ :=
  keeps_of h rfl rfl id m id
/-- A write to PW registers. -/
theorem keeps_pw {s0 s : State} {x_time : W64} {x_free : Nat} {x_regions : List Region} {x_cores : Tbl CoreSt} {x_courses : Tbl Course} {x_parts : Tbl
    Part} {x_streams : Tbl Stream} {x_profiles : Tbl Profile} {x_models : Tbl Model} {x_bundles : List Bundle} {x_bundleNo : W32} {x_funcs : Tbl Fn}
    {x_turns : List (Func × Func)} {x_fatal : Bool} {x_beat : W32} {x_beatAt : W64} {x_apertures : Tbl Aperture} {x_cpl : Option (List Byte)}
    {x_inProgress : List InProgress} {x_aer : List (BitVec 2)} {x_sbtm : SbTmSt} {x_mig : MigSt} {x_mon : MonSt} {x_br : BrSt} {x_tele : TeleSt} {x_pw
    : PwSt} (h : Keeps s0 s) (w : PwOk s.pw → PwOk x_pw) : Keeps s0 ⟨s.pending, x_time, x_free, s.mem, s.hostMem, x_regions, x_cores, x_courses,
    x_parts, x_streams, x_profiles, x_models, x_bundles, x_bundleNo, x_funcs, x_turns, x_fatal, x_beat, x_beatAt, x_apertures, x_cpl, x_inProgress,
    x_aer, x_sbtm, x_mig, x_mon, s.fuses, x_br, x_tele, x_pw⟩ :=
  keeps_of h rfl rfl id id w

theorem keeps_ite {s0 a b : State} {p : Prop} [Decidable p] (h : Keeps s0 a) (k : Keeps s0 b) : Keeps s0 (if p then a else b) := by
  split <;> assumption

theorem keeps_foldl {α : Type} {s0 s : State} {l : List α} {f : State → α → State} (h : Keeps s0 s) (k : ∀ t a, Keeps s0 t → Keeps s0 (f t a)) :
    Keeps s0 (l.foldl f s) := by
  induction l generalizing s with
  | nil => exact h
  | cons a l ih => exact ih (k s a h)

theorem keeps_forAll {α : Type} {s0 s : State} {l : List α} {f : State → α → State} (h : Keeps s0 s) (k : ∀ t a, Keeps s0 t → Keeps s0 (f t a)) :
    Keeps s0 (forAll l f s) := keeps_foldl h k

/-- Every next state that an outcome answers, and every state that an operation gives, is kept. -/
structure KeepsNext (s0 : State) (o : Host.Outcome State Fault Refusal) : Prop where
  get : ∀ t, o = .next t → Keeps s0 t
structure KeepsSome (s0 : State) (o : Option State) : Prop where
  get : ∀ t, o = some t → Keeps s0 t
structure KeepsRun (s0 : State) (r : StartRes) : Prop where
  run : ∀ t q, r = .run t q → Keeps s0 t
  done : ∀ t, r = .done t → Keeps s0 t

theorem keeps_some {s0 t : State} (h : Keeps s0 t) : KeepsSome s0 (some t) := ⟨by rintro _ ⟨⟩; exact h⟩
theorem keeps_none {s0 : State} : KeepsSome s0 none := ⟨by rintro _ ⟨⟩⟩
theorem keepsSome_ite {s0 : State} {a b : Option State} {p : Prop} [Decidable p] (h : KeepsSome s0 a) (k : KeepsSome s0 b) :
    KeepsSome s0 (if p then a else b) := by split <;> assumption
theorem keeps_next {s0 t : State} (h : Keeps s0 t) : KeepsNext s0 (.next t) := ⟨by rintro _ ⟨⟩; exact h⟩
theorem keeps_refused {s0 : State} {r : Refusal} : KeepsNext s0 (.refused r) := ⟨by rintro _ ⟨⟩⟩
theorem keepsNext_ite {s0 : State} {a b : Host.Outcome State Fault Refusal} {p : Prop} [Decidable p] (h : KeepsNext s0 a) (k : KeepsNext s0 b) :
    KeepsNext s0 (if p then a else b) := by split <;> assumption
theorem keeps_run {s0 t : State} {q : QEntry} (h : Keeps s0 t) : KeepsRun s0 (.run t q) := ⟨by rintro _ _ ⟨⟩; exact h, by rintro _ ⟨⟩⟩
theorem keeps_done {s0 t : State} (h : Keeps s0 t) : KeepsRun s0 (.done t) := ⟨by rintro _ _ ⟨⟩, by rintro _ ⟨⟩; exact h⟩
theorem keeps_wait {s0 : State} : KeepsRun s0 .wait := ⟨by rintro _ _ ⟨⟩, by rintro _ ⟨⟩⟩
theorem keeps_fail {s0 : State} {c : BitVec 8} {a : Option (BitVec 48)} {b : Bool} : KeepsRun s0 (.fail c a b) := ⟨by rintro _ _ ⟨⟩, by rintro _ ⟨⟩⟩
theorem keepsRun_ite {s0 : State} {a b : StartRes} {p : Prop} [Decidable p] (h : KeepsRun s0 a) (k : KeepsRun s0 b) :
    KeepsRun s0 (if p then a else b) := by split <;> assumption

theorem keeps_foldl1 {α β : Type} {s0 : State} {l : List α} {f : State × β → α → State × β} {x : State × β} (h : Keeps s0 x.1)
    (k : ∀ y a, Keeps s0 y.1 → Keeps s0 (f y a).1) : Keeps s0 (l.foldl f x).1 := by
  induction l generalizing x with
  | nil => exact h
  | cons a l ih => exact ih (k x a h)

/-! ### Values -/

theorem pwOk_reset : PwOk PwSt.reset := by constructor <;> decide

theorem pwOk_writeCap {x : PwSt} (v : W64) (i : PwOk x) : PwOk (writeCap x v) := by
  unfold writeCap rangedWrite
  dsimp only
  refine ⟨i.dutyP, i.dutyT, ?_, ?_, i.delay⟩
  all_goals
    split
    · rename_i h
      simp only [Bool.and_eq_true, decide_eq_true_eq] at h
      dsimp only
      omega
    · first | exact i.cap | exact i.hyst

theorem pwOk_writePwCtl {x : PwSt} (v : W64) (i : PwOk x) : PwOk (writePwCtl x v) := by
  unfold writePwCtl rangedWrite
  dsimp only
  refine ⟨i.dutyP, i.dutyT, i.cap, i.hyst, ?_⟩
  dsimp only
  split
  · rename_i h
    exact of_decide_eq_true h
  · exact i.delay

theorem powerStep_range {d : BitVec 5} {p w y : Nat} (h : 4 ≤ d.toNat ∧ d.toNat ≤ 16) : 4 ≤ (powerStep d p w y).toNat ∧ (powerStep d p w y).toNat ≤ 16 := by
  unfold powerStep
  repeat' split
  all_goals (try simp only [BitVec.toNat_ofNat]); omega

theorem thermalStep_range {d : BitVec 5} {t : Int} (h : 4 ≤ d.toNat ∧ d.toNat ≤ 16) : 4 ≤ (thermalStep d t).toNat ∧ (thermalStep d t).toNat ≤ 16 := by
  unfold thermalStep
  repeat' split
  all_goals (try simp only [BitVec.toNat_ofNat]); omega

theorem raisedFloor_le {f : BitVec 6} {o : SignedObj} : f.toNat ≤ (raisedFloor f o).toNat := by
  unfold raisedFloor
  split <;> omega

theorem lc_provisioned {u : Fuses} (h : lcState u = lcPROVISIONED) : u.ownerBurnt = false := by
  unfold lcState at h
  repeat' split at h
  all_goals first | simp_all [lcPROVISIONED, lcRETIRED, lcMANUFACTURE, lcFIELD_DEBUG, lcDEPLOYED]

theorem lc_manufacture {u : Fuses} (h : lcState u = lcMANUFACTURE) : u.prov = false := by
  unfold lcState at h
  repeat' split at h
  all_goals first | simp_all [lcPROVISIONED, lcRETIRED, lcMANUFACTURE, lcFIELD_DEBUG, lcDEPLOYED]

theorem lc_debug {u : Fuses} (h : lcState u = lcFIELD_DEBUG) : u.debugUsed.toNat % 2 = 1 := by
  unfold lcState at h
  repeat' split at h
  all_goals first | simp_all [lcPROVISIONED, lcRETIRED, lcMANUFACTURE, lcFIELD_DEBUG, lcDEPLOYED]

/-- Signing the sparing record keeps what fuses keep for good. -/
theorem fusesLe_signRecord {u v : Fuses} (h : FusesLe u v) : FusesLe u (signRecord v) := by
  unfold signRecord
  split
  · exact ⟨h.1, h.2, h.3, h.4, h.5, h.6, h.7, h.8, h.9, h.10⟩
  · exact h

@[simp] theorem signRecord_debugUsed (u : Fuses) : (signRecord u).debugUsed = u.debugUsed := by
  unfold signRecord
  split <;> rfl

/-- The transitions that a token may make (R367). -/
theorem tok_pairs {u : Fuses} {o : SignedObj} (h : tokSigned u o = true) :
    (tokFrom o = 0 ∧ tokTo o = 1) ∨ (tokFrom o = 1 ∧ tokTo o = 2) ∨ (tokFrom o = 2 ∧ tokTo o = 3) ∨ (tokFrom o = 3 ∧ tokTo o = 2) ∨
      (1 ≤ tokFrom o ∧ tokTo o = 4) := by
  unfold tokSigned at h
  dsimp only at h
  repeat' split at h
  all_goals first | (simp only [lcPROVISIONED, lcRETIRED, lcMANUFACTURE, lcFIELD_DEBUG, lcDEPLOYED] at *; omega) | cases h

/-- A token that is answered OK burns fuses one way. -/
theorem fusesLe_burn {s : State} {n : Nat} {o : SignedObj} (h : tokStatus s o = rqOK) :
    FusesLe s.fuses (burnFuses n s.fuses o) ∧ (s.fuses.debugUsed.toNat ≤ 64 → (burnFuses n s.fuses o).debugUsed.toNat ≤ 64) := by
  unfold tokStatus at h
  split at h
  · exact absurd h (by decide)
  split at h
  · exact absurd h (by decide)
  rename_i hb
  split at h
  · exact absurd h (by decide)
  split at h
  · exact absurd h (by decide)
  rename_i hx
  simp only [Bool.not_eq_true', Bool.not_eq_false, Bool.and_eq_true, decide_eq_true_eq] at hb
  obtain ⟨⟨⟨-, hs⟩, hf⟩, -⟩ := hb
  have hr := fun k : tokFrom o = lcPROVISIONED => lc_provisioned (hf.symm.trans k)
  have hm := fun k : tokFrom o = lcMANUFACTURE => lc_manufacture (hf.symm.trans k)
  have hd := fun k : tokFrom o = lcFIELD_DEBUG => lc_debug (hf.symm.trans k)
  have hp := tok_pairs hs
  unfold burnFuses
  dsimp only
  split
  · rename_i ht
    have k := hm (by simp only [lcMANUFACTURE, lcPROVISIONED, lcFIELD_DEBUG, lcRETIRED] at *; omega)
    exact ⟨fusesLe_signRecord ⟨fun _ => rfl, id, id, fun _ => Nat.le_refl _, Nat.le_refl _, Nat.le_refl _, rfl, rfl, fun _ => rfl,
      (fun i => by rw [k] at i; cases i)⟩, by rw [signRecord_debugUsed]; exact id⟩
  split
  · exact ⟨⟨id, id, fun _ => rfl, fun _ => Nat.le_refl _, Nat.le_refl _, Nat.le_refl _, rfl, rfl, fun _ => rfl, fun _ => rfl⟩, id⟩
  split
  · rename_i ht
    have k := hr ht
    exact ⟨⟨id, fun _ => rfl, id, fun _ => Nat.le_refl _, Nat.le_refl _, Nat.le_refl _, rfl, rfl, (fun i => by rw [k] at i; cases i), fun _ => rfl⟩, id⟩
  · have hc : s.fuses.debugUsed.toNat ≤ 64 → s.fuses.debugUsed.toNat < 64 := by
      intro i
      by_cases hf2 : tokFrom o = lcFIELD_DEBUG
      · have := hd hf2
        omega
      · simp only [lcMANUFACTURE, lcPROVISIONED, lcFIELD_DEBUG, lcRETIRED] at *
        omega
    have ha : s.fuses.debugUsed.toNat ≤ 64 → (s.fuses.debugUsed + 1).toNat = s.fuses.debugUsed.toNat + 1 := by
      intro i
      have := hc i
      rw [BitVec.toNat_add]
      exact Nat.mod_eq_of_lt (by change _ + 1 < 128; omega)
    refine ⟨⟨id, id, id, fun i => ?_, Nat.le_refl _, Nat.le_refl _, rfl, rfl, fun _ => rfl, fun _ => rfl⟩, fun i => ?_⟩
    · dsimp only
      rw [ha i]
      omega
    · dsimp only
      have := hc i
      rw [ha i]
      omega

theorem putPieces_wf {m : Tbl Byte} {l : List (Nat × Nat)} {b : List Byte} (h : Memory.wf m = true) : Memory.wf (putPieces m l b) = true := by
  induction l generalizing m b with
  | nil => exact h
  | cons x l ih => exact ih (Memory.wf_wrs h)

theorem writeLines_wf {s : State} {n l o : Nat} {b : List Byte} {m : Tbl Byte} (h : Memory.wf m = true) : Memory.wf (writeLines s n l o b m) = true := by
  induction n generalizing l o b m with
  | zero => exact h
  | succ n ih => exact ih (Memory.wf_wrs h)

/-- A write through the inline cipher keeps the canonical form. -/
theorem devWritten_wf {s : State} {a : Nat} {b : List Byte} (h : Memory.wf s.mem = true) : Memory.wf (devWritten s a b) = true := by
  unfold devWritten
  split
  · exact Memory.wf_wrs h
  · exact writeLines_wf h

/-! ### Stops of a start -/

/-- Where the answer is a stop, it changes no state. -/
structure StopsOnly (o : Option StartRes) : Prop where
  get : ∀ r, o = some r → ∀ s0, KeepsRun s0 r

theorem stops_none : StopsOnly none := ⟨fun _ h => by cases h⟩
theorem stops_fail {c : BitVec 8} {a : Option (BitVec 48)} {b : Bool} : StopsOnly (some (.fail c a b)) := ⟨fun _ h _ => by cases h; exact keeps_fail⟩
theorem stops_orElse {o : Option StartRes} {f : Unit → Option StartRes} (h : StopsOnly o) (k : StopsOnly (f ())) : StopsOnly (o.orElse f) := by
  cases o
  · exact k
  · exact h
theorem keepsRun_getD {s0 : State} {o : Option StartRes} {r : StartRes} (h : StopsOnly o) (k : KeepsRun s0 r) : KeepsRun s0 (o.getD r) := by
  cases o
  · exact k
  · exact h.get _ rfl _

theorem stops_localErr {s : State} {c : CoreId} {write : Bool} : ∀ {l : List (Nat × Nat)}, StopsOnly (localErr s c write l)
  | [] => stops_none
  | _ :: l => by
    unfold localErr
    split
    · exact stops_fail
    · exact stops_localErr (l := l)

theorem stops_downErr {s : State} : ∀ {l : List (Nat × Nat)}, StopsOnly (downErr s l)
  | [] => stops_none
  | _ :: l => by
    unfold downErr
    split
    · exact stops_fail
    · exact stops_downErr (l := l)

theorem stops_sideErr {s : State} {c : CoreId} {q : QEntry} {d : DmaSide} : ∀ {l : List Nat}, StopsOnly (sideErr s c q d l)
  | [] => stops_none
  | r :: l => by
    unfold sideErr
    dsimp only
    split
    · rename_i e he
      refine ⟨fun _ h s0 => ?_⟩
      cases h
      split at he
      · split at he
        · split at he
          · cases he; exact keeps_fail
          · cases he
        · cases he; exact keeps_fail
      · exact stops_localErr.get _ he s0
    · exact stops_sideErr

theorem stops_sidesErr {s : State} {c : CoreId} {q : QEntry} : ∀ {l : List DmaSide}, StopsOnly (sidesErr s c q l)
  | [] => stops_none
  | d :: l => by
    unfold sidesErr
    split
    · rename_i e he
      exact he ▸ stops_sideErr
    · exact stops_sidesErr

theorem stops_dmaErr {s : State} {c : CoreId} {q : QEntry} : StopsOnly (dmaErr s c q) := by
  unfold dmaErr
  split
  · rename_i e he
    exact he ▸ stops_sidesErr
  · split
    · exact stops_fail
    · exact stops_downErr

theorem stCheck_stops {s : State} {c : CoreId} {q : QEntry} {mse : Bool} {f : Member → Bool} {r : StartRes} (h : stCheck s c q mse f = .error r)
    {s0 : State} : KeepsRun s0 r := by
  unfold stCheck at h
  dsimp only at h
  repeat' split at h
  all_goals cases h
  all_goals first | exact keeps_fail | exact (stops_orElse stops_localErr stops_downErr).get _ (by assumption) _

/-! ### The operations, in the order of their files -/

variable {s0 s : State}

theorem keeps_setCore {c : CoreId} {x : CoreSt} (hK : Keeps s0 s) : Keeps s0 (setCore s c x) := keeps_upd.mpr hK

theorem keeps_modCore {c : CoreId} {f : CoreSt → CoreSt} (hK : Keeps s0 s) : Keeps s0 (modCore s c f) := keeps_setCore hK

theorem keeps_modSeq {c : CoreId} {f : Seq → Seq} (hK : Keeps s0 s) : Keeps s0 (modSeq s c f) := keeps_modCore hK

theorem keeps_modEng {c : CoreId} {f : Engines → Engines} (hK : Keeps s0 s) : Keeps s0 (modEng s c f) := keeps_modCore hK

theorem keeps_setPart {p : PartId} {x : Part} (hK : Keeps s0 s) : Keeps s0 (setPart s p x) := keeps_upd.mpr hK

theorem keeps_modPart {p : PartId} {f : Part → Part} (hK : Keeps s0 s) : Keeps s0 (modPart s p f) := keeps_setPart hK

theorem keeps_setCourse {k : CourseId} {x : Course} (hK : Keeps s0 s) : Keeps s0 (setCourse s k x) := keeps_upd.mpr hK

theorem keeps_setStream {h : Handle} {x : Stream} (hK : Keeps s0 s) : Keeps s0 (setStream s h x) := keeps_upd.mpr hK

theorem keeps_modStream {h : Handle} {f : Stream → Stream} (hK : Keeps s0 s) : Keeps s0 (modStream s h f) := keeps_upd.mpr hK

theorem keeps_setFn {f : Func} {x : Fn} (hK : Keeps s0 s) : Keeps s0 (setFn s f x) := keeps_upd.mpr hK

theorem keeps_modFn {f : Func} {g : Fn → Fn} (hK : Keeps s0 s) : Keeps s0 (modFn s f g) := keeps_setFn hK

theorem keeps_setModel {m : ModelSlot} {x : Model} (hK : Keeps s0 s) : Keeps s0 (setModel s m x) := keeps_upd.mpr hK

theorem keeps_modModel {m : ModelSlot} {f : Model → Model} (hK : Keeps s0 s) : Keeps s0 (modModel s m f) := by
  unfold modModel
  with_reducible repeat' first | assumption | apply keeps_setModel | split

theorem keeps_setPort {n : PortNo} {x : Port} (hK : Keeps s0 s) : Keeps s0 (setPort s n x) := keeps_upd.mpr hK

theorem keeps_addTierBytes {p : PartId} {a n : Nat} (hK : Keeps s0 s) : Keeps s0 (addTierBytes s p a n) := keeps_modPart hK

theorem keeps_tick {dt : Nat} (hK : Keeps s0 s) : Keeps s0 (tick s dt) := by
  unfold tick
  with_reducible repeat' first | assumption | simp only [keeps_upd] | split

theorem keeps_modJob {p : PartId} {j : JobNo} {f : Job → Job} (hK : Keeps s0 s) : Keeps s0 (modJob s p j f) := keeps_modPart hK

theorem keeps_modTask {p : PartId} {f : Task → Task} (hK : Keeps s0 s) : Keeps s0 (modTask s p f) := keeps_modPart hK

theorem keeps_raiseTaskAt {c : CoreId} {cause : BitVec 8} {pc : BitVec 13} {addr : Option (BitVec 48)} {sym : BitVec 16} (hK : Keeps s0 s) : Keeps s0
    (raiseTaskAt s c cause pc addr sym) := by
  unfold raiseTaskAt
  dsimp only
  with_reducible repeat' first | assumption | apply keeps_modSeq | apply keeps_modTask | split

theorem keeps_raiseTask {c : CoreId} {cause : BitVec 8} {pc : BitVec 13} (hK : Keeps s0 s) : Keeps s0 (raiseTask s c cause pc) := keeps_raiseTaskAt hK

theorem keeps_abandonRest {c : CoreId} (hK : Keeps s0 s) : Keeps s0 (abandonRest s c) := keeps_modSeq hK

theorem keeps_emptyQueues {c : CoreId} (hK : Keeps s0 s) : Keeps s0 (emptyQueues s c) := keeps_modCore hK

theorem keeps_answer {op : Nat} {refused : Bool} (hK : Keeps s0 s) : Keeps s0 (answer s op refused) := keeps_upd.mpr hK

theorem keeps_hostWr {f : Func} {a : Nat} {b : List Byte} (hK : Keeps s0 s) : Keeps s0 (hostWr s f a b) := by
  unfold hostWr
  with_reducible repeat' first | assumption | apply keeps_ite | refine keeps_host ?_ Memory.wf_wrs | simp only [keeps_upd] | split

theorem keeps_postMsg {f : Func} {m : Msg} (hK : Keeps s0 s) : Keeps s0 (postMsg s f m) := keeps_ite hK (keeps_modFn hK)

theorem keeps_postResult {f : Func} {op tag : BitVec 16} {status : BitVec 16} {res : Nat} (hK : Keeps s0 s) : Keeps s0 (postResult s f op tag status
    res) :=
  keeps_postMsg hK

theorem keeps_postEvent {f : Func} {code : BitVec 16} {payload : Nat} (hK : Keeps s0 s) : Keeps s0 (postEvent s f code payload) := keeps_postMsg hK

theorem keeps_postJobEnd {p : PartId} {j : JobNo} {reason : BitVec 8} (hK : Keeps s0 s) : Keeps s0 (postJobEnd s p j reason) := keeps_postEvent hK

theorem keeps_traceRec {p : PartId} {bit : Nat} {event : Nat} {job : JobNo} {detail : Nat} {bundle : W32} (hK : Keeps s0 s) : Keeps s0 (traceRec s p
    bit event job detail bundle) := by
  unfold traceRec
  with_reducible repeat' first | assumption | apply keeps_hostWr | apply keeps_modPart | split

theorem keeps_logError {i : ErrInfo} (hK : Keeps s0 s) : Keeps s0 (logError s i) := by
  unfold logError
  with_reducible repeat' first | assumption | apply keeps_postEvent | simp only [keeps_upd] | split

theorem keeps_logTaskErrors {p : PartId} {t : Task} {o : BitVec 3} (hK : Keeps s0 s) : Keeps s0 (logTaskErrors s p t o) := by
  unfold logTaskErrors
  with_reducible repeat' first | assumption | (intro _) | apply keeps_foldl | apply keeps_logError | apply keeps_traceRec

theorem keeps_correctRow {c : CoreId} {r : SramRow} (hK : Keeps s0 s) : Keeps s0 (correctRow c s r) := by
  unfold correctRow
  with_reducible repeat' first | assumption | apply keeps_logError | apply keeps_ite | simp only [keeps_upd, keeps_updFuses] | split

theorem keeps_applySpares {s0 s : State} {c : CoreId} (hK : Keeps s0 s) : Keeps s0 (applySpares s c) := by
  unfold applySpares
  refine keeps_foldl (keeps_upd.mpr hK) fun t x h => ?_
  refine keeps_logError (keeps_upd.mpr ⟨h.pending, h.mem, h.host, h.pw, ?_, ?_⟩)
  · rw [signRecord_debugUsed]
    exact h.debug
  · exact fusesLe_signRecord ⟨h.fuses.1, h.fuses.2, h.fuses.3, h.fuses.4, h.fuses.5, h.fuses.6, h.fuses.7, h.fuses.8, h.fuses.9, h.fuses.10⟩

theorem keeps_devWrite {s0 s : State} {a : Nat} {b : List Byte} (hK : Keeps s0 s) : Keeps s0 (devWrite s a b) := keeps_mem hK devWritten_wf

theorem keeps_devCells {l : List (Nat × Byte)} (hK : Keeps s0 s) : Keeps s0 (devCells s l) := by
  unfold devCells
  with_reducible repeat' first
    | assumption | (intro _) | apply keeps_foldl | apply keeps_devWrite | apply keeps_ite | refine keeps_mem ?_ Memory.wf_wrList
    | simp only [keeps_upd] | split

theorem keeps_setHolder {a n : Nat} {h : Holder} (hK : Keeps s0 s) : Keeps s0 (setHolder s a n h) := keeps_upd.mpr hK

theorem keeps_carveAll {a n : Nat} (hK : Keeps s0 s) : Keeps s0 (carveAll s a n) := keeps_upd.mpr hK

theorem keeps_staleTier2 {r : Region} (hK : Keeps s0 s) : Keeps s0 (staleTier2 s r) := keeps_upd.mpr (keeps_carveAll hK)

theorem keeps_wipeRegion {s0 s : State} {r : Region} (hK : Keeps s0 s) : Keeps s0 (wipeRegion s r) :=
  keeps_ite (keeps_staleTier2 hK) (keeps_setHolder (keeps_mem (keeps_carveAll (a := r.base) (n := r.size) hK) fun i => Memory.wf_zero i))

theorem keeps_freeRegion {r : Region} (hK : Keeps s0 s) : Keeps s0 (freeRegion s r) := by
  unfold freeRegion
  with_reducible repeat' first | assumption | apply keeps_staleTier2 | simp only [keeps_upd] | split

theorem keeps_releaseRegions {p : Region → Bool} (hK : Keeps s0 s) : Keeps s0 (releaseRegions s p) := by
  unfold releaseRegions
  with_reducible repeat' first | assumption | (intro _) | apply keeps_foldl | apply keeps_freeRegion | simp only [keeps_upd]

theorem keeps_wipeRegions {p : Region → Bool} (hK : Keeps s0 s) : Keeps s0 (wipeRegions s p) := by
  unfold wipeRegions
  with_reducible repeat' first | assumption | (intro _) | apply keeps_foldl | apply keeps_wipeRegion | simp only [keeps_upd]

theorem keeps_modAcct {f : Func} {g : Account → Account} (hK : Keeps s0 s) : Keeps s0 (modAcct s f g) := keeps_upd.mpr hK

theorem keeps_chargeAll {cl : List Func} {g : (Nat → Nat) → Account → Account} (hK : Keeps s0 s) : Keeps s0 (chargeAll s cl g) :=
  keeps_foldl hK fun _ _ h => keeps_upd.mpr h

theorem keeps_cutParts {p : PartId} (hK : Keeps s0 s) : Keeps s0 (cutParts s p) := by
  unfold cutParts
  with_reducible repeat' first | assumption | apply keeps_modTask | simp only [keeps_upd] | split

theorem keeps_chargeTask {p : PartId} (hK : Keeps s0 s) : Keeps s0 (chargeTask s p) := by
  unfold chargeTask
  dsimp only
  with_reducible repeat' first | assumption | apply keeps_chargeAll | apply keeps_cutParts | apply keeps_modTask | split

theorem keeps_closeCharge {p : PartId} (hK : Keeps s0 s) : Keeps s0 (closeCharge s p) := keeps_modTask (keeps_chargeTask hK)

theorem keeps_markTask {p : PartId} (hK : Keeps s0 s) : Keeps s0 (markTask s p) := keeps_modTask hK

theorem keeps_keepReport {p : PartId} {b : Job} (hK : Keeps s0 s) : Keeps s0 (keepReport s p b) := keeps_ite hK (keeps_upd.mpr hK)

theorem keeps_chargeHardStop {p : PartId} {overrunTicks : Nat} (hK : Keeps s0 s) : Keeps s0 (chargeHardStop s p overrunTicks) := by
  unfold chargeHardStop
  dsimp only
  with_reducible repeat' first | assumption | apply keeps_chargeAll | split

theorem keeps_closeIdle {p : PartId} (hK : Keeps s0 s) : Keeps s0 (closeIdle s p) := by
  unfold closeIdle
  dsimp only
  with_reducible repeat' first | assumption | apply keeps_modPart | apply keeps_modAcct | split

theorem keeps_chargeHost {f : Func} {n : Nat} (hK : Keeps s0 s) : Keeps s0 (chargeHost s f n) := keeps_modAcct hK

theorem keeps_chargeTier {f : Func} {a n : Nat} (hK : Keeps s0 s) : Keeps s0 (chargeTier s f a n) := keeps_modAcct hK

theorem keeps_chargeBridge {f : Func} {n : Nat} (hK : Keeps s0 s) : Keeps s0 (chargeBridge s f n) := keeps_modAcct hK

theorem keeps_putPcm {h : Handle} {b : List Byte} (hK : Keeps s0 s) : Keeps s0 (putPcm s h b) := by
  unfold putPcm
  with_reducible repeat' first
    | assumption | (intro _) | apply keeps_foldl | apply keeps_hostWr | apply keeps_modStream | apply keeps_chargeHost | apply keeps_ite

theorem keeps_putSample {h : Handle} {y : W32} (hK : Keeps s0 s) : Keeps s0 (putSample s h y) := keeps_putPcm (keeps_upd.mpr hK)

theorem keeps_synthSample {h : Handle} (hK : Keeps s0 s) : Keeps s0 (synthSample s h) := by
  unfold synthSample
  with_reducible repeat' first | assumption | (intro _) | apply keeps_foldl | apply keeps_modStream | apply keeps_putSample

theorem keeps_synthSamples {k : Nat} {h : Handle} {s0 s : State} (hK : Keeps s0 s) : Keeps s0 (synthSamples k s h) := by
  induction k generalizing s with
  | zero => exact hK
  | succ k ih => exact ih (keeps_synthSample hK)

theorem keeps_endSynth {h : Handle} {commit : Bool} (hK : Keeps s0 s) : Keeps s0 (endSynth s h commit) := by
  unfold endSynth
  with_reducible repeat' first | assumption | apply keeps_modStream | apply keeps_synthSamples | apply keeps_ite

theorem keeps_putRecord {h : Handle} {token : BitVec 24} {g : RecFlags} {time : W32} {score : BitVec 16} {seq : W32} (hK : Keeps s0 s) : Keeps s0
    (putRecord s h token g time score seq) := by
  unfold putRecord
  with_reducible repeat' first | assumption | apply keeps_hostWr | apply keeps_chargeHost | apply keeps_modStream | apply keeps_ite

theorem keeps_postDone {l : List DoneEntry} (hK : Keeps s0 s) : Keeps s0 (postDone s l) := by
  unfold postDone
  with_reducible repeat' first | assumption | (intro _) | apply keeps_foldl | apply keeps_postMsg

theorem keeps_pcmRecord {h : Handle} {g : RecFlags} {seq : W32} (hK : Keeps s0 s) : Keeps s0 (pcmRecord s h g seq) := by
  unfold pcmRecord
  with_reducible repeat' first | assumption | apply keeps_modStream | apply keeps_putRecord | apply keeps_ite

theorem keeps_chunkRecords {h : Handle} {g : RecFlags} {toks : Tokens} {seq : W32} (hK : Keeps s0 s) : Keeps s0 (chunkRecords s h g toks seq) := by
  unfold chunkRecords
  with_reducible repeat' first | assumption | (intro _) | apply keeps_foldl | apply keeps_putRecord | apply keeps_modStream | split

theorem keeps_endChunk {h : Handle} {how : ChunkEnd} {r : Bool} {toks : Tokens} (hK : Keeps s0 s) : Keeps s0 (endChunk s h how r toks).1 := by
  unfold endChunk
  with_reducible repeat' first
    | assumption | apply keeps_endSynth | apply keeps_pcmRecord | apply keeps_chunkRecords | apply keeps_modAcct | apply keeps_modStream | split

theorem keeps_requeueChunk {h : Handle} {hs err : Nat → Nat} {late : List CoreId} (hK : Keeps s0 s) : Keeps s0 (requeueChunk s h hs err late) :=
  keeps_upd.mpr hK

theorem keeps_freeStream {h : Handle} (hK : Keeps s0 s) : Keeps s0 (freeStream s h) := by
  unfold freeStream
  with_reducible repeat' first | assumption | apply keeps_releaseRegions | apply keeps_modFn | apply keeps_setStream | simp only [keeps_upd] | split

theorem keeps_finishClose {h : Handle} (hK : Keeps s0 s) : Keeps s0 (finishClose s h) := by
  unfold finishClose
  with_reducible repeat' first | assumption | apply keeps_putRecord | apply keeps_postDone | apply keeps_freeStream | apply keeps_ite

theorem keeps_queueDescs {l : BitVec 16 → List (BitVec 256)} (hK : Keeps s0 s) : Keeps s0 (queueDescs s l).2 := keeps_upd.mpr hK

theorem keeps_startMove {h : Handle} {promote : Bool} {cls dst : Nat} (hK : Keeps s0 s) : Keeps s0 (startMove s h promote cls dst) := by
  unfold startMove
  with_reducible repeat' first | assumption | apply keeps_queueDescs | apply keeps_modModel | apply keeps_modStream | simp only [keeps_upd] | split

theorem keeps_dropDescs {tag : BitVec 16} (hK : Keeps s0 s) : Keeps s0 (dropDescs s tag) := keeps_upd.mpr hK

theorem keeps_dropMove {h : Handle} (hK : Keeps s0 s) : Keeps s0 (dropMove s h) := by
  unfold dropMove
  with_reducible repeat' first | assumption | apply keeps_releaseRegions | apply keeps_dropDescs | apply keeps_modStream | split

theorem keeps_switchPtr {h : Handle} {dst : Nat} (hK : Keeps s0 s) : Keeps s0 (switchPtr s h dst) := keeps_upd.mpr (keeps_releaseRegions hK)

theorem keeps_zeroedBlock {h : Handle} {base : Nat} (hK : Keeps s0 s) : Keeps s0 (zeroedBlock s h base) := by
  unfold zeroedBlock
  with_reducible repeat' first
    | assumption | apply keeps_dropMove | apply keeps_switchPtr | apply keeps_ite | refine keeps_mem ?_ Memory.wf_zero | simp only | split

theorem keeps_startDue {h : Handle} (hK : Keeps s0 s) : Keeps s0 (startDue s h) := by
  unfold startDue
  dsimp only
  with_reducible repeat' first | assumption | apply keeps_modStream | apply keeps_startMove | split

theorem keeps_moveOffRetired {blocks : List NewBlock} {h : Handle} (hK : Keeps s0 s) : Keeps s0 (moveOffRetired s blocks h) := by
  unfold moveOffRetired
  dsimp only
  split
  · exact keeps_ite (keeps_switchPtr (keeps_mem hK fun i => Memory.wf_wrs (Memory.wf_wrs (Memory.wf_zero i)))) hK
  · exact hK

theorem keeps_endClose {h : Handle} (hK : Keeps s0 s) : Keeps s0 (endClose s h) := by
  unfold endClose
  with_reducible repeat' first | assumption | apply keeps_finishClose | apply keeps_dropMove | split

theorem keeps_afterChunk {blocks : List NewBlock} {h : Handle} (hK : Keeps s0 s) : Keeps s0 (afterChunk s blocks h) := by
  unfold afterChunk
  with_reducible repeat' first | assumption | apply keeps_endClose | apply keeps_startDue | apply keeps_moveOffRetired

theorem keeps_dropEntry {c : CoreId} {k : QSel} {n : Nat} (hK : Keeps s0 s) : Keeps s0 (dropEntry s c k n) := keeps_modSeq hK

theorem keeps_modEntry {c : CoreId} {k : QSel} {n : Nat} {f : QEntry → QEntry} (hK : Keeps s0 s) : Keeps s0 (modEntry s c k n f) := keeps_modSeq hK

theorem keeps_countTier {c : CoreId} {a n : Nat} (hK : Keeps s0 s) : Keeps s0 (countTier s c a n) := by
  unfold countTier
  with_reducible repeat' first | assumption | apply keeps_addTierBytes | split

theorem keeps_land {c : CoreId} {l : List (Nat × Byte)} (hK : Keeps s0 s) : Keeps s0 (land s c l) := keeps_ite hK (keeps_modSeq hK)

theorem keeps_startMatmul {c : CoreId} {q : QEntry} (hK : Keeps s0 s) : KeepsRun s0 (startMatmul s c q) := by
  unfold startMatmul
  with_reducible repeat' first
    | assumption | apply keeps_modEng | apply keeps_modSeq | apply keepsRun_ite | apply keeps_run | exact keeps_wait | exact keeps_fail | split

theorem keeps_matmulWrite {old : Engines} {c : CoreId} {q : QEntry} {t : Nat} (hK : Keeps s0 s) : Keeps s0 (matmulWrite old s c q t) := by
  unfold matmulWrite
  with_reducible repeat' first | assumption | (intro _) | apply keeps_foldl | apply keeps_modEntry | apply keeps_modEng

theorem keeps_startWload {c : CoreId} {q : QEntry} (hK : Keeps s0 s) : KeepsRun s0 (startWload s c q) := by
  unfold startWload
  with_reducible repeat' first
    | assumption | apply keeps_runEff | apply keeps_modEng | apply keepsRun_ite | apply keeps_run | exact keeps_wait | exact keeps_fail | split

theorem keeps_startAdrain {fill : Bool} {s0 s : State} {c : CoreId} {q : QEntry} (hK : Keeps s0 s) : KeepsRun s0 (startAdrain fill s c q) :=
  keepsRun_ite keeps_wait (keepsRun_ite keeps_fail (keepsRun_ite keeps_fail (keepsRun_getD (stops_orElse stops_localErr stops_downErr) (keeps_run hK))))

theorem keeps_drainUnit {c : CoreId} {q : QEntry} {r g : Nat} (hK : Keeps s0 s) : Keeps s0 (drainUnit s c q r g) := by
  unfold drainUnit
  with_reducible repeat' first | assumption | apply keeps_modEng | apply keeps_devWrite | apply keeps_countTier

theorem keeps_fillUnit {c : CoreId} {q : QEntry} {r g : Nat} (hK : Keeps s0 s) : Keeps s0 (fillUnit s c q r g) := keeps_upd.mpr (keeps_countTier hK)

theorem keeps_startMxConfig {c : CoreId} {q : QEntry} (hK : Keeps s0 s) : KeepsRun s0 (startMxConfig s c q) := by
  unfold startMxConfig
  with_reducible repeat' first | assumption | apply keeps_runEff | apply keepsRun_ite | apply keeps_run | exact keeps_wait | exact keeps_fail | split

theorem keeps_install {c : CoreId} {i : Install} (hK : Keeps s0 s) : Keeps s0 (install s c i) := keeps_modEng hK

theorem keeps_startVchain {s0 s : State} {c : CoreId} {q : QEntry} (hK : Keeps s0 s) : KeepsRun s0 (startVchain s c q) := by
  unfold startVchain
  dsimp only
  refine keepsRun_ite keeps_wait (keepsRun_ite (keeps_done hK) ?_)
  split
  · exact keeps_fail
  · exact keepsRun_ite keeps_wait (keeps_run hK)

theorem keeps_addChain {c : CoreId} {q : QEntry} {v : VStat} (hK : Keeps s0 s) : Keeps s0 (addChain s c q v) := keeps_install hK

theorem keeps_chainRow {c : CoreId} {q : QEntry} {r : Nat} (hK : Keeps s0 s) : Keeps s0 (chainRow s c q r) := keeps_modEntry (keeps_upd.mpr hK)

theorem keeps_chainRecords {c : CoreId} {q : QEntry} {g : Nat} (hK : Keeps s0 s) : Keeps s0 (chainRecords s c q g) :=
  keeps_modEntry (keeps_upd.mpr hK)

theorem keeps_chainCompute {c : CoreId} {q : QEntry} {t : Nat} (hK : Keeps s0 s) : Keeps s0 (chainCompute s c q t) := by
  unfold chainCompute
  with_reducible repeat' first | assumption | (intro _) | apply keeps_foldl | apply keeps_chainRow | apply keeps_chainRecords | apply keeps_ite

theorem keeps_startVx {c : CoreId} {q : QEntry} {l : List SpRange} {m : Nat} (hK : Keeps s0 s) : KeepsRun s0 (startVx s c q l m) := by
  unfold startVx
  with_reducible repeat' first | assumption | apply keepsRun_ite | apply keeps_run | exact keeps_wait | exact keeps_fail | split

theorem keeps_startVdLoad {c : CoreId} {q : QEntry} (hK : Keeps s0 s) : KeepsRun s0 (startVdLoad s c q) := keeps_startVx hK

theorem keeps_startVdSetvl {s0 s : State} {c : CoreId} {q : QEntry} (hK : Keeps s0 s) : KeepsRun s0 (startVdSetvl s c q) :=
  keepsRun_ite keeps_fail (keeps_done (keeps_modEng hK))

theorem keeps_startVdStats {c : CoreId} {q : QEntry} (hK : Keeps s0 s) : KeepsRun s0 (startVdStats s c q) := keeps_startVx hK

theorem keeps_endVdLoad {c : CoreId} {q : QEntry} (hK : Keeps s0 s) : Keeps s0 (endVdLoad s c q) := keeps_ite (keeps_raiseTask hK) (keeps_install hK)

theorem keeps_startVxConfig {c : CoreId} {q : QEntry} (hK : Keeps s0 s) : KeepsRun s0 (startVxConfig s c q) := keeps_startVx hK

theorem keeps_endVxConfig {c : CoreId} {q : QEntry} (hK : Keeps s0 s) : Keeps s0 (endVxConfig s c q) := by
  unfold endVxConfig
  with_reducible repeat' first | assumption | apply keeps_raiseTask | apply keeps_install | apply keeps_ite

theorem keeps_startScan {c : CoreId} {q : QEntry} (hK : Keeps s0 s) : KeepsRun s0 (startScan s c q) := by
  unfold startScan
  with_reducible repeat' first | assumption | apply keeps_startVx | apply keepsRun_ite | apply keeps_run | exact keeps_wait | exact keeps_fail

theorem keeps_scanCompute {c : CoreId} {q : QEntry} {t : Nat} (hK : Keeps s0 s) : Keeps s0 (scanCompute s c q t) := by
  unfold scanCompute
  with_reducible repeat' first | assumption | apply keeps_modEntry | apply keeps_install | split

theorem keeps_startMerge {c : CoreId} {q : QEntry} (hK : Keeps s0 s) : KeepsRun s0 (startMerge s c q) := keeps_startVx hK

theorem keeps_mergeCompute {c : CoreId} {q : QEntry} {t : Nat} (hK : Keeps s0 s) : Keeps s0 (mergeCompute s c q t) := by
  unfold mergeCompute
  with_reducible repeat' first | assumption | apply keeps_raiseTask | apply keeps_modEntry | split

theorem keeps_startPick {c : CoreId} {q : QEntry} (hK : Keeps s0 s) : KeepsRun s0 (startPick s c q) := keeps_startVx hK

theorem keeps_pickCompute {c : CoreId} {q : QEntry} {t : Nat} (hK : Keeps s0 s) : Keeps s0 (pickCompute s c q t) := keeps_ite (keeps_install hK) hK

theorem keeps_startSpread {s0 s : State} {c : CoreId} {q : QEntry} (hK : Keeps s0 s) : KeepsRun s0 (startSpread s c q) :=
  keepsRun_ite keeps_wait (keepsRun_ite (keeps_done hK) (keepsRun_ite keeps_fail (keeps_startVx hK)))

theorem keeps_spreadCompute {c : CoreId} {q : QEntry} {t : Nat} (hK : Keeps s0 s) : Keeps s0 (spreadCompute s c q t) := by
  unfold spreadCompute
  with_reducible repeat' first | assumption | (intro _) | apply keeps_foldl | apply keeps_modEntry | apply keeps_install

theorem keeps_vxCompute {c : CoreId} {q : QEntry} {t : Nat} (hK : Keeps s0 s) : Keeps s0 (vxCompute s c q t) := by
  unfold vxCompute
  with_reducible repeat' first
    | assumption | apply keeps_chainCompute | apply keeps_scanCompute | apply keeps_mergeCompute | apply keeps_pickCompute | apply keeps_spreadCompute
    | split

theorem keeps_vxEnd {c : CoreId} {q : QEntry} (hK : Keeps s0 s) : Keeps s0 (vxEnd s c q) := by
  unfold vxEnd
  with_reducible repeat' first | assumption | apply keeps_endVdLoad | apply keeps_install | apply keeps_endVxConfig | split

theorem keeps_applyPegReports {p : PartId} {slot : ModelSlot} {b : Bundle} (hK : Keeps s0 s) : Keeps s0 (applyPegReports s p slot b) := by
  unfold applyPegReports
  dsimp only
  with_reducible repeat' first | assumption | (intro _) | apply keeps_foldl | apply keeps_setModel | apply keeps_modStream | apply keeps_ite | split

theorem keeps_applyStateStats {p : PartId} {slot : ModelSlot} (hK : Keeps s0 s) : Keeps s0 (applyStateStats s p slot) := by
  unfold applyStateStats
  dsimp only
  with_reducible repeat' first | assumption | apply keeps_setModel | split

theorem keeps_bundleTokens {p : PartId} {slot : ModelSlot} {n : Nat} (hK : Keeps s0 s) : Keeps s0 (bundleTokens s p slot n).2 := by
  unfold bundleTokens
  dsimp only
  with_reducible repeat' first | assumption | apply keeps_setModel | split

theorem keeps_noteConflicts {c : CoreId} {l : List (Access × (BitVec 3 × BitVec 6))} (hK : Keeps s0 s) : Keeps s0 (noteConflicts s c l) := by
  unfold noteConflicts
  dsimp only
  with_reducible repeat' first | assumption | apply keeps_modCore | apply keeps_abandonRest | apply keeps_raiseTask | split

theorem keeps_perform {c : CoreId} {x : Access × Option (BitVec 3 × BitVec 6)} (hK : Keeps s0 s) : Keeps s0 (perform c s x) := by
  unfold perform
  dsimp only
  with_reducible repeat' first | assumption | apply keeps_modEntry | apply keeps_land | split

theorem keeps_present {run : RunEnv} {c : CoreId} {l : List Access} (hK : Keeps s0 s) : Keeps s0 (present run s c l) := by
  unfold present
  with_reducible repeat' first
    | assumption | (intro _) | apply keeps_foldl | apply keeps_correctRow | apply keeps_perform | apply keeps_noteConflicts | split

theorem keeps_sendOn {n : PortNo} {dst : Nat} {fr : Frame} (hK : Keeps s0 s) : Keeps s0 (sendOn s n dst fr) := keeps_ite hK (keeps_upd.mpr hK)

theorem keeps_sendFrame {fr : Frame} (hK : Keeps s0 s) : Keeps s0 (sendFrame s fr) := by
  unfold sendFrame
  with_reducible repeat' first | assumption | apply keeps_sendOn | split

theorem keeps_setPair {i : Nat} {p : Pair} (hK : Keeps s0 s) : Keeps s0 (setPair s i p) := keeps_upd.mpr hK

theorem keeps_pairSend {n i : Nat} {s0 s : State} (hK : Keeps s0 s) : Keeps s0 (pairSend n i s) := by
  induction n generalizing s with
  | zero => exact hK
  | succ n ih =>
    unfold pairSend
    dsimp only
    repeat' (first | with_reducible assumption | with_reducible apply ih | with_reducible apply keeps_sendFrame | with_reducible apply keeps_setPair | with_reducible apply keeps_ite | split)

theorem keeps_pairEnqueue {i : Nat} {l : List TxFrame} (hK : Keeps s0 s) : Keeps s0 (pairEnqueue s i l) := by
  unfold pairEnqueue
  with_reducible repeat' first | assumption | apply keeps_setPair | apply keeps_pairSend | split

theorem keeps_sendWaiting (hK : Keeps s0 s) : Keeps s0 (sendWaiting s) := keeps_foldl hK fun _ _ h => keeps_pairSend h

theorem keeps_addBridgeBytes {p : PartId} {n : Nat} (hK : Keeps s0 s) : Keeps s0 (addBridgeBytes s p n) := keeps_modPart hK

theorem keeps_sendRow {c : CoreId} {q : QEntry} {d : DmaSide} {r m : Nat} {b : List Byte} (hK : Keeps s0 s) : Keeps s0 (sendRow s c q d r m b) := by
  unfold sendRow
  dsimp only
  with_reducible repeat' first | assumption | apply keeps_pairEnqueue | apply keeps_addBridgeBytes | split

theorem keeps_requestRow {s0 : State} {c : CoreId} {q : QEntry} {d : DmaSide} {x : State × Nat} {r : Nat} (hK : Keeps s0 x.1) :
    Keeps s0 (requestRow c q d x r).1 := by
  unfold requestRow
  dsimp only
  repeat' (first | with_reducible assumption | with_reducible apply keeps_setPair | with_reducible apply keeps_pairEnqueue | with_reducible apply keeps_ite | split)

theorem keeps_beginDma {s0 s : State} {c : CoreId} {q : QEntry} (hK : Keeps s0 s) : KeepsRun s0 (beginDma s c q) := by
  have h := keeps_ite (p := isCoded q = true) (keeps_modEng (c := c) (f := fun e =>
    { e with czSlots := tmod .reset e.czSlots (dmaSlot q) fun z => { z with count := z.count + BitVec.ofNat 32 (dmaBlocks q.w) } }) hK) hK
  unfold beginDma
  dsimp only
  split
  · exact keeps_run (keeps_foldl1 h fun _ _ hx => keeps_requestRow hx)
  · exact keeps_run h

theorem keeps_startDma {s0 s : State} {c : CoreId} {q : QEntry} (hK : Keeps s0 s) : KeepsRun s0 (startDma s c q) := by
  unfold startDma
  dsimp only
  refine keepsRun_ite keeps_wait ?_
  split
  · exact keeps_fail
  · exact keepsRun_ite (keeps_done hK) (keepsRun_getD stops_dmaErr (keeps_beginDma hK))

theorem keeps_putPlain {c : CoreId} {q : QEntry} {d : DmaSide} {r j : Nat} (hK : Keeps s0 s) : Keeps s0 (putPlain s c q d r j) := by
  unfold putPlain
  with_reducible repeat' first
    | assumption | apply keeps_modEntry | apply keeps_countTier | apply keeps_devWrite | apply keeps_devCells | apply keeps_ite

theorem keeps_putCoded {c : CoreId} {q : QEntry} {d : DmaSide} {r i : Nat} (hK : Keeps s0 s) : Keeps s0 (putCoded s c q d r i) := by
  unfold putCoded
  with_reducible repeat' first
    | assumption | apply keeps_install | apply keeps_modEntry | apply keeps_devWrite | apply keeps_countTier | apply keeps_ite

theorem keeps_finishSent {c : CoreId} {q : QEntry} {r : Nat} (hK : Keeps s0 s) : Keeps s0 (finishSent s c q r) := by
  unfold finishSent
  with_reducible repeat' first | assumption | apply keeps_sendRow | apply keeps_modEntry | split

theorem keeps_blockDone {c : CoreId} {q : QEntry} (hK : Keeps s0 s) : Keeps s0 (blockDone s c q) := by
  unfold blockDone
  with_reducible repeat' first | assumption | apply keeps_modEntry | apply keeps_modEng | split

theorem keeps_corruptBlock {c : CoreId} {q : QEntry} (hK : Keeps s0 s) : Keeps s0 (corruptBlock s c q) := by
  unfold corruptBlock
  with_reducible repeat' first
    | assumption | apply keeps_modEng | apply keeps_finishSent | apply keeps_modEntry | apply keeps_abandonRest | apply keeps_raiseTaskAt

theorem keeps_dmaUnit {c : CoreId} {q : QEntry} {r j : Nat} (hK : Keeps s0 s) : Keeps s0 (dmaUnit s c q r j) := by
  unfold dmaUnit
  with_reducible repeat' first
    | assumption | apply keeps_install | apply keeps_countTier | apply keeps_putCoded | apply keeps_putPlain | apply keeps_corruptBlock
    | apply keeps_blockDone | apply keeps_finishSent | apply keeps_ite | split

theorem keeps_countStall {c : CoreId} (hK : Keeps s0 s) : Keeps s0 (countStall s c) := by
  unfold countStall
  with_reducible repeat' first | assumption | apply keeps_modTask | split

theorem keeps_startSummary {ask : Bool} {s0 s : State} {c : CoreId} {q : QEntry} (hK : Keeps s0 s) : KeepsRun s0 (startSummary ask s c q) := by
  unfold startSummary
  dsimp only
  refine keepsRun_ite keeps_wait (keepsRun_ite (keeps_done hK) ?_)
  split
  · exact keeps_fail
  · split
    · exact keeps_wait
    · exact keepsRun_ite keeps_wait (keeps_run (keeps_modPart hK))

theorem keeps_endSummary {c : CoreId} {q : QEntry} (hK : Keeps s0 s) : Keeps s0 (endSummary s c q) := by
  unfold endSummary
  with_reducible repeat' first | assumption | apply keeps_modPart | apply keeps_modTask | split

theorem keeps_startCzLoad {c : CoreId} {q : QEntry} (hK : Keeps s0 s) : KeepsRun s0 (startCzLoad s c q) := by
  unfold startCzLoad
  with_reducible repeat' first | assumption | apply keeps_runEff | apply keepsRun_ite | apply keeps_run | exact keeps_wait | exact keeps_fail | split

theorem keeps_startCzBuild {c : CoreId} {q : QEntry} (hK : Keeps s0 s) : KeepsRun s0 (startCzBuild s c q) := by
  unfold startCzBuild
  with_reducible repeat' first
    | assumption | apply keeps_runEff | apply keeps_modEng | apply keepsRun_ite | apply keeps_run | exact keeps_wait | exact keeps_fail | split

theorem keeps_czCompute {c : CoreId} {q : QEntry} {t : Nat} (hK : Keeps s0 s) : Keeps s0 (czCompute s c q t) := by
  unfold czCompute
  with_reducible repeat' first | assumption | apply keeps_modEntry | apply keeps_modEng | split

theorem keeps_endCz {c : CoreId} {q : QEntry} (hK : Keeps s0 s) : Keeps s0 (endCz s c q) := by
  unfold endCz
  with_reducible repeat' first | assumption | apply keeps_install | apply keeps_raiseTask | apply keeps_ite

theorem keeps_advance {c : CoreId} (hK : Keeps s0 s) : Keeps s0 (advance s c) := keeps_ite (keeps_modSeq hK) (keeps_raiseTask hK)

theorem keeps_advanceIn {c : CoreId} {n : Nat} (hK : Keeps s0 s) : Keeps s0 (advanceIn s c n) := keeps_advance (keeps_modSeq hK)

theorem keeps_startSeq {c : CoreId} {kind : QKind} {w : CmdWord} {m : Nat} (hK : Keeps s0 s) : Keeps s0 (startSeq s c kind w m) := keeps_upd.mpr hK

theorem keeps_endLd {c : CoreId} {q : QEntry} (hK : Keeps s0 s) : Keeps s0 (endLd s c q) := keeps_modSeq hK

theorem keeps_goAfter {c : CoreId} (hK : Keeps s0 s) : Keeps s0 (goAfter s c) := keeps_ite (keeps_advance hK) hK

theorem keeps_illegalRecord {c : CoreId} {q : QEntry} (hK : Keeps s0 s) : Keeps s0 (illegalRecord s c q) := keeps_ite (keeps_raiseTask hK) hK

theorem keeps_endCoreControl {c : CoreId} {q : QEntry} (hK : Keeps s0 s) : Keeps s0 (endCoreControl s c q) := by
  unfold endCoreControl
  with_reducible repeat' first | assumption | apply keeps_goAfter | apply keeps_modSeq | apply keeps_illegalRecord | apply keeps_ite

theorem keeps_endBowSites {c : CoreId} {q : QEntry} (hK : Keeps s0 s) : Keeps s0 (endBowSites s c q) := by
  unfold endBowSites
  with_reducible repeat' first | assumption | apply keeps_goAfter | apply keeps_modEng | apply keeps_illegalRecord | apply keeps_ite

theorem keeps_startDecision {c : CoreId} (hK : Keeps s0 s) : Keeps s0 (startDecision s c) := by
  unfold startDecision
  with_reducible repeat' first | assumption | apply keeps_raiseTask | apply keeps_modSeq | apply keeps_advanceIn | simp only [keeps_upd] | split

theorem keeps_endSeq {c : CoreId} {q : QEntry} (hK : Keeps s0 s) : Keeps s0 (endSeq s c q) := by
  unfold endSeq
  with_reducible repeat' first | assumption | apply keeps_endLd | apply keeps_endCoreControl | apply keeps_endBowSites | split

theorem keeps_startStLoad {s0 s : State} {c : CoreId} {q : QEntry} (hK : Keeps s0 s) : KeepsRun s0 (startStLoad s c q) := by
  unfold startStLoad
  refine keepsRun_ite keeps_wait ?_
  split
  · exact stCheck_stops (by assumption)
  · exact keeps_run hK

theorem keeps_stLoadUnit {c : CoreId} {q : QEntry} {i g : Nat} (hK : Keeps s0 s) : Keeps s0 (stLoadUnit s c q i g) := by
  unfold stLoadUnit
  with_reducible repeat' first | assumption | apply keeps_modEng | apply keeps_countTier | split

theorem keeps_startStSave {s0 s : State} {c : CoreId} {q : QEntry} (hK : Keeps s0 s) : KeepsRun s0 (startStSave s c q) := by
  unfold startStSave
  refine keepsRun_ite keeps_wait ?_
  split
  · exact stCheck_stops (by assumption)
  · exact keeps_run hK

theorem keeps_stSaveUnit {c : CoreId} {q : QEntry} {i g : Nat} (hK : Keeps s0 s) : Keeps s0 (stSaveUnit s c q i g) := by
  unfold stSaveUnit
  with_reducible repeat' first | assumption | apply keeps_install | apply keeps_devWrite | apply keeps_countTier | split

theorem keeps_startWindow {write : Bool} {s0 s : State} {c : CoreId} {q : QEntry} (hK : Keeps s0 s) : KeepsRun s0 (startWindow write s c q) := by
  unfold startWindow
  dsimp only
  refine keepsRun_ite keeps_wait (keepsRun_ite keeps_fail ?_)
  split
  · exact keeps_fail
  · refine keepsRun_ite keeps_fail (keepsRun_ite keeps_fail ?_)
    split
    · exact stops_localErr.get _ (by assumption) _
    · split
      · exact keeps_fail
      · exact keepsRun_getD stops_downErr (keeps_run hK)

theorem keeps_winMemory {write : Bool} {c : CoreId} {q : QEntry} {r j : Nat} (hK : Keeps s0 s) : Keeps s0 (winMemory write s c q r j) := by
  unfold winMemory
  with_reducible repeat' first | assumption | apply keeps_devWrite | apply keeps_countTier | split

theorem keeps_landDue {c : CoreId} (hK : Keeps s0 s) : Keeps s0 (landDue s c) := by
  unfold landDue
  with_reducible repeat' first | assumption | apply keeps_modEng | apply keeps_modSeq | apply keeps_ite

theorem keeps_raiseDue {c : CoreId} (hK : Keeps s0 s) : Keeps s0 (raiseDue s c) := by
  unfold raiseDue
  with_reducible repeat' first | assumption | apply keeps_abandonRest | apply keeps_raiseTask | apply keeps_modSeq | split

theorem keeps_errorDue {c : CoreId} (hK : Keeps s0 s) : Keeps s0 (errorDue s c) := by
  unfold errorDue
  with_reducible repeat' first | assumption | apply keeps_raiseDue | split

theorem keeps_drainDue {c : CoreId} (hK : Keeps s0 s) : Keeps s0 (drainDue s c) := keeps_ite (keeps_modEng hK) hK

theorem keeps_beginCycle {c : CoreId} (hK : Keeps s0 s) : Keeps s0 (beginCycle s c) := by
  unfold beginCycle
  with_reducible repeat' first | assumption | apply keeps_drainDue | apply keeps_errorDue | apply keeps_modSeq | apply keeps_landDue

theorem keeps_startOf {c : CoreId} {q : QEntry} (hK : Keeps s0 s) : KeepsRun s0 (startOf s c q) := by
  unfold startOf
  with_reducible repeat' first
    | assumption | apply keeps_startSummary | apply keeps_startDma | apply keeps_startMxConfig | apply keeps_startVxConfig | apply keeps_startCzLoad
    | apply keeps_startCzBuild | apply keeps_startMatmul | apply keeps_startWload | apply keeps_startAdrain | apply keeps_startVchain
    | apply keeps_startVdLoad | apply keeps_startVdSetvl | apply keeps_startVdStats | apply keeps_startStLoad | apply keeps_startStSave
    | apply keeps_startWindow | apply keeps_startSpread | apply keeps_startScan | apply keeps_startMerge | apply keeps_startPick | apply keepsRun_ite
    | apply keeps_run | exact keeps_wait | exact keeps_fail | split

theorem keeps_takeStart {s0 s : State} {c : CoreId} {k : QSel} {q : QEntry} (hK : Keeps s0 s) : Keeps s0 (takeStart s c k q) := by
  have h := keeps_startOf (c := c) (q := q) hK
  unfold takeStart
  dsimp only
  split
  · exact hK
  · exact keeps_ite (keeps_abandonRest (keeps_raiseTaskAt (keeps_dropEntry hK))) (keeps_raiseTaskAt (keeps_dropEntry hK))
  · exact keeps_dropEntry (h.done _ (by assumption))
  · exact keeps_modEntry (h.run _ _ (by assumption))

theorem keeps_startQueue {c : CoreId} {k : QSel} (hK : Keeps s0 s) : Keeps s0 (startQueue s c k) := by
  unfold startQueue
  with_reducible repeat' first | assumption | apply keeps_takeStart | split

theorem keeps_starts {c : CoreId} (hK : Keeps s0 s) : Keeps s0 (starts s c) := by
  unfold starts
  with_reducible repeat' first
    | assumption | (intro _) | apply keeps_foldl | apply keeps_startDecision | apply keeps_startQueue | apply keeps_countStall

theorem keeps_unitEffect {c : CoreId} {q : QEntry} (hK : Keeps s0 s) : Keeps s0 (unitEffect s c q) := by
  unfold unitEffect
  with_reducible repeat' first
    | assumption | apply keeps_dmaUnit | apply keeps_stLoadUnit | apply keeps_stSaveUnit | apply keeps_winMemory | apply keeps_drainUnit
    | apply keeps_fillUnit | split

theorem keeps_finishUnit {c : CoreId} {q : QEntry} (hK : Keeps s0 s) : Keeps s0 (finishUnit s c q) := keeps_upd.mpr (keeps_unitEffect hK)

theorem keeps_openUnit {c : CoreId} {q : QEntry} (hK : Keeps s0 s) : Keeps s0 (openUnit s c q) := by
  unfold openUnit
  with_reducible repeat' first | assumption | apply keeps_modEntry | split

theorem keeps_computeAll {c : CoreId} {t : Nat} (hK : Keeps s0 s) : Keeps s0 (computeAll s c t) := by
  unfold computeAll
  with_reducible repeat' first | assumption | (intro _) | apply keeps_foldl | apply keeps_vxCompute | apply keeps_czCompute

theorem keeps_takeReads {c : CoreId} {t : Nat} (hK : Keeps s0 s) : Keeps s0 (takeReads s c t) := keeps_upd.mpr hK

theorem keeps_stage {old : Engines} {c : CoreId} {t : Nat} (hK : Keeps s0 s) : Keeps s0 (stage old s c t) :=
  keeps_foldl hK fun _ _ h => keeps_matmulWrite h

theorem keeps_endEntry {c : CoreId} {q : QEntry} (hK : Keeps s0 s) : Keeps s0 (endEntry s c q) := by
  unfold endEntry
  with_reducible repeat' first
    | assumption | apply keeps_endSummary | apply keeps_install | apply keeps_endCz | apply keeps_vxEnd | apply keeps_endSeq | split

theorem keeps_completeEntry {c : CoreId} {k : QSel} {q : QEntry} (hK : Keeps s0 s) : Keeps s0 (completeEntry s c k q) :=
  keeps_endEntry (keeps_upd.mpr hK)

theorem keeps_popEnded {k : QSel} {t : Nat} {c : CoreId} {n : Nat} {s0 s : State} (hK : Keeps s0 s) : Keeps s0 (popEnded k t c n s) := by
  induction n generalizing s with
  | zero => exact hK
  | succ n ih =>
    unfold popEnded
    split
    · exact hK
    · exact ih (keeps_completeEntry hK)

theorem keeps_popAll {s0 s : State} {c : CoreId} {t : Nat} (hK : Keeps s0 s) : Keeps s0 (popAll s c t) :=
  keeps_foldl hK fun _ _ h => keeps_popEnded h

theorem keeps_workCycle {run : RunEnv} {c : CoreId} {t : Nat} (hK : Keeps s0 s) : Keeps s0 (workCycle run s c t) := by
  unfold workCycle
  with_reducible repeat' first
    | assumption | apply keeps_computeAll | apply keeps_starts | apply keeps_openUnit | apply keeps_takeReads | apply keeps_present
    | apply keeps_finishUnit | apply keeps_popAll | apply keeps_stage | split

theorem keeps_endCycle {run : RunEnv} {c : CoreId} (hK : Keeps s0 s) : Keeps s0 (endCycle run s c) := by
  unfold endCycle
  with_reducible repeat' first | assumption | apply keeps_workCycle | apply keeps_modSeq | split

theorem keeps_idleCycle {run : RunEnv} {c : CoreId} (hK : Keeps s0 s) : Keeps s0 (idleCycle run s c) := keeps_endCycle (keeps_beginCycle hK)

theorem keeps_runSteps {run : RunEnv} {goal : Nat} {c : CoreId} {n : Nat} {s0 s : State} (hK : Keeps s0 s) : Keeps s0 (runSteps run goal c n s) := by
  induction n generalizing s with
  | zero => exact hK
  | succ n ih =>
    unfold runSteps
    dsimp only
    refine keeps_ite hK (ih ?_)
    split
    · exact keeps_modSeq hK
    · exact keeps_idleCycle hK

theorem keeps_runTo {run : RunEnv} {s0 s : State} {c : CoreId} {goal : Nat} (hK : Keeps s0 s) : Keeps s0 (runTo run s c goal) := keeps_runSteps hK

theorem keeps_runFor {run : RunEnv} {c : CoreId} {n : Nat} (hK : Keeps s0 s) : Keeps s0 (runFor run s c n) := keeps_runTo hK

theorem keeps_landAll {c : CoreId} (hK : Keeps s0 s) : Keeps s0 (landAll s c) := by
  unfold landAll
  with_reducible repeat' first | assumption | apply keeps_modEng | apply keeps_modSeq | split

theorem keeps_runCores {p : PartId} {l : List CoreRun} (hK : Keeps s0 s) : Keeps s0 (runCores p l s) := keeps_foldl hK fun _ _ h => keeps_runFor h

theorem keeps_settleWrites {c : CoreId} (hK : Keeps s0 s) : Keeps s0 (settleWrites s c) := keeps_modSeq (keeps_landAll hK)

theorem keeps_performNow {c : CoreId} {a : Access} (hK : Keeps s0 s) : Keeps s0 (performNow c s a) := by
  unfold performNow
  with_reducible repeat' first | assumption | apply keeps_perform | apply keeps_modEng | split

theorem keeps_moveUnit {c : CoreId} {q : QEntry} (hK : Keeps s0 s) : Keeps s0 (moveUnit s c q) := by
  unfold moveUnit
  with_reducible repeat' first | assumption | (intro _) | apply keeps_foldl | apply keeps_openUnit | apply keeps_finishUnit | apply keeps_performNow

theorem keeps_moveRest {c : CoreId} {q : QEntry} {n : Nat} {s0 s : State} (hK : Keeps s0 s) : Keeps s0 (moveRest c q n s) := by
  induction n generalizing s with
  | zero => exact hK
  | succ n ih =>
    unfold moveRest
    exact keeps_ite (ih (keeps_moveUnit hK)) hK

theorem keeps_putBwJob {p : PartId} {j : Job} (hK : Keeps s0 s) : Keeps s0 (putBwJob s p j) := keeps_foldl hK fun _ _ h => keeps_upd.mpr h

theorem keeps_claimCourses {p : PartId} {j : JobNo} (hK : Keeps s0 s) : Keeps s0 (claimCourses s p j) := keeps_foldl hK fun _ _ h => keeps_upd.mpr h

theorem keeps_reportLoad {p : PartId} {j : JobNo} (hK : Keeps s0 s) : Keeps s0 (reportLoad s p j) := keeps_upd.mpr hK

theorem keeps_clearLate {l : List CoreId} (hK : Keeps s0 s) : Keeps s0 (clearLate s l) := keeps_upd.mpr hK

theorem keeps_bindTask {p : PartId} {t : Task} (hK : Keeps s0 s) : Keeps s0 (bindTask s p t) := by
  unfold bindTask
  with_reducible repeat' first
    | assumption | apply keeps_clearLate | apply keeps_closeIdle | apply keeps_modPart | apply keeps_markTask | apply keeps_traceRec

theorem keeps_startTask {p : PartId} {j : Job} {d : ImageDecl} {b : Option Bundle} {v : Variant} {pegs : List (BitVec 8)} (hK : Keeps s0 s) : Keeps s0
    (startTask s p j d b v pegs) := by
  unfold startTask
  with_reducible repeat' first
    | assumption | (intro _) | apply keeps_foldl | apply keeps_modCore | apply keeps_claimCourses | apply keeps_modPart | apply keeps_putBwJob
    | apply keeps_bindTask

theorem keeps_resumeRange {c : CoreId} (hK : Keeps s0 s) : Keeps s0 (resumeRange s c) := keeps_ite hK (keeps_raiseTask hK)

theorem keeps_restoreTask {p : PartId} {j : Job} {d : ImageDecl} {ctx : Ctx} {fresh : Bool} {t : Task} (hK : Keeps s0 s) : Keeps s0 (restoreTask s p j
    d ctx fresh t) := by
  unfold restoreTask
  with_reducible repeat' first
    | assumption | (intro _) | apply keeps_foldl | apply keeps_forAll | apply keeps_modCore | apply keeps_claimCourses | apply keeps_modPart
    | apply keeps_putBwJob | apply keeps_resumeRange | apply keeps_bindTask | apply keeps_ite | simp only | split

theorem keeps_writeCtx {s0 s : State} {k : Ctx} {a : Nat} (hK : Keeps s0 s) : Keeps s0 (writeCtx s k a) := by
  refine keeps_mem hK fun i => ?_
  have h (l : List (CoreCtx × Nat)) (f : CoreCtx × Nat → List (Nat × Byte)) : ∀ m : Tbl Byte, Memory.wf m = true →
      Memory.wf (l.foldl (fun m x => Memory.wrList m (f x)) m) = true := by
    induction l with
    | nil => exact fun _ k => k
    | cons x l ih => exact fun _ k => ih _ (Memory.wf_wrList k)
  exact h _ _ _ (Memory.wf_wrs (Memory.wf_zero i))

theorem keeps_placeCtx {p : PartId} {j : Job} {n : Nat} (hK : Keeps s0 s) : Keeps s0 (placeCtx s p j n).2 := by
  unfold placeCtx
  with_reducible repeat' first | assumption | simp only [keeps_upd] | split

theorem keeps_saveCtx {p : PartId} {capoId : BitVec 16} {liveKib : BitVec 11} (hK : Keeps s0 s) : Keeps s0 (saveCtx s p capoId liveKib) := by
  unfold saveCtx
  dsimp only
  with_reducible repeat' first | assumption | apply keeps_placeCtx | apply keeps_writeCtx | apply keeps_modJob | split

theorem keeps_applyWin {c : CoreId} {w : WinAccess} (hK : Keeps s0 s) : Keeps s0 (applyWin s c w) := by
  unfold applyWin
  with_reducible repeat' first | assumption | (intro _) | apply keeps_foldl | apply keeps_modEng | apply keeps_correctRow | split

theorem keeps_runWindows {p : PartId} (hK : Keeps s0 s) : Keeps s0 (runWindows s p) := by
  unfold runWindows
  with_reducible repeat' first
    | assumption | (intro _) | apply keeps_foldl | apply keeps_forAll | apply keeps_applyWin | apply keeps_modCore | apply keeps_ite
    | simp only [keeps_upd] | split

theorem keeps_addTele {p : PartId} {j : JobNo} (hK : Keeps s0 s) : Keeps s0 (addTele s p j) := keeps_foldl hK fun _ _ h => keeps_modJob h

theorem keeps_noteOvershoot {p : PartId} (hK : Keeps s0 s) : Keeps s0 (noteOvershoot s p) := by
  unfold noteOvershoot
  dsimp only
  with_reducible repeat' first | assumption | apply keeps_modJob | split

theorem keeps_unbind {p : PartId} (hK : Keeps s0 s) : Keeps s0 (unbind s p) := by
  unfold unbind
  dsimp only
  with_reducible repeat' first
    | assumption | (intro _) | apply keeps_forAll | apply keeps_noteOvershoot | apply keeps_addTele | apply keeps_closeCharge | apply keeps_modSeq
    | apply keeps_landAll | apply keeps_releaseRegions | apply keeps_modPart | apply keeps_runWindows | split

theorem keeps_disownFrames {c : CoreId} (hK : Keeps s0 s) : Keeps s0 (disownFrames s c) := keeps_upd.mpr hK

theorem keeps_dropWaits {c : CoreId} (hK : Keeps s0 s) : Keeps s0 (dropWaits s c) := keeps_sendWaiting (keeps_upd.mpr hK)

theorem keeps_dropReserved {c : CoreId} (hK : Keeps s0 s) : Keeps s0 (dropReserved s c) := by
  unfold dropReserved
  dsimp only
  with_reducible repeat' first | assumption | apply keeps_modPart | split

theorem keeps_stopCore {c : CoreId} (hK : Keeps s0 s) : Keeps s0 (stopCore s c) := by
  unfold stopCore
  with_reducible repeat' first
    | assumption | apply keeps_modSeq | apply keeps_landAll | apply keeps_dropReserved | apply keeps_emptyQueues | apply keeps_dropWaits

theorem keeps_stopCores {p : PartId} (hK : Keeps s0 s) : Keeps s0 (stopCores s p) := by
  unfold stopCores
  with_reducible repeat' first | assumption | (intro _) | apply keeps_forAll | apply keeps_modPart | apply keeps_stopCore

theorem keeps_resetCore {c : CoreId} (hK : Keeps s0 s) : Keeps s0 (resetCore s c) := by
  unfold resetCore
  with_reducible repeat' first | assumption | apply keeps_disownFrames | apply keeps_stopCore | apply keeps_modCore

theorem keeps_resetCores {p : PartId} (hK : Keeps s0 s) : Keeps s0 (resetCores s p) := keeps_foldl hK fun _ _ h => keeps_resetCore h

theorem keeps_commitBundle {s0 s : State} {p : PartId} {blocks : List NewBlock} (hK : Keeps s0 s) : Keeps s0 (commitBundle s p blocks) := by
  unfold commitBundle
  dsimp only
  split
  · exact hK
  · split
    · exact hK
    · refine keeps_ite hK (keeps_forAll (keeps_postDone (keeps_modTask (keeps_modJob (keeps_foldl1 ?_ fun x a hx => keeps_endChunk hx)))) fun _ _ ht => keeps_afterChunk ht)
      exact keeps_applyStateStats (keeps_applyPegReports (keeps_bundleTokens hK))

theorem keeps_settleMembers {s0 s : State} {late : List CoreId} {ms : List Member} {fails : Member → Chunk → Bool} {hs err : Nat → Nat}
    {blocks : List NewBlock} (hK : Keeps s0 s) : Keeps s0 (settleMembers s late ms fails hs err blocks) := by
  unfold settleMembers
  dsimp only
  refine keeps_forAll (keeps_postDone (keeps_foldl1 hK fun x a hx => ?_)) fun _ _ ht => keeps_afterChunk ht
  split
  · split
    · exact keeps_endChunk hx
    · exact keeps_requeueChunk hx
  · exact keeps_requeueChunk hx

theorem keeps_settleChunks {p : PartId} {fails : Member → Chunk → Bool} {hs err : Nat → Nat} {skip : Handle → Bool} {blocks : List NewBlock} (hK :
    Keeps s0 s) : Keeps s0 (settleChunks s p fails hs err skip blocks) := by
  unfold settleChunks
  with_reducible repeat' first | assumption | apply keeps_settleMembers | split

theorem keeps_failBundle {p : PartId} (hK : Keeps s0 s) : Keeps s0 (failBundle s p) := keeps_settleChunks hK

theorem keeps_reportTask {p : PartId} {t : Task} (hK : Keeps s0 s) : Keeps s0 (reportTask s p t) := keeps_modJob hK

theorem keeps_endTask {p : PartId} (hK : Keeps s0 s) : Keeps s0 (endTask s p) := by
  unfold endTask
  dsimp only
  with_reducible repeat' first
    | assumption | apply keeps_closeCharge | apply keeps_traceRec | apply keeps_reportTask | apply keeps_unbind | apply keeps_commitBundle
    | apply keeps_failBundle | apply keeps_modJob | apply keeps_postJobEnd | split

theorem keeps_parkTask {p : PartId} (hK : Keeps s0 s) : Keeps s0 (parkTask s p) := by
  unfold parkTask
  with_reducible repeat' first
    | assumption | (intro _) | apply keeps_forAll | apply keeps_commitBundle | apply keeps_addTele | apply keeps_modJob | apply keeps_modPart
    | apply keeps_runWindows | apply keeps_modSeq | split

theorem keeps_unformBundle {b : Bundle} (hK : Keeps s0 s) : Keeps s0 (unformBundle s b) := by
  unfold unformBundle
  with_reducible repeat' first | assumption | (intro _) | apply keeps_forAll | apply keeps_afterChunk | apply keeps_requeueChunk

theorem keeps_setMask {f : Func} {v : VecNo} {m : Bool} (hK : Keeps s0 s) : Keeps s0 (setMask s f v m) := keeps_upd.mpr hK

theorem keeps_countBad {f : Func} (hK : Keeps s0 s) : Keeps s0 (countBad s f) := keeps_modFn hK

theorem keeps_writeSlot {f : Func} {slot : BitVec 6} {off : BitVec 6} {bytes : List Byte} (hK : Keeps s0 s) : Keeps s0 (writeSlot f slot off bytes s)
    := by
  unfold writeSlot
  with_reducible repeat' first | assumption | apply keeps_countBad | apply keeps_modFn | apply keeps_ite

theorem keeps_drainMsgs {f : Func} (hK : Keeps s0 s) : Keeps s0 (drainMsgs s f) := keeps_ite (keeps_modFn hK) hK

theorem keeps_returnSlot {f : Func} {slot : BitVec 6} {off : BitVec 6} {bytes : List Byte} (hK : Keeps s0 s) : Keeps s0 (returnSlot f slot off bytes
    s) := by
  unfold returnSlot
  with_reducible repeat' first | assumption | apply keeps_countBad | apply keeps_drainMsgs | apply keeps_modFn | apply keeps_ite

theorem keeps_noteTurn {f : Func} (hK : Keeps s0 s) : Keeps s0 (noteTurn s f) := keeps_upd.mpr hK

theorem keeps_takeSlot {f : Func} (hK : Keeps s0 s) : Keeps s0 (takeSlot s f) := by
  unfold takeSlot
  with_reducible repeat' first | assumption | apply keeps_setFn | apply keeps_noteTurn | apply keeps_postResult | apply keeps_modFn | apply keeps_ite

theorem keeps_dropCmd {f : Func} (hK : Keeps s0 s) : Keeps s0 (dropCmd s f) := keeps_modFn hK

theorem keeps_runCmd {s0 s : State} {f : Func} {op dt : Nat} {body : Taken → State → Option State} (hK : Keeps s0 s)
    (hb : ∀ t u, Keeps s0 u → KeepsSome s0 (body t u)) : KeepsNext s0 (runCmd f op dt s body) := by
  refine keeps_next ?_
  split
  · exact hK
  · rename_i t _
    have k := hb t _ (keeps_dropCmd (f := f) (keeps_tick (dt := dt) hK))
    cases e : body t (dropCmd (tick s dt) f) with
    | none => exact hK
    | some u => exact k.get u e

theorem keeps_refuseCmd {f : Func} {t : Taken} {st : BitVec 16} (hK : Keeps s0 s) : Keeps s0 (refuseCmd s f t st) := keeps_postResult hK

theorem keeps_okCmd {f : Func} {t : Taken} {res : Nat} (hK : Keeps s0 s) : Keeps s0 (okCmd s f t res) := keeps_postResult hK

theorem keeps_checked {s0 s : State} {f : Func} {t : Taken} {l : List (Bool × BitVec 16)} {go : Option State} (hK : Keeps s0 s) (hg : KeepsSome s0 go)
    :
    KeepsSome s0 (checked s f t l go) := by
  unfold checked
  split
  · exact keeps_some (keeps_refuseCmd hK)
  · exact hg

theorem keeps_noteHostFault (hK : Keeps s0 s) : Keeps s0 (noteHostFault s) := keeps_upd.mpr hK

theorem keeps_fillDrone {p : PartId} {dbase : Nat} {bytes : List Byte} (hK : Keeps s0 s) : Keeps s0 (fillDrone s p dbase bytes) := by
  unfold fillDrone
  with_reducible repeat' first | assumption | (intro _) | apply keeps_forAll | apply keeps_modCore | apply keeps_applyWin | split

theorem keeps_createJob {p : PartId} {d : ImageDecl} {k : JobKind} {key : W64} {weights : Bool} {drone : List Byte} {ch : PlaceChoice} (hK : Keeps s0
    s) : Keeps s0 (createJob s p d k key weights drone ch) := by
  unfold createJob
  with_reducible repeat' first | assumption | apply keeps_modPart | apply keeps_fillDrone | simp only [keeps_upd] | split

theorem keeps_placeModel {p : PartId} {m : ModelSlot} {y : Model} {ch : PlaceChoice} (hK : Keeps s0 s) : Keeps s0 (placeModel s p m y ch) := by
  unfold placeModel
  with_reducible repeat' first
    | assumption | apply keeps_createJob | apply keeps_modModel | apply keeps_ite | refine keeps_mem ?_ Memory.wf_wrs | simp only | split

theorem keeps_triggerReclaim {p : PartId} {j : JobNo} {reason : BitVec 8} (hK : Keeps s0 s) : Keeps s0 (triggerReclaim s p j reason) := by
  unfold triggerReclaim
  with_reducible repeat' first
    | assumption | apply keeps_modJob | apply keeps_modPart | apply keeps_closeCharge | apply keeps_stopCores | apply keeps_ite

theorem keeps_migFail {m : MigOut} {reason : BitVec 16} (hK : Keeps s0 s) : Keeps s0 (migFail s m reason) := by
  unfold migFail
  with_reducible repeat' first | assumption | apply keeps_dropDescs | apply keeps_modStream | apply keeps_postResult | simp only [keeps_upd] | split

theorem keeps_failMigs (hK : Keeps s0 s) : Keeps s0 (failMigs s) := by
  unfold failMigs
  with_reducible repeat' first | assumption | (intro _) | apply keeps_foldl | apply keeps_migFail | simp only [keeps_upd]

theorem keeps_endWindows {ws : List Nat} (hK : Keeps s0 s) : Keeps s0 (endWindows s ws) := by
  unfold endWindows
  with_reducible repeat' first | assumption | (intro _) | apply keeps_foldl | apply keeps_failMigs | apply keeps_postResult | simp only [keeps_upd]

theorem keeps_settleCloses (hK : Keeps s0 s) : Keeps s0 (settleCloses s) := keeps_ite hK (keeps_endWindows hK)

theorem keeps_pairFail {i : Nat} (hK : Keeps s0 s) : Keeps s0 (pairFail s i) := by
  unfold pairFail
  with_reducible repeat' first | assumption | apply keeps_setPair | apply keeps_settleCloses | apply keeps_failMigs | apply keeps_logError | split

theorem keeps_takeAckOf {i : Nat} {fr : Frame} {cred : Nat} (hK : Keeps s0 s) : Keeps s0 (takeAckOf s i fr cred) := by
  unfold takeAckOf
  with_reducible repeat' first | assumption | apply keeps_settleCloses | apply keeps_pairSend | apply keeps_setPair | split

theorem keeps_takeAck {i : Nat} {fr : Frame} (hK : Keeps s0 s) : Keeps s0 (takeAck s i fr) := keeps_takeAckOf hK

theorem keeps_sendCtl {i : Nat} {t : BitVec 4} {seq : BitVec 16} (hK : Keeps s0 s) : Keeps s0 (sendCtl s i t seq) := by
  unfold sendCtl
  with_reducible repeat' first | assumption | apply keeps_sendFrame | apply keeps_setPair | split

theorem keeps_resendAll {i : Nat} (hK : Keeps s0 s) : Keeps s0 (resendAll s i) := by
  unfold resendAll
  with_reducible repeat' first | assumption | (intro _) | apply keeps_foldl | apply keeps_setPair | apply keeps_sendFrame | split

theorem keeps_sendPair {n : WinNo} {w : Win} {d : DevNo} {reply : Bool} (hK : Keeps s0 s) : Keeps s0 (sendPair s n w d reply) := keeps_sendFrame hK

theorem keeps_offerWindow {n : WinNo} {w : Win} (hK : Keeps s0 s) : Keeps s0 (offerWindow s n w) := keeps_foldl hK fun _ _ h => keeps_sendPair h

theorem keeps_offerDevice {d : DevNo} (hK : Keeps s0 s) : Keeps s0 (offerDevice s d) := by
  unfold offerDevice
  dsimp only
  with_reducible repeat' first | assumption | (intro _) | apply keeps_foldl | apply keeps_sendPair | split

theorem keeps_formPair {s0 s : State} {fr : Frame} {i : Option Nat} (hK : Keeps s0 s) : KeepsSome s0 (formPair s fr i) := by
  unfold formPair
  split
  · exact keeps_some (keeps_setPair hK)
  · exact keeps_none

theorem keeps_setAside {i : Nat} (hK : Keeps s0 s) : Keeps s0 (setAside s i) := by
  unfold setAside
  dsimp only
  with_reducible repeat' first | assumption | apply keeps_pairFail | apply keeps_setPair | split

theorem keeps_receivePair {s0 s : State} {w : Win} {fr : Frame} (hK : Keeps s0 s) : Keeps s0 (receivePair s w fr) := by
  unfold receivePair
  dsimp only
  split
  · refine keeps_ite hK ?_
    split
    · rename_i t ht
      exact keeps_ite ((keeps_formPair (keeps_setAside hK)).get _ ht) (keeps_sendPair ((keeps_formPair (keeps_setAside hK)).get _ ht))
    · exact hK
  · split
    · rename_i t ht
      exact keeps_ite ((keeps_formPair hK).get _ ht) (keeps_sendPair ((keeps_formPair hK).get _ ht))
    · exact keeps_upd.mpr hK

theorem keeps_dropChunk {h : Handle} (hK : Keeps s0 s) : Keeps s0 (dropChunk s h) := keeps_endClose (keeps_upd.mpr hK)

theorem keeps_settleReclaimed {p : PartId} {j : JobNo} {ms : List Member} (hK : Keeps s0 s) : Keeps s0 (settleReclaimed s p j ms) := by
  unfold settleReclaimed
  with_reducible repeat' first | assumption | (intro _) | apply keeps_forAll | apply keeps_settleMembers | apply keeps_dropChunk

theorem keeps_wipeCore {c : CoreId} (hK : Keeps s0 s) : Keeps s0 (wipeCore s c) := keeps_modCore hK

theorem keeps_wipeCores {p : PartId} (hK : Keeps s0 s) : Keeps s0 (wipeCores s p) := by
  unfold wipeCores
  with_reducible repeat' first | assumption | (intro _) | apply keeps_forAll | apply keeps_wipeCore | apply keeps_setCourse

theorem keeps_wipeDrone {p : PartId} {b : Job} (hK : Keeps s0 s) : Keeps s0 (wipeDrone s p b) := by
  unfold wipeDrone
  with_reducible repeat' first | assumption | (intro _) | apply keeps_forAll | apply keeps_modEng | split

theorem keeps_forgetHolder {q : Holder → Bool} {h : Holder} (hK : Keeps s0 s) : Keeps s0 (forgetHolder s q h) :=
  keeps_foldl hK fun _ _ h => keeps_upd.mpr h

theorem keeps_wipeTiers {p : PartId} {j : JobNo} (hK : Keeps s0 s) : Keeps s0 (wipeTiers s p j) := by
  unfold wipeTiers
  with_reducible repeat' first | assumption | apply keeps_endWindows | apply keeps_forgetHolder | apply keeps_wipeRegions | simp only [keeps_upd]

theorem keeps_wipeBundle {t : Task} (hK : Keeps s0 s) : Keeps s0 (wipeBundle s t) := by
  unfold wipeBundle
  with_reducible repeat' first | assumption | apply keeps_wipeRegions | split

theorem keeps_sparePart {p : PartId} (hK : Keeps s0 s) : Keeps s0 (sparePart s p) := keeps_foldl hK fun _ _ h => keeps_applySpares h

theorem keeps_reclaimJob {p : PartId} {b : Job} (hK : Keeps s0 s) : Keeps s0 (reclaimJob s p b) := by
  unfold reclaimJob
  with_reducible repeat' first
    | assumption | apply keeps_logTaskErrors | apply keeps_commitBundle | apply keeps_settleReclaimed | apply keeps_unbind | apply keeps_wipeBundle
    | apply keeps_sparePart | apply keeps_wipeCores | apply keeps_wipeTiers | apply keeps_wipeDrone | apply keeps_keepReport | apply keeps_modPart
    | apply keeps_postJobEnd | apply keeps_ite | split

theorem keeps_eraseSealed {p : PartId} (hK : Keeps s0 s) : Keeps s0 (eraseSealed s p) := by
  unfold eraseSealed
  with_reducible repeat' first | assumption | (intro _) | apply keeps_foldl | apply keeps_setHolder | apply keeps_forgetHolder

theorem keeps_destroyPartition {p : PartId} (hK : Keeps s0 s) : Keeps s0 (destroyPartition s p) := by
  unfold destroyPartition
  with_reducible repeat' first
    | assumption | (intro _) | apply keeps_forAll | apply keeps_eraseSealed | apply keeps_closeIdle | apply keeps_modCore | apply keeps_answer
    | apply keeps_setPart | simp only [keeps_upd]

theorem keeps_endDestroy {p : PartId} (hK : Keeps s0 s) : Keeps s0 (endDestroy s p) := keeps_ite (keeps_destroyPartition hK) hK

theorem keeps_releaseModel {m : ModelSlot} (hK : Keeps s0 s) : Keeps s0 (releaseModel s m) := by
  unfold releaseModel
  with_reducible repeat' first | assumption | apply keeps_releaseRegions | simp only [keeps_upd] | split

theorem keeps_dropUser {m : ModelSlot} {f : Func} (hK : Keeps s0 s) : Keeps s0 (dropUser s m f) := keeps_modModel hK

theorem keeps_finishCmd {q : InProgress} (hK : Keeps s0 s) : Keeps s0 (finishCmd s q) := by
  unfold finishCmd
  with_reducible repeat' first | assumption | (intro _) | apply keeps_foldl | apply keeps_releaseModel | apply keeps_postResult | split

theorem keeps_settleCmds (hK : Keeps s0 s) : Keeps s0 (settleCmds s) := by
  unfold settleCmds
  with_reducible repeat' first | assumption | (intro _) | apply keeps_foldl | apply keeps_finishCmd | simp only [keeps_upd]

theorem keeps_dropModels {f : Func} (hK : Keeps s0 s) : Keeps s0 (dropModels s f) := by
  unfold dropModels
  with_reducible repeat' first | assumption | (intro _) | apply keeps_foldl | apply keeps_dropUser | apply keeps_releaseModel | apply keeps_ite

theorem keeps_finishFlr {f : Func} (hK : Keeps s0 s) : Keeps s0 (finishFlr s f) := by
  unfold finishFlr
  with_reducible repeat' first | assumption | apply keeps_modFn | apply keeps_dropModels | split

theorem keeps_settleFlrs (hK : Keeps s0 s) : Keeps s0 (settleFlrs s) := keeps_foldl hK fun _ _ h => keeps_finishFlr h

theorem keeps_settleProgress (hK : Keeps s0 s) : Keeps s0 (settleProgress s) := keeps_settleFlrs (keeps_settleCmds hK)

theorem keeps_settleDestroys (hK : Keeps s0 s) : Keeps s0 (settleDestroys s) := by
  unfold settleDestroys
  with_reducible repeat' first | assumption | (intro _) | apply keeps_forAll | apply keeps_settleProgress | apply keeps_endDestroy

theorem keeps_reclaimStep {p : PartId} {b : Job} (hK : Keeps s0 s) : Keeps s0 (reclaimStep s p b) := by
  unfold reclaimStep
  with_reducible repeat' first | assumption | apply keeps_settleProgress | apply keeps_endDestroy | apply keeps_reclaimJob

theorem keeps_stopNoGrace {p : PartId} (hK : Keeps s0 s) : Keeps s0 (stopNoGrace s p) := by
  unfold stopNoGrace
  with_reducible repeat' first
    | assumption | apply keeps_logTaskErrors | apply keeps_closeCharge | apply keeps_stopCores | apply keeps_commitBundle | apply keeps_settleMembers
    | apply keeps_unbind | split

theorem keeps_tellConflict (hK : Keeps s0 s) : Keeps s0 (tellConflict s) := by
  unfold tellConflict
  with_reducible repeat' first | assumption | apply keeps_logError | simp only [keeps_upd] | split

theorem keeps_stopAll (hK : Keeps s0 s) : Keeps s0 (stopAll s) := keeps_foldl hK fun _ _ h => keeps_stopNoGrace h

theorem keeps_unready (hK : Keeps s0 s) : Keeps s0 (unready s) := keeps_foldl hK fun _ _ h => keeps_modFn h

theorem keeps_setFatal (hK : Keeps s0 s) : Keeps s0 (setFatal s) := by
  unfold setFatal
  with_reducible repeat' first | assumption | apply keeps_ite | simp only [keeps_updPw] | split

theorem keeps_noteAuto {cause : BitVec 8} (hK : Keeps s0 s) : Keeps s0 (noteAuto s cause) := by
  unfold noteAuto
  with_reducible repeat' first | assumption | apply keeps_ite | simp only [keeps_updPw] | split

theorem keeps_deviceError {s0 s : State} {i : ErrInfo} (hK : Keeps s0 s) : Keeps s0 (deviceError s i) := by
  have h := keeps_unready (keeps_setFatal (keeps_noteAuto (cause := i.cause) hK))
  unfold deviceError
  dsimp only
  refine keeps_logError ?_
  split
  · simp only [keeps_updPw]
    apply keeps_stopAll
    simp only [keeps_upd]
    exact h
  · simp only [keeps_upd]
    apply keeps_stopAll
    simp only [keeps_upd]
    exact h

theorem keeps_svcGuard {s0 s ok : State} {write : Bool} {a n : Nat} (hK : Keeps s0 s) (hO : Keeps s0 ok) : Keeps s0 (svcGuard s write a n ok) :=
  keeps_ite hO (keeps_deviceError hK)

theorem keeps_placeDefault {s0 s s' : State} {f : Func} {m : ModelSlot} {noplace : Bool} {ch : PlaceChoice} {j : JobNo} (hK : Keeps s0 s)
    (h : placeDefault s f m noplace ch = some (s', j)) : Keeps s0 s' := by
  unfold placeDefault at h
  split at h
  · cases h; exact hK
  · split at h
    · split at h
      · cases h; exact keeps_placeModel hK
      · cases h
    · cases h

theorem keeps_loadInto {s0 s : State} {f : Func} {t : Taken} {m : ModelSlot} {shared noplace : Bool} {ch : PlaceChoice} (hK : Keeps s0 s) :
    KeepsSome s0 (loadInto s f t m shared noplace ch) := by
  unfold loadInto
  split
  · refine keeps_some (keeps_upd.mpr (keeps_modModel (keeps_placeDefault hK (by assumption))))
  · exact keeps_none

theorem keeps_loadNew {s0 s : State} {f : Func} {t : Taken} {img : Image} {noplace quant : Bool} {ch : LoadChoice} (hK : Keeps s0 s) :
    KeepsSome s0 (loadNew s f t img noplace quant ch) := by
  unfold loadNew
  dsimp only
  split
  · exact keeps_none
  · exact keepsSome_ite keeps_none (keeps_loadInto (keeps_upd.mpr (keeps_devWrite (keeps_setModel hK))))

theorem keeps_loadAgain {s0 s : State} {f : Func} {t : Taken} {m : ModelSlot} {y : Model} {img : Image} {noplace quant : Bool} {ch : LoadChoice}
    (hK : Keeps s0 s) : KeepsSome s0 (loadAgain s f t m y img noplace quant ch) :=
  keeps_loadInto (keeps_devWrite (keeps_setModel (keeps_releaseRegions hK)))

theorem keeps_completeLoad {s0 s : State} {q : InProgress} {m : ModelSlot} {y : Model} {ch : PlaceChoice} (hK : Keeps s0 s) :
    KeepsSome s0 (completeLoad s q m y ch) := by
  unfold completeLoad
  dsimp only
  refine keepsSome_ite (keeps_some (keeps_postResult (keeps_modModel (keeps_upd.mpr hK)))) (keepsSome_ite keeps_none ?_)
  split
  · exact keeps_some (keeps_postResult (keeps_upd.mpr hK))
  · split
    · exact keeps_none
    · exact keeps_some (keeps_postResult (keeps_modModel (keeps_placeDefault (keeps_upd.mpr hK) (by assumption))))

theorem keeps_createPart {t : Taken} {p : PartId} (hK : Keeps s0 s) : Keeps s0 (createPart s t p) := by
  unfold createPart
  with_reducible repeat' first
    | assumption | (intro _) | apply keeps_forAll | apply keeps_modPart | apply keeps_setPart | apply keeps_modCore | apply keeps_answer
    | simp only [keeps_upd] | split

theorem keeps_moveHoldings {p : PartId} {j : JobNo} {q : PartId} {k : JobNo} (hK : Keeps s0 s) : Keeps s0 (moveHoldings s p j q k) := by
  unfold moveHoldings
  with_reducible repeat' first | assumption | (intro _) | apply keeps_foldl | apply keeps_setHolder | simp only [keeps_upd] | split

theorem keeps_moveJob {p : PartId} {j : JobNo} {q : PartId} {k : JobNo} (hK : Keeps s0 s) : Keeps s0 (moveJob s p j q k) := by
  unfold moveJob
  dsimp only
  with_reducible repeat' first
    | assumption | apply keeps_parkTask | apply keeps_modPart | apply keeps_releaseRegions | apply keeps_moveHoldings | split

theorem keeps_setSlice {t : Taken} {p : PartId} {j : JobNo} (hK : Keeps s0 s) : Keeps s0 (setSlice s t p j) :=
  keeps_ite (keeps_modJob hK) (keeps_modPart hK)

theorem keeps_submitJob {p : PartId} {img : Image} {seed : W64} {ch : PlaceChoice} (hK : Keeps s0 s) : Keeps s0 (submitJob s p img seed ch) := by
  unfold submitJob
  with_reducible repeat' first
    | assumption | apply keeps_createJob | apply keeps_ite | refine keeps_mem ?_ Memory.wf_wrs | simp only | split

theorem keeps_sbCount {v : Conv} (hK : Keeps s0 s) : Keeps s0 (sbCount s v) := keeps_upd.mpr hK

theorem keeps_svcGuards {s0 s ok : State} {write : Bool} {l : List (Nat × Nat)} (hK : Keeps s0 s) (hO : Keeps s0 ok) :
    Keeps s0 (svcGuards s write l ok) := by
  unfold svcGuards
  split
  · exact keeps_svcGuard hK hO
  · exact hO

theorem keeps_takeSample {h : Handle} (hK : Keeps s0 s) : Keeps s0 (takeSample s h) := by
  unfold takeSample
  with_reducible repeat' first | assumption | apply keeps_svcGuards | apply keeps_modStream | apply keeps_sbCount

theorem keeps_takeSamples {k : Nat} {h : Handle} {s0 s : State} (hK : Keeps s0 s) : Keeps s0 (takeSamples k s h) := by
  induction k generalizing s with
  | zero => exact hK
  | succ k ih => exact keeps_ite (ih (keeps_takeSample hK)) hK

theorem keeps_markDrained {h : Handle} (hK : Keeps s0 s) : Keeps s0 (markDrained s h) := keeps_ite (keeps_upd.mpr hK) hK

theorem keeps_chunkReady {h : Handle} (hK : Keeps s0 s) : Keeps s0 (chunkReady s h) := keeps_ite hK (keeps_upd.mpr hK)

theorem keeps_computeFrame {h : Handle} (hK : Keeps s0 s) : Keeps s0 (computeFrame s h) := by
  unfold computeFrame
  with_reducible repeat' first
    | assumption | apply keeps_modAcct | apply keeps_svcGuard | apply keeps_endClose | apply keeps_markDrained | apply keeps_chunkReady
    | apply keeps_modStream | apply keeps_ite | refine keeps_mem ?_ Memory.wf_wrs | simp only [keeps_upd] | split

theorem keeps_clearSb (hK : Keeps s0 s) : Keeps s0 (clearSb s) := keeps_upd.mpr hK

theorem keeps_unformWith {h : Handle} (hK : Keeps s0 s) : Keeps s0 (unformWith s h) := by
  unfold unformWith
  with_reducible repeat' first | assumption | apply keeps_unformBundle | simp only [keeps_upd] | split

theorem keeps_logLost {h : Handle} {source : BitVec 3} (hK : Keeps s0 s) : Keeps s0 (logLost s h source) := keeps_ite hK (keeps_logError hK)

theorem keeps_loseImages {h : Handle} {block : Option Nat} (hK : Keeps s0 s) : Keeps s0 (loseImages s h block) := by
  unfold loseImages
  with_reducible repeat' first
    | assumption | apply keeps_logLost | apply keeps_dropMove | apply keeps_releaseRegions | apply keeps_modStream | apply keeps_zeroedBlock | split

theorem keeps_imageLost {h : Handle} {block : Option Nat} (hK : Keeps s0 s) : Keeps s0 (imageLost s h block) := keeps_unformWith (keeps_loseImages hK)

theorem keeps_bringBack {blocks : List NewBlock} {cls : Nat} {reset : Bool} {h : Handle} (hK : Keeps s0 s) : Keeps s0 (bringBack s blocks cls reset h)
    := by
  unfold bringBack
  dsimp only
  with_reducible repeat' first | assumption | apply keeps_imageLost | apply keeps_zeroedBlock | apply keeps_startMove | split

theorem keeps_retirePage {a : Nat} {source : BitVec 3} (hK : Keeps s0 s) : Keeps s0 (retirePage s a source) := by
  unfold retirePage
  with_reducible repeat' first | assumption | apply keeps_logError | simp only [keeps_upd] | split

theorem keeps_noteCorrectedPage {a : Nat} (hK : Keeps s0 s) : Keeps s0 (noteCorrectedPage s a) := by
  unfold noteCorrectedPage
  with_reducible repeat' first | assumption | apply keeps_retirePage | simp only [keeps_upd] | split

theorem keeps_postFaulted {m : ModelSlot} (hK : Keeps s0 s) : Keeps s0 (postFaulted s m) := by
  unfold postFaulted
  with_reducible repeat' first | assumption | (intro _) | apply keeps_foldl | apply keeps_postEvent | split

theorem keeps_faultModel {m : ModelSlot} (hK : Keeps s0 s) : Keeps s0 (faultModel s m) := by
  unfold faultModel
  with_reducible repeat' first | assumption | apply keeps_postFaulted | apply keeps_modModel | split

theorem keeps_reclaimPlacements {m : ModelSlot} (hK : Keeps s0 s) : Keeps s0 (reclaimPlacements s m) := by
  unfold reclaimPlacements
  with_reducible repeat' first | assumption | (intro _) | apply keeps_foldl | apply keeps_triggerReclaim

theorem keeps_faultWeights {a : Nat} (hK : Keeps s0 s) : Keeps s0 (faultWeights s a) := by
  unfold faultWeights
  with_reducible repeat' first | assumption | apply keeps_reclaimPlacements | apply keeps_faultModel | split

theorem keeps_padFrame {h : Handle} (hK : Keeps s0 s) : Keeps s0 (padFrame s h) := keeps_upd.mpr hK

theorem keeps_takeProfile {p : Profile} {ch : OpenChoice} (hK : Keeps s0 s) : Keeps s0 (takeProfile s p ch).2 := by
  unfold takeProfile
  with_reducible repeat' first | assumption | simp only [keeps_upd] | split

theorem keeps_openStream {f : Func} {t : Taken} {y : Model} {m : ModelSlot} {p : Profile} {pl : Nat × Nat × Nat} {ch : OpenChoice} (hK : Keeps s0 s) :
    Keeps s0 (openStream s f t y m p pl ch) := by
  unfold openStream
  with_reducible repeat' first | assumption | apply keeps_takeProfile | apply keeps_okCmd | apply keeps_setStream | simp only [keeps_upd]

theorem keeps_pushOne {s0 : State} {f : Func} {a : PushScan} {e : PushEntry} {audio : HostRead} (hK : Keeps s0 a.s) : Keeps s0 (pushOne f a e audio).s
    := by
  unfold pushOne
  dsimp only
  split
  · exact hK
  · split
    · exact hK
    · split
      · exact keeps_noteHostFault (keeps_modStream hK)
      · dsimp only
        exact keeps_modStream (keeps_modStream hK)

theorem keeps_dropBad {l : List (Handle × Nat)} (hK : Keeps s0 s) : Keeps s0 (dropBad s l) := keeps_foldl hK fun _ _ h => keeps_upd.mpr h

theorem keeps_pushList {s0 s : State} {f : Func} {t : Taken} {count : Nat} {b : List Byte} {audio : List HostRead} (hK : Keeps s0 s) :
    Keeps s0 (pushList s f t count b audio) := by
  unfold pushList
  dsimp only
  refine keeps_modFn (keeps_dropBad ?_)
  have h (l : List Nat) : ∀ a : PushScan, Keeps s0 a.s → Keeps s0 (l.foldl (fun a i => pushOne f a (pushEntry b i) (audio.getD i none)) a).s := by
    induction l with
    | nil => exact fun _ k => k
    | cons i l ih => exact fun a k => ih _ (keeps_pushOne k)
  exact h _ _ hK

theorem keeps_putInbox {h : Handle} {b : List Byte} (hK : Keeps s0 s) : Keeps s0 (putInbox s h b) :=
  keeps_mem hK fun i => Memory.wf_wrs (Memory.wf_wrs i)

theorem keeps_gatherOne {e : Handle × List Byte} (hK : Keeps s0 s) : Keeps s0 (gatherOne s e) := by
  unfold gatherOne
  with_reducible repeat' first
    | assumption | apply keeps_modStream | apply keeps_putInbox | apply keeps_svcGuards | apply keeps_endClose | apply keeps_markDrained
    | apply keeps_chargeHost

theorem keeps_finishGather {f : Func} {g : Gather} (hK : Keeps s0 s) : Keeps s0 (finishGather s f g) := by
  unfold finishGather
  with_reducible repeat' first
    | assumption | (intro _) | apply keeps_foldl | apply keeps_modFn | apply keeps_gatherOne | apply keeps_hostWr | apply keeps_postResult | split

theorem keeps_listEach {s0 : State} {f : Func} {app : State → Handle → Option State} (ha : ∀ t h, Keeps s0 t → KeepsSome s0 (app t h)) :
    ∀ {l : List Handle} {s : State}, Keeps s0 s → Keeps s0 (listEach s f app l).1
  | [], _, hK => hK
  | h :: l, s, hK => by
    unfold listEach
    dsimp only
    apply keeps_listEach ha
    split
    · exact hK
    · split
      · exact hK
      · split
        · exact (ha s h hK).get _ ‹_›
        · exact hK

theorem keeps_listResult {f : Func} {t : Taken} {sts : List (BitVec 16)} (hK : Keeps s0 s) : Keeps s0 (listResult s f t sts) := keeps_postResult hK

theorem keeps_listCmd {s0 s : State} {f : Func} {t : Taken} {opt : Bool} {app : State → Handle → Option State} {after : State → Handle → State}
    (hK : Keeps s0 s) (ha : ∀ t h, Keeps s0 t → KeepsSome s0 (app t h)) (hf : ∀ t h, Keeps s0 t → Keeps s0 (after t h)) :
    KeepsSome s0 (listCmd s f t opt app after) :=
  keeps_checked hK (keeps_some (keeps_foldl (keeps_listResult (keeps_listEach ha hK)) hf))

theorem keeps_pauseStream {h : Handle} (hK : Keeps s0 s) : KeepsSome s0 (pauseStream s h) := by
  unfold pauseStream
  with_reducible repeat' first | assumption | apply keeps_modStream | apply keepsSome_ite | apply keeps_some | exact keeps_none

theorem keeps_dropDemotion {h : Handle} (hK : Keeps s0 s) : Keeps s0 (dropDemotion s h) := by
  unfold dropDemotion
  with_reducible repeat' first | assumption | apply keeps_dropMove | split

theorem keeps_resumeStream {blocks : List NewBlock} {h : Handle} (hK : Keeps s0 s) : KeepsSome s0 (resumeStream blocks s h) := by
  unfold resumeStream
  with_reducible repeat' first
    | assumption | apply keeps_modStream | apply keeps_dropDemotion | apply keeps_bringBack | apply keepsSome_ite | apply keeps_some
    | exact keeps_none

theorem keeps_closeStream {abort : Bool} {h : Handle} (hK : Keeps s0 s) : KeepsSome s0 (closeStream abort s h) := by
  unfold closeStream
  with_reducible repeat' first
    | assumption | apply keeps_modStream | apply keeps_dropDemotion | apply keeps_markDrained | apply keepsSome_ite | apply keeps_some
    | exact keeps_none

theorem keeps_resetStream {discard : Bool} {h : Handle} (hK : Keeps s0 s) : KeepsSome s0 (resetStream discard s h) := by
  unfold resetStream
  with_reducible repeat' first | assumption | apply keeps_modStream | apply keepsSome_ite | apply keeps_some | exact keeps_none

theorem keeps_demote {h : Handle} {dst : Nat} (hK : Keeps s0 s) : Keeps s0 (demote s h dst) := keeps_startDue (keeps_upd.mpr hK)

theorem keeps_formBundle {m : ModelSlot} {q : List (Handle × Chunk)} (hK : Keeps s0 s) : Keeps s0 (formBundle s m q) := by
  unfold formBundle
  with_reducible repeat' first | assumption | (intro _) | apply keeps_foldl | apply keeps_modStream | simp only [keeps_upd]

theorem keeps_resolveMembers {blocks : List NewBlock} {b : Bundle} (hK : Keeps s0 s) : Keeps s0 (resolveMembers s blocks b) :=
  keeps_foldl hK fun _ _ h => keeps_ite (keeps_bringBack h) h

theorem keeps_writeHeaders {y : Model} {b : Bundle} {anchored : Bool} (hK : Keeps s0 s) : Keeps s0 (writeHeaders s y b anchored) := by
  unfold writeHeaders
  with_reducible repeat' first
    | assumption | (intro _) | apply keeps_foldl | apply keeps_ite | refine keeps_mem ?_ Memory.wf_wrs | simp only [keeps_upd] | split

theorem keeps_stampPegs {y : Model} {b : Bundle} (hK : Keeps s0 s) : Keeps s0 (stampPegs s y b) := keeps_foldl hK fun _ _ h => keeps_upd.mpr h

theorem keeps_bindTo {p : PartId} {j : Job} {y : Model} {b : Bundle} {v : Variant} {anchored : Bool} {rec : Nat} (hK : Keeps s0 s) : Keeps s0 (bindTo
    s p j y b v anchored rec) := by
  unfold bindTo
  with_reducible repeat' first
    | assumption | apply keeps_stampPegs | apply keeps_writeHeaders | apply keeps_svcGuards | apply keeps_startTask | apply keeps_ite
    | refine keeps_mem ?_ Memory.wf_wrs | simp only [keeps_upd] | split

theorem keeps_tryBind {b : Bundle} {p : PartId} {rec : Nat} (hK : Keeps s0 s) : Keeps s0 (tryBind s b p rec) := by
  unfold tryBind
  dsimp only
  with_reducible repeat' first | assumption | apply keeps_reportLoad | apply keeps_bindTo | split

theorem keeps_reached {c : CoreId} {e : IssueEnv} (hK : Keeps s0 s) : Keeps s0 (reached s c e) := by
  unfold reached
  with_reducible repeat' first | assumption | apply keeps_beginCycle | apply keeps_runFor | apply keeps_tick

theorem keeps_atIssue {c : CoreId} {e : IssueEnv} (hK : Keeps s0 s) : Keeps s0 (atIssue s c e) := keeps_modSeq (keeps_reached hK)

theorem keeps_branch {c : CoreId} {taken : Bool} {target : Nat} (hK : Keeps s0 s) : Keeps s0 (branch s c taken target) := by
  unfold branch
  with_reducible repeat' first | assumption | apply keeps_raiseTask | apply keeps_modSeq | apply keeps_advance | apply keeps_ite

theorem keeps_issueWhen {s0 s : State} {ready : State → Bool} {row : CmdRow} {c : CoreId} {w : CmdWord} {e : IssueEnv} {body : State → State}
    (hK : Keeps s0 s) (hb : ∀ u, Keeps s0 u → Keeps s0 (body u)) : KeepsNext s0 (issueWhen ready row c w e s body) :=
  keepsNext_ite keeps_refused (keepsNext_ite (keeps_next hK) (keepsNext_ite (keeps_next (keeps_endCycle (keeps_raiseTask (keeps_atIssue hK))))
    (keepsNext_ite (keeps_next hK) (keeps_next (keeps_endCycle (hb _ (keeps_atIssue hK)))))))

theorem keeps_issueCore {s0 s : State} {row : CmdRow} {c : CoreId} {w : CmdWord} {e : IssueEnv} {body : State → State} (hK : Keeps s0 s)
    (hb : ∀ u, Keeps s0 u → Keeps s0 (body u)) : KeepsNext s0 (issueCore row c w e s body) := keeps_issueWhen hK hb

theorem keeps_enqueue {c : CoreId} {kind : QKind} {w : CmdWord} (hK : Keeps s0 s) : Keeps s0 (enqueue s c kind w) := by
  unfold enqueue
  with_reducible repeat' first | assumption | apply keeps_modSeq | apply keeps_pump | apply keeps_advance

theorem keeps_issueQ {s0 s : State} {row : CmdRow} {kind : QKind} {c : CoreId} {w : CmdWord} {e : IssueEnv} (hK : Keeps s0 s) :
    KeepsNext s0 (issueQ row kind c w e s) := keeps_issueWhen hK fun _ hu => keeps_enqueue hu

theorem keeps_setAdvance {c : CoreId} {d : Nat} {v : W64} (hK : Keeps s0 s) : Keeps s0 (setAdvance s c d v) := keeps_advance (keeps_modSeq hK)

theorem keeps_loopBody {c : CoreId} {k target : Nat} (hK : Keeps s0 s) : Keeps s0 (loopBody c k target s) := by
  unfold loopBody
  with_reducible repeat' first | assumption | apply keeps_branch | apply keeps_modSeq | apply keeps_ite

theorem keeps_narrowBody {write : Bool} {c : CoreId} {w : CmdWord} (hK : Keeps s0 s) : Keeps s0 (narrowBody write c w s) := by
  unfold narrowBody
  with_reducible repeat' first | assumption | apply keeps_raiseTask | apply keeps_advance | apply keeps_startSeq | split

theorem keeps_dwaitBody {c : CoreId} {d : BitVec 5} {tag : BitVec 16} (hK : Keeps s0 s) : Keeps s0 (dwaitBody c d tag s) := by
  unfold dwaitBody
  with_reducible repeat' first | assumption | apply keeps_tryDwait | apply keeps_modSeq | apply keeps_raiseTask | apply keeps_ite

theorem keeps_capoIssue {s0 s : State} {c : CoreId} {body : State → State} (hK : Keeps s0 s) (hb : ∀ u, Keeps s0 u → Keeps s0 (body u)) :
    Keeps s0 (capoIssue s c body) :=
  keeps_ite (keeps_raiseTask hK) (keeps_ite (keeps_raiseTask hK) (hb s hK))

theorem keeps_releaseMeet {p : PartId} {cyc : Nat} (hK : Keeps s0 s) : Keeps s0 (releaseMeet s p cyc) := by
  unfold releaseMeet
  with_reducible repeat' first | assumption | (intro _) | apply keeps_forAll | apply keeps_flushAll | apply keeps_advance | apply keeps_modSeq

theorem keeps_completeMeet {p : PartId} {c : CoreId} (hK : Keeps s0 s) : Keeps s0 (completeMeet s p c) := by
  unfold completeMeet
  dsimp only
  with_reducible repeat' first
    | assumption | (intro _) | apply keeps_forAll | apply keeps_raiseTask | apply keeps_modTask | apply keeps_modJob | apply keeps_traceRec
    | apply keeps_raiseDue | apply keeps_settleWrites | apply keeps_saveCtx | apply keeps_noteOvershoot | apply keeps_closeCharge
    | apply keeps_runWindows | apply keeps_modPart | apply keeps_releaseMeet | split

theorem keeps_overflowDue {m : SemMsg} (hK : Keeps s0 s) : Keeps s0 (overflowDue s m) := keeps_modSeq hK

theorem keeps_applyPost {p : PartId} {m : SemMsg} (hK : Keeps s0 s) : Keeps s0 (applyPost s p m) := keeps_ite (keeps_upd.mpr hK) (keeps_modPart hK)

theorem keeps_settlePosts {p : PartId} (hK : Keeps s0 s) : Keeps s0 (settlePosts s p) := by
  unfold settlePosts
  with_reducible repeat' first | assumption | (intro _) | apply keeps_foldl | apply keeps_applyPost | apply keeps_modPart

theorem keeps_arriveCapo {c : CoreId} {id : BitVec 16} {commit : Bool} {live : BitVec 11} (hK : Keeps s0 s) : Keeps s0 (arriveCapo c id commit live s)
    := by
  unfold arriveCapo
  dsimp only
  with_reducible repeat' first | assumption | apply keeps_modSeq | apply keeps_settlePosts | apply keeps_completeMeet | split

theorem keeps_arriveEnd {c : CoreId} (hK : Keeps s0 s) : Keeps s0 (arriveEnd c s) := by
  unfold arriveEnd
  dsimp only
  with_reducible repeat' first | assumption | apply keeps_modSeq | apply keeps_flushAll | apply keeps_endTask | split

theorem keeps_beginSlice {p : PartId} {b : Job} (hK : Keeps s0 s) : Keeps s0 (beginSlice s p b) := keeps_modJob (keeps_modPart hK)

theorem keeps_resumeJob {p : PartId} {b : Job} {t : Task} (hK : Keeps s0 s) : Keeps s0 (resumeJob s p b t) := by
  unfold resumeJob
  with_reducible repeat' first | assumption | apply keeps_restoreTask | apply keeps_modJob | split

theorem keeps_runProgram {p : PartId} {b : Job} {d : ImageDecl} (hK : Keeps s0 s) : Keeps s0 (runProgram s p b d) := by
  unfold runProgram
  with_reducible repeat' first | assumption | apply keeps_reportLoad | apply keeps_restoreTask | apply keeps_startTask | split

theorem keeps_runJob {p : PartId} {b : Job} (hK : Keeps s0 s) : Keeps s0 (runJob s p b) := by
  unfold runJob
  with_reducible repeat' first | assumption | apply keeps_resumeJob | apply keeps_runProgram | split

theorem keeps_goOn {p : PartId} (hK : Keeps s0 s) : Keeps s0 (goOn s p) := by
  unfold goOn
  with_reducible repeat' first | assumption | apply keeps_markTask | apply keeps_modPart | apply keeps_modTask | apply keeps_releaseMeet

theorem keeps_newSlice {p : PartId} {b : Job} (hK : Keeps s0 s) : Keeps s0 (newSlice s p b) := by
  unfold newSlice
  with_reducible repeat' first | assumption | apply keeps_beginSlice | apply keeps_goOn | apply keeps_parkTask | apply keeps_runJob | apply keeps_ite

theorem keeps_startSlice {p : PartId} (hK : Keeps s0 s) : Keeps s0 (startSlice s p) := by
  unfold startSlice
  dsimp only
  with_reducible repeat' first | assumption | apply keeps_goOn | apply keeps_runJob | apply keeps_newSlice | split

theorem keeps_requestEnd {p : PartId} (hK : Keeps s0 s) : Keeps s0 (requestEnd s p) := keeps_traceRec (keeps_modPart hK)

theorem keeps_sliceOver {p : PartId} (hK : Keeps s0 s) : Keeps s0 (sliceOver s p) := by
  unfold sliceOver
  dsimp only
  with_reducible repeat' first | assumption | apply keeps_requestEnd | apply keeps_beginSlice | split

theorem keeps_settleHard {p : PartId} {t : Task} {b : Job} {blocks : List NewBlock} (hK : Keeps s0 s) : Keeps s0 (settleHard s p t b blocks) := by
  unfold settleHard
  with_reducible repeat' first
    | assumption | apply keeps_unbind | apply keeps_commitBundle | apply keeps_settleMembers | apply keeps_modJob | apply keeps_triggerReclaim | split

theorem keeps_hardStop {p : PartId} {blocks : List NewBlock} {mark : Nat} (hK : Keeps s0 s) : Keeps s0 (hardStop s p blocks mark) := by
  unfold hardStop
  dsimp only
  with_reducible repeat' first
    | assumption | apply keeps_chargeHardStop | apply keeps_closeCharge | apply keeps_stopCores | apply keeps_traceRec | apply keeps_settleHard
    | apply keeps_unbind | split

theorem keeps_retireErrors {errs : List TaskErr} (hK : Keeps s0 s) : Keeps s0 (retireErrors s errs) := by
  unfold retireErrors
  with_reducible repeat' first | assumption | (intro _) | apply keeps_foldl | apply keeps_retirePage | split

theorem keeps_settleErrored {t : Task} {lost : List Member} {blocks : List NewBlock} (hK : Keeps s0 s) : Keeps s0 (settleErrored s t lost blocks) :=
  keeps_settleMembers (keeps_settleMembers hK)

theorem keeps_mendDrone {p : PartId} {b : Job} {errs : List TaskErr} (hK : Keeps s0 s) : Keeps s0 (mendDrone s p b errs) := by
  unfold mendDrone
  with_reducible repeat' first | assumption | apply keeps_fillDrone | split

theorem keeps_endErrored {p : PartId} {t : Task} {b : Job} {errs : List TaskErr} (hK : Keeps s0 s) : Keeps s0 (endErrored s p t b errs) := by
  unfold endErrored
  dsimp only
  with_reducible repeat' first
    | assumption | apply keeps_mendDrone | apply keeps_modJob | apply keeps_triggerReclaim | apply keeps_faultModel | apply keeps_modTask
    | apply keeps_unbind | split

theorem keeps_settleErrors {p : PartId} {blocks : List NewBlock} (hK : Keeps s0 s) : Keeps s0 (settleErrors s p blocks) := by
  unfold settleErrors
  dsimp only
  with_reducible repeat' first
    | assumption | (intro _) | apply keeps_foldl | apply keeps_retireErrors | apply keeps_logTaskErrors | apply keeps_closeCharge
    | apply keeps_resetCores | apply keeps_modTask | apply keeps_commitBundle | apply keeps_loseImages | apply keeps_settleErrored
    | apply keeps_endErrored | apply keeps_unbind | split

theorem keeps_divideEnergy (hK : Keeps s0 s) : Keeps s0 (divideEnergy s) := by
  unfold divideEnergy
  with_reducible repeat' first | assumption | (intro _) | apply keeps_foldl | apply keeps_modAcct | simp only [keeps_upd] | split

theorem keeps_logCorrected (hK : Keeps s0 s) : Keeps s0 (logCorrected s) := by
  unfold logCorrected
  with_reducible repeat' first | assumption | (intro _) | apply keeps_foldl | apply keeps_logError | simp only [keeps_upd]

theorem keeps_rewritePages {n : Nat} {mw : Nat} (hK : Keeps s0 s) : Keeps s0 (rewritePages s n mw) := keeps_upd.mpr hK

theorem keeps_cutAll (hK : Keeps s0 s) : Keeps s0 (cutAll s) := keeps_foldl hK fun _ _ h => keeps_ite h (keeps_cutParts h)

theorem keeps_closeInterval (hK : Keeps s0 s) : Keeps s0 (closeInterval s) := by
  unfold closeInterval
  with_reducible repeat' first
    | assumption | (intro _) | apply keeps_forAll | apply keeps_closeIdle | apply keeps_cutAll | apply keeps_logCorrected | apply keeps_divideEnergy
    | apply keeps_rewritePages | apply keeps_rollLoads

theorem keeps_clearSums {p : PartId} (hK : Keeps s0 s) : Keeps s0 (clearSums s p) := keeps_ite hK (keeps_setPart hK)

theorem keeps_reportAll (hK : Keeps s0 s) : Keeps s0 (reportAll s) := by
  unfold reportAll
  with_reducible repeat' first | assumption | (intro _) | apply keeps_forAll | apply keeps_clearSums | simp only [keeps_upd]

theorem keeps_sendSem {c : CoreId} {m : SemMsg} (hK : Keeps s0 s) : Keeps s0 (sendSem s c m) := by
  unfold sendSem
  with_reducible repeat' first | assumption | apply keeps_modPart | split

theorem keeps_grantSem {c : CoreId} {at_ : Nat} {got : Bool} (hK : Keeps s0 s) : Keeps s0 (grantSem s c at_ got) := by
  unfold grantSem
  with_reducible repeat' first | assumption | apply keeps_advance | apply keeps_modSeq | split

theorem keeps_evalSem {p : PartId} {at_ : Nat} {m : SemMsg} (hK : Keeps s0 s) : Keeps s0 (evalSem s p at_ m) := by
  unfold evalSem
  with_reducible repeat' first | assumption | apply keeps_grantSem | apply keeps_modPart | apply keeps_ite

theorem keeps_dropSem {c : CoreId} (hK : Keeps s0 s) : Keeps s0 (dropSem s c) := by
  unfold dropSem
  with_reducible repeat' first | assumption | apply keeps_modPart | split

theorem keeps_askBody {c : CoreId} {w : CmdWord} (hK : Keeps s0 s) : Keeps s0 (askBody c w s) := by
  unfold askBody
  with_reducible repeat' first | assumption | apply keeps_raiseTask | apply keeps_enqueue | apply keeps_modSeq | apply keeps_ite

theorem keeps_runPast {c : CoreId} {k : QSel} {run : RunEnv} {kind : QKind → Bool} (hK : Keeps s0 s) : Keeps s0 (runPast s c k run kind) := by
  unfold runPast
  with_reducible repeat' first | assumption | apply keeps_runTo | split

theorem keeps_finishMemory {s0 s : State} {c : CoreId} {k : QSel} {q : QEntry} (hK : Keeps s0 s) : Keeps s0 (finishMemory s c k q) :=
  keeps_ite (keeps_moveRest hK) (keeps_popAll (keeps_completeEntry (keeps_moveRest hK)))

theorem keeps_failHead {c : CoreId} {q : QEntry} (hK : Keeps s0 s) : Keeps s0 (failHead s c q) := by
  unfold failHead
  with_reducible repeat' first
    | assumption | apply keeps_dropEntry | apply keeps_modEng | apply keeps_pump | apply keeps_abandonRest | apply keeps_raiseTask

theorem keeps_rejectFrame {fr : Frame} (hK : Keeps s0 s) : Keeps s0 (rejectFrame s fr) := by
  unfold rejectFrame
  with_reducible repeat' first | assumption | apply keeps_sendFrame | apply keeps_sendCtl | split

theorem keeps_takeExpected {s0 s : State} {i : Nat} {p : Pair} {fr : Frame} {apply : Nat → State → State} (hK : Keeps s0 s)
    (ha : ∀ j t, Keeps s0 t → Keeps s0 (apply j t)) : Keeps s0 (takeExpected s i p fr apply) := by
  unfold takeExpected
  dsimp only
  split
  · exact ha _ _ (keeps_setPair hK)
  · exact keeps_ite (keeps_sendCtl (ha _ _ (keeps_setPair hK))) (ha _ _ (keeps_setPair hK))

theorem keeps_takeSequenced {s0 s : State} {i : Nat} {p : Pair} {fr : Frame} {ok : Bool} {apply : Nat → State → State} (hK : Keeps s0 s)
    (ha : ∀ j t, Keeps s0 t → Keeps s0 (apply j t)) : Keeps s0 (takeSequenced s i p fr ok apply) :=
  keeps_ite (keeps_ite hK (keeps_rejectFrame hK)) (keeps_ite (keeps_ite (keeps_takeExpected hK ha) (keeps_rejectFrame hK))
    (keeps_ite (keeps_sendCtl hK) (keeps_ite hK (keeps_sendCtl (keeps_setPair hK)))))

theorem keeps_receiveSequenced {s0 s : State} {fr : Frame} {perm : Option Nat} {apply : Nat → State → State} (hK : Keeps s0 s)
    (ha : ∀ j t, Keeps s0 t → Keeps s0 (apply j t)) : Keeps s0 (receiveSequenced s fr perm apply) := by
  unfold receiveSequenced
  dsimp only
  split
  · exact keeps_ite (keeps_rejectFrame hK) hK
  · have h (p : Option Pair) (i n : Nat) : Keeps s0 (match p with | some _ => takeAckOf s i fr n | none => s) := by
      split
      · exact keeps_takeAckOf hK
      · exact hK
    split
    · split <;> first | exact keeps_takeAckOf hK | exact hK
    · refine keeps_takeSequenced ?_ ha
      split <;> first | exact keeps_takeAckOf hK | exact hK

theorem keeps_inboundGuard {s0 s ok : State} {fr : Frame} {write : Bool} (hK : Keeps s0 s) (hO : Keeps s0 ok) :
    Keeps s0 (inboundGuard s fr write ok) := by
  unfold inboundGuard
  split
  · exact hK
  · exact keeps_ite hO (keeps_deviceError hK)

theorem keeps_applyWrite {s0 s : State} {fr : Frame} {i : Nat} (hK : Keeps s0 s) : Keeps s0 (applyWrite fr i s) :=
  keeps_inboundGuard hK (keeps_devWrite hK)

theorem keeps_respond {i : Nat} {fr : Frame} {b : List Byte} (hK : Keeps s0 s) : Keeps s0 (respond s i fr b) := keeps_pairEnqueue (keeps_upd.mpr hK)

theorem keeps_applyReadReq {fr : Frame} {i : Nat} (hK : Keeps s0 s) : Keeps s0 (applyReadReq fr i s) := by
  unfold applyReadReq
  with_reducible repeat' first | assumption | apply keeps_inboundGuard | apply keeps_respond

theorem keeps_applyAtomic {fr : Frame} {i : Nat} (hK : Keeps s0 s) : Keeps s0 (applyAtomic fr i s) := by
  unfold applyAtomic
  with_reducible repeat' first | assumption | apply keeps_inboundGuard | apply keeps_respond | apply keeps_devWrite

theorem keeps_deliverRead {c : CoreId} {n : Nat} {r : ReadWait} {b : List Byte} (hK : Keeps s0 s) : Keeps s0 (deliverRead s c n r b) :=
  keeps_upd.mpr hK

theorem keeps_applyReadResp {fr : Frame} {i : Nat} (hK : Keeps s0 s) : Keeps s0 (applyReadResp fr i s) := by
  unfold applyReadResp
  with_reducible repeat' first | assumption | apply keeps_setPair | apply keeps_deliverRead | apply keeps_settleCloses | split

theorem keeps_retry {i : Nat} {p : Pair} (hK : Keeps s0 s) : Keeps s0 (retry s i p) := by
  unfold retry
  with_reducible repeat' first | assumption | apply keeps_pairFail | apply keeps_resendAll | apply keeps_setPair | split

theorem keeps_putGen {s0 s : State} {u : Uncoded} {a b : Nat} (hK : Keeps s0 s) : Keeps s0 (putGen s u a b) :=
  keeps_devWrite (keeps_foldl hK fun _ _ h => keeps_devWrite h)

theorem keeps_openWindow {n : WinNo} {w : Win} (hK : Keeps s0 s) : Keeps s0 (openWindow s n w) := keeps_offerWindow (keeps_upd.mpr hK)

theorem keeps_flushCredits {n : WinNo} (hK : Keeps s0 s) : Keeps s0 (flushCredits s n) := keeps_foldl hK fun _ _ h => keeps_sendCtl h

theorem keeps_closeWindow {f : Func} {t : Taken} {n : WinNo} {w : Win} (hK : Keeps s0 s) : Keeps s0 (closeWindow s f t n w) := by
  unfold closeWindow
  with_reducible repeat' first | assumption | apply keeps_flushCredits | apply keeps_settleCloses | simp only [keeps_upd]

theorem keeps_migCtrl {i : Nat} {v : Nat} (hK : Keeps s0 s) : Keeps s0 (migCtrl s i v) := by
  unfold migCtrl
  with_reducible repeat' first | assumption | apply keeps_pairEnqueue | split

theorem keeps_modOut {m n : MigOut} (hK : Keeps s0 s) : Keeps s0 (modOut s m n) := keeps_upd.mpr hK

theorem keeps_sendMigData {i : Nat} {c : Func} {a : Nat} {b : List Byte} (hK : Keeps s0 s) : Keeps s0 (sendMigData s i c a b) := by
  unfold sendMigData
  with_reducible repeat' first | assumption | apply keeps_pairEnqueue | apply keeps_chargeBridge | split

theorem keeps_finishOut {m : MigOut} {coded : Nat} (hK : Keeps s0 s) : Keeps s0 (finishOut s m coded) := by
  unfold finishOut
  with_reducible repeat' first | assumption | apply keeps_migCtrl | apply keeps_sendMigData | split

theorem keeps_secondStage {m : MigOut} {coded : Nat} (hK : Keeps s0 s) : Keeps s0 (secondStage s m coded) := by
  unfold secondStage
  with_reducible repeat' first | assumption | apply keeps_modOut | apply keeps_finishOut | simp only [keeps_upd] | split

theorem keeps_startOut {m : MigOut} (hK : Keeps s0 s) : Keeps s0 (startOut s m) := by
  unfold startOut
  dsimp only
  with_reducible repeat' first
    | assumption | apply keeps_migFail | apply keeps_queueDescs | apply keeps_migCtrl | apply keeps_modOut | apply keeps_secondStage | split

theorem keeps_startOuts (hK : Keeps s0 s) : Keeps s0 (startOuts s) := keeps_foldl hK fun _ _ h => keeps_startOut h

theorem keeps_acceptMigrate {f : Func} {t : Taken} {h : Handle} {dev : DevNo} {w : WinNo} (hK : Keeps s0 s) : Keeps s0 (acceptMigrate s f t h dev w)
    := by
  unfold acceptMigrate
  with_reducible repeat' first | assumption | apply keeps_modStream | apply keeps_startOut | simp only [keeps_upd]

theorem keeps_withDesc {d : Option (BitVec 256)} (hK : Keeps s0 s) : Keeps s0 (withDesc s d) := by
  unfold withDesc
  with_reducible repeat' first | assumption | simp only [keeps_upd] | split

theorem keeps_startRelease {r : Release} (hK : Keeps s0 s) : Keeps s0 (startRelease s r) := by
  unfold startRelease
  with_reducible repeat' first | assumption | apply keeps_queueDescs | apply keeps_carveAll | simp only [keeps_upd] | split

theorem keeps_startReleases (hK : Keeps s0 s) : Keeps s0 (startReleases s) := keeps_foldl hK fun _ _ h => keeps_startRelease h

theorem keeps_chargeStream {h : Option Handle} {l : List (Nat × Nat)} (hK : Keeps s0 s) : Keeps s0 (chargeStream s h l) := by
  unfold chargeStream
  with_reducible repeat' first | assumption | (intro _) | apply keeps_foldl | apply keeps_chargeTier | split

theorem keeps_endDesc {d : BitVec 256} {e : DescEnd} (hK : Keeps s0 s) : Keeps s0 (endDesc s d e) := keeps_upd.mpr hK

theorem keeps_beginDesc {d : BitVec 256} (hK : Keeps s0 s) : Keeps s0 (beginDesc s d) := by
  unfold beginDesc
  with_reducible repeat' first | assumption | apply keeps_endDesc | simp only [keeps_upd] | split

theorem keeps_movePlain {d : BitVec 256} {o n : Nat} (hK : Keeps s0 s) : Keeps s0 (movePlain s d o n) := by
  unfold movePlain
  dsimp only
  with_reducible repeat' first | assumption | apply keeps_chargeStream | apply keeps_sendMigData | apply keeps_devWrite | split

theorem keeps_landCode {y : ImageDecl} {d : BitVec 256} (hK : Keeps s0 s) : Keeps s0 (landCode s y d).1 := by
  unfold landCode
  dsimp only
  with_reducible repeat' first | assumption | apply keeps_chargeStream | apply keeps_sendMigData | apply keeps_devWrite | split

theorem keeps_landDecode {y : ImageDecl} {d : BitVec 256} (hK : Keeps s0 s) : Keeps s0 (landDecode s y d).1 := by
  unfold landDecode
  with_reducible repeat' first | assumption | apply keeps_chargeStream | apply keeps_putGen | split

theorem keeps_finishDesc {d : BitVec 256} (hK : Keeps s0 s) : Keeps s0 (finishDesc s d) := by
  unfold finishDesc
  with_reducible repeat' first | assumption | apply keeps_landCode | apply keeps_endDesc | apply keeps_landDecode | split

theorem keeps_advanceDesc {w : MigWork} {n : Nat} (hK : Keeps s0 s) : Keeps s0 (advanceDesc s w n) := by
  unfold advanceDesc
  with_reducible repeat' first | assumption | apply keeps_movePlain | apply keeps_finishDesc | simp only [keeps_upd] | split

theorem keeps_landPiece (hK : Keeps s0 s) : Keeps s0 (landPiece s) := by
  unfold landPiece
  with_reducible repeat' first | assumption | apply keeps_advanceDesc | split

theorem keeps_takeDesc (hK : Keeps s0 s) : Keeps s0 (takeDesc s) := by
  unfold takeDesc
  with_reducible repeat' first | assumption | apply keeps_beginDesc | simp only [keeps_upd] | split

theorem keeps_moveDone {h : Handle} {m : Move} (hK : Keeps s0 s) : Keeps s0 (moveDone s h m) := by
  unfold moveDone
  with_reducible repeat' first | assumption | apply keeps_switchPtr | apply keeps_modStream | split

theorem keeps_moveFailed {h : Handle} {lost : Bool} (hK : Keeps s0 s) : Keeps s0 (moveFailed s h lost) := by
  unfold moveFailed
  with_reducible repeat' first | assumption | apply keeps_imageLost | apply keeps_dropMove | split

theorem keeps_outDone {m : MigOut} {r : MigDone} {lost : Bool} (hK : Keeps s0 s) : Keeps s0 (outDone s m r lost) := by
  unfold outDone
  with_reducible repeat' first | assumption | apply keeps_migFail | apply keeps_imageLost | apply keeps_secondStage | apply keeps_finishOut | split

theorem keeps_releaseDone {x : Release} {r : MigDone} (hK : Keeps s0 s) : Keeps s0 (releaseDone s x r) := by
  unfold releaseDone
  with_reducible repeat' first | assumption | apply keeps_setHolder | simp only [keeps_upd] | split

theorem keeps_settleDesc {r : MigDone} {lost : Bool} (hK : Keeps s0 s) : Keeps s0 (settleDesc s r lost) := by
  unfold settleDesc
  with_reducible repeat' first | assumption | apply keeps_outDone | apply keeps_releaseDone | apply keeps_moveFailed | apply keeps_moveDone | split

theorem keeps_completeDesc {x : MigDue} (hK : Keeps s0 s) : Keeps s0 (completeDesc s x) := keeps_settleDesc (keeps_upd.mpr hK)

theorem keeps_runToEnd (hK : Keeps s0 s) : Keeps s0 (runToEnd s) := by
  unfold runToEnd
  dsimp only
  with_reducible repeat' first | assumption | apply keeps_landPiece | apply keeps_beginDesc | apply keeps_advanceDesc | split

theorem keeps_completeNext (hK : Keeps s0 s) : Keeps s0 (completeNext s) := by
  unfold completeNext
  with_reducible repeat' first | assumption | apply keeps_takeDesc | apply keeps_settleDestroys | apply keeps_completeDesc | split

theorem keeps_placeArrived {s0 s : State} {x : Stream} {d : ImageDecl} {u : Option Uncoded} {data : List Byte} (hK : Keeps s0 s) :
    Keeps s0 (placeArrived s x d u data) := by
  unfold placeArrived
  dsimp only
  split
  · exact keeps_mem (keeps_putGen hK) fun h => putPieces_wf (putPieces_wf h)
  · exact keeps_mem hK fun h => putPieces_wf (putPieces_wf h)

theorem keeps_arrive {s0 s t : State} {g : MigIn} {w : Win} {e : Nat} {ch : OpenChoice} {h : Handle} (hK : Keeps s0 s)
    (k : arrive s g w e ch = .accept t h) : Keeps s0 t := by
  unfold arrive at k
  dsimp only at k
  split at k
  · cases k
  · split at k
    · cases k
    · cases k
    · split at k
      · cases k
      · cases k
        refine keeps_postEvent (keeps_placeArrived (keeps_setStream (keeps_setStream ?_)))
        simp only [keeps_upd]
        exact keeps_takeProfile hK

theorem keeps_dropIn {w : WinNo} {d : DevNo} (hK : Keeps s0 s) : Keeps s0 (dropIn s w d) := keeps_upd.mpr hK

theorem keeps_migAccepted {m : MigOut} {h : Nat} (hK : Keeps s0 s) : Keeps s0 (migAccepted s m h) := by
  unfold migAccepted
  with_reducible repeat' first | assumption | apply keeps_postResult | apply keeps_freeStream | simp only [keeps_upd]

theorem keeps_applyMigCtrl {s0 s : State} {fr : Frame} {ch : OpenChoice} {i : Nat} (hK : Keeps s0 s) : Keeps s0 (applyMigCtrl fr ch i s) := by
  unfold applyMigCtrl
  dsimp only
  split
  · exact keeps_upd.mpr (keeps_dropIn hK)
  · split
    · split
      · exact keeps_migCtrl (keeps_dropIn hK)
      · exact keeps_migCtrl (keeps_dropIn (keeps_arrive hK (by assumption)))
      · exact hK
    · exact hK
  · split
    · exact keeps_migAccepted hK
    · exact hK
  · split
    · exact keeps_migFail hK
    · exact hK
  · exact hK

theorem keeps_loseLine {c : CoreId} {a : Nat} (hK : Keeps s0 s) : Keeps s0 (loseLine s c a) := keeps_upd.mpr hK

theorem keeps_zeroWord {c : CoreId} {w : Nat} (hK : Keeps s0 s) : Keeps s0 (zeroWord s c w) := keeps_foldl hK fun _ _ h => keeps_modSeq h

theorem keeps_retireAt {a : Nat} (hK : Keeps s0 s) : Keeps s0 (retireAt s a) := keeps_ite (keeps_retirePage hK) hK

theorem keeps_lateRecord {c : CoreId} {cause : BitVec 8} {a : Nat} {detail : BitVec 16} (hK : Keeps s0 s) : Keeps s0 (lateRecord s c cause a detail)
    :=
  keeps_logError hK

theorem keeps_coreRead {c : CoreId} {a : Nat} {sym : BitVec 16} (hK : Keeps s0 s) : Keeps s0 (coreRead s c a sym) := by
  unfold coreRead
  with_reducible repeat' first
    | assumption | apply keeps_loseLine | apply keeps_abandonRest | apply keeps_raiseTaskAt | apply keeps_retireAt | apply keeps_lateRecord | split

theorem keeps_sramRead {c : CoreId} {r : SramRow} (hK : Keeps s0 s) : Keeps s0 (sramRead s c r) := by
  unfold sramRead
  with_reducible repeat' first
    | assumption | apply keeps_zeroWord | apply keeps_abandonRest | apply keeps_raiseTaskAt | apply keeps_lateRecord | split

theorem keeps_failAt {w : MigWork} {a : Nat} (hK : Keeps s0 s) : Keeps s0 (failAt s w a) := by
  unfold failAt
  with_reducible repeat' first | assumption | apply keeps_endDesc | apply keeps_movePlain | split

theorem keeps_migrationRead {a : Nat} {sym : BitVec 16} (hK : Keeps s0 s) : Keeps s0 (migrationRead s a sym) := by
  unfold migrationRead
  with_reducible repeat' first | assumption | apply keeps_failAt | apply keeps_logError | apply keeps_faultWeights | apply keeps_retireAt | split

theorem keeps_inboxRead {h : Handle} {a : Nat} (hK : Keeps s0 s) : Keeps s0 (inboxRead s h a) := by
  unfold inboxRead
  with_reducible repeat' first | assumption | apply keeps_modStream | apply keeps_retireAt | apply keeps_logError | apply keeps_ite

theorem keeps_hostRead {a : Nat} (hK : Keeps s0 s) : Keeps s0 (hostRead s a) := by
  unfold hostRead
  with_reducible repeat' first | assumption | apply keeps_faultWeights | apply keeps_retireAt | apply keeps_deviceError

theorem keeps_partUnitError {c : CoreId} (hK : Keeps s0 s) : Keeps s0 (partUnitError s c) := by
  unfold partUnitError
  with_reducible repeat' first | assumption | apply keeps_logError | apply keeps_modPart | apply keeps_closeCharge | apply keeps_stopCores | split

theorem keeps_readFault {r : Requester} {a : Nat} {sym : BitVec 16} (hK : Keeps s0 s) : Keeps s0 (readFault s r a sym) := by
  unfold readFault
  with_reducible repeat' first
    | assumption | apply keeps_coreRead | apply keeps_sramRead | apply keeps_migrationRead | apply keeps_inboxRead | apply keeps_hostRead
    | apply keeps_partUnitError | apply keeps_deviceError | split

theorem keeps_settleReset {p : PartId} (hK : Keeps s0 s) : Keeps s0 (settleReset s p) := by
  unfold settleReset
  with_reducible repeat' first
    | assumption | apply keeps_logTaskErrors | apply keeps_closeCharge | apply keeps_modTask | apply keeps_commitBundle | apply keeps_settleMembers
    | split

theorem keeps_resetPartition {p : PartId} (hK : Keeps s0 s) : Keeps s0 (resetPartition s p) := by
  unfold resetPartition
  with_reducible repeat' first
    | assumption | apply keeps_wipeCores | apply keeps_unbind | apply keeps_settleReset | apply keeps_resetCores | apply keeps_modPart

theorem keeps_filterRoutes {keep : Nat → RouteSrc → Bool} (hK : Keeps s0 s) : Keeps s0 (filterRoutes s keep) := keeps_upd.mpr hK

theorem keeps_setPeer {n : PortNo} (hK : Keeps s0 s) : Keeps s0 (setPeer s n) := keeps_setPort hK

theorem keeps_setRoot (hK : Keeps s0 s) : Keeps s0 (setRoot s) := keeps_upd.mpr hK

theorem keeps_refreshPorts (hK : Keeps s0 s) : Keeps s0 (refreshPorts s) := by
  unfold refreshPorts
  with_reducible repeat' first | assumption | (intro _) | apply keeps_foldl | apply keeps_setRoot | apply keeps_setPeer

theorem keeps_sendHello {n : PortNo} (hK : Keeps s0 s) : Keeps s0 (sendHello s n) := by
  unfold sendHello
  with_reducible repeat' first | assumption | apply keeps_sendOn | apply keeps_setPort | split

theorem keeps_numberConflict (hK : Keeps s0 s) : Keeps s0 (numberConflict s) := keeps_tellConflict (keeps_upd.mpr hK)

theorem keeps_hearHello {n remote : PortNo} {d : DevNo} (hK : Keeps s0 s) : Keeps s0 (hearHello s n remote d) := by
  unfold hearHello
  with_reducible repeat' first | assumption | apply keeps_refreshPorts | apply keeps_offerDevice | simp only [keeps_upd] | split

theorem keeps_stepTime {d : W64} (hK : Keeps s0 s) : Keeps s0 (stepTime s d) := keeps_upd.mpr hK

theorem keeps_correctTime {ns : Int} (hK : Keeps s0 s) : Keeps s0 (correctTime s ns) := by
  unfold correctTime
  with_reducible repeat' first | assumption | apply keeps_stepTime | simp only [keeps_upd] | split

theorem keeps_zeroedTo {a : Nat} (hK : Keeps s0 s) : Keeps s0 (zeroedTo s a) := keeps_ite hK (keeps_upd.mpr hK)

theorem keeps_takePage {h : Holder} {pg : Nat} (hK : Keeps s0 s) : Keeps s0 (takePage h s pg) := by
  unfold takePage
  with_reducible repeat' first | assumption | apply keeps_ite | refine keeps_mem ?_ Memory.wf_zero | simp only [keeps_upd] | split

theorem keeps_doGrant {e : BitVec 128} (hK : Keeps s0 s) : Keeps s0 (doGrant s e) := by
  unfold doGrant
  with_reducible repeat' first | assumption | (intro _) | apply keeps_foldl | apply keeps_takePage | apply keeps_answer | simp only [keeps_upd]

theorem keeps_doVerify {r : Region} {img : SignedObj} (hK : Keeps s0 s) : Keeps s0 (doVerify s r img) := by
  unfold doVerify
  with_reducible repeat' first | assumption | apply keeps_setHolder | apply keeps_answer | simp only [keeps_upd]

theorem keeps_doRelease {s0 s : State} {v : Verified} (hK : Keeps s0 s) : Keeps s0 (doRelease s v) :=
  keeps_answer (keeps_setHolder (keeps_upd.mpr (keeps_mem (keeps_carveAll (a := v.base) (n := v.size) hK) fun i => Memory.wf_zero i)))

theorem keeps_scrubLine {a : Nat} {corrected uncorrectable : Bool} (hK : Keeps s0 s) : Keeps s0 (scrubLine s a corrected uncorrectable) := by
  unfold scrubLine
  with_reducible repeat' first | assumption | apply keeps_noteCorrectedPage | apply keeps_retirePage | split

theorem keeps_expanderDown {x : BitVec 2} (hK : Keeps s0 s) : Keeps s0 (expanderDown s x) := by
  unfold expanderDown
  with_reducible repeat' first | assumption | apply keeps_logError | apply keeps_ite | simp only [keeps_updPw] | split

theorem keeps_coldHold {s0 s : State} (hK : Keeps s0 s) : Keeps s0 (coldHold s) :=
  ⟨hK.pending, fun _ => Memory.wf_reset, hK.host, fun _ => ⟨pwOk_reset.dutyP, pwOk_reset.dutyT, pwOk_reset.cap, pwOk_reset.hyst, pwOk_reset.delay⟩, hK.debug, hK.fuses⟩

theorem keeps_perstHold {s0 s : State} (hK : Keeps s0 s) : Keeps s0 (perstHold s) :=
  ⟨hK.pending, hK.mem, hK.host, fun i => ⟨pwOk_reset.dutyP, pwOk_reset.dutyT, (hK.pw i).cap, (hK.pw i).hyst, pwOk_reset.delay⟩, hK.debug, hK.fuses⟩

theorem keeps_warmState {s0 s : State} {cause : BitVec 2} (hK : Keeps s0 s) : Keeps s0 (warmState s cause) :=
  ⟨hK.pending, hK.mem, hK.host, fun i => ⟨pwOk_reset.dutyP, pwOk_reset.dutyT, (hK.pw i).cap, (hK.pw i).hyst, pwOk_reset.delay⟩, hK.debug, hK.fuses⟩

theorem keeps_sampleStraps (hK : Keeps s0 s) : Keeps s0 (sampleStraps s) := by
  unfold sampleStraps
  with_reducible repeat' first | assumption | apply keeps_ite | simp only [keeps_updFuses] | split

theorem keeps_stopBoot (hK : Keeps s0 s) : Keeps s0 (stopBoot s) := by
  unfold stopBoot
  with_reducible repeat' first | assumption | apply keeps_ite | simp only [keeps_updPw] | split

theorem keeps_takeMonitor {s0 s : State} {src : Nat} {o : SignedObj} (hK : Keeps s0 s) : Keeps s0 (takeMonitor s src o) :=
  ⟨hK.pending, hK.mem, hK.host, hK.pw, hK.debug, ⟨hK.fuses.1, hK.fuses.2, hK.fuses.3, hK.fuses.4, Nat.le_trans hK.fuses.5 raisedFloor_le, hK.fuses.6, hK.fuses.7, hK.fuses.8, hK.fuses.9, hK.fuses.10⟩⟩

theorem keeps_takeRuntime {s0 s : State} {src : Nat} {o : SignedObj} (hK : Keeps s0 s) : Keeps s0 (takeRuntime s src o) :=
  ⟨hK.pending, hK.mem, hK.host, hK.pw, hK.debug, ⟨hK.fuses.1, hK.fuses.2, hK.fuses.3, hK.fuses.4, hK.fuses.5, Nat.le_trans hK.fuses.6 raisedFloor_le, hK.fuses.7, hK.fuses.8, hK.fuses.9, hK.fuses.10⟩⟩

theorem keeps_deriveAttest {rt : BitVec 384} (hK : Keeps s0 s) : Keeps s0 (deriveAttest s rt) := by
  unfold deriveAttest
  with_reducible repeat' first | assumption | simp only [keeps_upd] | split

theorem keeps_applyRecord {s0 s : State} {flash : Option (List Byte)} (hK : Keeps s0 s) : Keeps s0 (applyRecord s flash) := by
  unfold applyRecord
  refine keeps_ite hK ?_
  split
  · rename_i u hu
    obtain ⟨v, hv, rfl⟩ : ∃ v, flashRecord s.fuses flash = some v ∧ v = u := by
      rw [Option.filter_eq_some_iff] at hu
      exact ⟨u, hu.1, rfl⟩
    have k : FusesLe s0.fuses v ∧ v.debugUsed = s.fuses.debugUsed := by
      unfold flashRecord at hv
      split at hv
      · cases hv; exact ⟨hK.fuses, rfl⟩
      · unfold readRecord at hv
        dsimp only at hv
        split at hv
        · cases hv
          exact ⟨⟨hK.fuses.1, hK.fuses.2, hK.fuses.3, hK.fuses.4, hK.fuses.5, hK.fuses.6, hK.fuses.7, hK.fuses.8, hK.fuses.9, hK.fuses.10⟩, rfl⟩
        · cases hv
    exact ⟨hK.pending, hK.mem, hK.host, hK.pw, fun i => by rw [k.2]; exact hK.debug i,
      ⟨k.1.1, k.1.2, k.1.3, k.1.4, k.1.5, k.1.6, k.1.7, k.1.8, k.1.9, k.1.10⟩⟩
  · simp only [keeps_updFuses]
    exact hK

theorem keeps_trainLinks {b : BootEnv} (hK : Keeps s0 s) : Keeps s0 (trainLinks s b) := by
  unfold trainLinks
  with_reducible repeat' first | assumption | apply keeps_ite | simp only [keeps_updPw] | split

theorem keeps_readyAll (hK : Keeps s0 s) : Keeps s0 (readyAll s) := keeps_foldl hK fun _ _ h => keeps_ite (keeps_modFn h) h

theorem keeps_startRuntime (hK : Keeps s0 s) : Keeps s0 (startRuntime s) := by
  unfold startRuntime
  with_reducible repeat' first
    | assumption | apply keeps_modFn | apply keeps_readyAll | apply keeps_ite | simp only [keeps_updPw] | split

theorem keeps_bootRuntime {b : BootEnv} (hK : Keeps s0 s) : Keeps s0 (bootRuntime s b) := by
  unfold bootRuntime
  with_reducible repeat' first
    | assumption | apply keeps_startRuntime | apply keeps_takeRuntime | apply keeps_stopBoot | simp only [keeps_upd] | split

theorem keeps_bootFrom3 {b : BootEnv} (hK : Keeps s0 s) : Keeps s0 (bootFrom3 s b) := by
  unfold bootFrom3
  with_reducible repeat' first
    | assumption | apply keeps_applyRecord | apply keeps_deriveAttest | apply keeps_bootRuntime | apply keeps_trainLinks | apply keeps_stopBoot
    | apply keeps_setFatal | simp only [keeps_upd] | split

theorem keeps_afterMonitor {b : BootEnv} (hK : Keeps s0 s) : Keeps s0 (afterMonitor s b) := by
  unfold afterMonitor
  with_reducible repeat' first | assumption | apply keeps_stopBoot | apply keeps_bootFrom3 | simp only [keeps_upd] | split

theorem keeps_boot {b : BootEnv} {enum : Bool} (hK : Keeps s0 s) : Keeps s0 (boot s b enum) := by
  unfold boot
  with_reducible repeat' first
    | assumption | apply keeps_sampleStraps | apply keeps_afterMonitor | apply keeps_takeMonitor | apply keeps_stopBoot | apply keeps_ite
    | simp only [keeps_updPw] | split

theorem keeps_release {b : BootEnv} (hK : Keeps s0 s) : Keeps s0 (release s b) := keeps_ite (keeps_boot hK) hK

theorem keeps_powerOn {b : BootEnv} (hK : Keeps s0 s) : Keeps s0 (powerOn s b) := by
  unfold powerOn
  with_reducible repeat' first | assumption | apply keeps_release | apply keeps_ite | simp only [keeps_updPw] | split

theorem keeps_warmReset {cause : BitVec 2} {b : BootEnv} (hK : Keeps s0 s) : Keeps s0 (warmReset s cause b) := keeps_boot (keeps_warmState hK)

theorem keeps_closeSilently {h : Handle} (hK : Keeps s0 s) : Keeps s0 (closeSilently s h) := by
  unfold closeSilently
  with_reducible repeat' first
    | assumption | apply keeps_dropMove | apply keeps_unformWith | apply keeps_modStream | apply keeps_dropReserved | apply keeps_endClose

theorem keeps_dropPartition {p : PartId} (hK : Keeps s0 s) : Keeps s0 (dropPartition s p) := by
  unfold dropPartition
  with_reducible repeat' first
    | assumption | (intro _) | apply keeps_foldl | apply keeps_modPart | apply keeps_modJob | apply keeps_triggerReclaim | apply keeps_endDestroy

theorem keeps_abandonLoad {f : Func} {q : InProgress} (hK : Keeps s0 s) : Keeps s0 (abandonLoad f s q) := by
  unfold abandonLoad
  with_reducible repeat' first | assumption | apply keeps_modModel | split

theorem keeps_dropCommands {f : Func} (hK : Keeps s0 s) : Keeps s0 (dropCommands s f) := by
  unfold dropCommands
  with_reducible repeat' first | assumption | (intro _) | apply keeps_foldl | apply keeps_abandonLoad | simp only [keeps_upd]

theorem keeps_flrEffects {f : Func} (hK : Keeps s0 s) : Keeps s0 (flrEffects s f) := by
  unfold flrEffects
  with_reducible repeat' first
    | assumption | (intro _) | apply keeps_foldl | apply keeps_dropCommands | apply keeps_closeSilently | apply keeps_dropPartition
    | apply keeps_settleProgress | apply keeps_modFn

theorem keeps_dropTurns {f : Func} (hK : Keeps s0 s) : Keeps s0 (dropTurns s f) := keeps_upd.mpr hK

theorem keeps_flrOne {f : Func} (hK : Keeps s0 s) : Keeps s0 (flrOne s f) := by
  unfold flrOne
  with_reducible repeat' first | assumption | apply keeps_dropTurns | apply keeps_modFn | apply keeps_flrEffects | apply keeps_ite

theorem keeps_clearVfs (hK : Keeps s0 s) : Keeps s0 (clearVfs s) := keeps_foldl hK fun _ _ h => keeps_ite h (keeps_modFn h)

theorem keeps_flrAll (hK : Keeps s0 s) : Keeps s0 (flrAll s) := by
  unfold flrAll
  with_reducible repeat' first | assumption | (intro _) | apply keeps_forAll | apply keeps_flrOne | apply keeps_clearVfs

theorem keeps_leaveStandby (hK : Keeps s0 s) : Keeps s0 (leaveStandby s) := by
  unfold leaveStandby
  with_reducible repeat' first | assumption | apply keeps_ite | simp only [keeps_updPw] | split

theorem keeps_enableVfs {n : Nat} (hK : Keeps s0 s) : Keeps s0 (enableVfs s n) := keeps_foldl hK fun _ _ h => keeps_ite (keeps_modFn h) h

theorem keeps_disableVfs (hK : Keeps s0 s) : Keeps s0 (disableVfs s) := by
  unfold disableVfs
  with_reducible repeat' first | assumption | (intro _) | apply keeps_forAll | apply keeps_flrOne | apply keeps_clearVfs

theorem keeps_served {op : BitVec 4} {st : BitVec 8} (hK : Keeps s0 s) : Keeps s0 (served s op st) := keeps_upd.mpr hK

theorem keeps_askMon {s0 s go : State} {op : BitVec 4} (hK : Keeps s0 s) (hG : Keeps s0 go) : Keeps s0 (askMon s op go) :=
  keeps_ite hK (keeps_ite (keeps_upd.mpr hK) hG)

theorem keeps_giveNonce (hK : Keeps s0 s) : Keeps s0 (giveNonce s) := keeps_upd.mpr hK

theorem keeps_serveQuote (hK : Keeps s0 s) : Keeps s0 (serveQuote s) := by
  unfold serveQuote
  with_reducible repeat' first | assumption | apply keeps_served | simp only [keeps_upd] | split

theorem keeps_runToken {s0 s : State} {o : SignedObj} {b : BootEnv} (hK : Keeps s0 s) (hT : tokStatus s o = rqOK) : Keeps s0 (runToken s o b) :=
  keeps_warmReset ⟨hK.pending, fun _ => rfl, hK.host, hK.pw, fun i => (fusesLe_burn hT).2 (hK.debug i), hK.fuses.trans hK.debug (fusesLe_burn hT).1⟩

theorem keeps_stallToken {s0 s : State} (hK : Keeps s0 s) : Keeps s0 (stallToken s) := by
  have h := keeps_warmState (cause := s.pw.wrCause) hK
  exact ⟨h.pending, fun _ => rfl, h.host, fun i => let k := h.pw i; ⟨k.dutyP, k.dutyT, k.cap, k.hyst, k.delay⟩, h.debug, h.fuses⟩

theorem keeps_serveToken {s0 s : State} {o : SignedObj} {b : BootEnv} {sanitized : Bool} (hK : Keeps s0 s) :
    Keeps s0 (serveToken s o b sanitized) := by
  unfold serveToken
  dsimp only
  split
  · exact keeps_served hK
  · rename_i h
    exact keeps_ite (keeps_runToken hK (Decidable.not_not.mp h)) (keeps_stallToken hK)

theorem keeps_tryHostImage {o : SignedObj} {b : BootEnv} (hK : Keeps s0 s) : Keeps s0 (tryHostImage s o b) := by
  unfold tryHostImage
  with_reducible repeat' first
    | assumption | apply keeps_served | apply keeps_afterMonitor | apply keeps_takeMonitor | apply keeps_startRuntime | apply keeps_takeRuntime
    | apply keeps_deriveAttest | simp only [keeps_upd] | split

theorem keeps_writeSmReq {v : W64} (hK : Keeps s0 s) : Keeps s0 (writeSmReq v s) := by
  unfold writeSmReq
  with_reducible repeat' first | assumption | simp only [keeps_upd] | split

theorem keeps_writeFatal {i : BitVec 3} {v : W64} (hK : Keeps s0 s) : Keeps s0 (writeFatal i v s) := keeps_ite (keeps_upd.mpr hK) hK

theorem keeps_failEntropy (hK : Keeps s0 s) : Keeps s0 (failEntropy s) := by
  unfold failEntropy
  with_reducible repeat' first | assumption | apply keeps_logError | simp only [keeps_upd] | split

theorem keeps_putCState {k : CourseId} {c : CState} (hK : Keeps s0 s) : Keeps s0 (putCState s k c) := keeps_upd.mpr hK

theorem keeps_wakeCourse {k : CourseId} (hK : Keeps s0 s) : Keeps s0 (wakeCourse s k) := by
  unfold wakeCourse
  with_reducible repeat' first | assumption | (intro _) | apply keeps_forAll | apply keeps_applySpares | apply keeps_modCore | apply keeps_setCourse

theorem keeps_askStandby (hK : Keeps s0 s) : Keeps s0 (askStandby s) := by
  unfold askStandby
  with_reducible repeat' first
    | assumption | (intro _) | apply keeps_forAll | apply keeps_unready | apply keeps_requestEnd | apply keeps_ite
    | simp only [keeps_updPw] | split

theorem keeps_clearMeet {p : PartId} (hK : Keeps s0 s) : Keeps s0 (clearMeet s p) := by
  unfold clearMeet
  with_reducible repeat' first | assumption | apply keeps_stopNoGrace | apply keeps_parkTask | split

theorem keeps_sleep (hK : Keeps s0 s) : Keeps s0 (sleep s) := by
  unfold sleep
  with_reducible repeat' first
    | assumption | (intro _) | apply keeps_forAll | apply keeps_clearMeet | apply keeps_putCState | apply keeps_setPort | apply keeps_refreshPorts
    | apply keeps_filterRoutes | apply keeps_ite | simp only [keeps_updPw] | split

theorem keeps_wake (hK : Keeps s0 s) : Keeps s0 (wake s) := by
  unfold wake
  with_reducible repeat' first | assumption | (intro _) | apply keeps_forAll | apply keeps_leaveStandby | apply keeps_modFn | apply keeps_ite

theorem keeps_putTmax {t : BitVec 12} (hK : Keeps s0 s) : Keeps s0 (putTmax s t) := by
  unfold putTmax
  with_reducible repeat' first | assumption | apply keeps_ite | simp only [keeps_updPw] | split

theorem keeps_noteDuty (hK : Keeps s0 s) : Keeps s0 (noteDuty s) := keeps_ite (keeps_upd.mpr hK) hK

theorem keeps_powerLoop {s0 s : State} {power : BitVec 16} (hK : Keeps s0 s) : Keeps s0 (powerLoop s power) :=
  keeps_noteDuty (keeps_pw (keeps_upd (x_tele := _).mpr hK) fun i => ⟨powerStep_range i.dutyP, i.dutyT, i.cap, i.hyst, i.delay⟩)

theorem keeps_thermalLoop {s0 s : State} {t : BitVec 12} (hK : Keeps s0 s) : Keeps s0 (thermalLoop s t) := by
  unfold thermalLoop
  dsimp only
  refine keeps_noteDuty (keeps_pw (keeps_putTmax (t := t) hK) fun i => ⟨i.dutyP, thermalStep_range ?_, i.cap, i.hyst, i.delay⟩)
  exact i.dutyT

theorem keeps_courseSample {e : CourseId × Nat × Nat} (hK : Keeps s0 s) : Keeps s0 (courseSample s e) := keeps_upd.mpr hK

theorem keeps_waitSample {e : PartId × Nat × Nat} (hK : Keeps s0 s) : Keeps s0 (waitSample s e) := keeps_modPart hK

theorem keeps_energySample {m : EnergySample} (hK : Keeps s0 s) : Keeps s0 (energySample s m) := by
  unfold energySample
  with_reducible repeat' first
    | assumption | (intro _) | apply keeps_foldl | apply keeps_putTmax | apply keeps_waitSample | apply keeps_courseSample | apply keeps_ite
    | simp only [keeps_updPw] | split

theorem keeps_trip (hK : Keeps s0 s) : Keeps s0 (trip s) := by
  unfold trip
  with_reducible repeat' first | assumption | apply keeps_deviceError | apply keeps_ite | simp only [keeps_updPw] | split

theorem keeps_stackFails {st : BitVec 2} (hK : Keeps s0 s) : Keeps s0 (stackFails s st) := by
  unfold stackFails
  with_reducible repeat' first | assumption | apply keeps_deviceError | apply keeps_ite | simp only [keeps_updPw] | split

theorem keeps_beatOnce (hK : Keeps s0 s) : Keeps s0 (beatOnce s) := by
  unfold beatOnce
  with_reducible repeat' first | assumption | apply keeps_settleFlrs | apply keeps_tellConflict | simp only [keeps_upd]

theorem keeps_autoReset {b : BootEnv} (hK : Keeps s0 s) : Keeps s0 (autoReset s b) := by
  unfold autoReset
  with_reducible repeat' first | assumption | apply keeps_warmReset | apply keeps_ite | simp only [keeps_updPw] | split

theorem keeps_watchdogError (hK : Keeps s0 s) : Keeps s0 (watchdogError s) := by
  unfold watchdogError
  with_reducible repeat' first | assumption | apply keeps_deviceError | apply keeps_ite | simp only [keeps_updPw] | split

theorem keeps_expireDog {b : BootEnv} (hK : Keeps s0 s) : Keeps s0 (expireDog s b) := by
  unfold expireDog
  with_reducible repeat' first | assumption | apply keeps_autoReset | apply keeps_watchdogError | split

theorem keeps_writeNamed {s0 s : State} {r : RegName} {v : W64} (hK : Keeps s0 s) : Keeps s0 (writeNamed s r v) := by
  cases r <;> first
    | exact hK
    | exact keeps_writeFatal hK
    | exact keeps_writeSmReq hK
    | exact keeps_ite (keeps_modFn hK) hK
    | exact keeps_ite (keeps_setMask hK) hK
    | exact keeps_ite (keeps_modCore hK) hK
    | exact keeps_ite (keeps_modEng hK) hK
    | exact keeps_ite (keeps_upd.mpr hK) hK
    | exact keeps_ite (keeps_pw hK (pwOk_writeCap v)) hK
    | exact keeps_ite (keeps_pw hK (pwOk_writePwCtl v)) hK

theorem keeps_writeWindow {c : CoreId} {addr : BitVec 20} {v : W64} (hK : Keeps s0 s) : Keeps s0 (writeWindow c addr v s) := by
  unfold writeWindow
  with_reducible repeat' first | assumption | apply keeps_modCore | apply keeps_applyWin | split

theorem keeps_writePlace {s0 s : State} {p : Place} {v : W64} (hK : Keeps s0 s) : Keeps s0 (writePlace s p v) := by
  cases p with
  | reg r => exact keeps_writeNamed hK
  | slotIn f n o => exact keeps_writeSlot (bytes := leBytes 8 v.toNat) hK
  | slotOut f n o => exact keeps_returnSlot (bytes := leBytes 8 v.toNat) hK
  | ccb c o => exact keeps_ite hK (keeps_ite (keeps_modCore hK) (keeps_ite (keeps_modCore hK) hK))
  | window c a => exact keeps_writeWindow hK
  | block n o => exact keeps_ite (keeps_writeNamed (keeps_writeNamed hK)) hK
  | _ => exact hK

theorem keeps_writeReg {r : RegName} {v : W64} (hK : Keeps s0 s) : Keeps s0 (writeReg s r v) := keeps_writePlace hK

theorem keeps_setRing {c : CoreId} {k : Nat} {r : RingRec} (hK : Keeps s0 s) : Keeps s0 (setRing s c k r) := keeps_modEng hK

theorem keeps_ringSetBody {c : CoreId} {w : CmdWord} (hK : Keeps s0 s) : Keeps s0 (ringSetBody c w s) := by
  unfold ringSetBody
  with_reducible repeat' first | assumption | apply keeps_raiseTask | apply keeps_advance | apply keeps_setRing | apply keeps_ite

theorem keeps_withRing {s0 s : State} {c : CoreId} {w : CmdWord} {f : RingRec → State} (hK : Keeps s0 s) (hf : ∀ r, Keeps s0 (f r)) :
    Keeps s0 (withRing c w s f) := keeps_ite (keeps_raiseTask hK) (hf _)

theorem keeps_ringPushBody {s0 s : State} {c : CoreId} {w : CmdWord} (hK : Keeps s0 s) : Keeps s0 (ringPushBody c w s) :=
  keeps_withRing hK fun _ => keeps_ite (keeps_raiseTask hK) (keeps_ite (keeps_raiseTask hK) (keeps_setAdvance (keeps_setRing hK)))

theorem keeps_ringPopBody {s0 s : State} {c : CoreId} {w : CmdWord} (hK : Keeps s0 s) : Keeps s0 (ringPopBody c w s) :=
  keeps_withRing hK fun _ => keeps_ite (keeps_raiseTask hK) (keeps_ite (keeps_raiseTask hK) (keeps_setAdvance (keeps_setRing hK)))

theorem keeps_narrowConfig {kind : QKind} {c : CoreId} {w : CmdWord} {m : Nat} (hK : Keeps s0 s) : Keeps s0 (narrowConfig kind c w m s) := by
  unfold narrowConfig
  with_reducible repeat' first | assumption | apply keeps_raiseTask | apply keeps_modSeq | apply keeps_startSeq | split

end Machine
end Sys2Proof
end

