-- ==== Sys2Proof/Laws/State.lean ====
section
/-! SUPPORT. What each update of the state leaves: one lemma per field per update, and reading an entry after writing one. -/

namespace Sys2Proof.Machine
open Sys2Proof

/-! ### The other updates, by the plain ones -/

@[simp] theorem modCore_eq (s : State) (c : CoreId) (f : CoreSt → CoreSt) : modCore s c f = setCore s c (f (getCore s c)) := rfl
@[simp] theorem modPart_eq (s : State) (p : PartId) (f : Part → Part) : modPart s p f = setPart s p (f (getPart s p)) := rfl
@[simp] theorem modStream_eq (s : State) (h : Handle) (f : Stream → Stream) : modStream s h f = setStream s h (f (getStream s h)) := rfl
@[simp] theorem modFn_eq (s : State) (k : Func) (f : Fn → Fn) : modFn s k f = setFn s k (f (getFn s k)) := rfl
@[simp] theorem modSeq_eq (s : State) (c : CoreId) (f : Seq → Seq) : modSeq s c f = modCore s c (fun x => { x with seq := f x.seq }) := rfl
@[simp] theorem modEng_eq (s : State) (c : CoreId) (f : Engines → Engines) : modEng s c f = modCore s c (fun x => { x with eng := f x.eng }) := rfl

/-! ### `setCore` changes `cores` only -/

section
variable (s : State) (c : CoreId) (x : CoreSt)
@[simp] theorem setCore_pending : (setCore s c x).pending = s.pending := rfl
@[simp] theorem setCore_time : (setCore s c x).time = s.time := rfl
@[simp] theorem setCore_free : (setCore s c x).free = s.free := rfl
@[simp] theorem setCore_mem : (setCore s c x).mem = s.mem := rfl
@[simp] theorem setCore_hostMem : (setCore s c x).hostMem = s.hostMem := rfl
@[simp] theorem setCore_regions : (setCore s c x).regions = s.regions := rfl
@[simp] theorem setCore_courses : (setCore s c x).courses = s.courses := rfl
@[simp] theorem setCore_parts : (setCore s c x).parts = s.parts := rfl
@[simp] theorem setCore_streams : (setCore s c x).streams = s.streams := rfl
@[simp] theorem setCore_profiles : (setCore s c x).profiles = s.profiles := rfl
@[simp] theorem setCore_models : (setCore s c x).models = s.models := rfl
@[simp] theorem setCore_bundles : (setCore s c x).bundles = s.bundles := rfl
@[simp] theorem setCore_bundleNo : (setCore s c x).bundleNo = s.bundleNo := rfl
@[simp] theorem setCore_funcs : (setCore s c x).funcs = s.funcs := rfl
@[simp] theorem setCore_turns : (setCore s c x).turns = s.turns := rfl
@[simp] theorem setCore_fatal : (setCore s c x).fatal = s.fatal := rfl
@[simp] theorem setCore_beat : (setCore s c x).beat = s.beat := rfl
@[simp] theorem setCore_beatAt : (setCore s c x).beatAt = s.beatAt := rfl
@[simp] theorem setCore_apertures : (setCore s c x).apertures = s.apertures := rfl
@[simp] theorem setCore_cpl : (setCore s c x).cpl = s.cpl := rfl
@[simp] theorem setCore_inProgress : (setCore s c x).inProgress = s.inProgress := rfl
@[simp] theorem setCore_aer : (setCore s c x).aer = s.aer := rfl
@[simp] theorem setCore_sbtm : (setCore s c x).sbtm = s.sbtm := rfl
@[simp] theorem setCore_mig : (setCore s c x).mig = s.mig := rfl
@[simp] theorem setCore_mon : (setCore s c x).mon = s.mon := rfl
@[simp] theorem setCore_fuses : (setCore s c x).fuses = s.fuses := rfl
@[simp] theorem setCore_br : (setCore s c x).br = s.br := rfl
@[simp] theorem setCore_tele : (setCore s c x).tele = s.tele := rfl
@[simp] theorem setCore_pw : (setCore s c x).pw = s.pw := rfl
end

/-! ### `setPart` changes `parts` only -/

section
variable (s : State) (p : PartId) (x : Part)
@[simp] theorem setPart_pending : (setPart s p x).pending = s.pending := rfl
@[simp] theorem setPart_time : (setPart s p x).time = s.time := rfl
@[simp] theorem setPart_free : (setPart s p x).free = s.free := rfl
@[simp] theorem setPart_mem : (setPart s p x).mem = s.mem := rfl
@[simp] theorem setPart_hostMem : (setPart s p x).hostMem = s.hostMem := rfl
@[simp] theorem setPart_regions : (setPart s p x).regions = s.regions := rfl
@[simp] theorem setPart_cores : (setPart s p x).cores = s.cores := rfl
@[simp] theorem setPart_courses : (setPart s p x).courses = s.courses := rfl
@[simp] theorem setPart_streams : (setPart s p x).streams = s.streams := rfl
@[simp] theorem setPart_profiles : (setPart s p x).profiles = s.profiles := rfl
@[simp] theorem setPart_models : (setPart s p x).models = s.models := rfl
@[simp] theorem setPart_bundles : (setPart s p x).bundles = s.bundles := rfl
@[simp] theorem setPart_bundleNo : (setPart s p x).bundleNo = s.bundleNo := rfl
@[simp] theorem setPart_funcs : (setPart s p x).funcs = s.funcs := rfl
@[simp] theorem setPart_turns : (setPart s p x).turns = s.turns := rfl
@[simp] theorem setPart_fatal : (setPart s p x).fatal = s.fatal := rfl
@[simp] theorem setPart_beat : (setPart s p x).beat = s.beat := rfl
@[simp] theorem setPart_beatAt : (setPart s p x).beatAt = s.beatAt := rfl
@[simp] theorem setPart_apertures : (setPart s p x).apertures = s.apertures := rfl
@[simp] theorem setPart_cpl : (setPart s p x).cpl = s.cpl := rfl
@[simp] theorem setPart_inProgress : (setPart s p x).inProgress = s.inProgress := rfl
@[simp] theorem setPart_aer : (setPart s p x).aer = s.aer := rfl
@[simp] theorem setPart_sbtm : (setPart s p x).sbtm = s.sbtm := rfl
@[simp] theorem setPart_mig : (setPart s p x).mig = s.mig := rfl
@[simp] theorem setPart_mon : (setPart s p x).mon = s.mon := rfl
@[simp] theorem setPart_fuses : (setPart s p x).fuses = s.fuses := rfl
@[simp] theorem setPart_br : (setPart s p x).br = s.br := rfl
@[simp] theorem setPart_tele : (setPart s p x).tele = s.tele := rfl
@[simp] theorem setPart_pw : (setPart s p x).pw = s.pw := rfl
end

/-! ### `setCourse` changes `courses` only -/

section
variable (s : State) (k : CourseId) (x : Course)
@[simp] theorem setCourse_pending : (setCourse s k x).pending = s.pending := rfl
@[simp] theorem setCourse_time : (setCourse s k x).time = s.time := rfl
@[simp] theorem setCourse_free : (setCourse s k x).free = s.free := rfl
@[simp] theorem setCourse_mem : (setCourse s k x).mem = s.mem := rfl
@[simp] theorem setCourse_hostMem : (setCourse s k x).hostMem = s.hostMem := rfl
@[simp] theorem setCourse_regions : (setCourse s k x).regions = s.regions := rfl
@[simp] theorem setCourse_cores : (setCourse s k x).cores = s.cores := rfl
@[simp] theorem setCourse_parts : (setCourse s k x).parts = s.parts := rfl
@[simp] theorem setCourse_streams : (setCourse s k x).streams = s.streams := rfl
@[simp] theorem setCourse_profiles : (setCourse s k x).profiles = s.profiles := rfl
@[simp] theorem setCourse_models : (setCourse s k x).models = s.models := rfl
@[simp] theorem setCourse_bundles : (setCourse s k x).bundles = s.bundles := rfl
@[simp] theorem setCourse_bundleNo : (setCourse s k x).bundleNo = s.bundleNo := rfl
@[simp] theorem setCourse_funcs : (setCourse s k x).funcs = s.funcs := rfl
@[simp] theorem setCourse_turns : (setCourse s k x).turns = s.turns := rfl
@[simp] theorem setCourse_fatal : (setCourse s k x).fatal = s.fatal := rfl
@[simp] theorem setCourse_beat : (setCourse s k x).beat = s.beat := rfl
@[simp] theorem setCourse_beatAt : (setCourse s k x).beatAt = s.beatAt := rfl
@[simp] theorem setCourse_apertures : (setCourse s k x).apertures = s.apertures := rfl
@[simp] theorem setCourse_cpl : (setCourse s k x).cpl = s.cpl := rfl
@[simp] theorem setCourse_inProgress : (setCourse s k x).inProgress = s.inProgress := rfl
@[simp] theorem setCourse_aer : (setCourse s k x).aer = s.aer := rfl
@[simp] theorem setCourse_sbtm : (setCourse s k x).sbtm = s.sbtm := rfl
@[simp] theorem setCourse_mig : (setCourse s k x).mig = s.mig := rfl
@[simp] theorem setCourse_mon : (setCourse s k x).mon = s.mon := rfl
@[simp] theorem setCourse_fuses : (setCourse s k x).fuses = s.fuses := rfl
@[simp] theorem setCourse_br : (setCourse s k x).br = s.br := rfl
@[simp] theorem setCourse_tele : (setCourse s k x).tele = s.tele := rfl
@[simp] theorem setCourse_pw : (setCourse s k x).pw = s.pw := rfl
end

/-! ### `setStream` changes `streams` only -/

section
variable (s : State) (h : Handle) (x : Stream)
@[simp] theorem setStream_pending : (setStream s h x).pending = s.pending := rfl
@[simp] theorem setStream_time : (setStream s h x).time = s.time := rfl
@[simp] theorem setStream_free : (setStream s h x).free = s.free := rfl
@[simp] theorem setStream_mem : (setStream s h x).mem = s.mem := rfl
@[simp] theorem setStream_hostMem : (setStream s h x).hostMem = s.hostMem := rfl
@[simp] theorem setStream_regions : (setStream s h x).regions = s.regions := rfl
@[simp] theorem setStream_cores : (setStream s h x).cores = s.cores := rfl
@[simp] theorem setStream_courses : (setStream s h x).courses = s.courses := rfl
@[simp] theorem setStream_parts : (setStream s h x).parts = s.parts := rfl
@[simp] theorem setStream_profiles : (setStream s h x).profiles = s.profiles := rfl
@[simp] theorem setStream_models : (setStream s h x).models = s.models := rfl
@[simp] theorem setStream_bundles : (setStream s h x).bundles = s.bundles := rfl
@[simp] theorem setStream_bundleNo : (setStream s h x).bundleNo = s.bundleNo := rfl
@[simp] theorem setStream_funcs : (setStream s h x).funcs = s.funcs := rfl
@[simp] theorem setStream_turns : (setStream s h x).turns = s.turns := rfl
@[simp] theorem setStream_fatal : (setStream s h x).fatal = s.fatal := rfl
@[simp] theorem setStream_beat : (setStream s h x).beat = s.beat := rfl
@[simp] theorem setStream_beatAt : (setStream s h x).beatAt = s.beatAt := rfl
@[simp] theorem setStream_apertures : (setStream s h x).apertures = s.apertures := rfl
@[simp] theorem setStream_cpl : (setStream s h x).cpl = s.cpl := rfl
@[simp] theorem setStream_inProgress : (setStream s h x).inProgress = s.inProgress := rfl
@[simp] theorem setStream_aer : (setStream s h x).aer = s.aer := rfl
@[simp] theorem setStream_sbtm : (setStream s h x).sbtm = s.sbtm := rfl
@[simp] theorem setStream_mig : (setStream s h x).mig = s.mig := rfl
@[simp] theorem setStream_mon : (setStream s h x).mon = s.mon := rfl
@[simp] theorem setStream_fuses : (setStream s h x).fuses = s.fuses := rfl
@[simp] theorem setStream_br : (setStream s h x).br = s.br := rfl
@[simp] theorem setStream_tele : (setStream s h x).tele = s.tele := rfl
@[simp] theorem setStream_pw : (setStream s h x).pw = s.pw := rfl
end

/-! ### `setFn` changes `funcs` only -/

section
variable (s : State) (f : Func) (x : Fn)
@[simp] theorem setFn_pending : (setFn s f x).pending = s.pending := rfl
@[simp] theorem setFn_time : (setFn s f x).time = s.time := rfl
@[simp] theorem setFn_free : (setFn s f x).free = s.free := rfl
@[simp] theorem setFn_mem : (setFn s f x).mem = s.mem := rfl
@[simp] theorem setFn_hostMem : (setFn s f x).hostMem = s.hostMem := rfl
@[simp] theorem setFn_regions : (setFn s f x).regions = s.regions := rfl
@[simp] theorem setFn_cores : (setFn s f x).cores = s.cores := rfl
@[simp] theorem setFn_courses : (setFn s f x).courses = s.courses := rfl
@[simp] theorem setFn_parts : (setFn s f x).parts = s.parts := rfl
@[simp] theorem setFn_streams : (setFn s f x).streams = s.streams := rfl
@[simp] theorem setFn_profiles : (setFn s f x).profiles = s.profiles := rfl
@[simp] theorem setFn_models : (setFn s f x).models = s.models := rfl
@[simp] theorem setFn_bundles : (setFn s f x).bundles = s.bundles := rfl
@[simp] theorem setFn_bundleNo : (setFn s f x).bundleNo = s.bundleNo := rfl
@[simp] theorem setFn_turns : (setFn s f x).turns = s.turns := rfl
@[simp] theorem setFn_fatal : (setFn s f x).fatal = s.fatal := rfl
@[simp] theorem setFn_beat : (setFn s f x).beat = s.beat := rfl
@[simp] theorem setFn_beatAt : (setFn s f x).beatAt = s.beatAt := rfl
@[simp] theorem setFn_apertures : (setFn s f x).apertures = s.apertures := rfl
@[simp] theorem setFn_cpl : (setFn s f x).cpl = s.cpl := rfl
@[simp] theorem setFn_inProgress : (setFn s f x).inProgress = s.inProgress := rfl
@[simp] theorem setFn_aer : (setFn s f x).aer = s.aer := rfl
@[simp] theorem setFn_sbtm : (setFn s f x).sbtm = s.sbtm := rfl
@[simp] theorem setFn_mig : (setFn s f x).mig = s.mig := rfl
@[simp] theorem setFn_mon : (setFn s f x).mon = s.mon := rfl
@[simp] theorem setFn_fuses : (setFn s f x).fuses = s.fuses := rfl
@[simp] theorem setFn_br : (setFn s f x).br = s.br := rfl
@[simp] theorem setFn_tele : (setFn s f x).tele = s.tele := rfl
@[simp] theorem setFn_pw : (setFn s f x).pw = s.pw := rfl
end

/-! ### `setModel` changes `models` only -/

section
variable (s : State) (m : ModelSlot) (x : Model)
@[simp] theorem setModel_pending : (setModel s m x).pending = s.pending := rfl
@[simp] theorem setModel_time : (setModel s m x).time = s.time := rfl
@[simp] theorem setModel_free : (setModel s m x).free = s.free := rfl
@[simp] theorem setModel_mem : (setModel s m x).mem = s.mem := rfl
@[simp] theorem setModel_hostMem : (setModel s m x).hostMem = s.hostMem := rfl
@[simp] theorem setModel_regions : (setModel s m x).regions = s.regions := rfl
@[simp] theorem setModel_cores : (setModel s m x).cores = s.cores := rfl
@[simp] theorem setModel_courses : (setModel s m x).courses = s.courses := rfl
@[simp] theorem setModel_parts : (setModel s m x).parts = s.parts := rfl
@[simp] theorem setModel_streams : (setModel s m x).streams = s.streams := rfl
@[simp] theorem setModel_profiles : (setModel s m x).profiles = s.profiles := rfl
@[simp] theorem setModel_bundles : (setModel s m x).bundles = s.bundles := rfl
@[simp] theorem setModel_bundleNo : (setModel s m x).bundleNo = s.bundleNo := rfl
@[simp] theorem setModel_funcs : (setModel s m x).funcs = s.funcs := rfl
@[simp] theorem setModel_turns : (setModel s m x).turns = s.turns := rfl
@[simp] theorem setModel_fatal : (setModel s m x).fatal = s.fatal := rfl
@[simp] theorem setModel_beat : (setModel s m x).beat = s.beat := rfl
@[simp] theorem setModel_beatAt : (setModel s m x).beatAt = s.beatAt := rfl
@[simp] theorem setModel_apertures : (setModel s m x).apertures = s.apertures := rfl
@[simp] theorem setModel_cpl : (setModel s m x).cpl = s.cpl := rfl
@[simp] theorem setModel_inProgress : (setModel s m x).inProgress = s.inProgress := rfl
@[simp] theorem setModel_aer : (setModel s m x).aer = s.aer := rfl
@[simp] theorem setModel_sbtm : (setModel s m x).sbtm = s.sbtm := rfl
@[simp] theorem setModel_mig : (setModel s m x).mig = s.mig := rfl
@[simp] theorem setModel_mon : (setModel s m x).mon = s.mon := rfl
@[simp] theorem setModel_fuses : (setModel s m x).fuses = s.fuses := rfl
@[simp] theorem setModel_br : (setModel s m x).br = s.br := rfl
@[simp] theorem setModel_tele : (setModel s m x).tele = s.tele := rfl
@[simp] theorem setModel_pw : (setModel s m x).pw = s.pw := rfl
end

/-! ### `setPort` changes `ports` of the bridge only -/

section
variable (s : State) (n : PortNo) (x : Port)
@[simp] theorem setPort_pending : (setPort s n x).pending = s.pending := rfl
@[simp] theorem setPort_time : (setPort s n x).time = s.time := rfl
@[simp] theorem setPort_free : (setPort s n x).free = s.free := rfl
@[simp] theorem setPort_mem : (setPort s n x).mem = s.mem := rfl
@[simp] theorem setPort_hostMem : (setPort s n x).hostMem = s.hostMem := rfl
@[simp] theorem setPort_regions : (setPort s n x).regions = s.regions := rfl
@[simp] theorem setPort_cores : (setPort s n x).cores = s.cores := rfl
@[simp] theorem setPort_courses : (setPort s n x).courses = s.courses := rfl
@[simp] theorem setPort_parts : (setPort s n x).parts = s.parts := rfl
@[simp] theorem setPort_streams : (setPort s n x).streams = s.streams := rfl
@[simp] theorem setPort_profiles : (setPort s n x).profiles = s.profiles := rfl
@[simp] theorem setPort_models : (setPort s n x).models = s.models := rfl
@[simp] theorem setPort_bundles : (setPort s n x).bundles = s.bundles := rfl
@[simp] theorem setPort_bundleNo : (setPort s n x).bundleNo = s.bundleNo := rfl
@[simp] theorem setPort_funcs : (setPort s n x).funcs = s.funcs := rfl
@[simp] theorem setPort_turns : (setPort s n x).turns = s.turns := rfl
@[simp] theorem setPort_fatal : (setPort s n x).fatal = s.fatal := rfl
@[simp] theorem setPort_beat : (setPort s n x).beat = s.beat := rfl
@[simp] theorem setPort_beatAt : (setPort s n x).beatAt = s.beatAt := rfl
@[simp] theorem setPort_apertures : (setPort s n x).apertures = s.apertures := rfl
@[simp] theorem setPort_cpl : (setPort s n x).cpl = s.cpl := rfl
@[simp] theorem setPort_inProgress : (setPort s n x).inProgress = s.inProgress := rfl
@[simp] theorem setPort_aer : (setPort s n x).aer = s.aer := rfl
@[simp] theorem setPort_sbtm : (setPort s n x).sbtm = s.sbtm := rfl
@[simp] theorem setPort_mig : (setPort s n x).mig = s.mig := rfl
@[simp] theorem setPort_mon : (setPort s n x).mon = s.mon := rfl
@[simp] theorem setPort_fuses : (setPort s n x).fuses = s.fuses := rfl
@[simp] theorem setPort_tele : (setPort s n x).tele = s.tele := rfl
@[simp] theorem setPort_pw : (setPort s n x).pw = s.pw := rfl
@[simp] theorem setPort_br_ethertype : (setPort s n x).br.ethertype = s.br.ethertype := rfl
@[simp] theorem setPort_br_retryUs : (setPort s n x).br.retryUs = s.br.retryUs := rfl
@[simp] theorem setPort_br_retryMax : (setPort s n x).br.retryMax = s.br.retryMax := rfl
@[simp] theorem setPort_br_syncEn : (setPort s n x).br.syncEn = s.br.syncEn := rfl
@[simp] theorem setPort_br_routes : (setPort s n x).br.routes = s.br.routes := rfl
@[simp] theorem setPort_br_wins : (setPort s n x).br.wins = s.br.wins := rfl
@[simp] theorem setPort_br_pairs : (setPort s n x).br.pairs = s.br.pairs := rfl
@[simp] theorem setPort_br_offersIgnored : (setPort s n x).br.offersIgnored = s.br.offersIgnored := rfl
@[simp] theorem setPort_br_locked : (setPort s n x).br.locked = s.br.locked := rfl
@[simp] theorem setPort_br_root : (setPort s n x).br.root = s.br.root := rfl
@[simp] theorem setPort_br_parent : (setPort s n x).br.parent = s.br.parent := rfl
@[simp] theorem setPort_br_offset : (setPort s n x).br.offset = s.br.offset := rfl
@[simp] theorem setPort_br_slew : (setPort s n x).br.slew = s.br.slew := rfl
@[simp] theorem setPort_br_slewAcc : (setPort s n x).br.slewAcc = s.br.slewAcc := rfl
@[simp] theorem setPort_br_syncAt : (setPort s n x).br.syncAt = s.br.syncAt := rfl
@[simp] theorem setPort_br_syncTag : (setPort s n x).br.syncTag = s.br.syncTag := rfl
@[simp] theorem setPort_br_devidConflict : (setPort s n x).br.devidConflict = s.br.devidConflict := rfl
@[simp] theorem setPort_br_conflictTold : (setPort s n x).br.conflictTold = s.br.conflictTold := rfl
@[simp] theorem setPort_br_stepped : (setPort s n x).br.stepped = s.br.stepped := rfl
@[simp] theorem setPort_br_migIn : (setPort s n x).br.migIn = s.br.migIn := rfl
@[simp] theorem setPort_br_migOut : (setPort s n x).br.migOut = s.br.migOut := rfl
@[simp] theorem setPort_br_sent : (setPort s n x).br.sent = s.br.sent := rfl
end

/-! ### `setPair` changes `pairs` of the bridge only -/

section
variable (s : State) (n : Nat) (x : Pair)
@[simp] theorem setPair_pending : (setPair s n x).pending = s.pending := rfl
@[simp] theorem setPair_time : (setPair s n x).time = s.time := rfl
@[simp] theorem setPair_free : (setPair s n x).free = s.free := rfl
@[simp] theorem setPair_mem : (setPair s n x).mem = s.mem := rfl
@[simp] theorem setPair_hostMem : (setPair s n x).hostMem = s.hostMem := rfl
@[simp] theorem setPair_regions : (setPair s n x).regions = s.regions := rfl
@[simp] theorem setPair_cores : (setPair s n x).cores = s.cores := rfl
@[simp] theorem setPair_courses : (setPair s n x).courses = s.courses := rfl
@[simp] theorem setPair_parts : (setPair s n x).parts = s.parts := rfl
@[simp] theorem setPair_streams : (setPair s n x).streams = s.streams := rfl
@[simp] theorem setPair_profiles : (setPair s n x).profiles = s.profiles := rfl
@[simp] theorem setPair_models : (setPair s n x).models = s.models := rfl
@[simp] theorem setPair_bundles : (setPair s n x).bundles = s.bundles := rfl
@[simp] theorem setPair_bundleNo : (setPair s n x).bundleNo = s.bundleNo := rfl
@[simp] theorem setPair_funcs : (setPair s n x).funcs = s.funcs := rfl
@[simp] theorem setPair_turns : (setPair s n x).turns = s.turns := rfl
@[simp] theorem setPair_fatal : (setPair s n x).fatal = s.fatal := rfl
@[simp] theorem setPair_beat : (setPair s n x).beat = s.beat := rfl
@[simp] theorem setPair_beatAt : (setPair s n x).beatAt = s.beatAt := rfl
@[simp] theorem setPair_apertures : (setPair s n x).apertures = s.apertures := rfl
@[simp] theorem setPair_cpl : (setPair s n x).cpl = s.cpl := rfl
@[simp] theorem setPair_inProgress : (setPair s n x).inProgress = s.inProgress := rfl
@[simp] theorem setPair_aer : (setPair s n x).aer = s.aer := rfl
@[simp] theorem setPair_sbtm : (setPair s n x).sbtm = s.sbtm := rfl
@[simp] theorem setPair_mig : (setPair s n x).mig = s.mig := rfl
@[simp] theorem setPair_mon : (setPair s n x).mon = s.mon := rfl
@[simp] theorem setPair_fuses : (setPair s n x).fuses = s.fuses := rfl
@[simp] theorem setPair_tele : (setPair s n x).tele = s.tele := rfl
@[simp] theorem setPair_pw : (setPair s n x).pw = s.pw := rfl
@[simp] theorem setPair_br_ethertype : (setPair s n x).br.ethertype = s.br.ethertype := rfl
@[simp] theorem setPair_br_retryUs : (setPair s n x).br.retryUs = s.br.retryUs := rfl
@[simp] theorem setPair_br_retryMax : (setPair s n x).br.retryMax = s.br.retryMax := rfl
@[simp] theorem setPair_br_syncEn : (setPair s n x).br.syncEn = s.br.syncEn := rfl
@[simp] theorem setPair_br_ports : (setPair s n x).br.ports = s.br.ports := rfl
@[simp] theorem setPair_br_routes : (setPair s n x).br.routes = s.br.routes := rfl
@[simp] theorem setPair_br_wins : (setPair s n x).br.wins = s.br.wins := rfl
@[simp] theorem setPair_br_offersIgnored : (setPair s n x).br.offersIgnored = s.br.offersIgnored := rfl
@[simp] theorem setPair_br_locked : (setPair s n x).br.locked = s.br.locked := rfl
@[simp] theorem setPair_br_root : (setPair s n x).br.root = s.br.root := rfl
@[simp] theorem setPair_br_parent : (setPair s n x).br.parent = s.br.parent := rfl
@[simp] theorem setPair_br_offset : (setPair s n x).br.offset = s.br.offset := rfl
@[simp] theorem setPair_br_slew : (setPair s n x).br.slew = s.br.slew := rfl
@[simp] theorem setPair_br_slewAcc : (setPair s n x).br.slewAcc = s.br.slewAcc := rfl
@[simp] theorem setPair_br_syncAt : (setPair s n x).br.syncAt = s.br.syncAt := rfl
@[simp] theorem setPair_br_syncTag : (setPair s n x).br.syncTag = s.br.syncTag := rfl
@[simp] theorem setPair_br_devidConflict : (setPair s n x).br.devidConflict = s.br.devidConflict := rfl
@[simp] theorem setPair_br_conflictTold : (setPair s n x).br.conflictTold = s.br.conflictTold := rfl
@[simp] theorem setPair_br_stepped : (setPair s n x).br.stepped = s.br.stepped := rfl
@[simp] theorem setPair_br_migIn : (setPair s n x).br.migIn = s.br.migIn := rfl
@[simp] theorem setPair_br_migOut : (setPair s n x).br.migOut = s.br.migOut := rfl
@[simp] theorem setPair_br_sent : (setPair s n x).br.sent = s.br.sent := rfl
end

/-! ### Reading after writing -/

theorem toNat_ne {w : Nat} {a b : BitVec w} (h : a ≠ b) : a.toNat ≠ b.toNat := fun e => h (BitVec.eq_of_toNat_eq e)
@[simp] theorem getCore_setCore (s : State) (c : CoreId) (x : CoreSt) : getCore (setCore s c x) c = x := tget_tput_self
theorem getCore_setCore_ne (s : State) (c d : CoreId) (x : CoreSt) (e : d ≠ c) : getCore (setCore s c x) d = getCore s d := tget_tput_ne (toNat_ne e)
@[simp] theorem getPart_setPart (s : State) (p : PartId) (x : Part) : getPart (setPart s p x) p = x := tget_tput_self
theorem getPart_setPart_ne (s : State) (p d : PartId) (x : Part) (e : d ≠ p) : getPart (setPart s p x) d = getPart s d := tget_tput_ne (toNat_ne e)
@[simp] theorem getCourse_setCourse (s : State) (k : CourseId) (x : Course) : getCourse (setCourse s k x) k = x := tget_tput_self
theorem getCourse_setCourse_ne (s : State) (k d : CourseId) (x : Course) (e : d ≠ k) : getCourse (setCourse s k x) d = getCourse s d := tget_tput_ne (toNat_ne e)
@[simp] theorem getStream_setStream (s : State) (h : Handle) (x : Stream) : getStream (setStream s h x) h = x := tget_tput_self
theorem getStream_setStream_ne (s : State) (h d : Handle) (x : Stream) (e : d ≠ h) : getStream (setStream s h x) d = getStream s d := tget_tput_ne (toNat_ne e)
@[simp] theorem getFn_setFn (s : State) (f : Func) (x : Fn) : getFn (setFn s f x) f = x := tget_tput_self
theorem getFn_setFn_ne (s : State) (f d : Func) (x : Fn) (e : d ≠ f) : getFn (setFn s f x) d = getFn s d := tget_tput_ne (toNat_ne e)
@[simp] theorem getPort_setPort (s : State) (n : PortNo) (x : Port) : getPort (setPort s n x) n = x := tget_tput_self
theorem getPort_setPort_ne (s : State) (n d : PortNo) (x : Port) (e : d ≠ n) : getPort (setPort s n x) d = getPort s d := tget_tput_ne (toNat_ne e)

/-! ### Reading an entry of another table -/

@[simp] theorem getPart_setCore (s : State) (c : CoreId) (x : CoreSt) (i : PartId) : getPart (setCore s c x) i = getPart s i := rfl
@[simp] theorem getCourse_setCore (s : State) (c : CoreId) (x : CoreSt) (i : CourseId) : getCourse (setCore s c x) i = getCourse s i := rfl
@[simp] theorem getStream_setCore (s : State) (c : CoreId) (x : CoreSt) (i : Handle) : getStream (setCore s c x) i = getStream s i := rfl
@[simp] theorem getFn_setCore (s : State) (c : CoreId) (x : CoreSt) (i : Func) : getFn (setCore s c x) i = getFn s i := rfl
@[simp] theorem getModel_setCore (s : State) (c : CoreId) (x : CoreSt) (i : ModelSlot) : getModel (setCore s c x) i = getModel s i := rfl
@[simp] theorem getPort_setCore (s : State) (c : CoreId) (x : CoreSt) (i : PortNo) : getPort (setCore s c x) i = getPort s i := rfl
@[simp] theorem getCore_setPart (s : State) (p : PartId) (x : Part) (i : CoreId) : getCore (setPart s p x) i = getCore s i := rfl
@[simp] theorem getCourse_setPart (s : State) (p : PartId) (x : Part) (i : CourseId) : getCourse (setPart s p x) i = getCourse s i := rfl
@[simp] theorem getStream_setPart (s : State) (p : PartId) (x : Part) (i : Handle) : getStream (setPart s p x) i = getStream s i := rfl
@[simp] theorem getFn_setPart (s : State) (p : PartId) (x : Part) (i : Func) : getFn (setPart s p x) i = getFn s i := rfl
@[simp] theorem getModel_setPart (s : State) (p : PartId) (x : Part) (i : ModelSlot) : getModel (setPart s p x) i = getModel s i := rfl
@[simp] theorem getPort_setPart (s : State) (p : PartId) (x : Part) (i : PortNo) : getPort (setPart s p x) i = getPort s i := rfl
@[simp] theorem getCore_setCourse (s : State) (k : CourseId) (x : Course) (i : CoreId) : getCore (setCourse s k x) i = getCore s i := rfl
@[simp] theorem getPart_setCourse (s : State) (k : CourseId) (x : Course) (i : PartId) : getPart (setCourse s k x) i = getPart s i := rfl
@[simp] theorem getStream_setCourse (s : State) (k : CourseId) (x : Course) (i : Handle) : getStream (setCourse s k x) i = getStream s i := rfl
@[simp] theorem getFn_setCourse (s : State) (k : CourseId) (x : Course) (i : Func) : getFn (setCourse s k x) i = getFn s i := rfl
@[simp] theorem getModel_setCourse (s : State) (k : CourseId) (x : Course) (i : ModelSlot) : getModel (setCourse s k x) i = getModel s i := rfl
@[simp] theorem getPort_setCourse (s : State) (k : CourseId) (x : Course) (i : PortNo) : getPort (setCourse s k x) i = getPort s i := rfl
@[simp] theorem getCore_setStream (s : State) (h : Handle) (x : Stream) (i : CoreId) : getCore (setStream s h x) i = getCore s i := rfl
@[simp] theorem getPart_setStream (s : State) (h : Handle) (x : Stream) (i : PartId) : getPart (setStream s h x) i = getPart s i := rfl
@[simp] theorem getCourse_setStream (s : State) (h : Handle) (x : Stream) (i : CourseId) : getCourse (setStream s h x) i = getCourse s i := rfl
@[simp] theorem getFn_setStream (s : State) (h : Handle) (x : Stream) (i : Func) : getFn (setStream s h x) i = getFn s i := rfl
@[simp] theorem getModel_setStream (s : State) (h : Handle) (x : Stream) (i : ModelSlot) : getModel (setStream s h x) i = getModel s i := rfl
@[simp] theorem getPort_setStream (s : State) (h : Handle) (x : Stream) (i : PortNo) : getPort (setStream s h x) i = getPort s i := rfl
@[simp] theorem getCore_setFn (s : State) (f : Func) (x : Fn) (i : CoreId) : getCore (setFn s f x) i = getCore s i := rfl
@[simp] theorem getPart_setFn (s : State) (f : Func) (x : Fn) (i : PartId) : getPart (setFn s f x) i = getPart s i := rfl
@[simp] theorem getCourse_setFn (s : State) (f : Func) (x : Fn) (i : CourseId) : getCourse (setFn s f x) i = getCourse s i := rfl
@[simp] theorem getStream_setFn (s : State) (f : Func) (x : Fn) (i : Handle) : getStream (setFn s f x) i = getStream s i := rfl
@[simp] theorem getModel_setFn (s : State) (f : Func) (x : Fn) (i : ModelSlot) : getModel (setFn s f x) i = getModel s i := rfl
@[simp] theorem getPort_setFn (s : State) (f : Func) (x : Fn) (i : PortNo) : getPort (setFn s f x) i = getPort s i := rfl
@[simp] theorem getCore_setModel (s : State) (m : ModelSlot) (x : Model) (i : CoreId) : getCore (setModel s m x) i = getCore s i := rfl
@[simp] theorem getPart_setModel (s : State) (m : ModelSlot) (x : Model) (i : PartId) : getPart (setModel s m x) i = getPart s i := rfl
@[simp] theorem getCourse_setModel (s : State) (m : ModelSlot) (x : Model) (i : CourseId) : getCourse (setModel s m x) i = getCourse s i := rfl
@[simp] theorem getStream_setModel (s : State) (m : ModelSlot) (x : Model) (i : Handle) : getStream (setModel s m x) i = getStream s i := rfl
@[simp] theorem getFn_setModel (s : State) (m : ModelSlot) (x : Model) (i : Func) : getFn (setModel s m x) i = getFn s i := rfl
@[simp] theorem getPort_setModel (s : State) (m : ModelSlot) (x : Model) (i : PortNo) : getPort (setModel s m x) i = getPort s i := rfl

end Sys2Proof.Machine
end

