-- ==== Sys2Proof/Machine/StreamTable.lean ====
section
/-! DEFINITION. The stream table as bytes: the layout of an entry, its place, and the value of each state (R22, Tables 2-1
and 2-2). -/

namespace Sys2Proof.Machine
open Sys2Proof

/-- The values of Table 2-2. -/
def stateCode : StreamState → BitVec 3
  | .free => 0
  | .opened => 1
  | .active => 2
  | .paused => 3
  | .evicted => 4
  | .closing => 5

/-- The 512 bits of an entry, the last field of Table 2-1 first. -/
def entryBits (x : Stream) : BitVec 512 :=
  let b := BitVec.ofBool
  x.obHead ++ x.obBase ++ 0#8 ++ x.frRd ++ x.frBase ++ x.ibRd ++ x.ibWr ++ 0#18 ++ b x.obPhase ++ x.obSize ++ x.frSize ++ x.ibSize ++
  x.ibBase ++ x.frWr ++ x.bowEpoch ++ x.bowStep ++ x.bowKey ++ x.peg ++ 0#4 ++ x.statePtr ++ x.nextSeq ++ x.feProfile ++ 0#2 ++ x.client ++
  x.dclass ++ x.model ++ b x.skipSilence ++ b x.moving ++ b x.inBundle ++ b x.resetFlag ++ b x.gen ++ stateCode x.state

/-- Entry `h` sits at byte offset 64 · h from the table base. -/
def entryAddr (h : Handle) : Nat := tableBase + 64 * h.toNat

/-- The byte of the stream table at a device address; `none` outside the table. -/
def tableByte (s : State) (a : Nat) : Option Byte :=
  if tableBase ≤ a ∧ a < tableBase + tableBytes then
    let o := a - tableBase
    some (((entryBits (getStream s (BitVec.ofNat 16 (o / 64)))) >>> (8 * (o % 64))).setWidth 8)
  else none

/-- A byte of device memory as the control complex reads it: of the stream table by its entries, else of the tiers. -/
def devByte (s : State) (a : Nat) : Byte := (tableByte s a).getD (Memory.rd s.mem a)

end Sys2Proof.Machine
end

