-- ==== Sys2Proof/WellFormed.lean ====
section
/-! DEFINITION. Which terms of `Instr` are terms of the table: a core command carries a word of its own
row, or a word of no row (malformed words reach issue under any row: R72); a slot write stays in its
64-byte slot (R303); a firmware window access
stays in the 1 MiB scratchpad (R101). -/

namespace Sys2Proof

/-- The row that a core command stands for, with its word. -/
def Instr.coreWord? : Instr → Option (CmdRow × CmdWord)
  | .ctrlNop _ w _ => some (.nop, w) | .ctrlLi _ w _ => some (.li, w) | .ctrlAlu _ w _ => some (.alu, w)
  | .ctrlBr _ w _ => some (.br, w) | .ctrlLoop _ w _ => some (.loop, w) | .ctrlLd _ w _ => some (.ld, w)
  | .ctrlSt _ w _ => some (.st, w) | .ctrlRdsys _ w _ => some (.rdsys, w)
  | .ctrlDwait _ w _ => some (.dwait, w) | .ctrlCapo _ w _ => some (.capo, w)
  | .ctrlEnd _ w _ => some (.end_, w) | .syncPost _ w _ => some (.post, w) | .syncWait _ w _ => some (.wait, w)
  | .syncTry _ w _ => some (.try_, w) | .summarySend _ w _ => some (.send, w)
  | .summaryAsk _ w _ => some (.ask, w) | .dmaLoad _ w _ => some (.dmaLoad, w)
  | .dmaStore _ w _ => some (.dmaStore, w) | .dmaCopy _ w _ => some (.dmaCopy, w)
  | .dmaZero _ w _ => some (.dmaZero, w) | .ringSet _ w _ => some (.ringSet, w)
  | .ringPush _ w _ => some (.ringPush, w) | .ringPop _ w _ => some (.ringPop, w)
  | .ringHead _ w _ => some (.ringHead, w) | .ringTail _ w _ => some (.ringTail, w)
  | .ringOcc _ w _ => some (.ringOcc, w) | .configCoreControl _ w _ => some (.cfgCtrl, w)
  | .configFretTables _ w _ => some (.cfgFret, w) | .configCodebooks _ w _ => some (.cfgCodebook, w)
  | .configDecayTable _ w _ => some (.cfgDecay, w) | .configRescaleTables _ w _ => some (.cfgRescale, w)
  | .configTblSegments _ w _ => some (.cfgTbl, w) | .configCodingLoad _ w _ => some (.cfgCzLoad, w)
  | .configCodingBuild _ w _ => some (.cfgCzBuild, w) | .configBowSites _ w _ => some (.cfgBow, w)
  | .matmulPlain _ w _ => some (.mmPlain, w) | .matmulAccum _ w _ => some (.mmAccum, w)
  | .matmulDecay _ w _ => some (.mmDecay, w) | .matmulRotate _ w _ => some (.mmRotate, w)
  | .wload _ w _ => some (.wload, w) | .adrainDrain _ w _ => some (.drain, w)
  | .adrainFill _ w _ => some (.fill, w) | .vchain _ w _ => some (.vchain, w)
  | .vdescLoad _ w _ => some (.vdLoad, w) | .vdescSetvl _ w _ => some (.vdSetvl, w)
  | .vdescStats _ w _ => some (.vdStats, w) | .stateioLoad _ w _ => some (.stLoad, w)
  | .stateioSave _ w _ => some (.stSave, w) | .stateioWread _ w _ => some (.stWread, w)
  | .stateioWwrite _ w _ => some (.stWwrite, w) | .spreadFwd _ w _ => some (.spreadFwd, w)
  | .spreadInv _ w _ => some (.spreadInv, w) | .qscanScan _ w _ => some (.scan, w)
  | .qscanMerge _ w _ => some (.merge, w) | .qscanPick _ w _ => some (.pick, w)
  | _ => none

/-- A core command's word is of its row or of no row. -/
def wordFits (r : CmdRow) (w : CmdWord) : Bool :=
  match rowOfWord w with
  | none => true
  | some r' => decide (r' = r)

/-- A write stays in its slot of 64 bytes. -/
def slotWriteFits (off : BitVec 6) (bytes : List Byte) : Bool :=
  decide (0 < bytes.length) && decide (off.toNat + bytes.length ≤ 64)

/-- A window access stays in the scratchpad (R101). -/
def windowFits (addr : BitVec 20) (bytes : List Byte) : Bool := decide (addr.toNat + bytes.length ≤ 0x100000)

/-- The terms of the table. -/
def Instr.wellFormed (i : Instr) : Bool :=
  (match i.coreWord? with
   | some (r, w) => wordFits r w
   | none => true) &&
  (match i with
   | .mailboxSlotWrite _ _ off bytes => slotWriteFits off bytes
   | .outboundSlotReturn _ _ off bytes => slotWriteFits off bytes
   | .firmwareWindowAccess _ addr bytes _ => windowFits addr bytes
   | _ => true)

end Sys2Proof
end

