-- ==== Sys2Proof/Tests/Slice0.lean ====
section
/-! SUPPORT. The model's own tests. A theorem `wit_…` shows a state and operands that meet the hypotheses of a clause of a statement of
Sys2Proof/Certificates/Slice0/Obligations.lean and checks the clause there. -/

namespace Sys2Proof.Tests
set_option Elab.async false
open Sys2Proof Sys2Proof.Machine

/-- An issue environment with nothing in it. -/
def env0 : IssueEnv := ⟨0, 0, [], []⟩

/-! ### Words (R71, Tables 4-1 to 4-12) -/

/-- A word from its opcode, variant and payload fields, each with its lowest bit. -/
def wd (op var : Nat) (l : List (Nat × Nat)) : CmdWord := BitVec.ofNat 128 (op + var * 2 ^ 8 + (l.map fun x => x.2 * 2 ^ x.1).sum)

/-- An ALU word under CTRL_NOP is no term of the table (R71). -/
theorem test_wf_row : (Instr.ctrlNop 0 0x201 env0).wellFormed = false := by decide
/-- A NOP word under CTRL_NOP is one. -/
theorem test_wf_nop : (Instr.ctrlNop 0 0x001 env0).wellFormed = true := by decide
/-- A slot write past its slot is none (R303). -/
theorem test_wf_slot : (Instr.mailboxSlotWrite 0 0 63 [1#8, 2#8]).wellFormed = false := by decide
/-- A return write past its slot is none. -/
theorem test_wf_return : (Instr.outboundSlotReturn 0 0 0 []).wellFormed = false := by decide
/-- A window access past the scratchpad is none (R101). -/
theorem test_wf_window : (Instr.firmwareWindowAccess 0 0xFFFFF [1#8, 2#8] ⟨true, []⟩).wellFormed = false := by decide

/-- Words written out from Tables 4-1 to 4-12 belong to their rows: classes, opcodes and variants in bits [11:0]. -/
theorem test_rows_sequencer : rowOfWord 0x001 = some .nop ∧ rowOfWord 0xA01 = some .end_ ∧ rowOfWord 0x202 = some .try_ ∧
    rowOfWord 0x103 = some .ask ∧ rowOfWord 0x204 = some .dmaCopy ∧ rowOfWord 0x505 = some .ringOcc := by decide
theorem test_rows_engines : rowOfWord 0x706 = some .cfgBow ∧ rowOfWord 0x0000000000800000_00000606 = some .cfgCzBuild ∧
    rowOfWord 0x606 = some .cfgCzLoad ∧ rowOfWord 0x310 = some .mmRotate ∧ rowOfWord 0x011 = some .wload ∧ rowOfWord 0x112 = some .fill ∧
    rowOfWord 0x020 = some .vchain ∧ rowOfWord 0x221 = some .vdStats ∧ rowOfWord 0x330 = some .stWwrite ∧
    rowOfWord 0x131 = some .spreadInv ∧ rowOfWord 0x232 = some .pick := by decide
theorem test_rows_none : rowOfWord 0xB01 = none ∧ rowOfWord 0x007 = none := by decide
/-- No row of the table has bits. -/
theorem test_no_table_word : decodeTableWord 16 0x001 = none := by decide

/-! ### Looking at outcomes -/

/-- The outcome is a next state that `p` holds of. -/
def after (o : Host.Outcome State Fault Refusal) (p : State → Bool) : Bool :=
  match o with
  | .next t => p t
  | _ => false

/-- The outcome is the next state `t`. -/
def gives (o : Host.Outcome State Fault Refusal) (t : State) : Bool := after o fun u => decide (u = t)

theorem eq_of_gives {o : Host.Outcome State Fault Refusal} {t : State} (h : gives o t = true) : o = .next t := by
  cases o <;> simp_all [gives, after]

/-! ### States -/

/-- A running device: booted, PF ready, device time 1 s. -/
def up : State :=
  { State.reset with
    time := 100000000
    beatAt := 100000000
    pw := { PwSt.reset with phase := .running, pwrgood := true, poweredOn := false, enumDue := false, smbAck := true }
    funcs := [(0, { Fn.reset with enabled := true, ready := true })] }

/-- A task without a bundle. -/
def task0 : Task :=
  { job := 1, bundle := none, start := 0, lastMeet := 0, lastCapo := 7, liveKib := 0, committed := false, settled := false, errors := []
    stall := 0, sums := [], chargeFrom := [], partFrom := [], bytesFrom := (0, 0, 0, 0), obs := 0
    variant := ⟨1, 0, false, false, 128, 0, 100000, [100000], []⟩, pegRegs := [], clients := [0], charging := true }

/-- Partition 0 on course 0 with the task. -/
def part0 : Part := { Part.reset with courses := 1, valid := true, job := 1, task := some task0, sliceJob := 1 }

/-- A core that runs the command stream with its working region of 512 KiB at group 0 and the registers. -/
def core (cmds : List CmdWord) (regs : Tbl W64) : CoreSt :=
  { CoreSt.reset with
    seq := { Seq.reset with phase := .running, cmdMem := cmds, sregs := regs }
    spTask := ⟨0, 128, 0, 0, false⟩ }

/-- Core 0 of partition 0 runs the stream. -/
def runs (cmds : List CmdWord) (regs : Tbl W64) : State :=
  { up with parts := [(0, part0)], cores := [(0, core cmds regs)] }

/-- `runs` with a NOP after the word. -/
def at_ (w : CmdWord) (regs : Tbl W64) : State := runs [w, 0x001] regs

/-! ### Hypotheses on the issue of a word, as checks -/

/-- The core issues the word of the row, a command follows it, and what `Issues` says holds. -/
def Ready (row : CmdRow) (w : CmdWord) (s : State) : Prop := HasNext (atIssue s 0 env0) 0 ∧ Issues row 0 w env0 s

def readyB (row : CmdRow) (w : CmdWord) (s : State) : Bool :=
  let t := atIssue s 0 env0
  decide ((getCore t 0).seq.pc.toNat + 1 < (getCore t 0).seq.cmdMem.length) && decide (rowOfWord w = some row) && mayIssue (reached s 0 env0) 0 w &&
  !malformed row (getCore t 0).seq.sregs w

theorem ready_of {row : CmdRow} {w : CmdWord} {s : State} (h : readyB row w s = true) : Ready row w s := by
  simp only [readyB, Bool.and_eq_true, decide_eq_true_eq, Bool.not_eq_true'] at h
  exact ⟨h.1.1.1, h.1.1.2, h.1.2, h.2⟩

/-- The queues hold what the list says, in the order of the queues, evaluated. -/
def idleB (s : State) (c : CoreId) : Bool :=
  let q := (getCore s c).seq
  q.dmaQ.isEmpty && q.wlQ.isEmpty && q.mxQ.isEmpty && q.vxQ.isEmpty && q.seqQ.isEmpty

theorem idle_of {s : State} {c : CoreId} (h : idleB s c = true) : IdleQueues s c := by
  simp only [idleB, Bool.and_eq_true, List.isEmpty_iff] at h
  obtain ⟨⟨⟨⟨h1, h2⟩, h3⟩, h4⟩, h5⟩ := h
  intro k
  cases k <;> assumption

def onlyB (s : State) (c : CoreId) (q : QEntry) : Bool :=
  [QSel.dma, .wl, .mx, .vx, .sq].all fun k => decide (getQ (getCore s c).seq k = if k = queueOf q.kind then [q] else [])

theorem only_of {s : State} {c : CoreId} {q : QEntry} (h : onlyB s c q = true) : OnlyEntry s c q := by
  simp only [onlyB, List.all_eq_true, decide_eq_true_eq] at h
  intro k
  exact h k (by cases k <;> simp)

/-- Every check passes. -/
theorem passes_of {l : List (Bool × BitVec 16)} (h : (l.all fun x => !x.1) = true) : Passes l := by
  intro x hx
  have := List.all_eq_true.mp h x hx
  simpa using this

/-! ### Steps -/

def sFront : State := { at_ 0x001 [] with pending := [.ctrlNop 0 0x001 env0, .deviceIdleEntry] }
theorem wit_StepRunsTheFrontCommand : sFront.pending = [.ctrlNop 0 0x001 env0, .deviceIdleEntry] ∧
    after (step sFront) (fun t => decide (t.pending = [.deviceIdleEntry] ∧ (getCore t 0).seq.pc = 1)) = true := by decide +kernel
theorem wit_EmptyQueueIdles : State.reset.pending = [] ∧ gives (step State.reset) State.reset = true := by decide +kernel
/-- The invariant is not empty, and a step from it is a next state. -/
theorem wit_Inv : Inv sFront ∧ after (step sFront) (fun _ => true) = true :=
  ⟨⟨by decide, by decide, ⟨by decide, by decide, by decide, by decide, by decide⟩, by decide⟩, by decide +kernel⟩

/-! ### CTRL -/

theorem wit_nop : Ready .nop 0x001 (at_ 0x001 []) ∧
    after (exec (.ctrlNop 0 0x001 env0) (at_ 0x001 [])) (fun t => decide ((getCore t 0).seq.pc = 1 ∧ (getCore t 0).seq.sregs = [])) = true :=
  ⟨ready_of (by decide +kernel), by decide +kernel⟩

def wLi : CmdWord := wd 0x01 1 [(32, 3), (64, 0x123456789ABCDEF0)]
theorem wit_li : Ready .li wLi (at_ wLi []) ∧
    after (exec (.ctrlLi 0 wLi env0) (at_ wLi [])) (fun t => decide (sOf t 0 3 = 0x123456789ABCDEF0 ∧ (getCore t 0).seq.pc = 1)) = true :=
  ⟨ready_of (by decide +kernel), by decide +kernel⟩
/-- A write to s0 is discarded (R69). -/
theorem test_li_s0 : after (exec (.ctrlLi 0 (wd 0x01 1 [(64, 5)]) env0) (at_ (wd 0x01 1 [(64, 5)]) [])) (fun t => decide (sOf t 0 0 = 0)) = true := by
  decide +kernel

/-- s[1] op imm, into s[2]. -/
def wAlu (op imm : Nat) : CmdWord := wd 0x01 2 [(32, 2), (37, 1), (47, 1), (48, op), (64, imm)]
def aluTo (op imm : Nat) (a v : W64) : Bool :=
  after (exec (.ctrlAlu 0 (wAlu op imm) env0) (at_ (wAlu op imm) [(1, a)])) fun t => decide (sOf t 0 2 = v ∧ (getCore t 0).seq.pc = 1)
/-- a − y wraps; arithmetic shift keeps the sign; a signed comparison; the immediate is sign-extended (R74, Table 4-4). -/
theorem wit_alu : Ready .alu (wAlu 1 1) (at_ (wAlu 1 1) [(1, 0)]) ∧ aluTo 1 1 0 0xFFFFFFFFFFFFFFFF = true :=
  ⟨ready_of (by decide +kernel), by decide +kernel⟩
theorem test_alu : aluTo 7 0xFFFFFFC4 0xFFFFFFFFFFFFFF00 0xFFFFFFFFFFFFFFF0 = true ∧ aluTo 13 0xFFFFFFFF 0xFFFFFFFFFFFFFFFE 1 = true ∧
    aluTo 14 0xFFFFFFFF 5 1 = true ∧ aluTo 8 0x10000 0x0001000000000003 0x0000000000030000 = true := by decide +kernel

def wBr (cond target : Nat) : CmdWord := wd 0x01 3 [(32, 1), (37, 2), (42, cond), (64, target)]
def sBr (cond target : Nat) : State := runs [wBr cond target, 1, 1] [(1, 5), (2, 5)]
theorem wit_br : Ready .br (wBr 1 2) (sBr 1 2) ∧ BrHolds 1 5 5 ∧
    after (exec (.ctrlBr 0 (wBr 1 2) env0) (sBr 1 2)) (fun t => decide ((getCore t 0).seq.pc = 2 ∧ (getCore t 0).seq.next = 4)) = true :=
  ⟨ready_of (by decide +kernel), rfl, by decide +kernel⟩
theorem wit_br_not : Ready .br (wBr 2 2) (sBr 2 2) ∧ ¬BrHolds 2 5 5 ∧
    after (exec (.ctrlBr 0 (wBr 2 2) env0) (sBr 2 2)) (fun t => decide ((getCore t 0).seq.pc = 1 ∧ (getCore t 0).seq.next = 1)) = true :=
  ⟨ready_of (by decide +kernel), fun h => h rfl, by decide +kernel⟩
theorem wit_br_range : Ready .br (wBr 1 3) (sBr 1 3) ∧
    after (exec (.ctrlBr 0 (wBr 1 3) env0) (sBr 1 3)) (fun t => decide ((getCore t 0).seq.phase = .stopped 0x02 0)) = true :=
  ⟨ready_of (by decide +kernel), by decide +kernel⟩

def wLoop (target : Nat) : CmdWord := wd 0x01 4 [(32, 1), (64, target)]
def sLoop (v : W64) (target : Nat) : State := runs [wLoop target, 1, 1] [(1, v)]
theorem wit_loop : Ready .loop (wLoop 2) (sLoop 3 2) ∧
    after (exec (.ctrlLoop 0 (wLoop 2) env0) (sLoop 3 2)) (fun t => decide (sOf t 0 1 = 2 ∧ (getCore t 0).seq.pc = 2)) = true :=
  ⟨ready_of (by decide +kernel), by decide +kernel⟩
theorem wit_loop_ends : Ready .loop (wLoop 2) (sLoop 1 2) ∧ Issues .loop 0 (wLoop 2) env0 (sLoop 0 2) ∧
    after (exec (.ctrlLoop 0 (wLoop 2) env0) (sLoop 1 2)) (fun t => decide (sOf t 0 1 = 0 ∧ (getCore t 0).seq.pc = 1)) = true ∧
    after (exec (.ctrlLoop 0 (wLoop 2) env0) (sLoop 0 2)) (fun t => decide (sOf t 0 1 = 0 ∧ (getCore t 0).seq.pc = 1)) = true :=
  ⟨ready_of (by decide +kernel), (ready_of (by decide +kernel)).2, by decide +kernel, by decide +kernel⟩
theorem wit_loop_range : Ready .loop (wLoop 5) (sLoop 3 5) ∧
    after (exec (.ctrlLoop 0 (wLoop 5) env0) (sLoop 3 5)) (fun t => decide ((getCore t 0).seq.phase = .stopped 0x02 0 ∧ sOf t 0 1 = 3)) = true :=
  ⟨ready_of (by decide +kernel), by decide +kernel⟩

def wLd (a : Nat) : CmdWord := wd 0x01 5 [(32, 4), (64, a)]
def sLd (a : Nat) : State := { runs [wLd a, 1] [] with cores := [(0, { core [wLd a, 1] [] with eng := { Engines.reset with sp := [(0x40, 0x11), (0x47, 0x22)] } })] }
/-- LD reads 8 bytes, little-endian, and lands 4 cycles later (R77, R78). -/
theorem wit_ld : Ready .ld (wLd 0x40) (sLd 0x40) ∧ IdleQueues (atIssue (sLd 0x40) 0 env0) 0 ∧
    rangeErr (getCore (atIssue (sLd 0x40) 0 env0) 0).spTask ⟨false, 0x40, 8⟩ = none ∧
    after (exec (.ctrlLd 0 (wLd 0x40) env0) (sLd 0x40)) (fun t => decide ((getCore t 0).seq.ldPend = [(4, 4, 0x2200000000000011)])) = true :=
  ⟨ready_of (by decide +kernel), idle_of (by decide +kernel), by decide +kernel, by decide +kernel⟩
theorem wit_ld_align : Ready .ld (wLd 0x41) (sLd 0x41) ∧
    after (exec (.ctrlLd 0 (wLd 0x41) env0) (sLd 0x41)) (fun t => decide ((getCore t 0).seq.phase = .stopped 0x03 0)) = true :=
  ⟨ready_of (by decide +kernel), by decide +kernel⟩
def wSt (a : Nat) : CmdWord := wd 0x01 6 [(32, 4), (64, a)]
theorem wit_st : let s := at_ (wSt 0x48) [(4, 9)]
    Ready .st (wSt 0x48) s ∧ IdleQueues (atIssue s 0 env0) 0 ∧ rangeErr (getCore (atIssue s 0 env0) 0).spTask ⟨true, 0x48, 8⟩ = none ∧
    xlat (getCore s 0).spTask 0x48 = some 0x48 ∧
    after (exec (.ctrlSt 0 (wSt 0x48) env0) s) (fun t => decide ((getCore t 0).seq.landing = [(4, (leBytes 8 9).zipIdx.map fun b => (0x48 + b.2, b.1))])) = true :=
  ⟨ready_of (by decide +kernel), idle_of (by decide +kernel), by decide +kernel⟩
theorem wit_st_align : Ready .st (wSt 0x4C) (at_ (wSt 0x4C) []) ∧
    after (exec (.ctrlSt 0 (wSt 0x4C) env0) (at_ (wSt 0x4C) [])) (fun t => decide ((getCore t 0).seq.phase = .stopped 0x03 0)) = true :=
  ⟨ready_of (by decide +kernel), by decide +kernel⟩

/-- RDSYS of device time (selector 4) and of the last capo (6). -/
def wRdsys (sel : Nat) : CmdWord := wd 0x01 7 [(32, 4), (64, sel)]
def rdsysTo (sel : Nat) (s : State) (v : W64) : Bool :=
  after (exec (.ctrlRdsys 0 (wRdsys sel) env0) s) fun t => decide (sOf t 0 4 = v ∧ (getCore t 0).seq.pc = 1)
theorem wit_rdsys : Ready .rdsys (wRdsys 4) (at_ (wRdsys 4) []) ∧ partOfCore (at_ (wRdsys 4) []) 0 = some 0 ∧
    rdsysTo 4 (at_ (wRdsys 4) []) 100000000 = true ∧ rdsysTo 6 (at_ (wRdsys 6) []) 7 = true ∧ rdsysTo 1 (at_ (wRdsys 1) []) 1 = true ∧
    rdsysTo 2 (at_ (wRdsys 2) []) 0 = true :=
  ⟨ready_of (by decide +kernel), by decide +kernel⟩

def ask0 (d : Option (List Byte)) : AskRec := ⟨5, 0, 0x100, 64, d⟩
def asking (cmds : List CmdWord) (l : List AskRec) : State :=
  let x := core cmds []
  { runs cmds [] with cores := [(0, { x with seq := { x.seq with asks := l } })] }
def wDwait : CmdWord := wd 0x01 8 [(32, 4), (62, 5)]
theorem wit_dwait : let s := asking [wDwait, 1] [ask0 (some [1, 2, 3, 4, 5, 6, 7, 8])]
    Ready .dwait wDwait s ∧ IdleQueues (atIssue s 0 env0) 0 ∧ rangeErr (getCore s 0).spTask ⟨true, 0x100, 8⟩ = none ∧
    after (exec (.ctrlDwait 0 wDwait env0) s) (fun t => decide ((getCore t 0).seq.asks = [] ∧ (getCore t 0).seq.pc = 1 ∧ sOf t 0 4 = 0x0807060504030201 ∧
      (getCore t 0).seq.next = 4 ∧ (getCore t 0).seq.landing = [(4, (List.range 8).map fun i => (0x100 + i, BitVec.ofNat 8 (i + 1)))])) = true :=
  ⟨ready_of (by decide +kernel), idle_of (by decide +kernel), by decide +kernel⟩
/-- With no decision yet the core waits. -/
theorem wit_dwait_waits : let s := asking [wDwait, 1] [ask0 none]
    Ready .dwait wDwait s ∧ after (exec (.ctrlDwait 0 wDwait env0) s) (fun t => decide ((getCore t 0).seq.phase = .dwait 4 5 ∧ (getCore t 0).seq.pc = 0)) = true :=
  ⟨ready_of (by decide +kernel), by decide +kernel⟩
theorem wit_dwait_tag : let s := asking [wDwait, 1] []
    Ready .dwait wDwait s ∧ after (exec (.ctrlDwait 0 wDwait env0) s) (fun t => decide ((getCore t 0).seq.phase = .stopped 0x08 0)) = true :=
  ⟨ready_of (by decide +kernel), by decide +kernel⟩

def wCapo (id : Nat) : CmdWord := wd 0x01 9 [(32, id), (48, 1)]
/-- The other cores of the partition are in the phase. -/
def others (s : State) (p : SeqPhase) : State :=
  { s with cores := s.cores ++ [1, 2, 3].map fun i => (i, { core [1, 1] [] with seq := { (core [1, 1] []).seq with phase := p } }) }
theorem wit_capo : Ready .capo (wCapo 9) (at_ (wCapo 9) []) ∧ partOfCore (at_ (wCapo 9) []) 0 = some 0 ∧
    (1 : CoreId) ∈ partCores (getPart (at_ (wCapo 9) []) 0) ∧ onFailedPair (at_ (wCapo 9) []) 0 = false ∧ quietCore (at_ (wCapo 9) []) 0 = true ∧
    capoOf (at_ (wCapo 9) []) 1 = none ∧
    after (exec (.ctrlCapo 0 (wCapo 9) env0) (at_ (wCapo 9) [])) (fun t => decide ((getCore t 0).seq.phase = .atCapo 9 true 0)) = true :=
  ⟨ready_of (by decide +kernel), by decide +kernel⟩
def wEnd : CmdWord := wd 0x01 0xA []
theorem wit_end : Issues .end_ 0 wEnd env0 (at_ wEnd []) ∧ quietCore (at_ wEnd []) 0 = true ∧ (getCore (at_ wEnd []) 1).seq.phase ≠ .ended ∧
    after (exec (.ctrlEnd 0 wEnd env0) (at_ wEnd [])) (fun t => decide ((getCore t 0).seq.phase = .ended)) = true :=
  ⟨(ready_of (by decide +kernel)).2, by decide +kernel⟩
/-- A job that is a program with nothing declared but its semaphores. -/
def sb0 : SbDecl := ⟨0, 0, 24, 10, 0, 39, 0, 80, 0, 0, 0, 0⟩
def decl0 : ImageDecl :=
  { program := true, complete := true, weightBytes := 0, chunkMs := 10, fe := 1, bstride := 64, maxRecords := 1, synth := false, genSize := 0, wcap := 0
    blkSize := 0, layers := [], anchorK := none, anchorLens := [], sb := sb0, pegs := [], peg0Stream := false, peg0Entry := ⟨0, 0, 0, 0⟩, pegTag := none, tokenTag := none
    stateTag := none, maxStep := 0, modelKey := 0, spread := [], drone := [], semInit := [], regions := []
    variants := [⟨1, 0, false, false, 128, 0, 100000, [100000], [[1]]⟩], quants := [] }
def job0 : Job :=
  { num := 1, kind := .program decl0, ctx := none, stopped := none, sliceUs := 10000, hsLimit := 3, hsNext := 3, overshoot := 0, hsRuns := 0, errRuns := 0, dbase := 0
    dsize := 0, key := 0, step := 0, epoch := 0, regions := [], ended := false, crashed := none, obsCycles := 0, soloTicks := 0, tasks := 0
    tele := ⟨0, 0, 0, 0, 0, 0⟩ }
def sMeet : State :=
  let s := others (at_ (wCapo 9) []) (.atCapo 9 true 0)
  { s with parts := [(0, { part0 with jobs := [job0] })] }
theorem wit_meet : Ready .capo (wCapo 9) sMeet ∧ partOfCore sMeet 0 = some 0 ∧ (getPart sMeet 0).task = some task0 ∧
    findJob (getPart sMeet 0) 1 = some job0 ∧ semsInitial sMeet (getPart sMeet 0) job0 = true ∧ (getPart sMeet 0).semNet = [] ∧
    (∀ d ∈ partCores (getPart sMeet 0), d ≠ 0 → (getCore sMeet d).seq.phase = .atCapo 9 true 0) ∧ quietCore sMeet 0 = true ∧
    after (exec (.ctrlCapo 0 (wCapo 9) env0) sMeet) (fun t => decide ((getPart t 0).task.map (fun k => (k.lastCapo, k.committed)) = some (9, true) ∧
      (getCore t 0).seq.pc = 1 ∧ (getCore t 3).seq.phase = .running)) = true :=
  ⟨ready_of (by decide +kernel), by decide +kernel⟩

/-- A POST still on its way restores the count before the meet is judged (R93, Table 4-9). -/
theorem test_meet_post : let s := modPart sMeet 0 fun x => { x with sems := [(5, 65535)], semNet := [⟨0, 0, 0, 5, 0, true⟩] }
    let r := modPart sMeet 0 fun x => { x with semNet := [⟨0, 0, 0, 5, 1, true⟩] }
    after (exec (.ctrlCapo 0 (wCapo 9) env0) s) (fun t => decide ((getCore t 0).seq.phase = .stopped cCAPO_SEM 0)) = true ∧
    after (exec (.ctrlCapo 0 (wCapo 9) env0) r) (fun t => decide ((getCore t 0).seq.phase = .stopped cCAPO_SEM 0)) = true := by decide +kernel

/-! ### Malformed words, full queues -/

/-- A nonzero reserved field of the header is malformed (R72). -/
theorem wit_malformed : let w := wd 0x04 0 [(21, 1)]
    mayIssue (reached (at_ w []) 0 env0) 0 w = true ∧ rowOfWord w = some .dmaLoad ∧ malformed .dmaLoad (getCore (atIssue (at_ w []) 0 env0) 0).seq.sregs w = true ∧
    after (exec (.dmaLoad 0 w env0) (at_ w [])) (fun t => decide ((getCore t 0).seq.phase = .stopped 0x01 0)) = true := by decide +kernel
theorem wit_malformed_none : mayIssue (reached (at_ 0x007 []) 0 env0) 0 0x007 = true ∧ rowOfWord 0x007 = none ∧
    after (exec (.vchain 0 0x007 env0) (at_ 0x007 [])) (fun t => decide ((getCore t 0).seq.phase = .stopped 0x01 0)) = true := by decide +kernel

/-! ### SYNC -/

def wSync (v i n : Nat) : CmdWord := wd 0x02 v [(32, i), (48, n)]
theorem wit_post : Ready .post (wSync 0 3 2) (at_ (wSync 0 3 2) []) ∧
    after (exec (.syncPost 0 (wSync 0 3 2) env0) (at_ (wSync 0 3 2) [])) (fun t => decide ((getPart t 0).semNet = [⟨0, 0, 0, 3, 2, true⟩] ∧ (getCore t 0).seq.pc = 1)) = true :=
  ⟨ready_of (by decide +kernel), by decide +kernel⟩
theorem wit_wait : Ready .wait (wSync 1 3 2) (at_ (wSync 1 3 2) []) ∧
    Issues .wait 0 (wSync 1 3 0) env0 (at_ (wSync 1 3 0) []) ∧
    after (exec (.syncWait 0 (wSync 1 3 2) env0) (at_ (wSync 1 3 2) [])) (fun t => decide ((getCore t 0).seq.phase = .waitSem 3 2 100000000 ∧ (getCore t 0).seq.pc = 0)) = true ∧
    after (exec (.syncWait 0 (wSync 1 3 0) env0) (at_ (wSync 1 3 0) [])) (fun t => decide ((getCore t 0).seq.pc = 1)) = true :=
  ⟨ready_of (by decide +kernel), (ready_of (by decide +kernel)).2, by decide +kernel⟩
def wTry : CmdWord := wd 0x02 2 [(32, 3), (40, 4), (48, 2)]
theorem wit_try : Ready .try_ wTry (at_ wTry []) ∧
    after (exec (.syncTry 0 wTry env0) (at_ wTry [])) (fun t => decide ((getCore t 0).seq.phase = .trySem 3 2 4)) = true :=
  ⟨ready_of (by decide +kernel), by decide +kernel⟩

/-- The semaphore block with messages in flight and waiting, and the phase of core 0. -/
def sSem (v : BitVec 16) (net wait : List SemMsg) (p : SeqPhase) : State :=
  let x := core [1, 1] []
  { runs [1, 1] [] with
    parts := [(0, { part0 with sems := [(3, v)], semNet := net, semWait := wait })]
    cores := [(0, { x with seq := { x.seq with phase := p } })] }
theorem wit_semBlock_post : let s := sSem 65530 [⟨0, 0, 0, 3, 5, true⟩] [] .running
    devRuns s = true ∧ (getPart s 0).task.isSome = true ∧ (0 : CoreId) ∈ partCores (getPart s 0) ∧
    after (exec (.semBlockCycle 0 [0]) s) (fun t => decide (tget 0 (getPart t 0).sems 3 = 65535 ∧ (getPart t 0).semNet = [])) = true := by decide +kernel
theorem wit_semBlock_overflow : let s := sSem 65530 [⟨0, 0, 0, 3, 6, true⟩] [] .running
    devRuns s = true ∧ after (exec (.semBlockCycle 0 [0]) s) (fun t => decide (tget 0 (getPart t 0).sems 3 = 65530 ∧ (getCore t 0).seq.due = some (19, 0x06, 0))) = true := by
  decide +kernel
theorem wit_semBlock_wait : let s := sSem 2 [] [⟨0, 0, 0, 3, 2, false⟩] (.waitSem 3 2 0)
    HasNext s 0 ∧ devRuns s = true ∧
    after (exec (.semBlockCycle 0 []) s) (fun t => decide (tget 0 (getPart t 0).sems 3 = 0 ∧ (getCore t 0).seq.phase = .running ∧ (getCore t 0).seq.pc = 1)) = true ∧
    after (exec (.semBlockCycle 0 []) (sSem 1 [] [⟨0, 0, 0, 3, 2, false⟩] (.waitSem 3 2 0)))
      (fun t => decide (tget 0 (getPart t 0).sems 3 = 1 ∧ (getPart t 0).semWait = [⟨0, 0, 0, 3, 2, false⟩])) = true := by unfold HasNext; decide +kernel
theorem wit_semBlock_try : let s := sSem 1 [] [⟨0, 0, 0, 3, 2, false⟩] (.trySem 3 2 4)
    HasNext s 0 ∧ after (exec (.semBlockCycle 0 []) s) (fun t => decide (sOf t 0 4 = 0 ∧ (getCore t 0).seq.pc = 1 ∧ tget 0 (getPart t 0).sems 3 = 1)) = true ∧
    after (exec (.semBlockCycle 0 []) (sSem 2 [] [⟨0, 0, 0, 3, 2, false⟩] (.trySem 3 2 4))) (fun t => decide (sOf t 0 4 = 1 ∧ tget 0 (getPart t 0).sems 3 = 0)) = true := by
  unfold HasNext; decide +kernel

/-- 50,000,000 ticks at 100 MHz are 500,000 µs: the limit is in units of ticks of 1 µs (Table 4-13). -/
def sWaiting : State := sSem 0 [] [⟨0, 0, 0, 3, 2, false⟩] (.waitSem 3 2 100000000)
theorem wit_syncTimeout : devRuns sWaiting = true ∧ (getCore sWaiting 0).seq.syncTimeout.toNat ≤ (sWaiting.time + BitVec.ofNat 64 500000 - 100000000).toNat ∧
    after (exec (.syncTimeout 0 500000) sWaiting) (fun t => decide ((getCore t 0).seq.phase = .stopped 0x07 0)) = true ∧
    gives (exec (.syncTimeout 0 499999) sWaiting) sWaiting = true := by decide +kernel
theorem wit_decisionTimeout : let s := asking [1, 1] [{ ask0 none with issued := 100000000 }]
    devRuns s = true ∧ after (exec (.decisionTimeout 0 5 100000) s) (fun t => decide ((getCore t 0).seq.phase = .stopped 0x0A 0)) = true := by decide +kernel
theorem wit_decisionArrival : let s := { asking [1, 1] [ask0 none] with parts := [(0, { part0 with task := some { task0 with sums := [⟨0, true, 5, 7, [], 0⟩] } })] }
    askDelivered s 0 5 = true ∧
    rtRuns s = true ∧ after (exec (.decisionArrival ⟨0, 0, ⟨[], []⟩⟩ 5 [9]) s) (fun t => decide ((getCore t 0).seq.asks = [ask0 (some [9])])) = true := by decide +kernel
theorem wit_summaryRingFreed : let s := { runs [1, 1] [] with parts := [(0, { part0 with sumRing := [1, 2, 3] })] }
    rtRuns s = true ∧ after (exec (.summaryRingFreed 0 2 []) s) (fun t => decide ((getPart t 0).sumRing = [3])) = true := by decide +kernel
/-- An error that a queue owes its core is raised when its cycle has come (R81). -/
theorem wit_errorDue : let x := core [1, 1] []
    let s := { runs [1, 1] [] with cores := [(0, { x with seq := { x.seq with cycle := 19, due := some (19, 0x06, 0) } })] }
    (taskOfCore s 0).isSome = true ∧ 19 ≤ clockOf s 0 ∧ (getCore (errorDue s 0) 0).seq.phase = .stopped 0x06 0 := by decide +kernel

/-! ### RING, CONFIG at issue -/

/-- Core 0 runs the word with a changed core. -/
def with_ (w : CmdWord) (regs : Tbl W64) (f : CoreSt → CoreSt) : State := { at_ w regs with cores := [(0, f (core [w, 1] regs))] }
def eng_ (w : CmdWord) (regs : Tbl W64) (f : Engines → Engines) : State := with_ w regs fun x => { x with eng := f x.eng }
def ring (v n : Nat) : CmdWord := wd 0x05 v [(32, 2), (36, 4), (41, n)]
/-- Ring 2 at 0x1000 with 8 slots. -/
def sRing (w : CmdWord) (head tail : BitVec 18) : State := eng_ w [] fun g => { g with rings := [(2, ⟨0x40, 8, head, tail⟩)] }
def wRset (base n : Nat) : CmdWord := wd 0x05 0 [(32, 2), (41, n), (64, base)]
theorem wit_ringSet : Ready .ringSet (wRset 0x1000 8) (at_ (wRset 0x1000 8) []) ∧
    after (exec (.ringSet 0 (wRset 0x1000 8) env0) (at_ (wRset 0x1000 8) [])) (fun t => decide ((getCore t 0).eng.rings = [(2, ⟨0x40, 8, 0, 0⟩)] ∧
      (getCore t 0).seq.pc = 1)) = true := ⟨ready_of (by decide +kernel), by decide +kernel⟩
/-- The working region is 0x80000 bytes: a ring that ends there fits, one slot more does not. -/
theorem wit_ringSet_errors : Issues .ringSet 0 (wRset 0x1000 0) env0 (at_ (wRset 0x1000 0) []) ∧ Issues .ringSet 0 (wRset 0x7FFC0 2) env0 (at_ (wRset 0x7FFC0 2) []) ∧
    after (exec (.ringSet 0 (wRset 0x1000 0) env0) (at_ (wRset 0x1000 0) [])) (fun t => decide ((getCore t 0).seq.phase = .stopped 0x11 0)) = true ∧
    after (exec (.ringSet 0 (wRset 0x7FFC0 2) env0) (at_ (wRset 0x7FFC0 2) [])) (fun t => decide ((getCore t 0).seq.phase = .stopped 0x0F 0)) = true ∧
    after (exec (.ringSet 0 (wRset 0x7FFC0 1) env0) (at_ (wRset 0x7FFC0 1) [])) (fun t => decide ((getCore t 0).seq.phase = .running)) = true :=
  ⟨(ready_of (by decide +kernel)).2, (ready_of (by decide +kernel)).2, by decide +kernel⟩
theorem wit_ringPush : Ready .ringPush (ring 1 3) (sRing (ring 1 3) 9 4) ∧
    after (exec (.ringPush 0 (ring 1 3) env0) (sRing (ring 1 3) 9 4)) (fun t => decide (sOf t 0 4 = 0x1040 ∧ (tget .reset (getCore t 0).eng.rings 2).head = 12)) = true :=
  ⟨ready_of (by decide +kernel), by decide +kernel⟩
theorem wit_ringPush_errors : Issues .ringPush 0 (ring 1 4) env0 (sRing (ring 1 4) 9 4) ∧
    after (exec (.ringPush 0 (ring 1 4) env0) (sRing (ring 1 4) 9 4)) (fun t => decide ((getCore t 0).seq.phase = .stopped 0x12 0)) = true ∧
    after (exec (.ringPush 0 (ring 1 3) env0) (sRing (ring 1 3) 6 6)) (fun t => decide ((getCore t 0).seq.phase = .stopped 0x14 0)) = true ∧
    after (exec (.ringPush 0 (ring 1 2) env0) (sRing (ring 1 2) 6 6)) (fun t => decide ((getCore t 0).seq.phase = .running)) = true :=
  ⟨(ready_of (by decide +kernel)).2, by decide +kernel⟩
theorem wit_ringPop : Ready .ringPop (ring 2 2) (sRing (ring 2 2) 9 5) ∧
    after (exec (.ringPop 0 (ring 2 2) env0) (sRing (ring 2 2) 9 5)) (fun t => decide (sOf t 0 4 = 0x1140 ∧ (tget .reset (getCore t 0).eng.rings 2).tail = 7)) = true ∧
    after (exec (.ringPop 0 (ring 2 5) env0) (sRing (ring 2 5) 9 5)) (fun t => decide ((getCore t 0).seq.phase = .stopped 0x13 0)) = true ∧
    after (exec (.ringPop 0 (ring 2 4) env0) (sRing (ring 2 4) 9 5)) (fun t => decide ((getCore t 0).seq.phase = .stopped 0x14 0)) = true :=
  ⟨ready_of (by decide +kernel), by decide +kernel⟩
theorem wit_ringReads : Issues .ringHead 0 (ring 3 0) env0 (sRing (ring 3 0) 9 5) ∧ Issues .ringTail 0 (ring 4 0) env0 (sRing (ring 4 0) 9 5) ∧
    Issues .ringOcc 0 (ring 5 0) env0 (sRing (ring 5 0) 9 5) ∧
    after (exec (.ringHead 0 (ring 3 0) env0) (sRing (ring 3 0) 9 5)) (fun t => decide (sOf t 0 4 = 0x1040)) = true ∧
    after (exec (.ringTail 0 (ring 4 0) env0) (sRing (ring 4 0) 9 5)) (fun t => decide (sOf t 0 4 = 0x1140)) = true ∧
    after (exec (.ringOcc 0 (ring 5 0) env0) (sRing (ring 5 0) 9 5)) (fun t => decide (sOf t 0 4 = 4)) = true :=
  ⟨(ready_of (by decide +kernel)).2, (ready_of (by decide +kernel)).2, (ready_of (by decide +kernel)).2, by decide +kernel⟩
theorem wit_ringNone : Issues .ringOcc 0 (ring 5 0) env0 (at_ (ring 5 0) []) ∧
    after (exec (.ringOcc 0 (ring 5 0) env0) (at_ (ring 5 0) [])) (fun t => decide ((getCore t 0).seq.phase = .stopped 0x11 0)) = true :=
  ⟨(ready_of (by decide +kernel)).2, by decide +kernel⟩

/-- The scratchpad of the core holds bytes. -/
def sp_ (w : CmdWord) (regs : Tbl W64) (b : List (Nat × Byte)) : State := eng_ w regs fun g => { g with sp := Memory.wrList [] b }
def wCtrl : CmdWord := wd 0x06 0 [(32, 0x200), (60, 1)]
def sCtrl : State := sp_ wCtrl [] [(0x200, 100), (0x204, 0x40), (0x205, 0x4B), (0x206, 0x4C)]
/-- The entry of a command that the sequencer carries out, once it has read its words. -/
def reads0 (s : State) (k : QKind) (w : CmdWord) (l : List (List Byte)) : QEntry := { entryOf s 0 k w with cap := l.zipIdx.map fun x => (x.2, x.1) }
def qCtrl : QEntry := reads0 sCtrl .cfgCtrl wCtrl [[100, 0, 0, 0, 0x40, 0x4B, 0x4C, 0]]
theorem wit_cfgCtrl : Ready .cfgCtrl wCtrl sCtrl ∧
    after (exec (.configCoreControl 0 wCtrl env0) sCtrl) (fun t => decide ((getCore t 0).seq.next = 11 ∧ (getCore t 0).seq.pc = 0)) = true :=
  ⟨ready_of (by decide +kernel), by decide +kernel⟩
theorem wit_cfgCtrl_ends : (getCore sCtrl 0).seq.phase = .running ∧ (narrowWords qCtrl).getD 0 0 = 0x004C4B4000000064 ∧
    ((narrowWords qCtrl).drop 1).all (fun y => decide (y = 0)) = true ∧
    after (.next (endEntry sCtrl 0 qCtrl)) (fun t => decide ((getCore t 0).seq.syncTimeout = 100 ∧ (getCore t 0).seq.decisionTimeout = 5000000 ∧
      (getCore t 0).seq.pc = 1)) = true := by decide +kernel
def wBow : CmdWord := wd 0x06 7 [(32, 0x200), (52, 8), (60, 1)]
theorem wit_cfgBow : let s := sp_ wBow [] [(0x200, 0x34)]
    let q := reads0 s .cfgBow wBow [[0x34, 2, 0x78, 0, 0, 0, 0, 0]]
    Ready .cfgBow wBow s ∧ (narrowWords q).all siteOk = true ∧ tget (0, 0) (getCore (endEntry s 0 q) 0).eng.sites 8 = (0x234, 0x78) ∧
    after (exec (.configBowSites 0 wBow env0) s) (fun t => decide ((getCore t 0).seq.next = 11)) = true :=
  ⟨ready_of (by decide +kernel), by decide +kernel⟩


/-! ### Queued commands -/

/-- Partition 0 may read and write local pages 1 to 16 for job 1, services too. -/
def grant0 : BitVec 128 := BitVec.ofNat 128 (1 + 16 * 2 ^ 36 + 1 * 2 ^ 71 + 15 * 2 ^ 87)
def granted (s : State) (m : List (Nat × Byte)) : State := { s with mem := Memory.wrList [] m, mon := { s.mon with grants := [grant0] } }

/-- No beat of memory, no corrected row. -/
def run0 : RunEnv := ⟨[], []⟩

/-- The command as captured at issue, alone in its queue; the core as it starts it, and then its entry. -/
def alone (s : State) (k : QKind) (w : CmdWord) : State :=
  modSeq s 0 fun q => setQ { q with issued := 1 } (queueOf k) [entryOf s 0 k w]
def going (s : State) (k : QKind) (w : CmdWord) : State := starts (alone s k w) 0
def head_ (s : State) (k : QKind) : QEntry := (getQ (getCore s 0).seq (queueOf k)).headD (entryOf s 0 k 0)

/-- The command is the only one, has not started, and runs once it starts. -/
def runsB (s : State) (k : QKind) (w : CmdWord) : Bool :=
  let q := entryOf s 0 k w
  onlyB (alone s k w) 0 q && (match startOf (countStall (alone s k w) 0) 0 q with | .run _ p => p.started && decide (p.n = q.n) | _ => false)
/-- The command that has started is the only one, and nothing has moved yet. -/
def freshB (s : State) (k : QKind) (w : CmdWord) : Bool :=
  let t := going s k w
  let q := head_ t k
  onlyB t 0 q && q.started && q.lost.isEmpty && q.zeros.isEmpty && q.supp.isEmpty && q.cap.isEmpty && decide (q.gslot = none ∧ q.remoteReads = 0)

/-- After a unit of the command has moved. -/
def moved (s : State) (k : QKind) (w : CmdWord) : State := moveUnit (going s k w) 0 (head_ (going s k w) k)
def spAt (s : State) (a : Nat) : Byte := Memory.rd (getCore s 0).eng.sp a
def accAt (s : State) (i : Nat) : BitVec 40 := tget 0 (getCore s 0).eng.acc i
def stops (o : Host.Outcome State Fault Refusal) (cause : BitVec 8) : Bool := after o fun t => decide ((getCore t 0).seq.phase = .stopped cause 0)

def wFill8 : CmdWord := wd 0x03 0 [(32, 0x200), (52, 1), (62, 5)]
/-- Eight SUMMARYs wait: the ninth stays at issue (R70). -/
def wait8 (w : CmdWord) : State :=
  with_ w [] fun x => { x with seq := { x.seq with
    dmaQ := (List.range 8).map fun n => newEntry { x.seq with issued := n } x.eng .summarySend w, issued := 8 } }
theorem wit_full : Ready .send wFill8 (wait8 wFill8) ∧ unstarted (getQ (getCore (atIssue (wait8 wFill8) 0 env0) 0).seq (queueOf .summarySend)) = 8 ∧
    gives (exec (.summarySend 0 wFill8 env0) (wait8 wFill8)) (wait8 wFill8) = true :=
  ⟨ready_of (by decide +kernel), by decide +kernel, by decide +kernel⟩

/-- A frame: a core with nothing under way. -/
theorem wit_frame : atRest (getCore (at_ 1 []) 0).seq = true ∧ (getCore (at_ 1 []) 0).seq.due = none ∧ Settled (at_ 1 []) 0 := by
  unfold Settled; decide +kernel

/-- The header of Table 4-10 and 16 bytes: with the length field, core 0 of partition 0, capo 7, at 1 s. -/
theorem wit_send : let s := sp_ wFill8 [] [(0x200, 7)]
    let q := entryOf s 0 .summarySend wFill8
    Ready .send wFill8 s ∧ runsB s .summarySend wFill8 = true ∧ partOfCore s 0 = some 0 ∧ dmaMayStart (getCore s 0) q = true ∧
    rangeErr (getCore s 0).spTask ⟨false, 0x200, 16⟩ = none ∧
    after (exec (.summarySend 0 wFill8 env0) s) (fun t => decide ((getPart t 0).sumDue = 32 ∧
      capOf (head_ t .summarySend) keyBlock = [0, 0, 5, 0, 7, 0, 1, 0, 0x00, 0xE1, 0xF5, 0x05, 0, 0, 0, 0])) = true :=
  ⟨ready_of (by decide +kernel), by decide +kernel⟩
/-- The payload follows in the ring once the command completes. -/
theorem wit_send_ends : let s := going (sp_ wFill8 [] [(0x200, 7)]) .summarySend wFill8
    after (exec (.dmaComplete ⟨0, 2, ⟨[⟨0, false, 0⟩], []⟩⟩) s) (fun t =>
      idleB t 0 && decide (((getPart t 0).sumRing.drop 16) = 7 :: List.replicate 15 0 ∧ (getPart t 0).sumDue = 0)) = true := by decide +kernel
/-- A ring with too little room makes it wait (R84). -/
theorem wit_send_full : let s := modPart (at_ wFill8 []) 0 fun x => { x with sumDue := 131072 - 31 }
    startOf s 0 (entryOf s 0 .summarySend wFill8) = .wait := by decide +kernel
def wAsk : CmdWord := wd 0x03 1 [(32, 0x200), (52, 1), (62, 5), (78, 0x400), (98, 2)]
theorem wit_ask : Ready .ask wAsk (at_ wAsk []) ∧
    after (exec (.summaryAsk 0 wAsk env0) (at_ wAsk [])) (fun t => decide ((head_ t .summaryAsk).started = true ∧
      (getCore t 0).seq.asks = [⟨5, 100000000, 0x400, 128, none⟩])) = true :=
  ⟨ready_of (by decide +kernel), by decide +kernel⟩
/-- Its tag is outstanding; four others are. -/
theorem wit_ask_errors : Ready .ask wAsk (asking [wAsk, 1] [ask0 none]) ∧
    Ready .ask wAsk (asking [wAsk, 1] ((List.range 4).map fun i => { ask0 none with tag := BitVec.ofNat 16 i })) ∧
    stops (exec (.summaryAsk 0 wAsk env0) (asking [wAsk, 1] [ask0 none])) 0x08 = true ∧
    stops (exec (.summaryAsk 0 wAsk env0) (asking [wAsk, 1] ((List.range 4).map fun i => { ask0 none with tag := BitVec.ofNat 16 i }))) 0x09 = true :=
  ⟨ready_of (by decide +kernel), ready_of (by decide +kernel), by decide +kernel, by decide +kernel⟩

/-- DMA of two rows of 64 bytes at s[1] with a memory stride of 256 bytes, and s[2] the COPY destination. -/
def dma (v spa : Nat) (rb : Nat) : CmdWord := wd 0x04 v [(32, 1), (37, rb), (42, spa), (62, 64), (83, 1), (95, 16)]
def dregs : Tbl W64 := [(1, 0x1000), (2, 0x2000)]
/-- The hypotheses on a DMA command that starts, and on its first unit. -/
def dmaB (s : State) (k : QKind) (w : CmdWord) : Bool :=
  let q := entryOf s 0 k w
  dmaMayStart (getCore s 0) q && (dmaSides q).all (fun d => !gaBad d.value && !isRemote s d) && decide (dmaErr s 0 q = none ∧ dmaLen w = 64 ∧ dmaCz w = 0) &&
  runsB s k w && freshB s k w && decide ((head_ (going s k w) k).uRow = 0 ∧ (head_ (going s k w) k).uIdx = 0)
def sDload : State := granted (at_ (dma 0 0x200 0) dregs) [(0x1001, 8), (0x1100, 9)]
theorem wit_dmaLoad : Ready .dmaLoad (dma 0 0x200 0) sDload ∧ dmaB sDload .dmaLoad (dma 0 0x200 0) = true ∧
    spAt (moved sDload .dmaLoad (dma 0 0x200 0)) 0x201 = 8 ∧ (head_ (moved sDload .dmaLoad (dma 0 0x200 0)) .dmaLoad).uRow = 1 ∧
    after (exec (.dmaLoad 0 (dma 0 0x200 0) env0) sDload) (fun t => decide ((head_ t .dmaLoad).started = true ∧ (getCore t 0).seq.pc = 1)) = true :=
  ⟨ready_of (by decide +kernel), by decide +kernel, by decide +kernel, by decide +kernel⟩
def sDstore : State := granted (sp_ (dma 1 0x200 0) dregs [(0x201, 8), (0x240, 9)]) []
theorem wit_dmaStore : Ready .dmaStore (dma 1 0x200 0) sDstore ∧ dmaB sDstore .dmaStore (dma 1 0x200 0) = true ∧
    Memory.rds (moved sDstore .dmaStore (dma 1 0x200 0)).mem 0x1000 3 = [0, 8, 0] ∧ Memory.rd (moved sDstore .dmaStore (dma 1 0x200 0)).mem 0x1100 = 0 :=
  ⟨ready_of (by decide +kernel), by decide +kernel, by decide +kernel⟩
def sDcopy : State := granted (at_ (dma 2 0 2) dregs) [(0x1001, 8), (0x1100, 9)]
theorem wit_dmaCopy : Ready .dmaCopy (dma 2 0 2) sDcopy ∧ dmaB sDcopy .dmaCopy (dma 2 0 2) = true ∧
    Memory.rds (moved sDcopy .dmaCopy (dma 2 0 2)).mem 0x2000 3 = [0, 8, 0] :=
  ⟨ready_of (by decide +kernel), by decide +kernel, by decide +kernel⟩
def sDzero : State := granted (at_ (dma 3 0 0) dregs) [(0x1001, 8), (0x1040, 9)]
theorem wit_dmaZero : Ready .dmaZero (dma 3 0 0) sDzero ∧ dmaB sDzero .dmaZero (dma 3 0 0) = true ∧
    Memory.rd (moved sDzero .dmaZero (dma 3 0 0)).mem 0x1001 = 0 ∧ Memory.rd (moved sDzero .dmaZero (dma 3 0 0)).mem 0x1040 = 9 :=
  ⟨ready_of (by decide +kernel), by decide +kernel, by decide +kernel⟩
/-- An ungranted range raises FENCE and moves nothing (R88). -/
theorem test_dma_fence : after (exec (.dmaLoad 0 (dma 0 0x200 0) env0) (at_ (dma 0 0x200 0) dregs)) (fun t =>
    decide ((getCore t 0).seq.phase = .stopped 0x04 0 ∧ (getCore t 0).seq.dmaQ = [])) = true := by decide +kernel

/-- What has been presented to the banks and lands in its cycle. -/
def landed (t : State) : List (Nat × Byte) := (getCore t 0).seq.landing.flatMap (·.2)
/-- The two rows move in the beats of two cycles, and the command is complete. -/
theorem wit_dmaComplete : after (exec (.dmaComplete ⟨0, 6, ⟨[⟨0, false, 0⟩, ⟨1, false, 0⟩], []⟩⟩) (going sDload .dmaLoad (dma 0 0x200 0))) (fun t =>
    idleB t 0 && decide ((0x201, 8#8) ∈ landed t ∧ (0x240, 9#8) ∈ landed t)) = true := by decide +kernel
/-- A command with nothing left to move leaves its queue. -/
theorem wit_dmaComplete_alone : let q := { head_ (going sDload .dmaLoad (dma 0 0x200 0)) .dmaLoad with uRow := 2 }
    let s := modSeq (going sDload .dmaLoad (dma 0 0x200 0)) 0 fun x => { x with dmaQ := [q] }
    devRuns s = true ∧ onlyB s 0 q = true ∧ (shapeOf q).1 ≤ q.uRow ∧ framesWaiting s 0 q.n = false ∧ entryFailed s 0 q.n = false ∧
    after (exec (.dmaComplete ⟨0, 0, run0⟩) s) (fun t => idleB t 0) = true := by decide +kernel
theorem wit_shadowDrainEnd : let s := eng_ 1 [] fun g => { g with mx := { g.mx with shState := 3, shFmt := 2 } }
    atRest (getCore s 0).seq = true ∧ (getCore s 0).seq.due = none ∧ clockOf s 0 ≤ (getCore s 0).seq.drainAt ∧
    after (exec (.shadowDrainEnd ⟨0, run0⟩) s) (fun t => decide ((getCore t 0).eng.mx.shState = 0 ∧ (getCore t 0).eng.mx.shFmt = 0)) = true := by decide +kernel

/-! ### Matrix engine (06) -/

/-- The active slot is FULL (Table 6-4) with a W4 tile of one row. -/
def tiled (w : CmdWord) : State := eng_ w [] fun g => { g with mx := { g.mx with actState := 1, actFmt := 2, actCodes := [0x21] } }
def mm (v : Nat) (noin : Nat) : CmdWord := wd 0x10 v [(32, 0x200), (52, 16), (66, 2), (69, noin), (70, 5)]
/-- The command runs: its one row is presented in cycle 0 and written 278 cycles later (R137, R146). -/
def mmB (k : QKind) (w : CmdWord) : Bool :=
  let s := tiled w
  runsB s k w && !tileStateErr (getCore s 0).eng.mx false 0 && decide (freeAt [] ≤ (getCore s 0).seq.cycle) &&
  decide ((head_ (going s k w) k).sched = [0] ∧ (head_ (going s k w) k).outs = [278] ∧ (head_ (going s k w) k).endAt = some 278)
theorem wit_matmulPlain : Ready .mmPlain (mm 0 1) (tiled (mm 0 1)) ∧ mmB .matmulPlain (mm 0 1) = true ∧
    after (exec (.matmulPlain 0 (mm 0 1) env0) (tiled (mm 0 1))) (fun t => decide ((head_ t .matmulPlain).started = true)) = true :=
  ⟨ready_of (by decide +kernel), by decide +kernel, by decide +kernel⟩
theorem wit_matmulAccum : Ready .mmAccum (mm 1 0) (tiled (mm 1 0)) ∧ mmB .matmulAccum (mm 1 0) = true :=
  ⟨ready_of (by decide +kernel), by decide +kernel⟩
theorem wit_matmulDecay : Ready .mmDecay (mm 2 1) (tiled (mm 2 1)) ∧ memberErr (tiled (mm 2 1)) 0 0 1 = false ∧ mmB .matmulDecay (mm 2 1) = true :=
  ⟨ready_of (by decide +kernel), by decide +kernel, by decide +kernel⟩
theorem wit_matmulRotate : Ready .mmRotate (mm 3 1) (tiled (mm 3 1)) ∧ mmB .matmulRotate (mm 3 1) = true :=
  ⟨ready_of (by decide +kernel), by decide +kernel⟩
/-- No tile is in the active slot: TILE_STATE (R132). -/
theorem test_matmul_empty : stops (exec (.matmulPlain 0 (mm 0 1) env0) (at_ (mm 0 1) [])) 0x15 = true := by decide +kernel
/-- PLAIN without input writes zeros to row 5 at its end, and nothing earlier (R136). -/
theorem wit_matmulComplete : let s := eng_ (mm 0 1) [] fun g => { g with mx := { g.mx with actState := 1, actFmt := 2, actCodes := [0x21] }, acc := [(1281, 4)] }
    let t := modSeq (going s .matmulPlain (mm 0 1)) 0 fun q => { q with cycle := 275 }
    (head_ t .matmulPlain).endAt = some 278 ∧ isAdrain .matmulPlain = false ∧
    after (exec (.matmulComplete ⟨0, run0⟩) t) (fun u => idleB u 0 && decide (accAt u 1281 = 0 ∧ clockOf u 0 = 279)) = true := by decide +kernel
/-- PLAIN writes and ACCUM adds (R136). -/
theorem test_accum : let m : RowUpdate := ⟨1, 5, false, List.replicate 3 7, [], 0, 0, 0, (0, 0)⟩
    let g : Engines := { Engines.reset with acc := [(5 * 256 + 1, 4)] }
    accI (accRowUpd g m g) 5 1 = 11 ∧ accI (accRowUpd g { m with mode := 0 } g) 5 1 = 7 := by decide +kernel
/-- A tile whose rows have 256 codes. -/
theorem wit_tileRows : ∀ r ∈ [List.replicate 256 3], r.length = 256 := fun _ h => by rw [List.mem_singleton.mp h, List.length_replicate]

def wWload : CmdWord := wd 0x11 0 [(32, 0x200), (52, 2)]
def sWload : State := sp_ wWload [] [(0x201, 0x35)]
theorem wit_wload : Ready .wload wWload sWload ∧ runsB sWload .wload wWload = true ∧ rangeErr (getCore sWload 0).spTask ⟨false, 0x200, 128⟩ = none ∧
    (getCore sWload 0).eng.mx.shState ≠ 3 ∧ arrayBusy (getCore sWload 0) (entryOf sWload 0 .wload wWload) = false ∧
    after (exec (.wload 0 wWload env0) sWload) (fun t => decide ((getCore t 0).eng.mx.shState = 1)) = true :=
  ⟨ready_of (by decide +kernel), by decide +kernel⟩
/-- The tile is usable when the command completes (R133). -/
theorem wit_wloadComplete : after (exec (.wloadComplete ⟨0, run0⟩) (going sWload .wload wWload)) (fun t =>
    idleB t 0 && decide ((getCore t 0).eng.mx.shState = 2 ∧ (getCore t 0).eng.mx.shCodes[1]? = some 0x35)) = true := by decide +kernel

/-- One row of 64 columns at s[1], int32 elements. -/
def adr (v : Nat) : CmdWord := wd 0x12 v [(32, 1), (37, 2), (57, 1), (69, 16)]
def sDrain : State := granted (eng_ (adr 0) dregs fun g => { g with acc := [(513, 0x1FFFFFFFF#40), (514, 3)] }) []
def adrB (s : State) (k : QKind) (w : CmdWord) (store : Bool) : Bool :=
  runsB s k w && !gaBad 0x1000 && decide (gaDev 0x1000 = s.fuses.devid.toNat ∧ localErr s 0 store (adrainRanges w 0x1000) = none ∧
    downErr s (adrainRanges w 0x1000) = none)
theorem wit_drain : Ready .drain (adr 0) sDrain ∧ adrB sDrain .adrainDrain (adr 0) true = true ∧
    (let u := unitEffect (going sDrain .adrainDrain (adr 0)) 0 (head_ (going sDrain .adrainDrain (adr 0)) .adrainDrain)
     Memory.rds u.mem 0x1003 6 = [0, 0xFF, 0xFF, 0xFF, 0x7F, 3]) ∧
    after (exec (.adrainDrain 0 (adr 0) env0) sDrain) (fun t => decide ((head_ t .adrainDrain).started = true)) = true :=
  ⟨ready_of (by decide +kernel), by decide +kernel⟩
def sFill : State := granted (at_ (adr 1) dregs) [(0x1004, 0xFF), (0x1005, 0xFF), (0x1006, 0xFF), (0x1007, 0xFF)]
theorem wit_fill : Ready .fill (adr 1) sFill ∧ adrB sFill .adrainFill (adr 1) false = true ∧
    (let u := unitEffect (going sFill .adrainFill (adr 1)) 0 (head_ (going sFill .adrainFill (adr 1)) .adrainFill)
     accAt u 513 = 0xFFFFFFFFFF ∧ accAt u 512 = 0) :=
  ⟨ready_of (by decide +kernel), by decide +kernel⟩
theorem wit_adrainComplete : after (exec (.adrainComplete ⟨0, 1, ⟨[⟨0, true, 0⟩], []⟩⟩) (going sFill .adrainFill (adr 1))) (fun t =>
    idleB t 0 && decide (accAt t 513 = 0xFFFFFFFFFF)) = true := by decide +kernel


/-! ### Tables -/

def cfg (v slot len : Nat) : CmdWord := wd 0x06 v [(32, 0x200), (52, slot), (60, len)]
/-- A table load that is ready to issue and runs; what it leaves when it completes. -/
def cfgB (s : State) (k : QKind) (w : CmdWord) : Bool :=
  runsB s k w && decide (rangesErr (getCore s 0).spTask [⟨false, 0x200, wfld w 71 60 * 64⟩] = none)
def cfgEnds (i : Instr) (s : State) (k : QKind) (w : CmdWord) (p : Engines → Bool) : Bool :=
  after (exec i (going s k w)) fun t => idleB t 0 && p (getCore t 0).eng
theorem wit_cfgFret : let w := cfg 1 2 12
    Ready .cfgFret w (sp_ w [] [(0x203, 5)]) ∧ cfgB (sp_ w [] [(0x203, 5)]) .cfgFret w = true ∧
    cfgEnds (.matmulComplete ⟨0, run0⟩) (sp_ w [] [(0x203, 5)]) .cfgFret w (fun g => decide (tget 0 g.fret 513 = 5)) = true :=
  ⟨ready_of (by decide +kernel), by decide +kernel⟩
theorem wit_cfgCodebook : let w := cfg 2 2 1
    Ready .cfgCodebook w (sp_ w [] [(0x202, 5)]) ∧ cfgB (sp_ w [] [(0x202, 5)]) .cfgCodebook w = true ∧
    cfgEnds (.matmulComplete ⟨0, run0⟩) (sp_ w [] [(0x202, 5)]) .cfgCodebook w (fun g => decide (tget 0 g.codebooks 33 = 5)) = true :=
  ⟨ready_of (by decide +kernel), by decide +kernel⟩
theorem wit_cfgDecay : let w := cfg 3 1 12
    Ready .cfgDecay w (sp_ w [] [(0x203, 5)]) ∧ cfgB (sp_ w [] [(0x203, 5)]) .cfgDecay w = true :=
  ⟨ready_of (by decide +kernel), by decide +kernel⟩
theorem leNat_zeros (n : Nat) : leNat (List.replicate n 0#8) = 0 := by
  induction n <;> simp_all [leNat, List.replicate_succ]
/-- A rescale table of zeros is sound. -/
theorem wit_cfgRescale : let w := cfg 4 3 33
    Ready .cfgRescale w (at_ w []) ∧ cfgB (at_ w []) .cfgRescale w = true ∧ rescaleBad (List.replicate 2112 0#8) = false := by
  have h : midsOk (midsOf 0) = true := by decide +kernel
  exact ⟨ready_of (by decide +kernel), by decide +kernel, by
    simp [rescaleBad, List.take_replicate, List.drop_replicate, leNat_zeros, h, nfld, -List.reduceReplicate]⟩
theorem wit_cfgTbl : let w := cfg 5 3 9
    Ready .cfgTbl w (sp_ w [] [(0x200, 1)]) ∧ cfgB (sp_ w [] [(0x200, 1)]) .cfgTbl w = true ∧
    cfgEnds (.vchainComplete ⟨0, run0⟩) (sp_ w [] [(0x200, 1)]) .cfgTbl w (fun g => decide ((tget .reset g.tbls 3).mode = 1)) = true :=
  ⟨ready_of (by decide +kernel), by decide +kernel⟩
set_option maxRecDepth 100000 in
/-- A record with no code is valid; its fingerprint is 0 (R237, R238). -/
theorem wit_cfgCzLoad : let w := cfg 6 2 5
    Ready .cfgCzLoad w (sp_ w [] [(0x200, 3)]) ∧ cfgB (sp_ w [] [(0x200, 3)]) .cfgCzLoad w = true ∧
    cfgEnds (.dmaComplete ⟨0, 0, run0⟩) (sp_ w [] [(0x200, 3)]) .cfgCzLoad w (fun g =>
      decide ((tget .reset g.czSlots 2).valid = true ∧ (tget .reset g.czSlots 2).fmt = 3)) = true :=
  ⟨ready_of (by decide +kernel), by decide +kernel⟩
/-- A build of 32 BF16 elements that only counts (bit 7 of slot), and one that ends (R248). -/
def wBuild (more : Nat) : CmdWord := wd 0x06 6 [(32, 0x200), (52, 2), (55, 1), (56, 1), (59, more), (60, 1)]
set_option maxRecDepth 100000 in
theorem wit_cfgCzBuild : Ready .cfgCzBuild (wBuild 1) (at_ (wBuild 1) []) ∧ runsB (at_ (wBuild 1) []) .cfgCzBuild (wBuild 1) = true ∧
    (tget .reset (getCore (at_ (wBuild 1) []) 0).eng.czSlots 2).count = 0 ∧
    cfgEnds (.dmaComplete ⟨0, 0, run0⟩) (at_ (wBuild 1) []) .cfgCzBuild (wBuild 1) (fun g => decide ((g.hist.map (·.2)).sum = 32)) = true :=
  ⟨ready_of (by decide +kernel), by decide +kernel⟩

/-! ### Vector engine, carried state, quantisation (07 to 09) -/

/-- A chain of one stage: stream A added to itself, F32 in and out (Tables 7-1 to 7-3). -/
def chain0 : List W64 := [0x20000, 0x120, 0, 0, 0, 0, 0, 0, 0]
def chainBytes : List (Nat × Byte) := [(0x202, 2), (0x208, 0x20), (0x209, 1)]
def wVdLoad : CmdWord := wd 0x21 0 [(32, 0x200), (52, 3)]
theorem wit_vdLoad : Ready .vdLoad wVdLoad (sp_ wVdLoad [] chainBytes) ∧ runsB (sp_ wVdLoad [] chainBytes) .vdescLoad wVdLoad = true ∧
    rangeErr (getCore (sp_ wVdLoad [] chainBytes) 0).spTask ⟨false, 0x200, 72⟩ = none ∧ descBad chain0 = false ∧
    cfgEnds (.vchainComplete ⟨0, run0⟩) (sp_ wVdLoad [] chainBytes) .vdescLoad wVdLoad (fun g =>
      decide ((tget .reset g.descs 3).valid = true ∧ (tget .reset g.descs 3).words = chain0)) = true :=
  ⟨ready_of (by decide +kernel), by decide +kernel⟩
def wSetvl (v : Nat) : CmdWord := wd 0x21 1 [(38, v)]
theorem wit_vdSetvl : Ready .vdSetvl (wSetvl 256) (at_ (wSetvl 256) []) ∧
    after (exec (.vdescSetvl 0 (wSetvl 256) env0) (at_ (wSetvl 256) [])) (fun t => idleB t 0 && decide ((getCore t 0).eng.vl = 256)) = true ∧
    stops (exec (.vdescSetvl 0 (wd 0x21 1 [(32, 1), (33, 2)]) env0) (at_ (wd 0x21 1 [(32, 1), (33, 2)]) [(2, 257)])) cVL_RANGE = true :=
  ⟨ready_of (by decide +kernel), by decide +kernel⟩
def wStats : CmdWord := wd 0x21 2 [(32, 0x200), (52, 3), (56, 1)]
def sStats : State := eng_ wStats [] fun g => { g with descs := [(3, { DescSlot.reset with sat := 0x01020304 })] }
theorem wit_vdStats : Ready .vdStats wStats sStats ∧ runsB sStats .vdescStats wStats = true ∧
    rangeErr (getCore sStats 0).spTask ⟨true, 0x200, 32⟩ = none ∧
    after (exec (.vchainComplete ⟨0, run0⟩) (going sStats .vdescStats wStats)) (fun t => idleB t 0 &&
      decide (spAt (landAll t 0) 0x204 = 4 ∧ spAt (landAll t 0) 0x207 = 1 ∧ (dslot (getCore t 0) 3).sat = 0)) = true :=
  ⟨ready_of (by decide +kernel), by decide +kernel⟩

/-- VCHAIN of slot 3 with stream A at s[1] and the output at s[2]; 1.5 + 1.5 = 3. -/
def wVchain : CmdWord := wd 0x20 0 [(32, 3), (36, 1), (46, 2)]
def sVchain (vl : BitVec 9) : State := eng_ wVchain [(1, 0x400), (2, 0x800)] fun g =>
  { g with vl := vl, descs := [(3, { DescSlot.reset with valid := true, words := chain0 })], sp := [(0x402, 0xC0), (0x403, 0x3F)] }
theorem wit_vchain : Ready .vchain wVchain (sVchain 1) ∧ runsB (sVchain 1) .vchain wVchain = true ∧
    chainErr (sVchain 1) 0 (entryOf (sVchain 1) 0 .vchain wVchain) (descOf chain0) 1 1 = none ∧ (descOf chain0).redOp = 0 ∧
    after (exec (.vchainComplete ⟨0, run0⟩) (going (sVchain 1) .vchain wVchain)) (fun t => idleB t 0 &&
      decide (Memory.rds (getCore (landAll t 0) 0).eng.sp 0x800 5 = [0, 0, 0x40, 0x40, 0])) = true :=
  ⟨ready_of (by decide +kernel), by decide +kernel⟩
theorem wit_vchain_vl0 : Ready .vchain wVchain (sVchain 0) ∧
    after (exec (.vchain 0 wVchain env0) (sVchain 0)) (fun t => idleB t 0 && decide ((getCore t 0).eng = (getCore (sVchain 0) 0).eng)) = true :=
  ⟨ready_of (by decide +kernel), by decide +kernel⟩

/-- A bundle of one member whose block is at page 2. -/
def member0 : Member := ⟨9, 0, true, false, 2, 0, 0, 0, 0, 0, 0, 0⟩
def bundle0 : Bundle := ⟨1, 0, [member0], false, 0x10000⟩
def bundled (s : State) : State := { s with parts := [(0, { part0 with task := some { task0 with bundle := some bundle0 } })] }
def st_ (w : CmdWord) : State :=
  granted (bundled (with_ w [] fun x => { x with stImage := ⟨1, 2, 4, 4, false⟩, eng := { x.eng with acc := [(1024, 0x300#40)], sp := [(0x201, 6)] } }))
    [(0x3001, 0xFF), (0x3000, 0x02), (0x4001, 7)]
def unit_ (s : State) (k : QKind) (w : CmdWord) : State := unitEffect (going s k w) 0 (head_ (going s k w) k)
/-- LOAD of 64 columns from member 0's committed generation (1) into row 4, S16 with a spill shift of 8; SAVE the other way. -/
def wStio (v : Nat) : CmdWord := wd 0x30 v [(74, 4), (105, 8)]
theorem wit_stLoad : Ready .stLoad (wStio 0) (st_ (wStio 0)) ∧ runsB (st_ (wStio 0)) .stLoad (wStio 0) = true ∧
    (stCheck (st_ (wStio 0)) 0 (entryOf (st_ (wStio 0)) 0 .stLoad (wStio 0)) false (·.gen)).toOption = some [member0] ∧
    memberAt (st_ (wStio 0)) 0 0 0 = some member0 ∧
    accAt (unit_ (st_ (wStio 0)) .stLoad (wStio 0)) 1024 = 0xFFFFFF0200 ∧ accAt (unit_ (st_ (wStio 0)) .stLoad (wStio 0)) 1025 = 0 :=
  ⟨ready_of (by decide +kernel), by decide +kernel⟩
theorem wit_stSave : Ready .stSave (wStio 1) (st_ (wStio 1)) ∧ runsB (st_ (wStio 1)) .stSave (wStio 1) = true ∧
    Memory.rds (unit_ (st_ (wStio 1)) .stSave (wStio 1)).mem 0x2000 3 = [3, 0, 0] ∧ Memory.rd (unit_ (st_ (wStio 1)) .stSave (wStio 1)).mem 0x3001 = 0xFF :=
  ⟨ready_of (by decide +kernel), by decide +kernel⟩
/-- One frame of 64 bytes of the window ring: the first frame of the chunk (rel = 0) is slot 0 of 4, after both generations. -/
def wWin (v : Nat) : CmdWord := wd 0x30 v [(32, 0x200), (74, 1)]
def winUnitB (k : QKind) (w : CmdWord) : Bool :=
  freshB (st_ w) k w && ((winUnit (going (st_ w) k w) 0 (head_ (going (st_ w) k w) k) 0 0).map (·.1) == some member0)
theorem wit_stWread : Ready .stWread (wWin 2) (st_ (wWin 2)) ∧ runsB (st_ (wWin 2)) .stWread (wWin 2) = true ∧
    stMembers (st_ (wWin 2)) 0 0 1 = some [member0] ∧ winUnitB .stWread (wWin 2) = true ∧
    spAt (moved (st_ (wWin 2)) .stWread (wWin 2)) 0x201 = 7 :=
  ⟨ready_of (by decide +kernel), by decide +kernel⟩
theorem wit_stWwrite : Ready .stWwrite (wWin 3) (st_ (wWin 3)) ∧ runsB (st_ (wWin 3)) .stWwrite (wWin 3) = true ∧ winUnitB .stWwrite (wWin 3) = true ∧
    Memory.rd (moved (st_ (wWin 3)) .stWwrite (wWin 3)).mem 0x4001 = 6 :=
  ⟨ready_of (by decide +kernel), by decide +kernel⟩

/-- SPREAD of one row of 16 elements, sign vector of zeros: a Hadamard transform of a single 1 is constant (R211). -/
def wSpread (v : Nat) : CmdWord := wd 0x31 v [(32, 0x200), (52, 0x800), (72, 0x400)]
def sSpread (v : Nat) : State := eng_ (wSpread v) [] fun g => { g with vl := 16, sp := [(0x202, 0x80), (0x203, 0x3F)] }
def spreads (k : QKind) (v : Nat) : Bool :=
  after (exec (.vchainComplete ⟨0, run0⟩) (going (sSpread v) k (wSpread v))) fun t => idleB t 0 &&
    decide (spAt (landAll t 0) 0x83F = 0x3E ∧ spAt (landAll t 0) 0x83E = 0x80 ∧ spAt (landAll t 0) 0x843 = 0)
theorem wit_spreadFwd : Ready .spreadFwd (wSpread 0) (sSpread 0) ∧ runsB (sSpread 0) .spreadFwd (wSpread 0) = true ∧ spreads .spreadFwd 0 = true :=
  ⟨ready_of (by decide +kernel), by decide +kernel⟩
theorem wit_spreadInv : Ready .spreadInv (wSpread 1) (sSpread 1) ∧ runsB (sSpread 1) .spreadInv (wSpread 1) = true ∧ spreads .spreadInv 1 = true :=
  ⟨ready_of (by decide +kernel), by decide +kernel⟩

/-- SCAN of one element, −1.5: the record holds its magnitude and the count. -/
def wScan : CmdWord := wd 0x32 0 [(32, 0x200), (91, 0x800)]
def sScan : State := eng_ wScan [] fun g => { g with vl := 1, sp := [(0x202, 0xC0), (0x203, 0xBF)] }
theorem wit_scan : Ready .scan wScan sScan ∧ runsB sScan .scan wScan = true ∧
    after (exec (.vchainComplete ⟨0, run0⟩) (going sScan .scan wScan)) (fun t => idleB t 0 &&
      decide (Memory.rds (getCore (landAll t 0) 0).eng.sp 0x802 3 = [0xC0, 0x3F, 1])) = true :=
  ⟨ready_of (by decide +kernel), by decide +kernel⟩
/-- MERGE of two records that agree: counts add, the greater magnitude stays (R202). -/
def wMerge : CmdWord := wd 0x32 1 [(32, 0x200), (52, 1), (59, 0x800)]
def sMerge : State := sp_ wMerge [] [(0x203, 0x3F), (0x204, 3), (0x283, 0x40), (0x284, 4)]
theorem wit_merge : Ready .merge wMerge sMerge ∧ runsB sMerge .merge wMerge = true ∧
    after (exec (.vchainComplete ⟨0, run0⟩) (going sMerge .merge wMerge)) (fun t => idleB t 0 &&
      decide (Memory.rds (getCore (landAll t 0) 0).eng.sp 0x803 2 = [0x40, 7])) = true :=
  ⟨ready_of (by decide +kernel), by decide +kernel⟩
/-- PICK of a record without elements takes the anchor (R203). -/
def wPick : CmdWord := wd 0x32 2 [(32, 0x200), (52, 6)]
theorem wit_pick : Ready .pick wPick (sp_ wPick [] [(0x20C, 0xFB)]) ∧ runsB (sp_ wPick [] [(0x20C, 0xFB)]) .pick wPick = true ∧
    after (exec (.vchainComplete ⟨0, run0⟩) (going (sp_ wPick [] [(0x20C, 0xFB)]) .pick wPick)) (fun t => idleB t 0 &&
      decide (Memory.rds (getCore (landAll t 0) 0).eng.sp 0x210 2 = [0xFB, 1] ∧ tget 0 (getCore t 0).eng.peg 6 = 0xFB)) = true :=
  ⟨ready_of (by decide +kernel), by decide +kernel⟩


/-! ### Registers of a core, windows -/

/-- Boot has ended with step 6. -/
def sBooted (f : MonSt → MonSt) : State := { up with mon := f { up.mon with step := 6 } }

/-- SP_TASK of base group 1, bound 0x40, no drone; and one past the drone region. -/
theorem wit_spTask : taskRuns up 0 = false ∧ rtRuns up = true ∧ spTaskOk 0 (spTaskOf 0x201) = true ∧ spTaskOk 0 (spTaskOf 0x7FF) = false ∧
    after (exec (.spTaskWrite 0 0x201) up) (fun t => decide ((getCore t 0).spTask = ⟨1, 0x40, 0, 0, false⟩)) = true ∧
    after (exec (.spTaskWrite 0 0x7FF) up) (fun t => decide ((getCore t 0).spTask = { SpTask.reset with cfgRej := true })) = true := by decide +kernel
/-- ST_IMAGE: gen_size 1, fe 2, wcap 4, blk_size 3 is taken; with blk_size 2 it is not (R177). -/
def stv (blk : Nat) : W64 := BitVec.ofNat 64 (1 + 2 * 2 ^ 20 + 4 * 2 ^ 27 + blk * 2 ^ 39)
theorem wit_stImage : rtRuns up = true ∧ taskRuns up 5 = false ∧
    after (exec (.stImageWrite 5 (stv 3)) up) (fun t => decide ((getCore t 5).stImage = ⟨1, 2, 4, 3, false⟩)) = true ∧
    after (exec (.stImageWrite 5 (stv 2)) up) (fun t => decide ((getCore t 5).stImage = { StImage.reset with cfgRej := true })) = true ∧
    after (exec (.stImageWrite 5 0) up) (fun t => decide ((getCore t 5).stImage = .reset)) = true := by decide +kernel
/-- Marking group 7 zeroes it and keeps group 6; the invalid value changes nothing (R117). -/
def sDrone : State := { up with cores := [(0, { CoreSt.reset with eng := { Engines.reset with sp := [(0xDFFFF, 1), (0xE0000, 2)] } })] }
theorem wit_droneMark : devRuns sDrone = true ∧ partOfCore sDrone 0 = none ∧
    after (exec (.droneMark 0 1) sDrone) (fun t => decide ((getCore t 0).drone = 1 ∧ (getCore t 0).eng.sp = [(0xDFFFF, 1)])) = true ∧
    after (exec (.droneMark 0 3) sDrone) (fun t => decide (t.cores = sDrone.cores ∧ t.mon.ring = [⟨opDRONE, true⟩])) = true := by decide +kernel
/-- A running task, and a working region that reaches the new drone region, keep SP_DRONE. -/
theorem wit_droneMark_not : after (exec (.droneMark 0 1) (at_ 1 [])) (fun t => decide (t.cores = (at_ 1 []).cores)) = true ∧
    (let s := { up with cores := [(0, { CoreSt.reset with spTask := ⟨0, 256, 0, 0, false⟩ })] }; after (exec (.droneMark 0 1) s) (fun t => decide (t.cores = s.cores)) = true) := by decide +kernel
/-- The bounds of the working region, the drone window and what lies between (R112). -/
theorem wit_xlat : let r : SpTask := ⟨1, 128, 0xE0, 12, false⟩
    xlat r 0x7FFFF = some 0x9FFFF ∧ xlat r 0x80000 = none ∧ xlat r 0xF3FFF = none ∧ xlat r 0xF4000 = some 0xE0000 ∧ xlat r 0x100000 = none ∧
    rangeErr r ⟨false, 0x7FFFF, 1⟩ = none ∧ rangeErr r ⟨false, 0x7FFFF, 2⟩ = some 0x0F ∧ rangeErr r ⟨true, 0xF4000, 1⟩ = some 0x10 := by decide
theorem wit_window : rtRuns up = true ∧ taskRuns (at_ 1 []) 0 = true ∧
    after (exec (.firmwareWindowAccess 0 0xFFFFE [7, 8] ⟨true, []⟩) up) (fun t => decide (Memory.rd (getCore t 0).eng.sp 0xFFFFF = 8)) = true ∧
    gives (exec (.firmwareWindowAccess 0 0 [7] ⟨false, []⟩) up) up = true ∧ overlaps 0x45 4 (rowAddr ⟨1, 0⟩) 64 = true ∧
    after (exec (.firmwareWindowAccess 0 0x45 [0, 0, 0, 0] ⟨false, [⟨1, 0⟩]⟩) up) (fun t => decide (tget 0 t.tele.corrected 0 = 1 ∧ t.cores = up.cores)) = true ∧
    after (exec (.firmwareWindowAccess 0 4 [7] ⟨true, []⟩) (at_ 1 [])) (fun t => decide ((getCore t 0).winWait = [⟨4, [7], true, []⟩] ∧ (getCore t 0).eng.sp = [])) = true := by
  decide +kernel

/-! ### Register writes (Tables 3-6, 10-7, 14-8, 16-2, 18-9) -/

theorem wit_regs_host : hostReaches up 0 = true ∧
    after (exec (.registerWrite (.mbIrqMod 0) 0x2003E8) up) (fun t => decide ((getFn t 0).holdoff = 1000 ∧ (getFn t 0).count = 512)) = true ∧
    after (exec (.registerWrite (.mbIrqMod 0) 0x2003E9) up) (fun t => decide ((getFn t 0).holdoff = 20 ∧ (getFn t 0).count = 16)) = true ∧
    after (exec (.registerWrite (.msixMask 0 3) 1) up) (fun t => decide ((getVec (getFn t 0) 3).masked = true)) = true ∧ vecOk 0 3 = true := by decide +kernel
theorem wit_regs_w1c : let s := { up with funcs := [(0, { getFn up 0 with badWrite := true, lost := true })] }
    after (exec (.registerWrite (.mbStat 0) 1) s) (fun t => decide ((getFn t 0).badWrite = false ∧ (getFn t 0).lost = true)) = true ∧
    (let s := { up with sbtm := { SbTmSt.reset with nonfinite := 0xFF, clip := 0xF0 } }
     after (exec (.registerWrite .sbNonfinite 0x0F) s) (fun t => decide (t.sbtm.nonfinite = 0xF0)) = true ∧
     after (exec (.registerWrite .sbClip 0x10) s) (fun t => decide (t.sbtm.clip = 0xE0)) = true) ∧
    (let s := { up with cores := [(0, { CoreSt.reset with conflict := { SpConflict.reset with valid := true } })] }
     after (exec (.registerWrite (.spConflict 0) 1) s) (fun t => decide ((getCore t 0).conflict.valid = false)) = true) := by decide +kernel
theorem wit_regs_core : after (exec (.registerWrite (.bwJobKey 2) 77) up) (fun t => decide ((getCore t 2).bwKey = 77)) = true ∧
    after (exec (.registerWrite (.bwJobStep 2) 0x1F0000002) up) (fun t => decide ((getCore t 2).bwStep = 2)) = true ∧
    after (exec (.registerWrite (.qzPeg 2 1) 0x08000000000000F1) up) (fun t => decide (tget 0 (getCore t 2).eng.peg 8 = 0xF1 ∧ tget 0 (getCore t 2).eng.peg 15 = 8)) = true := by
  decide +kernel
/-- 250 W with a hysteresis of 50 W is taken, 251 W with 51 W is not. -/
theorem wit_regs_power : after (exec (.registerWrite .pwCap 0x3200FA) up) (fun t => decide (t.pw.capWatts = 250 ∧ t.pw.capHyst = 50)) = true ∧
    after (exec (.registerWrite .pwCap 0x3300FB) up) (fun t => decide (t.pw = up.pw)) = true ∧
    after (exec (.registerWrite .pwCtl 10000) up) (fun t => decide (t.pw.c2Delay = 10000)) = true ∧
    after (exec (.registerWrite .pwCtl 10001) up) (fun t => decide (t.pw.c2Delay = 50)) = true := by decide +kernel
theorem wit_regs_bridge : (∀ n : PortNo, (getPort up n).up = false) ∧
    after (exec (.registerWrite .brCfg 0x21F51234) up) (fun t => decide (t.br.ethertype = 0x1234 ∧ t.br.retryUs = 0xF5 ∧ t.br.retryMax = 0x21 ∧ t.br.syncEn = false)) = true ∧
    after (exec (.registerWrite .brCfg 0x100005678) up) (fun t => decide (t.br.ethertype = 0x5678 ∧ t.br.retryUs = up.br.retryUs ∧ t.br.retryMax = up.br.retryMax ∧ t.br.syncEn = true)) = true ∧
    gives (exec (.registerWrite .readOnly 5) up) up = true := by decide +kernel
/-- Words of the diagnostic window and of the register blocks; a request that is not one of the four leaves the monitor free. -/
theorem wit_regs_window : hostReaches up 0 = true ∧ monServes (sBooted id) = true ∧ (sBooted id).mon.reqBusy = false ∧
    after (exec (.registerWrite (.smFatal 7) 5) up) (fun t => decide (t.mon.fatal = 5#512 <<< 448)) = true ∧
    after (exec (.registerWrite .smReq 1) (sBooted id)) (fun t => decide (t.mon.reqOp = 1 ∧ t.mon.reqBusy = true)) = true ∧
    after (exec (.registerWrite .smReq 5) (sBooted id)) (fun t => decide (t.mon.reqOp = 5 ∧ t.mon.reqBusy = false)) = true ∧
    (let s := { sBooted id with mon := { (sBooted id).mon with reqBusy := true } }
     after (exec (.registerWrite .smReq 1) s) (fun t => decide (t.mon.reqStatus = rqBUSY ∧ t.mon.reqOp = s.mon.reqOp)) = true) := by decide +kernel
theorem wit_regs_map : (1 : Func) ≠ 0 ∧ (let s := { up with funcs := (1, { Fn.reset with enabled := true, ready := true }) :: up.funcs }
      after (exec (.registerWrite (.hostAt 1 0x402) 0x2003E8) s) (fun t => decide ((getFn t 1).holdoff = 1000)) = true) ∧
    gives (exec (.registerWrite (.hostAt 1 0x2000) 1) up) up = true ∧
    after (exec (.registerWrite (.deviceAt (BitVec.ofNat 45 (0xFE0000030000 / 8))) 0x21F51234) up) (fun t => decide (t.br.ethertype = 0x1234)) = true := by decide +kernel

/-! ### Mailbox, MSI-X, BAR2 (14) -/

/-- A slot whose header has full = 1, sequence 0, the opcode of `stream.pause` and tag 9. -/
def slotV (op tag : Nat) : BitVec 512 := BitVec.ofNat 512 (1 + op * 2 ^ 16 + tag * 2 ^ 32)
def fn0 (f : Fn → Fn) : State := { up with funcs := [(0, f { Fn.reset with enabled := true, ready := true })] }
theorem wit_slotWrite : hostReaches up 0 = true ∧
    after (exec (.mailboxSlotWrite 0 3 62 [0xAB, 0xCD]) up) (fun t => decide (inSlot (getFn t 0) 3 = 0xCDAB#512 <<< 496 ∧ inSlot (getFn t 0) 4 = 0)) = true := by
  decide +kernel
theorem wit_slotWrite_bad : let s := fn0 fun x => { x with inbound := [(3, slotV 0x0112 9)] }
    (inSlot (getFn s 0) 3).getLsbD 0 = true ∧
    after (exec (.mailboxSlotWrite 0 3 0 [0]) s) (fun t => decide ((getFn t 0).badWrite = true ∧ (getFn t 0).nBad = 1 ∧ inSlot (getFn t 0) 3 = slotV 0x0112 9)) = true := by
  decide +kernel
theorem wit_slotTake : let s := fn0 fun x => { x with inbound := [(0, slotV 0x0112 9)] }
    mayTake s 0 = true ∧ (slotV 0x0112 9).extractLsb' 8 8 = (getFn s 0).expect ∧ ((slotV 0x0112 9).extractLsb' 16 16).toNat ∈ opcodes ∧
    after (exec (.mailboxSlotTake 0) s) (fun t => decide ((getFn t 0).taken.map (fun k => (k.opcode, k.tag)) = [(0x0112, 9)] ∧ (getFn t 0).inNext = 1 ∧
      (getFn t 0).expect = 1 ∧ (inSlot (getFn t 0) 0).getLsbD 0 = false)) = true := by decide +kernel
/-- Round-robin: function 0 waits for function 1, whose slot was full at function 0's last turn (R304). -/
theorem test_slotTurns : let v := slotV 0x0112 9
    let s := { up with funcs := [(0, { Fn.reset with enabled := true, ready := true, inbound := [(0, v), (1, v)] }),
      (1, { Fn.reset with enabled := true, ready := true, inbound := [(0, v)] })] }
    after (exec (.mailboxSlotTake 0) s) (fun t => !mayTake t 0 && mayTake t 1 &&
      after (exec (.mailboxSlotTake 1) t) (fun u => mayTake u 0)) = true := by decide +kernel
theorem wit_slotReturn : let s := fn0 fun x => { x with outbound := [(0, 3)] }
    hostReaches s 0 = true ∧ (getFn s 0).outQ = [] ∧
    after (exec (.outboundSlotReturn 0 0 0 [2]) s) (fun t => decide ((tget 0 (getFn t 0).outbound 0).getLsbD 0 = false)) = true := by decide +kernel
/-- 20 µs are 2,000 ticks. -/
theorem wit_msixHoldoff : let s := fn0 fun x => { x with vecs := [(3, { Vec.reset with count := 2, first := some 100000000 })] }
    devRuns s = true ∧ s.fatal = false ∧
    after (exec (.msixHoldoffExpiry 0 3 2000) s) (fun t => decide (getVec (getFn t 0) 3 = { Vec.reset with sent := 1 })) = true ∧
    gives (exec (.msixHoldoffExpiry 0 3 1999) s) s = true := by decide +kernel
theorem wit_msixUnmask : let s := fn0 fun x => { x with vecs := [(3, { Vec.reset with masked := true, pend := true })] }
    hostReaches s 0 = true ∧ vecOk 0 3 = true ∧ after (exec (.msixUnmask 0 3) s) (fun t => decide (getVec (getFn t 0) 3 = { Vec.reset with sent := 1 })) = true := by
  decide +kernel
def sBar2 : State := { granted up [(0x1005, 9)] with apertures := [(1, ⟨0, 0⟩)], parts := [(0, { part0 with jobs := [] })] }
theorem wit_bar2 : hostReaches sBar2 0 = true ∧ bar2Addr sBar2 false (2 ^ 30 + 0x1004) 2 = some 0x1004 ∧ bar2Addr sBar2 true 0x1004 2 = none ∧
    after (exec (.bar2Read (2 ^ 30 + 0x1004) 2) sBar2) (fun t => decide (t.cpl = some [0, 9])) = true ∧
    after (exec (.bar2Write (2 ^ 30 + 0x1004) [5]) sBar2) (fun t => decide (Memory.rd t.mem 0x1004 = 5)) = true ∧
    after (exec (.bar2Read 0x1004 2) sBar2) (fun t => decide (t.cpl = none ∧ (getFn t 0).nBad = 1)) = true ∧
    after (exec (.bar2Write 0x1004 [5]) sBar2) (fun t => decide (t.mem = sBar2.mem ∧ (getFn t 0).nBad = 1)) = true := by decide +kernel

/-! ### Firmware commands (15) -/

/-- A command taken from the PF with opcode, argument length and arguments. -/
def tk (op len : Nat) (l : List (Nat × Nat)) : Taken :=
  ⟨BitVec.ofNat 16 op, 9, BitVec.ofNat 6 len, false, BitVec.ofNat 448 ((l.map fun x => x.2 * 2 ^ x.1).sum)⟩
def cmd (k : Taken) (g : State → State) : State := let s := g up; { s with funcs := [(0, { getFn up 0 with taken := [k] })] }
theorem serves_of {f : Func} {op : Nat} {k : Taken} {s : State} (h : (rtRuns s && (getFn s f).ready && decide ((getFn s f).taken.head? = some k) &&
    decide (k.opcode.toNat = op)) = true) : Serves f op k s := by
  simp only [Bool.and_eq_true, decide_eq_true_eq] at h
  obtain ⟨⟨⟨h1, h2⟩, h3⟩, h4⟩ := h
  exact ⟨h1, h2, h3, h4⟩
/-- The status and result of the message that answers, in outbound slot 0 (Table 14-5). -/
def answered (t : State) (st res : Nat) : Bool := let v := (tget 0 (getFn t 0).outbound 0).toNat
  decide (nfld v 0 0 = 1 ∧ nfld v 63 48 = st ∧ nfld v 127 64 = res ∧ nfld v 47 32 = 9)

theorem wit_status0 : let k := tk 0x0120 2 []
    Serves 0 0x0120 k (cmd k id) ∧ after (exec (.statusGet 0 0) (cmd k id)) (fun t => decide ((getFn t 0).taken = [])) = true :=
  ⟨serves_of (by decide +kernel), by decide +kernel⟩
theorem wit_status1 : let k := tk 0x0120 2 [(0, 1), (8, 1)]
    Serves 0 0x0120 k (cmd k id) ∧ after (exec (.statusGet 0 0) (cmd k fun s => { s with sbtm := { s.sbtm with clip := 6 } })) (fun t =>
      answered t 0 (6 * 2 ^ 32) && decide (t.sbtm.clip = 0)) = true := ⟨serves_of (by decide +kernel), by decide +kernel⟩
theorem wit_status2 : let k := tk 0x0120 2 [(0, 2)]
    Serves 0 0x0120 k (cmd k id) ∧ after (exec (.statusGet 0 0) (cmd k id)) (fun t => answered t 0 0) = true := ⟨serves_of (by decide +kernel), by decide +kernel⟩
theorem wit_account : let k := tk 0x0121 9 [(0, 0x8000)]
    Serves 0 0x0121 k (cmd k id) ∧ argsBad k 9 [(63, 0), (68, 64), (69, 69)] = false ∧
    after (exec (.accountGet 0 0) (cmd k fun s => { s with tele := { s.tele with accounts := [(0, { Account.reset with uj := 5000, t0 := 0x0102 })] } })) (fun t =>
      decide (Memory.rd t.hostMem 0x8010 = 2 ∧ Memory.rd t.hostMem 0x8011 = 1 ∧ Memory.rd t.hostMem 0x8038 = 5)) = true :=
  ⟨serves_of (by decide +kernel), by decide +kernel, by decide +kernel⟩
theorem wit_account_device : let k := tk 0x0121 9 [(0, 0x8000), (69, 1)]
    Serves 0 0x0121 k (cmd k id) ∧ after (exec (.accountGet 0 0) (cmd k fun s => { s with tele := { s.tele with device := { s.tele.device with uj := -1 } } })) (fun t => answered t 0 (2 ^ 64 - 1) || answered t 0 0) = true :=
  ⟨serves_of (by decide +kernel), by decide +kernel⟩
theorem wit_powerCap : let k := tk 0x0230 2 [(0, 250)]
    Serves 0 0x0230 k (cmd k id) ∧ after (exec (.powerCap 0 0) (cmd k id)) (fun t => answered t 0 250 && decide (t.pw.capWatts = 250)) = true ∧
    (let k := tk 0x0230 2 [(0, 249)]; after (exec (.powerCap 0 0) (cmd k id)) (fun t => answered t 2 0 && decide (t.pw.capWatts = 500)) = true) :=
  ⟨serves_of (by decide +kernel), by decide +kernel⟩
def withPart (x : Part) (s : State) : State := { s with parts := [(0, x)] }
def partIdle : Part := { part0 with task := none, sliceJob := 0, job := 0 }
theorem wit_bar2Map : let k := tk 0x0231 16 [(0, 3), (64, 2 ^ 30)]
    Serves 0 0x0231 k (cmd k id) ∧ Passes (partChecks (cmd k (withPart partIdle)) 0 0) ∧
    after (exec (.bar2Map 0 0) (cmd k (withPart partIdle))) (fun t => answered t 0 0 && decide (t.apertures = [(3, ⟨0, 2 ^ 30⟩)])) = true ∧
    (let k := tk 0x0231 16 [(0, 3), (6, 1)]
     after (exec (.bar2Map 0 0) (cmd k fun s => { s with apertures := [(3, ⟨0, 0⟩)] })) (fun t => answered t 0 0 && decide (t.apertures = [])) = true) :=
  ⟨serves_of (by decide +kernel), passes_of (by decide +kernel), by decide +kernel⟩
theorem wit_functionConfig : let k := tk 0x0232 30 [(9, 1), (32, 100)]
    Serves 0 0x0232 k (cmd k id) ∧ fconfBad k (getFn (cmd k id) 0) = false ∧
    after (exec (.functionConfig 0 0) (cmd k id)) (fun t => answered t 0 0 && decide ((getFn t 0).delay1 = 100)) = true :=
  ⟨serves_of (by decide +kernel), by decide +kernel, by decide +kernel⟩
theorem wit_trace : let k := tk 0x0220 13 [(0, 0x1000), (64, 4096), (101, 7)]
    Serves 0 0x0220 k (cmd k id) ∧ traceBad k = false ∧
    after (exec (.traceStart 0 0) (cmd k (withPart partIdle))) (fun t => answered t 0 0 && (getPart t 0).trace.isSome) = true ∧
    (let k := tk 0x0221 1 []
     after (exec (.traceStop 0 0) (cmd k (withPart { partIdle with trace := some ⟨0, 0, 4096, 7, 0, true⟩ }))) (fun t => answered t 0 0 && (getPart t 0).trace.isNone) = true) :=
  ⟨serves_of (by decide +kernel), by decide +kernel, by decide +kernel⟩
theorem wit_schedSlice : let k := tk 0x0206 9 [(16, 1), (32, 1), (40, 1000)]
    let k0 := tk 0x0206 9 [(33, 1), (57, 500)]
    Serves 0 0x0206 k (cmd k id) ∧ sliceBad k = false ∧ sliceBad k0 = false ∧
    after (exec (.schedSlice 0 0) (cmd k (withPart { partIdle with jobs := [job0] }))) (fun t => answered t 0 0 && decide ((getPart t 0).jobs.map (·.sliceUs) = [1000])) = true ∧
    after (exec (.schedSlice 0 0) (cmd k0 (withPart partIdle))) (fun t => answered t 0 0 && decide ((getPart t 0).grace = 500)) = true :=
  ⟨serves_of (by decide +kernel), by decide +kernel, by decide +kernel, by decide +kernel⟩

/-- A model of `decl0` without programs in slot 3, owned and used by the PF. -/
def declM : ImageDecl := { decl0 with program := false, maxStep := 2, genSize := 1, fe := 1, wcap := 0, blkSize := 2 }
def model0 : Model :=
  { digest := 5, decl := declM, owner := 0, users := [0], faulted := false, loading := false, imageAt := 0x4000000000, imageSize := 64, weightsAt := [], signed := none, pegs := []
    policy := policyDefault declM, promRun := 0, lvlEpoch := 0, signVectors := [], tele := ⟨0, 0, 0, 0, [], [], 0⟩ }
def withModel (s : State) : State := { s with models := [(3, model0)] }
theorem wit_quantPolicy : let k := tk 0x0207 9 [(0, 3), (8, 1), (10, 1)]
    Serves 0 0x0207 k (cmd k withModel) ∧ policyOk 2 (policyFrom k model0.policy) = true ∧
    after (exec (.quantPolicy 0 0) (cmd k withModel)) (fun t => decide ((getModel t 3).map (fun y => (y.policy.mode, y.policy.loNum)) = some (0, 0))) = true :=
  ⟨serves_of (by decide +kernel), by decide +kernel, by decide +kernel⟩

/-! Partitions, jobs, models -/

theorem wit_partitionCreate : let k := tk 0x0201 8 [(0, 2), (37, 1), (40, 0)]
    Serves 0 0x0201 k (cmd k id) ∧ createBad k = false ∧ coursesTaken (cmd k id) 2 = false ∧
    after (exec (.partitionCreate 0 4 0) (cmd k id)) (fun t => answered t 0 4 && decide ((getPart t 4).courses = 2 ∧ (getPart t 4).grace = 20 ∧ (getCore t 4).drone = 1)) = true :=
  ⟨serves_of (by decide +kernel), by decide +kernel, by decide +kernel, by decide +kernel⟩
theorem wit_partitionDestroy : let k := tk 0x0202 1 []
    Serves 0 0x0202 k (cmd k (withPart partIdle)) ∧ partAbsent (cmd k (withPart partIdle)) 0 = false ∧
    after (exec (.partitionDestroy 0 0) (cmd k (withPart partIdle))) (fun t => answered t 0 0 && decide ((getPart t 0).valid = false)) = true ∧
    after (exec (.partitionDestroy 0 0) (cmd k (withPart { partIdle with jobs := [job0] }))) (fun t => decide ((getPart t 0).destroying = true ∧
      (getPart t 0).jobs.map (·.crashed.isSome) = [true])) = true := ⟨serves_of (by decide +kernel), by decide +kernel, by decide +kernel, by decide +kernel⟩
def place1 : PlaceChoice := ⟨2, some [0x10000], none⟩
/-- One page of weights. -/
def declW : ImageDecl := { declM with weightBytes := 100 }
theorem wit_modelPlace : let k := tk 0x0203 2 [(0, 3)]
    let s := cmd k fun s => withPart partIdle { s with models := [(3, { model0 with decl := declW })] }
    Serves 0 0x0203 k s ∧ Passes (placeChecks s 0 declW true place1) ∧ choiceOk s 0 declW true place1 = true ∧
    after (exec (.modelPlace 0 place1 0) s) (fun t => answered t 0 2 && decide ((getPart t 0).jobs.map (fun b => (b.num, b.kind)) = [(2, .placement 3)])) = true :=
  ⟨serves_of (by decide +kernel), passes_of (by decide +kernel), by decide +kernel, by decide +kernel⟩
theorem wit_jobRemove : let k := tk 0x0204 4 [(16, 1)]
    let s := cmd k (withPart { partIdle with jobs := [job0] })
    Serves 0 0x0204 k s ∧ after (exec (.jobRemove 0 0) s) (fun t => decide ((getPart t 0).jobs.map (·.crashed.isSome) = [true] ∧ t.inProgress.length = 1)) = true :=
  ⟨serves_of (by decide +kernel), by decide +kernel⟩
theorem wit_jobMove : let k := tk 0x0205 5 [(16, 1), (32, 1)]
    let s := cmd k fun s => { s with parts := [(0, { partIdle with jobs := [job0] }), (1, { partIdle with courses := 2 })] }
    Serves 0 0x0205 k s ∧ Passes (moveChecks s 1 decl0 job0) ∧ jobFree s 1 7 = true ∧
    after (exec (.jobMove 0 ⟨7, none, none⟩ 0) s) (fun t => answered t 0 7 && decide ((getPart t 0).jobs = [] ∧ (getPart t 1).jobs.map (·.num) = [7])) = true :=
  ⟨serves_of (by decide +kernel), passes_of (by decide +kernel), by decide +kernel, by decide +kernel⟩
/-! Signed objects: the base point as public key (secret 1), the one-time number 1, signatures computed outside Lean. -/

def keyG : BitVec 776 := 0x15533c2641038242118191772146460e282991f94f059ce16458ecfe290bb76252d5cf958eebb15ca4c2f920751dbe8a1eafd447e2b287efaa46d63634e026e8e810bd0cfeca7fdbe34ff17ee7a347886b3fc1b7813aa6a2ff45cf68f0641c1d04
/-- A header of version 1 with the lengths of body and certificate, and a signature with the number s that stands as given. -/
def hdrB (type owner body cert : Nat) : List Byte := leBytes 128 (1 + type * 2 ^ 8 + owner * 2 ^ 16 + body * 2 ^ 64 + cert * 2 ^ 104)
def sigB (s : Nat) : List Byte := leBytes 48 0x1eafd447e2b287efaa46d63634e026e8e810bd0cfeca7fdbe34ff17ee7a347886b3fc1b7813aa6a2ff45cf68f0641c1d ++ leBytes 48 s
/-- Objects without a body that the owner has signed: a program and a model image. -/
def objP : SignedObj := ⟨hdrB 4 1 0 0 ++ sigB 0xd048197f36dc30c7e703e9fa250723a7f23461ae8d02131aed498ddf265a2b7d1b1aece2fd98f768ec86968b5b0c2f35, keyG⟩
def objM : SignedObj := ⟨hdrB 3 1 0 0 ++ sigB 0x3d3f9c5c8f9f19da226df3711d3ff5e9a5dff0d9225da9b199ae3d989d97d1523117439cbfc25fb7d5ad6732ebf51d23, keyG⟩
/-- A deployed device with that owner. -/
def owned (s : State) : State :=
  { s with fuses := { s.fuses with prov := true, ownerBurnt := true, ownerDigest := 0xd1321676ab9fa4f8d617b614ead449a49838d2d14d6ebd93ac1e468f774e6e609c4ab3a71ef6891498cd082694d298a6 } }
def img0 : Image := ⟨objP, decl0⟩
def declS : ImageDecl :=
  { declM with complete := true, chunkMs := 40, sb := { sb0 with floorExp := 1 }, maxStep := 0, variants := [⟨1, 0, false, false, 128, 0, 100000, List.replicate 256 100000, [[1]]⟩] }
def img1 : Image := ⟨objM, declS⟩
theorem wit_programSubmit : let k := tk 0x0208 24 [(0, 0x40), (64, 224)]
    let s := cmd k fun s => owned (withPart partIdle s)
    Serves 0 0x0208 k s ∧ argsBad k 24 [(63, 0), (95, 64), (100, 96), (191, 128)] = false ∧ img0.obj.bytes.length = argF k 95 64 ∧ Passes (partChecks s 0 0) ∧
    Passes (placeChecks s 0 decl0 true ⟨2, some [0], none⟩) ∧ choiceOk s 0 decl0 true ⟨2, some [0], none⟩ = true ∧ programOk s img0 = true ∧
    programOk (cmd k (withPart partIdle)) img0 = false :=
  ⟨serves_of (by decide +kernel), by decide +kernel, by decide +kernel, passes_of (by decide +kernel), passes_of (by decide +kernel), by decide +kernel,
   by decide +kernel, by decide +kernel⟩
/-- A program whose reading from the host failed. -/
theorem test_programSubmit : let k := tk 0x0208 24 [(0, 0x40), (64, 224)]
    after (exec (.programSubmit 0 none ⟨2, some [], none⟩ 0) (cmd k (withPart partIdle))) (fun t => answered t 8 0 && decide (t.aer = [1])) = true := by decide +kernel
def load1 : LoadChoice := ⟨5, some 0x4000000000, ⟨0, none, none⟩⟩
def kLoad : Taken := tk 0x0101 14 [(0, 0x40), (64, 224), (105, 1)]
theorem wit_modelLoad : let s := cmd kLoad owned
    Serves 0 0x0101 kLoad s ∧ argsBad kLoad 14 [(63, 0), (103, 64), (104, 104), (105, 105)] = false ∧ img1.obj.bytes.length = argF kLoad 103 64 ∧
    slotOfDigest s (digestOf img1.obj) = none ∧ getModel s 5 = none ∧ anyFreeCourse s = true ∧
    spaceOk s tier1Base tier2Base 0x4000000000 (pages (imageBytes img1 false).length) = true ∧ imageOk s img1 = true ∧ imageOk up img1 = false :=
  ⟨serves_of (by decide +kernel), by decide +kernel, by decide +kernel, rfl, by decide +kernel, by decide +kernel, by decide +kernel, by decide +kernel, by decide +kernel⟩
/-- The image is resident in slot 3; and another load of it is in progress. -/
def sResident (l : List InProgress) : State :=
  cmd kLoad fun s => owned { s with models := [(3, { model0 with digest := digestOf img1.obj, decl := declS })], inProgress := l }
theorem wit_modelLoad_again : Serves 0 0x0101 kLoad (sResident []) ∧ slotOfDigest (sResident []) (digestOf img1.obj) = some 3 ∧
    getModel (sResident []) 3 = some { model0 with digest := digestOf img1.obj, decl := declS } ∧ busy (sResident []) (.model 3) = false :=
  ⟨serves_of (by decide +kernel), by simp [slotOfDigest, sResident, cmd, owned], rfl, by decide +kernel⟩
theorem wit_modelLoad_waits : let s := sResident [⟨0, 8, 0x0101, [.model 3], false, true, 3⟩]
    Serves 0 0x0101 kLoad s ∧ slotOfDigest s (digestOf img1.obj) = some 3 ∧ loadWaits s 3 = true :=
  ⟨serves_of (by decide +kernel), by simp [slotOfDigest, sResident, cmd, owned], by decide +kernel⟩
def load2 : InProgress := ⟨0, 9, 0x0101, [.model 3], false, true, 3⟩
theorem wit_modelLoadComplete : let s := { up with models := [(3, { model0 with loading := true })], inProgress := [load2] }
    rtRuns s = true ∧ s.inProgress.find? (fun r => decide (r.f = 0) && decide (r.tag = 9) && decide (r.opcode = 0x0101)) = some load2 ∧
    after (exec (.modelLoadComplete 0 9 ⟨0, none, none⟩ 0) s) (fun t => answered t 0 3 && decide ((getModel t 3).map (·.loading) = some false ∧ t.inProgress = [])) = true := by
  decide +kernel
theorem wit_modelUnload : let k := tk 0x0102 1 [(0, 3)]
    Serves 0 0x0102 k (cmd k withModel) ∧ usesModel (cmd k withModel) 0 3 = true ∧ modelHeld (cmd k withModel) 0 3 = false ∧
    after (exec (.modelUnload 0 0) (cmd k withModel)) (fun t => answered t 0 0 && decide (usesModel t 0 3 = false)) = true :=
  ⟨serves_of (by decide +kernel), by decide +kernel, by decide +kernel, by decide +kernel⟩


/-! ### Streams, soundboard (02, 03) -/

/-- 8 kHz model rate, windows of 20 ms and hops of 10 ms, 40 mel bins. -/
def sbd : SbDecl := ⟨0, 0, 19, 10, 1, 39, 0, 0, 0, 0, 0, 1⟩
/-- Signed 16-bit input at 8 kHz, no output. -/
def prof0 : Profile := ⟨0, 0, 7, 0, sbd, true, 0, 0⟩
/-- One frame per chunk; generations of one page. -/
def declT : ImageDecl := { declM with sb := sbd, chunkMs := 10, genSize := 1, blkSize := 2 }
def modelS : Model := { model0 with decl := declT }
/-- Stream 7 of the PF: block at page 0x100, inbox at 0x200000 (64 KiB), feature region at 0x300000 (32 slots). -/
def stream0 : Stream :=
  { Stream.reset with state := .active, model := 3, statePtr := 0x100, ibBase := 0x20, ibSize := 16, frBase := 0x30, obPhase := true, dclass := 0 }
/-- Services may read and write pages 0x100 to 0x3FF. -/
def grantS : BitVec 128 := BitVec.ofNat 128 (0x100 + 0x300 * 2 ^ 36 + 3 * 2 ^ 89)
def sStream (x : Stream) : State :=
  { up with models := [(3, modelS)], profiles := [(0, prof0)], streams := [(7, x)], mon := { up.mon with grants := [grantS] } }
def chunk0 : Chunk := ⟨0, 0, 4000000, false, 0, 0, []⟩

theorem wit_silentCommit : let x := { stream0 with skipSilence := true, frWr := 1, chunks := [{ chunk0 with silent := true }] }
    rtRuns (sStream x) = true ∧ isSilentChunk x = true ∧
    after (exec (.silentCommit 7 0) (sStream x)) (fun t => decide ((getStream t 7).nextSeq = 1 ∧ (getStream t 7).frRd = 1 ∧ (getStream t 7).chunks = [] ∧
      (getStream t 7).gen = false)) = true := by decide +kernel
/-- Pause delays of 2 s and 30 s. -/
def paused0 : Stream := { stream0 with state := .paused, pauseAt := some 0, delays := (1000, 1000) }
theorem wit_pauseTimer1 : mayDemote (tick (sStream paused0) 0) 7 0 1000 0x4000000000 = true ∧ mayDemote (tick (sStream { paused0 with pauseAt := some 1 }) 0) 7 0 1000 0x4000000000 = false ∧
    after (exec (.pauseTimerTier1 7 0x4000000000 0) (sStream paused0)) (fun t => decide ((getStream t 7).moving = true ∧ (getStream t 7).state = .paused ∧
      t.mig.queue ≠ [] ∧ (getStream t 7).statePtr = 0x100)) = true ∧
    after (exec (.pauseTimerTier1 7 0x4000000000 0) (sStream { paused0 with inBundle := true })) (fun t => decide ((getStream t 7).moving = false ∧
      (getStream t 7).move = some ⟨false, 0x4000000000, 0⟩ ∧ t.mig.queue = [])) = true := by decide +kernel
/-- An expander of 768 GiB in slice 0. -/
def expanded (s : State) : State := { s with pw := { s.pw with expPresent := 1, expCap := [(0, sliceSize)] } }
theorem wit_pauseTimer2 : let s := expanded (sStream { paused0 with statePtr := 0x4000000 })
    mayDemote (tick s 0) 7 1 1000 0x10000000000 = true ∧
    after (exec (.pauseTimerTier2 7 0x10000000000 0) s) (fun t => decide ((getStream t 7).moving = true ∧ t.mig.queue ≠ [])) = true := by decide +kernel

/-- A sample of −2 (R55). -/
theorem wit_sampleTake : let x := { stream0 with ibWr := 2 }
    let s := { sStream x with mem := [(0x200000, 0xFE), (0x200001, 0xFF)] }
    devRuns s = true ∧ mayTakeSample prof0 x = true ∧ (∀ q ∈ ringPieces (ibAddr x) (ibBytes x) 0 2, svcGrant s false q.1 q.2 = true) ∧
    after (exec (.sampleTake 7 1) s) (fun t => decide ((getStream t 7).ibRd = 2 ∧ (getStream t 7).sb.taken = 1)) = true := by decide +kernel
/-- Eighty samples of a hop are there. -/
theorem wit_frameCompute : let x := { stream0 with sb := { SbCtx.reset with hop := 80, zbuf := List.replicate 80 0 } }
    let s := sStream x
    devRuns s = true ∧ sbStreamOn x = true ∧ ringFull x = false ∧ hopLen sbd = 80 ∧ profileOf s x = prof0 ∧ chunkFrames s x = 1 ∧
    svcGrant s true (frameAddr s x) (slotBytes sbd) = true := by decide +kernel
/-- A synthesis model's stream with output of signed 16-bit samples at 8 kHz: the model's 0.5 is 0x4000. -/
theorem wit_synthesisOutput : let p := { prof0 with outFmt := 0, outRate := 0, pcmSize := 1 }
    let s := { sStream stream0 with models := [(3, { modelS with decl := { declT with synth := true } })], profiles := [(0, p)], mem := [(0x301C03, 0x3F)] }
    hasSynth s stream0 = true ∧ isSilent stream0 = false ∧ modelRate p.sb = rateOf p.outRate.toNat ∧ stagingAddr s stream0 0 = 0x301C00 ∧
    after (exec (.synthesisOutput 7 1) s) (fun t => decide ((getStream t 7).pcmTotal = 2 ∧ (getStream t 7).sb.outCount = 1)) = true := by decide +kernel

/-! Handle lists, push, open -/

def listCmd (op : Nat) (l : List (Nat × Nat)) : Taken := tk op 6 ([(0, 1), (32, 7)] ++ l)
def withStream (x : Stream) (s : State) : State :=
  { s with models := [(3, modelS)], profiles := [(0, prof0)], streams := [(7, x)], mon := { s.mon with grants := [grantS] } }
theorem sound_of {k : Taken} {s : State} {o : Bool} (hl : listHandles k = [7]) (hb : listBad k o = false)
    (h : (getStream s 7).state ≠ .free ∧ (getStream s 7).client = 0) : SoundList 0 k o s :=
  ⟨hb, by rw [hl]; decide, by rw [hl]; intro x hx; rw [List.mem_singleton.mp hx]; exact h⟩
def listTo (i : Instr) (op : Nat) (l : List (Nat × Nat)) (x : Stream) (p : State → Bool) : Bool := after (exec i (cmd (listCmd op l) (withStream x))) p
theorem wit_streamPause : let k := listCmd 0x0112 []
    let s := cmd k (withStream stream0)
    Serves 0 0x0112 k s ∧ SoundList 0 k false s ∧
    listTo (.streamPause 0 0) 0x0112 [] stream0 (fun t => decide ((getStream t 7).state = .paused ∧ (getStream t 7).pauseAt = some 100000000 ∧ (getStream t 7).delays = (2000, 30000))) = true :=
  ⟨serves_of (by decide +kernel), sound_of (by decide +kernel) (by decide +kernel) (by decide +kernel), by decide +kernel⟩
theorem wit_streamResume : let k := listCmd 0x0113 []
    let s := cmd k (withStream paused0)
    Serves 0 0x0113 k s ∧ SoundList 0 k false s ∧ imageTier (getStream s 7) = 0 ∧
    listTo (.streamResume 0 [] 0) 0x0113 [] paused0 (fun t => decide ((getStream t 7).state = .active ∧ (getStream t 7).pauseAt = none)) = true :=
  ⟨serves_of (by decide +kernel), sound_of (by decide +kernel) (by decide +kernel) (by decide +kernel), by decide +kernel, by decide +kernel⟩
theorem wit_streamClose : let k := listCmd 0x0114 [(8, 1)]
    Serves 0 0x0114 k (cmd k (withStream stream0)) ∧ SoundList 0 k true (cmd k (withStream stream0)) ∧
    listTo (.streamClose 0 0) 0x0114 [(8, 1)] { stream0 with inBundle := true } (fun t => decide ((getStream t 7).state = .closing)) = true ∧
    listTo (.streamClose 0 0) 0x0114 [(8, 1)] stream0 (fun t => decide ((getStream t 7).state = .free)) = true :=
  ⟨serves_of (by decide +kernel), sound_of (by decide +kernel) (by decide +kernel) (by decide +kernel), by decide +kernel, by decide +kernel⟩
theorem wit_streamReset : let k := listCmd 0x0115 []
    Serves 0 0x0115 k (cmd k (withStream stream0)) ∧ SoundList 0 k true (cmd k (withStream stream0)) ∧
    listTo (.streamReset 0 0) 0x0115 [] { stream0 with inBundle := true, chunks := [chunk0] } (fun t => decide ((getStream t 7).resetFlag = true ∧ (getStream t 7).resetNext = true ∧
      (getStream t 7).chunks = [chunk0])) = true := ⟨serves_of (by decide +kernel), sound_of (by decide +kernel) (by decide +kernel) (by decide +kernel), by decide +kernel⟩

/-- A list of one entry: stream 7, 4 bytes. -/
def pushList : List Byte := [7, 0, 0, 0, 4, 0, 0, 0, 0, 0, 0, 0, 0, 0, 0, 0]
theorem wit_streamPush : let k := tk 0x0111 10 [(0, 0x40), (64, 1)]
    let s := cmd k (withStream { stream0 with state := .opened })
    Serves 0 0x0111 k s ∧ argsBad k 10 [(63, 0), (79, 64)] = false ∧ (pushEntry pushList 0).handle = 7 ∧ (pushEntry pushList 0).len = 4 ∧
    after (exec (.streamPush 0 (some pushList) [some [1, 2, 3, 4]] 0) s) (fun t => decide ((getStream t 7).state = .active ∧ (getStream t 7).reserved = 4 ∧
      (getFn t 0).gathers.map (·.entries) = [[(7, [1, 2, 3, 4])]])) = true :=
  ⟨serves_of (by decide +kernel), by decide +kernel, by decide +kernel, by decide +kernel, by decide +kernel⟩
/-- The ring wraps at 64 KiB. -/
theorem wit_pushGatherDone : let x := { stream0 with ibWr := 65534, ibRd := 65534, reserved := 4 }
    let s := { withStream x up with funcs := [(0, { getFn up 0 with gathers := [⟨9, [(7, [1, 2, 3, 4])], [], 1, 0, 4, false⟩] })] }
    rtRuns s = true ∧ (∀ q ∈ ringPieces (ibAddr x) (ibBytes x) 65534 4, svcGrant s true q.1 q.2 = true) ∧
    after (exec (.pushGatherDone 0 0) s) (fun t => answered t 0 (1 + 4 * 2 ^ 32) && decide ((getStream t 7).ibWr = 65538 ∧ (getStream t 7).reserved = 0 ∧
      Memory.rds t.mem 0x20FFFE 2 = [1, 2] ∧ Memory.rds t.mem 0x200000 2 = [3, 4])) = true := by decide +kernel
def open1 : OpenChoice := ⟨7, 0, some (0x100000, 0x200000, 0x300000)⟩
def kOpen : Taken := tk 0x0110 30 [(160, 3), (172, 1), (184, 7), (192, 16), (204, 0)]
theorem wit_streamOpen : let s := cmd kOpen fun s => { s with models := [(3, modelS)] }
    Serves 0 0x0110 kOpen s ∧ openBad 0 kOpen = false ∧ usesModel s 0 3 = true ∧ openProfile kOpen declT = prof0 ∧ ringsBad kOpen declT prof0 = false ∧
    overCapacity s prof0 = false ∧ usedStreams s < 65536 ∧ openChoiceOk s prof0 open1 = true ∧
    streamPlacesOk s declT (0x100000, 0x200000, 0x300000) 65536 (featureBytes declT prof0 0) = true :=
  ⟨serves_of (by decide +kernel), by decide +kernel⟩
theorem wit_streamOpen_profile : profileOk false 10 prof0 = true := by decide +kernel

/-! ### Bundles and slices (02, 13) -/

/-- Job 2 places model 3 and has the slice; its variant runs one NOP, then END, on each core. -/
def varS : Variant := ⟨1, 0, false, false, 128, 0, 100000, [100000], [[1, 0xA01]]⟩
def modelB : Model := { modelS with decl := { declT with variants := [varS] }, weightsAt := [(4096, 0x50000)] }
def jobS : Job := { job0 with num := 2, kind := .placement 3, regions := [(0x50000, 4096)] }
def partS : Part := { partIdle with jobs := [jobS], sliceJob := 2, sliceStart := 100000000, sliceLen := 1000000 }
def verified0 : Verified := ⟨0x50000, 4096, 5, false⟩
def sBundle (l : List Bundle) (x : Stream) : State :=
  { sStream x with
    models := [(3, modelB)], parts := [(0, partS)], bundles := l
    mon := { up.mon with grants := [grantS], verified := [verified0] } }
def ready0 : Stream := { stream0 with chunks := [chunk0], frWr := 1 }
theorem wit_bundleForm : canForm (sBundle [] ready0) 3 0 = true ∧ rtRuns (sBundle [] ready0) = true ∧
    after (exec (.bundleForm 3 0 0) (sBundle [] ready0)) (fun t => decide (t.bundles.map (fun b => (b.no, b.members.map (·.handle))) = [(1, [7])] ∧
      (getStream t 7).inBundle = true)) = true := by decide +kernel
def formed0 : Bundle := ⟨1, 3, [⟨7, 0, false, true, 0x100, 0, 0, 0x30, 0, 0, 0, 4000000⟩], false, 0⟩
def inB : Stream := { ready0 with inBundle := true, resetFlag := true }
theorem wit_bundleBind : let s := sBundle [formed0] inB
    findBundle s 1 = some formed0 ∧ allResident s formed0 = true ∧ writesDone s formed0 = true ∧ lowestFor (tick s 0) 0 3 = true ∧ (acceptsModel (tick s 0) 0 3).map (·.num) = some 2 ∧ jobVerified s jobS = true ∧
    (jobVariant s partS jobS (dueAnchor s modelB.decl formed0)) = some varS ∧ spaceOk s 0 tier1Base 0x180000 (pages 128) = true ∧
    (∀ q ∈ bindPieces s modelB formed0 0x180000, svcGrant s true q.1 q.2 = true) ∧
    after (exec (.bundleBind 1 0 0x180000 [] 0) s) (fun t => decide ((getPart t 0).task.map (fun k => (k.job, k.committed)) = some (2, false) ∧ t.bundles = [] ∧
      (getCore t 3).seq.phase = .running ∧ (getCore t 3).seq.cmdMem = [1, 0xA01])) = true := by decide +kernel
def taskB (c : Bool) : Task := { task0 with job := 2, bundle := some { formed0 with recAddr := 0x180000 }, committed := c, variant := varS }
def sTask (c : Bool) (x : Stream) : State := { sBundle [] x with parts := [(0, { partS with task := some (taskB c), job := 2 })] }
theorem wit_commitUpdate : (getPart (sTask true inB) 0).task = some (taskB true) ∧
    after (exec (.commitUpdate 0 [] 0) (sTask true inB)) (fun t => decide ((getStream t 7).gen = true ∧ (getStream t 7).inBundle = false ∧ (getStream t 7).nextSeq = 1 ∧
      (getStream t 7).resetFlag = false ∧ (getStream t 7).chunks = [] ∧ (getPart t 0).task.map (·.settled) = some true)) = true := by decide +kernel

/-- A program that has not run, and its verified region. -/
def jobP : Job := { job0 with kind := .program { decl0 with variants := [varS] }, regions := [(0x50000, 4096)] }
def sSlice (x : Part) : State := { up with parts := [(0, x)], mon := { up.mon with verified := [verified0] } }
theorem wit_sliceStart : let s := sSlice { partIdle with jobs := [jobP] }
    canSlice s 0 = true ∧ currentJob (tick s 0) (getPart s 0) = none ∧ (nextJob (tick s 0) (getPart s 0)) = some jobP ∧ 0 < sliceTicks jobP ∧ canBind s 0 = true ∧
    jobVariant s (getPart s 0) jobP false = some varS ∧ jobVerified s jobP = true ∧
    after (exec (.sliceStart 0 0) s) (fun t => decide ((getPart t 0).sliceJob = 1 ∧ (getPart t 0).sliceLen = 1000000 ∧ (getPart t 0).task.map (·.job) = some 1 ∧
      (getCore t 2).seq.phase = .running)) = true := by decide +kernel
theorem wit_sliceStart_placement : let s := { sBundle [] ready0 with parts := [(0, { partS with sliceJob := 0 })] }
    canSlice s 0 = true ∧ nextJob (tick s 0) (getPart s 0) = some jobS ∧
    after (exec (.sliceStart 0 0) s) (fun t => decide ((getPart t 0).sliceJob = 2 ∧ (getPart t 0).task = none)) = true := by decide +kernel
def sExpired (l : List Job) : State := sSlice { partIdle with jobs := jobP :: l, task := some task0, job := 1, sliceJob := 1, sliceStart := 99000000, sliceLen := 1000000 }
theorem wit_sliceExpiry : expired (tick (sExpired [{ jobP with num := 2 }]) 0) 0 = true ∧
    othersWork (tick (sExpired [{ jobP with num := 2 }]) 0) (getPart (sExpired [{ jobP with num := 2 }]) 0) = true ∧
    after (exec (.sliceExpiry 0 0) (sExpired [{ jobP with num := 2 }])) (fun t => decide ((getPart t 0).endReq = some 100000000 ∧ (getPart t 0).reqGrace = 20)) = true ∧
    expired (tick (sExpired []) 0) 0 = true ∧ othersWork (tick (sExpired []) 0) (getPart (sExpired []) 0) = false ∧
    after (exec (.sliceExpiry 0 0) (sExpired [])) (fun t => decide ((getPart t 0).endReq = none ∧ (getPart t 0).sliceStart = 100000000)) = true := by decide +kernel
/-- The hard-stop time of a variant of 1 ms whose slice end was asked 1 s ago. -/
def sStopped (e : List TaskErr) : State :=
  { sTask false inB with parts := [(0, { partS with task := some { taskB false with errors := e }, job := 2, endReq := some 0, reqGrace := 20 })] }
theorem wit_hardStop : (hardDue (tick (sStopped []) 0) 0).isSome = true ∧ ((getPart (runCores 0 [] (tick (sStopped []) 0)) 0).task.bind (·.bundle)).isSome = true ∧
    after (exec (.hardStop 0 ⟨[], []⟩ 0) (sStopped [])) (fun t => decide ((getPart t 0).task = none ∧ (getPart t 0).endReq = none ∧ (getCore t 1).seq.phase = .idle ∧
      (getStream t 7).inBundle = false)) = true := by decide +kernel
theorem wit_bundleErrorSettle : let s := sStopped [⟨0x01, 0, 0, none, 0⟩]
    settleDue s 0 = true ∧ weightsHit s jobS [⟨0x01, 0, 0, none, 0⟩] = false ∧
    after (exec (.bundleErrorSettle 0 [] 0) s) (fun t => decide ((getPart t 0).task = none ∧ (getCore t 1).seq.phase = .idle)) = true := by decide +kernel
theorem wit_reclaim : let b := { jobP with crashed := some 1 }
    let s := { sSlice { partIdle with jobs := [b] } with regions := [⟨0x50000, 4096, .job 0 1⟩] }
    reclaimDue b = true ∧ jobDone s 0 1 = true ∧ b.stopped = none ∧
    after (exec (.reclaim 0 1 0) s) (fun t => decide ((getPart t 0).jobs = [] ∧ t.regions = [])) = true := by decide +kernel
theorem wit_reconciliation : let s := { up with pw := { up.pw with energy := 1000 } }
    rtRuns s = true ∧ closeDue (tick s 0) = true ∧
    after (exec (.reconciliationClose 0) s) (fun t => decide (t.tele.device.interval = 10 ∧ t.tele.device.measured = 1000 ∧ t.tele.lastPw = 1000 ∧ t.tele.accUpd = 2)) = true := by
  decide +kernel
theorem wit_interference : rtRuns up = true ∧ up.tele.lastSec < secondOf (tick up 0) ∧
    after (exec (.interferenceReport 0) up) (fun t => decide (t.tele.lastSec = 1 ∧ t.tele.intfUpd = 2)) = true := by decide +kernel
theorem wit_energySample : configReaches up = true ∧
    after (exec (.energySample ⟨50, 120, 480, [], []⟩ 0) up) (fun t => decide (t.pw.energy = 50 ∧ t.pw.power = 120 ∧ t.pw.tmax = 480)) = true := by decide +kernel


/-! ### Monitor, memory, migration (12, 17) -/

/-- Partition 0 may read and write page 0x100. -/
def grantP : BitVec 128 := BitVec.ofNat 128 (0x100 + 2 ^ 36 + 3 * 2 ^ 87)
def sMon (f : MonSt → MonSt) : State := { up with mem := [(0x100000, 7)], mon := f { up.mon with holders := [(0x100, .service)] } }
/-- A page of tier 1 that the background zeroing has not reached. -/
def grantT1 : BitVec 128 := BitVec.ofNat 128 (0x4000000 + 2 ^ 36 + 3 * 2 ^ 87)
theorem wit_grant : rtRuns (sMon id) = true ∧ grantOk (sMon id) grantP = true ∧ grantWaits (zeroedTo (sMon id) 0) grantP = false ∧
    releasedOver (sMon id) 0 = false ∧ grantOk (sMon id) 0 = false ∧
    (let s := { sMon id with sbtm := SbTmSt.reset }
     grantOk s grantT1 = true ∧ grantWaits (zeroedTo s 0x4000000000) grantT1 = true ∧ grantWaits (zeroedTo s 0x4000001000) grantT1 = false ∧
     after (exec (.grant ⟨grantT1, 0x4000000000⟩) s) (fun t => decide (t.mon.grants = [] ∧ t.mon.ring = [] ∧ t.sbtm.zero1 = 0x4000000000)) = true) ∧
    after (exec (.grant ⟨grantP, 0⟩) (sMon id)) (fun t => decide (t.mon.grants = [grantP] ∧ t.mem = [] ∧ holderOf t 0x100 = .part 0 0 ∧
      t.mon.ring = [⟨opGRANT, false⟩])) = true ∧
    after (exec (.grant ⟨0, 0⟩) (sMon id)) (fun t => decide (t.mon.grants = [] ∧ t.mon.ring = [⟨opGRANT, true⟩])) = true := by decide +kernel
/-- The bytes of the holder itself stay. -/
theorem test_grant_same : after (exec (.grant ⟨grantP, 0⟩) (sMon fun m => { m with holders := [(0x100, .part 0 0)] })) (fun t =>
    decide (Memory.rd t.mem 0x100000 = 7)) = true := by decide +kernel
theorem wit_revoke : let s := sMon fun m => { m with grants := [grantP] }
    s.mon.grants.contains grantP = true ∧ revokeQuiet s grantP = true ∧ s.mon.grants.contains 0 = false ∧
    after (exec (.revoke grantP) s) (fun t => decide (t.mon.grants = [] ∧ t.mem = s.mem)) = true := by decide +kernel
def sRegion (l : List (Nat × Byte)) : State :=
  { sMon fun m => { m with grants := [grantP] } with mem := l, regions := [⟨0x100000, 4096, .job 0 1⟩] }
/-- The region holds an object of type 1, which no VERIFY accepts. -/
theorem wit_verify : let s := sRegion [(0x100000, 1), (0x100001, 1)]
    placedRegion s 0x100000 = some ⟨0x100000, 4096, .job 0 1⟩ ∧ isVerified s 0x100000 = false ∧ s.mon.grants.all (revokeQuiet s) = true ∧
    verifyOk s (objectAt s ⟨0x100000, 4096, .job 0 1⟩ 0) = false ∧
    after (exec (.verify 0x100000 0) s) (fun t => decide (t.mon.ring = [⟨opVERIFY, true⟩] ∧ t.mon.verified = [])) = true := by decide +kernel
/-- The owner's image in the region, where the device is deployed. -/
def sSigned : State := owned (sRegion (Memory.wrs [] 0x100000 objM.bytes))
theorem wit_verify_signed : let s := sSigned
    placedRegion s 0x100000 = some ⟨0x100000, 4096, .job 0 1⟩ ∧ isVerified s 0x100000 = false ∧ s.mon.grants.all (revokeQuiet s) = true ∧
    verifyOk s (objectAt s ⟨0x100000, 4096, .job 0 1⟩ keyG) = true ∧ verifyOk s (objectAt s ⟨0x100000, 4096, .job 0 1⟩ 0) = false := by decide +kernel
theorem test_verify_signed : after (exec (.verify 0x100000 keyG) sSigned) (fun t => decide (t.mon.ring = [⟨opVERIFY, false⟩] ∧ t.mon.verified.length = 1 ∧
    t.mon.grants.map gPartW = [false])) = true := by decide +kernel
def verP : Verified := ⟨0x100000, 4096, 5, false⟩
theorem wit_release : let s := sMon fun m => { m with verified := [verP], grants := [grantP] }
    s.mon.verified.find? (fun v => decide (v.base = 0x100000)) = some verP ∧ givenUp s verP = true ∧ s.mon.grants.all (revokeQuiet s) = true ∧
    after (exec (.release 0x100000) s) (fun t => decide (t.mon.verified = [] ∧ t.mon.grants = [] ∧ t.mem = [])) = true := by decide +kernel

theorem wit_tier1Zero : let s := { up with sbtm := SbTmSt.reset }
    devRuns s = true ∧ s.sbtm.zero1Done = false ∧ after (exec .tier1ZeroDone s) (fun t => decide (t.sbtm.zero1Done = true ∧ t.sbtm.zero1 = 0x10000000000)) = true := by
  decide +kernel
theorem wit_scrub : devRuns up = true ∧ (lastDay (tick up 0).time (tget [] up.mon.pageErrs 0x100)).length < 15 ∧ up.mon.retired.contains 0x100 = false ∧
    after (exec (.scrubPass 0x100040 true false 0) up) (fun t => decide (tget 0 t.tele.corrected 1 = 1 ∧ t.mon.retired = [])) = true ∧
    after (exec (.scrubPass 0x100040 false true 0) up) (fun t => decide (t.mon.retired = [0x100] ∧ t.tele.nextSeq = up.tele.nextSeq + 1)) = true := by decide +kernel
/-- The sixteenth corrected error of a page within a day retires it (R397). -/
theorem test_scrub_16 : after (exec (.scrubPass 0x100040 true false 0) { up with mon := { up.mon with pageErrs := [(0x100, List.replicate 15 99999999)] } })
    (fun t => decide (t.mon.retired = [0x100])) = true := by decide +kernel
theorem wit_expander : let s := { up with pw := { up.pw with expPresent := 3 } }
    rtRuns (tick s 0) = true ∧ s.pw.expPresent.getLsbD 1 = true ∧ s.pw.expDown.getLsbD 1 = false ∧
    after (exec (.expanderDown 1 0) s) (fun t => decide (t.pw.expDown = 2 ∧ t.tele.nextSeq = up.tele.nextSeq + 1)) = true := by decide +kernel
theorem wit_lpddr : configReaches up = true ∧ after (exec (.lpddr6PllLoss 0) up) (fun t => decide (t.pw.lpddrDown = true)) = true := by decide +kernel

def sUe : State := at_ 0x001 []
theorem wit_ue_core : taskLive sUe 0 = true ∧
    after (exec (.uncorrectableRead (.core 0) 0x100000 0xAB 0) sUe) (fun t => decide ((getCore t 0).seq.phase = .stopped (dataCause 0x100000) 0 ∧ t.mem = [])) = true ∧
    after (exec (.uncorrectableRead (.sram 0 3 4) 0 0 0) sUe) (fun t => decide ((getCore t 0).seq.phase = .stopped cSRAM_UE 0)) = true := by decide +kernel
/-- A COPY of 200,000 bytes from 0x100000 of which one piece of 64 KiB has moved; the next is read. -/
def dLong : BitVec 256 := BitVec.ofNat 256 (2 * 2 ^ 3 + 3 * 2 ^ 16 + 0x100000 * 2 ^ 32 + 0x200000 * 2 ^ 80 + 200000 * 2 ^ 128)
def sLong (l : List (Nat × Byte)) : State :=
  { up with mem := l, mon := { up.mon with grants := [BitVec.ofNat 128 (0x100 + 0x300 * 2 ^ 36 + 3 * 2 ^ 89)] },
            mig := { up.mig with work := [⟨dLong, 65536⟩], cur := some dLong, next := 4 } }
/-- The error is in the second line of the piece: its first line is still moved. -/
theorem wit_ue_migration : (sLong []).mig.cur.bind (workOf (sLong [])) = some ⟨dLong, 65536⟩ ∧ dOp dLong = 0 ∧ outOfTag (sLong []) (dTag dLong) = none ∧
    readsNow (sLong []) ⟨dLong, 65536⟩ 0x110050 = true ∧
    after (exec (.uncorrectableRead .migration 0x110050 0 0) (sLong [(0x11003F, 5), (0x110040, 6)])) (fun t => decide (t.mig.work = [] ∧
      t.mig.due = [⟨⟨3, 65600, 2⟩, true⟩] ∧ Memory.rd t.mem 0x21003F = 5 ∧ Memory.rd t.mem 0x210040 = 0)) = true := by decide +kernel
theorem wit_ue_soundboard : let s := sStream stream0
    (getStream s 7).state ≠ .free ∧ ibAddr (getStream s 7) = 0x200000 ∧ ibBytes (getStream s 7) = 65536 ∧
    after (exec (.uncorrectableRead (.soundboard 7) 0x20007F 0 0) s) (fun t => decide ((getStream t 7).badLines = [64])) = true := by decide +kernel
theorem wit_ue_part : partOfCore sUe 0 = some 0 ∧
    after (exec (.uncorrectableRead (.partUnit 0) 0 0 0) sUe) (fun t => decide ((getPart t 0).resetDue = true ∧ (getPart t 0).stopping = true ∧
      (getCore t 0).seq.phase = .idle)) = true := by decide +kernel
theorem wit_ue_device : after (exec (.uncorrectableRead .controlSram 0 0 0) sUe) (fun t => decide (t.fatal = true ∧ (getFn t 0).ready = false ∧ (getPart t 0).task = none)) = true := by
  decide +kernel

/-- COPY of 4 bytes, then ZERO, under tag 0; and a COPY of class 0 under tag 4. -/
def dCopy : BitVec 256 := BitVec.ofNat 256 (0x100000 * 2 ^ 32 + 0x200000 * 2 ^ 80 + 4 * 2 ^ 128)
def dZero : BitVec 256 := BitVec.ofNat 256 (1 + 0x200000 * 2 ^ 80 + 4 * 2 ^ 128)
def dHigh : BitVec 256 := BitVec.ofNat 256 (4 * 2 ^ 16 + 0x100000 * 2 ^ 32 + 0x300000 * 2 ^ 80 + 4 * 2 ^ 128)
def sMig (g : List (BitVec 128)) : State := { up with mem := [(0x100001, 5), (0x200000, 9)], mon := { up.mon with grants := g } }
theorem wit_descriptor : (sMig []).mig = MigSt.reset ∧ (sMig []).br.migOut = [] ∧ dOp dCopy = 0 ∧ dOp dZero = 1 ∧ descForm (sMig []) dCopy = true ∧
    descForm (sMig []) dZero = true ∧ movingStream (sMig []) (dTag dCopy) = none ∧
    svcGrant (sMig [grantS]) false 0x100000 4 = true ∧ svcGrant (sMig [grantS]) true 0x200000 4 = true ∧ svcGrant (sMig []) true 0x200000 4 = false ∧
    onDown (sMig [grantS]) 0x100000 4 = false ∧ onDown (sMig [grantS]) 0x200000 4 = false ∧
    after (exec (.migrationDescriptor (some dCopy)) (sMig [grantS])) (fun t => decide (t.mig.work = [⟨dCopy, 0⟩] ∧ t.mem = (sMig []).mem) &&
      after (exec (.migrationDescriptor none) t) fun r => decide (r.mig.due = [⟨⟨0, 4, 0⟩, false⟩] ∧ r.mem = [(0x100001, 5), (0x200001, 5)])) = true ∧
    after (exec (.migrationDescriptor (some dCopy)) (sMig [])) (fun t => decide (t.mig.due = [⟨⟨0, 0, 1⟩, false⟩] ∧ t.mem = (sMig []).mem)) = true := by decide +kernel
/-- A ZERO of 4 bytes at its last piece. -/
theorem wit_descriptor_zero : let s := { sMig [grantS] with mig := { up.mig with work := [⟨dZero, 0⟩], cur := some dZero } }
    movingStream s (dTag dZero) = none ∧ (0 : Nat) < dLen dZero ∧
    after (exec (.migrationDescriptor none) s) (fun t => decide (t.mig.work = [] ∧ t.mig.due = [⟨⟨0, 4, 0⟩, false⟩] ∧ t.mem = [(0x100001, 5)])) = true := by decide +kernel
/-- A descriptor of class 0 beside one of class 2 that has more than a piece left. -/
theorem wit_descriptor_class : let s := sLong []
    65536 + 65536 < dLen dLong ∧ dClass dHigh < dClass dLong ∧ descForm s dHigh = true ∧ movingStream s (dTag dLong) = none ∧ movingStream s (dTag dHigh) = none ∧
    svcGrant s false 0x100000 4 = true ∧ svcGrant s true 0x300000 4 = true ∧ onDown s 0x300000 4 = false := by decide +kernel
def due0 : MigDue := ⟨⟨3, 64, 0⟩, false⟩
theorem wit_complete : let s := { up with mig := { up.mig with due := [due0] } }
    movingStream s 3 = none ∧
    after (exec (.migrationComplete 0) s) (fun t => decide (t.mig.due = [] ∧ t.mig.done = [⟨3, 64, 0⟩])) = true := by decide +kernel
/-- A demotion into tier 2 has ended: the paused stream is evicted. -/
theorem wit_complete_stream : let x := { stream0 with state := .paused, moving := true, move := some ⟨false, 0x10000000000, 3⟩ }
    let s := { sStream x with mig := { up.mig with due := [due0] } }
    movingStream s 3 = some 7 ∧ (getStream s 7).move = some ⟨false, 0x10000000000, 3⟩ ∧
    after (exec (.migrationComplete 0) s) (fun t => decide ((getStream t 7).state = .evicted ∧ (getStream t 7).statePtr = 0x10000000 ∧ (getStream t 7).move = none)) = true := by
  decide +kernel
/-- A pair with device 5 over window 2. -/
def pair0 : Pair := { newPair 2 5 0 0 with rbase := 0x400000, rsize := 2 ^ 24, granted := 100, avail := 100 }
theorem wit_streamMigrate : let k := tk 0x0212 16 [(0, 7), (16, 5), (48, 2), (64, 0x8000)]
    let s := cmd k fun s => { withStream { stream0 with state := .paused, inBundle := true } s with br := { s.br with pairs := [(0, pair0)] } }
    Serves 0 0x0212 k s ∧ isExpert s 0 = true ∧ migrateBad k = false ∧ busy s (.window 2) = false ∧ othersStream 0 (getStream s 7) = false ∧
    noPair (servedIn s 0 0) (getStream s 7) 2 5 = false ∧ pairStands s 2 5 = true ∧
    after (exec (.streamMigrate 0 true 0) s) (fun t => decide ((getStream t 7).moving = true ∧ (getStream t 7).state = .paused ∧
      t.inProgress.map (·.opcode) = [0x0212])) = true :=
  ⟨serves_of (by decide +kernel), by decide +kernel, by decide +kernel, by decide +kernel, by decide +kernel, by decide +kernel, by decide +kernel, by decide +kernel⟩

/-! ### Bridge (16) -/

/-- This device has number 0. Ports 1 and 3 are up; device 5 was heard on port 3. -/
def sLink (f : BrSt → BrSt) : State :=
  { up with br := f { BrSt.reset with ports := [(1, { Port.reset with up := true }), (3, { Port.reset with up := true })], routes := [(5, [⟨3, 6, 100000000⟩])] } }
def frameT (t : BitVec 4) (b : List Byte) : Frame :=
  { ver := 1, type := t, dst := 0, src := 5, win := 2, seq := 0, ackV := false, ack := 0, len := BitVec.ofNat 13 b.length, addr := 0, cred := 0, tag := 7, payload := b }
def hello : Frame := { frameT ftHELLO (List.replicate 16 0) with dst := 0, win := 0 }

theorem wit_linkUp : linksRun (sLink id) = true ∧ (getPort (sLink id) 2).up = false ∧ (getPort (sLink id) 3).up = true ∧
    after (exec (.bridgeLinkUp 2 0) (sLink id)) (fun t => decide ((getPort t 2).up = true ∧ t.br.sent.map (fun x => (x.port, x.fr.type)) = [(2, ftHELLO)])) = true ∧
    after (exec (.bridgeLinkDown 3 0) (sLink id)) (fun t => decide ((getPort t 3).up = false ∧ t.br.routes = [])) = true := by decide +kernel
theorem wit_helloTimer : helloDue (tick (sLink id) 0) 1 = true ∧ helloDue (tick (sLink fun b => { b with ports := [(1, { Port.reset with up := true, helloAt := 99999999 })] }) 0) 1 = false ∧
    after (exec (.helloTimer 0) (sLink id)) (fun t => decide ((getPort t 3).helloAt = 100000000 ∧ t.br.sent.map (·.port) = [1, 3])) = true := by decide +kernel
theorem wit_helloReceive : lenAgrees hello = true ∧ hello.src ≠ myDev (sLink id) ∧
    after (exec (.helloReceive 1 4 hello 9) (sLink id)) (fun t => decide (tget [] t.br.routes 5 = [⟨3, 6, 100000000⟩, ⟨1, 4, 100000009⟩])) = true ∧
    after (exec (.helloReceive 1 4 { hello with src := 0 } 9) (sLink id)) (fun t => t.br.devidConflict) = true := by decide +kernel
/-- A source stays 350 ms after its HELLO and lapses a tick later. -/
theorem wit_routeExpiry : (tget [] (sLink id).br.routes 5).any (lapsed (tick (sLink id) 35000001)) = true ∧
    (tget [] (sLink id).br.routes 5).any (lapsed (tick (sLink id) 35000000)) = false ∧
    after (exec (.routeExpiry 5 35000001) (sLink id)) (fun t => decide (t.br.routes = [])) = true := by decide +kernel

/-- Window 2 of partition 0's job 1: 1 MiB at 0x100000 for device 5, every operation, 100 credits. -/
def win0 : Win := ⟨0, 1, 0x100000, 0x100000, 5, 0x3FFF, 7, 100, false, none⟩
def grantW : BitVec 128 := BitVec.ofNat 128 (0x100 + 0x100 * 2 ^ 36 + 3 * 2 ^ 87)
def sPair (q : Pair) (m : List (Nat × Byte)) : State :=
  let s := sLink fun b => { b with wins := [(2, win0)], pairs := [(0, q)] }
  { s with mem := m, mon := { up.mon with grants := [grantW] }, parts := [(0, { part0 with task := none })] }
theorem wit_windowOpen : let k := tk 0x0210 21 [(5, 1), (16, 1), (32, 0x100000), (80, 0x100000), (120, 5), (134, 0x3FFF), (148, 7), (151, 100)]
    let s := cmd k fun _ => { sLink id with parts := [(0, { partIdle with jobs := [job0] })], mon := { up.mon with grants := [grantW] } }
    Serves 0 0x0210 k s ∧ Passes (wopenChecks (servedIn s 0 0) 0 k 0 1) ∧ wopenNumber (servedIn s 0 0) k = some 0 ∧
    after (exec (.windowOpen 0 0) s) (fun t => answered t 0 0 && decide (getWin t 0 = some win0 ∧ t.br.sent.map (·.fr.type) = [ftPAIR])) = true :=
  ⟨serves_of (by decide +kernel), passes_of (by decide +kernel), by decide +kernel, by decide +kernel⟩
theorem wit_windowClose : let k := tk 0x0211 1 [(0, 2)]
    let s := cmd k fun _ => { sPair pair0 [] with br := { (sPair pair0 []).br with pairs := [] } }
    let q := { pair0 with unacked := [⟨frameT ftWRITE [1], none, 1, 0⟩] }
    Serves 0 0x0211 k s ∧ busy (servedIn s 0 0) (.window 2) = false ∧ getWin s 2 = some win0 ∧ notMine (servedIn s 0 0) 0 win0.part = false ∧
    after (exec (.windowClose 0 0) s) (fun t => answered t 0 0 && decide (getWin t 2 = none)) = true ∧
    after (exec (.windowClose 0 0) { s with br := { s.br with migIn := [⟨2, 5, []⟩] } }) (fun t => answered t stBUSY.toNat 0 && decide (getWin t 2 = some win0)) = true ∧
    after (exec (.windowClose 0 0) (cmd k fun _ => sPair q [])) (fun t => decide ((getWin t 2).map (·.closing) = some true ∧
      t.inProgress.map (·.opcode) = [0x0211])) = true :=
  ⟨serves_of (by decide +kernel), by decide +kernel, by decide +kernel, by decide +kernel, by decide +kernel, by decide +kernel⟩

/-! Frames -/

def frameA (t : BitVec 4) (a : Nat) (b : List Byte) : Frame := { frameT t b with addr := BitVec.ofNat 48 a }
theorem wit_pair : pairIdx (sPair pair0 []) 2 5 = some 0 ∧ getPair (sPair pair0 []) 0 = some pair0 ∧ getWin (sPair pair0 []) 2 = some win0 := by decide +kernel
theorem wit_writeFrame : let fr := frameA ftWRITE 0x100FFF [7, 8]
    arrives (sPair pair0 []) 3 fr ftWRITE = true ∧ frameTaken (sPair pair0 []) fr (some 0) = true ∧ partGrant (sPair pair0 []) 0 1 true 0x100FFF 2 = true ∧
    after (exec (.writeFrame 3 fr 0) (sPair pair0 [])) (fun t => decide (t.mem = [(0x100FFF, 7), (0x101000, 8)] ∧ (getPair t 0).map (·.rxNext) = some 1 ∧
      t.br.sent.map (fun x => (x.port, x.fr.type, x.fr.ack, x.fr.cred)) = [(3, ftACK, 1, 1)])) = true ∧
    after (exec (.migDataFrame 3 { fr with type := ftMIG_DATA } 0) (sPair pair0 [])) (fun t => decide (t.mem = [(0x100FFF, 7), (0x101000, 8)])) = true := by decide +kernel
theorem wit_readReqFrame : let fr := { frameA ftREAD_REQ 0x100000 [] with len := 2 }
    arrives (sPair pair0 []) 3 fr ftREAD_REQ = true ∧ frameTaken (sPair pair0 []) fr (some 1) = true ∧ partGrant (sPair pair0 []) 0 1 false 0x100000 2 = true ∧
    after (exec (.readReqFrame 3 fr 0) (sPair pair0 [(0x100001, 9)])) (fun t => decide (t.br.sent.map (fun x => (x.fr.type, x.fr.tag, x.fr.payload)) = [(ftREAD_RESP, 7, [0, 9])])) = true := by
  decide +kernel
/-- 255 + 2 carries into the second byte. -/
theorem wit_atomicFrame : let fr := frameA ftATOMIC 0x100008 (leBytes 8 2)
    arrives (sPair pair0 []) 3 fr ftATOMIC = true ∧ frameTaken (sPair pair0 []) fr (some 2) = true ∧
    after (exec (.atomicFrame 3 fr 0) (sPair pair0 [(0x100008, 255)])) (fun t => decide (t.mem = [(0x100008, 1), (0x100009, 1)] ∧
      t.br.sent.map (·.fr.payload) = [leBytes 8 255])) = true := by decide +kernel
theorem wit_readRespFrame : let fr := frameA ftREAD_RESP 0 [4]
    let s := sPair { pair0 with reads := [⟨7, none, 0, 1⟩] } []
    arrives s 3 fr ftREAD_RESP = true ∧ (s.br.wins.all fun x => !x.2.closing) = true ∧ fr.tag = 7 ∧
    after (exec (.readRespFrame 3 fr 0) s) (fun t => decide ((getPair t 0).map (fun z => (z.reads, z.rxNext)) = some ([], 1))) = true := by decide +kernel
theorem wit_migStart : let fr := frameA ftMIG_CTRL 0 (leBytes 64 1)
    arrives (sPair pair0 []) 3 fr ftMIG_CTRL = true ∧ leNat fr.payload % 256 = mcSTART ∧
    after (exec (.migCtrlFrame 3 fr ⟨0, 0, none⟩ 0) (sPair pair0 [])) (fun t => decide (t.br.migIn.map (fun g => (g.window, g.peer)) = [(2, 5)])) = true := by decide +kernel
def out0 : MigOut := { f := 0, tag := 9, handle := 7, device := 5, window := 2, dfunc := 0, dvec := 0, dobAddr := 0, copy := some 3, coded := some 64 }
theorem wit_migAccept : let fr := frameA ftMIG_CTRL 0 (leBytes 64 (3 + 0x21 * 2 ^ 16))
    let s0 := withStream { stream0 with state := .paused, moving := true, migrating := true } (sPair pair0 [])
    let s := { s0 with br := { s0.br with migOut := [out0] } }
    findOut s 2 5 = some out0 ∧
    after (exec (.migCtrlFrame 3 fr ⟨0, 0, none⟩ 0) s) (fun t => answered t 0 0x21 && decide ((getStream t 7).state = .free ∧ t.br.migOut = [])) = true := by decide +kernel

theorem wit_pairReceive : let fr := frameA ftPAIR 0 (leBytes 64 (0x400 * 2 ^ 22 + 0x10 * 2 ^ 58 + 7 * 2 ^ 114 + 20 * 2 ^ 128))
    let s := { sPair pair0 [] with br := { (sPair pair0 []).br with pairs := [] } }
    arrives s 3 fr ftPAIR = true ∧ admits win0 5 = true ∧ pairIdx s 2 5 = none ∧ freePair s = some 0 ∧
    after (exec (.pairReceive 3 fr 0) s) (fun t => decide ((getPair t 0).map (fun z => (z.rbase, z.rsize, z.rperm, z.granted, z.avail)) = some (0x400000, 0x10000, 7, 20, 20) ∧
      t.br.sent.map (·.fr.type) = [ftPAIR])) = true ∧
    (let u := sPair pair0 []
     arrives u 3 fr ftPAIR = true ∧ pairBusy u pair0 = false ∧ (leNat fr.payload).testBit 0 = false ∧
     after (exec (.pairReceive 3 fr 0) u) (fun t => decide ((getPair t 0).map (fun z => (z.rsize, z.granted)) = some (0x10000, 20))) = true) := by decide +kernel
/-- Two frames of one credit each to device 5 are unacknowledged, sequence numbers 0xFFFF and 0. -/
def unacked0 : Pair :=
  let fr := { frameA ftWRITE 0x400000 [1] with dst := 5, src := 0 }
  { pair0 with unacked := [⟨{ fr with seq := 0xFFFF }, none, 1, 0⟩, ⟨fr, none, 1, 0⟩], txAcked := 0xFFFF, txNext := 1, avail := 98, progress := 90000000 }
theorem wit_ack : let fr := { frameA ftACK 0 [] with ackV := true, ack := 0, cred := 1 }
    arrives (sPair unacked0 []) 3 fr ftACK = true ∧ (fr.ack - unacked0.txAcked).toNat = 1 ∧
    after (exec (.ackFrame 3 fr 0) (sPair unacked0 [])) (fun t => decide ((getPair t 0).map (fun z => (z.unacked.length, z.avail, z.txAcked)) = some (1, 99, 0))) = true := by
  decide +kernel
theorem wit_nak : let fr := { frameA ftNAK 0 [] with ackV := true, ack := 0 }
    arrives (sPair unacked0 []) 3 fr ftNAK = true ∧ pairStands (sPair unacked0 []) 2 5 = true ∧ routeTo (sPair unacked0 []) 5 = some ⟨3, 6, 100000000⟩ ∧
    (unacked0.unacked.all fun x => decide (x.fr.dst = fr.src)) = true ∧
    after (exec (.nakFrame 3 fr 0) (sPair unacked0 [])) (fun t => decide (t.br.sent.map (fun x => (x.port, x.fr.seq)) = [(3, 0)])) = true := by decide +kernel
theorem wit_reject : let fr := frameA ftREJECT 0 []
    arrives (sPair unacked0 []) 3 fr ftREJECT = true ∧
    after (exec (.rejectFrame 3 fr 0) (sPair unacked0 [])) (fun t => decide ((getPair t 0).map (·.failed) = some true)) = true := by decide +kernel
/-- The retry time of 20 µs has passed; the thirty-second successive timeout fails the pair. -/
theorem wit_retry : retryDue (tick (sPair unacked0 []) 0) unacked0 = true ∧
    after (exec (.retryTimeout 0 0) (sPair unacked0 [])) (fun t => decide ((getPair t 0).map (fun z => (z.timeouts, z.failed)) = some (1, false) ∧
      t.br.sent.map (·.fr.seq) = [0xFFFF, 0])) = true ∧
    after (exec (.retryTimeout 0 0) (sPair { unacked0 with timeouts := 31 } [])) (fun t => decide ((getPair t 0).map (·.failed) = some true)) = true := by decide +kernel
theorem wit_discard : discardable (sLink id) 0x0800 true hello = true ∧ discardable (sLink id) 0x88B5 false hello = true ∧ discardable (sLink id) 0x88B5 true hello = false ∧
    after (exec (.frameDiscard 3 0x88B5 false hello) (sLink id)) (fun t => decide ((getPort t 3).dropped = 1 ∧ (getPort t 3).fecUncorr = 1)) = true := by decide +kernel

/-! Device time: this device has number 9, device 5 is its root. -/

def sTime (f : BrSt → BrSt) : State := { sLink fun b => f { b with parent := 5, syncTag := 6 } with fuses := { up.fuses with devid := 9 } }
theorem wit_syncTimer : follows (sTime id) = true ∧ syncGap ≤ ((tick (sTime id) 0).time - (sTime id).br.syncAt).toNat ∧
    after (exec (.syncTimer 0) (sTime id)) (fun t => decide (t.br.sent.map (fun x => (x.port, x.fr.type, x.fr.dst, x.fr.tag)) = [(3, ftSYNC_REQ, 5, 7)])) = true := by decide +kernel
theorem wit_syncReq : let q := { frameT ftSYNC_REQ [] with dst := 9 }
    syncArrives (sTime id) 3 q ftSYNC_REQ = true ∧ stampedNow (tick (sTime id) 0) 1000000002 = true ∧ stampedNow (tick (sTime id) 0) 1000000007 = true ∧
    after (exec (.syncReqReceive 3 q ⟨1000000002, 1000000007, 0⟩) (sTime id)) (fun t => decide (t.br.sent.map (·.fr.payload) = [leBytes 8 1000000002 ++ leBytes 8 1000000007])) = true := by decide +kernel
/-- t1 = 100, t2 = 400, t3 = 420, t4 = 140 ns: ((400 − 100) − (140 − 420)) / 2 = 290 ns. -/
theorem wit_syncResp : let fr := { frameT ftSYNC_RESP (leBytes 8 400 ++ leBytes 8 420) with dst := 9, tag := 6 }
    syncArrives (sTime id) 3 fr ftSYNC_RESP = true ∧ fr.src = (sTime id).br.parent ∧ fr.tag = (sTime id).br.syncTag ∧
    after (exec (.syncRespReceive 3 fr 100 140 0) (sTime id)) (fun t => decide (t.br.offset = 290 ∧ t.br.slew = 29 ∧ t.br.locked = true ∧ t.time = 100000000)) = true ∧
    after (exec (.syncRespReceive 3 fr 100 140 0) { sTime id with pw := { up.pw with phase := .bootStopped }, mon := { up.mon with step := 4 } })
      (fun t => decide (t.time = 100000029)) = true := by decide +kernel


/-! ### Requests of the diagnostic window (17) -/

/-- A board with nothing to boot from. -/
def env1 : BootEnv := ⟨none, none, none, none, none, none, none, true, [], false⟩
theorem wit_nonce : monServes (sBooted id) = true ∧ (sBooted id).mon.reqBusy = false ∧ runtimeUp (sBooted id) = true ∧ (sBooted id).mon.entropyOk = true ∧
    gives (exec (.smReqNonce 0) (sBooted fun m => { m with reqBusy := true, reqOp := 2 })) (sBooted fun m => { m with reqBusy := true, reqOp := 2, reqStatus := rqBUSY }) = true ∧
    after (exec (.entropyFail 0) (sBooted id)) (fun t => decide (t.mon.entropyOk = false ∧ t.tele.nextSeq = up.tele.nextSeq + 1)) = true := by decide +kernel
theorem wit_quote : after (exec (.smReqQuote 0) (sBooted id)) (fun t => decide (t.mon.reqOp = 2 ∧ t.mon.reqStatus = rqNO_KEY)) = true ∧
    after (exec (.smReqQuote 0) { sBooted id with fuses := { up.fuses with retired := true } }) (fun t => decide (t.mon.reqStatus = rqREFUSED)) = true := by decide +kernel
/-- The words of an area that holds the bytes. -/
def areaOf (b : List Byte) : Tbl W64 := (List.range (cdiv b.length 8)).map fun i => (i, BitVec.ofNat 64 (leNat ((b.drop (8 * i)).take 8)))
/-- The token buffer holds the one byte of an object that is no token. -/
theorem wit_token : let s := sBooted fun m => { m with token := [(0, 7)] }
    tokStatus s (areaObj s.mon.token 4096 0) = rqBAD_TOKEN ∧
    after (exec (.smReqToken 0 env1 true 0) s) (fun t => decide (t.mon.reqStatus = rqBAD_TOKEN ∧ t.fuses = s.fuses)) = true := by decide +kernel
/-! Objects with the certificate [9], where it says that the root key, secret 1, certifies itself: a token from MANUFACTURE to PROVISIONED under
nonce 0, and a boot image without a body. -/
def tokV : SignedObj :=
  ⟨hdrB 5 0 256 1 ++ (8 : Byte) :: List.replicate 255 0 ++ (9 : Byte) :: sigB 0x9166887ac297d009c9fb6784a23e5d86d07dbf6b155a009b833deb35a5f3b61179d60ea6720fc72449dea3d69acfaa4f, 0⟩
def bootV : SignedObj :=
  ⟨hdrB 2 0 0 1 ++ (9 : Byte) :: sigB 0x44b8f821afdbf8d2ac9cf4fabcb7fdbf4287a29e71c9f3b9849dee88ae91434061b4fa26ebb42581dde77341d289f58, 0⟩
def certV : Cert := ⟨keyG, keyG, 0, BitVec.ofNat 768 (leNat (sigB 0x1eafd447e2b287efaa46d63634e026e8e810bd0cfeca7fdbe34ff17ee7a347886b3fc1b7813aa6a2ff45cf68f0641c1d))⟩
def rooted (s : State) : State :=
  { s with fuses := { s.fuses with rootDigest := 0xd1321676ab9fa4f8d617b614ead449a49838d2d14d6ebd93ac1e468f774e6e609c4ab3a71ef6891498cd082694d298a6 } }
theorem certV_ok : certOk certV = true ∧ decide (keyDigest keyG = (rooted up).fuses.rootDigest) = true := by decide +kernel
theorem vendorOk_rooted (h : Config.certOf [9] = some certV) (o : SignedObj) (c : (objHdr o).certLen = 1)
    (b : (o.bytes.drop (128 + (objHdr o).bodyLen.toNat)).take 1 = [9]) (g : sigUnder keyG o = true) : vendorOk (rooted up).fuses o = true := by
  have e : objCert o = some certV := by
    show (if (objHdr o).certLen = 0 then none else Config.certOf ((o.bytes.drop (128 + (objHdr o).bodyLen.toNat)).take (objHdr o).certLen.toNat)) = _
    rw [c]; show Config.certOf ((o.bytes.drop (128 + (objHdr o).bodyLen.toNat)).take 1) = _
    rw [b, h]
  unfold vendorOk
  rw [e]
  show (sigUnder keyG o && certOk certV && decide (keyDigest keyG = (rooted up).fuses.rootDigest) && !(rooted up).fuses.revoked.getLsbD (objHdr o).keyId.toNat) = true
  rw [g, certV_ok.1, certV_ok.2, show (rooted up).fuses.revoked = 0 from rfl]
  simp
def sTok : State := rooted (sBooted fun m => { m with nonceValid := true, token := areaOf tokV.bytes })
theorem wit_token_signed (h : Config.certOf [9] = some certV) : areaObj sTok.mon.token 4096 0 = tokV ∧ tokStatus sTok tokV = rqOK ∧ lcState sTok.fuses ≠ lcRETIRED := by
  refine ⟨by decide +kernel, ?_, by decide +kernel⟩
  have v : vendorOk sTok.fuses tokV = true := vendorOk_rooted h tokV (by decide +kernel) (by decide +kernel) (by decide +kernel)
  have f : tokForm tokV = true := by decide +kernel
  have l : lcState sTok.fuses = 0 := by decide +kernel
  have a : tokFrom tokV = 0 := by decide +kernel
  have b : tokTo tokV = 1 := by decide +kernel
  have d : tokDevice sTok.fuses tokV = true := by decide +kernel
  have n : tokNonce tokV = sTok.mon.nonce.toNat := by decide +kernel
  have m : sTok.mon.nonceValid = true := rfl
  have o : (objHdr tokV).owner = false := by decide +kernel
  have g : tokSigned sTok.fuses tokV = true := by
    unfold tokSigned tokVendor
    rw [a, b, v, o]; rfl
  unfold tokStatus
  rw [l, f, g, a, d, m, n, b]
  simp [lcRETIRED, lcFIELD_DEBUG]
/-- Boot stopped at a step and waits for an image from the host's load area. -/
def sWants (step : BitVec 4) (b : List Byte) : State :=
  rooted { sBooted fun m => { m with step := step, hostLoad := areaOf b } with pw := { up.pw with phase := .bootStopped }, fuses := { up.fuses with bootsrc := true } }
theorem sWants_fuses (k : BitVec 4) (b : List Byte) : (sWants k b).fuses = { (rooted up).fuses with bootsrc := true } := rfl
theorem bootFail_bootsrc (u : Fuses) (x : Bool) (b : BootSource) (n : Nat) : bootFail { u with bootsrc := x } b n = bootFail u b n := rfl
theorem wit_hostimg_signed (h : Config.certOf [9] = some certV) : wantsImage (sWants 4 bootV.bytes) = true ∧
    areaObj (sWants 4 bootV.bytes).mon.hostLoad 0x3C0000 0 = bootV ∧ bootFail (sWants 4 bootV.bytes).fuses (hostSource (some bootV)) 2 = 0 := by
  refine ⟨by decide +kernel, by decide +kernel, ?_⟩
  have v := vendorOk_rooted h bootV (by decide +kernel) (by decide +kernel) (by decide +kernel)
  have a : hdrOk bootV 2 = true := by decide +kernel
  have o : (objHdr bootV).owner = false := by decide +kernel
  have r : (rooted up).fuses.revoked.getLsbD (objHdr bootV).keyId.toNat = false := by decide +kernel
  have b : hostSource (some bootV) = some bootV := by decide +kernel
  have f : floorOf (rooted up).fuses 2 ≤ (objHdr bootV).svn.toNat := by decide +kernel
  have g : signerOk (rooted up).fuses bootV 2 = true := by
    unfold signerOk
    rw [v, o]; rfl
  rw [sWants_fuses, bootFail_bootsrc, b]
  simp only [bootFail]
  rw [a, r, g]
  simp only [Bool.not_true, Bool.false_eq_true, if_false]
  exact if_neg (Nat.not_lt.mpr f)
/-- A header of version 7 fails with code 4. -/
theorem wit_hostimg : let s := sWants 1 [7]
    wantsImage s = true ∧ wantsImage (sBooted id) = false ∧ bootFail s.fuses (hostSource (some (areaObj s.mon.hostLoad 0x3C0000 0))) 1 = 4 ∧
    after (exec (.smReqHostimg 0 env1 0) s) (fun t => decide (t.mon.fail = 4 ∧ t.mon.reqStatus = rqREFUSED ∧ t.pw.phase = .bootStopped)) = true ∧
    after (exec (.smReqHostimg 0 env1 0) (sBooted id)) (fun t => decide (t.mon.reqStatus = rqREFUSED)) = true := by decide +kernel
theorem wit_fatalClear : hostReaches up 0 = true ∧
    after (exec .smFatalClear { up with mon := { up.mon with fatal := 5 } }) (fun t => decide (t.mon.fatal = 0)) = true := by decide +kernel

/-! ### Resets (18) -/

def sOff (l : List Rail) (low : Bool) : State := { State.reset with pw := { PwSt.reset with railsBad := l, perstLow := low } }
theorem wit_powerOn : (sOff [] false).pw.pwrgood = false ∧ (sOff [] false).pw.railsBad = [] ∧
    after (exec (.powerOnReset env1) { sOff [] false with fuses := { up.fuses with devidPins := 77 } }) (fun t => decide (t.pw.phase = .bootStopped ∧ t.fuses.devid = 77 ∧
      t.mon.step = 1 ∧ t.mon.fail = 5)) = true ∧
    after (exec (.powerOnReset env1) (sOff [] true)) (fun t => decide (t.pw.phase = .held ∧ t.pw.pwrgood = true)) = true := by decide +kernel
/-- A state with memory and a power cap of its own. -/
def sHot : State := { up with mem := [(5, 6)], pw := { up.pw with capWatts := 300 } }
theorem wit_pwrgoodFall : sHot.pw.pwrgood = true ∧ after (exec .pwrgoodFall sHot) (fun t => decide (t.pw.phase = .held ∧ t.mem = [] ∧ t.pw.capWatts = 500 ∧ t.funcs = [])) = true := by
  decide +kernel
theorem wit_rails : sHot.pw.railsBad.contains .vddCore = false ∧
    after (exec (.undervoltage .vddCore) sHot) (fun t => decide (t.pw.phase = .held ∧ t.pw.railsBad = [.vddCore])) = true ∧
    (let s := { sOff [.vddCore] false with pw := { (sOff [.vddCore] false).pw with pwrgood := true } }
     after (exec (.railReturn .vddCore env1) s) (fun t => decide (t.pw.railsBad = [] ∧ t.pw.phase = .bootStopped)) = true) := by decide +kernel
theorem wit_perst : sHot.pw.perstLow = false ∧ sHot.pw.clockStop ≠ some cTHERMTRIP ∧
    after (exec .perstNAssert sHot) (fun t => decide (t.pw.phase = .held ∧ t.mem = [(5, 6)] ∧ t.pw.capWatts = 300 ∧ t.pw.perstLow = true)) = true ∧
    (let s := { sOff [] true with pw := { (sOff [] true).pw with pwrgood := true } }
     after (exec (.perstNDeassert env1) s) (fun t => decide (t.pw.perstLow = false ∧ t.pw.phase = .bootStopped)) = true) := by decide +kernel
theorem wit_warm : configReaches sHot = true ∧
    after (exec (.pwWresetWrite 0x57525354 env1 4) sHot) (fun t => decide (t.pw.wrCause = 1 ∧ t.pw.wrCount = 1 ∧ t.time = 100000004 ∧ t.mem = [(5, 6)] ∧ t.pw.phase = .bootStopped)) = true ∧
    gives (exec (.pwWresetWrite 0x57525355 env1 4) sHot) sHot = true := by decide +kernel
/-- The PF and VF 2 are there; stream 7 is VF 2's. -/
def sFlr : State :=
  { sStream { stream0 with client := 2 } with funcs := [(0, { Fn.reset with enabled := true, ready := true }), (2, { Fn.reset with enabled := true, ready := true, inNext := 5 })] }
theorem wit_flr : configReaches sFlr = true ∧ fnExists sFlr 2 = true ∧ runtimeUp sFlr = true ∧
    after (exec (.flr 2 0) sFlr) (fun t => decide ((getFn t 2).inNext = 0 ∧ (getFn t 2).enabled = true ∧ (getStream t 7).state = .free)) = true ∧
    after (exec (.hotReset 0) sFlr) (fun t => decide ((getFn t 2).enabled = false ∧ (getStream t 7).state = .free)) = true := by decide +kernel
theorem wit_vfEnable : vfsOn up = false ∧ vfsOn sFlr = true ∧
    after (exec (.vfEnableWrite true 2) up) (fun t => decide ((getFn t 2).enabled = true ∧ (getFn t 3).enabled = false)) = true ∧
    after (exec (.vfEnableWrite false 0) sFlr) (fun t => decide ((getFn t 2).enabled = false ∧ (getFn t 0).enabled = true)) = true := by decide +kernel
theorem wit_partitionReset : let s := { sUe with parts := [(0, { part0 with resetDue := true, stopping := true })] }
    rtRuns s = true ∧ resetQuiet s 0 = true ∧
    after (exec (.partitionReset 0 0) s) (fun t => decide ((getPart t 0).resetDue = false ∧ (getPart t 0).task = none ∧ (getCore t 0).seq.phase = .idle)) = true := by decide +kernel

/-! ### Low power, loops, errors, board management (18 to 20) -/

theorem wit_c1 : (getCourse up 3).cst = .c0 ∧ courseBound up 3 = false ∧ after (exec (.c1Entry 3) up) (fun t => decide ((getCourse t 3).cst = .c1)) = true := by decide +kernel
/-- c2_delay is 50 ms: 5,000,000 ticks. -/
theorem wit_c2 : let s := { up with parts := [(0, { partIdle with courses := 3, idleSince := some 95000000 })] }
    partOfCourse s 1 = some 0 ∧ c2Due s (getPart s 0) = true ∧ c2Due { s with time := 99999999 } (getPart s 0) = false ∧ partOfCourse s 9 = none ∧
    after (exec (.c2Entry 1) s) (fun t => decide ((getCourse t 0).cst = .c2 ∧ (getCourse t 1).cst = .c2 ∧ (getCourse t 2).cst = .c0)) = true ∧
    after (exec (.c2Entry 9) s) (fun t => decide ((getCourse t 9).cst = .c2)) = true := by decide +kernel
theorem wit_c2Exit : let s := { putCState up 0 .c2 with cores := [(0, { CoreSt.reset with eng := { Engines.reset with sp := [(0, 9)] }, bwKey := 7 })] }
    (getCourse s 0).cst = .c2 ∧
    after (exec (.c2Exit 0) s) (fun t => decide ((getCourse t 0).cst = .c0 ∧ (getCore t 0).eng.sp = [] ∧ (getCore t 0).bwKey = 0)) = true := by decide +kernel
def sIdle : State := forAll allCourses (fun s k => putCState s k .c2) up
theorem wit_idle : (allCourses.all fun k => decide ((getCourse sIdle k).cst = .c2)) = true ∧ sIdle.pw.idle = false ∧
    after (exec .deviceIdleEntry sIdle) (fun t => t.pw.idle) = true ∧
    after (exec .deviceIdleExit { sIdle with pw := { sIdle.pw with idle := true } }) (fun t => !t.pw.idle) = true := by decide +kernel
theorem wit_standby : tasksOver up = true ∧
    after (exec (.standbyEntry 0) up) (fun t => decide (t.pw.standby = true ∧ (getFn t 0).ready = false ∧ (getCourse t 11).cst = .c2)) = true ∧
    (let s := { up with pw := { up.pw with pfD3 := true, standby := true }, funcs := [(0, { Fn.reset with enabled := true })] }
     after (exec (.standbyExit 0) s) (fun t => decide (t.pw.standby = false ∧ t.pw.pfD3 = false ∧ (getFn t 0).ready = true)) = true) := by decide +kernel

/-- The steps of R388 at their bounds: cap 500 W, hysteresis from the reset value. -/
def sDuty (d : BitVec 5) : State := { up with pw := { up.pw with dutyP := d, dutyT := d, capHyst := 10 } }
theorem wit_powerLoop : after (exec (.powerLoopTick 501 0) (sDuty 4)) (fun t => decide (t.pw.dutyP = 4 ∧ t.tele.pwRun.overCap = 1)) = true ∧
    after (exec (.powerLoopTick 501 0) (sDuty 16)) (fun t => decide (t.pw.dutyP = 15 ∧ t.tele.pwRun.overCap = 0)) = true ∧
    after (exec (.powerLoopTick 500 0) (sDuty 9)) (fun t => decide (t.pw.dutyP = 9)) = true ∧
    after (exec (.powerLoopTick 491 0) (sDuty 9)) (fun t => decide (t.pw.dutyP = 9)) = true ∧
    after (exec (.powerLoopTick 490 0) (sDuty 9)) (fun t => decide (t.pw.dutyP = 10)) = true ∧
    after (exec (.powerLoopTick 0 0) (sDuty 16)) (fun t => decide (t.pw.dutyP = 16)) = true := by decide +kernel
/-- 100 °C is 800, 97 °C is 776. -/
theorem wit_thermalLoop : after (exec (.thermalLoopTick 800 0) (sDuty 9)) (fun t => decide (t.pw.dutyT = 8 ∧ t.pw.alert = true)) = true ∧
    after (exec (.thermalLoopTick 777 0) (sDuty 9)) (fun t => decide (t.pw.dutyT = 9 ∧ t.pw.alert = false)) = true ∧
    after (exec (.thermalLoopTick 776 0) (sDuty 9)) (fun t => decide (t.pw.dutyT = 10)) = true ∧
    after (exec (.thermalLoopTick 4095 0) (sDuty 16)) (fun t => decide (t.pw.dutyT = 16)) = true := by decide +kernel
theorem wit_deviceErrors : configReaches up = true ∧ up.pw.stackDown.getLsbD 2 = false ∧
    after (exec (.thermtrip 0) up) (fun t => decide (t.fatal = true ∧ t.pw.thermtrip = true ∧ t.pw.clockStop = some cTHERMTRIP ∧ (getFn t 0).ready = false)) = true ∧
    after (exec (.clockLoss .hbmPll 0) up) (fun t => decide (t.fatal = true ∧ t.pw.clockStop = some cCLOCK ∧ t.aer = [0])) = true ∧
    after (exec (.hbmStackFailure 2 0) up) (fun t => decide (t.pw.stackDown = 4 ∧ t.pw.clockStop = none ∧ t.mon.fatal ≠ 0)) = true := by decide +kernel
theorem wit_heartbeat : let s := { up with beatAt := 99000000 }
    rtRuns (tick s 0) = true ∧ beatTicks ≤ ((tick s 0).time - s.beatAt).toNat ∧
    after (exec (.heartbeat 0) s) (fun t => decide (t.beat = 1 ∧ t.beatAt = 100000000)) = true := by decide +kernel
def sStall : State := { up with beatAt := 95000000 }
/-- 50 ms without a beat; two automatic warm resets stand within 600 s. -/
theorem wit_watchdog : stalled (tick sStall 0) = true ∧ autoOk (tick sStall 0) = true ∧ sStall.pw.autoDue = false ∧
    after (exec (.watchdogExpiry env1 0) sStall) (fun t => decide (t.pw.wrCause = 2 ∧ t.pw.wrCount = 1 ∧ t.pw.autoResets = [100000000])) = true ∧
    (let s := { sStall with pw := { up.pw with autoResets := [90000000, 91000000] } }
     autoOk (tick s 0) = false ∧ after (exec (.watchdogExpiry env1 0) s) (fun t => decide (t.pw.phase = .halted ∧ t.fatal = true)) = true) ∧
    (let s := { up with beatAt := 100000000, pw := { up.pw with autoDue := true } }
     after (exec (.watchdogExpiry env1 0) s) (fun t => decide (t.pw.wrCause = 2)) = true) := by decide +kernel
/-- Device number 13: the bus address is 0x58 + 5. -/
theorem wit_smbus : let s := { up with fuses := { up.fuses with devid := 13 }, pw := { up.pw with power := 321, alert := true } }
    s.pw.smbAck = true ∧ s.pw.clockStop = none ∧ s.pw.alert = true ∧
    after (exec (.smbusTransaction 0x5D true 1) s) (fun t => decide (t.pw.smbReply = some 321)) = true ∧
    after (exec (.smbusTransaction 0x58 true 1) s) (fun t => decide (t.pw.smbReply = none)) = true ∧
    after (exec (.smbusTransaction 0x5D false 1) s) (fun t => decide (t.pw.smbReply = none)) = true ∧
    after (exec .alertResponseRead s) (fun t => decide (t.pw.smbReply = some 0x5D ∧ t.pw.alert = false)) = true := by decide +kernel

end Sys2Proof.Tests
end

section
/-! PROOFS. The issue of a core command under `Issues`, and the sequencer's step to the next command: what the statements about CTRL
rest on (R70, R72, R75). -/

namespace Sys2Proof.Machine
open Sys2Proof

/-! ### A command that its core issues acts -/

/-- What `Issues` and the command's own condition ask is all that issue asks (R70, R72). -/
theorem issueWhen_of_issues {ready : State → Bool} {row : CmdRow} {c : CoreId} {w : CmdWord} {e : IssueEnv} {s : State}
    (body : State → State) (h : Issues row c w e s) (hready : ready (atIssue s c e) = true) :
    issueWhen ready row c w e s body = cycleFrom c e (body (atIssue s c e)) := by
  obtain ⟨hrow, hmay, hsound⟩ := h
  simp [issueWhen, cycleFrom, hrow, hmay, hsound, hready, -modSeq_eq]

theorem issueCore_of_issues {row : CmdRow} {c : CoreId} {w : CmdWord} {e : IssueEnv} {s : State} (body : State → State)
    (h : Issues row c w e s) : issueCore row c w e s body = cycleFrom c e (body (atIssue s c e)) :=
  issueWhen_of_issues body h rfl

/-! ### The next command -/

theorem advance_of_hasNext {s : State} {c : CoreId} (h : HasNext s c) : advance s c = onward s c := if_pos h

@[simp] theorem setSreg_pc (q : Seq) (k : Nat) (v : W64) : (setSreg q k v).pc = q.pc := by
  by_cases hk : k = 0 <;> simp [setSreg, hk]

@[simp] theorem setSreg_cmdMem (q : Seq) (k : Nat) (v : W64) : (setSreg q k v).cmdMem = q.cmdMem := by
  by_cases hk : k = 0 <;> simp [setSreg, hk]

/-- A register write moves neither the PC nor the end of the command stream. -/
@[simp] theorem hasNext_putS {s : State} {c : CoreId} {d : Nat} {v : W64} : HasNext (putS s c d v) c ↔ HasNext s c := by
  simp [HasNext, putS]

theorem setAdvance_of_hasNext {s : State} {c : CoreId} (d : Nat) (v : W64) (h : HasNext s c) :
    setAdvance s c d v = onward (putS s c d v) c :=
  advance_of_hasNext (hasNext_putS.mpr h)

end Sys2Proof.Machine
end

section
/-! PROOFS. NOP, LI and ALU: the model's ALU is Table 4-4 over the integers, and each of the three commands goes on to the next (R74). -/

namespace Sys2Proof.Machine
open Sys2Proof

/-! ### Table 4-4 -/

theorem toNat_ite_one_zero (p : Prop) [Decidable p] : (if p then 1 else 0 : W64).toNat = if p then 1 else 0 :=
  apply_ite BitVec.toNat p 1 0

theorem toInt_ite_slt (a y : W64) :
    (if a.slt y then a else y).toInt = min a.toInt y.toInt ∧ (if a.slt y then y else a).toInt = max a.toInt y.toInt := by
  simp only [BitVec.slt_iff_toInt_lt, apply_ite BitVec.toInt]
  constructor <;> split <;> omega

theorem toNat_ite_ult (a y : W64) :
    (if a.ult y then a else y).toNat = min a.toNat y.toNat ∧ (if a.ult y then y else a).toNat = max a.toNat y.toNat := by
  simp only [BitVec.ult_iff_toNat_lt, apply_ite BitVec.toNat]
  constructor <;> split <;> omega

/-- The difference is the word that gives `a` back when `y` is added. -/
theorem toNat_sub_add_toNat (a y : W64) : ((a - y).toNat + y.toNat) % 2 ^ 64 = a.toNat := by
  rw [← BitVec.toNat_add, BitVec.sub_add_cancel]

/-- Each listed operation of the model's ALU is that of Table 4-4. -/
theorem aluOp_result {op : Nat} (hop : op ≤ 15) (a y : W64) : AluResult op a y (aluOp op a y) := by
  match op, hop with
  | 0, _ => exact BitVec.toNat_add a y
  | 1, _ => exact toNat_sub_add_toNat a y
  | 2, _ => exact fun _ => BitVec.getLsbD_and
  | 3, _ => exact fun _ => BitVec.getLsbD_or
  | 4, _ => exact fun _ => BitVec.getLsbD_xor
  | 5, _ => simp only [AluResult, aluOp, BitVec.toNat_shiftLeft, Nat.shiftLeft_eq]
  | 6, _ => simp only [AluResult, aluOp, BitVec.toNat_ushiftRight, Nat.shiftRight_eq_div_pow]
  | 7, _ => simp only [AluResult, aluOp, BitVec.toInt_sshiftRight, Int.shiftRight_eq_div_pow]; norm_cast
  | 8, _ => exact BitVec.toNat_mul a y
  | 9, _ => exact (toInt_ite_slt a y).1
  | 10, _ => exact (toInt_ite_slt a y).2
  | 11, _ => exact (toNat_ite_ult a y).1
  | 12, _ => exact (toNat_ite_ult a y).2
  | 13, _ => simp only [AluResult, aluOp, BitVec.slt_iff_toInt_lt, toNat_ite_one_zero]
  | 14, _ => simp only [AluResult, aluOp, BitVec.ult_iff_toNat_lt, toNat_ite_one_zero]
  | 15, _ => exact toNat_ite_one_zero (a = y)

/-- A sound ALU word names a listed operation (Table 4-4: 16 to 31 are reserved). -/
theorem aluOp_le_of_sound {t : Tbl W64} {w : CmdWord} (h : malformed .alu t w = false) : wfld w 52 48 ≤ 15 := by
  simp only [malformed, Bool.or_eq_false_iff, decide_eq_false_iff_not] at h
  obtain ⟨_, _, hop⟩ := h
  exact Nat.le_of_not_gt hop

/-! ### The commands -/

variable {c : CoreId} {w : CmdWord} {e : IssueEnv} {s : State}

theorem exec_ctrlNop_of_issues (hn : HasNext (atIssue s c e) c) (h : Issues .nop c w e s) :
    exec (.ctrlNop c w e) s = cycleFrom c e (onward (atIssue s c e) c) := by
  have hexec : exec (.ctrlNop c w e) s = issueCore .nop c w e s fun t => advance t c := rfl
  rw [hexec, issueCore_of_issues _ h, advance_of_hasNext hn]

theorem exec_ctrlLi_of_issues (hn : HasNext (atIssue s c e) c) (h : Issues .li c w e s) :
    exec (.ctrlLi c w e) s =
      cycleFrom c e (onward (putS (atIssue s c e) c (wfld w 36 32) (BitVec.ofNat 64 (wfld w 127 64))) c) := by
  have hexec : exec (.ctrlLi c w e) s =
      issueCore .li c w e s fun t => setAdvance t c (wfld w 36 32) (BitVec.ofNat 64 (wfld w 127 64)) := rfl
  rw [hexec, issueCore_of_issues _ h, setAdvance_of_hasNext _ _ hn]

theorem exec_ctrlAlu_of_issues (hn : HasNext (atIssue s c e) c) (h : Issues .alu c w e s) :
    exec (.ctrlAlu c w e) s =
      cycleFrom c e (onward (putS (atIssue s c e) c (wfld w 36 32)
        (aluOp (wfld w 52 48) (sOf (atIssue s c e) c (wfld w 41 37)) (aluY (atIssue s c e) c w))) c) := by
  have hexec : exec (.ctrlAlu c w e) s = issueCore .alu c w e s fun t =>
      setAdvance t c (wfld w 36 32) (aluOp (wfld w 52 48) (sOf t c (wfld w 41 37)) (aluY t c w)) := rfl
  rw [hexec, issueCore_of_issues _ h, setAdvance_of_hasNext _ _ hn]

/-- Settles O7: each command is its own act at issue, and the word that ALU writes is Table 4-4's for every operation that a sound word
can name. -/
theorem nopLiAluComplete : Obligations.NopLiAluComplete := by
  intro c w e s t hn
  refine ⟨exec_ctrlNop_of_issues hn, exec_ctrlLi_of_issues hn, fun h => ?_⟩
  exact ⟨_, aluOp_result (aluOp_le_of_sound h.sound) _ (aluY t c w), exec_ctrlAlu_of_issues hn h⟩

end Sys2Proof.Machine
end

section
/-! PROOFS. SP_DRONE: what marking groups zeroes, and when the monitor does it (R117). -/

namespace Sys2Proof.Machine
open Sys2Proof

/-! ### The two conditions: no task runs, and SP_TASK stays sound -/

theorem taskRuns_iff {s : State} {c : CoreId} :
    taskRuns s c = true ↔ ∃ p, partOfCore s c = some p ∧ (getPart s p).task.isSome = true ∧ (getPart s p).atMeet = false := by
  unfold taskRuns
  split
  case h_1 hnone => simp [hnone]
  case h_2 p hp => simp [hp]

theorem spTaskOk_iff {groups : Nat} {r : SpTask} :
    spTaskOk groups r = true ↔
      r.baseGrp.toNat * 0x20000 + r.bound.toNat * 4096 ≤ droneStart groups ∧ r.bound.toNat * 4096 + r.dsize.toNat * 4096 ≤ 0x100000 ∧
      (r.dsize = 0 ∨ droneStart groups ≤ r.dbase.toNat * 4096 ∧ (r.dbase.toNat + r.dsize.toNat) * 4096 ≤ 0x100000 ∧
        r.dbase.toNat * 4096 / 0x20000 = ((r.dbase.toNat + r.dsize.toNat) * 4096 - 1) / 0x20000) := by
  simp [spTaskOk, and_assoc]

/-! ### What a new value zeroes -/

/-- An address lies in the drone region where its group is a marked one. -/
theorem droneStart_le_iff {groups a : Nat} : droneStart groups ≤ a ↔ 8 - groups ≤ a / 0x20000 := by
  unfold droneStart
  omega

theorem div_mem_changedGroups_iff {p q a : Nat} (ha : a < 0x100000) :
    a / 0x20000 ∈ changedGroups p q ↔ (decide (droneStart p ≤ a) != decide (droneStart q ≤ a)) = true := by
  have hgroup : a / 0x20000 < 8 := by omega
  simp only [changedGroups, List.mem_filter, List.mem_range, hgroup, true_and, droneStart_le_iff]

/-- Clearing whole groups zeroes the addresses in those groups and no others. -/
theorem rd_clearGroups {l : List Nat} {sp : Tbl Byte} {a : Nat} :
    Memory.rd (l.foldl (fun t g => tclear t (g * 0x20000) 0x20000) sp) a = if a / 0x20000 ∈ l then 0 else Memory.rd sp a := by
  induction l generalizing sp with
  | nil => simp
  | cons g l ih =>
    have hgroup : g * 0x20000 ≤ a ∧ a < g * 0x20000 + 0x20000 ↔ a / 0x20000 = g := by omega
    have hhead : Memory.rd (tclear sp (g * 0x20000) 0x20000) a = if a / 0x20000 = g then 0 else Memory.rd sp a :=
      Memory.rd_zero.trans (ite_congr (propext hgroup) (fun _ => rfl) (fun _ => rfl))
    rw [List.foldl_cons, ih, hhead]
    by_cases hl : a / 0x20000 ∈ l <;> simp [hl]

@[simp] theorem setDrone_drone (x : CoreSt) (g : BitVec 2) : (setDrone x g).drone = g := rfl
@[simp] theorem setDrone_spTask (x : CoreSt) (g : BitVec 2) : (setDrone x g).spTask = x.spTask := rfl

theorem rd_setDrone {x : CoreSt} {g : BitVec 2} {a : Nat} (ha : a < 0x100000) :
    Memory.rd (setDrone x g).eng.sp a =
      if (decide (droneStart x.drone.toNat ≤ a) != decide (droneStart g.toNat ≤ a)) then 0 else Memory.rd x.eng.sp a := by
  simp only [setDrone, rd_clearGroups, div_mem_changedGroups_iff ha]

/-! ### The monitor's act -/

@[simp] theorem answer_cores (s : State) (op : Nat) (b : Bool) : (answer s op b).cores = s.cores := by simp only [answer]

@[simp] theorem getCore_answer (s : State) (op : Nat) (b : Bool) (c : CoreId) : getCore (answer s op b) c = getCore s c := by
  simp only [getCore, answer_cores]

/-- A core set and an answer in the monitor's ring leave the rest of the device. -/
theorem sameElsewhere_answer_setCore (s : State) (c : CoreId) (x : CoreSt) (op : Nat) (b : Bool) :
    SameElsewhere s (answer (setCore s c x) op b) c :=
  ⟨rfl, rfl, rfl, fun d hd => by rw [getCore_answer, getCore_setCore_ne s c d x hd], rfl, rfl, rfl, rfl, rfl, rfl⟩

section
variable {c : CoreId} {g : BitVec 2} {s : State}

/-- What R117 asks of SP_DRONE before it takes `g`. -/
def MayMark (s : State) (c : CoreId) (g : BitVec 2) : Prop :=
  taskRuns s c = false ∧ g ≠ 3 ∧ spTaskOk g.toNat (getCore s c).spTask = true

theorem exec_droneMark_of_mayMark (hdev : devRuns s = true) (h : MayMark s c g) :
    exec (.droneMark c g) s = .next (answer (setCore s c (setDrone (getCore s c) g)) opDRONE false) := by
  have hexec : exec (.droneMark c g) s = execDroneMark c g s := rfl
  rw [hexec, execDroneMark, if_neg (by simp [hdev])]
  exact congrArg Host.Outcome.next (if_pos h)

theorem exec_droneMark_of_not_mayMark (hdev : devRuns s = true) (h : ¬MayMark s c g) :
    exec (.droneMark c g) s = .next (answer s opDRONE true) := by
  have hexec : exec (.droneMark c g) s = execDroneMark c g s := rfl
  rw [hexec, execDroneMark, if_neg (by simp [hdev])]
  exact congrArg Host.Outcome.next (if_neg h)

end

/-- Settles O30: where R117 lets SP_DRONE change, the groups between the old and the new beginning of the region are cleared and no others;
everywhere else the monitor only answers. -/
theorem droneRegionIsMarked : Obligations.DroneRegionIsMarked := by
  refine ⟨fun groups _ => rfl, fun c g s hdev => ?_⟩
  intro x begin r lo hi holds running
  have hruns : taskRuns s c = true ↔ running := taskRuns_iff
  have hok : spTaskOk g.toNat r = true ↔ holds := spTaskOk_iff
  have hmay : MayMark s c g ↔ ¬running ∧ g ≠ 3 ∧ holds := by
    rw [MayMark, ← hruns, ← hok, Bool.not_eq_true]
  refine ⟨fun hg hrun hholds => ?_, fun hnot => ?_⟩
  · exact ⟨_, exec_droneMark_of_mayMark hdev (hmay.mpr ⟨hrun, hg, hholds⟩), by simp, by simp [r, x],
      sameElsewhere_answer_setCore .., fun a ha => by rw [getCore_answer, getCore_setCore]; exact rd_setDrone ha⟩
  · have hmust : ¬MayMark s c g := by
      rw [hmay]
      rintro ⟨hrun, hg, hholds⟩
      exact hnot.elim hg (·.elim hrun (· hholds))
    exact ⟨_, exec_droneMark_of_not_mayMark hdev hmust, rfl, rfl, rfl⟩

end Sys2Proof.Machine
end

section
/-! PROOFS. ST_IMAGE: the list of R177 over the fields of the written word (Table 8-5), and what a write leaves. -/

namespace Sys2Proof.Machine
open Sys2Proof

/-! ### The fields of a written word -/

theorem toNat_extractLsb'_eq_div_mod (v : W64) (start len : Nat) : (v.extractLsb' start len).toNat = v.toNat / 2 ^ start % 2 ^ len := by
  rw [BitVec.extractLsb'_toNat, Nat.shiftRight_eq_div_pow]

@[simp] theorem stImageOf_genSize_toNat (v : W64) : (stImageOf v).genSize.toNat = v.toNat % 2 ^ 20 :=
  (toNat_extractLsb'_eq_div_mod v 0 20).trans (by rw [Nat.pow_zero, Nat.div_one])
@[simp] theorem stImageOf_fe_toNat (v : W64) : (stImageOf v).fe.toNat = v.toNat / 2 ^ 20 % 2 ^ 7 := toNat_extractLsb'_eq_div_mod v 20 7
@[simp] theorem stImageOf_wcap_toNat (v : W64) : (stImageOf v).wcap.toNat = v.toNat / 2 ^ 27 % 2 ^ 12 := toNat_extractLsb'_eq_div_mod v 27 12
@[simp] theorem stImageOf_blkSize_toNat (v : W64) : (stImageOf v).blkSize.toNat = v.toNat / 2 ^ 39 % 2 ^ 24 :=
  toNat_extractLsb'_eq_div_mod v 39 24

/-! ### The list of R177 -/

/-- R177 over the numbers that the fields hold: all are 0, or each item of the list holds. -/
theorem stImageOk_iff {r : StImage} :
    stImageOk r = true ↔
      (r.genSize.toNat = 0 ∧ r.fe.toNat = 0 ∧ r.wcap.toNat = 0 ∧ r.blkSize.toNat = 0) ∨
      (1 ≤ r.genSize.toNat ∧ 1 ≤ r.fe.toNat ∧ r.fe.toNat ≤ 64 ∧
        (r.wcap.toNat = 0 ∨ r.fe.toNat ≤ r.wcap.toNat ∧ r.wcap.toNat ≤ min 4095 (65 * r.fe.toNat)) ∧
        2 * r.genSize.toNat ≤ r.blkSize.toNat ∧ (r.wcap.toNat ≠ 0 → 2 * r.genSize.toNat < r.blkSize.toNat)) := by
  have hzero {n : Nat} (b : BitVec n) : b = 0 ↔ b.toNat = 0 := BitVec.toNat_eq
  simp only [stImageOk, Bool.or_eq_true, Bool.and_eq_true, decide_eq_true_eq, and_assoc, hzero, ne_eq, ← Decidable.or_iff_not_imp_left]

/-! ### The write -/

theorem writeStImage_of_ok {x : CoreSt} {v : W64} (h : stImageOk (stImageOf v) = true) :
    writeStImage x v = { x with stImage := { stImageOf v with cfgRej := x.stImage.cfgRej && !v.getLsbD 63 } } := by
  simp [writeStImage, putStImage, rangedWrite, rejFlag, w1cBit, h]

theorem writeStImage_of_not_ok {x : CoreSt} {v : W64} (h : ¬stImageOk (stImageOf v) = true) :
    writeStImage x v = { x with stImage := { x.stImage with cfgRej := true } } := by
  simp [writeStImage, putStImage, rangedWrite, rejFlag, h]

theorem writeStImage_frame (x : CoreSt) (v : W64) : writeStImage x v = { x with stImage := (writeStImage x v).stImage } := rfl

theorem exec_stImageWrite_of_idle {c : CoreId} {v : W64} {s : State} (hrt : rtRuns s = true) (hidle : taskRuns s c = false) :
    exec (.stImageWrite c v) s = .next (setCore s c (writeStImage (getCore s c) v)) := by
  have hexec : exec (.stImageWrite c v) s = execStImageWrite c v s := rfl
  rw [hexec, execStImageWrite, if_pos ⟨hrt, hidle⟩, modCore_eq]

/-- A core set leaves the rest of the device. -/
theorem sameElsewhere_setCore (s : State) (c : CoreId) (x : CoreSt) : SameElsewhere s (setCore s c x) c :=
  ⟨rfl, rfl, rfl, fun d hd => getCore_setCore_ne s c d x hd, rfl, rfl, rfl, rfl, rfl, rfl⟩

/-- Settles O29: the model's check is R177's list over the fields of the word, so the two outcomes of the write are the two of the rule. -/
theorem stImageIsTaken : Obligations.StImageIsTaken := by
  intro c v s hrt hidle x gen fe wcap blk sound
  have hok : stImageOk (stImageOf v) = true ↔ sound := by
    rw [stImageOk_iff, stImageOf_genSize_toNat, stImageOf_fe_toNat, stImageOf_wcap_toNat, stImageOf_blkSize_toNat]
  refine ⟨_, exec_stImageWrite_of_idle hrt hidle, sameElsewhere_setCore .., ?_⟩
  rw [getCore_setCore]
  refine ⟨⟨_, writeStImage_frame x v⟩, fun hsound => ?_, fun hnot => ?_⟩
  · rw [writeStImage_of_ok (hok.mpr hsound)]
    exact ⟨stImageOf_genSize_toNat v, stImageOf_fe_toNat v, stImageOf_wcap_toNat v, stImageOf_blkSize_toNat v, rfl⟩
  · rw [writeStImage_of_not_ok (mt hok.mp hnot)]

end Sys2Proof.Machine
end

section
/-! PROOFS. The end of a power loop period: R388's move of `duty_p`, what the period adds to the power summary, and what it leaves. -/

namespace Sys2Proof.Machine
open Sys2Proof

/-! ### Device time passes -/

@[simp] theorem tick_pw (s : State) (dt : Nat) : (tick s dt).pw = s.pw := by unfold tick; split <;> rfl
@[simp] theorem tick_tele (s : State) (dt : Nat) : (tick s dt).tele = s.tele := by unfold tick; split <;> rfl
@[simp] theorem tick_mem (s : State) (dt : Nat) : (tick s dt).mem = s.mem := by unfold tick; split <;> rfl

/-! ### The lowest duty of the interval is noted -/

@[simp] theorem noteDuty_pw (s : State) : (noteDuty s).pw = s.pw := by unfold noteDuty; dsimp only; split <;> rfl
@[simp] theorem noteDuty_mem (s : State) : (noteDuty s).mem = s.mem := by unfold noteDuty; dsimp only; split <;> rfl
@[simp] theorem noteDuty_overCap (s : State) : (noteDuty s).tele.pwRun.overCap = s.tele.pwRun.overCap := by
  unfold noteDuty; dsimp only; split <;> rfl

/-! ### The step and the period -/

/-- R388 over numbers: either move stays within five bits, so the word holds the rule's own value. -/
theorem toNat_powerStep (d : BitVec 5) (power watts hyst : Nat) :
    (powerStep d power watts hyst).toNat =
      if watts < power then max 4 (d.toNat - 1) else if power + hyst ≤ watts then min 16 (d.toNat + 1) else d.toNat := by
  have hdown : max 4 (d.toNat - 1) < 2 ^ 5 := by omega
  have hup : min 16 (d.toNat + 1) < 2 ^ 5 := by omega
  simp only [powerStep, apply_ite BitVec.toNat, BitVec.toNat_ofNat, Nat.mod_eq_of_lt hdown, Nat.mod_eq_of_lt hup]

@[simp] theorem powerLoop_pw (s : State) (power : BitVec 16) :
    (powerLoop s power).pw =
      { s.pw with power := power, dutyP := powerStep s.pw.dutyP power.toNat s.pw.capWatts.toNat s.pw.capHyst.toNat } :=
  noteDuty_pw _

@[simp] theorem powerLoop_mem (s : State) (power : BitVec 16) : (powerLoop s power).mem = s.mem := noteDuty_mem _

/-- A period above the cap at the lowest duty is one more in the summary. -/
theorem powerLoop_overCap (s : State) (power : BitVec 16) :
    (powerLoop s power).tele.pwRun.overCap =
      s.tele.pwRun.overCap + (if s.pw.dutyP.toNat ≤ 4 ∧ s.pw.capWatts.toNat < power.toNat then 1 else 0) := by
  have hsame : s.tele.pwRun.overCap + 0 = s.tele.pwRun.overCap := BitVec.add_zero _
  rw [apply_ite (s.tele.pwRun.overCap + ·), hsame]
  exact noteDuty_overCap _

theorem exec_powerLoopTick_of_devRuns {power : BitVec 16} {dt : Nat} {s : State} (hdev : devRuns s = true) :
    exec (.powerLoopTick power dt) s = .next (powerLoop (tick s dt) power) :=
  congrArg Host.Outcome.next (if_pos hdev)

/-- Settles O58: the period's end is `powerLoop` at the new time, whose step of `dutyP` is R388's. -/
theorem powerLoopMovesTheDuty : Obligations.PowerLoopMovesTheDuty := by
  intro power dt s hdev d cap
  refine ⟨_, exec_powerLoopTick_of_devRuns hdev, ?power, ?dutyT, ?mem, ?overCap, ?dutyP⟩
  case power => rw [powerLoop_pw]
  case dutyT => rw [powerLoop_pw, tick_pw]
  case mem => rw [powerLoop_mem, tick_mem]
  case overCap => rw [powerLoop_overCap, tick_tele, tick_pw]
  case dutyP => rw [powerLoop_pw, tick_pw]; exact toNat_powerStep ..

end Sys2Proof.Machine
end

section
/-! PROOFS. What one command does to the queue, the two memories, the PW registers and the fuses: every row's meaning `Keeps` them, so that
the invariant of every step, the promises of the fuses and the order of the queue follow together. -/

namespace Sys2Proof.Machine
open Sys2Proof

/-! ### The rows of the four queues -/

/-- The queued rows are one act: the word is checked, and the command enters its queue. SUMMARY ASK notes its ASK first (R85). -/
theorem exec_of_queuedOf {i : Instr} {row : CmdRow} {kind : QKind} {c : CoreId} {w : CmdWord} {e : IssueEnv} (s : State)
    (h : queuedOf i = some (row, kind, c, w, e)) (hask : kind ≠ .summaryAsk) : exec i s = issueQ row kind c w e s := by
  unfold queuedOf at h
  split at h
  case h_2 => cases h; exact absurd rfl hask
  case h_34 => cases h
  all_goals cases h; rfl

/-! ### Commands of the cores -/

section
variable {s : State}

theorem keepsNext_exec_of_queuedOf {i : Instr} (h : (queuedOf i).isSome = true) : KeepsNext s (exec i s) := by
  obtain ⟨⟨row, kind, c, w, e⟩, hq⟩ := Option.isSome_iff_exists.mp h
  by_cases hask : kind = .summaryAsk
  · subst hask
    unfold queuedOf at hq
    split at hq
    case h_2 => exact keeps_issueWhen (.refl s) fun _ hu => keeps_askBody hu
    all_goals cases hq
  · exact exec_of_queuedOf s hq hask ▸ keeps_issueQ (.refl s)

theorem keepsNext_dmaComplete (r : CoreRun) : KeepsNext s (execDmaComplete r s) := by
  unfold execDmaComplete
  dsimp only
  refine keepsNext_ite (keeps_next (.refl s)) ?_
  split
  · exact keeps_next (keeps_runFor (.refl s))
  · exact keepsNext_ite (keeps_next (keeps_runPast (keeps_runFor (.refl s))))
      (keepsNext_ite (keeps_next (keeps_failHead (keeps_runFor (.refl s)))) (keeps_next (keeps_finishMemory (keeps_runFor (.refl s)))))

theorem keepsNext_adrainComplete (r : CoreRun) : KeepsNext s (execAdrainComplete r s) := by
  unfold execAdrainComplete
  dsimp only
  refine keepsNext_ite (keeps_next (.refl s)) ?_
  split
  · exact keeps_next (keeps_finishMemory (keeps_runFor (.refl s)))
  · exact keeps_next (keeps_runFor (.refl s))

theorem keepsNext_semBlockCycle (p : PartId) (l : List CoreId) : KeepsNext s (execSemBlockCycle p l s) := by
  unfold execSemBlockCycle
  exact keepsNext_ite (keeps_next (.refl s)) (keeps_next (keeps_foldl (keeps_foldl (keeps_modPart (.refl s)) fun _ _ h => keeps_applyPost h)
    fun _ _ h => keeps_evalSem h))

theorem keepsNext_syncTimeout (c : CoreId) (dt : Nat) : KeepsNext s (execSyncTimeout c dt s) := by
  unfold execSyncTimeout
  dsimp only
  split
  · exact keepsNext_ite (keeps_next (.refl s)) (keeps_next (keeps_raiseTask (keeps_dropSem (keeps_tick (.refl s)))))
  · exact keeps_next (.refl s)

theorem keepsNext_decisionTimeout (c : CoreId) (tag : BitVec 16) (dt : Nat) : KeepsNext s (execDecisionTimeout c tag dt s) := by
  unfold execDecisionTimeout
  dsimp only
  split
  · exact keeps_next (.refl s)
  · exact keepsNext_ite (keeps_next (.refl s)) (keeps_next (keeps_raiseTask (keeps_dropSem (keeps_tick (.refl s)))))

theorem keepsNext_decisionArrival (r : CoreRun) (tag : BitVec 16) (b : List Byte) : KeepsNext s (execDecisionArrival r tag b s) := by
  unfold execDecisionArrival
  dsimp only
  refine keepsNext_ite (keeps_next (.refl s)) ?_
  split
  · exact keeps_next (.refl s)
  · exact keeps_next (keeps_modSeq (keeps_runFor (.refl s)))

/-! ### Firmware commands -/

theorem firstBad_eq_none_iff {l : List (Bool × BitVec 16)} : firstBad l = none ↔ Passes l := by
  simp [firstBad, Passes]

theorem checked_of_passes {u : State} {f : Func} {k : Taken} {l : List (Bool × BitVec 16)} (go : Option State) (h : Passes l) :
    checked u f k l go = go := by
  rw [checked, firstBad_eq_none_iff.mpr h]

/-- A command that is answered is refused or has passed its checks. -/
theorem keeps_checked_of_passes {u : State} {f : Func} {k : Taken} {l : List (Bool × BitVec 16)} {go : Option State} (hu : Keeps s u)
    (hgo : Passes l → KeepsSome s go) : KeepsSome s (checked u f k l go) := by
  by_cases h : Passes l
  · rw [checked_of_passes go h]
    exact hgo h
  · unfold checked
    split
    · exact keeps_some (keeps_refuseCmd hu)
    case h_2 hnone => exact absurd (firstBad_eq_none_iff.mp hnone) h

theorem keepsNext_modelLoad (f : Func) (img : Option Image) (ch : LoadChoice) (dt : Nat) : KeepsNext s (execModelLoad f img ch dt s) := by
  unfold execModelLoad
  refine keeps_runCmd (.refl s) fun t u hu => keeps_checked hu (keepsSome_ite keeps_none ?_)
  split
  · exact keeps_some (keeps_noteHostFault (keeps_refuseCmd hu))
  refine keeps_checked hu ?_
  split
  · split
    · exact keeps_none
    · exact keepsSome_ite (keeps_some (keeps_upd.mpr hu)) (keeps_checked hu (keepsSome_ite (keeps_loadAgain hu) (keeps_loadInto hu)))
  · exact keeps_checked hu (keeps_loadNew hu)

theorem keepsNext_modelLoadComplete (f : Func) (tag : BitVec 16) (ch : PlaceChoice) (dt : Nat) :
    KeepsNext s (execModelLoadComplete f tag ch dt s) := by
  unfold execModelLoadComplete
  refine keeps_next ?_
  split
  · exact .refl s
  split
  · exact .refl s
  split
  · exact .refl s
  · refine keeps_ite ?_ (.refl s)
    cases h : completeLoad (tick s dt) _ _ _ ch with
    | none => exact .refl s
    | some t => exact (keeps_completeLoad (keeps_tick (.refl s))).get t h

theorem keepsNext_modelUnload (f : Func) (dt : Nat) : KeepsNext s (execModelUnload f dt s) := by
  unfold execModelUnload
  exact keeps_runCmd (.refl s) fun _ _ hu => keeps_checked hu (keeps_some (keeps_settleProgress (keeps_upd.mpr
    (keeps_foldl (keeps_dropUser hu) fun _ _ h => keeps_triggerReclaim h))))

theorem keepsNext_modelPlace (f : Func) (ch : PlaceChoice) (dt : Nat) : KeepsNext s (execModelPlace f ch dt s) := by
  unfold execModelPlace
  refine keeps_runCmd (.refl s) fun t u hu => keeps_checked hu ?_
  split
  · exact keeps_none
  · exact keeps_checked hu (keepsSome_ite (keeps_some (keeps_okCmd (keeps_placeModel hu))) keeps_none)

theorem keepsNext_quantPolicy (f : Func) (dt : Nat) : KeepsNext s (execQuantPolicy f dt s) := by
  unfold execQuantPolicy
  refine keeps_runCmd (.refl s) fun t u hu => keeps_checked hu ?_
  split
  · exact keeps_some (keeps_refuseCmd hu)
  · exact keeps_checked hu (keeps_some (keeps_okCmd (keeps_setModel hu)))

theorem keepsNext_partitionCreate (f : Func) (p : PartId) (dt : Nat) : KeepsNext s (execPartitionCreate f p dt s) := by
  unfold execPartitionCreate
  exact keeps_runCmd (.refl s) fun _ _ hu => keeps_checked hu (keepsSome_ite (keeps_some (keeps_refuseCmd (keeps_answer hu)))
    (keepsSome_ite keeps_none (keeps_some (keeps_okCmd (keeps_createPart hu)))))

theorem keepsNext_partitionDestroy (f : Func) (dt : Nat) : KeepsNext s (execPartitionDestroy f dt s) := by
  unfold execPartitionDestroy
  exact keeps_runCmd (.refl s) fun _ _ hu => keeps_checked hu (keeps_some (keeps_settleProgress (keeps_endDestroy (keeps_upd.mpr
    (keeps_foldl (keeps_modPart hu) fun _ _ h => keeps_triggerReclaim h)))))

theorem keepsNext_jobMove (f : Func) (ch : PlaceChoice) (dt : Nat) : KeepsNext s (execJobMove f ch dt s) := by
  unfold execJobMove
  refine keeps_runCmd (.refl s) fun t u hu => keeps_checked hu ?_
  split
  · exact keeps_some (keeps_refuseCmd hu)
  split
  · exact keeps_some (keeps_refuseCmd hu)
  · exact keeps_checked hu (keepsSome_ite (keeps_some (keeps_okCmd (keeps_moveJob hu))) keeps_none)

theorem keepsNext_programSubmit (f : Func) (img : Option Image) (ch : PlaceChoice) (dt : Nat) :
    KeepsNext s (execProgramSubmit f img ch dt s) := by
  unfold execProgramSubmit
  refine keeps_runCmd (.refl s) fun t u hu => keeps_checked hu (keepsSome_ite keeps_none ?_)
  split
  · exact keeps_some (keeps_refuseCmd (keeps_noteHostFault hu))
  · exact keeps_checked hu (keepsSome_ite (keeps_some (keeps_okCmd (keeps_submitJob hu))) keeps_none)

theorem keepsNext_statusGet (f : Func) (dt : Nat) : KeepsNext s (execStatusGet f dt s) := by
  unfold execStatusGet
  refine keeps_runCmd (.refl s) fun t u hu => keeps_checked hu (keeps_some ?_)
  split
  · exact keeps_okCmd hu
  · exact keeps_okCmd (keeps_ite (keeps_clearSb hu) hu)
  · exact keeps_okCmd hu

theorem keepsNext_accountGet (f : Func) (dt : Nat) : KeepsNext s (execAccountGet f dt s) := by
  unfold execAccountGet
  exact keeps_runCmd (.refl s) fun _ _ hu => keeps_checked hu (keeps_some (keeps_okCmd (keeps_hostWr
    (keeps_ite hu (keeps_forAll hu fun _ _ h => keeps_ite (keeps_closeIdle h) h)))))

/-- A sound `power.cap` names watts in the range of PW_CAP (Table 18-9). -/

theorem keepsNext_powerCap (f : Func) (dt : Nat) : KeepsNext s (execPowerCap f dt s) := by
  unfold execPowerCap
  refine keeps_runCmd (.refl s) fun k u hu => keeps_checked_of_passes hu fun hpass => ?_
  refine keeps_some (keeps_okCmd (keeps_pw hu fun i => ⟨i.dutyP, i.dutyT, ?_, i.hyst, i.delay⟩))
  have hform := hpass (_, stMALFORMED) (List.mem_append_right _ (List.mem_singleton_self _))
  simp only [Bool.or_eq_false_iff, decide_eq_false_iff_not] at hform
  obtain ⟨⟨-, hlo⟩, hhi⟩ := hform
  have hfits : argF k 15 0 % 2 ^ 16 = argF k 15 0 := Nat.mod_eq_of_lt (by omega)
  simp only [BitVec.toNat_ofNat, hfits]
  omega

theorem keepsNext_streamOpen (f : Func) (ch : OpenChoice) (dt : Nat) : KeepsNext s (execStreamOpen f ch dt s) := by
  unfold execStreamOpen
  refine keeps_runCmd (.refl s) fun t u hu => keeps_checked hu ?_
  split
  · exact keeps_none
  refine keeps_checked hu ?_
  split
  · exact keeps_none
  · exact keepsSome_ite (keeps_some (keeps_openStream hu)) keeps_none

theorem keepsNext_streamPush (f : Func) (l : HostRead) (audio : List HostRead) (dt : Nat) : KeepsNext s (execStreamPush f l audio dt s) := by
  unfold execStreamPush
  refine keeps_runCmd (.refl s) fun t u hu => keeps_checked hu (keepsSome_ite (keeps_some (keeps_okCmd hu)) ?_)
  split
  · exact keeps_some (keeps_refuseCmd (keeps_noteHostFault hu))
  · exact keeps_some (keeps_pushList hu)

theorem keepsNext_windowOpen (f : Func) (dt : Nat) : KeepsNext s (execWindowOpen f dt s) := by
  unfold execWindowOpen
  refine keeps_runCmd (.refl s) fun t u hu => keeps_checked hu ⟨fun z hz => ?_⟩
  obtain ⟨n, -, rfl⟩ := Option.map_eq_some_iff.mp hz
  exact keeps_okCmd (keeps_openWindow hu)

theorem keepsNext_windowClose (f : Func) (dt : Nat) : KeepsNext s (execWindowClose f dt s) := by
  unfold execWindowClose
  refine keeps_runCmd (.refl s) fun t u hu => keeps_checked hu ?_
  split
  · exact keeps_some (keeps_refuseCmd hu)
  · exact keeps_checked hu (keeps_some (keeps_closeWindow hu))

theorem keepsNext_bar2Map (f : Func) (dt : Nat) : KeepsNext s (execBar2Map f dt s) := by
  unfold execBar2Map
  exact keeps_runCmd (.refl s) fun _ _ hu => keeps_checked hu (keepsSome_ite (keeps_some (keeps_okCmd (keeps_upd.mpr hu)))
    (keeps_checked hu (keeps_some (keeps_okCmd (keeps_upd.mpr hu)))))

/-! ### The monitor, memory, the bridge -/

theorem keepsNext_grant (g : GrantReq) : KeepsNext s (execGrant g s) := by
  unfold execGrant
  have hz : Keeps s (zeroedTo s g.zeroed.toNat) := keeps_zeroedTo (.refl s)
  exact keeps_next (keeps_ite (.refl s) (keeps_ite hz (keeps_ite (keeps_answer hz) (keeps_ite hz (keeps_doGrant hz)))))

theorem keepsNext_verify (base : Nat) (key : BitVec 776) : KeepsNext s (execVerify base key s) := by
  unfold execVerify
  refine keeps_next (keeps_ite (.refl s) ?_)
  split
  · exact keeps_answer (.refl s)
  · exact keeps_ite (keeps_answer (.refl s)) (keeps_ite (keeps_doVerify (.refl s)) (.refl s))

theorem keepsNext_release (base : Nat) : KeepsNext s (execRelease base s) := by
  unfold execRelease
  refine keeps_next (keeps_ite (.refl s) ?_)
  split
  · exact keeps_answer (.refl s)
  · exact keeps_ite (keeps_doRelease (.refl s)) (.refl s)

theorem keepsNext_bar2Read (off : BitVec 36) (n : Nat) : KeepsNext s (execBar2Read off n s) := by
  unfold execBar2Read
  refine keeps_next (keeps_ite ?_ (.refl s))
  split
  · exact keeps_upd.mpr (.refl s)
  · exact keeps_countBad (keeps_upd.mpr (.refl s))

theorem keepsNext_bar2Write (off : BitVec 36) (b : List Byte) : KeepsNext s (execBar2Write off b s) := by
  unfold execBar2Write
  refine keeps_next (keeps_ite ?_ (.refl s))
  split
  · exact keeps_mem (.refl s) Memory.wf_wrs
  · exact keeps_countBad (.refl s)

theorem keepsNext_pairReceive (n : PortNo) (fr : Frame) (dt : Nat) : KeepsNext s (execPairReceive n fr dt s) := by
  unfold execPairReceive
  refine keeps_next ?_
  split
  · exact keeps_ite (keeps_receivePair (keeps_tick (.refl s))) (.refl s)
  · exact .refl s

theorem keepsNext_ackFrame (n : PortNo) (fr : Frame) (dt : Nat) : KeepsNext s (execAckFrame n fr dt s) := by
  unfold execAckFrame
  refine keeps_next (keeps_ite ?_ (.refl s))
  split
  · exact keeps_takeAck (keeps_tick (.refl s))
  · exact .refl s

theorem keepsNext_nakFrame (n : PortNo) (fr : Frame) (dt : Nat) : KeepsNext s (execNakFrame n fr dt s) := by
  unfold execNakFrame
  refine keeps_next (keeps_ite ?_ (.refl s))
  split
  · exact keeps_ite (keeps_resendAll (keeps_takeAck (keeps_tick (.refl s)))) (.refl s)
  · exact .refl s

theorem keepsNext_rejectFrame (n : PortNo) (fr : Frame) (dt : Nat) : KeepsNext s (execRejectFrame n fr dt s) := by
  unfold execRejectFrame
  refine keeps_next (keeps_ite ?_ (.refl s))
  split
  · exact keeps_pairFail (keeps_takeAck (keeps_tick (.refl s)))
  · exact .refl s

theorem keepsNext_retryTimeout (i : BitVec 10) (dt : Nat) : KeepsNext s (execRetryTimeout i dt s) := by
  unfold execRetryTimeout
  refine keeps_next ?_
  split
  · exact keeps_ite (keeps_retry (keeps_tick (.refl s))) (.refl s)
  · exact .refl s

/-! ### Streams, bundles, scheduling, power -/

theorem keepsNext_pushGatherDone (f : Func) (dt : Nat) : KeepsNext s (execPushGatherDone f dt s) := by
  unfold execPushGatherDone
  refine keeps_next ?_
  split
  · exact .refl s
  · exact keeps_ite (keeps_finishGather (keeps_tick (.refl s))) (.refl s)

theorem keepsNext_bundleBind (b : Nat) (p : PartId) (rec : Nat) (l : List NewBlock) (dt : Nat) :
    KeepsNext s (execBundleBind b p rec l dt s) := by
  unfold execBundleBind
  refine keeps_next ?_
  split
  · exact .refl s
  · exact keeps_ite (keeps_tryBind (keeps_resolveMembers (keeps_tick (.refl s)))) (.refl s)

theorem keepsNext_hardStop (p : PartId) (env : StopEnv) (dt : Nat) : KeepsNext s (execHardStop p env dt s) := by
  unfold execHardStop
  refine keeps_next ?_
  split
  · exact keeps_ite (keeps_hardStop (keeps_runCores (keeps_tick (.refl s)))) (.refl s)
  · exact .refl s

theorem keepsNext_reclaim (p : PartId) (j : JobNo) (dt : Nat) : KeepsNext s (execReclaim p j dt s) := by
  unfold execReclaim
  refine keeps_next ?_
  split
  · exact .refl s
  · exact keeps_ite (keeps_reclaimStep (keeps_tick (.refl s))) (.refl s)

theorem keepsNext_c2Entry (k : CourseId) : KeepsNext s (execC2Entry k s) := by
  unfold execC2Entry
  refine keeps_next (keeps_ite (.refl s) ?_)
  split
  · exact keeps_putCState (.refl s)
  · exact keeps_ite (keeps_forAll (.refl s) fun _ _ h => keeps_putCState h) (.refl s)

theorem keepsNext_clockLoss (k : ClockLossCause) (dt : Nat) : KeepsNext s (execClockLoss k dt s) := by
  unfold execClockLoss
  refine keeps_next ?_
  split <;> exact keeps_ite (keeps_deviceError (keeps_tick (.refl s))) (.refl s)

theorem keepsNext_standbyEntry (dt : Nat) : KeepsNext s (execStandbyEntry dt s) := by
  unfold execStandbyEntry
  have ht : Keeps s (tick s dt) := keeps_tick (.refl s)
  have ha : Keeps s (if (tick s dt).pw.pfD3 then tick s dt else askStandby (tick s dt)) := keeps_ite ht (keeps_askStandby ht)
  exact keeps_next (keeps_ite (.refl s) (keeps_ite (keeps_sleep ha) ha))

theorem keepsNext_smReqHostimg (key : BitVec 776) (b : BootEnv) (dt : Nat) : KeepsNext s (execSmReqHostimg key b dt s) := by
  unfold execSmReqHostimg
  exact keeps_next (keeps_ite (keeps_tryHostImage (keeps_tick (.refl s))) (keeps_askMon (.refl s) (keeps_served (keeps_tick (.refl s)))))

/-! ### Every command -/

/-- The meaning of each of the 187 rows keeps the queue, the invariant and the promises of the fuses. -/

theorem keepsNext_exec (i : Instr) (s : State) : KeepsNext s (exec i s) := by
  have hK : Keeps s s := .refl s
  have hT : ∀ dt, Keeps s (tick s dt) := fun _ => keeps_tick hK
  cases i with
  | summarySend | summaryAsk | dmaLoad | dmaStore | dmaCopy | dmaZero | configFretTables | configCodebooks | configDecayTable
  | configRescaleTables | configTblSegments | configCodingLoad | configCodingBuild | matmulPlain | matmulAccum | matmulDecay | matmulRotate
  | wload | adrainDrain | adrainFill | vchain | vdescLoad | vdescSetvl | vdescStats | stateioLoad | stateioSave | stateioWread | stateioWwrite
  | spreadFwd | spreadInv | qscanScan | qscanMerge | qscanPick => exact keepsNext_exec_of_queuedOf rfl
  | ctrlNop c w e => exact (show KeepsNext s (execCtrlNop c w e s) from keeps_issueCore hK fun _ h => keeps_advance h)
  | ctrlLi c w e => exact (show KeepsNext s (execCtrlLi c w e s) from keeps_issueCore hK fun _ h => keeps_setAdvance h)
  | ctrlAlu c w e => exact (show KeepsNext s (execCtrlAlu c w e s) from keeps_issueCore hK fun _ h => keeps_setAdvance h)
  | ctrlRdsys c w e => exact (show KeepsNext s (execCtrlRdsys c w e s) from keeps_issueCore hK fun _ h => keeps_setAdvance h)
  | ctrlBr c w e => exact (show KeepsNext s (execCtrlBr c w e s) from keeps_issueCore hK fun _ h => keeps_branch h)
  | ctrlLoop c w e => exact (show KeepsNext s (execCtrlLoop c w e s) from keeps_issueCore hK fun _ h => keeps_loopBody h)
  | ctrlLd c w e => exact (show KeepsNext s (execCtrlLd c w e s) from keeps_issueCore hK fun _ h => keeps_narrowBody h)
  | ctrlSt c w e => exact (show KeepsNext s (execCtrlSt c w e s) from keeps_issueCore hK fun _ h => keeps_narrowBody h)
  | ctrlDwait c w e => exact (show KeepsNext s (execCtrlDwait c w e s) from keeps_issueCore hK fun _ h => keeps_dwaitBody h)
  | ctrlCapo c w e =>
    exact (show KeepsNext s (execCtrlCapo c w e s) from keeps_issueWhen hK fun _ h => keeps_capoIssue h fun _ k => keeps_arriveCapo k)
  | ctrlEnd c w e => exact (show KeepsNext s (execCtrlEnd c w e s) from keeps_issueWhen hK fun _ h => keeps_capoIssue h fun _ k => keeps_arriveEnd k)
  | syncPost c w e => exact (show KeepsNext s (execSyncPost c w e s) from keeps_issueCore hK fun _ h => keeps_advance (keeps_sendSem h))
  | syncWait c w e =>
    exact (show KeepsNext s (execSyncWait c w e s) from keeps_issueCore hK fun _ h => keeps_ite (keeps_advance h) (keeps_modSeq (keeps_sendSem h)))
  | syncTry c w e => exact (show KeepsNext s (execSyncTry c w e s) from keeps_issueCore hK fun _ h => keeps_modSeq (keeps_sendSem h))
  | ringSet c w e => exact (show KeepsNext s (execRingSet c w e s) from keeps_issueCore hK fun _ h => keeps_ringSetBody h)
  | ringPush c w e => exact (show KeepsNext s (execRingPush c w e s) from keeps_issueCore hK fun _ h => keeps_ringPushBody h)
  | ringPop c w e => exact (show KeepsNext s (execRingPop c w e s) from keeps_issueCore hK fun _ h => keeps_ringPopBody h)
  | ringHead c w e => exact (show KeepsNext s (execRingHead c w e s) from keeps_issueCore hK fun _ h => keeps_withRing h fun _ => keeps_setAdvance h)
  | ringTail c w e => exact (show KeepsNext s (execRingTail c w e s) from keeps_issueCore hK fun _ h => keeps_withRing h fun _ => keeps_setAdvance h)
  | ringOcc c w e => exact (show KeepsNext s (execRingOcc c w e s) from keeps_issueCore hK fun _ h => keeps_withRing h fun _ => keeps_setAdvance h)
  | configCoreControl c w e => exact (show KeepsNext s (execConfigCoreControl c w e s) from keeps_issueCore hK fun _ h => keeps_narrowConfig h)
  | configBowSites c w e => exact (show KeepsNext s (execConfigBowSites c w e s) from keeps_issueCore hK fun _ h => keeps_narrowConfig h)
  | semBlockCycle => exact keepsNext_semBlockCycle ..
  | syncTimeout => exact keepsNext_syncTimeout ..
  | decisionTimeout => exact keepsNext_decisionTimeout ..
  | decisionArrival => exact keepsNext_decisionArrival ..
  | summaryRingFreed p bytes runs =>
    exact (show KeepsNext s (execSummaryRingFreed p bytes runs s) from keepsNext_ite (keeps_next hK) (keeps_next (keeps_modPart (keeps_runCores hK))))
  | dmaComplete => exact keepsNext_dmaComplete ..
  | adrainComplete => exact keepsNext_adrainComplete ..
  | matmulComplete c => exact (show KeepsNext s (execMatmulComplete c s) from keepsNext_ite (keeps_next (keeps_runPast hK)) (keeps_next hK))
  | wloadComplete c => exact (show KeepsNext s (execWloadComplete c s) from keepsNext_ite (keeps_next (keeps_runPast hK)) (keeps_next hK))
  | vchainComplete c => exact (show KeepsNext s (execVchainComplete c s) from keepsNext_ite (keeps_next (keeps_runPast hK)) (keeps_next hK))
  | shadowDrainEnd c =>
    exact (show KeepsNext s (execShadowDrainEnd c s) from keepsNext_ite (keeps_next (keeps_drainDue (keeps_runTo hK))) (keeps_next hK))
  | spTaskWrite c v => exact (show KeepsNext s (execSpTaskWrite c v s) from keeps_next (keeps_ite (keeps_modCore hK) hK))
  | stImageWrite c v => exact (show KeepsNext s (execStImageWrite c v s) from keeps_next (keeps_ite (keeps_modCore hK) hK))
  | droneMark c groups =>
    exact (show KeepsNext s (execDroneMark c groups s) from keeps_next (keeps_ite hK (keeps_ite (keeps_answer (keeps_setCore hK)) (keeps_answer hK))))
  | firmwareWindowAccess c addr bytes mode =>
    exact (show KeepsNext s (execFirmwareWindowAccess c addr bytes mode s) from
      keeps_next (keeps_ite hK (keeps_ite (keeps_modCore hK) (keeps_applyWin hK))))
  | registerWrite r v => exact (show KeepsNext s (execRegisterWrite r v s) from keeps_next (keeps_writeReg hK))
  | mailboxSlotWrite f slot off bytes => exact (show KeepsNext s (execMailboxSlotWrite f slot off bytes s) from keeps_next (keeps_writeSlot hK))
  | mailboxSlotTake f => exact (show KeepsNext s (execMailboxSlotTake f s) from keeps_next (keeps_ite (keeps_takeSlot hK) hK))
  | outboundSlotReturn f slot off bytes => exact (show KeepsNext s (execOutboundSlotReturn f slot off bytes s) from keeps_next (keeps_returnSlot hK))
  | msixHoldoffExpiry f v dt => exact (show KeepsNext s (execMsixHoldoffExpiry f v dt s) from keeps_next (keeps_ite (keeps_modFn (hT _)) hK))
  | msixUnmask f v => exact (show KeepsNext s (execMsixUnmask f v s) from keeps_next (keeps_ite (keeps_setMask hK) hK))
  | bar2Read => exact keepsNext_bar2Read ..
  | bar2Write => exact keepsNext_bar2Write ..
  | modelLoad => exact keepsNext_modelLoad ..
  | modelLoadComplete => exact keepsNext_modelLoadComplete ..
  | modelUnload => exact keepsNext_modelUnload ..
  | modelPlace => exact keepsNext_modelPlace ..
  | quantPolicy => exact keepsNext_quantPolicy ..
  | partitionCreate => exact keepsNext_partitionCreate ..
  | partitionDestroy => exact keepsNext_partitionDestroy ..
  | jobRemove f dt =>
    exact (show KeepsNext s (execJobRemove f dt s) from
      keeps_runCmd hK fun _ _ h => keeps_checked h (keeps_some (keeps_upd.mpr (keeps_triggerReclaim h))))
  | jobMove => exact keepsNext_jobMove ..
  | schedSlice f dt =>
    exact (show KeepsNext s (execSchedSlice f dt s) from keeps_runCmd hK fun _ _ h => keeps_checked h (keeps_some (keeps_okCmd (keeps_setSlice h))))
  | programSubmit => exact keepsNext_programSubmit ..
  | statusGet => exact keepsNext_statusGet ..
  | accountGet => exact keepsNext_accountGet ..
  | traceStart f dt =>
    exact (show KeepsNext s (execTraceStart f dt s) from keeps_runCmd hK fun _ _ h => keeps_checked h (keeps_some (keeps_okCmd (keeps_modPart h))))
  | traceStop f dt =>
    exact (show KeepsNext s (execTraceStop f dt s) from keeps_runCmd hK fun _ _ h => keeps_checked h (keeps_some (keeps_okCmd (keeps_modPart h))))
  | powerCap => exact keepsNext_powerCap ..
  | bar2Map => exact keepsNext_bar2Map ..
  | functionConfig f dt =>
    exact (show KeepsNext s (execFunctionConfig f dt s) from keeps_runCmd hK fun _ _ h => keeps_checked h (keeps_some (keeps_okCmd (keeps_modFn h))))
  | windowOpen => exact keepsNext_windowOpen ..
  | windowClose => exact keepsNext_windowClose ..
  | streamMigrate f remoteHolds dt =>
    exact (show KeepsNext s (execStreamMigrate f remoteHolds dt s) from
      keeps_runCmd hK fun _ _ h => keeps_checked h (keeps_some (keeps_acceptMigrate h)))
  | streamOpen => exact keepsNext_streamOpen ..
  | streamPush => exact keepsNext_streamPush ..
  | pushGatherDone => exact keepsNext_pushGatherDone ..
  | streamPause f dt =>
    exact (show KeepsNext s (execStreamPause f dt s) from
      keeps_runCmd hK fun _ _ h => keeps_listCmd h (fun _ _ k => keeps_pauseStream k) fun _ _ k => k)
  | streamResume f blocks dt =>
    exact (show KeepsNext s (execStreamResume f blocks dt s) from
      keeps_runCmd hK fun _ _ h => keeps_listCmd h (fun _ _ k => keeps_resumeStream k) fun _ _ k => k)
  | streamClose f dt =>
    exact (show KeepsNext s (execStreamClose f dt s) from
      keeps_runCmd hK fun _ _ h => keeps_listCmd h (fun _ _ k => keeps_closeStream k) fun _ _ k => keeps_endClose k)
  | streamReset f dt =>
    exact (show KeepsNext s (execStreamReset f dt s) from
      keeps_runCmd hK fun _ _ h => keeps_listCmd h (fun _ _ k => keeps_resetStream k) fun _ _ k => k)
  | sampleTake h count =>
    exact (show KeepsNext s (execSampleTake h count s) from keeps_next (keeps_ite (keeps_endClose (keeps_markDrained (keeps_takeSamples hK))) hK))
  | frameCompute h dt =>
    exact (show KeepsNext s (execFrameCompute h dt s) from keeps_next (keeps_ite (keeps_computeFrame (keeps_padFrame (hT _))) hK))
  | synthesisOutput h count => exact (show KeepsNext s (execSynthesisOutput h count s) from keeps_next (keeps_ite (keeps_synthSamples hK) hK))
  | silentCommit h dt =>
    exact (show KeepsNext s (execSilentCommit h dt s) from keeps_next (keeps_ite (keeps_afterChunk (keeps_postDone (keeps_endChunk (hT _)))) hK))
  | pauseTimerTier1 h dst dt => exact (show KeepsNext s (execPauseTimerTier1 h dst dt s) from keeps_next (keeps_ite (keeps_demote (hT _)) hK))
  | pauseTimerTier2 h dst dt => exact (show KeepsNext s (execPauseTimerTier2 h dst dt s) from keeps_next (keeps_ite (keeps_demote (hT _)) hK))
  | bundleForm m p dt => exact (show KeepsNext s (execBundleForm m p dt s) from keeps_next (keeps_ite (keeps_formBundle (hT _)) hK))
  | bundleBind => exact keepsNext_bundleBind ..
  | commitUpdate p blocks dt => exact (show KeepsNext s (execCommitUpdate p blocks dt s) from keeps_next (keeps_ite (keeps_commitBundle (hT _)) hK))
  | sliceStart p dt => exact (show KeepsNext s (execSliceStart p dt s) from keeps_next (keeps_ite (keeps_startSlice (hT _)) hK))
  | sliceExpiry p dt => exact (show KeepsNext s (execSliceExpiry p dt s) from keeps_next (keeps_ite (keeps_sliceOver (hT _)) hK))
  | hardStop => exact keepsNext_hardStop ..
  | reclaim => exact keepsNext_reclaim ..
  | bundleErrorSettle p blocks dt =>
    exact (show KeepsNext s (execBundleErrorSettle p blocks dt s) from keeps_next (keeps_ite (keeps_settleErrors (hT _)) hK))
  | reconciliationClose dt => exact (show KeepsNext s (execReconciliationClose dt s) from keeps_next (keeps_ite (keeps_closeInterval (hT _)) hK))
  | interferenceReport dt => exact (show KeepsNext s (execInterferenceReport dt s) from keeps_next (keeps_ite (keeps_reportAll (hT _)) hK))
  | migrationDescriptor d =>
    exact (show KeepsNext s (execMigrationDescriptor d s) from
      keeps_next (keeps_ite (keeps_takeDesc (keeps_landPiece (keeps_withDesc (keeps_startReleases (keeps_startOuts hK))))) hK))
  | migrationComplete dt =>
    exact (show KeepsNext s (execMigrationComplete dt s) from
      keeps_next (keeps_ite (keeps_completeNext (keeps_ite (hT _) (keeps_runToEnd (keeps_startReleases (keeps_startOuts (hT _)))))) hK))
  | grant => exact keepsNext_grant ..
  | revoke e =>
    exact (show KeepsNext s (execRevoke e s) from
      keeps_next (keeps_ite hK (keeps_ite (keeps_answer hK) (keeps_ite (keeps_answer (keeps_upd.mpr hK)) hK))))
  | verify => exact keepsNext_verify ..
  | release => exact keepsNext_release ..
  | tier1ZeroDone => exact (show KeepsNext s (execTier1ZeroDone s) from keeps_next (keeps_ite (keeps_upd.mpr hK) hK))
  | scrubPass addr corrected uncorrectable dt =>
    exact (show KeepsNext s (execScrubPass addr corrected uncorrectable dt s) from keeps_next (keeps_ite (keeps_scrubLine (hT _)) hK))
  | uncorrectableRead r addr sym dt =>
    exact (show KeepsNext s (execUncorrectableRead r addr sym dt s) from keeps_next (keeps_ite (keeps_readFault (hT _)) hK))
  | expanderDown x dt => exact (show KeepsNext s (execExpanderDown x dt s) from keeps_next (keeps_ite (keeps_expanderDown (hT _)) hK))
  | bridgeLinkUp n dt =>
    exact (show KeepsNext s (execBridgeLinkUp n dt s) from keeps_next (keeps_ite (keeps_sendHello (keeps_setRoot (keeps_setPort (hT _)))) hK))
  | bridgeLinkDown n dt =>
    exact (show KeepsNext s (execBridgeLinkDown n dt s) from
      keeps_next (keeps_ite (keeps_refreshPorts (keeps_filterRoutes (keeps_setPort (hT _)))) hK))
  | helloTimer dt =>
    exact (show KeepsNext s (execHelloTimer dt s) from keeps_next (keeps_ite (keeps_foldl (keeps_setRoot (hT _)) fun _ _ h => keeps_sendHello h) hK))
  | helloReceive n remotePort fr dt =>
    exact (show KeepsNext s (execHelloReceive n remotePort fr dt s) from
      keeps_next (keeps_ite (keeps_ite (keeps_numberConflict (hT _)) (keeps_hearHello (hT _))) hK))
  | routeExpiry d dt =>
    exact (show KeepsNext s (execRouteExpiry d dt s) from keeps_next (keeps_ite (keeps_refreshPorts (keeps_filterRoutes (hT _))) hK))
  | pairReceive => exact keepsNext_pairReceive ..
  | writeFrame n fr dt =>
    exact (show KeepsNext s (execWriteFrame n fr dt s) from keeps_next (keeps_ite (keeps_receiveSequenced (hT _) fun _ _ h => keeps_applyWrite h) hK))
  | migDataFrame n fr dt =>
    exact (show KeepsNext s (execMigDataFrame n fr dt s) from
      keeps_next (keeps_ite (keeps_receiveSequenced (hT _) fun _ _ h => keeps_applyWrite h) hK))
  | readReqFrame n fr dt =>
    exact (show KeepsNext s (execReadReqFrame n fr dt s) from
      keeps_next (keeps_ite (keeps_receiveSequenced (hT _) fun _ _ h => keeps_applyReadReq h) hK))
  | readRespFrame n fr dt =>
    exact (show KeepsNext s (execReadRespFrame n fr dt s) from
      keeps_next (keeps_ite (keeps_receiveSequenced (hT _) fun _ _ h => keeps_applyReadResp h) hK))
  | atomicFrame n fr dt =>
    exact (show KeepsNext s (execAtomicFrame n fr dt s) from
      keeps_next (keeps_ite (keeps_receiveSequenced (hT _) fun _ _ h => keeps_applyAtomic h) hK))
  | migCtrlFrame n fr ch dt =>
    exact (show KeepsNext s (execMigCtrlFrame n fr ch dt s) from
      keeps_next (keeps_ite (keeps_receiveSequenced (hT _) fun _ _ h => keeps_applyMigCtrl h) hK))
  | ackFrame => exact keepsNext_ackFrame ..
  | nakFrame => exact keepsNext_nakFrame ..
  | rejectFrame => exact keepsNext_rejectFrame ..
  | retryTimeout => exact keepsNext_retryTimeout ..
  | frameDiscard n etherType fcsOk fr =>
    exact (show KeepsNext s (execFrameDiscard n etherType fcsOk fr s) from keeps_next (keeps_ite (keeps_setPort hK) hK))
  | syncTimer dt => exact (show KeepsNext s (execSyncTimer dt s) from keeps_next (keeps_ite (keeps_sendFrame (keeps_upd.mpr (hT _))) hK))
  | syncReqReceive n fr stamps => exact (show KeepsNext s (execSyncReqReceive n fr stamps s) from keeps_next (keeps_ite (keeps_sendFrame (hT _)) hK))
  | syncRespReceive n fr t1 t4 dt =>
    exact (show KeepsNext s (execSyncRespReceive n fr t1 t4 dt s) from keeps_next (keeps_ite (keeps_correctTime (hT _)) hK))
  | smReqNonce dt => exact (show KeepsNext s (execSmReqNonce dt s) from keeps_next (keeps_askMon hK (keeps_served (keeps_giveNonce (hT _)))))
  | smReqQuote dt => exact (show KeepsNext s (execSmReqQuote dt s) from keeps_next (keeps_askMon hK (keeps_serveQuote (hT _))))
  | smReqToken key b sanitized dt =>
    exact (show KeepsNext s (execSmReqToken key b sanitized dt s) from keeps_next (keeps_askMon hK (keeps_serveToken (hT _))))
  | smReqHostimg => exact keepsNext_smReqHostimg ..
  | smFatalClear => exact (show KeepsNext s (execSmFatalClear s) from keeps_next (keeps_ite (keeps_upd.mpr hK) hK))
  | entropyFail dt => exact (show KeepsNext s (execEntropyFail dt s) from keeps_next (keeps_ite (keeps_failEntropy (hT _)) hK))
  | powerOnReset b => exact (show KeepsNext s (execPowerOnReset b s) from keeps_next (keeps_ite (keeps_powerOn hK) hK))
  | pwrgoodFall => exact (show KeepsNext s (execPwrgoodFall s) from keeps_next (keeps_ite (keeps_coldHold (keeps_updPw.mpr hK)) hK))
  | undervoltage r => exact (show KeepsNext s (execUndervoltage r s) from keeps_next (keeps_ite (keeps_coldHold (keeps_updPw.mpr hK)) hK))
  | railReturn r b => exact (show KeepsNext s (execRailReturn r b s) from keeps_next (keeps_ite (keeps_release (keeps_updPw.mpr hK)) hK))
  | perstNAssert => exact (show KeepsNext s (execPerstNAssert s) from keeps_next (keeps_ite hK (keeps_ite (keeps_perstHold hK) (keeps_updPw.mpr hK))))
  | perstNDeassert b =>
    exact (show KeepsNext s (execPerstNDeassert b s) from
      keeps_next (keeps_ite hK (keeps_ite (keeps_release (keeps_updPw.mpr hK)) (keeps_updPw.mpr hK))))
  | pwWresetWrite v b dt => exact (show KeepsNext s (execPwWresetWrite v b dt s) from keeps_next (keeps_ite (keeps_warmReset (hT _)) hK))
  | hotReset dt => exact (show KeepsNext s (execHotReset dt s) from keeps_next (keeps_ite (keeps_flrAll (keeps_leaveStandby (hT _))) hK))
  | flr f dt =>
    exact (show KeepsNext s (execFlr f dt s) from
      keeps_next (keeps_ite hK (keeps_ite (keeps_flrAll (keeps_leaveStandby (hT _))) (keeps_flrOne (hT _)))))
  | vfEnableWrite enable n =>
    exact (show KeepsNext s (execVfEnableWrite enable n s) from
      keeps_next (keeps_ite hK (keeps_ite (keeps_ite hK (keeps_enableVfs hK)) (keeps_ite (keeps_disableVfs hK) hK))))
  | partitionReset p dt => exact (show KeepsNext s (execPartitionReset p dt s) from keeps_next (keeps_ite (keeps_resetPartition (hT _)) hK))
  | c1Entry k => exact (show KeepsNext s (execC1Entry k s) from keeps_next (keeps_ite (keeps_putCState hK) hK))
  | c2Entry => exact keepsNext_c2Entry ..
  | c2Exit k => exact (show KeepsNext s (execC2Exit k s) from keeps_next (keeps_ite (keeps_wakeCourse hK) hK))
  | deviceIdleEntry => exact (show KeepsNext s (execDeviceIdleEntry s) from keeps_next (keeps_ite (keeps_updPw.mpr hK) hK))
  | deviceIdleExit => exact (show KeepsNext s (execDeviceIdleExit s) from keeps_next (keeps_ite (keeps_updPw.mpr hK) hK))
  | standbyEntry => exact keepsNext_standbyEntry ..
  | standbyExit dt => exact (show KeepsNext s (execStandbyExit dt s) from keeps_next (keeps_ite (keeps_wake (hT _)) hK))
  | powerLoopTick power dt => exact (show KeepsNext s (execPowerLoopTick power dt s) from keeps_next (keeps_ite (keeps_powerLoop (hT _)) hK))
  | thermalLoopTick tmax dt => exact (show KeepsNext s (execThermalLoopTick tmax dt s) from keeps_next (keeps_ite (keeps_thermalLoop (hT _)) hK))
  | energySample smp dt => exact (show KeepsNext s (execEnergySample smp dt s) from keeps_next (keeps_ite (keeps_energySample (hT _)) hK))
  | thermtrip dt => exact (show KeepsNext s (execThermtrip dt s) from keeps_next (keeps_ite (keeps_trip (hT _)) hK))
  | clockLoss => exact keepsNext_clockLoss ..
  | hbmStackFailure st dt => exact (show KeepsNext s (execHbmStackFailure st dt s) from keeps_next (keeps_ite (keeps_stackFails (hT _)) hK))
  | lpddr6PllLoss dt => exact (show KeepsNext s (execLpddr6PllLoss dt s) from keeps_next (keeps_ite (keeps_updPw.mpr (hT _)) hK))
  | heartbeat dt => exact (show KeepsNext s (execHeartbeat dt s) from keeps_next (keeps_ite (keeps_beatOnce (hT _)) hK))
  | watchdogExpiry b dt =>
    exact (show KeepsNext s (execWatchdogExpiry b dt s) from keeps_next (keeps_ite (keeps_autoReset (hT _)) (keeps_ite (keeps_expireDog (hT _)) hK)))
  | smbusTransaction addr pecOk sensor => exact (show KeepsNext s (execSmbusTransaction addr pecOk sensor s) from keeps_next (keeps_updPw.mpr hK))
  | alertResponseRead => exact (show KeepsNext s (execAlertResponseRead s) from keeps_next (keeps_ite (keeps_updPw.mpr hK) (keeps_updPw.mpr hK)))


end

/-! ### Every step -/

/-- A step is its front command on the state with the queue's rest, and that state differs in the queue alone. -/
theorem step_of_pending {s : State} {c : Instr} {rest : List Instr} (h : s.pending = c :: rest) : step s = exec c { s with pending := rest } := by
  rw [step, h]

theorem step_of_empty {s : State} (h : s.pending = []) : step s = .next s := by
  rw [step, h]

/-- What a step keeps: the rest of the queue, and everything that `Keeps` speaks of. -/
theorem step_keeps {s t : State} (h : step s = .next t) : Keeps { s with pending := s.pending.tail } t := by
  cases hq : s.pending with
  | nil =>
    rw [step_of_empty hq] at h
    cases h
    exact ⟨hq, id, id, id, id, .refl _⟩
  | cons c rest =>
    rw [step_of_pending hq] at h
    exact (keepsNext_exec c _).get t h

/-- Settles O1. -/
theorem stepRunsTheFrontCommand : Obligations.StepRunsTheFrontCommand := fun _ _ _ h => step_of_pending h

/-- Settles O2: no command puts one, since every row's meaning keeps the queue that it finds. -/
theorem stepsTakeFromTheFront : Obligations.StepsTakeFromTheFront :=
  ⟨fun _ h => step_of_empty h, fun _ _ h => (step_keeps h).pending⟩

/-- Settles O3: a step is one row's meaning on the state with the queue's rest, and each row keeps the invariant. -/
theorem stepKeepsInvariant : Obligations.StepKeepsInvariant := fun _ _ i h =>
  (step_keeps h).inv ⟨i.mem, i.host, i.pw, i.debug⟩

/-- Settles O4. -/
theorem resetHasInvariant : Obligations.ResetHasInvariant :=
  ⟨Memory.wf_reset, rfl, pwOk_reset, Nat.zero_le _⟩

/-- Settles O5: what a row burns, `Keeps` compares with the fuses it found. -/
theorem fusesAreOneWay : Obligations.FusesAreOneWay := fun _ _ _ h => (step_keeps h).fuses

end Sys2Proof.Machine
end

section
/-! PROOFS. The values of reset, the translation of a task-relative address, and the board management bus. -/

namespace Sys2Proof.Machine
open Sys2Proof

/-! ### Lists and choices -/

section
variable {α β : Type}

theorem filterMap_congr_of_mem {f g : α → Option β} {l : List α} (h : ∀ x ∈ l, f x = g x) : l.filterMap f = l.filterMap g := by
  induction l with
  | nil => rfl
  | cons x l ih => rw [List.filterMap_cons, List.filterMap_cons, h x (List.mem_cons_self ..), ih fun y hy => h y (List.mem_cons_of_mem x hy)]

theorem length_flatMap_const {f : α → List β} {n : Nat} {l : List α} (h : ∀ x ∈ l, (f x).length = n) : (l.flatMap f).length = l.length * n := by
  induction l with
  | nil => exact (Nat.zero_mul n).symm
  | cons x l ih =>
    rw [List.flatMap_cons, List.length_append, h x (List.mem_cons_self ..), ih fun y hy => h y (List.mem_cons_of_mem x hy), List.length_cons,
      Nat.succ_mul, Nat.add_comm]

theorem sublist_flatMap (f : α → List β) {l l' : List α} (h : l.Sublist l') : (l.flatMap f).Sublist (l'.flatMap f) := by
  induction h with
  | slnil => exact .slnil
  | cons x _ ih => exact ih.trans (List.sublist_append_right ..)
  | cons_cons x _ ih => exact ih.append_left (f x)

theorem filter_all (l : List α) : l.filter (fun _ => true) = l := List.filter_eq_self.2 fun _ _ => rfl

theorem sum_map_add_natCast (f : α → Int) (c : α → Nat) (l : List α) :
    (l.map fun x => f x + (c x : Int)).sum = (l.map f).sum + ((l.map c).sum : Nat) := by
  induction l with
  | nil => rfl
  | cons x l ih =>
    simp only [List.map_cons, List.sum_cons, ih]
    omega

theorem natCast_sum_map (c : α → Nat) (l : List α) : (l.map fun x => (c x : Int)).sum = ((l.map c).sum : Nat) := by
  induction l with
  | nil => rfl
  | cons x l ih =>
    simp only [List.map_cons, List.sum_cons, ih]
    omega

theorem or_congr_bool {a b c d : Bool} (h : a = b) (k : c = d) : (a || c) = (b || d) := by rw [h, k]

end

/-! ### The values of reset -/

/-- Settles O6: every table of `State.reset` is empty, so each register reads as its entry's reset value. -/
theorem resetGivesTheResetColumns : Obligations.ResetGivesTheResetColumns := by
  have hcore (c : CoreId) : getCore State.reset c = .reset := rfl
  have hpart (p : PartId) : getPart State.reset p = .reset := rfl
  have hstream (h : Handle) : getStream State.reset h = .reset := rfl
  have hfn (f : Func) : getFn State.reset f = .reset := rfl
  have hsreg (k : Nat) : sreg Seq.reset k = 0 := by simp [sreg, sregT, Seq.reset, tget]
  simp only [Obligations.ResetGivesTheResetColumns, sOf, hcore, hpart, hstream, hfn]
  exact ⟨rfl, rfl, rfl, rfl, rfl, fun _ => ⟨rfl, hsreg, rfl, rfl, rfl, rfl, rfl, rfl, rfl, rfl⟩, fun _ => ⟨rfl, rfl, rfl, rfl⟩, fun _ => rfl,
    fun _ => ⟨rfl, rfl, rfl, rfl⟩, rfl, rfl, rfl, rfl, rfl, rfl, rfl, rfl, rfl, rfl, rfl⟩

/-! ### Task-relative addresses (R112) -/

theorem xlat_of_lt {r : SpTask} {t : Nat} (h : t < workTop r) : xlat r t = some (r.baseGrp.toNat * 0x20000 + t) := if_pos h

theorem xlat_of_drone {r : SpTask} {t : Nat} (h : workTop r ≤ t) (hlo : droneBot r ≤ t) (hhi : t < 0x100000) :
    xlat r t = some (r.dbase.toNat * 4096 + (t - droneBot r)) := by
  rw [xlat, if_neg (Nat.not_lt.mpr h), if_pos ⟨hlo, hhi⟩]

theorem xlat_of_gap {r : SpTask} {t : Nat} (h : workTop r ≤ t) (hout : t < droneBot r ∨ 0x100000 ≤ t) : xlat r t = none := by
  rw [xlat, if_neg (Nat.not_lt.mpr h), if_neg (by omega)]

/-- A range of some length lies in the work area, in the drone window, or out of bounds. -/
theorem rangeErr_of_pos {r : SpTask} {w : Bool} {t n : Nat} (hn : 0 < n) :
    rangeErr r ⟨w, t, n⟩ =
      if t + n ≤ workTop r then none
      else if droneBot r ≤ t ∧ t + n ≤ 0x100000 then (if w then some cDRONE_WRITE else none) else some cBOUND :=
  if_neg (Nat.ne_of_gt hn)

/-- Settles O31: the two windows of R112 and the gap between them, for an address and for a range. -/
theorem addressesTranslate : Obligations.AddressesTranslate := by
  intro r t top bot
  refine ⟨fun h => xlat_of_lt h, fun h hlo hhi => xlat_of_drone h hlo hhi, fun h hout => xlat_of_gap h (.inl hout),
    fun h hout => xlat_of_gap h (.inr hout), fun w n hn => ?_⟩
  rw [rangeErr_of_pos hn]
  refine ⟨fun h => if_pos h, fun h hlo hhi => ?_, fun h hout => ?_⟩
  · exact (if_neg (Nat.not_le.mpr h)).trans (if_pos ⟨hlo, hhi⟩)
  · have hnot : ¬(droneBot r ≤ t ∧ t + n ≤ 0x100000) := fun hin => hout.elim (Nat.not_lt.mpr hin.1) (Nat.not_lt.mpr hin.2)
    exact (if_neg (Nat.not_le.mpr h)).trans (if_neg hnot)

/-! ### Board management (R421, R422) -/

theorem smbServes_of {s : State} (hack : s.pw.smbAck = true) (hclk : s.pw.clockStop = none) : smbServes s = true := by
  simp [smbServes, hack, hclk]

theorem sensorOf_of_unlisted {s : State} {id : Nat} (h : id = 0 ∨ 10 < id) : sensorOf s id = none := by
  unfold sensorOf
  split <;> first | omega | rfl

/-- Settles O60: a transaction answers the sensor where address and PEC are this device's, and writes the reply register alone. -/
theorem boardManagementBusComplete : Obligations.BoardManagementBusComplete := by
  intro s hack hclk
  have hserves := smbServes_of hack hclk
  refine ⟨fun id => ?own, fun addr pec id hnot => ?other, fun halert => ?alert, rfl, rfl, ?errors, fun id hid => sensorOf_of_unlisted hid⟩
  case own =>
    change execSmbusTransaction _ _ _ _ = _
    simp [execSmbusTransaction, hserves]
  case other =>
    have hcond : (smbServes s && decide (addr = smbAddr s) && pec) = false := by
      rcases hnot with h | h <;> simp [h]
    change execSmbusTransaction _ _ _ _ = _
    rw [execSmbusTransaction, hcond]
    rfl
  case alert =>
    change execAlertResponseRead _ = _
    simp [execAlertResponseRead, hserves, halert]
  case errors =>
    cases hfatal : s.fatal <;> simp [sensorOf, hfatal]

end Sys2Proof.Machine
end

section
/-! PROOFS. The commands that the sequencer carries out at their issue: BR, LOOP, POST, WAIT, TRY and RING; and what becomes of a malformed word
and of a command whose queue is full (R70, R72, R75, R76, R80, R81, R113 to R115). -/

namespace Sys2Proof.Machine
open Sys2Proof

variable {c : CoreId} {w : CmdWord} {e : IssueEnv} {s : State}

/-! ### A command at its issue -/

/-- An instruction that is an issue, on a sound word, does what its act makes of the state at the issue. -/
theorem outcome_of_issues {o : Host.Outcome State Fault Refusal} {row : CmdRow} {body : State → State} {t u : State}
    (ht : atIssue s c e = t) (hrow : o = issueCore row c w e s body) (h : Issues row c w e s) (hact : body t = u) : o = cycleFrom c e u := by
  rw [hrow, issueCore_of_issues _ h, ht, hact]

/-! ### The PC and the rest of the core -/

@[simp] theorem hasNext_modPart {p : PartId} {f : Part → Part} : HasNext (modPart s p f) c ↔ HasNext s c := Iff.rfl

@[simp] theorem hasNext_setRing {k : Nat} {r : RingRec} : HasNext (setRing s c k r) c ↔ HasNext s c := by
  simp [HasNext, setRing]

@[simp] theorem getCore_putS_cmdMem (d : Nat) (v : W64) : (getCore (putS s c d v) c).seq.cmdMem = (getCore s c).seq.cmdMem := by
  simp [putS]

/-! ### Branches (R75) -/

theorem branch_of_beyond {yes : Bool} {target : Nat} (h : (getCore s c).seq.cmdMem.length ≤ target) :
    branch s c yes target = raiseTask s c cPC_RANGE (pcOf s c) := if_pos h

theorem branch_taken {target : Nat} (h : target < (getCore s c).seq.cmdMem.length) : branch s c true target = jumpTo s c target :=
  if_neg (Nat.not_le.mpr h)

theorem branch_not_taken {target : Nat} (hn : HasNext s c) (h : target < (getCore s c).seq.cmdMem.length) :
    branch s c false target = onward s c :=
  (if_neg (Nat.not_le.mpr h)).trans (advance_of_hasNext hn)

/-- The model's condition is that of R75 for each of the seven codes that a sound word can name. -/
theorem brCond_iff {k : Nat} (hk : k ≤ 6) (a b : W64) : brCond k a b = true ↔ BrHolds k a b := by
  match k, hk with
  | 0, _ => exact ⟨fun _ => trivial, fun _ => rfl⟩
  | 1, _ | 2, _ => exact decide_eq_true_iff
  | 3, _ => exact BitVec.slt_iff_toInt_lt
  | 4, _ => simp only [brCond, BrHolds, Bool.not_eq_true', ← Bool.not_eq_true, BitVec.slt_iff_toInt_lt, Int.not_lt]
  | 5, _ => exact BitVec.ult_iff_toNat_lt
  | 6, _ => simp only [brCond, BrHolds, Bool.not_eq_true', ← Bool.not_eq_true, BitVec.ult_iff_toNat_lt, Nat.not_lt]

theorem wfld_lt (w : CmdWord) (hi lo : Nat) : wfld w hi lo < 2 ^ (hi - lo + 1) := Nat.mod_lt _ (Nat.two_pow_pos _)

/-- A sound BR word names a listed condition (R75: 7 is reserved). -/
theorem brCond_le_of_sound {t : Tbl W64} (h : malformed .br t w = false) : wfld w 44 42 ≤ 6 := by
  simp only [malformed, Bool.or_eq_false_iff, decide_eq_false_iff_not] at h
  obtain ⟨_, _, hcond⟩ := h
  have hlt : wfld w 44 42 < 8 := wfld_lt w 44 42
  omega

theorem exec_ctrlBr : exec (.ctrlBr c w e) s = issueCore .br c w e s fun t =>
    branch t c (brCond (wfld w 44 42) (sOf t c (wfld w 36 32)) (sOf t c (wfld w 41 37))) (wfld w 76 64) := rfl

theorem exec_ctrlLoop : exec (.ctrlLoop c w e) s = issueCore .loop c w e s (loopBody c (wfld w 36 32) (wfld w 76 64)) := rfl

/-- LOOP counts down while its count is not 0 and its target lies within the stream. -/
theorem loopBody_of_counts {k target : Nat} (hin : target < (getCore s c).seq.cmdMem.length) (hv : sOf s c k ≠ 0) :
    loopBody c k target s = branch (putS s c k (sOf s c k - 1)) c (decide (sOf s c k ≠ 1)) target := by
  rw [loopBody, if_neg (not_or.mpr ⟨Nat.not_le.mpr hin, hv⟩), putS]

theorem loopBody_of_stays {k target : Nat} (h : (getCore s c).seq.cmdMem.length ≤ target ∨ sOf s c k = 0) :
    loopBody c k target s = branch s c false target := by
  rw [loopBody, if_pos h]

/-- Settles O8: BR is `branch` on R75's condition, LOOP `branch` on what is left of its count, and `branch` has three outcomes. -/
theorem brAndLoopComplete : Obligations.BrAndLoopComplete := by
  intro c w e s t target len hn
  have ht : atIssue s c e = t := rfl
  clear_value t
  refine ⟨fun h => ?br, fun h => ?loop⟩
  case br =>
    have hcond := brCond_iff (brCond_le_of_sound h.sound) (sOf t c (wfld w 36 32)) (sOf t c (wfld w 41 37))
    refine ⟨fun hin hno => ?_, fun hin hyes => ?_, fun hout => ?_⟩
    · exact outcome_of_issues ht exec_ctrlBr h (by rw [Bool.eq_false_iff.mpr (mt hcond.mp hno), branch_not_taken hn hin])
    · exact outcome_of_issues ht exec_ctrlBr h (by rw [hcond.mpr hyes, branch_taken hin])
    · exact outcome_of_issues ht exec_ctrlBr h (branch_of_beyond hout)
  case loop =>
    intro k v
    have hrange (x : W64) (hin : target < len) : target < (getCore (putS t c k x) c).seq.cmdMem.length := by rwa [getCore_putS_cmdMem]
    refine ⟨fun hin hzero => ?_, fun hin hone => ?_, fun hin hmore => ?_, fun hout => ?_⟩
    · exact outcome_of_issues ht exec_ctrlLoop h ((loopBody_of_stays (.inr hzero)).trans (branch_not_taken hn hin))
    · have hlast : loopBody c k target t = onward (putS t c k (v - 1)) c := by
        rw [loopBody_of_counts hin (by rw [show sOf t c k = 1 from hone]; decide), decide_eq_false (not_not_intro hone),
          branch_not_taken (hasNext_putS.mpr hn) (hrange _ hin)]
      exact outcome_of_issues ht exec_ctrlLoop h (hlast.trans (by rw [hone]; rfl))
    · have hne : v ≠ 0 ∧ v ≠ 1 := ⟨fun h0 => by simp [h0] at hmore, fun h1 => by simp [h1] at hmore⟩
      exact outcome_of_issues ht exec_ctrlLoop h (by rw [loopBody_of_counts hin hne.1, decide_eq_true hne.2, branch_taken (hrange _ hin)])
    · exact outcome_of_issues ht exec_ctrlLoop h ((loopBody_of_stays (.inl hout)).trans (branch_of_beyond hout))

/-! ### POST, WAIT and TRY (R80, R81) -/

theorem sendSem_of_part {p : PartId} (h : partOfCore s c = some p) (m : SemMsg) :
    sendSem s c m = modPart s p fun x => { x with semNet := x.semNet ++ [m] } := by
  rw [sendSem, h]

theorem exec_syncPost : exec (.syncPost c w e) s = issueCore .post c w e s fun t => advance (sendSem t c (semMsg t c w true)) c := rfl

theorem exec_syncWait : exec (.syncWait c w e) s = issueCore .wait c w e s fun t =>
    if (semMsg t c w false).n = 0 then advance t c
    else modSeq (sendSem t c (semMsg t c w false)) c fun q => { q with phase := .waitSem (semMsg t c w false).i (semMsg t c w false).n t.time } := rfl

theorem exec_syncTry : exec (.syncTry c w e) s = issueCore .try_ c w e s fun t =>
    modSeq (sendSem t c (semMsg t c w false)) c fun q =>
      { q with phase := .trySem (semMsg t c w false).i (semMsg t c w false).n (BitVec.ofNat 5 (wfld w 44 40)) } := rfl

/-- Settles O13: each command puts its message on the partition's network; POST goes on, WAIT of 0 sends none, and the others stand waiting. -/
theorem syncCommandsComplete : Obligations.SyncCommandsComplete := by
  intro c w e s p t hn hp i n send
  have ht : atIssue s c e = t := rfl
  clear_value t
  have hsend (post : Bool) : sendSem t c (semMsg t c w post) = send post := sendSem_of_part hp _
  have hnext : HasNext (send true) c := hn
  refine ⟨?post, ?pass, ?wait, ?try_⟩
  case post => exact fun h => outcome_of_issues ht exec_syncPost h (by rw [hsend, advance_of_hasNext hnext])
  case pass => exact fun h hzero => outcome_of_issues ht exec_syncWait h ((if_pos hzero).trans (advance_of_hasNext hn))
  case wait => exact fun h hpos => outcome_of_issues ht exec_syncWait h ((if_neg hpos).trans (by rw [hsend, semMsg]))
  case try_ => exact fun h => outcome_of_issues ht exec_syncTry h (by rw [hsend, semMsg])

/-! ### RING (R113 to R115) -/

theorem exec_ringSet : exec (.ringSet c w e) s = issueCore .ringSet c w e s (ringSetBody c w) := rfl
theorem exec_ringPush : exec (.ringPush c w e) s = issueCore .ringPush c w e s (ringPushBody c w) := rfl
theorem exec_ringPop : exec (.ringPop c w e) s = issueCore .ringPop c w e s (ringPopBody c w) := rfl
theorem exec_ringHead : exec (.ringHead c w e) s = issueCore .ringHead c w e s fun t =>
    withRing c w t fun r => setAdvance t c (ringD w) (ringSlot r r.head) := rfl
theorem exec_ringTail : exec (.ringTail c w e) s = issueCore .ringTail c w e s fun t =>
    withRing c w t fun r => setAdvance t c (ringD w) (ringSlot r r.tail) := rfl
theorem exec_ringOcc : exec (.ringOcc c w e) s = issueCore .ringOcc c w e s fun t =>
    withRing c w t fun r => setAdvance t c (ringD w) (BitVec.ofNat 64 (ringOccupancy r)) := rfl

theorem withRing_of_size {f : RingRec → State} (h : (ringOf s c (ringK w)).size ≠ 0) : withRing c w s f = f (ringOf s c (ringK w)) := if_neg h

theorem withRing_of_unset {f : RingRec → State} (h : (ringOf s c (ringK w)).size = 0) :
    withRing c w s f = raiseTask s c cRING_CONFIG (pcOf s c) := if_pos h

/-- SET: the checks of R115 in their order, then the record. -/
theorem ringSetBody_of_misaligned (h : idxVal (getCore s c).seq.sregs w 64 % 64 ≠ 0) :
    ringSetBody c w s = raiseTask s c cALIGN (pcOf s c) := if_pos h

theorem ringSetBody_of_zero (h : idxVal (getCore s c).seq.sregs w 64 % 64 = 0) (hn : wfld w 54 41 = 0) :
    ringSetBody c w s = raiseTask s c cRING_CONFIG (pcOf s c) := (if_neg (not_not_intro h)).trans (if_pos hn)

theorem ringSetBody_of_beyond (h : idxVal (getCore s c).seq.sregs w 64 % 64 = 0) (hn : 0 < wfld w 54 41)
    (hb : (getCore s c).spTask.bound.toNat * 4096 < idxVal (getCore s c).seq.sregs w 64 + 64 * wfld w 54 41) :
    ringSetBody c w s = raiseTask s c cBOUND (pcOf s c) :=
  (if_neg (not_not_intro h)).trans ((if_neg (Nat.ne_of_gt hn)).trans (if_pos hb))

theorem ringSetBody_of_sound (h : idxVal (getCore s c).seq.sregs w 64 % 64 = 0) (hn : 0 < wfld w 54 41)
    (hb : idxVal (getCore s c).seq.sregs w 64 + 64 * wfld w 54 41 ≤ (getCore s c).spTask.bound.toNat * 4096) (hnext : HasNext s c) :
    ringSetBody c w s = onward (setRing s c (wfld w 35 32)
      ⟨BitVec.ofNat 14 (idxVal (getCore s c).seq.sregs w 64 / 64), BitVec.ofNat 14 (wfld w 54 41), 0, 0⟩) c :=
  (if_neg (not_not_intro h)).trans ((if_neg (Nat.ne_of_gt hn)).trans ((if_neg (Nat.not_lt.mpr hb)).trans
    (advance_of_hasNext (hasNext_setRing.mpr hnext))))

/-- Settles O16: the checks of each command in the order of the model (log 101), and its act where none fails. -/
theorem ringCommandsAndErrors : Obligations.RingCommandsAndErrors := by
  refine ⟨?acts, ?errors⟩
  case acts =>
    intro c w e s t hn k d n r put slot occ
    have ht : atIssue s c e = t := rfl
    clear_value t
    have hput (x : RingRec) : HasNext (put x) c := hasNext_setRing.mpr hn
    refine ⟨?set, ?push, ?pop, ?head, ?tail, ?occ⟩
    case set => exact fun h halign hpos htop => outcome_of_issues ht exec_ringSet h (ringSetBody_of_sound halign hpos htop hn)
    case push =>
      exact fun h hsize hroom hwhole => outcome_of_issues ht exec_ringPush h ((withRing_of_size hsize).trans
        ((if_neg (Nat.not_lt.mpr hroom)).trans ((if_neg (Nat.not_lt.mpr hwhole)).trans (setAdvance_of_hasNext _ _ (hput _)))))
    case pop =>
      exact fun h hsize hheld hwhole => outcome_of_issues ht exec_ringPop h ((withRing_of_size hsize).trans
        ((if_neg (Nat.not_lt.mpr hheld)).trans ((if_neg (Nat.not_lt.mpr hwhole)).trans (setAdvance_of_hasNext _ _ (hput _)))))
    case head =>
      exact fun h hsize => outcome_of_issues ht exec_ringHead h ((withRing_of_size hsize).trans (setAdvance_of_hasNext _ _ hn))
    case tail =>
      exact fun h hsize => outcome_of_issues ht exec_ringTail h ((withRing_of_size hsize).trans (setAdvance_of_hasNext _ _ hn))
    case occ =>
      exact fun h hsize => outcome_of_issues ht exec_ringOcc h ((withRing_of_size hsize).trans (setAdvance_of_hasNext _ _ hn))
  case errors =>
    intro c w e s t n r base occ raised
    have ht : atIssue s c e = t := rfl
    clear_value t
    refine ⟨?set, ?unset, ?push, ?pop⟩
    case set =>
      refine fun h => ⟨fun hmis => ?_, fun halign hzero => ?_, fun halign hpos htop => ?_⟩
      · exact outcome_of_issues ht exec_ringSet h (ringSetBody_of_misaligned hmis)
      · exact outcome_of_issues ht exec_ringSet h (ringSetBody_of_zero halign hzero)
      · exact outcome_of_issues ht exec_ringSet h (ringSetBody_of_beyond halign hpos htop)
    case unset =>
      refine fun hunset => ⟨fun h => ?_, fun h => ?_, fun h => ?_, fun h => ?_, fun h => ?_⟩
      · exact outcome_of_issues ht exec_ringPush h (withRing_of_unset hunset)
      · exact outcome_of_issues ht exec_ringPop h (withRing_of_unset hunset)
      · exact outcome_of_issues ht exec_ringHead h (withRing_of_unset hunset)
      · exact outcome_of_issues ht exec_ringTail h (withRing_of_unset hunset)
      · exact outcome_of_issues ht exec_ringOcc h (withRing_of_unset hunset)
    case push =>
      refine fun hsize h => ⟨fun hover => ?_, fun hroom hsplit => ?_⟩
      · exact outcome_of_issues ht exec_ringPush h ((withRing_of_size hsize).trans (if_pos hover))
      · exact outcome_of_issues ht exec_ringPush h ((withRing_of_size hsize).trans ((if_neg (Nat.not_lt.mpr hroom)).trans (if_pos hsplit)))
    case pop =>
      refine fun hsize h => ⟨fun hunder => ?_, fun hheld hsplit => ?_⟩
      · exact outcome_of_issues ht exec_ringPop h ((withRing_of_size hsize).trans (if_pos hunder))
      · exact outcome_of_issues ht exec_ringPop h ((withRing_of_size hsize).trans ((if_neg (Nat.not_lt.mpr hheld)).trans (if_pos hsplit)))

/-! ### Malformed words and full queues (R70, R72) -/

/-- A word that reaches issue and is of no row, or malformed for its row, raises ILLEGAL_COMMAND whatever the row's act and condition are. -/
theorem issueWhen_of_malformed {ready : State → Bool} {row : CmdRow} {body : State → State} {t : State} (ht : atIssue s c e = t)
    (hmay : mayIssue (reached s c e) c w = true)
    (hbad : rowOfWord w = none ∨ rowOfWord w = some row ∧ malformed row (getCore t c).seq.sregs w = true) :
    issueWhen ready row c w e s body = cycleFrom c e (raiseTask t c cILLEGAL (pcOf t c)) := by
  have hrow : ¬(rowOfWord w ≠ none ∧ rowOfWord w ≠ some row) := fun ⟨hsome, hother⟩ => hbad.elim hsome fun h => hother h.1
  have hill : rowOfWord w = none ∨ malformed row (getCore t c).seq.sregs w = true := hbad.imp_right (·.2)
  rw [issueWhen, if_neg hrow, if_neg (by simp [hmay]), ht]
  exact if_pos hill

theorem issueWhen_of_not_ready {ready : State → Bool} {row : CmdRow} {body : State → State} (h : Issues row c w e s)
    (hready : ready (atIssue s c e) = false) : issueWhen ready row c w e s body = .next s := by
  obtain ⟨hrow, hmay, hsound⟩ := h
  have hill : ¬(rowOfWord w = none ∨ malformed row (getCore (atIssue s c e) c).seq.sregs w = true) := by simp [hrow, hsound]
  rw [issueWhen, if_neg (by simp [hrow]), if_neg (by simp [hmay])]
  exact (if_neg hill).trans (if_pos (by simp [hready]))

/-- Every queued row is an issue on the condition that its queue has a free entry. -/
theorem exec_eq_issueWhen_of_queuedOf {i : Instr} {row : CmdRow} {kind : QKind} (s : State) (h : queuedOf i = some (row, kind, c, w, e)) :
    ∃ body, exec i s = issueWhen (queueFree c kind) row c w e s body := by
  by_cases hask : kind = .summaryAsk
  · subst hask
    unfold queuedOf at h
    split at h
    case h_2 => cases h; exact ⟨askBody c w, rfl⟩
    all_goals cases h
  · exact ⟨fun s => enqueue s c kind w, exec_of_queuedOf s h hask⟩

/-- Settles O17: a full queue is the condition that fails, and a malformed word is judged before it. -/
theorem malformedRaisesAndFullQueueStalls : Obligations.MalformedRaisesAndFullQueueStalls := by
  intro i row kind c w e s hq t
  have ht : atIssue s c e = t := rfl
  clear_value t
  obtain ⟨body, hexec⟩ := exec_eq_issueWhen_of_queuedOf s hq
  rw [hexec]
  refine ⟨fun h hfull => issueWhen_of_not_ready h ?_, fun hmay hbad => issueWhen_of_malformed ht hmay hbad⟩
  rw [ht, queueFree, hfull]
  rfl

end Sys2Proof.Machine
end

section
/-! PROOFS. The four queues at the start of a command: what a start leaves of the sequencer, and what becomes of the only queued command (R70, R73). -/

namespace Sys2Proof.Machine
open Sys2Proof

variable {s : State} {c : CoreId} {q : QEntry}

/-! ### Reading the queues after an update -/

@[simp] theorem getQ_setQ_self (q : Seq) (k : QSel) (l : List QEntry) : getQ (setQ q k l) k = l := by cases k <;> rfl

theorem getQ_setQ (q : Seq) (k j : QSel) (l : List QEntry) : getQ (setQ q k l) j = if j = k then l else getQ q j := by
  cases k <;> cases j <;> rfl

@[simp] theorem setQ_pc (q : Seq) (k : QSel) (l : List QEntry) : (setQ q k l).pc = q.pc := by cases k <;> rfl
@[simp] theorem setQ_cmdMem (q : Seq) (k : QSel) (l : List QEntry) : (setQ q k l).cmdMem = q.cmdMem := by cases k <;> rfl
@[simp] theorem setQ_phase (q : Seq) (k : QSel) (l : List QEntry) : (setQ q k l).phase = q.phase := by cases k <;> rfl
@[simp] theorem setQ_cycle (q : Seq) (k : QSel) (l : List QEntry) : (setQ q k l).cycle = q.cycle := by cases k <;> rfl
@[simp] theorem setQ_asks (q : Seq) (k : QSel) (l : List QEntry) : (setQ q k l).asks = q.asks := by cases k <;> rfl

theorem getQ_dropEntry (k j : QSel) (n : Nat) : getQ (getCore (dropEntry s c k n) c).seq j =
    if j = k then (getQ (getCore s c).seq k).filter (fun e => decide (e.n ≠ n)) else getQ (getCore s c).seq j := by
  simp [dropEntry, getQ_setQ]

theorem getQ_modEntry (k j : QSel) (n : Nat) (f : QEntry → QEntry) : getQ (getCore (modEntry s c k n f) c).seq j =
    if j = k then (getQ (getCore s c).seq k).map (fun e => if e.n = n then f e else e) else getQ (getCore s c).seq j := by
  simp [modEntry, getQ_setQ]

@[simp] theorem dropEntry_phase (k : QSel) (n : Nat) : (getCore (dropEntry s c k n) c).seq.phase = (getCore s c).seq.phase := by simp [dropEntry]
@[simp] theorem modEntry_phase (k : QSel) (n : Nat) (f : QEntry → QEntry) :
    (getCore (modEntry s c k n f) c).seq.phase = (getCore s c).seq.phase := by simp [modEntry]

/-! ### What is left alone of the sequencer -/

/-- The core's queues and the phase of its sequencer are as before. -/
structure SameQueues (s t : State) (c : CoreId) : Prop where
  queues : ∀ k, getQ (getCore t c).seq k = getQ (getCore s c).seq k
  phase : (getCore t c).seq.phase = (getCore s c).seq.phase

theorem SameQueues.refl (s : State) (c : CoreId) : SameQueues s s c := ⟨fun _ => rfl, rfl⟩

theorem SameQueues.trans {t u : State} (h : SameQueues s t c) (k : SameQueues t u c) : SameQueues s u c :=
  ⟨fun j => (k.queues j).trans (h.queues j), k.phase.trans h.phase⟩

theorem sameQueues_of_seq {t : State} (h : (getCore t c).seq = (getCore s c).seq) : SameQueues s t c := ⟨fun k => by rw [h], by rw [h]⟩

theorem sameQueues_of_cores {t : State} (h : t.cores = s.cores) : SameQueues s t c :=
  sameQueues_of_seq (by rw [getCore, h]; rfl)

theorem sameQueues_modEng (f : Engines → Engines) : SameQueues s (modEng s c f) c := sameQueues_of_seq (by simp)

/-! ### Frames that are sent leave the cores -/

@[simp] theorem sendFrame_cores (s : State) (fr : Frame) : (sendFrame s fr).cores = s.cores := by
  unfold sendFrame sendOn
  split
  · split
    · split <;> rfl
    · rfl
  · rfl

/-- What holds of both branches holds of the choice. -/
theorem ite_cases {α : Sort _} {p : Prop} [Decidable p] {P : α → Prop} {a b : α} (h : P a) (k : P b) : P (if p then a else b) := by
  split <;> assumption

@[simp] theorem pairSend_cores (n i : Nat) (s : State) : (pairSend n i s).cores = s.cores := by
  induction n generalizing s with
  | zero => rfl
  | succ n ih =>
    unfold pairSend
    split
    · rfl
    · split
      · rfl
      · refine ite_cases (P := fun t : State => t.cores = s.cores) rfl ?_
        rw [ih, sendFrame_cores, setPair_cores]

@[simp] theorem pairEnqueue_cores (s : State) (i : Nat) (l : List TxFrame) : (pairEnqueue s i l).cores = s.cores := by
  unfold pairEnqueue
  split
  · rfl
  · rw [pairSend_cores, setPair_cores]

theorem requestRow_cores (d : DmaSide) (x : State × Nat) (r : Nat) : (requestRow c q d x r).1.cores = x.1.cores := by
  unfold requestRow
  dsimp only
  repeat' split
  all_goals first | rfl | rw [pairEnqueue_cores, setPair_cores]

/-! ### What a start answers -/

/-- Every state that a start gives is one of `P`. -/
structure StartsIn (P : State → Prop) (r : StartRes) : Prop where
  done : ∀ u, r = .done u → P u
  run : ∀ u p, r = .run u p → P u

section
variable {P : State → Prop} {a b : StartRes}

theorem startsIn_wait : StartsIn P .wait := ⟨(fun _ h => by cases h), (fun _ _ h => by cases h)⟩
theorem startsIn_fail {x : BitVec 8} {y : Option (BitVec 48)} {z : Bool} : StartsIn P (.fail x y z) :=
  ⟨(fun _ h => by cases h), (fun _ _ h => by cases h)⟩
theorem startsIn_done {u : State} (h : P u) : StartsIn P (.done u) := ⟨(fun _ e => by cases e; exact h), (fun _ _ e => by cases e)⟩
theorem startsIn_run {u : State} {p : QEntry} (h : P u) : StartsIn P (.run u p) := ⟨(fun _ e => by cases e), (fun _ _ e => by cases e; exact h)⟩
theorem startsIn_ite {p : Prop} [Decidable p] (h : StartsIn P a) (k : StartsIn P b) : StartsIn P (if p then a else b) := by
  split <;> assumption

/-- A stop gives no state. -/
theorem startsIn_of_stops {o : Option StartRes} (h : StopsOnly o) (ho : o = some a) : StartsIn P a := by
  have hnot (u : State) : ¬Keeps { u with pending := .alertResponseRead :: u.pending } u := fun h => List.cons_ne_self _ _ h.pending.symm
  exact ⟨fun u e => absurd ((h.get a ho _).done u e) (hnot u), fun u p e => absurd ((h.get a ho _).run u p e) (hnot u)⟩

theorem startsIn_getD {o : Option StartRes} (h : StopsOnly o) (k : StartsIn P a) : StartsIn P (o.getD a) := by
  cases o with
  | none => exact k
  | some r => exact startsIn_of_stops h rfl

end

/-- The checks of STATEIO fail without a new state. -/
theorem startsIn_of_stCheck {P : State → Prop} {mse : Bool} {f : Member → Bool} {r : StartRes} (h : stCheck s c q mse f = .error r) : StartsIn P r :=
  startsIn_of_stops ⟨fun _ e _ => by cases e; exact stCheck_stops h⟩ rfl

/-! ### What a start does to the state -/

/-- What the starts of the queued commands do to a state, before they answer, keeps `P`. -/
structure StartSteps (c : CoreId) (P : State → Prop) : Prop where
  eng : ∀ t f, P t → P (modEng t c f)
  marks : ∀ t (f g : Seq → Nat), P t → P (modSeq t c fun y => { y with drainAt := f y, arrayAt := g y })
  ring : ∀ t p n, P t → P (modPart t p fun y => { y with sumDue := y.sumDue + 16 + n })
  request : ∀ q d x r, P x.1 → P (requestRow c q d x r).1

section
variable {P : State → Prop}

theorem foldl_requestRow_in (h : StartSteps c P) (d : DmaSide) (l : List Nat) (x : State × Nat) (hx : P x.1) : P (l.foldl (requestRow c q d) x).1 := by
  induction l generalizing x with
  | nil => exact hx
  | cons r l ih => exact ih _ (h.request q d x r hx)

variable (hs : P s)
include hs

theorem startVx_in {l : List SpRange} {m : Nat} : StartsIn P (startVx s c q l m) := by
  unfold startVx
  refine startsIn_ite startsIn_wait ?_
  split
  · exact startsIn_fail
  · exact startsIn_run hs

theorem startSummary_in (h : StartSteps c P) {ask : Bool} : StartsIn P (startSummary ask s c q) := by
  unfold startSummary
  refine startsIn_ite startsIn_wait (startsIn_ite (startsIn_done hs) ?_)
  split
  · exact startsIn_fail
  · split
    · exact startsIn_wait
    · exact startsIn_ite startsIn_wait (startsIn_run (h.ring _ _ _ hs))

theorem beginDma_in (h : StartSteps c P) : StartsIn P (beginDma s c q) := by
  have hcount (f : Engines → Engines) : P (if isCoded q then modEng s c f else s) := ite_cases (h.eng s f hs) hs
  unfold beginDma
  dsimp only
  split
  · exact startsIn_run (foldl_requestRow_in h _ _ _ (hcount _))
  · exact startsIn_run (hcount _)

theorem startDma_in (h : StartSteps c P) : StartsIn P (startDma s c q) := by
  unfold startDma
  refine startsIn_ite startsIn_wait ?_
  split
  · exact startsIn_fail
  · exact startsIn_ite (startsIn_done hs) (startsIn_getD stops_dmaErr (beginDma_in hs h))

theorem startMxConfig_in : StartsIn P (startMxConfig s c q) := by
  unfold startMxConfig
  refine startsIn_ite startsIn_wait ?_
  split
  · exact startsIn_fail
  · exact startsIn_run hs

theorem startCzLoad_in : StartsIn P (startCzLoad s c q) := by
  unfold startCzLoad
  refine startsIn_ite startsIn_wait ?_
  split
  · exact startsIn_fail
  · exact startsIn_run hs

theorem startCzBuild_in : StartsIn P (startCzBuild s c q) := by
  unfold startCzBuild
  refine startsIn_ite startsIn_wait ?_
  split
  · exact startsIn_fail
  · exact startsIn_run hs

theorem startMatmul_in (h : StartSteps c P) : StartsIn P (startMatmul s c q) := by
  unfold startMatmul
  refine startsIn_ite startsIn_wait (startsIn_ite startsIn_fail (startsIn_ite startsIn_fail ?_))
  split
  · exact startsIn_fail
  · exact startsIn_run (h.marks _ _ _ (h.eng s _ hs))

theorem startWload_in (h : StartSteps c P) : StartsIn P (startWload s c q) := by
  unfold startWload
  refine startsIn_ite startsIn_wait ?_
  split
  · exact startsIn_fail
  · exact startsIn_run (h.eng s _ hs)

theorem startAdrain_in {fill : Bool} : StartsIn P (startAdrain fill s c q) :=
  startsIn_ite startsIn_wait (startsIn_ite startsIn_fail (startsIn_ite startsIn_fail
    (startsIn_getD (stops_orElse stops_localErr stops_downErr) (startsIn_run hs))))

theorem startVchain_in : StartsIn P (startVchain s c q) := by
  unfold startVchain
  refine startsIn_ite startsIn_wait (startsIn_ite (startsIn_done hs) ?_)
  split
  · exact startsIn_fail
  · exact startsIn_ite startsIn_wait (startsIn_run hs)

theorem startVdSetvl_in (h : StartSteps c P) : StartsIn P (startVdSetvl s c q) :=
  startsIn_ite startsIn_fail (startsIn_done (h.eng s _ hs))

theorem startStLoad_in : StartsIn P (startStLoad s c q) := by
  unfold startStLoad
  refine startsIn_ite startsIn_wait ?_
  split
  case h_1 h => exact startsIn_of_stCheck h
  case h_2 => exact startsIn_run hs

theorem startStSave_in : StartsIn P (startStSave s c q) := by
  unfold startStSave
  refine startsIn_ite startsIn_wait ?_
  split
  case h_1 h => exact startsIn_of_stCheck h
  case h_2 => exact startsIn_run hs

theorem startWindow_in {write : Bool} : StartsIn P (startWindow write s c q) := by
  unfold startWindow
  refine startsIn_ite startsIn_wait (startsIn_ite startsIn_fail ?_)
  split
  · exact startsIn_fail
  · refine startsIn_ite startsIn_fail (startsIn_ite startsIn_fail ?_)
    split
    case h_1 h => exact startsIn_of_stops stops_localErr h
    case h_2 =>
      split
      · exact startsIn_fail
      · exact startsIn_getD stops_downErr (startsIn_run hs)

theorem startSpread_in : StartsIn P (startSpread s c q) :=
  startsIn_ite startsIn_wait (startsIn_ite (startsIn_done hs) (startsIn_ite startsIn_fail (startVx_in hs)))

theorem startScan_in : StartsIn P (startScan s c q) :=
  startsIn_ite startsIn_wait (startsIn_ite startsIn_fail (startVx_in hs))

theorem startOf_in (h : StartSteps c P) : StartsIn P (startOf s c q) := by
  unfold startOf
  split
  case h_1 | h_2 => exact (startSummary_in hs h)
  case h_3 | h_4 | h_5 | h_6 => exact (startDma_in hs h)
  case h_7 | h_8 | h_9 => exact startMxConfig_in hs
  case h_10 | h_11 => exact startVx_in hs
  case h_12 => exact startCzLoad_in hs
  case h_13 => exact startCzBuild_in hs
  case h_14 | h_15 | h_16 | h_17 => exact (startMatmul_in hs h)
  case h_18 => exact (startWload_in hs h)
  case h_19 | h_20 => exact startAdrain_in hs
  case h_21 => exact startVchain_in hs
  case h_22 => exact startVx_in hs
  case h_23 => exact (startVdSetvl_in hs h)
  case h_24 => exact startVx_in hs
  case h_25 => exact startStLoad_in hs
  case h_26 => exact startStSave_in hs
  case h_27 | h_28 => exact startWindow_in hs
  case h_29 | h_30 => exact startSpread_in hs
  case h_31 => exact startScan_in hs
  case h_32 | h_33 => exact startVx_in hs
  all_goals exact startsIn_wait

end

theorem startSteps_sameQueues : StartSteps c (SameQueues s · c) where
  eng _ _ h := h.trans (sameQueues_modEng _)
  marks t f g h := h.trans ⟨fun k => by cases k <;> simp [getQ], by simp⟩
  ring _ _ _ h := h.trans (sameQueues_of_cores rfl)
  request _ d x r h := h.trans (sameQueues_of_cores (requestRow_cores d x r))

/-- The queues change with the answer of a start, not in it. -/
theorem startOf_keepsQueues : StartsIn (SameQueues s · c) (startOf s c q) := startOf_in (.refl s c) startSteps_sameQueues

/-! ### The one queued command (R70) -/

theorem startQueue_of_empty {k : QSel} (h : getQ (getCore s c).seq k = []) : startQueue s c k = s := by
  rw [startQueue, h]; rfl

theorem startQueue_of_unstarted {k : QSel} (h : getQ (getCore s c).seq k = [q]) (hq : q.started = false) : startQueue s c k = takeStart s c k q := by
  rw [startQueue, h]
  simp [hq]

/-- The phase is not that of a DWAIT. -/
def NoDwait (s : State) (c : CoreId) : Prop := ∀ d tag, (getCore s c).seq.phase ≠ .dwait d tag

theorem readyDecision_of_noDwait (h : NoDwait s c) : readyDecision (getCore s c).seq = none := by
  unfold readyDecision
  split
  case h_1 d tag hphase => exact absurd hphase (h d tag)
  case h_2 => rfl

theorem startDecision_of_noDwait (h : NoDwait s c) : startDecision s c = s := by
  simp only [startDecision, readyDecision_of_noDwait h]

@[simp] theorem countStall_cores (s : State) (c : CoreId) : (countStall s c).cores = s.cores := by
  unfold countStall
  split
  · exact ite_cases (P := fun t : State => t.cores = s.cores) rfl rfl
  · rfl

@[simp] theorem getCore_countStall (s : State) (c d : CoreId) : getCore (countStall s c) d = getCore s d := by simp only [getCore, countStall_cores]

@[simp] theorem getCore_raiseTaskAt (x : BitVec 8) (pc : BitVec 13) (a : Option (BitVec 48)) (y : BitVec 16) : getCore (raiseTaskAt s c x pc a y) c =
    { getCore s c with seq := { (getCore s c).seq with phase := .stopped x pc } } := by
  unfold raiseTaskAt
  dsimp only
  split <;> simp [modTask]

/-- The start of a command changes no queue but its own, and leaves a core that stands at no DWAIT so. -/
theorem takeStart_others {k : QSel} (hd : NoDwait s c) :
    NoDwait (takeStart s c k q) c ∧ ∀ j, j ≠ k → getQ (getCore s c).seq j = [] → getQ (getCore (takeStart s c k q) c).seq j = [] := by
  have hkeeps := startOf_keepsQueues (s := s) (c := c) (q := q)
  unfold takeStart
  split
  case h_1 => exact ⟨hd, fun _ _ h => h⟩
  case h_2 cause addr abandon heq =>
    have hqueue (j : QSel) (hj : j ≠ k) (h : getQ (getCore s c).seq j = []) :
        getQ (getCore (raiseTaskAt (dropEntry s c k q.n) c cause q.pc addr 0) c).seq j = [] := by
      have hdrop : getQ (getCore (dropEntry s c k q.n) c).seq j = [] := by rw [getQ_dropEntry, if_neg hj, h]
      rw [getCore_raiseTaskAt]
      cases j <;> exact hdrop
    cases abandon
    · exact ⟨fun d tag h => by simp at h, hqueue⟩
    · refine ⟨fun d tag h => by simp [abandonRest] at h, fun j hj h => ?_⟩
      have := hqueue j hj h
      cases j <;> simp_all [abandonRest, getQ]
  case h_3 u heq =>
    obtain ⟨hqueues, hphase⟩ := hkeeps.done u heq
    exact ⟨fun d tag => by rw [dropEntry_phase, hphase]; exact hd d tag, fun j hj h => by rw [getQ_dropEntry, if_neg hj, hqueues, h]⟩
  case h_4 u p heq =>
    obtain ⟨hqueues, hphase⟩ := hkeeps.run u p heq
    exact ⟨fun d tag => by rw [modEntry_phase, hphase]; exact hd d tag, fun j hj h => by rw [getQ_modEntry, if_neg hj, hqueues, h]⟩

/-- A cycle starts the only queued command, and no other. -/
theorem starts_of_onlyEntry (h : OnlyEntry s c q) (hq : q.started = false) (hk : queueOf q.kind ≠ .sq) (hd : NoDwait s c) :
    starts s c = takeStart (countStall s c) c (queueOf q.kind) q := by
  have hd' : NoDwait (countStall s c) c := by rwa [NoDwait, getCore_countStall]
  have hall (j : QSel) : getQ (getCore (countStall s c) c).seq j = if j = queueOf q.kind then [q] else [] := by rw [getCore_countStall, h j]
  have hbefore (j : QSel) (hj : j ≠ queueOf q.kind) : startQueue (countStall s c) c j = countStall s c :=
    startQueue_of_empty (by rw [hall, if_neg hj])
  have hown : startQueue (countStall s c) c (queueOf q.kind) = takeStart (countStall s c) c (queueOf q.kind) q :=
    startQueue_of_unstarted (by rw [hall, if_pos rfl]) hq
  obtain ⟨hdwait, hothers⟩ := takeStart_others (k := queueOf q.kind) (q := q) hd'
  have hafter (j : QSel) (hj : j ≠ queueOf q.kind) : startQueue (takeStart (countStall s c) c (queueOf q.kind) q) c j =
      takeStart (countStall s c) c (queueOf q.kind) q := startQueue_of_empty (hothers j hj (by rw [hall, if_neg hj]))
  have hlast := startDecision_of_noDwait hdwait
  unfold starts
  simp only [List.foldl]
  generalize queueOf q.kind = k at *
  cases k
  case dma => rw [hbefore .mx nofun, hbefore .wl nofun, hown, hafter .vx nofun, hlast]
  case wl => rw [hbefore .mx nofun, hown, hafter .dma nofun, hafter .vx nofun, hlast]
  case mx => rw [hown, hafter .wl nofun, hafter .dma nofun, hafter .vx nofun, hlast]
  case vx => rw [hbefore .mx nofun, hbefore .wl nofun, hbefore .dma nofun, hown, hlast]
  case sq => exact absurd rfl hk

/-! ### Entry at issue (R70, R73) -/

theorem enqueue_of_hasNext {kind : QKind} {w : CmdWord} (h : HasNext s c) : enqueue s c kind w =
    onward (modSeq s c fun q => setQ { q with issued := q.issued + 1 } (queueOf kind) (getQ q (queueOf kind) ++ [Sys2Proof.entryOf s c kind w])) c :=
  advance_of_hasNext (by simpa [HasNext] using h)

/-- Settles O18: a queued command enters its queue at issue, and a cycle carries out the answer of the start of the only one. -/
theorem queuedCommandsEnterTheirQueue : Obligations.QueuedCommandsEnterTheirQueue := by
  refine ⟨?enters, ?starts⟩
  case enters =>
    intro i row kind c w e s t hq hask h hn hfree
    have ht : atIssue s c e = t := rfl
    clear_value t
    have hready : queueFree c kind (atIssue s c e) = true := by rw [ht]; exact decide_eq_true hfree
    rw [exec_of_queuedOf s hq hask, issueQ, issueWhen_of_issues _ h hready, ht, enqueue_of_hasNext hn]
  case starts =>
    intro c s q honly hq hk hd v
    have hv : countStall s c = v := rfl
    clear_value v
    rw [starts_of_onlyEntry honly hq hk hd, hv]
    unfold takeStart
    exact ⟨fun u hu => by rw [hu], fun u p hu => by rw [hu], fun hu => by rw [hu], fun cause addr hu => by rw [hu]; rfl⟩

end Sys2Proof.Machine
end

section
/-! PROOFS. SUMMARY: the outstanding ASK, the header of Table 4-10, and the record in the ring (R83 to R85). -/

namespace Sys2Proof.Machine
open Sys2Proof

variable {s : State} {c : CoreId} {q : QEntry}

/-! ### Little-endian bytes -/

@[simp] theorem length_leBytes (n v : Nat) : (leBytes n v).length = n := by simp [leBytes]

theorem leBytes_succ (n v : Nat) : leBytes (n + 1) v = BitVec.ofNat 8 v :: leBytes n (v / 256) := by
  have hshift (i : Nat) : v >>> (8 * (i + 1)) = (v / 256) >>> (8 * i) := by
    rw [Nat.shiftRight_eq_div_pow, Nat.shiftRight_eq_div_pow, Nat.div_div_eq_div_mul, show 8 * (i + 1) = 8 + 8 * i by omega, Nat.pow_add]
  simp [leBytes, List.range_succ_eq_map, Function.comp_def, hshift]

/-- The bytes of a number give it back, as far as they reach. -/
theorem leNat_leBytes (n v : Nat) : leNat (leBytes n v) = v % 256 ^ n := by
  induction n generalizing v with
  | zero => simp [leBytes, leNat, Nat.mod_one]
  | succ n ih =>
    rw [leBytes_succ, leNat, ih, BitVec.toNat_ofNat, show 256 ^ (n + 1) = 256 * 256 ^ n from Nat.pow_succ', Nat.mod_mul]

theorem nfld_eq (v hi lo : Nat) : nfld v hi lo = v / 2 ^ lo % 2 ^ (hi - lo + 1) := by rw [nfld, Nat.shiftRight_eq_div_pow]

/-! ### SUMMARY ASK at issue (R83, R85) -/

theorem askBody_of_tag {w : CmdWord} (h : ∃ a ∈ (getCore s c).seq.asks, a.tag = BitVec.ofNat 16 (wfld w 77 62)) :
    askBody c w s = raiseTask s c cTAG (pcOf s c) := by
  refine if_pos ?_
  simpa using h

theorem askBody_of_limit {w : CmdWord} (h : ∀ a ∈ (getCore s c).seq.asks, a.tag ≠ BitVec.ofNat 16 (wfld w 77 62))
    (hlimit : 4 ≤ (getCore s c).seq.asks.length) : askBody c w s = raiseTask s c cASK_LIMIT (pcOf s c) :=
  (if_neg (by simpa using h)).trans (if_pos hlimit)

/-- The state once the ASK is outstanding. -/
def askNoted (s : State) (c : CoreId) (w : CmdWord) : State :=
  modSeq s c fun q => { q with asks := q.asks ++ [⟨BitVec.ofNat 16 (wfld w 77 62), s.time, BitVec.ofNat 20 (wfld w 97 78), wfld w 104 98 * 64, none⟩] }

theorem askBody_of_room {w : CmdWord} (h : ∀ a ∈ (getCore s c).seq.asks, a.tag ≠ BitVec.ofNat 16 (wfld w 77 62))
    (hroom : (getCore s c).seq.asks.length < 4) : askBody c w s = enqueue (askNoted s c w) c .summaryAsk w :=
  (if_neg (by simpa using h)).trans (if_neg (Nat.not_le.mpr hroom))

theorem exec_summaryAsk_of_issues {w : CmdWord} {e : IssueEnv} {t u : State} (ht : atIssue s c e = t) (h : Issues .ask c w e s)
    (hfree : unstarted (getCore t c).seq.dmaQ < 8) (hu : askBody c w t = u) : exec (.summaryAsk c w e) s = cycleFrom c e u := by
  have hexec : exec (.summaryAsk c w e) s = issueWhen (queueFree c .summaryAsk) .ask c w e s (askBody c w) := rfl
  rw [hexec, issueWhen_of_issues _ h (by rw [ht]; exact decide_eq_true hfree), ht, hu]

/-! ### The start (R84) and the header (Table 4-10) -/

/-- The number that the header's 16 bytes hold. -/
def headerNat (index ask part tag capo len time : Nat) : Nat :=
  index % 128 + ask * 2 ^ 7 + part * 2 ^ 8 + tag * 2 ^ 16 + capo * 2 ^ 32 + len * 2 ^ 48 + time * 2 ^ 64

theorem headerNat_fields {index ask part tag capo len time : Nat} (ha : ask ≤ 1) (hp : part < 2 ^ 5) (ht : tag < 2 ^ 16) (hk : capo < 2 ^ 16)
    (hl : len < 2 ^ 10) (htime : time < 2 ^ 64) :
    let h := headerNat index ask part tag capo len time
    h < 256 ^ 16 ∧ nfld h 6 0 = index % 128 ∧ nfld h 7 7 = ask ∧ nfld h 12 8 = part ∧ nfld h 31 16 = tag ∧ nfld h 47 32 = capo ∧
      nfld h 57 48 = len ∧ nfld h 127 64 = time := by
  simp only [nfld_eq, headerNat, Nat.reduceSub, Nat.reduceAdd, Nat.reducePow]
  refine ⟨?_, ?_, ?_, ?_, ?_, ?_, ?_, ?_⟩ <;> omega

theorem startSummary_of_room {ask : Bool} {p : PartId} (hp : partOfCore s c = some p) (hmay : dmaMayStart (getCore s c) q = true)
    (hlen : ask = true ∨ 0 < sumBytes q) (hrange : rangeErr (getCore s c).spTask ⟨false, idxVal q.regs q.w 32, sumBytes q⟩ = none)
    (hroom : ringLacks s c q = false) :
    startSummary ask s c q = .run (modPart s p fun y => { y with sumDue := y.sumDue + 16 + sumBytes q })
      (putCap (paced s c q (cdiv (sumBytes q) 128)) keyBlock (sumHeader s c p ask q)) := by
  have hnot : ¬((!ask) = true ∧ sumBytes q = 0) := fun ⟨h1, h2⟩ => by rcases hlen with h | h <;> simp_all
  simp only [startSummary, hmay, Bool.not_true, Bool.false_eq_true, if_false, if_neg hnot, hrange, hp, hroom]

theorem startSummary_of_full {ask : Bool} {p : PartId} (hp : partOfCore s c = some p) (hmay : dmaMayStart (getCore s c) q = true)
    (hlen : ask = true ∨ 0 < sumBytes q) (hrange : rangeErr (getCore s c).spTask ⟨false, idxVal q.regs q.w 32, sumBytes q⟩ = none)
    (hfull : ringLacks s c q = true) : startSummary ask s c q = .wait := by
  have hnot : ¬((!ask) = true ∧ sumBytes q = 0) := fun ⟨h1, h2⟩ => by rcases hlen with h | h <;> simp_all
  simp only [startSummary, hmay, Bool.not_true, Bool.false_eq_true, if_false, if_neg hnot, hrange, hp, hfull, if_true]

theorem startOf_of_summary (h : q.kind = .summarySend ∨ q.kind = .summaryAsk) :
    startOf s c q = startSummary (decide (q.kind = .summaryAsk)) s c q := by
  rcases h with h | h <;> simp [startOf, h]

@[simp] theorem capOf_putCap_self (q : QEntry) (k : Nat) (b : List Byte) : capOf (putCap q k b) k = b := by simp [capOf, putCap]

/-- The header is the number of Table 4-10's fields. -/
theorem leNat_sumHeader {p : PartId} {k : Task} (ask : Bool) (hk : (getPart s p).task = some k) :
    leNat (sumHeader s c p ask q) =
      headerNat (coreIndex (getPart s p) c) (if ask then 1 else 0) p.toNat (wfld q.w 77 62) k.lastCapo.toNat (wfld q.w 61 52) s.time.toNat % 256 ^ 16 := by
  rw [sumHeader, leNat_leBytes, hk]
  cases ask <;> rfl

/-! ### The end -/

theorem endSummary_of_part {p : PartId} (hp : partOfCore s c = some p) (hlen : 0 < wfld q.w 61 52) :
    (getPart (endSummary s c q) p).sumRing = (getPart s p).sumRing ++ capOf q keyBlock ++
        (List.range (cdiv (wfld q.w 61 52 * 16) 128)).flatMap (fun j => capOf q (keyPiece j)) ∧
      (endSummary s c q).mem = s.mem ∧ (endSummary s c q).cores = s.cores := by
  have hshape : (sumShape q).2 = cdiv (wfld q.w 61 52 * 16) 128 := by
    have hne : sumBytes q ≠ 0 := by unfold sumBytes; omega
    rw [sumShape, if_neg hne]; rfl
  simp [endSummary, hp, hshape, modTask]

/-- Settles O19: TAG, then ASK_LIMIT, then the entry; a start with room writes the header of Table 4-10; the end puts header and payload in
the ring. -/
theorem summariesAreDelivered : Obligations.SummariesAreDelivered := by
  refine ⟨?issue, ?start, ?ends⟩
  case issue =>
    intro c w e s h t asks tag v hfree
    have ht : atIssue s c e = t := rfl
    have hv : askNoted t c w = v := rfl
    clear_value v
    clear_value t
    refine ⟨fun hnew hroom hn => ?_, fun hold => ?_, fun hnew hlimit => ?_⟩
    · have hn' : HasNext v c := by rw [← hv]; simpa [HasNext, askNoted] using hn
      exact exec_summaryAsk_of_issues ht h hfree (by rw [askBody_of_room hnew hroom, hv, enqueue_of_hasNext hn']; rfl)
    · exact exec_summaryAsk_of_issues ht h hfree (askBody_of_tag hold)
    · exact exec_summaryAsk_of_issues ht h hfree (askBody_of_limit hnew hlimit)
  case start =>
    intro c s q p k hp hk x n ask hkind hlen hmay hrange
    have hlen' : ask = true ∨ 0 < sumBytes q := hlen.symm.imp (fun h => decide_eq_true h) id
    have hlacks : ringLacks s c q = decide (131072 < x.sumRing.length + x.sumDue + 16 + n) := by
      simp only [ringLacks, hp]; rfl
    rw [startOf_of_summary hkind]
    refine ⟨fun hfull => startSummary_of_full hp hmay hlen' hrange (by rw [hlacks]; exact decide_eq_true hfull), fun hroom => ?_⟩
    refine ⟨_, _, startSummary_of_room hp hmay hlen' hrange (by rw [hlacks]; exact decide_eq_false (Nat.not_lt.mpr hroom)), rfl, rfl, rfl,
      by simp [x, n, sumBytes], by simp [x], ?_⟩
    obtain ⟨hlt, hindex, hask, hpart, htag, hcapo, hunits, htime⟩ := headerNat_fields (index := coreIndex x c) (ask := if ask then 1 else 0)
      (part := p.toNat) (tag := wfld q.w 77 62) (capo := k.lastCapo.toNat) (len := wfld q.w 61 52) (time := s.time.toNat)
      (by split <;> omega) p.isLt (wfld_lt _ _ _) k.lastCapo.isLt (wfld_lt _ _ _) s.time.isLt
    rw [capOf_putCap_self]
    intro h
    have hh : h = headerNat (coreIndex x c) (if ask then 1 else 0) p.toNat (wfld q.w 77 62) k.lastCapo.toNat (wfld q.w 61 52) s.time.toNat :=
      (leNat_sumHeader ask hk).trans (Nat.mod_eq_of_lt hlt)
    rw [← hh] at hindex hask hpart htag hcapo hunits htime
    have hbit : h.testBit 7 = ask := by
      rw [Nat.testBit_eq_decide_div_mod_eq, ← Nat.pow_one 2, ← nfld_eq h 7 7, hask]
      cases ask <;> rfl
    exact ⟨length_leBytes 16 _, fun hlt => hindex.trans (Nat.mod_eq_of_lt hlt), hbit, hpart, htag, hcapo, hunits, htime⟩
  case ends =>
    intro c s q p hp hkind b hlen
    have hend : endEntry s c q = endSummary s c q := by rcases hkind with h | h <;> simp [endEntry, h]
    rw [hend]
    exact endSummary_of_part hp hlen

end Sys2Proof.Machine
end

section
/-! PROOFS. What messages, error records and corrected rows leave alone: each changes the functions, the telemetry or the monitor's lists only
(R121, R302, R405). -/

namespace Sys2Proof.Machine
open Sys2Proof

/-- A message changes the functions only. -/
theorem postMsg_frame (s : State) (f : Func) (m : Msg) : ∃ F, postMsg s f m = { s with funcs := F } := by
  unfold postMsg
  split
  · exact ⟨s.funcs, rfl⟩
  · exact ⟨_, rfl⟩

theorem postEvent_frame (s : State) (f : Func) (code : BitVec 16) (n : Nat) : ∃ F, postEvent s f code n = { s with funcs := F } := postMsg_frame ..

theorem postResult_frame (s : State) (f : Func) (op tag st : BitVec 16) (n : Nat) : ∃ F, postResult s f op tag st n = { s with funcs := F } :=
  postMsg_frame ..

/-- An error record changes the telemetry, and its event the functions. -/
theorem logError_frame (s : State) (i : ErrInfo) : ∃ T F, logError s i = { s with tele := T, funcs := F } := by
  unfold logError
  split
  · exact ⟨s.tele, s.funcs, rfl⟩
  · dsimp only
    split
    · exact ⟨_, s.funcs, rfl⟩
    · obtain ⟨F, hF⟩ := postEvent_frame _ _ _ _
      exact ⟨_, F, hF⟩

/-- A corrected row changes the telemetry, the monitor's lists, a fuse of the sparing record's state, and the functions. -/
theorem correctRow_frame (c : CoreId) (s : State) (r : SramRow) :
    ∃ T M U F, correctRow c s r = { s with tele := T, mon := M, fuses := U, funcs := F } := by
  unfold correctRow
  dsimp only
  split
  · exact ⟨_, _, s.fuses, s.funcs, rfl⟩
  · split
    · split
      · obtain ⟨T, F, hF⟩ := logError_frame _ _
        exact ⟨T, _, s.fuses, F, hF⟩
      · exact ⟨_, _, s.fuses, s.funcs, rfl⟩
    · split
      · exact ⟨_, _, _, s.funcs, rfl⟩
      · exact ⟨_, _, s.fuses, s.funcs, rfl⟩

theorem correctRows_frame (c : CoreId) (l : List SramRow) (s : State) :
    ∃ T M U F, l.foldl (correctRow c) s = { s with tele := T, mon := M, fuses := U, funcs := F } := by
  induction l generalizing s with
  | nil => exact ⟨_, _, _, _, rfl⟩
  | cons r l ih =>
    obtain ⟨T, M, U, F, h⟩ := correctRow_frame c s r
    obtain ⟨T', M', U', F', h'⟩ := ih (correctRow c s r)
    exact ⟨T', M', U', F', by rw [List.foldl_cons, h', h]⟩

end Sys2Proof.Machine
end

section
/-! PROOFS. The cycle of a core whose four queues are empty: LD and ST from their issue to their completion (R77, R78, R104). -/

namespace Sys2Proof.Machine
open Sys2Proof

variable {s : State} {c : CoreId} {run : RunEnv} {t : Nat}

/-! ### A cycle with empty queues -/

/-- No command stands in the four queues; the sequencer's own may. -/
def NoQueued (s : State) (c : CoreId) : Prop := ∀ k, k ≠ QSel.sq → getQ (getCore s c).seq k = []

section
variable (h : NoQueued s c)
include h

theorem NoQueued.dma : (getCore s c).seq.dmaQ = [] := h .dma nofun
theorem NoQueued.wl : (getCore s c).seq.wlQ = [] := h .wl nofun
theorem NoQueued.mx : (getCore s c).seq.mxQ = [] := h .mx nofun
theorem NoQueued.vx : (getCore s c).seq.vxQ = [] := h .vx nofun

theorem countStall_of_noQueued : countStall s c = s := by
  have hhead : summaryHead s c = none := by simp [summaryHead, h.dma]
  rw [countStall, hhead]

theorem starts_of_noQueued : starts s c = startDecision s c := by
  simp only [starts, countStall_of_noQueued h, List.foldl, startQueue_of_empty (h .mx nofun), startQueue_of_empty (h .wl nofun),
    startQueue_of_empty (h .dma nofun), startQueue_of_empty (h .vx nofun)]

theorem computeAll_of_noQueued : computeAll s c t = s := by simp [computeAll, h.vx, h.dma]

theorem timedAccess_of_noQueued : timedAccess (getCore s c) t = (getCore s c).seq.seqQ.flatMap fun e => seqAccess e t := by
  simp [timedAccess, h.vx, h.dma, h.wl, h.mx]

theorem beatEntry_of_noQueued (taken : Bool) : beatEntry (getCore s c).seq run t taken = none := by
  unfold beatEntry
  cases taken
  · cases run.beats.find? fun b => decide (b.cycle = t) with
    | none => rfl
    | some b => simp [h.mx, h.dma]
  · rfl

theorem takeReads_of_noQueued : takeReads s c t = setCore s c (getCore s c) := by
  have hmx := h.mx
  have hvx := h.vx
  simp only [takeReads, modSeq_eq, modCore_eq, hmx, hvx, List.map_nil]
  generalize getCore s c = x at *
  obtain ⟨q, _⟩ := x
  cases q
  cases hmx
  cases hvx
  rfl

theorem stage_of_noQueued (old : Engines) : stage old s c t = s := by simp [stage, h.mx]

theorem popAll_of_noQueued : popAll s c t = popEnded .sq t c (getCore s c).seq.seqQ.length s := by
  simp [popAll, getQ, h.mx, h.wl, h.dma, h.vx, popEnded]

end

/-- A cycle's work with nothing in the four queues: a DWAIT may start its copy, the sequencer's accesses are presented, and what has ended leaves. -/
theorem workCycle_of_noQueued {u v : State} (h : NoQueued s c) (hu : startDecision s c = u) (hnu : NoQueued u c)
    (hv : present run u c ((getCore u c).seq.seqQ.flatMap fun e => seqAccess e t) = v) (hnv : NoQueued v c) :
    workCycle run s c t = popEnded .sq t c (getCore v c).seq.seqQ.length (setCore v c (getCore v c)) := by
  have hset : NoQueued (setCore v c (getCore v c)) c := by simpa [NoQueued] using hnv
  simp only [workCycle, starts_of_noQueued h, hu, computeAll_of_noQueued hnu, timedAccess_of_noQueued hnu, beatEntry_of_noQueued hnu,
    List.nil_append, hv, takeReads_of_noQueued hnv, stage_of_noQueued hset, popAll_of_noQueued hset, getCore_setCore]

/-! ### One access alone -/

theorem byPriority_singleton (a : Access) : byPriority [a] = [a] := by
  have h : ∀ k : BitVec 3, (List.range 8).flatMap (fun i => if k.toNat = i then [()] else []) = [()] := by decide
  have h' := congrArg (List.map fun _ => a) (h a.port)
  simpa [byPriority, List.filter_cons, List.map_flatMap, apply_ite] using h'

@[simp] theorem present_nil : present run s c [] = s := rfl

/-- An access that nothing contests is performed, once the corrected rows are counted. -/
theorem present_singleton (a : Access) :
    present run s c [a] = perform c ((correctedRows (getCore s c).spTask run (clockOf s c) [a]).foldl (correctRow c) s) (a, none) := by
  simp [present, byPriority_singleton, contest, noteConflicts]

theorem getCore_correctRows (l : List SramRow) (d : CoreId) : getCore (l.foldl (correctRow c) s) d = getCore s d := by
  obtain ⟨T, M, U, F, h⟩ := correctRows_frame c l s
  rw [h]; rfl

/-- What the access of an entry that stands alone in the sequencer leaves of the core. -/
def accessed (x : CoreSt) (e : QEntry) (a : Access) (b : List Byte) (l : List (Nat × Byte)) : CoreSt :=
  match a.data with
  | none => { x with seq := { x.seq with seqQ := [putCap e a.key b] } }
  | some _ => if l.isEmpty then x else { x with seq := { x.seq with landing := x.seq.landing ++ [(x.seq.cycle + 4, l)] } }

theorem accessed_queues (x : CoreSt) (e : QEntry) (a : Access) (b : List Byte) (l : List (Nat × Byte)) (hq : x.seq.seqQ = [e]) :
    (∀ k, k ≠ QSel.sq → getQ (accessed x e a b l).seq k = getQ x.seq k) ∧
      (accessed x e a b l).seq.seqQ = [if a.data = none then putCap e a.key b else e] := by
  unfold accessed
  split
  case h_1 hd => exact ⟨fun k hk => by cases k <;> first | rfl | exact absurd rfl hk, by rw [if_pos hd]⟩
  case h_2 hd =>
    have hsome : a.data ≠ none := by simp [hd]
    rw [if_neg hsome]
    split
    · exact ⟨fun _ _ => rfl, hq⟩
    · exact ⟨fun k _ => by cases k <;> rfl, hq⟩

theorem getCore_perform_alone {e : QEntry} {a : Access} (hq : (getCore s c).seq.seqQ = [e]) (hk : a.k = .sq) (hn : a.n = e.n) :
    getCore (perform c s (a, none)) c =
      accessed (getCore s c) e a (delivers s c a false) (writeCells s c a (a.data.getD [])) := by
  cases hd : a.data with
  | none => simp [perform, accessed, hd, hk, hn, modEntry, getQ, setQ, hq]
  | some b =>
    simp only [perform, accessed, hd, land, Option.isSome_none, Bool.false_eq_true, if_false, Option.getD_some]
    split <;> simp

theorem delivers_alone {e : QEntry} {a : Access} {p : Nat × Nat} (hq : (getCore s c).seq.seqQ = [e]) (hk : a.k = .sq) (hn : a.n = e.n)
    (hz : e.zeros = []) (hp : a.pieces = [p]) : delivers s c a false = spRead (getCore s c) [] p.1 p.2 := by
  simp [delivers, zerosOf, hk, getQ, hq, hn, hz, hp]

theorem spRead_congr {x y : CoreSt} (ht : y.spTask = x.spTask) (hsp : y.eng.sp = x.eng.sp) (z : List Nat) (a n : Nat) :
    spRead y z a n = spRead x z a n := by rw [spRead, spRead, ht, hsp]

/-- The cells of a write of one piece, byte by byte. -/
theorem writeCells_of_piece {a : Access} {addr : Nat} {b : List Byte} (hp : a.pieces = [(addr, b.length)]) :
    writeCells s c a b = b.zipIdx.filterMap fun y => (xlat (getCore s c).spTask (addr + y.2)).map fun p => (p, y.1) := by
  have hzip : ((List.range b.length).map fun i => addr + i).zip b = b.zipIdx.map fun y => (addr + y.2, y.1) :=
    List.ext_getElem (by simp) fun i _ _ => by simp
  simp only [writeCells, hp, List.flatMap_cons, List.flatMap_nil, List.append_nil, hzip, List.filterMap_map]
  rfl

/-- The bytes of a write that lies in the work area stand one after the other. -/
theorem writeCells_of_work {a : Access} {addr p : Nat} {b : List Byte} (hp : a.pieces = [(addr, b.length)])
    (hin : addr + b.length ≤ workTop (getCore s c).spTask) (hx : xlat (getCore s c).spTask addr = some p) :
    writeCells s c a b = b.zipIdx.map fun y => (p + y.2, y.1) := by
  rw [writeCells_of_piece hp, ← List.filterMap_eq_map]
  refine filterMap_congr_of_mem fun y hy => ?_
  have hlt : y.2 < b.length := List.snd_lt_of_mem_zipIdx hy
  have hstart := xlat_of_lt (r := (getCore s c).spTask) (t := addr) (by omega)
  have hthere := xlat_of_lt (r := (getCore s c).spTask) (t := addr + y.2) (by omega)
  rw [hstart, Option.some.injEq] at hx
  rw [hthere, ← hx, Option.map_some, Function.comp_apply, Nat.add_assoc]

/-! ### LD and ST (R77, R78, R104) -/

/-- A write of some length in bounds lies in the work area (R112). -/
theorem le_workTop_of_write {r : SpTask} {a n : Nat} (hn : 0 < n) (h : rangeErr r ⟨true, a, n⟩ = none) : a + n ≤ workTop r := by
  rw [rangeErr_of_pos hn] at h
  refine Decidable.byContradiction fun hnot => ?_
  rw [if_neg hnot] at h
  split at h <;> simp at h

theorem narrowBody_of_misaligned {write : Bool} {w : CmdWord} (h : idxVal (getCore s c).seq.sregs w 64 % 8 ≠ 0) :
    narrowBody write c w s = raiseTask s c cALIGN (pcOf s c) := by
  rw [narrowBody, narrowAddr, narrowErr, if_pos h]

theorem narrowBody_of_ok {write : Bool} {w : CmdWord} (hn : HasNext s c) (h : idxVal (getCore s c).seq.sregs w 64 % 8 = 0)
    (hr : rangeErr (getCore s c).spTask ⟨write, idxVal (getCore s c).seq.sregs w 64, 8⟩ = none) :
    narrowBody write c w s = onward (startSeq s c (if write then .st else .ld) w 0) c := by
  rw [narrowBody, narrowAddr, narrowErr, if_neg (not_not_intro h), hr]
  exact advance_of_hasNext (by simpa [HasNext, startSeq] using hn)

/-- The core once the sequencer has started a command of its own that completes in its first cycle. -/
def startedAlone (x : CoreSt) (e : QEntry) : CoreSt := { x with seq := { x.seq with issued := x.seq.issued + 1, seqQ := [e], pc := x.seq.pc + 1 } }

def narrowEntry (s : State) (c : CoreId) (kind : QKind) (w : CmdWord) : QEntry := timed s c (newEntry (getCore s c).seq (getCore s c).eng kind w) 0

theorem getCore_startSeq_onward {kind : QKind} {w : CmdWord} (h : IdleQueues s c) :
    getCore (onward (startSeq s c kind w 0) c) c = startedAlone (getCore s c) (narrowEntry s c kind w) := by
  have hsq : (getCore s c).seq.seqQ = [] := h .sq
  simp [onward, startSeq, startedAlone, narrowEntry, hsq]

theorem popEnded_one {k : QSel} {q : QEntry} (h : endedHead s c k t = some q) : popEnded k t c 1 s = completeEntry s c k q := by
  rw [popEnded, h]; rfl

theorem phase_of_mayIssue {w : CmdWord} (h : mayIssue s c w = true) : (getCore s c).seq.phase = .running := by
  simp only [mayIssue, Bool.and_eq_true, decide_eq_true_eq] at h
  exact h.1.1.1.2

theorem phase_of_issues {row : CmdRow} {w : CmdWord} {e : IssueEnv} {u : State} (hu : atIssue s c e = u) (h : Issues row c w e s) :
    (getCore u c).seq.phase = .running := by
  rw [← hu, atIssue]
  simpa using phase_of_mayIssue h.may

theorem noDwait_of_running (h : (getCore s c).seq.phase = .running) : NoDwait s c := fun d tag hp => by simp [h] at hp

/-- The first cycle of a command that the sequencer has started alone, and that is its last. -/
theorem endCycle_of_startedAlone {x : CoreSt} {e : QEntry} {a : Access} (hs : getCore s c = startedAlone x e)
    (hempty : NoQueued s c) (hphase : x.seq.phase = .running) (hacc : seqAccess e x.seq.cycle = [a]) (hk : a.k = .sq) (hn : a.n = e.n)
    (hstarted : e.started = true) (hend : e.endAt = some x.seq.cycle) :
    ∃ v, getCore v c = accessed (startedAlone x e) e a (delivers s c a false) (writeCells s c a (a.data.getD [])) ∧
      endCycle run s c = modSeq (completeEntry v c .sq (if a.data = none then putCap e a.key (delivers s c a false) else e)) c
        fun q => { q with cycle := q.cycle + 1 } := by
  have hclock : clockOf s c = x.seq.cycle := by rw [clockOf, hs]; rfl
  have hseq : (getCore s c).seq.seqQ = [e] := by rw [hs]; rfl
  have hdecision := startDecision_of_noDwait (noDwait_of_running (show (getCore s c).seq.phase = .running by rw [hs]; exact hphase))
  have hrest : atRest (getCore s c).seq = false := by simp [atRest, hseq]
  obtain ⟨u, hu⟩ : ∃ u, (correctedRows (getCore s c).spTask run (clockOf s c) [a]).foldl (correctRow c) s = u := ⟨_, rfl⟩
  have huc : getCore u c = getCore s c := by rw [← hu, getCore_correctRows]
  have hpresent : present run s c ((getCore s c).seq.seqQ.flatMap fun e => seqAccess e (clockOf s c)) = perform c u (a, none) := by
    rw [hseq, hclock, List.flatMap_cons, hacc, List.flatMap_nil, List.append_nil, present_singleton, hu]
  have hv : getCore (perform c u (a, none)) c =
      accessed (startedAlone x e) e a (delivers s c a false) (writeCells s c a (a.data.getD [])) := by
    rw [getCore_perform_alone (huc ▸ hseq) hk hn, huc, hs]
    simp only [delivers, zerosOf, writeCells, huc]
  obtain ⟨hqueues, hq⟩ := accessed_queues (startedAlone x e) e a (delivers s c a false) (writeCells s c a (a.data.getD [])) rfl
  have hnv : NoQueued (perform c u (a, none)) c := fun k hk => by rw [hv, hqueues k hk, ← hs]; exact hempty k hk
  have hhead : endedHead (setCore (perform c u (a, none)) c (getCore (perform c u (a, none)) c)) c .sq (clockOf s c) =
      some (if a.data = none then putCap e a.key (delivers s c a false) else e) := by
    simp only [endedHead, getCore_setCore, getQ, hv, hq, List.head?_cons, hclock]
    split <;> simp [putCap, hend, hstarted, Option.filter]
  refine ⟨setCore (perform c u (a, none)) c (getCore (perform c u (a, none)) c), by rw [getCore_setCore, hv], ?_⟩
  rw [endCycle, hrest]
  simp only [Bool.false_eq_true, if_false]
  rw [workCycle_of_noQueued hempty hdecision hempty hpresent hnv, hv, hq, List.length_singleton, ← hv, popEnded_one hhead]

theorem noQueued_of_startedAlone {x : CoreSt} {e : QEntry} (hx : ∀ k, getQ x.seq k = []) (hs : getCore s c = startedAlone x e) : NoQueued s c := by
  intro k hk
  rw [hs, ← hx k]
  cases k
  case sq => exact absurd rfl hk
  all_goals rfl

section
variable {w : CmdWord} {x : CoreSt} (hx : getCore s c = x) (hidle : IdleQueues s c) (hphase : x.seq.phase = .running)
include hx hidle hphase

/-- LD alone: its register may be read 4 cycles after the read is presented (R78). -/
theorem endCycle_of_ld :
    getCore (endCycle run (onward (startSeq s c .ld w 0) c) c) c = { x with seq := { x.seq with
      issued := x.seq.issued + 1, seqQ := [], pc := x.seq.pc + 1, cycle := x.seq.cycle + 1
      ldPend := x.seq.ldPend ++
        [(x.seq.cycle + 4, BitVec.ofNat 5 (wfld w 36 32), BitVec.ofNat 64 (leNat (spRead x [] (idxVal x.seq.sregs w 64) 8)))] } } := by
  obtain ⟨e, he⟩ : ∃ e, narrowEntry s c .ld w = e := ⟨_, rfl⟩
  have hs := getCore_startSeq_onward (kind := .ld) (w := w) hidle
  rw [hx, he] at hs
  have hread : seqAccess e x.seq.cycle = [reads e 7 0 [(idxVal x.seq.sregs w 64, 8)]] := by
    subst hx he; simp [seqAccess, narrowEntry, timed, begun, newEntry, clockOf, narrowAt]
  obtain ⟨hkind, hstarted, hend, hstart, hzero, hw⟩ : e.kind = .ld ∧ e.started = true ∧ e.endAt = some x.seq.cycle ∧ e.startAt = x.seq.cycle ∧
      e.zeros = [] ∧ e.w = w := by subst hx he; exact ⟨rfl, rfl, rfl, rfl, rfl, rfl⟩
  obtain ⟨v, hv, hend⟩ := endCycle_of_startedAlone (run := run) hs (noQueued_of_startedAlone (hx ▸ hidle) hs) hphase hread
    (by simp [reads, hkind, queueOf]) rfl hstarted hend
  have hbytes := delivers_alone (s := onward (startSeq s c .ld w 0) c) (c := c) (e := e) (a := reads e 7 0 [(idxVal x.seq.sregs w 64, 8)])
    (by rw [hs]; rfl) (by simp [reads, hkind, queueOf]) rfl hzero rfl
  rw [hs, spRead_congr (x := x) (y := startedAlone x e) rfl rfl] at hbytes
  rw [hend, hbytes]
  rw [hbytes] at hv
  simp [completeEntry, endEntry, endSeq, endLd, dropEntry, getQ, setQ, hv, accessed, startedAlone, putCap, capOf, reads, hkind, hstart, hw]

/-- ST alone: its bytes are in the banks 4 cycles after the write is presented (R104). -/
theorem endCycle_of_st {p : Nat} (hin : idxVal x.seq.sregs w 64 + 8 ≤ workTop x.spTask) (hp : xlat x.spTask (idxVal x.seq.sregs w 64) = some p) :
    getCore (endCycle run (onward (startSeq s c .st w 0) c) c) c = { x with seq := { x.seq with
      issued := x.seq.issued + 1, seqQ := [], pc := x.seq.pc + 1, cycle := x.seq.cycle + 1
      landing := x.seq.landing ++
        [(x.seq.cycle + 4, (leBytes 8 (sOf s c (wfld w 36 32)).toNat).zipIdx.map fun b => (p + b.2, b.1))] } } := by
  obtain ⟨e, he⟩ : ∃ e, narrowEntry s c .st w = e := ⟨_, rfl⟩
  obtain ⟨b, hb⟩ : ∃ b, leBytes 8 (sOf s c (wfld w 36 32)).toNat = b := ⟨_, rfl⟩
  have hs := getCore_startSeq_onward (kind := .st) (w := w) hidle
  rw [hx, he] at hs
  have hwrite : seqAccess e x.seq.cycle = [writes e 7 (idxVal x.seq.sregs w 64) b] := by
    subst hx he hb; simp [seqAccess, narrowEntry, timed, begun, newEntry, clockOf, narrowAt, sOf, sreg]
  obtain ⟨hkind, hstarted, hend⟩ : e.kind = .st ∧ e.started = true ∧ e.endAt = some x.seq.cycle := by subst hx he; exact ⟨rfl, rfl, rfl⟩
  obtain ⟨v, hv, hend⟩ := endCycle_of_startedAlone (run := run) hs (noQueued_of_startedAlone (hx ▸ hidle) hs) hphase hwrite
    (by simp [writes, hkind, queueOf]) rfl hstarted hend
  have hlen : b.length = 8 := by rw [← hb, length_leBytes]
  have hcells := writeCells_of_work (s := onward (startSeq s c .st w 0) c) (c := c) (a := writes e 7 (idxVal x.seq.sregs w 64) b) (b := b) (p := p)
    rfl (by rw [hs, hlen]; exact hin) (by rw [hs]; exact hp)
  have hne : (b.zipIdx.map fun y => (p + y.2, y.1)).isEmpty = false := by cases b <;> simp_all
  rw [show (writes e 7 (idxVal x.seq.sregs w 64) b).data.getD [] = b from rfl, hcells] at hv
  rw [hend, hb]
  simp only [accessed, writes, hne] at hv
  simp [completeEntry, endEntry, dropEntry, getQ, setQ, hv, startedAlone, writes, hkind]

end

theorem exec_ctrlLd {w : CmdWord} {e : IssueEnv} : exec (.ctrlLd c w e) s = issueCore .ld c w e s (narrowBody false c w) := rfl
theorem exec_ctrlSt {w : CmdWord} {e : IssueEnv} : exec (.ctrlSt c w e) s = issueCore .st c w e s (narrowBody true c w) := rfl

/-- Settles O9: the checks at issue, and the one cycle in which the access is presented and the command completes. -/
theorem ldAndStComplete : Obligations.LdAndStComplete := by
  intro c w e s t x a ok hn
  have ht : atIssue s c e = t := rfl
  have hx : getCore t c = x := rfl
  clear_value x
  clear_value t
  have hld (h : ok false) : narrowBody false c w t = onward (startSeq t c .ld w 0) c := narrowBody_of_ok hn (hx ▸ h.1) (hx ▸ h.2)
  have hst (h : ok true) : narrowBody true c w t = onward (startSeq t c .st w 0) c := narrowBody_of_ok hn (hx ▸ h.1) (hx ▸ h.2)
  have hidleAfter (hidle : IdleQueues t c) (u : State) (f : Seq → Seq) (hu : getCore u c = { x with seq := f x.seq })
      (hf : ∀ k, getQ (f x.seq) k = if k = .sq then [] else getQ x.seq k) : IdleQueues u c ∧ (getCore u c).eng = x.eng := by
    refine ⟨fun k => ?_, by rw [hu]⟩
    rw [hu]
    refine (hf k).trans ?_
    split
    · rfl
    · exact hx ▸ hidle k
  have hmis (write : Bool) (h : a % 8 ≠ 0) : narrowBody write c w t = raiseTask t c cALIGN (pcOf t c) := narrowBody_of_misaligned (hx ▸ h)
  refine ⟨fun h => ⟨fun hin => ?_, fun hin hidle => ?_, fun hbad => ?_⟩, fun h => ⟨fun hin => ?_, fun p hin hidle hp => ?_, fun hbad => ?_⟩⟩
  · exact outcome_of_issues ht exec_ctrlLd h (hld hin)
  · have hend := endCycle_of_ld (run := e.run) (w := w) hx hidle (hx ▸ phase_of_issues ht h)
    obtain ⟨hqueues, heng⟩ := hidleAfter hidle _ (fun _ => _) hend fun k => by cases k <;> rfl
    exact ⟨_, outcome_of_issues ht exec_ctrlLd h (hld hin), hqueues, heng, congrArg (·.seq.ldPend) hend⟩
  · exact outcome_of_issues ht exec_ctrlLd h (hmis false hbad)
  · exact outcome_of_issues ht exec_ctrlSt h (hst hin)
  · have hwork : a + 8 ≤ workTop x.spTask := le_workTop_of_write (by omega) hin.2
    have hend := endCycle_of_st (run := e.run) (w := w) hx hidle (hx ▸ phase_of_issues ht h) hwork hp
    obtain ⟨hqueues, heng⟩ := hidleAfter hidle _ (fun _ => _) hend fun k => by cases k <;> rfl
    exact ⟨_, outcome_of_issues ht exec_ctrlSt h (hst hin), hqueues, heng, congrArg (·.seq.landing) hend⟩
  · exact outcome_of_issues ht exec_ctrlSt h (hmis true hbad)

end Sys2Proof.Machine
end

section
/-! PROOFS. RDSYS and DWAIT: the values of Table 4-5, and a decision collected in the cycle of its DWAIT (R85). -/

namespace Sys2Proof.Machine
open Sys2Proof

variable {s : State} {c : CoreId} {run : RunEnv}

/-! ### RDSYS (Table 4-5) -/

theorem length_partCourses_le (x : Part) : (partCourses x).length ≤ 32 := by
  exact Nat.le_trans (List.length_filter_le _ _) (by simp)

theorem length_partCores_le (x : Part) : (partCores x).length ≤ 128 := by
  have h : (partCores x).length = (partCourses x).length * 4 := length_flatMap_const (fun _ _ => rfl)
  have := length_partCourses_le x
  omega

theorem coreIndex_lt (x : Part) (c : CoreId) : coreIndex x c < 2 ^ 64 := by
  have h : coreIndex x c ≤ (partCores x).length := (List.takeWhile_sublist _).length_le
  have := length_partCores_le x
  omega

theorem toNat_ofNat_of_lt {n k : Nat} (h : k < 2 ^ n) : (BitVec.ofNat n k).toNat = k := by rw [BitVec.toNat_ofNat, Nat.mod_eq_of_lt h]

theorem exec_ctrlRdsys {w : CmdWord} {e : IssueEnv} :
    exec (.ctrlRdsys c w e) s = issueCore .rdsys c w e s fun t => setAdvance t c (wfld w 36 32) (sysValue t c (wfld w 67 64)) := rfl

theorem exec_ctrlDwait {w : CmdWord} {e : IssueEnv} :
    exec (.ctrlDwait c w e) s = issueCore .dwait c w e s (dwaitBody c (BitVec.ofNat 5 (wfld w 36 32)) (BitVec.ofNat 16 (wfld w 77 62))) := rfl

section
variable {p : PartId} (hp : partOfCore s c = some p)
include hp

theorem taskOfCore_of_part : taskOfCore s c = (getPart s p).task := by rw [taskOfCore, hp]; rfl

theorem sysValue_index : (sysValue s c 0).toNat = coreIndex (getPart s p) c := by
  simp only [sysValue, hp]
  exact toNat_ofNat_of_lt (coreIndex_lt _ _)

theorem sysValue_courses : (sysValue s c 1).toNat = (partCourses (getPart s p)).length := by
  simp only [sysValue, hp]
  exact toNat_ofNat_of_lt (by have := length_partCourses_le (getPart s p); omega)

theorem sysValue_time : sysValue s c 4 = s.time := by simp only [sysValue, hp]
theorem sysValue_device : (sysValue s c 5).toNat = s.fuses.devid.toNat := by
  simp only [sysValue, hp, BitVec.toNat_setWidth]
  exact Nat.mod_eq_of_lt (by have := s.fuses.devid.isLt; omega)
theorem sysValue_core : (sysValue s c 7).toNat = c.toNat := by
  simp only [sysValue, hp, BitVec.toNat_setWidth]
  exact Nat.mod_eq_of_lt (by have := c.isLt; omega)

theorem sysValue_capo {k : Task} (hk : (getPart s p).task = some k) : (sysValue s c 6).toNat = k.lastCapo.toNat := by
  simp only [sysValue, hp, taskOfCore_of_part hp, hk, BitVec.toNat_setWidth]
  exact Nat.mod_eq_of_lt (by have := k.lastCapo.isLt; omega)

theorem sysValue_noBundle {k : Task} {sel : Nat} (hk : (getPart s p).task = some k) (hb : k.bundle = none) (hsel : sel = 2 ∨ sel = 3) :
    sysValue s c sel = 0 := by
  rcases hsel with rfl | rfl <;> simp [sysValue, hp, membersOf, taskOfCore_of_part hp, hk, hb]

theorem sysValue_bundle {k : Task} {b : Bundle} (hk : (getPart s p).task = some k) (hb : k.bundle = some b) :
    sysValue s c 2 = BitVec.ofNat 64 b.members.length ∧ sysValue s c 3 = BitVec.ofNat 64 b.recAddr := by
  simp [sysValue, hp, membersOf, taskOfCore_of_part hp, hk, hb]

end

/-! ### DWAIT -/

theorem dwaitBody_of_ask {d : BitVec 5} {tag : BitVec 16} (h : ∃ a ∈ (getCore s c).seq.asks, a.tag = tag) :
    dwaitBody c d tag s = modSeq s c fun q => { q with phase := .dwait d tag } :=
  if_pos (by simpa using h)

theorem dwaitBody_of_none {d : BitVec 5} {tag : BitVec 16} (h : ∀ a ∈ (getCore s c).seq.asks, a.tag ≠ tag) :
    dwaitBody c d tag s = raiseTask s c cTAG (pcOf s c) :=
  if_neg (by simpa using h)

/-- The first 8 bytes of a decision that has so many. -/
theorem decisionWord_of_long {free : Nat} {b : List Byte} (h : 8 ≤ b.length) : decisionWord free b = BitVec.ofNat 64 (leNat (b.take 8)) := by
  refine congrArg (fun l => BitVec.ofNat 64 (leNat l)) (List.ext_getElem (by simp; omega) fun i hi _ => ?_)
  have hlt : i < b.length := by simp at hi; omega
  simp [hlt]

/-- The entry that copies a decision of `b` to `dst`. -/
def copyEntry (x : CoreSt) (dst : Nat) (b : List Byte) : QEntry :=
  { newEntry x.seq x.eng .decisionCopy 0 with
    started := true, startAt := x.seq.cycle, endAt := some (x.seq.cycle + (max 1 (cdiv b.length 512) - 1)), cap := [(dst, b)] }

/-- The sequencer once its DWAIT has started the copy. -/
def collected (x : CoreSt) (d : BitVec 5) (a : AskRec) (b : List Byte) (v : W64) : Seq :=
  { setSreg { x.seq with
      phase := .running, asks := x.seq.asks.filter (fun k => decide (k.tag ≠ a.tag)), issued := x.seq.issued + 1
      seqQ := x.seq.seqQ ++ [copyEntry x a.dst.toNat b] } d.toNat v with
    next := x.seq.cycle + (max 1 (cdiv b.length 512) + 3), pc := x.seq.pc + 1 }

@[simp] theorem setSreg_cycle (q : Seq) (k : Nat) (v : W64) : (setSreg q k v).cycle = q.cycle := by
  by_cases hk : k = 0 <;> simp [setSreg, hk]

theorem getCore_startDecision {x : CoreSt} {d : BitVec 5} {a : AskRec} {b : List Byte} (hx : getCore s c = x) (hn : HasNext s c)
    (hready : readyDecision x.seq = some (d, a, b)) (hr : rangeErr x.spTask ⟨true, a.dst.toNat, b.length⟩ = none) :
    getCore (startDecision s c) c = { x with seq := collected x d a b (decisionWord s.free b) } := by
  have hn' : x.seq.pc.toNat + 1 < x.seq.cmdMem.length := by rw [← hx]; exact hn
  have hfree : getCore { s with free := s.free + (8 - b.length) } c = x := hx
  simp only [startDecision, hx, hready, hr, advanceIn]
  generalize ({ s with free := s.free + (8 - b.length) } : State) = u at *
  rw [advance_of_hasNext (by simpa [HasNext, hfree] using hn')]
  simp [onward, collected, copyEntry, timed, begun, clockOf, hfree]

theorem collected_fields (x : CoreSt) (d : BitVec 5) (a : AskRec) (b : List Byte) (v : W64) :
    (∀ k, k ≠ QSel.sq → getQ (collected x d a b v) k = getQ x.seq k) ∧ (collected x d a b v).seqQ = x.seq.seqQ ++ [copyEntry x a.dst.toNat b] ∧
      (collected x d a b v).landing = x.seq.landing ∧ (collected x d a b v).cycle = x.seq.cycle := by
  refine ⟨fun k hk => ?_, ?_, ?_, ?_⟩
  · cases k
    case sq => exact absurd rfl hk
    all_goals by_cases hd : d.toNat = 0 <;> simp [collected, setSreg, getQ, hd]
  all_goals by_cases hd : d.toNat = 0 <;> simp [collected, setSreg, hd]

/-- The copy's write of its first cycle. -/
theorem decisionAccess_zero (x : CoreSt) (dst : Nat) (b : List Byte) : seqAccess (copyEntry x dst b) x.seq.cycle =
    if b = [] then [] else [writes (copyEntry x dst b) 1 dst (b.take 512)] := by
  cases b <;> simp [seqAccess, copyEntry, newEntry, decisionAccess]

/-- A decision copy leaves nothing but its place in the queue when it ends. -/
theorem popEnded_copy {t : Nat} {x : CoreSt} {dst : Nat} {b : List Byte} {y : CoreSt} (hy : getCore s c = y) (hq : y.seq.seqQ = [copyEntry x dst b]) :
    ∃ Q, getCore (popEnded .sq t c 1 s) c = { y with seq := { y.seq with seqQ := Q } } := by
  cases hhead : endedHead s c .sq t with
  | none => exact ⟨[copyEntry x dst b], by rw [popEnded, hhead, ← hq]; exact hy⟩
  | some e =>
    have he : e = copyEntry x dst b := by
      simp only [endedHead, hy, getQ, hq, List.head?_cons, Option.filter_eq_some_iff, Option.some.injEq] at hhead
      exact hhead.1.symm
    exact ⟨[], by rw [popEnded_one hhead, he]; simp [completeEntry, endEntry, copyEntry, newEntry, dropEntry, getQ, setQ, hy, hq]⟩

/-- The write of a cycle to the banks, as it is on its way. -/
def landed (x : CoreSt) (dst : Nat) (b : List Byte) : List (Nat × Byte) :=
  (b.take 512).zipIdx.filterMap fun y => (xlat x.spTask (dst + y.2)).map fun p => (p, y.1)

theorem landed_ne_nil {x : CoreSt} {dst : Nat} {b : List Byte} (hb : b ≠ []) (hr : rangeErr x.spTask ⟨true, dst, b.length⟩ = none) :
    (landed x dst b).isEmpty = false := by
  cases b with
  | nil => exact absurd rfl hb
  | cons v r =>
    have hwork := le_workTop_of_write (Nat.succ_pos _) hr
    have hx := xlat_of_lt (r := x.spTask) (t := dst) (by omega)
    simp [landed, List.zipIdx_cons, hx]

/-- The cycle in which a DWAIT finds its decision. -/
theorem endCycle_of_dwait {x : CoreSt} {d : BitVec 5} {a : AskRec} {b : List Byte} (hx : getCore s c = x) (hn : HasNext s c)
    (hidle : IdleQueues s c) (hready : readyDecision x.seq = some (d, a, b)) (hr : rangeErr x.spTask ⟨true, a.dst.toNat, b.length⟩ = none) :
    ∃ L Q, getCore (endCycle run s c) c = { x with seq := { collected x d a b (decisionWord s.free b) with
        landing := L, seqQ := Q, cycle := x.seq.cycle + 1 } } ∧
      (b ≠ [] → L = x.seq.landing ++ [(x.seq.cycle + 4, landed x a.dst.toNat b)]) := by
  have hsq : x.seq.seqQ = [] := hx ▸ hidle .sq
  obtain ⟨u, hu⟩ : ∃ u, startDecision s c = u := ⟨_, rfl⟩
  obtain ⟨v, hv⟩ : ∃ v, decisionWord s.free b = v := ⟨_, rfl⟩
  have huc := getCore_startDecision hx hn hready hr
  rw [hu, hv] at huc
  obtain ⟨hqueues, hq, hlanding, hcycle⟩ := collected_fields x d a b v
  rw [hsq, List.nil_append] at hq
  have hnone : NoQueued s c := fun k _ => hidle k
  have hnu : NoQueued u c := fun k hk => by rw [huc]; exact (hqueues k hk).trans (hx ▸ hidle k)
  have hrest : atRest (getCore s c).seq = false := by simp [atRest, hx, hready]
  obtain ⟨w, L, hw, hwc, hL⟩ : ∃ w L, present run u c ((getCore u c).seq.seqQ.flatMap fun e => seqAccess e (clockOf s c)) = w ∧
      getCore w c = { x with seq := { collected x d a b v with landing := L } } ∧
      (b ≠ [] → L = x.seq.landing ++ [(x.seq.cycle + 4, landed x a.dst.toNat b)]) := by
    rw [huc, hq, List.flatMap_cons, List.flatMap_nil, List.append_nil, clockOf, hx, decisionAccess_zero]
    by_cases hb : b = []
    · exact ⟨u, x.seq.landing, by rw [if_pos hb, present_nil], by rw [huc, ← hlanding], fun h => absurd hb h⟩
    · rw [if_neg hb, present_singleton]
      obtain ⟨u', hu'⟩ : ∃ u', (correctedRows (getCore u c).spTask run (clockOf u c)
        [writes (copyEntry x a.dst.toNat b) 1 a.dst.toNat (b.take 512)]).foldl (correctRow c) u = u' := ⟨_, rfl⟩
      have hu'c : getCore u' c = { x with seq := collected x d a b v } := by rw [← hu', getCore_correctRows, huc]
      have hcells := writeCells_of_piece (s := u') (c := c) (a := writes (copyEntry x a.dst.toNat b) 1 a.dst.toNat (b.take 512))
        (addr := a.dst.toNat) (b := b.take 512) rfl
      rw [hu'c] at hcells
      have hdone := getCore_perform_alone (s := u') (c := c) (e := copyEntry x a.dst.toNat b)
        (a := writes (copyEntry x a.dst.toNat b) 1 a.dst.toNat (b.take 512)) (by rw [hu'c]; exact hq) rfl rfl
      refine ⟨_, _, rfl, ?_, fun _ => rfl⟩
      rw [hu', hdone, hu'c, show (writes (copyEntry x a.dst.toNat b) 1 a.dst.toNat (b.take 512)).data.getD [] = b.take 512 from rfl, hcells]
      simp only [accessed, writes]
      rw [if_neg (by rw [← landed, landed_ne_nil hb hr]; decide), hlanding, hcycle]
      rfl
  have hnw : NoQueued w c := fun k hk => by
    refine Eq.trans ?_ ((hqueues k hk).trans (hx ▸ hidle k))
    rw [hwc]
    cases k <;> rfl
  have hwq : (getCore w c).seq.seqQ = [copyEntry x a.dst.toNat b] := by rw [hwc]; exact hq
  obtain ⟨Q, hQ⟩ := popEnded_copy (s := setCore w c (getCore w c)) (c := c) (t := clockOf s c) (getCore_setCore ..) hwq
  refine ⟨L, Q, ?_, hL⟩
  rw [endCycle, hrest]
  simp only [Bool.false_eq_true, if_false]
  rw [workCycle_of_noQueued hnone hu hnu hw hnw, hwq, List.length_singleton, modSeq_eq, modCore_eq, getCore_setCore, hQ, hwc, hv]
  simp only [hcycle]

@[simp] theorem collected_phase (x : CoreSt) (d : BitVec 5) (a : AskRec) (b : List Byte) (v : W64) : (collected x d a b v).phase = .running := by
  by_cases hd : d.toNat = 0 <;> simp [collected, setSreg, hd]
@[simp] theorem collected_asks (x : CoreSt) (d : BitVec 5) (a : AskRec) (b : List Byte) (v : W64) :
    (collected x d a b v).asks = x.seq.asks.filter fun k => decide (k.tag ≠ a.tag) := by
  by_cases hd : d.toNat = 0 <;> simp [collected, setSreg, hd]
theorem collected_sregs {x : CoreSt} {d : BitVec 5} {a : AskRec} {b : List Byte} {v : W64} (hd : d.toNat ≠ 0) :
    (collected x d a b v).sregs = tput 0 x.seq.sregs d.toNat v := by simp [collected, setSreg, hd]

/-- Settles O10: each selector's value is Table 4-5's; a DWAIT whose decision is there collects it in its own cycle. -/
theorem rdsysAndDwaitComplete : Obligations.RdsysAndDwaitComplete := by
  refine ⟨?rdsys, ?dwait⟩
  case rdsys =>
    intro c w e s p t sel hn h hp
    have ht : atIssue s c e = t := rfl
    clear_value t
    refine ⟨sysValue t c sel, outcome_of_issues ht exec_ctrlRdsys h (setAdvance_of_hasNext _ _ hn), ?_, ?_, ?_, ?_, ?_, ?_, ?_, ?_⟩
    · exact fun hs => by rw [hs]; exact sysValue_index hp
    · exact fun hs => by rw [hs]; exact sysValue_courses hp
    · exact fun hs => by rw [hs]; exact sysValue_time hp
    · exact fun hs => by rw [hs]; exact sysValue_device hp
    · exact fun hs => by rw [hs]; exact sysValue_core hp
    · exact fun k hk hs => by rw [hs]; exact sysValue_capo hp hk
    · exact fun k hk hb hs => sysValue_noBundle hp hk hb hs
    · exact fun k b hk hb => ⟨fun hs => by rw [hs]; exact (sysValue_bundle hp hk hb).1, fun hs => by rw [hs]; exact (sysValue_bundle hp hk hb).2⟩
  case dwait =>
    intro c w e s h t x d tag
    have ht : atIssue s c e = t := rfl
    have hx : getCore t c = x := rfl
    clear_value x
    clear_value t
    refine ⟨fun hask => ?_, fun a b hn hidle hfind hdec hr => ?_, fun hnone => ?_⟩
    · exact outcome_of_issues ht exec_ctrlDwait h (dwaitBody_of_ask (hx ▸ hask))
    · obtain ⟨htag, hmem⟩ : a.tag = tag ∧ a ∈ x.seq.asks :=
        ⟨by simpa using List.find?_some hfind, List.mem_of_find?_eq_some hfind⟩
      obtain ⟨v, hv⟩ : ∃ v, modSeq t c (fun q => { q with phase := .dwait (BitVec.ofNat 5 d) tag }) = v := ⟨_, rfl⟩
      have hvc : getCore v c = { x with seq := { x.seq with phase := .dwait (BitVec.ofNat 5 d) tag } } := by simp [← hv, hx]
      have hvn : HasNext v c := by rw [← hv]; simpa [HasNext] using hn
      have hvidle : IdleQueues v c := fun k => by
        rw [hvc]
        exact (by cases k <;> rfl : _ = getQ x.seq k).trans (hx ▸ hidle k)
      have hdma : x.seq.dmaQ = [] := hx ▸ hidle .dma
      have hready : readyDecision (getCore v c).seq = some (BitVec.ofNat 5 d, a, b) := by
        simp [hvc, readyDecision, hdma, hfind, hdec]
      have hvr : rangeErr (getCore v c).spTask ⟨true, a.dst.toNat, b.length⟩ = none := by rw [hvc]; exact hr
      obtain ⟨L, Q, hend, hL⟩ := endCycle_of_dwait (run := e.run) rfl hvn hvidle hready hvr
      refine ⟨_, outcome_of_issues ht exec_ctrlDwait h ((dwaitBody_of_ask ⟨a, hx ▸ hmem, htag⟩).trans hv), ?_⟩
      rw [hend]
      refine ⟨collected_phase .., ?_, ?_, ?_, fun hlen hd => ?_, fun hb => ?_⟩
      · rw [hvc]; rfl
      · exact (collected_asks ..).trans (by rw [hvc, htag])
      · rw [hvc]; rfl
      · have hdn : (BitVec.ofNat 5 d).toNat = d := toNat_ofNat_of_lt (wfld_lt _ _ _)
        have hd' : (BitVec.ofNat 5 d).toNat ≠ 0 := by rwa [hdn]
        rw [sOf, hend, sreg, sregT, if_neg hd, collected_sregs hd', hdn, decisionWord_of_long hlen]
        exact tget_tput_self
      · rw [hvc] at hL
        exact hL hb
    · exact outcome_of_issues ht exec_ctrlDwait h ((dwaitBody_of_none (hx ▸ hnone)))

end Sys2Proof.Machine
end

section
/-! PROOFS. CAPO and END: a core that waits for the others, and the meet that the last core completes (R92 to R97). -/

namespace Sys2Proof.Machine
open Sys2Proof

variable {s : State} {c : CoreId} {p : PartId}

/-! ### The cores of a partition -/

theorem nodup_allCores : (((List.range 32).map (BitVec.ofNat 5)).flatMap courseCores).Nodup := by decide +kernel

theorem nodup_partCores (x : Part) : (partCores x).Nodup := nodup_allCores.sublist (sublist_flatMap _ List.filter_sublist)

theorem partHas_of_part {k : CourseId} (h : partOfCourse s k = some p) : partHas (getPart s p) k = true :=
  List.find?_some (p := fun p => partHas (getPart s p) k) h

/-- A core of a partition's course is one of the partition's cores. -/
theorem mem_partCores_of_part (h : partOfCore s c = some p) : c ∈ partCores (getPart s p) := by
  have hhas := partHas_of_part h
  simp only [partHas, Bool.and_eq_true] at hhas
  have hc := c.isLt
  have hcourse : (courseOf c).toNat = c.toNat / 4 := toNat_ofNat_of_lt (by omega)
  refine List.mem_flatMap.mpr ⟨courseOf c, List.mem_filter.mpr ⟨?_, hhas.2⟩, ?_⟩
  · exact List.mem_map.mpr ⟨c.toNat / 4, List.mem_range.mpr (by omega), rfl⟩
  · refine List.mem_map.mpr ⟨c.toNat % 4, List.mem_range.mpr (by omega), BitVec.eq_of_toNat_eq ?_⟩
    rw [hcourse, BitVec.toNat_ofNat, Nat.mod_eq_of_lt (by omega)]
    omega

/-! ### Arrival (R92) -/

theorem capoOf_of_phase {id : BitVec 16} {cm : Bool} {lk : BitVec 11} (h : (getCore s c).seq.phase = .atCapo id cm lk) :
    capoOf s c = some (id, cm, lk) := by simp only [capoOf, h]

theorem capoIssue_of_quiet {body : State → State} (hasks : (getCore s c).seq.asks = []) (hpair : onFailedPair s c = false) :
    capoIssue s c body = body s := by simp [capoIssue, hasks, hpair]

theorem capoMay_of_quiet (h : quietCore s c = true) : capoMay s c = true := by simp [capoMay, h]

/-- The core stands at the meet. -/
def standAt (s : State) (c : CoreId) (id : BitVec 16) (cm : Bool) (lk : BitVec 11) : State := modSeq s c fun q => { q with phase := .atCapo id cm lk }

theorem arriveCapo_of_missing {d : CoreId} {id : BitVec 16} {cm : Bool} {lk : BitVec 11} (hp : partOfCore s c = some p)
    (hd : d ∈ partCores (getPart s p)) (hne : d ≠ c) (hnone : capoOf s d = none) : arriveCapo c id cm lk s = standAt s c id cm lk := by
  have hpart : partOfCore (standAt s c id cm lk) c = some p := hp
  have hcapo : capoOf (standAt s c id cm lk) d = none := by
    rw [capoOf, standAt, modSeq_eq, modCore_eq, getCore_setCore_ne _ _ _ _ hne]
    exact hnone
  have hall : allAtCapo (standAt s c id cm lk) p = false := by
    rw [allAtCapo, List.all_eq_false]
    exact ⟨d, hd, by simp [hcapo]⟩
  rw [arriveCapo, ← standAt]
  simp only [hpart, hall, Bool.false_eq_true, if_false]

theorem arriveEnd_of_missing {d : CoreId} (hp : partOfCore s c = some p) (hd : d ∈ partCores (getPart s p)) (hne : d ≠ c)
    (hnot : (getCore s d).seq.phase ≠ .ended) : arriveEnd c s = modSeq s c fun q => { q with phase := .ended } := by
  obtain ⟨u, hu⟩ : ∃ u, (modSeq s c fun q => { q with phase := .ended }) = u := ⟨_, rfl⟩
  have hpart : partOfCore u c = some p := by rw [← hu]; exact hp
  have hget : getPart u p = getPart s p := by rw [← hu]; rfl
  have hall : ((partCores (getPart u p)).all fun d => decide ((getCore u d).seq.phase = .ended)) = false := by
    rw [List.all_eq_false]
    refine ⟨d, hget ▸ hd, ?_⟩
    rw [← hu, modSeq_eq, modCore_eq, getCore_setCore_ne _ _ _ _ hne]
    simpa using hnot
  simp only [arriveEnd, hu, hpart, hall, Bool.false_eq_true, if_false]

theorem outcome_of_capo {o : Host.Outcome State Fault Refusal} {row : CmdRow} {w : CmdWord} {e : IssueEnv} {body : State → State} {t u : State}
    (ht : atIssue s c e = t) (hrow : o = issueWhen (fun s => capoMay s c) row c w e s fun s => capoIssue s c body) (h : Issues row c w e s)
    (hasks : (getCore t c).seq.asks = []) (hpair : onFailedPair t c = false) (hquiet : quietCore t c = true) (hact : body t = u) :
    o = cycleFrom c e u := by
  rw [hrow, issueWhen_of_issues _ h (by rw [ht]; exact capoMay_of_quiet hquiet), ht, capoIssue_of_quiet hasks hpair, hact]

/-! ### The release -/

/-- One core is released from the CAPO (Table 4-9). -/
def releaseCore (cyc : Nat) (s : State) (c : CoreId) : State :=
  advance (modSeq s c fun q => { q with phase := .running, next := max q.next (cyc + 20) }) c

theorem releaseMeet_eq (s : State) (p : PartId) (cyc : Nat) : releaseMeet s p cyc = (partCores (getPart s p)).foldl (releaseCore cyc) s := rfl

theorem getCore_releaseCore {cyc : Nat} (hn : HasNext s c) : getCore (releaseCore cyc s c) c = { getCore s c with seq := { (getCore s c).seq with
    phase := .running, pc := (getCore s c).seq.pc + 1, next := max (getCore s c).seq.next (cyc + 20) } } := by
  rw [releaseCore, advance_of_hasNext (by simpa [HasNext] using hn)]
  simp [onward]

theorem getCore_raiseTask_ne {d : CoreId} (hd : d ≠ c) (x : BitVec 8) (pc : BitVec 13) : getCore (raiseTask s c x pc) d = getCore s d := by
  unfold raiseTask raiseTaskAt
  dsimp only
  split
  · simp [getCore_setCore_ne _ _ _ _ hd]
  · simp [modTask, getCore_setCore_ne _ _ _ _ hd]

theorem getCore_releaseCore_ne {cyc : Nat} {d : CoreId} (hd : d ≠ c) : getCore (releaseCore cyc s c) d = getCore s d := by
  unfold releaseCore advance
  dsimp only
  split
  · simp [getCore_setCore_ne _ _ _ _ hd]
  · rw [getCore_raiseTask_ne hd]; simp [getCore_setCore_ne _ _ _ _ hd]

theorem getCore_foldl_releaseCore {cyc : Nat} {l : List CoreId} (hc : c ∉ l) : getCore (l.foldl (releaseCore cyc) s) c = getCore s c := by
  induction l generalizing s with
  | nil => rfl
  | cons d l ih =>
    rw [List.mem_cons, not_or] at hc
    rw [List.foldl_cons, ih hc.2, getCore_releaseCore_ne hc.1]

theorem getCore_releaseAll {cyc : Nat} {l : List CoreId} (hl : l.Nodup) (hc : c ∈ l) (hn : HasNext s c) :
    getCore (l.foldl (releaseCore cyc) s) c = getCore (releaseCore cyc s c) c := by
  induction l generalizing s with
  | nil => cases hc
  | cons d l ih =>
    rw [List.nodup_cons] at hl
    rw [List.foldl_cons]
    by_cases hd : c = d
    · rw [hd] at hn ⊢
      exact getCore_foldl_releaseCore (hd ▸ hl.1)
    · have hcl : c ∈ l := (List.mem_cons.mp hc).resolve_left hd
      have hsame : getCore (releaseCore cyc s d) c = getCore s c := getCore_releaseCore_ne hd
      have hn' : HasNext (releaseCore cyc s d) c := by rwa [HasNext, hsame]
      rw [ih hl.2 hcl hn', getCore_releaseCore hn', getCore_releaseCore hn, hsame]

/-- What a task has come through at its last meet. -/
def Met (k : Task) (id : BitVec 16) (cm : Bool) (at_ : W64) : Prop := k.lastCapo = id ∧ k.committed = cm ∧ k.lastMeet = at_

/-- The partition's task has come through the meet. -/
def TaskMet (s : State) (p : PartId) (id : BitVec 16) (cm : Bool) (at_ : W64) : Prop := ∃ k, (getPart s p).task = some k ∧ Met k id cm at_

theorem taskMet_raiseTask {id : BitVec 16} {cm : Bool} {at_ : W64} (h : TaskMet s p id cm at_) (x : BitVec 8) (pc : BitVec 13) :
    TaskMet (raiseTask s c x pc) p id cm at_ := by
  unfold raiseTask raiseTaskAt
  dsimp only
  split
  · exact h
  case h_2 j _ =>
    obtain ⟨k, hk, hm⟩ := h
    by_cases hj : p = j
    · subst hj
      exact ⟨{ k with errors := k.errors ++ [⟨x, c, pc, none, 0⟩] }, by simp [modTask, hk], hm⟩
    · exact ⟨k, by simpa [modTask, getPart_setPart_ne _ _ _ _ hj] using hk, hm⟩

theorem taskMet_releaseCore {id : BitVec 16} {cm : Bool} {at_ : W64} {cyc : Nat} (h : TaskMet s p id cm at_) :
    TaskMet (releaseCore cyc s c) p id cm at_ := by
  unfold releaseCore advance
  dsimp only
  split
  · exact h
  · exact taskMet_raiseTask (s := modSeq s c _) h _ _

theorem taskMet_releaseAll {id : BitVec 16} {cm : Bool} {at_ : W64} {cyc : Nat} {l : List CoreId} (h : TaskMet s p id cm at_) :
    TaskMet (l.foldl (releaseCore cyc) s) p id cm at_ := by
  induction l generalizing s with
  | nil => exact h
  | cons d l ih => exact ih (taskMet_releaseCore h)

/-! ### The meet of the last core (R92 to R94) -/

theorem hostWr_frame (s : State) (f : Func) (a : Nat) (b : List Byte) : ∃ H, hostWr s f a b = { s with hostMem := H } := by
  unfold hostWr
  split
  · exact ⟨s.hostMem, rfl⟩
  · exact ⟨_, rfl⟩

/-- A trace record goes to host memory, and moves the partition's trace ring on. -/
theorem traceRec_frame (s : State) (p : PartId) (bit event : Nat) (job : JobNo) (detail : Nat) (n : W32) :
    ∃ H P, traceRec s p bit event job detail n = { s with hostMem := H, parts := P } ∧
      ∃ r, getPart (traceRec s p bit event job detail n) p = { getPart s p with trace := r } := by
  unfold traceRec
  split
  case h_1 => exact ⟨s.hostMem, s.parts, rfl, _, rfl⟩
  case h_2 t ht =>
    split
    · exact ⟨s.hostMem, s.parts, rfl, _, rfl⟩
    · obtain ⟨H, hH⟩ := hostWr_frame s t.f (t.addr.toNat + 32 * t.head) (leBytes 32 (event + (if t.phase then 2 ^ 8 else 0) + job.toNat * 2 ^ 16 +
        (detail % 2 ^ 32) * 2 ^ 32 + s.time.toNat * 2 ^ 64 + n.toNat * 2 ^ 128))
      dsimp only
      rw [hH]
      exact ⟨H, _, rfl, _, getPart_setPart ..⟩

/-- The partition and its task as the meet leaves them, before the cores are released. -/
def metState (s : State) (p : PartId) (k : Task) (id : BitVec 16) (cm : Bool) (live : Nat) : State :=
  traceRec (modJob (modTask s p fun t =>
    { t with lastMeet := s.time, lastCapo := id, liveKib := BitVec.ofNat 11 live, committed := t.committed || cm }) p k.job
    fun j => { j with hsRuns := 0 }) p 1 2 k.job id.toNat ((k.bundle.map (·.no)).getD 0)

theorem metState_fields {k : Task} {id : BitVec 16} {cm : Bool} {live : Nat} (hk : (getPart s p).task = some k) (hnot : k.committed = false) :
    (metState s p k id cm live).cores = s.cores ∧ TaskMet (metState s p k id cm live) p id cm s.time ∧
      partCores (getPart (metState s p k id cm live) p) = partCores (getPart s p) := by
  obtain ⟨u, hu⟩ : ∃ u, modJob (modTask s p fun t =>
    { t with lastMeet := s.time, lastCapo := id, liveKib := BitVec.ofNat 11 live, committed := t.committed || cm }) p k.job
    (fun j => { j with hsRuns := 0 }) = u := ⟨_, rfl⟩
  obtain ⟨H, P, hframe, r, hr⟩ := traceRec_frame u p 1 2 k.job id.toNat ((k.bundle.map (·.no)).getD 0)
  have hpart : getPart u p = { getPart s p with
      task := some { k with lastMeet := s.time, lastCapo := id, liveKib := BitVec.ofNat 11 live, committed := k.committed || cm }
      jobs := (getPart s p).jobs.map fun b => if b.num = k.job then { b with hsRuns := 0 } else b } := by
    rw [← hu]; simp [modJob, modTask, hk]
  rw [metState, hu]
  refine ⟨by rw [hframe, ← hu]; rfl, ⟨_, by rw [hr, hpart], rfl, by simp [hnot], rfl⟩, by rw [hr, hpart]; rfl⟩

section
variable {k : Task} {j : Job} {id : BitVec 16} {cm : Bool}

theorem completeMeet_of_all {lk : BitVec 11} (hk : (getPart s p).task = some k) (hj : findJob (getPart s p) k.job = some j)
    (hend : (getPart s p).endReq = none) (hsem : semsInitial s (getPart s p) j = true) (hnot : k.committed = false)
    (hmem : c ∈ partCores (getPart s p)) (hc : capoOf s c = some (id, cm, lk))
    (hall : ∀ d ∈ partCores (getPart s p), ∃ lk, capoOf s d = some (id, cm, lk)) :
    ∃ v, completeMeet s p c = releaseMeet v p (getCore v c).seq.cycle ∧ v.cores = s.cores ∧ TaskMet v p id cm s.time ∧
      partCores (getPart v p) = partCores (getPart s p) := by
  obtain ⟨l, hl⟩ : ∃ l, (partCores (getPart s p)).filterMap (capoOf s) = l := ⟨_, rfl⟩
  have hin : ∀ y ∈ l, y.1 = id ∧ y.2.1 = cm := by
    rw [← hl]
    intro y hy
    obtain ⟨d, hd, hdy⟩ := List.mem_filterMap.mp hy
    obtain ⟨lk, hlk⟩ := hall d hd
    rw [hlk, Option.some.injEq] at hdy
    exact ⟨by rw [← hdy], by rw [← hdy]⟩
  have hne : (id, cm, lk) ∈ l := hl ▸ List.mem_filterMap.mpr ⟨c, hmem, hc⟩
  have hids : (l.any fun y => decide (y.1 ≠ id)) = false := by
    rw [List.any_eq_false]
    exact fun y hy => by simp [(hin y hy).1]
  have hcommit : (l.all fun y => y.2.1) = cm := by
    cases cm
    · exact List.all_eq_false.mpr ⟨_, hne, by simp⟩
    · exact List.all_eq_true.mpr fun y hy => (hin y hy).2
  have hnone : ¬((l.any fun y => decide (y.1 ≠ id)) = true ∨ cm = true ∧ cm = true ∧ k.committed = true) := by
    rw [hids, hnot]; simp
  obtain ⟨hcores, hmet, hparts⟩ := metState_fields (s := s) (id := id) (cm := cm)
    (live := max lk.toNat ((l.map (·.2.2.toNat)).foldl max 0)) hk hnot
  refine ⟨_, ?_, hcores, hmet, hparts⟩
  simp only [completeMeet, hk, hc, hl, hcommit, if_neg hnone, hj, hsem, Bool.not_true, Bool.false_eq_true, if_false, hend, Option.isSome_none,
    false_and, metState]

theorem settlePosts_of_none (h : ∀ m ∈ (getPart s p).semNet, m.post = false) :
    settlePosts s p = modPart s p fun x => { x with semNet := [] } := by
  have hnone : (getPart s p).semNet.filter (·.post) = [] := List.filter_eq_nil_iff.mpr fun m hm => by simp [h m hm]
  simp only [settlePosts, hnone, List.foldl_nil]

/-- The last core arrives at the CAPO that every other core of the partition stands at. -/
theorem arriveCapo_of_last {lk : BitVec 11} (hp : partOfCore s c = some p) (hk : (getPart s p).task = some k)
    (hj : findJob (getPart s p) k.job = some j) (hend : (getPart s p).endReq = none) (hsem : semsInitial s (getPart s p) j = true)
    (hnot : k.committed = false) (hnet : ∀ m ∈ (getPart s p).semNet, m.post = false)
    (hall : ∀ d ∈ partCores (getPart s p), d ≠ c → ∃ lk, (getCore s d).seq.phase = .atCapo id cm lk) :
    ∃ v, arriveCapo c id cm lk s = releaseMeet v p (getCore v c).seq.cycle ∧ v.cores = (standAt s c id cm lk).cores ∧
      TaskMet v p id cm s.time ∧ partCores (getPart v p) = partCores (getPart s p) := by
  obtain ⟨u, hu⟩ : ∃ u, (modPart (standAt s c id cm lk) p fun x => { x with semNet := [] }) = u := ⟨_, rfl⟩
  have hpart : getPart u p = { getPart s p with semNet := [] } := by rw [← hu]; simp [standAt]
  have hcore (d : CoreId) : getCore u d = getCore (standAt s c id cm lk) d := by rw [← hu]; rfl
  have hcapo (d : CoreId) (hd : d ∈ partCores (getPart s p)) : ∃ lk', capoOf (standAt s c id cm lk) d = some (id, cm, lk') := by
    by_cases hdc : d = c
    · exact ⟨lk, hdc ▸ capoOf_of_phase (by simp [standAt])⟩
    · obtain ⟨lk', h⟩ := hall d hd hdc
      exact ⟨lk', capoOf_of_phase (by rw [standAt, modSeq_eq, modCore_eq, getCore_setCore_ne _ _ _ _ hdc, h])⟩
  have hcapo' (d : CoreId) : capoOf u d = capoOf (standAt s c id cm lk) d := by rw [capoOf, capoOf, hcore]
  have hevery (t : State) (ht : partCores (getPart t p) = partCores (getPart s p)) (hct : ∀ d, capoOf t d = capoOf (standAt s c id cm lk) d) :
      allAtCapo t p = true := by
    rw [allAtCapo, List.all_eq_true, ht]
    intro d hd
    obtain ⟨lk', h⟩ := hcapo d hd
    rw [hct, h]; rfl
  have hfirst : allAtCapo (standAt s c id cm lk) p = true := hevery _ rfl fun _ => rfl
  have hsecond : allAtCapo u p = true := hevery u (by rw [hpart]; rfl) hcapo'
  have hmem : c ∈ partCores (getPart u p) := by rw [hpart]; exact mem_partCores_of_part hp
  obtain ⟨v, hmeet, hcores, hmet, hparts⟩ := completeMeet_of_all (s := u) (c := c) (p := p) (k := k) (j := j) (id := id) (cm := cm) (lk := lk)
    (by rw [hpart]; exact hk) (by rw [hpart]; exact hj) (by rw [hpart]; exact hend) (by rw [hpart, ← hu]; exact hsem) hnot hmem
    (by rw [hcapo']; exact capoOf_of_phase (by simp [standAt])) (fun d hd => by rw [hcapo']; exact hcapo d (by rw [hpart] at hd; exact hd))
  refine ⟨v, ?_, by rw [hcores, ← hu]; rfl, by rw [← hu] at hmet; exact hmet, by rw [hparts, hpart]; rfl⟩
  have hpost : settlePosts (standAt s c id cm lk) p = u := (settlePosts_of_none (s := standAt s c id cm lk) hnet).trans hu
  have hpc : partOfCore (standAt s c id cm lk) c = some p := hp
  rw [arriveCapo, ← standAt]
  simp only [hpc, hfirst, if_true, hpost, hsecond, hmeet]

end

theorem exec_ctrlCapo {w : CmdWord} {e : IssueEnv} : exec (.ctrlCapo c w e) s = issueWhen (fun s => capoMay s c) .capo c w e s fun s =>
    capoIssue s c (arriveCapo c (BitVec.ofNat 16 (wfld w 47 32)) (wbit w 48) (BitVec.ofNat 11 (wfld w 59 49))) := rfl
theorem exec_ctrlEnd {w : CmdWord} {e : IssueEnv} : exec (.ctrlEnd c w e) s = issueWhen (fun s => capoMay s c) .end_ c w e s fun s =>
    capoIssue s c (arriveEnd c) := rfl

theorem atIssue_next {e : IssueEnv} {t : State} (ht : atIssue s c e = t) : (getCore t c).seq.next = (getCore t c).seq.cycle + 1 := by
  rw [← ht, atIssue]
  simp

/-- Settles O11: a core that is not the last stands and nothing else happens; the last one's arrival is the meet, which releases every core once. -/
theorem meetsAndEndsComplete : Obligations.MeetsAndEndsComplete := by
  refine ⟨?waits, ?meets⟩
  case waits =>
    intro c w e s p d t hp hd hne hasks hpair hquiet
    have ht : atIssue s c e = t := rfl
    clear_value t
    refine ⟨fun h hnone => ?_, fun h hnot => ?_⟩
    · exact outcome_of_capo ht exec_ctrlCapo h hasks hpair hquiet (arriveCapo_of_missing hp hd hne hnone)
    · exact outcome_of_capo ht exec_ctrlEnd h hasks hpair hquiet (arriveEnd_of_missing hp hd hne hnot)
  case meets =>
    intro c w e s p k j t hp hk hj hend hasks hpair hquiet h hn hsem hnet hnot hall
    have ht : atIssue s c e = t := rfl
    clear_value t
    obtain ⟨v, hmeet, hcores, hmet, hparts⟩ := arriveCapo_of_last (lk := BitVec.ofNat 11 (wfld w 59 49)) hp hk hj hend hsem hnot hnet hall
    have hvc : getCore v c = { getCore t c with seq := { (getCore t c).seq with
        phase := .atCapo (BitVec.ofNat 16 (wfld w 47 32)) (wbit w 48) (BitVec.ofNat 11 (wfld w 59 49)) } } := by
      rw [getCore, hcores]
      exact (getCore_setCore _ c _)
    have hvn : HasNext v c := by rw [HasNext, hvc]; exact hn
    have hmem : c ∈ partCores (getPart v p) := by rw [hparts]; exact mem_partCores_of_part hp
    have hcore := (getCore_releaseAll (cyc := (getCore v c).seq.cycle) (nodup_partCores _) hmem hvn).trans (getCore_releaseCore hvn)
    obtain ⟨y, hy, hcapo, hcommit, hlast⟩ := taskMet_releaseAll (cyc := (getCore v c).seq.cycle) (l := partCores (getPart v p)) hmet
    rw [← releaseMeet_eq] at hcore hy
    refine ⟨_, y, outcome_of_capo ht exec_ctrlCapo h hasks hpair hquiet hmeet, hy, hcapo, hcommit, hlast, ?_⟩
    rw [hcore, hvc]
    refine ⟨rfl, rfl, ?_⟩
    have := atIssue_next ht
    simp only [this]
    omega

end Sys2Proof.Machine
end

section
/-! PROOFS. The frame of the commands of a core: what their acts leave alone, and what a core at rest leaves alone until the command issues. -/

namespace Sys2Proof.Machine
open Sys2Proof

variable {s t u : State} {c : CoreId}

/-! ### What the act of a command reaches -/

theorem sameElsewhere_refl (s : State) (c : CoreId) : SameElsewhere s s c := ⟨rfl, rfl, rfl, fun _ _ => rfl, rfl, rfl, rfl, rfl, rfl, rfl⟩

theorem sameElsewhere_trans (h : SameElsewhere s t c) (k : SameElsewhere t u c) : SameElsewhere s u c :=
  ⟨k.pending.trans h.pending, k.mem.trans h.mem, k.host.trans h.host, fun d hd => (k.cores d hd).trans (h.cores d hd),
    k.courses.trans h.courses, k.streams.trans h.streams, k.models.trans h.models, k.funcs.trans h.funcs, k.fuses.trans h.fuses, k.pw.trans h.pw⟩

/-- Only the core's sequencer and rings, and the partitions' records, are reached. -/
structure ActsOnCore (s t : State) (c : CoreId) : Prop where
  elsewhere : SameElsewhere s t c
  eng : (getCore t c).eng = { (getCore s c).eng with rings := (getCore t c).eng.rings }
  spTask : (getCore t c).spTask = (getCore s c).spTask
  stImage : (getCore t c).stImage = (getCore s c).stImage
  drone : (getCore t c).drone = (getCore s c).drone

theorem ActsOnCore.refl (s : State) (c : CoreId) : ActsOnCore s s c := ⟨sameElsewhere_refl s c, rfl, rfl, rfl, rfl⟩

theorem ActsOnCore.trans (h : ActsOnCore s t c) (k : ActsOnCore t u c) : ActsOnCore s u c :=
  ⟨sameElsewhere_trans h.elsewhere k.elsewhere, by rw [k.eng, h.eng], k.spTask.trans h.spTask, k.stImage.trans h.stImage, k.drone.trans h.drone⟩

theorem actsOnCore_modSeq (f : Seq → Seq) : ActsOnCore s (modSeq s c f) c :=
  ⟨sameElsewhere_setCore .., by simp, by simp, by simp, by simp⟩

theorem actsOnCore_setRing (k : Nat) (r : RingRec) : ActsOnCore s (setRing s c k r) c :=
  ⟨sameElsewhere_setCore .., by simp [setRing], by simp [setRing], by simp [setRing], by simp [setRing]⟩

theorem actsOnCore_modPart (p : PartId) (f : Part → Part) : ActsOnCore s (modPart s p f) c :=
  ⟨⟨rfl, rfl, rfl, fun _ _ => rfl, rfl, rfl, rfl, rfl, rfl, rfl⟩, rfl, rfl, rfl, rfl⟩

/-- A command that the sequencer carries out at its issue: no queue changes, and no DWAIT begins to wait. -/
structure ActsAtOnce (s t : State) (c : CoreId) : Prop where
  acts : ActsOnCore s t c
  queues : ∀ k, getQ (getCore t c).seq k = getQ (getCore s c).seq k
  noDwait : NoDwait s c → NoDwait t c

theorem ActsAtOnce.refl (s : State) (c : CoreId) : ActsAtOnce s s c := ⟨.refl s c, fun _ => rfl, id⟩

theorem ActsAtOnce.trans (h : ActsAtOnce s t c) (k : ActsAtOnce t u c) : ActsAtOnce s u c :=
  ⟨h.acts.trans k.acts, fun j => (k.queues j).trans (h.queues j), k.noDwait ∘ h.noDwait⟩

theorem actsAtOnce_modSeq {f : Seq → Seq} (hq : ∀ q k, getQ (f q) k = getQ q k)
    (hp : ∀ q, (f q).phase = q.phase ∨ ∀ d tag, (f q).phase ≠ .dwait d tag) : ActsAtOnce s (modSeq s c f) c := by
  refine ⟨actsOnCore_modSeq f, fun k => by simp [hq], fun hno => ?_⟩
  simp only [NoDwait, modSeq_eq, modCore_eq, getCore_setCore]
  rcases hp (getCore s c).seq with h | h
  · rw [h]; exact hno
  · exact h

theorem actsAtOnce_modPart (p : PartId) (f : Part → Part) : ActsAtOnce s (modPart s p f) c := ⟨actsOnCore_modPart p f, fun _ => rfl, id⟩

theorem actsAtOnce_setRing (k : Nat) (r : RingRec) : ActsAtOnce s (setRing s c k r) c :=
  ⟨actsOnCore_setRing k r, fun _ => by simp [setRing], fun h => by simpa [NoDwait, setRing] using h⟩

theorem actsAtOnce_setSreg (d : Nat) (v : W64) : ActsAtOnce s (modSeq s c fun q => setSreg q d v) c := by
  refine actsAtOnce_modSeq (fun q k => ?_) (fun q => .inl ?_)
  · by_cases hd : d = 0 <;> cases k <;> simp [setSreg, hd, getQ]
  · by_cases hd : d = 0 <;> simp [setSreg, hd]

theorem actsAtOnce_raiseTask (x : BitVec 8) (pc : BitVec 13) : ActsAtOnce s (raiseTask s c x pc) c := by
  have hstop : ActsAtOnce s (modSeq s c fun q => { q with phase := .stopped x pc }) c :=
    actsAtOnce_modSeq (fun _ k => by cases k <;> rfl) fun _ => .inr nofun
  unfold raiseTask raiseTaskAt
  dsimp only
  split
  · exact hstop
  · exact hstop.trans (actsAtOnce_modPart _ _)

theorem actsAtOnce_advance : ActsAtOnce s (advance s c) c := by
  unfold advance
  dsimp only
  split
  · exact actsAtOnce_modSeq (fun _ k => by cases k <;> rfl) fun _ => .inl rfl
  · exact actsAtOnce_raiseTask _ _

theorem actsAtOnce_setAdvance (d : Nat) (v : W64) : ActsAtOnce s (setAdvance s c d v) c := (actsAtOnce_setSreg d v).trans actsAtOnce_advance

theorem actsAtOnce_branch (yes : Bool) (target : Nat) : ActsAtOnce s (branch s c yes target) c := by
  unfold branch
  dsimp only
  split
  · exact actsAtOnce_raiseTask _ _
  · split
    · exact actsAtOnce_modSeq (fun _ k => by cases k <;> rfl) fun _ => .inl rfl
    · exact actsAtOnce_advance

theorem actsAtOnce_loopBody (k target : Nat) : ActsAtOnce s (loopBody c k target s) c := by
  unfold loopBody
  dsimp only
  split
  · exact actsAtOnce_branch _ _
  · exact (actsAtOnce_setSreg _ _).trans (actsAtOnce_branch _ _)

theorem actsAtOnce_sendSem (m : SemMsg) : ActsAtOnce s (sendSem s c m) c := by
  unfold sendSem
  split
  · exact .refl s c
  · exact actsAtOnce_modPart _ _

/-- The sequencer stands waiting in a phase that is no DWAIT's. -/
theorem actsAtOnce_phase {x : SeqPhase} (hx : ∀ d tag, x ≠ .dwait d tag) : ActsAtOnce s (modSeq s c fun q => { q with phase := x }) c :=
  actsAtOnce_modSeq (fun _ k => by cases k <;> rfl) fun _ => .inr hx

theorem actsAtOnce_withRing {w : CmdWord} {f : RingRec → State} (h : ∀ r, ActsAtOnce s (f r) c) : ActsAtOnce s (withRing c w s f) c := by
  unfold withRing
  dsimp only
  split
  · exact actsAtOnce_raiseTask _ _
  · exact h _

theorem actsAtOnce_ringSetBody {w : CmdWord} : ActsAtOnce s (ringSetBody c w s) c := by
  unfold ringSetBody
  dsimp only
  repeat' split
  · exact actsAtOnce_raiseTask _ _
  · exact actsAtOnce_raiseTask _ _
  · exact actsAtOnce_raiseTask _ _
  · exact (actsAtOnce_setRing _ _).trans actsAtOnce_advance

theorem actsAtOnce_ringPushBody {w : CmdWord} : ActsAtOnce s (ringPushBody c w s) c := by
  refine actsAtOnce_withRing fun r => ?_
  dsimp only
  repeat' split
  · exact actsAtOnce_raiseTask _ _
  · exact actsAtOnce_raiseTask _ _
  · exact (actsAtOnce_setRing _ _).trans (actsAtOnce_setAdvance _ _)

theorem actsAtOnce_ringPopBody {w : CmdWord} : ActsAtOnce s (ringPopBody c w s) c := by
  refine actsAtOnce_withRing fun r => ?_
  dsimp only
  repeat' split
  · exact actsAtOnce_raiseTask _ _
  · exact actsAtOnce_raiseTask _ _
  · exact (actsAtOnce_setRing _ _).trans (actsAtOnce_setAdvance _ _)

/-! ### The commands (Table 4-2) -/

/-- The instruction is an issue on core `c` whose act is in `R`. -/
def IssueIn (R : State → State → CoreId → Prop) (i : Instr) (c : CoreId) (w : CmdWord) (e : IssueEnv) : Prop :=
  ∃ (ready : State → Bool) (row : CmdRow) (body : State → State),
    (∀ s, exec i s = issueWhen ready row c w e s body) ∧ ∀ t, R t (body t) c

section
variable {w : CmdWord} {e : IssueEnv}

/-- The commands that the sequencer carries out at their issue. -/
def atOnceCommands (c : CoreId) (w : CmdWord) (e : IssueEnv) : List Instr :=
  [.ctrlNop c w e, .ctrlLi c w e, .ctrlAlu c w e, .ctrlBr c w e, .ctrlLoop c w e, .ctrlRdsys c w e,
    .syncPost c w e, .syncWait c w e, .syncTry c w e, .ringSet c w e, .ringPush c w e, .ringPop c w e, .ringHead c w e, .ringTail c w e, .ringOcc c w e]

theorem issueIn_of_core {R : State → State → CoreId → Prop} {i : Instr} {row : CmdRow} {body : State → State}
    (hexec : ∀ s, exec i s = issueCore row c w e s body) (hact : ∀ t, R t (body t) c) : IssueIn R i c w e :=
  ⟨fun _ => true, row, body, hexec, hact⟩

theorem exec_ctrlNop : exec (.ctrlNop c w e) s = issueCore .nop c w e s fun t => advance t c := rfl
theorem exec_ctrlLi :
    exec (.ctrlLi c w e) s = issueCore .li c w e s fun t => setAdvance t c (wfld w 36 32) (BitVec.ofNat 64 (wfld w 127 64)) := rfl
theorem exec_ctrlAlu : exec (.ctrlAlu c w e) s = issueCore .alu c w e s fun t =>
    setAdvance t c (wfld w 36 32) (aluOp (wfld w 52 48) (sOf t c (wfld w 41 37)) (aluY t c w)) := rfl

theorem issueIn_of_atOnce {i : Instr} (h : i ∈ atOnceCommands c w e) : IssueIn ActsAtOnce i c w e := by
  simp only [atOnceCommands, List.mem_cons, List.not_mem_nil, or_false] at h
  rcases h with rfl | rfl | rfl | rfl | rfl | rfl | rfl | rfl | rfl | rfl | rfl | rfl | rfl | rfl | rfl
  · exact issueIn_of_core (fun _ => exec_ctrlNop) fun _ => actsAtOnce_advance
  · exact issueIn_of_core (fun _ => exec_ctrlLi) fun _ => actsAtOnce_setAdvance _ _
  · exact issueIn_of_core (fun _ => exec_ctrlAlu) fun _ => actsAtOnce_setAdvance _ _
  · exact issueIn_of_core (fun _ => exec_ctrlBr) fun _ => actsAtOnce_branch _ _
  · exact issueIn_of_core (fun _ => exec_ctrlLoop) fun _ => actsAtOnce_loopBody _ _
  · exact issueIn_of_core (fun _ => exec_ctrlRdsys) fun _ => actsAtOnce_setAdvance _ _
  · exact issueIn_of_core (fun _ => exec_syncPost) fun _ => (actsAtOnce_sendSem _).trans actsAtOnce_advance
  · refine issueIn_of_core (fun _ => exec_syncWait) fun t => ?_
    exact ite_cases (P := fun v => ActsAtOnce t v c) actsAtOnce_advance ((actsAtOnce_sendSem _).trans (actsAtOnce_phase nofun))
  · exact issueIn_of_core (fun _ => exec_syncTry) fun _ => (actsAtOnce_sendSem _).trans (actsAtOnce_phase nofun)
  · exact issueIn_of_core (fun _ => exec_ringSet) fun _ => actsAtOnce_ringSetBody
  · exact issueIn_of_core (fun _ => exec_ringPush) fun _ => actsAtOnce_ringPushBody
  · exact issueIn_of_core (fun _ => exec_ringPop) fun _ => actsAtOnce_ringPopBody
  · exact issueIn_of_core (fun _ => exec_ringHead) fun _ => actsAtOnce_withRing fun _ => actsAtOnce_setAdvance _ _
  · exact issueIn_of_core (fun _ => exec_ringTail) fun _ => actsAtOnce_withRing fun _ => actsAtOnce_setAdvance _ _
  · exact issueIn_of_core (fun _ => exec_ringOcc) fun _ => actsAtOnce_withRing fun _ => actsAtOnce_setAdvance _ _

/-! ### The commands that take effect later -/

theorem actsOnCore_startSeq {kind : QKind} {m : Nat} : ActsOnCore s (startSeq s c kind w m) c := by
  unfold startSeq
  exact actsOnCore_modSeq _

theorem actsOnCore_narrowBody {write : Bool} : ActsOnCore s (narrowBody write c w s) c := by
  unfold narrowBody
  split
  · exact (actsAtOnce_raiseTask _ _).acts
  · exact actsOnCore_startSeq.trans actsAtOnce_advance.acts

theorem actsOnCore_dwaitBody {d : BitVec 5} {tag : BitVec 16} : ActsOnCore s (dwaitBody c d tag s) c :=
  ite_cases (P := fun v => ActsOnCore s v c) (actsOnCore_modSeq _) (actsAtOnce_raiseTask _ _).acts

theorem actsOnCore_narrowConfig {kind : QKind} {m : Nat} : ActsOnCore s (narrowConfig kind c w m s) c := by
  unfold narrowConfig
  split
  · exact (actsAtOnce_raiseTask _ _).acts
  · exact actsOnCore_startSeq.trans (actsOnCore_modSeq _)

theorem actsOnCore_enqueue {kind : QKind} : ActsOnCore s (enqueue s c kind w) c := by
  unfold enqueue
  exact (actsOnCore_modSeq _).trans actsAtOnce_advance.acts

theorem actsOnCore_askBody : ActsOnCore s (askBody c w s) c := by
  unfold askBody
  dsimp only
  repeat' split
  · exact (actsAtOnce_raiseTask _ _).acts
  · exact (actsAtOnce_raiseTask _ _).acts
  · exact (actsOnCore_modSeq _).trans actsOnCore_enqueue

theorem exec_configCoreControl : exec (.configCoreControl c w e) s = issueCore .cfgCtrl c w e s (narrowConfig .cfgCtrl c w 10) := rfl
theorem exec_configBowSites :
    exec (.configBowSites c w e) s = issueCore .cfgBow c w e s (narrowConfig .cfgBow c w (8 * wfld w 71 60 + 2)) := rfl

theorem issueIn_of_queued {i : Instr} {row : CmdRow} {kind : QKind} (h : queuedOf i = some (row, kind, c, w, e)) :
    IssueIn ActsOnCore i c w e := by
  by_cases hask : kind = .summaryAsk
  · subst hask
    unfold queuedOf at h
    split at h
    case h_2 => cases h; exact ⟨queueFree c .summaryAsk, .ask, askBody c w, fun _ => rfl, fun _ => actsOnCore_askBody⟩
    all_goals cases h
  · exact ⟨queueFree c kind, row, fun s => enqueue s c kind w, fun s => exec_of_queuedOf s h hask, fun _ => actsOnCore_enqueue⟩

theorem issueIn_of_later {i : Instr}
    (h : i ∈ [.ctrlLd c w e, .ctrlSt c w e, .ctrlDwait c w e, .configCoreControl c w e, .configBowSites c w e]) : IssueIn ActsOnCore i c w e := by
  simp only [List.mem_cons, List.not_mem_nil, or_false] at h
  rcases h with rfl | rfl | rfl | rfl | rfl
  · exact issueIn_of_core (fun _ => exec_ctrlLd) fun _ => actsOnCore_narrowBody
  · exact issueIn_of_core (fun _ => exec_ctrlSt) fun _ => actsOnCore_narrowBody
  · exact issueIn_of_core (fun _ => exec_ctrlDwait) fun _ => actsOnCore_dwaitBody
  · exact issueIn_of_core (fun _ => exec_configCoreControl) fun _ => actsOnCore_narrowConfig
  · exact issueIn_of_core (fun _ => exec_configBowSites) fun _ => actsOnCore_narrowConfig

/-- What an issue leads to: the state is as it was, or the act has been done in a running core, or ILLEGAL_COMMAND raised there. -/
theorem next_of_issueIn {R : State → State → CoreId → Prop} {i : Instr} (hi : IssueIn R i c w e)
    (hraise : ∀ t x pc, R t (raiseTask t c x pc) c) (hu : exec i s = .next u) :
    u = s ∨ (getCore (atIssue s c e) c).seq.phase = .running ∧ ∃ v, u = endCycle e.run v c ∧ R (atIssue s c e) v c := by
  obtain ⟨ready, row, body, hexec, hact⟩ := hi
  rw [hexec, issueWhen] at hu
  by_cases hmay : mayIssue (reached s c e) c w = true
  · have hrun : (getCore (atIssue s c e) c).seq.phase = .running := by rw [atIssue]; simpa using phase_of_mayIssue hmay
    split at hu
    · cases hu
    · rw [if_neg (by simp [hmay])] at hu
      dsimp only at hu
      generalize atIssue s c e = t at *
      split at hu
      · cases hu; exact .inr ⟨hrun, _, rfl, hraise _ _ _⟩
      · split at hu
        · cases hu; exact .inl rfl
        · cases hu; exact .inr ⟨hrun, _, rfl, hact _⟩
  · split at hu
    · cases hu
    · rw [if_pos (by simpa using hmay)] at hu
      cases hu; exact .inl rfl

end

/-! ### A core at rest (R104, R130) -/

/-- What a core at rest, with no error on its way, leaves alone while its clock runs. -/
structure RunsIdle (s t : State) (c : CoreId) : Prop where
  elsewhere : SameElsewhere s t c
  rest : atRest (getCore t c).seq = true
  due : (getCore t c).seq.due = none
  acc : (getCore t c).eng.acc = (getCore s c).eng.acc
  spTask : (getCore t c).spTask = (getCore s c).spTask
  settled : Settled s c → Settled t c ∧ (getCore t c).eng.sp = (getCore s c).eng.sp

theorem RunsIdle.trans (h : RunsIdle s t c) (k : RunsIdle t u c) : RunsIdle s u c :=
  ⟨sameElsewhere_trans h.elsewhere k.elsewhere, k.rest, k.due, k.acc.trans h.acc, k.spTask.trans h.spTask,
    fun hs => ⟨(k.settled (h.settled hs).1).1, (k.settled (h.settled hs).1).2.trans (h.settled hs).2⟩⟩

theorem atRest_congr {q r : Seq} (hq : ∀ k, getQ r k = getQ q k) (hp : r.phase = q.phase) (ha : r.asks = q.asks) : atRest r = atRest q := by
  have hd := hq .dma; have hw := hq .wl; have hm := hq .mx; have hv := hq .vx; have hs := hq .sq
  simp only [getQ] at hd hw hm hv hs
  have hready : readyDecision r = readyDecision q := by rw [readyDecision, readyDecision, hp, ha, hd]
  rw [atRest, atRest, hready, hd, hw, hm, hv, hs]

/-- A register write leaves the rest of the sequencer. -/
theorem setSreg_fields (q : Seq) (k : Nat) (v : W64) : (setSreg q k v).phase = q.phase ∧ (setSreg q k v).asks = q.asks ∧
    (setSreg q k v).due = q.due ∧ (setSreg q k v).landing = q.landing ∧ (setSreg q k v).ldPend = q.ldPend ∧
    ∀ j, getQ (setSreg q k v) j = getQ q j := by
  by_cases hk : k = 0
  · simp [setSreg, hk]
  · refine ⟨?_, ?_, ?_, ?_, ?_, fun j => ?_⟩
    case refine_6 => cases j <;> simp [setSreg, hk, getQ]
    all_goals simp [setSreg, hk]

/-- So does a run of register writes. -/
theorem foldl_setSreg_fields (l : List (Nat × BitVec 5 × W64)) (q : Seq) :
    let r := l.foldl (fun q x => setSreg q x.2.1.toNat x.2.2) q
    r.phase = q.phase ∧ r.asks = q.asks ∧ r.due = q.due ∧ r.landing = q.landing ∧ r.ldPend = q.ldPend ∧ ∀ j, getQ r j = getQ q j := by
  induction l generalizing q with
  | nil => exact ⟨rfl, rfl, rfl, rfl, rfl, fun _ => rfl⟩
  | cons x l ih =>
    obtain ⟨hp, ha, hd, hl, hr, hq⟩ := setSreg_fields q x.2.1.toNat x.2.2
    obtain ⟨hp', ha', hd', hl', hr', hq'⟩ := ih (setSreg q x.2.1.toNat x.2.2)
    exact ⟨hp'.trans hp, ha'.trans ha, hd'.trans hd, hl'.trans hl, hr'.trans hr, fun j => (hq' j).trans (hq j)⟩

theorem ldDue_fields (q : Seq) : (ldDue q).phase = q.phase ∧ (ldDue q).asks = q.asks ∧ (ldDue q).due = q.due ∧ (ldDue q).landing = q.landing ∧
    (q.ldPend = [] → (ldDue q).ldPend = []) ∧ ∀ j, getQ (ldDue q) j = getQ q j := by
  unfold ldDue
  split
  · exact ⟨rfl, rfl, rfl, rfl, id, fun _ => rfl⟩
  · obtain ⟨hp, ha, hd, hl, hr, hq⟩ := foldl_setSreg_fields (q.ldPend.filter fun x => decide (x.1 ≤ q.cycle))
      { q with ldPend := q.ldPend.filter fun x => decide (q.cycle < x.1) }
    refine ⟨hp, ha, hd, hl, fun h => ?_, fun j => (hq j).trans (by cases j <;> rfl)⟩
    rw [hr, h]; rfl

section
variable (hrest : atRest (getCore s c).seq = true) (hdue : (getCore s c).seq.due = none)
include hrest hdue

/-- A change of the sequencer that leaves its queues, its phase and what is on the way. -/
theorem runsIdle_modSeq {f : Seq → Seq} (hq : ∀ q k, getQ (f q) k = getQ q k) (hp : ∀ q, (f q).phase = q.phase) (ha : ∀ q, (f q).asks = q.asks)
    (hd : ∀ q, (f q).due = q.due) (hl : ∀ q, q.landing = [] ∧ q.ldPend = [] → (f q).landing = [] ∧ (f q).ldPend = []) :
    RunsIdle s (modSeq s c f) c := by
  refine ⟨sameElsewhere_setCore .., ?_, ?_, by simp, by simp, fun hs => ⟨?_, by simp⟩⟩
  · simp only [modSeq_eq, modCore_eq, getCore_setCore]
    rw [atRest_congr (hq _) (hp _) (ha _), hrest]
  · simp only [modSeq_eq, modCore_eq, getCore_setCore, hd, hdue]
  · simp only [Settled, modSeq_eq, modCore_eq, getCore_setCore]
    exact hl _ hs

theorem runsIdle_refl : RunsIdle s s c := ⟨sameElsewhere_refl s c, hrest, hdue, rfl, rfl, fun h => ⟨h, rfl⟩⟩

theorem runsIdle_landDue : RunsIdle s (landDue s c) c := by
  unfold landDue
  dsimp only
  split
  · exact runsIdle_refl hrest hdue
  case isFalse hne =>
    refine ⟨sameElsewhere_trans (sameElsewhere_setCore ..) (sameElsewhere_setCore ..), ?_, by simp [hdue], by simp, by simp, fun hs => ?_⟩
    · simp only [modSeq_eq, modEng_eq, modCore_eq, getCore_setCore]
      rw [← hrest]
      exact atRest_congr (fun k => by cases k <;> rfl) rfl rfl
    · exact absurd (by simp [hs.1]) hne

theorem runsIdle_drainDue : RunsIdle s (drainDue s c) c := by
  unfold drainDue
  dsimp only
  split
  · exact ⟨sameElsewhere_setCore .., by simpa using hrest, by simpa using hdue, by simp, by simp, fun hs => ⟨by simpa [Settled] using hs, by simp⟩⟩
  · exact runsIdle_refl hrest hdue

theorem runsIdle_beginCycle : RunsIdle s (beginCycle s c) c := by
  have hland := runsIdle_landDue hrest hdue
  have hld : RunsIdle (landDue s c) (modSeq (landDue s c) c ldDue) c := by
    refine runsIdle_modSeq hland.rest hland.due (fun q k => ?_) (fun q => ?_) (fun q => ?_) (fun q => ?_) (fun q hq => ?_) <;>
      obtain ⟨hp, ha, hd, hl, hr, hq⟩ := ldDue_fields q
    · exact hq k
    · exact hp
    · exact ha
    · exact hd
    · exact ⟨hl.trans (by assumption : q.landing = [] ∧ q.ldPend = []).1, hr (by assumption : q.landing = [] ∧ q.ldPend = []).2⟩
  have herr : errorDue (modSeq (landDue s c) c ldDue) c = modSeq (landDue s c) c ldDue := by rw [errorDue, hld.due]
  rw [beginCycle, herr]
  exact (hland.trans hld).trans (runsIdle_drainDue hld.rest hld.due)

theorem runsIdle_cycle (n : Nat → Nat) : RunsIdle s (modSeq s c fun q => { q with cycle := n q.cycle }) c :=
  runsIdle_modSeq hrest hdue (fun _ k => by cases k <;> rfl) (fun _ => rfl) (fun _ => rfl) (fun _ => rfl) fun _ h => h

theorem runsIdle_endCycle (run : RunEnv) : RunsIdle s (endCycle run s c) c := by
  rw [endCycle, if_pos hrest]
  exact runsIdle_cycle hrest hdue (· + 1)

theorem runsIdle_idleCycle (run : RunEnv) : RunsIdle s (idleCycle run s c) c :=
  (runsIdle_beginCycle hrest hdue).trans (runsIdle_endCycle (runsIdle_beginCycle hrest hdue).rest (runsIdle_beginCycle hrest hdue).due run)

omit hrest hdue in
theorem runsIdle_runSteps (run : RunEnv) (goal n : Nat) (hrest : atRest (getCore s c).seq = true) (hdue : (getCore s c).seq.due = none) :
    RunsIdle s (runSteps run goal c n s) c := by
  induction n generalizing s with
  | zero => exact runsIdle_refl hrest hdue
  | succ n ih =>
    unfold runSteps
    dsimp only
    split
    · exact runsIdle_refl hrest hdue
    · have hstep : RunsIdle s (if (getCore s c).seq.cycle < nextBusy (getCore s c).seq run goal then
          modSeq s c fun q => { q with cycle := nextBusy (getCore s c).seq run goal } else idleCycle run s c) c :=
        ite_cases (P := fun t => RunsIdle s t c) (runsIdle_cycle hrest hdue _) (runsIdle_idleCycle hrest hdue run)
      exact hstep.trans (ih hstep.rest hstep.due)

theorem runsIdle_runFor (run : RunEnv) (n : Nat) : RunsIdle s (runFor run s c n) c := runsIdle_runSteps run _ _ hrest hdue

end

theorem tick_frame (s : State) (dt : Nat) : ∃ T B, tick s dt = { s with time := T, br := B } := by
  unfold tick
  split
  · exact ⟨_, s.br, rfl⟩
  · exact ⟨_, _, rfl⟩

theorem runsIdle_atIssue {e : IssueEnv} (hrest : atRest (getCore s c).seq = true) (hdue : (getCore s c).seq.due = none) :
    RunsIdle s (atIssue s c e) c := by
  obtain ⟨T, B, htick⟩ := tick_frame s e.dt
  have h0 : RunsIdle s (tick s e.dt) c := by
    rw [htick]
    exact ⟨⟨rfl, rfl, rfl, fun _ _ => rfl, rfl, rfl, rfl, rfl, rfl, rfl⟩, hrest, hdue, rfl, rfl, fun h => ⟨h, rfl⟩⟩
  have h1 := runsIdle_runFor h0.rest h0.due e.run e.gap
  have h2 := runsIdle_beginCycle h1.rest h1.due
  have h3 : RunsIdle (reached s c e) (atIssue s c e) c :=
    runsIdle_modSeq h2.rest h2.due (fun _ k => by cases k <;> rfl) (fun _ => rfl) (fun _ => rfl) (fun _ => rfl) fun _ h => h
  exact ((h0.trans h1).trans h2).trans h3

theorem atRest_of_actsAtOnce (h : ActsAtOnce s t c) (hno : NoDwait s c) (hrest : atRest (getCore s c).seq = true) :
    atRest (getCore t c).seq = true := by
  have hd := h.queues .dma; have hw := h.queues .wl; have hm := h.queues .mx; have hv := h.queues .vx; have hs := h.queues .sq
  simp only [getQ] at hd hw hm hv hs
  rw [atRest, readyDecision_of_noDwait hno] at hrest
  rw [atRest, readyDecision_of_noDwait (h.noDwait hno), hd, hw, hm, hv, hs, hrest]

/-- Settles O12: each act reaches its own core's sequencer and rings only, and a core at rest passes its cycles without reaching more. -/
theorem coreCommandsFrame : Obligations.CoreCommandsFrame := by
  intro c w e i s u hu seq_ t
  have hseq (hi : i ∈ seq_) := next_of_issueIn (issueIn_of_atOnce hi) (fun _ _ _ => actsAtOnce_raiseTask _ _) hu
  have hacts : (u = s ∨ ∃ v, u = endCycle e.run v c ∧ ActsOnCore (atIssue s c e) v c) →
      u = s ∨ ∃ v, u = endCycle e.run v c ∧ SameElsewhere t v c ∧ (∀ a, Memory.rd v.mem a = Memory.rd t.mem a) ∧
        (getCore v c).eng = { (getCore t c).eng with rings := (getCore v c).eng.rings } ∧ (getCore v c).spTask = (getCore t c).spTask ∧
        (getCore v c).stImage = (getCore t c).stImage ∧ (getCore v c).drone = (getCore t c).drone := by
    have ht : atIssue s c e = t := rfl
    clear_value t
    rw [ht]
    rintro (h | ⟨v, hv, hact⟩)
    · exact .inl h
    · exact .inr ⟨v, hv, hact.elsewhere, fun a => by rw [hact.elsewhere.mem], hact.eng, hact.spTask, hact.stImage, hact.drone⟩
  have hlater (hi : IssueIn ActsOnCore i c w e) :=
    next_of_issueIn hi (fun _ _ _ => (actsAtOnce_raiseTask _ _).acts) hu
  refine ⟨fun hi => hacts ?_, fun hi hrest hdue => ?_⟩
  · rcases hi with hi | hi | ⟨row, kind, hi⟩
    · exact (hseq hi).imp_right fun ⟨_, v, hv, hact⟩ => ⟨v, hv, hact.acts⟩
    · exact (hlater (issueIn_of_later hi)).imp_right fun ⟨_, h⟩ => h
    · exact (hlater (issueIn_of_queued hi)).imp_right fun ⟨_, h⟩ => h
  · rcases hseq hi with h | ⟨hrun, v, hv, hact⟩
    · rw [h]
      exact ⟨sameElsewhere_refl s c, fun _ => rfl, fun _ _ => rfl, rfl, rfl⟩
    · have hidle := runsIdle_atIssue (e := e) hrest hdue
      have hrestv := atRest_of_actsAtOnce hact (noDwait_of_running hrun) hidle.rest
      rw [endCycle, if_pos hrestv] at hv
      have hall := sameElsewhere_trans (sameElsewhere_trans hidle.elsewhere hact.acts.elsewhere) (sameElsewhere_setCore v c
        { getCore v c with seq := { (getCore v c).seq with cycle := (getCore v c).seq.cycle + 1 } })
      have hcore : getCore u c = { getCore v c with seq := { (getCore v c).seq with cycle := (getCore v c).seq.cycle + 1 } } := by rw [hv]; simp
      have heng := hact.acts.eng
      refine ⟨hv ▸ hall, fun a => by rw [hv]; exact congrArg (Memory.rd · a) hall.mem, fun hs a => ?_, ?_, ?_⟩
      · rw [hcore, ← (hidle.settled hs).2, heng]
      · rw [hcore, ← hidle.acc, heng]
      · rw [hcore, ← hidle.spTask]; exact hact.acts.spTask

end Sys2Proof.Machine
end

section
/-! PROOFS. The time limits of WAIT and ASK, the arrival of a decision, and the bytes freed in the summary ring (R82 to R85). -/

namespace Sys2Proof.Machine
open Sys2Proof

variable {s : State} {c : CoreId}

theorem exec_syncTimeout {dt : Nat} : exec (.syncTimeout c dt) s = execSyncTimeout c dt s := rfl
theorem exec_decisionTimeout {tag : BitVec 16} {dt : Nat} : exec (.decisionTimeout c tag dt) s = execDecisionTimeout c tag dt s := rfl
theorem exec_decisionArrival {r : CoreRun} {tag : BitVec 16} {b : List Byte} : exec (.decisionArrival r tag b) s = execDecisionArrival r tag b s := rfl
theorem exec_summaryRingFreed {p : PartId} {n : Nat} {runs : List CoreRun} :
    exec (.summaryRingFreed p n runs) s = execSummaryRingFreed p n runs s := rfl

@[simp] theorem phase_raiseTask (x : BitVec 8) (pc : BitVec 13) : (getCore (raiseTask s c x pc) c).seq.phase = .stopped x pc := by
  rw [raiseTask, getCore_raiseTaskAt]

theorem execSyncTimeout_of_over {i : BitVec 6} {n : BitVec 16} {t0 : W64} {dt : Nat} (hdev : devRuns s = true)
    (hphase : (getCore s c).seq.phase = .waitSem i n t0)
    (hover : (getCore s c).seq.syncTimeout.toNat ≤ (s.time + BitVec.ofNat 64 dt - t0).toNat) :
    execSyncTimeout c dt s = .next (raiseTask (dropSem (tick s dt) c) c cSYNC_TIMEOUT (getCore s c).seq.pc) := by
  simp only [execSyncTimeout, hphase, hdev, Bool.not_true, Bool.false_eq_true, false_or, if_neg (Nat.not_lt.mpr hover)]

theorem execDecisionTimeout_of_over {tag : BitVec 16} {a : AskRec} {dt : Nat} (hdev : devRuns s = true)
    (ha : (getCore s c).seq.asks.find? (fun x => decide (x.tag = tag) && x.decision.isNone) = some a)
    (hover : (getCore s c).seq.decisionTimeout.toNat ≤ (s.time + BitVec.ofNat 64 dt - a.issued).toNat) :
    execDecisionTimeout c tag dt s = .next (raiseTask (dropSem (tick s dt) c) c cDECISION_TIMEOUT (getCore s c).seq.pc) := by
  simp only [execDecisionTimeout, ha, hdev, Bool.not_true, Bool.false_eq_true, false_or, if_neg (Nat.not_lt.mpr hover)]

/-- Some outstanding ASK of the tag takes the bytes. -/
theorem execDecisionArrival_of_ask {r : CoreRun} {a : AskRec} {b : List Byte} (hrt : rtRuns s = true) (hdel : askDelivered s r.core a.tag = true)
    (ha : a ∈ (getCore s r.core).seq.asks) (hnone : a.decision = none) (hlen : b.length ≤ a.dlen) :
    execDecisionArrival r a.tag b s = .next (modSeq (runFor r.run s r.core r.gap) r.core fun q =>
      { q with asks := q.asks.map fun x => if x.tag = a.tag then { x with decision := some b } else x }) := by
  have hfind : ((getCore s r.core).seq.asks.find? fun x => decide (x.tag = a.tag) && x.decision.isNone && decide (b.length ≤ x.dlen)).isSome := by
    rw [List.find?_isSome]
    exact ⟨a, ha, by simp [hnone, hlen]⟩
  obtain ⟨x, hx⟩ := Option.isSome_iff_exists.mp hfind
  simp only [execDecisionArrival, hrt, hdel, Bool.not_true, Bool.false_eq_true, false_or, if_false, hx]

theorem execSummaryRingFreed_of_runs {p : PartId} {n : Nat} {runs : List CoreRun} (hrt : rtRuns s = true) :
    execSummaryRingFreed p n runs s = .next (modPart (runCores p runs s) p fun x => { x with sumRing := x.sumRing.drop n }) := by
  simp only [execSummaryRingFreed, hrt, Bool.not_true, Bool.false_eq_true, if_false]

/-- Settles O15: a limit that is reached stops the core; the decision is noted in its ASK; the oldest bytes leave the ring. -/
theorem timeLimitsAndDecisions : Obligations.TimeLimitsAndDecisions := by
  intro c s hdev
  refine ⟨fun i n t0 dt hphase hover => ?_, fun a dt ha hover => ?_, fun a b gap run hrt ha hnone hlen _ hdel => ?_, fun p n runs hrt => ?_⟩
  · exact ⟨_, exec_syncTimeout.trans (execSyncTimeout_of_over hdev hphase hover), phase_raiseTask _ _⟩
  · exact ⟨_, exec_decisionTimeout.trans (execDecisionTimeout_of_over hdev ha hover), phase_raiseTask _ _⟩
  · exact ⟨_, exec_decisionArrival.trans (execDecisionArrival_of_ask hrt hdel ha hnone hlen), by simp⟩
  · exact ⟨_, exec_summaryRingFreed.trans (execSummaryRingFreed_of_runs hrt), by simp, by simp⟩

end Sys2Proof.Machine
end

section
/-! PROOFS. Completions: the clock that runs past the end of a command, the memory command that leaves its queue, what a completion installs,
and the end of a draining slot (R70, R89, R130, R131). -/

namespace Sys2Proof.Machine
open Sys2Proof

variable {s : State} {c : CoreId} {q : QEntry} {run : RunEnv}

theorem exec_matmulComplete {e : CoreEnv} : exec (.matmulComplete e) s = execMatmulComplete e s := rfl
theorem exec_wloadComplete {e : CoreEnv} : exec (.wloadComplete e) s = execWloadComplete e s := rfl
theorem exec_vchainComplete {e : CoreEnv} : exec (.vchainComplete e) s = execVchainComplete e s := rfl
theorem exec_dmaComplete {r : CoreRun} : exec (.dmaComplete r) s = execDmaComplete r s := rfl
theorem exec_adrainComplete {r : CoreRun} : exec (.adrainComplete r) s = execAdrainComplete r s := rfl
theorem exec_shadowDrainEnd {e : CoreEnv} : exec (.shadowDrainEnd e) s = execShadowDrainEnd e s := rfl

/-! ### The clock runs past a completion -/

theorem runPast_of_head {k : QSel} {kind : QKind → Bool} {n : Nat} (hq : runningHead s c k = some q) (hn : q.endAt = some n)
    (hk : kind q.kind = true) : runPast s c k run kind = runTo run s c (n + 1) := by
  simp only [runPast, hq, hn, hk, if_true]

theorem runFor_zero : runFor run s c 0 = s := by
  rw [runFor, runTo, Nat.add_zero, Nat.sub_self]; rfl

/-! ### A memory command that has nothing left to move -/

section
variable (h : OnlyEntry s c q) (hk : byMemory q.kind = true)
include h

theorem getQ_of_onlyEntry : getQ (getCore s c).seq (queueOf q.kind) = [q] := by rw [h, if_pos rfl]

theorem entryNow_of_onlyEntry : entryNow s c q = q := by
  rw [entryNow, getQ_of_onlyEntry h]
  simp

theorem idleQueues_dropEntry : IdleQueues (dropEntry s c (queueOf q.kind) q.n) c := by
  intro k
  rw [getQ_dropEntry]
  split
  · rw [getQ_of_onlyEntry h]; simp
  · rw [h, if_neg (by assumption)]

omit h in
theorem endEntry_of_byMemory (hk : byMemory q.kind = true) (hsend : q.kind ≠ .summarySend) (hask : q.kind ≠ .summaryAsk) : endEntry s c q = s := by
  unfold endEntry
  split <;> first | rfl | (exfalso; simp_all [byMemory])

omit h in
theorem popAll_of_idle {t : Nat} (h : IdleQueues s c) : popAll s c t = s := by
  have hq (k : QSel) : (getQ (getCore s c).seq k).length = 0 := by rw [h k]; rfl
  simp only [popAll, List.foldl, hq, popEnded]

include hk
/-- It leaves its queue, and nothing else changes. -/
theorem finishMemory_of_done (hsend : q.kind ≠ .summarySend) (hask : q.kind ≠ .summaryAsk) (hrow : (shapeOf q).1 ≤ q.uRow)
    (hreads : q.remoteReads = 0) (hframes : framesWaiting s c q.n = false) :
    finishMemory s c (queueOf q.kind) q = dropEntry s c (queueOf q.kind) q.n := by
  have hleft : unitsLeft q = 0 := by rw [unitsLeft, Nat.sub_eq_zero_of_le hrow, Nat.zero_mul]
  have hgo : ¬(q.remoteReads ≠ 0 ∨ framesWaiting s c q.n = true) := by simp [hreads, hframes]
  simp only [finishMemory, hleft, moveRest, entryNow_of_onlyEntry h, if_neg hgo, completeEntry, endEntry_of_byMemory hk hsend hask,
    popAll_of_idle (idleQueues_dropEntry h)]

omit hk in
theorem runningHead_of_onlyEntry (hstarted : q.started = true) : runningHead s c (queueOf q.kind) = some q := by
  rw [runningHead, getQ_of_onlyEntry h]
  simp [Option.filter, hstarted]

end

theorem execDmaComplete_of_done (hdev : devRuns s = true) (hq : runningHead s c .dma = some q) (hk : byMemory q.kind = true)
    (hpair : entryFailed s c q.n = false) : execDmaComplete ⟨c, 0, run⟩ s = .next (finishMemory s c .dma q) := by
  simp only [execDmaComplete, hdev, runFor_zero, hq, hk, hpair, Bool.not_true, Bool.false_eq_true, if_false]

theorem execDmaComplete_of_timed {n : Nat} (hdev : devRuns s = true) (hq : runningHead s c .dma = some q) (hk : byMemory q.kind = false)
    (hn : q.endAt = some n) : execDmaComplete ⟨c, 0, run⟩ s = .next (runTo run s c (n + 1)) := by
  simp only [execDmaComplete, hdev, runFor_zero, hq, hk, Bool.not_true, Bool.not_false, Bool.false_eq_true, if_false, if_true,
    runPast_of_head hq hn]

theorem execAdrainComplete_of_head (hdev : devRuns s = true) (hq : runningHead s c .mx = some q) (hk : isAdrain q.kind = true) :
    execAdrainComplete ⟨c, 0, run⟩ s = .next (finishMemory s c .mx q) := by
  simp [execAdrainComplete, hdev, runFor_zero, hq, hk, Option.filter]

theorem queueOf_of_adrain (h : isAdrain q.kind = true) : queueOf q.kind = .mx := by
  simp only [isAdrain, Bool.or_eq_true, decide_eq_true_eq] at h
  rcases h with h | h <;> rw [h] <;> rfl

/-! ### What a completion does (R146, R158) -/

/-- The queues of the core are as they were. -/
def KeepsQs (s t : State) (c : CoreId) : Prop := ∀ k, getQ (getCore t c).seq k = getQ (getCore s c).seq k

theorem keepsQs_install (i : Install) : KeepsQs s (install s c i) c := fun k => by simp [install]
theorem keepsQs_raiseTask (x : BitVec 8) (pc : BitVec 13) : KeepsQs s (raiseTask s c x pc) c := (actsAtOnce_raiseTask x pc).queues
theorem keepsQs_ite {p : Prop} [Decidable p] {t u : State} (h : KeepsQs s t c) (k : KeepsQs s u c) : KeepsQs s (if p then t else u) c := by
  split <;> assumption

theorem keepsQs_endSummary : KeepsQs s (endSummary s c q) c := by
  unfold endSummary
  split <;> exact fun _ => rfl

theorem keepsQs_endCz : KeepsQs s (endCz s c q) c :=
  keepsQs_ite (keepsQs_ite (keepsQs_install _) (keepsQs_raiseTask _ _)) (keepsQs_ite (keepsQs_install _) fun _ => rfl)

theorem keepsQs_vxEnd : KeepsQs s (vxEnd s c q) c := by
  unfold vxEnd
  split
  · exact keepsQs_ite (keepsQs_raiseTask _ _) (keepsQs_install _)
  · exact keepsQs_ite (keepsQs_install _) fun _ => rfl
  · exact keepsQs_ite (keepsQs_ite (keepsQs_raiseTask _ _) (keepsQs_install _)) (keepsQs_ite (keepsQs_raiseTask _ _) (keepsQs_install _))
  · exact keepsQs_ite (keepsQs_ite (keepsQs_raiseTask _ _) (keepsQs_install _)) (keepsQs_ite (keepsQs_raiseTask _ _) (keepsQs_install _))
  · exact fun _ => rfl

theorem keepsQs_goAfter {t : State} (h : KeepsQs s t c) : KeepsQs s (goAfter t c) c := by
  unfold goAfter
  split
  · exact fun k => (actsAtOnce_advance.queues k).trans (h k)
  · exact h

theorem keepsQs_endSeq : KeepsQs s (endSeq s c q) c := by
  have hill : KeepsQs s (illegalRecord s c q) c := keepsQs_ite (keepsQs_raiseTask _ _) fun _ => rfl
  unfold endSeq
  split
  · exact fun k => by cases k <;> simp [endLd, getQ]
  · exact keepsQs_ite (keepsQs_goAfter fun k => by cases k <;> simp [getQ]) hill
  · exact keepsQs_ite (keepsQs_goAfter fun k => by simp) hill
  · exact fun _ => rfl

theorem keepsQs_endEntry : KeepsQs s (endEntry s c q) c := by
  unfold endEntry
  split
  case h_1 | h_2 => exact keepsQs_endSummary
  case h_3 | h_4 | h_5 => exact keepsQs_install _
  case h_6 | h_7 => exact keepsQs_endCz
  case h_8 => exact keepsQs_install _
  case h_9 | h_10 | h_11 | h_12 => exact keepsQs_vxEnd
  case h_13 | h_14 | h_15 => exact keepsQs_endSeq
  case h_16 => exact fun _ => rfl

@[simp] theorem dropEntry_eng (k : QSel) (n : Nat) : (getCore (dropEntry s c k n) c).eng = (getCore s c).eng := by simp [dropEntry]

theorem completeEntry_eng_of_install {k : QSel} {i : Install} (h : ∀ s, endEntry s c q = install s c i) :
    (getCore (completeEntry s c k q) c).eng = installEng (getCore s c).eng i := by
  rw [completeEntry, h]
  simp [install]

/-! ### The end of a draining slot (R130, R131) -/

/-- The shadow slot is EMPTY. -/
def emptied (m : MxSlot) : MxSlot := { m with shState := 0, shFmt := 0, shKrowsM1 := 0, shCodes := [] }

/-- The slots are as they were, or the shadow slot has drained; its time is as it was. -/
structure DrainsOnly (s t : State) (c : CoreId) : Prop where
  mx : (getCore t c).eng.mx = (getCore s c).eng.mx ∨ (getCore t c).eng.mx = emptied (getCore s c).eng.mx
  drainAt : (getCore t c).seq.drainAt = (getCore s c).seq.drainAt

theorem DrainsOnly.refl (s : State) (c : CoreId) : DrainsOnly s s c := ⟨.inl rfl, rfl⟩

theorem DrainsOnly.trans {t u : State} (h : DrainsOnly s t c) (k : DrainsOnly t u c) : DrainsOnly s u c := by
  refine ⟨?_, k.drainAt.trans h.drainAt⟩
  have hidem : emptied (emptied (getCore s c).eng.mx) = emptied (getCore s c).eng.mx := rfl
  rcases k.mx with hk | hk <;> rcases h.mx with hm | hm <;> rw [hk, hm]
  · exact .inl rfl
  · exact .inr rfl
  · exact .inr rfl
  · exact .inr hidem

theorem drainsOnly_modSeq {f : Seq → Seq} (hf : ∀ q, (f q).drainAt = q.drainAt) : DrainsOnly s (modSeq s c f) c := ⟨.inl (by simp), by simp [hf]⟩

theorem drainsOnly_landDue : DrainsOnly s (landDue s c) c := by
  unfold landDue
  dsimp only
  split
  · exact .refl s c
  · exact ⟨.inl (by simp), by simp⟩

theorem drainsOnly_drainDue : DrainsOnly s (drainDue s c) c := by
  unfold drainDue
  dsimp only
  split
  · exact ⟨.inr (by simp [emptied]), by simp⟩
  · exact .refl s c

theorem setSreg_drainAt (q : Seq) (k : Nat) (v : W64) : (setSreg q k v).drainAt = q.drainAt := by by_cases hk : k = 0 <;> simp [setSreg, hk]

theorem foldl_setSreg_drainAt (l : List (Nat × BitVec 5 × W64)) (q : Seq) :
    (l.foldl (fun q x => setSreg q x.2.1.toNat x.2.2) q).drainAt = q.drainAt ∧ (l.foldl (fun q x => setSreg q x.2.1.toNat x.2.2) q).cycle = q.cycle := by
  induction l generalizing q with
  | nil => exact ⟨rfl, rfl⟩
  | cons x l ih => exact ⟨(ih _).1.trans (setSreg_drainAt ..), (ih _).2.trans (setSreg_cycle ..)⟩

theorem ldDue_drainAt (q : Seq) : (ldDue q).drainAt = q.drainAt ∧ (ldDue q).cycle = q.cycle := by
  unfold ldDue
  split
  · exact ⟨rfl, rfl⟩
  · exact foldl_setSreg_drainAt ..

theorem landDue_seq : (getCore (landDue s c) c).seq.cycle = (getCore s c).seq.cycle ∧ (getCore (landDue s c) c).seq.due = (getCore s c).seq.due := by
  unfold landDue
  dsimp only
  split
  · exact ⟨rfl, rfl⟩
  · simp

theorem drainDue_cycle : (getCore (drainDue s c) c).seq.cycle = (getCore s c).seq.cycle := by
  unfold drainDue
  dsimp only
  split <;> simp

theorem beginCycle_of_noError (hdue : (getCore s c).seq.due = none) :
    DrainsOnly s (beginCycle s c) c ∧ clockOf (beginCycle s c) c = clockOf s c := by
  obtain ⟨t, ht⟩ : ∃ t, modSeq (landDue s c) c ldDue = t := ⟨_, rfl⟩
  have htdue : (getCore t c).seq.due = none := by
    rw [← ht, modSeq_eq, modCore_eq, getCore_setCore]
    exact (ldDue_fields _).2.2.1.trans (landDue_seq.2.trans hdue)
  have htclock : (getCore t c).seq.cycle = (getCore s c).seq.cycle := by
    rw [← ht, modSeq_eq, modCore_eq, getCore_setCore]
    exact (ldDue_drainAt _).2.trans landDue_seq.1
  have htdrain : DrainsOnly s t c := by
    rw [← ht]
    exact drainsOnly_landDue.trans (drainsOnly_modSeq fun q => (ldDue_drainAt q).1)
  have herr : errorDue t c = t := by rw [errorDue, htdue]
  rw [beginCycle, ht, herr]
  exact ⟨htdrain.trans drainsOnly_drainDue, drainDue_cycle.trans htclock⟩

theorem idleCycle_of_rest (hrest : atRest (getCore s c).seq = true) (hdue : (getCore s c).seq.due = none) :
    DrainsOnly s (idleCycle run s c) c ∧ clockOf (idleCycle run s c) c = clockOf s c + 1 := by
  obtain ⟨hdrain, hclock⟩ := beginCycle_of_noError hdue
  rw [idleCycle, endCycle, if_pos (runsIdle_beginCycle hrest hdue).rest]
  refine ⟨hdrain.trans (drainsOnly_modSeq fun _ => rfl), ?_⟩
  rw [clockOf, modSeq_eq, modCore_eq, getCore_setCore, ← hclock]; rfl

theorem foldl_min_le (l : List Nat) (n : Nat) : l.foldl min n ≤ n := by
  induction l generalizing n with
  | nil => exact Nat.le_refl n
  | cons a l ih => exact Nat.le_trans (ih _) (Nat.min_le_left n a)

/-- A core at rest runs up to the goal. -/
theorem runSteps_of_rest {goal n : Nat} (hrest : atRest (getCore s c).seq = true) (hdue : (getCore s c).seq.due = none)
    (hle : clockOf s c ≤ goal) (hn : goal - clockOf s c ≤ n) :
    DrainsOnly s (runSteps run goal c n s) c ∧ clockOf (runSteps run goal c n s) c = goal := by
  induction n generalizing s with
  | zero => exact ⟨.refl s c, by rw [runSteps]; omega⟩
  | succ n ih =>
    unfold runSteps
    dsimp only
    split
    case isTrue h => exact ⟨.refl s c, Nat.le_antisymm hle h⟩
    case isFalse h =>
      have hlt : clockOf s c < goal := Nat.not_le.mp h
      obtain ⟨u, hu⟩ : ∃ u, (if (getCore s c).seq.cycle < nextBusy (getCore s c).seq run goal then
          modSeq s c fun q => { q with cycle := nextBusy (getCore s c).seq run goal } else idleCycle run s c) = u := ⟨_, rfl⟩
      have hstep : DrainsOnly s u c ∧ RunsIdle s u c ∧ clockOf s c < clockOf u c ∧ clockOf u c ≤ goal := by
        rw [← hu]
        split
        case isTrue hjump =>
          have hbusy : nextBusy (getCore s c).seq run goal ≤ goal := by
            unfold nextBusy
            split
            · exact foldl_min_le _ _
            · exact hle
          exact ⟨drainsOnly_modSeq fun _ => rfl, runsIdle_cycle hrest hdue _, by simpa [clockOf] using hjump, by simpa [clockOf] using hbusy⟩
        case isFalse =>
          obtain ⟨hdrain, hclock⟩ := idleCycle_of_rest (run := run) hrest hdue
          exact ⟨hdrain, runsIdle_idleCycle hrest hdue run, by omega, by omega⟩
      obtain ⟨hdrain, hidle, hmore, htop⟩ := hstep
      rw [hu]
      obtain ⟨hdrain', hgoal⟩ := ih hidle.rest hidle.due htop (by omega)
      exact ⟨hdrain.trans hdrain', hgoal⟩

theorem drainDue_mx_of_due (h : (getCore s c).seq.drainAt ≤ clockOf s c) {m : MxSlot} (hm : m.shState = 3)
    (hmx : (getCore s c).eng.mx = m ∨ (getCore s c).eng.mx = emptied m) : (getCore (drainDue s c) c).eng.mx = emptied m := by
  unfold drainDue
  rcases hmx with hmx | hmx
  · rw [if_pos ⟨by rw [hmx, hm], h⟩]
    simp [hmx, emptied]
  · rw [if_neg (by rw [hmx]; exact fun hand => absurd hand.1 (by simp [emptied]))]
    exact hmx

theorem drainDue_mem (s : State) (c : CoreId) : (drainDue s c).mem = s.mem := by
  unfold drainDue
  dsimp only
  split <;> rfl

/-- Settles O21: a completion runs the clock past its end, or takes the head from its queue and carries out its end. -/
theorem completionsTakeEffect : Obligations.CompletionsTakeEffect := by
  refine ⟨?timed, ?memory, ?ends, ?drain⟩
  case timed =>
    intro c s run q n hdev hn
    refine ⟨fun hq hk => ?_, fun hq => ?_, fun hq => ?_, fun hq hk => ?_⟩
    · rw [exec_matmulComplete, execMatmulComplete, if_pos hdev, runPast_of_head hq hn (by simp [hk])]
    · rw [exec_wloadComplete, execWloadComplete, if_pos hdev, runPast_of_head hq hn rfl]
    · rw [exec_vchainComplete, execVchainComplete, if_pos hdev, runPast_of_head hq hn rfl]
    · rw [exec_dmaComplete, execDmaComplete_of_timed hdev hq hk hn]
  case memory =>
    intro c s run q hdev honly hstarted hk hsend hask hrow hreads hframes took
    have hfinish := finishMemory_of_done honly hk hsend hask hrow hreads hframes
    have htook (i : Instr) (hi : exec i s = .next (finishMemory s c (queueOf q.kind) q)) : took i :=
      ⟨_, hi.trans (congrArg _ hfinish), idleQueues_dropEntry honly, rfl, dropEntry_eng _ _, fun d hd => getCore_setCore_ne _ _ _ _ hd⟩
    have hhead := runningHead_of_onlyEntry honly hstarted
    refine ⟨fun hdrain => htook _ ?_, fun hdma hpair => htook _ ?_⟩
    · rw [queueOf_of_adrain hdrain] at hhead ⊢
      rw [exec_adrainComplete, execAdrainComplete_of_head hdev hhead hdrain]
    · rw [hdma] at hhead ⊢
      rw [exec_dmaComplete, execDmaComplete_of_done hdev hhead hk hpair]
  case ends =>
    intro c s q x u b slot
    refine ⟨fun k => ?_, fun hk => ?_, fun hk => ?_, fun hk => ?_, fun hk => ?_⟩
    · refine (keepsQs_endEntry k).trans ((getQ_dropEntry ..).trans ?_)
      by_cases hk : k = queueOf q.kind
      · rw [if_pos hk, if_pos hk, hk]
      · rw [if_neg hk, if_neg hk]
    · exact completeEntry_eng_of_install (i := wloadTile q) fun s => by simp only [endEntry, hk]
    · exact completeEntry_eng_of_install (i := fretOf slot b) fun s => by simp only [endEntry, hk, mxConfigTable]; rfl
    · exact completeEntry_eng_of_install (i := codebookOf slot b) fun s => by simp only [endEntry, hk, mxConfigTable]; rfl
    · exact completeEntry_eng_of_install (i := decayOf slot b) fun s => by simp only [endEntry, hk, mxConfigTable]; rfl
  case drain =>
    intro c s run hdev hsh n
    refine ⟨?_, fun hrest hdue hle => ?_⟩
    · rw [exec_shadowDrainEnd, execShadowDrainEnd]
      exact if_pos ⟨hdev, hsh⟩
    · obtain ⟨hdrain, hgoal⟩ := runSteps_of_rest (run := run) (goal := n + 1) hrest hdue (by omega) (Nat.le_refl _)
      have hidle := runsIdle_runSteps run (n + 1) (n + 1 - clockOf s c) hrest hdue
      refine ⟨drainDue_cycle.trans hgoal, (drainDue_mem ..).trans hidle.elsewhere.mem, ?_⟩
      have hrun : runTo run s c (n + 1) = runSteps run (n + 1) c (n + 1 - clockOf s c) s := rfl
      rw [hrun]
      exact drainDue_mx_of_due (by rw [hdrain.drainAt]; exact Nat.le_trans (Nat.le_succ n) (Nat.le_of_eq hgoal.symm)) hsh hdrain.mx

end Sys2Proof.Machine
end

section
/-! PROOFS. SP_TASK and the firmware window (R111, R119), mailbox slots, MSI-X vectors and BAR2 (R299, R301 to R305, R309). -/

namespace Sys2Proof.Machine
open Sys2Proof

/-! ### SP_TASK and the firmware window -/

section
variable {s : State} {c : CoreId}

theorem exec_spTaskWrite {v : W64} : exec (.spTaskWrite c v) s = execSpTaskWrite c v s := rfl
theorem exec_firmwareWindowAccess {a : BitVec 20} {b : List Byte} {m : WinMode} :
    exec (.firmwareWindowAccess c a b m) s = execFirmwareWindowAccess c a b m s := rfl


theorem writeSpTask_of_ok {x : CoreSt} {v : W64} (h : spTaskOk x.drone.toNat (spTaskOf v) = true) :
    writeSpTask x v = { x with spTask := { spTaskOf v with cfgRej := x.spTask.cfgRej && !v.getLsbD 63 } } := by
  simp [writeSpTask, putSpTask, rangedWrite, rejFlag, w1cBit, h]

theorem writeSpTask_of_bad {x : CoreSt} {v : W64} (h : spTaskOk x.drone.toNat (spTaskOf v) = false) :
    writeSpTask x v = { x with spTask := { x.spTask with cfgRej := true } } := by
  simp [writeSpTask, putSpTask, rangedWrite, rejFlag, h]

theorem execFirmwareWindowAccess_of_idle {a : BitVec 20} {b : List Byte} {m : WinMode} (hrt : rtRuns s = true) (ht : taskRuns s c = false) :
    execFirmwareWindowAccess c a b m s = .next (applyWin s c ⟨a, b, m.write, m.corrected⟩) := by
  simp [execFirmwareWindowAccess, hrt, ht]

theorem execFirmwareWindowAccess_of_task {a : BitVec 20} {b : List Byte} {m : WinMode} (hrt : rtRuns s = true) (ht : taskRuns s c = true) :
    execFirmwareWindowAccess c a b m s =
      .next (modCore s c fun x => { x with winWait := x.winWait ++ [⟨a, b, m.write, m.corrected⟩] }) := by
  simp [execFirmwareWindowAccess, hrt, ht]

theorem logError_corrected (s : State) (i : ErrInfo) : (logError s i).tele.corrected = s.tele.corrected := by
  unfold logError
  split
  · rfl
  · dsimp only
    split
    · rfl
    · obtain ⟨F, hF⟩ := postEvent_frame { s with tele := _ } 0 evERROR _
      rw [hF]

/-- A corrected row counts once among the rows of the scratchpads. -/
theorem correctRow_counts (c : CoreId) (s : State) (r : SramRow) :
    tget 0 (correctRow c s r).tele.corrected 0 = tget 0 s.tele.corrected 0 + 1 := by
  have hcount : tget 0 (tmod 0 s.tele.corrected 0 (· + 1)) 0 = tget 0 s.tele.corrected 0 + 1 := tget_tput_self
  unfold correctRow
  dsimp only
  split
  · exact hcount
  · split
    · split
      · rw [logError_corrected]
        exact hcount
      · exact hcount
    · split <;> exact hcount

end

/-- Settles O32: R111's check decides a write of SP_TASK; an access through the window acts on the banks at once, or waits for the task. -/
theorem spTaskAndWindowAccessesComplete : Obligations.SpTaskAndWindowAccessesComplete := by
  refine ⟨fun c v s hrt htask => ?_, fun c a b s hrt _ => ⟨fun rows htask => ?_, fun htask => ?_, fun row htask hover => ?_, fun w rows htask => ?_⟩⟩
  · refine ⟨_, exec_spTaskWrite.trans (congrArg Host.Outcome.next (if_pos ⟨hrt, htask⟩)), sameElsewhere_setCore .., fun hok => ?_, fun hbad => ?_⟩
    · rw [modCore_eq, getCore_setCore, writeSpTask_of_ok hok]
    · rw [modCore_eq, getCore_setCore, writeSpTask_of_bad hbad]
  · refine ⟨_, exec_firmwareWindowAccess.trans (execFirmwareWindowAccess_of_idle hrt htask), sameElsewhere_setCore .., fun i hi => ?_, fun x hx => ?_⟩
    · simpa [applyWin] using Memory.rd_wrs_in hi
    · simpa [applyWin] using Memory.rd_wrs_out hx
  · exact exec_firmwareWindowAccess.trans (execFirmwareWindowAccess_of_idle hrt htask)
  · have hfilter : [row].filter (winTouches ⟨a, b, false, [row]⟩) = [row] := by simp [winTouches, hover]
    have happly : applyWin s c ⟨a, b, false, [row]⟩ = correctRow c s row := by simp [applyWin, hfilter]
    obtain ⟨T, M, U, F, hrow⟩ := correctRow_frame c s row
    refine ⟨_, exec_firmwareWindowAccess.trans ((execFirmwareWindowAccess_of_idle hrt htask).trans (congrArg _ happly)), ?_, ?_, correctRow_counts ..⟩
    · rw [hrow]
    · rw [hrow]
  · refine ⟨_, exec_firmwareWindowAccess.trans (execFirmwareWindowAccess_of_task hrt htask), ?_, ?_⟩ <;> simp

/-! ### Bytes of a mailbox slot -/

/-- Byte `i` of a number that stands little endian. -/
theorem leNat_byte {l : List Byte} {i : Nat} (h : i < l.length) : leNat l / 2 ^ (8 * i) % 2 ^ 8 = (l[i]).toNat := by
  induction l generalizing i with
  | nil => simp at h
  | cons b r ih =>
    have hb := b.isLt
    cases i with
    | zero => simp only [leNat, List.getElem_cons_zero, Nat.mul_zero, Nat.pow_zero, Nat.div_one]; omega
    | succ i =>
      have hdiv : leNat (b :: r) / 2 ^ (8 * (i + 1)) = leNat r / 2 ^ (8 * i) := by
        rw [show 8 * (i + 1) = 8 + 8 * i by omega, Nat.pow_add, ← Nat.div_div_eq_div_mul]
        congr 1
        simp only [leNat]
        omega
      rw [hdiv, List.getElem_cons_succ]
      exact ih (by simpa using h)

theorem leNat_lt (l : List Byte) : leNat l < 2 ^ (8 * l.length) := by
  induction l with
  | nil => simp [leNat]
  | cons b r ih =>
    have hb := b.isLt
    have hpow : 2 ^ (8 * (r.length + 1)) = 256 * 2 ^ (8 * r.length) := by rw [Nat.mul_succ, Nat.pow_add]; omega
    simp only [leNat, List.length_cons, hpow]
    omega

theorem leNat_lt_of_bits {l : List Byte} {n : Nat} (h : 8 * l.length = n) : leNat l < 2 ^ n := h ▸ leNat_lt l

theorem getElem_leBytes {n v i : Nat} (h : i < (leBytes n v).length) : ((leBytes n v)[i]).toNat = v / 2 ^ (8 * i) % 2 ^ 8 := by
  simp [leBytes, Nat.shiftRight_eq_div_pow]

section
variable {v : BitVec 512} {off : Nat} {b : List Byte} (hfit : off + b.length ≤ 64)
include hfit

theorem length_splice_slot : (splice (leBytes 64 v.toNat) off b).length = 64 := by
  simp [splice, length_leBytes]
  omega

/-- A patched slot read byte by byte: the new bytes where they lie, the old ones elsewhere. -/
theorem patchSlot_byte {i : Nat} (hi : i < 64) :
    (patchSlot v off b).toNat / 2 ^ (8 * i) % 2 ^ 8 =
      if h : off ≤ i ∧ i < off + b.length then (b[i - off]'(by omega)).toNat else v.toNat / 2 ^ (8 * i) % 2 ^ 8 := by
  have hlen := length_splice_slot (v := v) hfit
  have hlt : leNat (splice (leBytes 64 v.toNat) off b) < 2 ^ 512 := leNat_lt_of_bits (by rw [hlen])
  rw [patchSlot, BitVec.toNat_ofNat, Nat.mod_eq_of_lt hlt, leNat_byte (Nat.lt_of_lt_of_eq hi hlen.symm)]
  have hold := length_leBytes 64 v.toNat
  by_cases hlo : i < off
  · rw [dif_neg (by omega)]
    simp only [splice, List.append_assoc]
    rw [List.getElem_append_left (by simp; omega), List.getElem_take, getElem_leBytes]
  · by_cases hhi : i < off + b.length
    · rw [dif_pos ⟨by omega, hhi⟩]
      simp only [splice, List.append_assoc]
      rw [List.getElem_append_right (by simp; omega), List.getElem_append_left (by simp; omega)]
      simp [hold, show min off 64 = off by omega]
    · rw [dif_neg (by omega)]
      simp only [splice]
      rw [List.getElem_append_right (by simp; omega), List.getElem_drop, getElem_leBytes]
      simp [hold, show min off 64 = off by omega, show off + b.length + (i - (off + b.length)) = i by omega]

end

/-! ### Mailbox slots -/

section
variable {s : State} {f : Func}

theorem exec_mailboxSlotWrite {n off : BitVec 6} {b : List Byte} : exec (.mailboxSlotWrite f n off b) s = .next (writeSlot f n off b s) := rfl
theorem exec_outboundSlotReturn {n off : BitVec 6} {b : List Byte} : exec (.outboundSlotReturn f n off b) s = .next (returnSlot f n off b s) := rfl
theorem exec_mailboxSlotTake : exec (.mailboxSlotTake f) s = execMailboxSlotTake f s := rfl

theorem writeSlot_of_host {n off : BitVec 6} {b : List Byte} (hr : hostReaches s f = true) (h : (inSlot (getFn s f) n.toNat).getLsbD 0 = false) :
    writeSlot f n off b s = modFn s f fun x =>
      { x with inbound := tput 0 x.inbound n.toNat (patchSlot (inSlot (getFn s f) n.toNat) off.toNat b) } := by
  simp only [writeSlot, hr, h]
  rfl

theorem writeSlot_of_device {n off : BitVec 6} {b : List Byte} (hr : hostReaches s f = true) (h : (inSlot (getFn s f) n.toNat).getLsbD 0 = true) :
    writeSlot f n off b s = countBad s f := by
  simp [writeSlot, hr, h]

/-- A slot taken in sequence, of a listed opcode: the command waits for its row (R304, R315). -/
theorem takeSlot_of_listed (hseq : (inSlot (getFn s f) (getFn s f).inNext.toNat).extractLsb' 8 8 = (getFn s f).expect)
    (hop : ((inSlot (getFn s f) (getFn s f).inNext.toNat).extractLsb' 16 16).toNat ∈ opcodes) :
    getFn (takeSlot s f) f =
      let x := getFn s f
      let v := inSlot x x.inNext.toNat
      { x with inbound := tput 0 x.inbound x.inNext.toNat (v &&& ~~~(1#512)), inNext := x.inNext + 1, expect := x.expect + 1
               taken := x.taken ++ [takenOf v] } := by
  have hlisted : opcodes.contains (takenOf (inSlot (getFn s f) (getFn s f).inNext.toNat)).opcode.toNat = true := List.contains_iff_mem.2 hop
  simp only [takeSlot]
  rw [if_neg (by rw [hseq]; simp), if_neg (by rw [hlisted]; simp), modFn_eq, getFn_setFn, getFn_setFn, hseq]

theorem drainOut_of_empty {now : W64} {n : Nat} {x : Fn} (h : x.outQ = []) : drainOut now n x = x := by
  cases n with
  | zero => rfl
  | succ n => simp [drainOut, h]

theorem drainMsgs_of_empty (h : (getFn s f).outQ = []) : getFn (drainMsgs s f) f = getFn s f := by
  unfold drainMsgs
  split
  · rw [modFn_eq, getFn_setFn, drainOut_of_empty h]
  · rfl

/-- Bit 0 of a slot whose full bit is cleared. -/
theorem getLsbD_clearFull (v : BitVec 512) : (v &&& ~~~(1#512)).getLsbD 0 = false := by simp

theorem returnSlot_of_clear {n : BitVec 6} {b : Byte} {r : List Byte} (hr : hostReaches s f = true) (hb : b.getLsbD 0 = false) :
    returnSlot f n 0 (b :: r) s = drainMsgs (modFn s f fun x =>
      { x with outbound := tput 0 x.outbound n.toNat ((tget 0 x.outbound n.toNat) &&& ~~~(1#512)) }) f := by
  simp only [returnSlot, hr, hb, List.head?_cons]
  rfl

end

/-! ### MSI-X and BAR2 -/

section
variable {s : State}

theorem exec_msixHoldoffExpiry {f : Func} {v : VecNo} {dt : Nat} : exec (.msixHoldoffExpiry f v dt) s = execMsixHoldoffExpiry f v dt s := rfl
theorem exec_msixUnmask {f : Func} {v : VecNo} : exec (.msixUnmask f v) s = execMsixUnmask f v s := rfl
theorem exec_bar2Read {off : BitVec 36} {n : Nat} : exec (.bar2Read off n) s = execBar2Read off n s := rfl
theorem exec_bar2Write {off : BitVec 36} {b : List Byte} : exec (.bar2Write off b) s = execBar2Write off b s := rfl

@[simp] theorem getVec_setVec (x : Fn) (n : Nat) (y : Vec) : getVec (setVec x n y) n = y := tget_tput_self

theorem getFn_tick (s : State) (dt : Nat) (f : Func) : getFn (tick s dt) f = getFn s f := by
  obtain ⟨T, B, h⟩ := tick_frame s dt
  rw [h]
  rfl

section
variable {off : BitVec 36} (hr : hostReaches s 0 = true) (hd : devRuns s = true)
include hr hd

theorem execBar2Read_of_mapped {n a : Nat} (ha : bar2Addr s false off.toNat n = some a) :
    execBar2Read off n s = .next { s with cpl := some (Memory.rds s.mem a n) } := by
  simp only [execBar2Read, hr, hd, ha]
  rfl

theorem execBar2Read_of_unmapped {n : Nat} (ha : bar2Addr s false off.toNat n = none) :
    execBar2Read off n s = .next (countBad { s with cpl := none } 0) := by
  simp only [execBar2Read, hr, hd, ha]
  rfl

theorem execBar2Write_of_mapped {b : List Byte} {a : Nat} (ha : bar2Addr s true off.toNat b.length = some a) :
    execBar2Write off b s = .next { s with mem := Memory.wrs s.mem a b } := by
  simp only [execBar2Write, hr, hd, ha]
  rfl

theorem execBar2Write_of_unmapped {b : List Byte} (ha : bar2Addr s true off.toNat b.length = none) :
    execBar2Write off b s = .next (countBad s 0) := by
  simp only [execBar2Write, hr, hd, ha]
  rfl

end
end

/-- Settles O34: slots by their full bit (R303, R304), vectors by their mask and holdoff (R309), BAR2 by its aperture and grant (R299). -/
theorem hostInterfaceCommandsComplete : Obligations.HostInterfaceCommandsComplete := by
  refine ⟨fun f s => ⟨fun n off b hr hpos hfit => ⟨fun hown => ?_, fun hown => ?_⟩, ?_, fun n b r hr hb hq => ?_⟩, ?_,
    fun off s hr hd => ⟨fun n a ha => ?_, fun n ha => ?_, fun b a ha => ?_, fun b ha => ?_⟩⟩
  · have hslot : getFn (writeSlot f n off b s) f = { getFn s f with
        inbound := tput 0 (getFn s f).inbound n.toNat (patchSlot (inSlot (getFn s f) n.toNat) off.toNat b) } := by
      rw [writeSlot_of_host hr hown, modFn_eq, getFn_setFn]
    have hn : inSlot (getFn (writeSlot f n off b s) f) n.toNat = patchSlot (inSlot (getFn s f) n.toNat) off.toNat b := by
      rw [hslot]
      exact tget_tput_self
    refine ⟨_, exec_mailboxSlotWrite, fun i hi => ?_, fun i hi hout => ?_, fun m hm => ?_⟩
    · rw [hn, patchSlot_byte hfit (by omega), dif_pos ⟨by omega, by omega⟩]
      simp
    · rw [hn, patchSlot_byte hfit hi, dif_neg (by omega)]
    · rw [hslot]
      exact tget_tput_ne (toNat_ne hm)
  · refine ⟨_, exec_mailboxSlotWrite.trans (congrArg _ (writeSlot_of_device hr hown)), ?_⟩
    simp [countBad]
  · intro v hmay hseq hop
    refine ⟨_, exec_mailboxSlotTake.trans (congrArg Host.Outcome.next (if_pos hmay)), ?_⟩
    rw [takeSlot_of_listed hseq hop]
    refine ⟨rfl, rfl, rfl, ?_⟩
    simp only [inSlot, tget_tput_self]
    exact getLsbD_clearFull _
  · refine ⟨_, exec_outboundSlotReturn.trans (congrArg _ (returnSlot_of_clear hr hb)), ?_⟩
    rw [drainMsgs_of_empty (by simp [hq]), modFn_eq, getFn_setFn]
    simp only [tget_tput_self, and_true]
    exact getLsbD_clearFull _
  · intro f v s y
    refine ⟨fun dt t0 hd hfatal hfirst hover => ?_, fun hr hv => ?_⟩
    · have hfire : holdoffOver s f v dt = true := by
        have hf : (getVec (getFn s f) v.toNat).first = some t0 := hfirst
        simp only [holdoffOver, hf]
        exact decide_eq_true hover
      refine ⟨_, exec_msixHoldoffExpiry.trans (congrArg Host.Outcome.next (if_pos (by simp [hd, hostQuiet, hfatal, hfire]))), fun hm => ?_, fun hm => ?_⟩ <;>
      · rw [modFn_eq, getFn_setFn, getFn_tick, getVec_setVec]
        exact (show fireVec y = _ by simp [fireVec, hm])
    · refine ⟨_, exec_msixUnmask.trans (congrArg Host.Outcome.next (if_pos (by simp [hr, hv]))), fun hfatal hpend => ?_, fun hpend => ?_⟩
      · simp only [setMask, modFn_eq, getFn_setFn, getVec_setVec, hostQuiet]
        exact (show maskVec s.fatal y false = _ by simp [maskVec, hpend, hfatal])
      · simp only [setMask, modFn_eq, getFn_setFn, getVec_setVec, hostQuiet]
        exact (show maskVec s.fatal y false = _ by simp [maskVec, hpend])
  · exact exec_bar2Read.trans (execBar2Read_of_mapped hr hd ha)
  · refine ⟨_, exec_bar2Read.trans (execBar2Read_of_unmapped hr hd ha), rfl, rfl, ?_⟩
    simp only [countBad, modFn_eq, getFn_setFn]
    rfl
  · exact ⟨_, exec_bar2Write.trans (execBar2Write_of_mapped hr hd ha), fun i hi => Memory.rd_wrs_in hi, fun x hx => Memory.rd_wrs_out hx⟩
  · refine ⟨_, exec_bar2Write.trans (execBar2Write_of_unmapped hr hd ha), rfl, ?_⟩
    simp only [countBad, modFn_eq, getFn_setFn]

end Sys2Proof.Machine
end

section
/-! PROOFS. REGISTER_WRITE: ranges, W1C bits, read-only registers, and the registers of BAR0 and the device blocks (R8, R257, R297). -/

namespace Sys2Proof.Machine
open Sys2Proof

theorem exec_registerWrite {r : RegName} {v : W64} {s : State} : exec (.registerWrite r v) s = .next (writeReg s r v) := rfl

/-! ### Fields -/

/-- A field of a word, as a number. -/
theorem field_toNat (v : W64) (lo n : Nat) : (v.extractLsb' lo n).toNat = v.toNat / 2 ^ lo % 2 ^ n := by
  rw [BitVec.extractLsb'_toNat, Nat.shiftRight_eq_div_pow]

theorem rangedWrite_toNat {n : Nat} (ok : Bool) (cur new : BitVec n) : (rangedWrite ok cur new).toNat = if ok then new.toNat else cur.toNat := by
  unfold rangedWrite
  split <;> rfl

/-- A field that is not zero, by its number. -/
theorem field_ne_zero {n : Nat} {x : BitVec n} : x ≠ 0 ↔ x.toNat ≠ 0 := not_congr (BitVec.toNat_inj (y := 0)).symm

theorem fireDue_frame (x : Fn) : ∃ V, fireDue x = { x with vecs := V } := by
  unfold fireDue
  generalize x.vecs = l
  induction l generalizing x with
  | nil => exact ⟨_, rfl⟩
  | cons v r ih =>
    obtain ⟨V, hV⟩ := ih (if vecDue x (getVec x v.1) then setVec x v.1 (fireVec (getVec x v.1)) else x)
    refine ⟨V, ?_⟩
    rw [List.foldl_cons, hV]
    split <;> rfl

/-- Keys before and after a list that was put keep their values. -/
theorem tget_tputs_out {α : Type} [DecidableEq α] {d : α} {l : List α} {t : Tbl α} {a x : Nat} (h : x < a ∨ a + l.length ≤ x) :
    tget d (tputs d t a l) x = tget d t x := by
  induction l generalizing t a with
  | nil => rfl
  | cons b r ih =>
    rw [List.length_cons] at h
    exact (ih (by omega)).trans (tget_tput_ne (by omega))

/-- A table holds a list that was put from a key on. -/
theorem tget_tputs_in {α : Type} [DecidableEq α] {d : α} {l : List α} {t : Tbl α} {a i : Nat} (h : i < l.length) :
    tget d (tputs d t a l) (a + i) = l[i] := by
  induction l generalizing t a i with
  | nil => simp at h
  | cons b r ih =>
    cases i with
    | zero => exact (tget_tputs_out (.inl (Nat.lt_succ_self a))).trans tget_tput_self
    | succ i =>
      rw [show a + (i + 1) = a + 1 + i by omega, List.getElem_cons_succ]
      exact ih (by simpa using h)

/-- Words of a register after one of them is replaced. -/
theorem extract_putWord {r : BitVec 512} {v : W64} {i j : Nat} (hj : j < 8) :
    (putWord r i v).extractLsb' (64 * j) 64 = if j = i then v else r.extractLsb' (64 * j) 64 := by
  apply BitVec.eq_of_getLsbD_eq
  intro k hk
  have hin : 64 * j + k < 512 := by omega
  have hones (m : Nat) : (BitVec.ofNat 512 (2 ^ 64 - 1)).getLsbD m = decide (m < 64) := by
    rw [BitVec.getLsbD_ofNat, Nat.testBit_two_pow_sub_one]
    by_cases hm : m < 64
    · simp [hm]
      omega
    · simp [hm]
  rw [BitVec.getLsbD_extractLsb', putWord]
  simp only [BitVec.getLsbD_or, BitVec.getLsbD_and, BitVec.getLsbD_not, BitVec.getLsbD_shiftLeft, hones, BitVec.getLsbD_setWidth, hin, hk,
    decide_true, Bool.true_and]
  by_cases hij : j = i
  · subst hij
    simp [show 64 * j + k - 64 * j = k by omega, show ¬64 * j + k < 64 * j by omega, hk, show k < 512 by omega]
  · rw [if_neg hij, BitVec.getLsbD_extractLsb']
    simp only [hk, decide_true, Bool.true_and]
    rcases Nat.lt_or_gt_of_ne hij with hlt | hgt
    · simp [show 64 * j + k < 64 * i by omega]
    · have hout : ¬ 64 * j + k - 64 * i < 64 := by omega
      have hv : v.getLsbD (64 * j + k - 64 * i) = false := BitVec.getLsbD_of_ge _ _ (by omega)
      simp [hout, hv]

theorem portsDown_of {s : State} (h : ∀ n : PortNo, (getPort s n).up = false) : portsDown s = true := by
  simp [portsDown, h]

/-! ### Where words lie -/

theorem hostPlace_irqMod {s : State} {f : Func} (hf : f ≠ 0) : placeOf s (.hostAt f 0x402) = .reg (.mbIrqMod f) := by
  exact (if_pos hf).trans rfl

theorem hostPlace_beyond {s : State} {f : Func} {w : BitVec 21} (hf : f ≠ 0) (hw : 0x2000 ≤ w.toNat) : placeOf s (.hostAt f w) = .unlisted := by
  have hout : ¬ 8 * w.toNat < 0x10000 := by omega
  exact (if_pos hf).trans (if_neg hout)

theorem devicePlace_brCfg {s : State} : placeOf s (.deviceAt (BitVec.ofNat 45 (0xFE0000030000 / 8))) = .reg .brCfg := by
  simp [placeOf, devicePlace]

/-! ### The rules of single registers -/

section
variable {s : State} {v : W64}

theorem writeReg_mbIrqMod {f : Func} : writeReg s (.mbIrqMod f) v =
    if hostReaches s f then modFn s f fun x => (if devRuns s && !hostQuiet s then fireDue (writeIrqMod x v) else writeIrqMod x v) else s := rfl

theorem writeReg_mbStat {f : Func} : writeReg s (.mbStat f) v = if hostReaches s f then modFn s f fun x => writeMbStat x v else s := rfl

theorem writeReg_msixMask {f : Func} {n : VecNo} :
    writeReg s (.msixMask f n) v = if hostReaches s f && vecOk f n then setMask s f n (v.getLsbD 0) else s := rfl

theorem writeReg_spConflict {c : CoreId} : writeReg s (.spConflict c) v =
    if rtRuns s then modCore s c fun x => { x with conflict := { x.conflict with valid := w1cBit x.conflict.valid (v.getLsbD 0) } } else s := rfl

theorem writeReg_qzPeg {c : CoreId} {n : BitVec 3} : writeReg s (.qzPeg c n) v =
    if rtRuns s && !taskRuns s c then
      modEng s c fun e => { e with peg := tputs 0 e.peg (8 * n.toNat) ((List.range 8).map fun i => v.extractLsb' (8 * i) 8) }
    else s := rfl

theorem writeReg_bwJobKey {c : CoreId} :
    writeReg s (.bwJobKey c) v = if rtRuns s && !taskRuns s c then modCore s c fun x => { x with bwKey := v } else s := rfl

theorem writeReg_bwJobStep {c : CoreId} :
    writeReg s (.bwJobStep c) v = if rtRuns s && !taskRuns s c then modCore s c fun x => { x with bwStep := v.extractLsb' 0 28 } else s := rfl

theorem writeReg_sbNonfinite : writeReg s .sbNonfinite v =
    if rtRuns s then { s with sbtm := { s.sbtm with nonfinite := w1c s.sbtm.nonfinite (v.setWidth 32) } } else s := rfl

theorem writeReg_sbClip :
    writeReg s .sbClip v = if rtRuns s then { s with sbtm := { s.sbtm with clip := w1c s.sbtm.clip (v.setWidth 32) } } else s := rfl

theorem writeReg_brCfg : writeReg s .brCfg v = if rtRuns s && portsDown s then { s with br := writeBrCfg s.br v } else s := rfl
theorem writeReg_pwCap : writeReg s .pwCap v = if rtRuns s then { s with pw := writeCap s.pw v } else s := rfl
theorem writeReg_pwCtl : writeReg s .pwCtl v = if rtRuns s then { s with pw := writePwCtl s.pw v } else s := rfl
theorem writeReg_smFatal {i : BitVec 3} : writeReg s (.smFatal i) v = writeFatal i v s := rfl
theorem writeReg_smReq : writeReg s .smReq v = writeSmReq v s := rfl

/-- Two names of one register. -/
theorem writeReg_of_place {r q : RegName} (h : placeOf s r = .reg q) (hq : placeOf s q = .reg q) : writeReg s r v = writeReg s q v := by
  rw [writeReg, writeReg, h, hq]

theorem writeIrqMod_toNat (x : Fn) :
    let ok := v.toNat % 2 ^ 10 ≤ 1000 ∧ 1 ≤ v.toNat / 2 ^ 12 % 2 ^ 10 ∧ v.toNat / 2 ^ 12 % 2 ^ 10 ≤ 512
    (writeIrqMod x v).holdoff.toNat = (if ok then v.toNat % 2 ^ 10 else x.holdoff.toNat) ∧
    (writeIrqMod x v).count.toNat = (if ok then v.toNat / 2 ^ 12 % 2 ^ 10 else x.count.toNat) := by
  simp only [writeIrqMod, rangedWrite_toNat, field_toNat, Nat.pow_zero, Nat.div_one, Bool.and_eq_true, decide_eq_true_eq, and_assoc, and_self]

/-- MB_IRQ_MOD as the host wrote it, its vectors apart. -/
theorem getFn_writeIrqMod {f : Func} (hr : hostReaches s f = true) :
    ∃ V, getFn (writeReg s (.mbIrqMod f) v) f = { writeIrqMod (getFn s f) v with vecs := V } := by
  rw [writeReg_mbIrqMod, if_pos hr, modFn_eq, getFn_setFn]
  split
  · exact fireDue_frame _
  · exact ⟨_, rfl⟩

theorem writeCap_of_ok {x : PwSt} (h : 250 ≤ v.toNat % 2 ^ 16 ∧ v.toNat % 2 ^ 16 ≤ 500 ∧ 5 ≤ v.toNat / 2 ^ 16 % 2 ^ 6 ∧ v.toNat / 2 ^ 16 % 2 ^ 6 ≤ 50) :
    (writeCap x v).capWatts.toNat = v.toNat % 2 ^ 16 ∧ (writeCap x v).capHyst.toNat = v.toNat / 2 ^ 16 % 2 ^ 6 := by
  simp only [writeCap, rangedWrite_toNat, field_toNat, Nat.pow_zero, Nat.div_one, h, decide_true, Bool.and_self, if_true, and_self]

theorem writeCap_of_bad {x : PwSt}
    (h : ¬(250 ≤ v.toNat % 2 ^ 16 ∧ v.toNat % 2 ^ 16 ≤ 500 ∧ 5 ≤ v.toNat / 2 ^ 16 % 2 ^ 6 ∧ v.toNat / 2 ^ 16 % 2 ^ 6 ≤ 50)) : writeCap x v = x := by
  have hok : (decide (250 ≤ (v.extractLsb' 0 16).toNat) && decide ((v.extractLsb' 0 16).toNat ≤ 500) &&
      decide (5 ≤ (v.extractLsb' 16 6).toNat) && decide ((v.extractLsb' 16 6).toNat ≤ 50)) = false := by
    rw [← Bool.not_eq_true]
    simpa only [field_toNat, Nat.pow_zero, Nat.div_one, Bool.and_eq_true, decide_eq_true_eq, and_assoc] using h
  simp only [writeCap, hok, rangedWrite]
  rfl

theorem writePwCtl_toNat {x : PwSt} :
    (writePwCtl x v).c2Delay.toNat = if v.toNat % 2 ^ 14 ≤ 10000 then v.toNat % 2 ^ 14 else x.c2Delay.toNat := by
  simp only [writePwCtl, rangedWrite_toNat, field_toNat, Nat.pow_zero, Nat.div_one, decide_eq_true_eq]

theorem writeBrCfg_toNat {x : BrSt} :
    (writeBrCfg x v).ethertype.toNat = v.toNat % 2 ^ 16 ∧
    (writeBrCfg x v).retryUs.toNat = (if v.toNat / 2 ^ 16 % 2 ^ 8 = 0 then x.retryUs.toNat else v.toNat / 2 ^ 16 % 2 ^ 8) ∧
    (writeBrCfg x v).retryMax.toNat = (if v.toNat / 2 ^ 24 % 2 ^ 8 = 0 then x.retryMax.toNat else v.toNat / 2 ^ 24 % 2 ^ 8) := by
  simp only [writeBrCfg, rangedWrite_toNat, field_toNat, Nat.pow_zero, Nat.div_one, decide_eq_true_eq, field_ne_zero, ite_not, and_self]

/-- The bytes of QZ_PEG. -/
theorem peg_bytes {t : Tbl Byte} {n i : Nat} (hi : i < 8) :
    (tget 0 (tputs 0 t (8 * n) ((List.range 8).map fun k => v.extractLsb' (8 * k) 8)) (8 * n + i)).toNat = v.toNat / 2 ^ (8 * i) % 2 ^ 8 := by
  rw [tget_tputs_in (by simpa using hi), List.getElem_map, List.getElem_range, field_toNat]

theorem writeSmReq_of_busy (hm : monServes s = true) (hb : s.mon.reqBusy = true) :
    writeSmReq v s = { s with mon := { s.mon with reqStatus := rqBUSY } } := by
  simp [writeSmReq, hm, hb]

theorem writeSmReq_of_free (hm : monServes s = true) (hb : s.mon.reqBusy = false) :
    writeSmReq v s = { s with mon := { s.mon with
      reqOp := v.extractLsb' 0 4
      reqBusy := decide (1 ≤ (v.extractLsb' 0 4).toNat) && decide ((v.extractLsb' 0 4).toNat ≤ 4) } } := by
  simp [writeSmReq, hm, hb]

end

/-- Settles O33: a write is the register's own rule where its agent reaches it, and the words of BAR0 and of the device blocks are those registers. -/
theorem registerWritesComplete : Obligations.RegisterWritesComplete := by
  intro v s
  have hexec (r : RegName) {P : State → Prop} (h : P (writeReg s r v)) : ∃ t, exec (.registerWrite r v) s = .next t ∧ P t :=
    ⟨_, exec_registerWrite, h⟩
  refine ⟨fun f hr => ⟨hexec _ ?_, hexec _ ?_, fun n hn hv => hexec _ ?_⟩, fun hrt => ⟨fun c => hexec _ ?_, fun c htask => ⟨hexec _ ?_, hexec _ ?_,
    fun n => hexec _ ?_⟩, ?_, ?_, hexec _ ⟨fun h1 h2 h3 h4 => ?_, fun hbad => ?_⟩, hexec _ ?_, fun hports => hexec _ ?_⟩,
    fun hr i => hexec _ ⟨?_, fun j => ?_⟩, fun hm => ⟨fun hb => ?_, fun hb => hexec _ ?_⟩, fun f hf => ⟨?_, fun w hw => ?_⟩, ?_, rfl⟩
  case refine_1 =>
    obtain ⟨V, hV⟩ := getFn_writeIrqMod (v := v) hr
    rw [hV]
    exact writeIrqMod_toNat _
  case refine_2 => simp [writeReg_mbStat, hr, writeMbStat, w1cBit]
  case refine_3 =>
    rw [writeReg_msixMask, if_pos (by simp [hr, hn]), hv, setMask, modFn_eq, getFn_setFn, getVec_setVec]
    rfl
  case refine_4 => simp [writeReg_spConflict, hrt, w1cBit]
  case refine_5 => simp [writeReg_bwJobKey, hrt, htask]
  case refine_6 =>
    rw [writeReg_bwJobStep, if_pos (by simp [hrt, htask]), modCore_eq, getCore_setCore]
    exact (field_toNat v 0 28).trans (by simp)
  case refine_7 =>
    rw [writeReg_qzPeg, if_pos (by simp [hrt, htask]), modEng_eq, modCore_eq, getCore_setCore]
    exact fun i hi => peg_bytes hi
  case refine_8 => rw [exec_registerWrite, writeReg_sbNonfinite, if_pos hrt]; rfl
  case refine_9 => rw [exec_registerWrite, writeReg_sbClip, if_pos hrt]; rfl
  case refine_10 =>
    rw [writeReg_pwCap, if_pos hrt]
    exact writeCap_of_ok ⟨h1, h2, h3, h4⟩
  case refine_11 =>
    rw [writeReg_pwCap, if_pos hrt]
    exact writeCap_of_bad hbad
  case refine_12 =>
    rw [writeReg_pwCtl, if_pos hrt]
    exact writePwCtl_toNat
  case refine_13 =>
    rw [writeReg_brCfg, if_pos (by simp [hrt, portsDown_of hports])]
    obtain ⟨he, hu, hm⟩ := writeBrCfg_toNat (v := v) (x := s.br)
    exact ⟨he, hu, hm, rfl⟩
  case refine_14 => rw [writeReg_smFatal, writeFatal, if_pos hr]
  case refine_15 =>
    rw [writeReg_smFatal, writeFatal, if_pos hr]
    refine (extract_putWord j.isLt).trans ?_
    simp only [BitVec.toNat_inj]
  case refine_16 => rw [exec_registerWrite, writeReg_smReq, writeSmReq_of_busy hm hb]
  case refine_17 =>
    rw [writeReg_smReq, writeSmReq_of_free hm hb]
    have hop : (v.extractLsb' 0 4).toNat = v.toNat % 16 := by
      have hfield := field_toNat v 0 4
      omega
    refine ⟨hop, ?_⟩
    dsimp only
    rw [hop, Bool.and_eq_true, decide_eq_true_eq, decide_eq_true_eq]
  case refine_18 => rw [exec_registerWrite, exec_registerWrite, writeReg_of_place (hostPlace_irqMod hf) rfl]
  case refine_19 => rw [exec_registerWrite, writeReg, hostPlace_beyond hf hw, writePlace]
  case refine_20 => rw [exec_registerWrite, exec_registerWrite, writeReg_of_place devicePlace_brCfg rfl]

end Sys2Proof.Machine
end

section
/-! PROOFS. What the proofs of the firmware commands share: the command that is served, and its checks (R314 to R316). -/

namespace Sys2Proof.Machine
open Sys2Proof

section
variable {s : State} {f : Func} {k : Taken} {op : Nat}

theorem headCmd_of_serves (h : Serves f op k s) : headCmd s f op = some k := by
  obtain ⟨hrt, hready, hfront, hop⟩ := h
  obtain ⟨r, hr⟩ := List.head?_eq_some_iff.1 hfront
  simp [headCmd, hr, hrt, hready, hop]

/-- The served command runs on the state of its row's end, taken off its queue. -/
theorem runCmd_of_serves (h : Serves f op k s) (dt : Nat) (body : Taken → State → Option State) :
    runCmd f op dt s body = .next ((body k (servedIn s f dt)).getD s) := by
  rw [runCmd, headCmd_of_serves h]
  rfl

/-- A served command whose body has an outcome. -/
theorem runCmd_of_body (h : Serves f op k s) {dt : Nat} {body : Taken → State → Option State} {t : State}
    (hb : body k (servedIn s f dt) = some t) : runCmd f op dt s body = .next t := by
  rw [runCmd_of_serves h, hb]
  rfl

@[simp] theorem passes_nil : Passes [] := fun _ h => absurd h (List.not_mem_nil)

@[simp] theorem passes_cons {b : Bool} {st : BitVec 16} {l : List (Bool × BitVec 16)} : Passes ((b, st) :: l) ↔ b = false ∧ Passes l := by
  simp [Passes]

@[simp] theorem passes_append {l m : List (Bool × BitVec 16)} : Passes (l ++ m) ↔ Passes l ∧ Passes m := by
  simp [Passes, or_imp, forall_and]

/-- LEVEL passes an expert's command (R316). -/
theorem passes_levelExpert (h : isExpert s f = true) : Passes (levelChecks s f true false) := by simp [levelChecks, h]

/-- LEVEL and PF_ONLY pass the physical function's command (R316). -/
theorem passes_levelPf (h : f = 0) : Passes (levelChecks s f true true) := by
  subst h
  simp [levelChecks, isExpert]

/-- Carried out where every check passes. -/
theorem checked_some {u t : State} {l : List (Bool × BitVec 16)} {go : Option State} (h : Passes l) (hgo : go = some t) : checked u f k l go = some t :=
  (checked_of_passes go h).trans hgo

/-- The state in which a command is served has everything but the time, the bridge's clock and the taken commands from the state before. -/
theorem servedIn_frame (s : State) (f : Func) (dt : Nat) : ∃ T B F, servedIn s f dt = { s with time := T, br := B, funcs := F } := by
  obtain ⟨T, B, h⟩ := tick_frame s dt
  exact ⟨T, B, _, congrArg (fun t => dropCmd t f) h⟩

section
variable (s : State) (f : Func) (dt : Nat)
@[simp] theorem servedIn_mem : (servedIn s f dt).mem = s.mem := by
  obtain ⟨T, B, F, h⟩ := servedIn_frame s f dt
  rw [h]
@[simp] theorem servedIn_mon : (servedIn s f dt).mon = s.mon := by
  obtain ⟨T, B, F, h⟩ := servedIn_frame s f dt
  rw [h]
@[simp] theorem servedIn_streams : (servedIn s f dt).streams = s.streams := by
  obtain ⟨T, B, F, h⟩ := servedIn_frame s f dt
  rw [h]
@[simp] theorem servedIn_models : (servedIn s f dt).models = s.models := by
  obtain ⟨T, B, F, h⟩ := servedIn_frame s f dt
  rw [h]
@[simp] theorem servedIn_parts : (servedIn s f dt).parts = s.parts := by
  obtain ⟨T, B, F, h⟩ := servedIn_frame s f dt
  rw [h]
@[simp] theorem servedIn_cores : (servedIn s f dt).cores = s.cores := by
  obtain ⟨T, B, F, h⟩ := servedIn_frame s f dt
  rw [h]
@[simp] theorem servedIn_mig : (servedIn s f dt).mig = s.mig := by
  obtain ⟨T, B, F, h⟩ := servedIn_frame s f dt
  rw [h]
@[simp] theorem servedIn_fuses : (servedIn s f dt).fuses = s.fuses := by
  obtain ⟨T, B, F, h⟩ := servedIn_frame s f dt
  rw [h]
@[simp] theorem servedIn_pw : (servedIn s f dt).pw = s.pw := by
  obtain ⟨T, B, F, h⟩ := servedIn_frame s f dt
  rw [h]
@[simp] theorem servedIn_profiles : (servedIn s f dt).profiles = s.profiles := by
  obtain ⟨T, B, F, h⟩ := servedIn_frame s f dt
  rw [h]
@[simp] theorem servedIn_regions : (servedIn s f dt).regions = s.regions := by
  obtain ⟨T, B, F, h⟩ := servedIn_frame s f dt
  rw [h]
@[simp] theorem servedIn_inProgress : (servedIn s f dt).inProgress = s.inProgress := by
  obtain ⟨T, B, F, h⟩ := servedIn_frame s f dt
  rw [h]
@[simp] theorem servedIn_fatal : (servedIn s f dt).fatal = s.fatal := by
  obtain ⟨T, B, F, h⟩ := servedIn_frame s f dt
  rw [h]
end

end

end Sys2Proof.Machine
end

section
/-! PROOFS. `status.get`, `account.get` and the settings by command (R323, R324, R333, R334). -/

namespace Sys2Proof.Machine
open Sys2Proof

section
variable {s : State} {f : Func} {k : Taken} {dt : Nat}

theorem exec_statusGet : exec (.statusGet f dt) s = execStatusGet f dt s := rfl
theorem exec_accountGet : exec (.accountGet f dt) s = execAccountGet f dt s := rfl
theorem exec_powerCap : exec (.powerCap f dt) s = execPowerCap f dt s := rfl
theorem exec_bar2Map : exec (.bar2Map f dt) s = execBar2Map f dt s := rfl
theorem exec_functionConfig : exec (.functionConfig f dt) s = execFunctionConfig f dt s := rfl
theorem exec_traceStart : exec (.traceStart f dt) s = execTraceStart f dt s := rfl
theorem exec_traceStop : exec (.traceStop f dt) s = execTraceStop f dt s := rfl
theorem exec_schedSlice : exec (.schedSlice f dt) s = execSchedSlice f dt s := rfl
theorem exec_quantPolicy : exec (.quantPolicy f dt) s = execQuantPolicy f dt s := rfl

/-- Closing an idle span changes a partition's and a function's account only. -/
theorem closeIdle_frame (s : State) (p : PartId) : ∃ P T, closeIdle s p = { s with parts := P, tele := T } := by
  unfold closeIdle
  dsimp only
  split
  · exact ⟨_, _, rfl⟩
  · exact ⟨_, _, rfl⟩

theorem closeIdles_frame (g : Func) (l : List PartId) (s : State) :
    ∃ P T, forAll l (fun s p => if (getPart s p).owner = g then closeIdle s p else s) s = { s with parts := P, tele := T } := by
  unfold forAll
  induction l generalizing s with
  | nil => exact ⟨_, _, rfl⟩
  | cons p l ih =>
    obtain ⟨P, T, h⟩ := ih (if (getPart s p).owner = g then closeIdle s p else s)
    obtain ⟨P', T', h'⟩ := closeIdle_frame s p
    refine ⟨P, T, ?_⟩
    rw [List.foldl_cons, h]
    split
    · rw [h']
    · rfl

/-- The checks of `status.get`: pages 1 and 2 are the physical function's, and page 1 is the one that clears. -/
theorem passes_statusGet {page : Nat} (hargs : argsBad k 2 [(7, 0), (8, 8)] = false) (hle : page ≤ 2) (hpf : page = 0 ∨ f = 0)
    (hclear : argB k 8 = false ∨ page = 1) :
    Passes [(decide (f ≠ 0) && (decide (page = 1) || decide (page = 2)), stPF_ONLY),
      (argsBad k 2 [(7, 0), (8, 8)] || decide (2 < page) || (argB k 8 && decide (page ≠ 1)), stMALFORMED)] := by
  refine passes_cons.2 ⟨?_, passes_cons.2 ⟨?_, passes_nil⟩⟩
  · rcases hpf with rfl | rfl
    · simp
    · rfl
  · rcases hclear with hc | rfl
    · simp [hargs, hle, hc]
    · simp [hargs]

theorem execStatusGet_of_passes (h : Serves f 0x0120 k s) (hargs : argsBad k 2 [(7, 0), (8, 8)] = false) (hle : argF k 7 0 ≤ 2)
    (hpf : argF k 7 0 = 0 ∨ f = 0) (hclear : argB k 8 = false ∨ argF k 7 0 = 1) {t : State}
    (ht : (match argF k 7 0 with
      | 0 => okCmd (servedIn s f dt) f k (statusPage0 (servedIn s f dt) f)
      | 1 => okCmd (if argB k 8 then clearSb (servedIn s f dt) else servedIn s f dt) f k (statusPage1 (servedIn s f dt))
      | _ => okCmd (servedIn s f dt) f k (statusPage2 (servedIn s f dt))) = t) : execStatusGet f dt s = .next t :=
  runCmd_of_body h (checked_some (passes_statusGet hargs hle hpf hclear) (congrArg some ht))

/-- The account that is asked, the physical function's or one's own. -/
theorem passes_accountGet {dev : Bool} {g : Func} (hargs : argsBad k 9 [(63, 0), (68, 64), (69, 69)] = false) (halign : argF k 63 0 % 128 = 0)
    (hpf : f = 0 ∨ dev = false ∧ g = f) :
    Passes [(decide (f ≠ 0) && (dev || decide (g ≠ f)), stPF_ONLY),
      (argsBad k 9 [(63, 0), (68, 64), (69, 69)] || decide (argF k 63 0 % 128 ≠ 0), stMALFORMED)] := by
  refine passes_cons.2 ⟨?_, passes_cons.2 ⟨?_, passes_nil⟩⟩
  · rcases hpf with rfl | ⟨rfl, rfl⟩
    · rfl
    · simp
  · simp [hargs, halign]

end

/-- Settles O35: each command passes its checks (R314 to R316), and its answer and what it writes are those of its body. -/
theorem statusAndSettingsCommandsComplete : Obligations.StatusAndSettingsCommandsComplete := by
  refine ⟨fun f k dt s => ?_, fun f k dt s => ?_⟩
  · intro u
    refine ⟨fun h hargs => ⟨fun hpage hclear => ?_, fun hpage hf => ?_, fun hpage hclear hf => ?_⟩, fun h hargs halign => ⟨fun hf hdev => ?_, fun hf hdev => ?_⟩⟩
    · exact exec_statusGet.trans (execStatusGet_of_passes h hargs (by omega) (.inl hpage) (.inl hclear) (by rw [hpage]; rfl))
    · exact exec_statusGet.trans (execStatusGet_of_passes h hargs (by omega) (.inr hf) (.inr hpage) (by rw [hpage]; rfl))
    · exact exec_statusGet.trans (execStatusGet_of_passes h hargs (by omega) (.inr hf) (.inl hclear) (by rw [hpage]; rfl))
    · refine exec_accountGet.trans (runCmd_of_body h (checked_some (passes_accountGet hargs halign (.inl hf)) ?_))
      rw [hdev]
      rfl
    · obtain ⟨P, T, hv⟩ := closeIdles_frame (argFn k 68 64) allParts u
      refine ⟨forAll allParts (fun s p => if (getPart s p).owner = argFn k 68 64 then closeIdle s p else s) u, ?_, ?_, ?_⟩
      · obtain ⟨_, _, _, hu⟩ := servedIn_frame s f dt
        rw [hv]
        exact (congrArg State.mem hu :)
      · obtain ⟨_, _, _, hu⟩ := servedIn_frame s f dt
        rw [hv]
        exact (congrArg State.streams hu :)
      · refine exec_accountGet.trans (runCmd_of_body h (checked_some (passes_accountGet hargs halign (hf.imp_right fun hg => ⟨hdev, hg⟩)) ?_))
        simp only [hdev, Bool.false_eq_true, if_false]
        rfl
  · intro u
    refine ⟨fun h hf hargs hlo hhi => ?_, fun h hf hargs => ⟨fun hun => ?_, fun hmap halign hlt hbusy hpart => ?_⟩,
      fun h hexp hpf hbad hen hready => ?_, fun h hexp hbad hbusy hpart => ?_, fun h hexp hargs hbusy hpart => ?_, fun h hexp hbad hbusy => ?_,
      fun y h hexp hargs => ?_⟩
    · refine exec_powerCap.trans (runCmd_of_body h (checked_some ?_ rfl))
      exact passes_append.2 ⟨passes_levelPf hf, by simp [hargs, hlo, hhi]⟩
    · refine exec_bar2Map.trans (runCmd_of_body h (checked_some ?_ (if_pos hun)))
      exact passes_append.2 ⟨passes_levelPf hf, by simp [hargs, hun]⟩
    · refine exec_bar2Map.trans (runCmd_of_body h (checked_some ?_ ((if_neg (by simp [hmap])).trans (checked_some (passes_cons.2 ⟨hbusy, hpart⟩) rfl))))
      exact passes_append.2 ⟨passes_levelPf hf, by simp only [hargs, hmap, halign, Nat.not_le.2 hlt]; simp⟩
    · refine exec_functionConfig.trans (runCmd_of_body h (checked_some ?_ rfl))
      have hown : (decide (f ≠ 0) && (decide (argFn k 4 0 ≠ f) || argB k 8)) = false := by
        rcases hpf with rfl | ⟨hg, h8⟩
        · rfl
        · simp [hg, h8]
      have hstate : (!((decide (argFn k 4 0 = 0) || (getFn u (argFn k 4 0)).enabled) && (getFn u (argFn k 4 0)).ready)) = false := by
        rcases hen with h0 | he
        · rw [hready, h0]
          rfl
        · simp [hready, he]
      exact passes_cons.2 ⟨congrArg not hexp, passes_cons.2 ⟨hown, passes_cons.2 ⟨hbad, passes_cons.2 ⟨hstate, passes_nil⟩⟩⟩⟩
    · refine exec_traceStart.trans (runCmd_of_body h (checked_some ?_ rfl))
      exact passes_append.2 ⟨passes_append.2 ⟨passes_levelExpert hexp, by simp [hbad]; exact hbusy⟩, hpart⟩
    · refine exec_traceStop.trans (runCmd_of_body h (checked_some ?_ rfl))
      exact passes_append.2 ⟨passes_append.2 ⟨passes_levelExpert hexp, by simp [hargs]; exact hbusy⟩, hpart⟩
    · intro j hjob hpart
      have hpass : (decide (j ≠ 0) && (findJob (getPart u (argPart k 4 0)) j).isNone) = false →
          exec (.schedSlice f dt) s = .next (okCmd (setSlice u k (argPart k 4 0) j) f k 0) := fun hj =>
        exec_schedSlice.trans (runCmd_of_body h (checked_some (passes_append.2 ⟨passes_append.2 ⟨passes_append.2
          ⟨passes_levelExpert hexp, passes_cons.2 ⟨hbad, passes_cons.2 ⟨by rw [hbusy, hjob]; rfl, passes_nil⟩⟩⟩, hpart⟩,
          passes_cons.2 ⟨hj, passes_nil⟩⟩) rfl))
      refine ⟨fun hj hfound => ?_, fun hj => ⟨_, hpass (by simp [hj]), ?_⟩⟩
      · rw [hpass (by rw [Option.isNone_eq_false_iff.2 hfound, Bool.and_false]), setSlice, if_pos hj]
      · rw [setSlice, if_neg (not_not_intro hj), modPart_eq, getPart_setPart]
        exact ⟨rfl, rfl, rfl⟩
    · intro m c hy hok hbusy howner htwo
      refine exec_quantPolicy.trans (runCmd_of_body h (checked_some (passes_append.2 ⟨passes_levelExpert hexp, passes_cons.2 ⟨hargs, passes_nil⟩⟩) ?_))
      have hvariant : (decide (c.mode = 2) && !(y.decl.variants.any fun v => v.twoPass)) = false := by
        by_cases hm : c.mode = 2
        · rw [List.any_eq_true.2 (htwo hm)]
          simp
        · rw [decide_eq_false hm, Bool.false_and]
      have hm : getModel (servedIn s f dt) (BitVec.ofNat 6 (argF k 5 0)) = some y := hy
      simp only [hm]
      exact checked_some (passes_cons.2 ⟨congrArg not hok, passes_cons.2 ⟨hbusy, passes_cons.2 ⟨by simp [howner], passes_cons.2 ⟨hvariant, passes_nil⟩⟩⟩⟩) rfl

end Sys2Proof.Machine
end

section
/-! PROOFS. Tables of the state: entries after an update, and folds that keep a relation. -/

namespace Sys2Proof.Machine
open Sys2Proof

/-! ### Entries -/

section
variable {α : Type} {t : Tbl α} {k j : Nat} {v : α}

theorem tfind_tdel_self : tfind (tdel t k) k = none := by
  induction t with
  | nil => rfl
  | cons x r ih =>
    obtain ⟨i, w⟩ := x
    by_cases hi : i = k <;> simp [tdel, tfind, hi, ih]

theorem tfind_tdel_ne (h : j ≠ k) : tfind (tdel t k) j = tfind t j := by
  induction t with
  | nil => rfl
  | cons x r ih =>
    obtain ⟨i, w⟩ := x
    by_cases hi : i = k
    · subst hi
      simp [tdel, tfind, ih, Ne.symm h]
    · simp [tdel, tfind, hi, ih]

theorem tfind_tins_self (h : ∀ x ∈ t, x.1 ≠ k) : tfind (tins t k v) k = some v := by
  induction t with
  | nil => simp [tins, tfind]
  | cons x r ih =>
    obtain ⟨i, w⟩ := x
    have hi : i ≠ k := h (i, w) (by simp)
    have hr := ih fun y hy => h y (by simp [hy])
    by_cases hk : k < i <;> simp [tins, tfind, hk, hi, hr]

theorem tfind_tins_ne (h : j ≠ k) : tfind (tins t k v) j = tfind t j := by
  induction t with
  | nil => simp [tins, tfind, Ne.symm h]
  | cons x r ih =>
    obtain ⟨i, w⟩ := x
    by_cases hk : k < i <;> simp [tins, tfind, hk, ih, Ne.symm h]

@[simp] theorem tfind_tset_self : tfind (tset t k v) k = some v := tfind_tins_self tdel_not_mem
theorem tfind_tset_ne (h : j ≠ k) : tfind (tset t k v) j = tfind t j := (tfind_tins_ne h).trans (tfind_tdel_ne h)

/-- A found entry stands in the table. -/
theorem mem_of_tfind (h : tfind t k = some v) : (k, v) ∈ t := by
  induction t with
  | nil => cases h
  | cons x r ih =>
    obtain ⟨i, w⟩ := x
    by_cases hi : i = k
    · subst hi
      simp only [tfind, if_true, Option.some.injEq] at h
      simp [h]
    · simp only [tfind, hi, if_false] at h
      simp [ih h]

theorem tget_eq_tfind {d : α} : tget d t k = (tfind t k).getD d := by
  induction t with
  | nil => rfl
  | cons x r ih =>
    obtain ⟨i, w⟩ := x
    by_cases hi : i = k <;> simp [tget, tfind, hi, ih]

end

section
variable (s : State)

@[simp] theorem getModel_setModel (m : ModelSlot) (x : Model) : getModel (setModel s m x) m = some x := tfind_tset_self
theorem getModel_setModel_ne (m n : ModelSlot) (x : Model) (h : n ≠ m) : getModel (setModel s m x) n = getModel s n := tfind_tset_ne (toNat_ne h)
@[simp] theorem getPair_setPair (i : Nat) (x : Pair) : getPair (setPair s i x) i = some x := tfind_tset_self
theorem getPair_setPair_ne (i j : Nat) (x : Pair) (h : j ≠ i) : getPair (setPair s i x) j = getPair s j := tfind_tset_ne h

theorem modModel_frame (m : ModelSlot) (g : Model → Model) : ∃ M, modModel s m g = { s with models := M } := by
  unfold modModel
  split
  · exact ⟨_, rfl⟩
  · exact ⟨_, rfl⟩

end

/-! ### Folds -/

section
variable {α : Type} {R : State → State → Prop}

/-- What each step of a fold keeps to, the fold keeps to. -/
theorem foldl_rel (hrefl : ∀ s, R s s) (htrans : ∀ s t u, R s t → R t u → R s u) {f : State → α → State} (h : ∀ s x, R s (f s x))
    (l : List α) (s : State) : R s (l.foldl f s) := by
  induction l generalizing s with
  | nil => exact hrefl s
  | cons x r ih => exact htrans _ _ _ (h s x) (ih (f s x))

theorem forAll_rel (hrefl : ∀ s, R s s) (htrans : ∀ s t u, R s t → R t u → R s u) {f : State → α → State} (h : ∀ s x, R s (f s x))
    (l : List α) (s : State) : R s (forAll l f s) := foldl_rel hrefl htrans h l s

/-- A part of the state that no step changes is as before the fold. -/
theorem foldl_fixed {β : Type} {g : State → β} {f : State → α → State} (h : ∀ s x, g (f s x) = g s) (l : List α) (s : State) :
    g (l.foldl f s) = g s :=
  foldl_rel (R := fun s t => g t = g s) (fun _ => rfl) (fun _ _ _ h k => k.trans h) h l s

theorem forAll_fixed {β : Type} {g : State → β} {f : State → α → State} (h : ∀ s x, g (f s x) = g s) (l : List α) (s : State) :
    g (forAll l f s) = g s := foldl_fixed h l s

end

/-! ### Grant entries -/

/-- The bits of an entry from 66 on say what it grants; carving changes base and size only. -/
theorem withRange_getLsbD {e : BitVec 128} {a n i : Nat} (hv : a / 4096 + n / 4096 * 2 ^ 36 < 2 ^ 66) (hi : 66 ≤ i) :
    (withRange e a n).getLsbD i = e.getLsbD i := by
  have hlow : (BitVec.ofNat 128 (a / 4096 + n / 4096 * 2 ^ 36)).getLsbD i = false := by
    rw [BitVec.getLsbD_ofNat, Nat.testBit_lt_two_pow (Nat.lt_of_lt_of_le hv (Nat.pow_le_pow_right (by decide) hi)), Bool.and_false]
  rw [withRange, BitVec.getLsbD_or, hlow, Bool.or_false, BitVec.getLsbD_shiftLeft, BitVec.getLsbD_ushiftRight]
  by_cases h : i < 128
  · simp [h, Nat.not_lt.2 hi, show 66 + (i - 66) = i by omega]
  · simp [h, BitVec.getLsbD_of_ge e i (by omega)]

/-- Bits from 66 on decide the partition and the job of an entry. -/
theorem gPart_congr {e e' : BitVec 128} (h : ∀ i, 66 ≤ i → e'.getLsbD i = e.getLsbD i) : gPart e' = gPart e := by
  apply BitVec.eq_of_getLsbD_eq
  intro i hi
  have hbit (x : BitVec 128) : (gPart x).getLsbD i = x.getLsbD (66 + i) := by
    simp only [gPart, nfld, BitVec.getLsbD_ofNat, hi, decide_true, Bool.true_and, Nat.testBit_mod_two_pow, Nat.testBit_shiftRight]
    simp [BitVec.getLsbD]
  rw [hbit, hbit, h _ (by omega)]

theorem gJob_congr {e e' : BitVec 128} (h : ∀ i, 66 ≤ i → e'.getLsbD i = e.getLsbD i) : gJob e' = gJob e := by
  apply BitVec.eq_of_getLsbD_eq
  intro i hi
  have hbit (x : BitVec 128) : (gJob x).getLsbD i = x.getLsbD (71 + i) := by
    simp only [gJob, nfld, BitVec.getLsbD_ofNat, hi, decide_true, Bool.true_and, Nat.testBit_mod_two_pow, Nat.testBit_shiftRight]
    simp [BitVec.getLsbD]
  rw [hbit, hbit, h _ (by omega)]

theorem partEntry_congr {p : PartId} {e e' : BitVec 128} (h : ∀ i, 66 ≤ i → e'.getLsbD i = e.getLsbD i) : partEntry p e' = partEntry p e := by
  simp only [partEntry, gPart_congr h, gPartR, gPartW, gSealed, h 87 (by omega), h 88 (by omega), h 91 (by omega)]

theorem carve_getLsbD {e x : BitVec 128} {a n : Nat} (hx : x ∈ carve e a n) {i : Nat} (hi : 66 ≤ i) : x.getLsbD i = e.getLsbD i := by
  have hbase : gBase e / 4096 < 2 ^ 36 := by
    simp only [gBase, nfld]
    omega
  have hsize : gSize e / 4096 < 2 ^ 30 ∧ gSize e % 4096 = 0 := by
    simp only [gSize, nfld]
    omega
  have hb4 : gBase e % 4096 = 0 := by simp [gBase]
  unfold carve at hx
  dsimp only at hx
  split at hx
  · rw [List.mem_singleton.1 hx]
  case isFalse hin =>
    rcases List.mem_append.1 hx with hx | hx
    · split at hx
      · rw [List.mem_singleton.1 hx]
        exact withRange_getLsbD (by omega) hi
      · cases hx
    · split at hx
      · rw [List.mem_singleton.1 hx]
        exact withRange_getLsbD (by omega) hi
      · cases hx

end Sys2Proof.Machine
end

section
/-! PROOFS. What the settling of waiting commands and resets leaves alone (R260, R269, R312, R320): partitions, memory, cores and streams; and
it gives no partition a grant. -/

namespace Sys2Proof.Machine
open Sys2Proof

/-- No entry grants the partition anything. -/
def NoEntry (p : PartId) (s : State) : Prop := ∀ e ∈ s.mon.grants, partEntry p e = false

/-- Nothing of the job is left in the monitor's entries and the regions. -/
def Gone (p : PartId) (j : JobNo) (s : State) : Prop := (∀ e ∈ s.mon.grants, ¬(gPart e = p ∧ gJob e = j)) ∧ ∀ r ∈ s.regions, r.use ≠ .job p j

/-- What settling changes: functions, models, regions, the engine's list, the monitor's entries and holders. -/
structure Settles (s t : State) : Prop where
  frame : ∃ F M R G N I, t = { s with funcs := F, models := M, regions := R, mig := G, mon := { s.mon with grants := t.mon.grants, holders := N }, inProgress := I }
  entries : ∀ p, NoEntry p s → NoEntry p t
  gone : ∀ p j, Gone p j s → Gone p j t

section
variable {s t u : State}

theorem Settles.refl (s : State) : Settles s s := ⟨⟨_, _, _, _, _, _, rfl⟩, fun _ => id, fun _ _ => id⟩

theorem Settles.trans (h : Settles s t) (k : Settles t u) : Settles s u := by
  obtain ⟨F, M, R, G, N, I, ht⟩ := h.frame
  obtain ⟨F', M', R', G', N', I', hu⟩ := k.frame
  refine ⟨⟨F', M', R', G', N', I', ?_⟩, fun p hp => k.entries p (h.entries p hp), fun p j hg => k.gone p j (h.gone p j hg)⟩
  rw [hu, ht]

theorem settles_foldl {α : Type} {f : State → α → State} (h : ∀ s x, Settles s (f s x)) (l : List α) (s : State) : Settles s (l.foldl f s) :=
  foldl_rel Settles.refl (fun _ _ _ => .trans) h l s

theorem settles_ite {p : Prop} [Decidable p] (h : Settles s t) (k : Settles s u) : Settles s (if p then t else u) := by
  split
  · exact h
  · exact k

theorem Settles.fields (h : Settles s t) : t.parts = s.parts ∧ t.mem = s.mem ∧ t.cores = s.cores ∧ t.streams = s.streams ∧ t.mon.keys = s.mon.keys ∧
    t.br = s.br := by
  obtain ⟨F, M, R, G, N, I, ht⟩ := h.frame
  rw [ht]
  exact ⟨rfl, rfl, rfl, rfl, rfl, rfl⟩

theorem settles_funcs (F : Tbl Fn) : Settles s { s with funcs := F } := ⟨⟨F, _, _, _, _, _, rfl⟩, fun _ => id, fun _ _ => id⟩

theorem settles_postResult (f : Func) (op tag st : BitVec 16) (n : Nat) : Settles s (postResult s f op tag st n) := by
  obtain ⟨F, h⟩ := postResult_frame s f op tag st n
  exact h ▸ settles_funcs F

/-- Carving entries gives no partition one. -/
theorem noEntry_carveAll {p : PartId} {a n : Nat} (h : NoEntry p s) : NoEntry p (carveAll s a n) := by
  intro e he
  obtain ⟨e0, he0, hcarve⟩ := List.mem_flatMap.1 he
  exact (partEntry_congr fun i hi => carve_getLsbD hcarve hi).trans (h e0 he0)

/-- Carving entries leaves no entry of a job that has none. -/
theorem gone_carveAll {p : PartId} {j : JobNo} {a n : Nat} (h : Gone p j s) : Gone p j (carveAll s a n) := by
  refine ⟨fun e he => ?_, h.2⟩
  obtain ⟨e0, he0, hcarve⟩ := List.mem_flatMap.1 he
  rw [gPart_congr fun i hi => carve_getLsbD hcarve hi, gJob_congr fun i hi => carve_getLsbD hcarve hi]
  exact h.1 e0 he0

theorem gone_filter {p : PartId} {j : JobNo} (q : Region → Bool) (h : Gone p j s) : Gone p j { s with regions := s.regions.filter q } :=
  ⟨h.1, fun r hr => h.2 r (List.mem_filter.1 hr).1⟩

theorem settles_freeRegion (r : Region) : Settles s (freeRegion s r) := by
  unfold freeRegion
  refine settles_ite (.refl s) (settles_ite ?_ ?_)
  · exact ⟨⟨_, _, _, _, _, _, rfl⟩, fun _ hp => noEntry_carveAll hp, fun _ _ hg => gone_carveAll hg⟩
  · exact ⟨⟨_, _, _, _, _, _, rfl⟩, fun _ => id, fun _ _ => id⟩

theorem settles_releaseRegions (q : Region → Bool) : Settles s (releaseRegions s q) := by
  have hfirst : Settles s { s with regions := s.regions.filter fun r => !q r } :=
    ⟨⟨_, _, _, _, _, _, rfl⟩, fun _ => id, fun _ _ => gone_filter _⟩
  exact hfirst.trans (settles_foldl (fun s r => settles_freeRegion r) _ _)

theorem settles_models (M : Tbl Model) : Settles s { s with models := M } := ⟨⟨_, M, _, _, _, _, rfl⟩, fun _ => id, fun _ _ => id⟩

theorem settles_releaseModel (m : ModelSlot) : Settles s (releaseModel s m) := by
  unfold releaseModel
  split
  · exact .refl s
  · exact settles_ite ((settles_releaseRegions _).trans (settles_models _)) (.refl s)

theorem settles_dropUser (m : ModelSlot) (f : Func) : Settles s (dropUser s m f) := by
  obtain ⟨M, h⟩ := modModel_frame s m fun y =>
    { y with users := y.users.filter fun g => decide (g ≠ f)
             owner := if y.owner = f then (allFuncs.find? fun g => (y.users.filter fun g => decide (g ≠ f)).contains g).getD y.owner else y.owner }
  exact (show dropUser s m f = _ from h) ▸ settles_models M

theorem settles_dropModels (f : Func) : Settles s (dropModels s f) :=
  settles_foldl (fun _ m => settles_ite (settles_dropUser m f) ((settles_dropUser m f).trans (settles_releaseModel m))) _ _

theorem settles_finishCmd (q : InProgress) : Settles s (finishCmd s q) := by
  unfold finishCmd
  refine Settles.trans (settles_ite (settles_foldl (fun s o => ?_) _ _) (.refl s)) (settles_postResult ..)
  cases o
  case model m => exact settles_releaseModel m
  all_goals exact .refl s

theorem settles_settleCmds : Settles s (settleCmds s) := by
  have hfirst : Settles s { s with inProgress := s.inProgress.filter fun q => !waitOver s q } := ⟨⟨_, _, _, _, _, _, rfl⟩, fun _ => id, fun _ _ => id⟩
  exact hfirst.trans (settles_foldl (fun s q => settles_finishCmd q) _ _)

theorem settles_finishFlr (f : Func) : Settles s (finishFlr s f) := by
  unfold finishFlr
  exact settles_ite ((settles_dropModels f).trans (settles_funcs _)) (.refl s)

/-- Settling commands and resets. -/
theorem settles_settleProgress : Settles s (settleProgress s) :=
  settles_settleCmds.trans (forAll_rel Settles.refl (fun _ _ _ => .trans) (fun _ f => settles_finishFlr f) _ _)

end

end Sys2Proof.Machine
end

section
/-! PROOFS. Partitions and jobs by command (R275 to R280, R325 to R327, R330). -/

namespace Sys2Proof.Machine
open Sys2Proof

section
variable {s : State} {f : Func} {k : Taken} {dt : Nat}

theorem exec_partitionCreate {p : PartId} : exec (.partitionCreate f p dt) s = execPartitionCreate f p dt s := rfl
theorem exec_partitionDestroy : exec (.partitionDestroy f dt) s = execPartitionDestroy f dt s := rfl
theorem exec_modelPlace {ch : PlaceChoice} : exec (.modelPlace f ch dt) s = execModelPlace f ch dt s := rfl
theorem exec_jobRemove : exec (.jobRemove f dt) s = execJobRemove f dt s := rfl
theorem exec_jobMove {ch : PlaceChoice} : exec (.jobMove f ch dt) s = execJobMove f ch dt s := rfl
theorem exec_programSubmit {img : Option Image} {ch : PlaceChoice} : exec (.programSubmit f img ch dt) s = execProgramSubmit f img ch dt s := rfl

/-- Refused by the first check. -/
theorem checked_of_first {u : State} {st : BitVec 16} {l : List (Bool × BitVec 16)} {go : Option State} :
    checked u f k ((true, st) :: l) go = some (refuseCmd u f k st) := by
  simp [checked, firstBad]

end

/-! ### Jobs of a partition -/

section
variable {j b : Job} {l : List Job} {n : JobNo}

theorem find_insertJob_self (h : l.find? (fun b => decide (b.num = j.num)) = none) :
    (insertJob j l).find? (fun b => decide (b.num = j.num)) = some j := by
  induction l with
  | nil => simp [insertJob]
  | cons x r ih =>
    have hx : x.num ≠ j.num := by simpa using List.find?_eq_none.1 h x (by simp)
    have hr : r.find? (fun b => decide (b.num = j.num)) = none := by simpa [List.find?_cons, hx] using h
    unfold insertJob
    split
    · simp
    · simp [hx, ih hr]

theorem findJob_none_of_filter {x : Part} (h : ∀ b ∈ x.jobs, b.num ≠ n) : findJob x n = none := by
  rw [findJob, List.find?_eq_none]
  simpa using h

/-- A job that is changed keeps its place under its number. -/
theorem findJob_map {x : Part} {g : Job → Job} (hg : ∀ b, (g b).num = b.num) :
    findJob { x with jobs := x.jobs.map fun b => if b.num = n then g b else b } n = (findJob x n).map g := by
  obtain ⟨jobs, hjobs⟩ : ∃ jobs, x.jobs = jobs := ⟨_, rfl⟩
  simp only [findJob, hjobs]
  induction jobs generalizing x with
  | nil => rfl
  | cons b r ih =>
    by_cases hb : b.num = n
    · simp [hb, hg]
    · simpa [hb] using ih (x := { x with jobs := r }) rfl

end

/-! ### What a stop of a partition's cores leaves -/

theorem sendFrame_frame (s : State) (fr : Frame) : ∃ B, sendFrame s fr = { s with br := B } := by
  unfold sendFrame sendOn
  split
  · split
    · split <;> exact ⟨_, rfl⟩
    · exact ⟨_, rfl⟩
  · exact ⟨_, rfl⟩

theorem pairSend_frame (n i : Nat) (s : State) : ∃ B, pairSend n i s = { s with br := B } := by
  induction n generalizing s with
  | zero => exact ⟨_, rfl⟩
  | succ n ih =>
    unfold pairSend
    split
    · exact ⟨_, rfl⟩
    · split
      · exact ⟨_, rfl⟩
      · refine ite_cases (P := fun t : State => ∃ B, t = { s with br := B }) ⟨_, rfl⟩ ?_
        obtain ⟨B, h⟩ := ih (sendFrame (setPair s i _) _)
        obtain ⟨B', h'⟩ := sendFrame_frame (setPair s i _) _
        exact ⟨B, by rw [h, h']; rfl⟩

theorem sendWaiting_frame (s : State) : ∃ B, sendWaiting s = { s with br := B } :=
  foldl_rel (R := fun s t => ∃ B, t = { s with br := B }) (fun _ => ⟨_, rfl⟩) (fun _ _ _ ⟨_, h⟩ ⟨B, h'⟩ => ⟨B, by rw [h', h]⟩)
    (fun s x => pairSend_frame _ _ s) _ _

/-- What stopping cores and closing a charge changes: cores, the bridge, telemetry, and of partitions the reservations, semaphore messages and the
task's accounting. -/
structure StopsCores (s t : State) : Prop where
  frame : ∃ C B P T, t = { s with cores := C, br := B, parts := P, tele := T }
  parts : ∀ q, ∃ n a b k, getPart t q = { getPart s q with sumDue := n, semNet := a, semWait := b, task := k }

section
variable {s t u : State} {c : CoreId} {p : PartId}

theorem StopsCores.refl (s : State) : StopsCores s s := ⟨⟨_, _, _, _, rfl⟩, fun _ => ⟨_, _, _, _, rfl⟩⟩

theorem StopsCores.trans (h : StopsCores s t) (k : StopsCores t u) : StopsCores s u := by
  obtain ⟨C, B, P, T, ht⟩ := h.frame
  obtain ⟨C', B', P', T', hu⟩ := k.frame
  refine ⟨⟨C', B', P', T', by rw [hu, ht]⟩, fun q => ?_⟩
  obtain ⟨n, a, b, k', hq⟩ := h.parts q
  obtain ⟨n', a', b', k'', hq'⟩ := k.parts q
  exact ⟨n', a', b', k'', by rw [hq', hq]⟩

theorem stopsCores_core (C : Tbl CoreSt) : StopsCores s { s with cores := C } := ⟨⟨C, _, _, _, rfl⟩, fun _ => ⟨_, _, _, _, rfl⟩⟩
theorem stopsCores_br (B : BrSt) : StopsCores s { s with br := B } := ⟨⟨_, B, _, _, rfl⟩, fun _ => ⟨_, _, _, _, rfl⟩⟩
theorem stopsCores_tele (T : TeleSt) : StopsCores s { s with tele := T } := ⟨⟨_, _, _, T, rfl⟩, fun _ => ⟨_, _, _, _, rfl⟩⟩

theorem stopsCores_setPart {x : Part} (h : ∃ n a b k, x = { getPart s p with sumDue := n, semNet := a, semWait := b, task := k }) :
    StopsCores s (setPart s p x) := by
  refine ⟨⟨_, _, _, _, rfl⟩, fun q => ?_⟩
  by_cases hq : q = p
  · subst hq
    rw [getPart_setPart]
    exact h
  · rw [getPart_setPart_ne _ _ _ _ hq]
    exact ⟨_, _, _, _, rfl⟩

theorem stopsCores_ite {q : Prop} [Decidable q] (h : StopsCores s t) (k : StopsCores s u) : StopsCores s (if q then t else u) := by
  split
  · exact h
  · exact k

theorem stopsCores_landAll : StopsCores s (landAll s c) := stopsCores_ite (.refl s) ((stopsCores_core _).trans (stopsCores_core _))

theorem stopsCores_dropReserved : StopsCores s (dropReserved s c) := by
  unfold dropReserved
  split
  · exact stopsCores_ite (.refl s) (stopsCores_setPart ⟨_, _, _, _, rfl⟩)
  · exact .refl s

theorem stopsCores_dropWaits : StopsCores s (dropWaits s c) := by
  unfold dropWaits
  obtain ⟨B, h⟩ := sendWaiting_frame { s with br := _ }
  rw [h]
  exact stopsCores_br B

theorem stopsCores_stopCore : StopsCores s (stopCore s c) :=
  (((stopsCores_dropReserved.trans stopsCores_landAll).trans (stopsCores_core _)).trans stopsCores_dropWaits).trans (stopsCores_core _)

theorem stopsCores_stopCores : StopsCores s (stopCores s p) :=
  (forAll_rel StopsCores.refl (fun _ _ _ => .trans) (fun _ _ => stopsCores_stopCore) _ _).trans (stopsCores_setPart ⟨_, _, _, _, rfl⟩)

theorem stopsCores_chargeTask : StopsCores s (chargeTask s p) := by
  unfold chargeTask
  dsimp only
  split
  · exact .refl s
  · refine stopsCores_ite (.refl s) ?_
    have hall (cl : List Func) (g : (Nat → Nat) → Account → Account) (s : State) : StopsCores s (chargeAll s cl g) :=
      foldl_rel StopsCores.refl (fun _ _ _ => .trans) (fun _ _ => stopsCores_tele _) _ _
    have hcut (s : State) : StopsCores s (cutParts s p) := by
      unfold cutParts
      dsimp only
      split
      · exact .refl s
      · exact stopsCores_ite (.refl s) ((stopsCores_tele _).trans (stopsCores_setPart ⟨_, _, _, _, rfl⟩))
    exact ((hall _ _ _).trans (hcut _)).trans (stopsCores_setPart ⟨_, _, _, _, rfl⟩)

theorem stopsCores_closeCharge : StopsCores s (closeCharge s p) := stopsCores_chargeTask.trans (stopsCores_setPart ⟨_, _, _, _, rfl⟩)

end

/-! ### The trigger of a reclaim -/

section
variable {s : State} {p : PartId}

/-- The job as the trigger marks it. -/
def crashedBy (r : BitVec 8) (b : Job) : Job := { b with crashed := some (b.crashed.getD r) }

theorem triggerReclaim_part (j : JobNo) (r : BitVec 8) :
    (getPart (triggerReclaim s p j r) p).jobs = (getPart s p).jobs.map (fun b => if b.num = j then crashedBy r b else b) ∧
    (getPart (triggerReclaim s p j r) p).destroying = (getPart s p).destroying ∧ (triggerReclaim s p j r).inProgress = s.inProgress := by
  obtain ⟨v, hv⟩ : ∃ v, modJob s p j (crashedBy r) = v := ⟨_, rfl⟩
  have hjobs : (getPart v p).jobs = (getPart s p).jobs.map (fun b => if b.num = j then crashedBy r b else b) := by
    rw [← hv, modJob, modPart_eq, getPart_setPart]
  have hdes : (getPart v p).destroying = (getPart s p).destroying := by rw [← hv, modJob, modPart_eq, getPart_setPart]
  have hin : v.inProgress = s.inProgress := by rw [← hv]; rfl
  have hstep : triggerReclaim s p j r = if (getPart v p).task.isSome ∧ (getPart v p).job = j then
      modPart (closeCharge (stopCores v p) p) p fun x => { x with stopping := true, endReq := none } else v := by rw [← hv]; rfl
  rw [hstep]
  split
  · have hstop : StopsCores v (closeCharge (stopCores v p) p) := stopsCores_stopCores.trans stopsCores_closeCharge
    obtain ⟨C, B, P, T, hframe⟩ := hstop.frame
    obtain ⟨n, a, b, k, hpart⟩ := hstop.parts p
    rw [modPart_eq, getPart_setPart, setPart_inProgress, hpart]
    exact ⟨hjobs, hdes, by rw [hframe]; exact hin⟩
  · exact ⟨hjobs, hdes, hin⟩

/-- Every job of a partition that is destroyed is to be reclaimed. -/
theorem triggerAll_part (r : BitVec 8) (l : List JobNo) (h : ∀ b ∈ (getPart s p).jobs, b.num ∈ l ∨ b.crashed.isSome = true) :
    let t := l.foldl (fun s j => triggerReclaim s p j r) s
    (∀ b ∈ (getPart t p).jobs, b.crashed.isSome = true) ∧ (getPart t p).jobs.length = (getPart s p).jobs.length ∧
      (getPart t p).destroying = (getPart s p).destroying := by
  induction l generalizing s with
  | nil => exact ⟨fun b hb => (h b hb).resolve_left List.not_mem_nil, rfl, rfl⟩
  | cons j l ih =>
    obtain ⟨hjobs, hdes, -⟩ := triggerReclaim_part (s := s) (p := p) j r
    obtain ⟨hall, hlen, hd⟩ := ih (s := triggerReclaim s p j r) (by
      intro b hb
      rw [hjobs] at hb
      obtain ⟨b0, hb0, rfl⟩ := List.mem_map.1 hb
      by_cases hj : b0.num = j
      · rw [if_pos hj]
        exact .inr rfl
      · rw [if_neg hj]
        exact (h b0 hb0).imp_left fun hm => (List.mem_cons.1 hm).resolve_left hj)
    exact ⟨hall, hlen.trans (by rw [hjobs, List.length_map]), hd.trans hdes⟩

end

/-! ### The end of a partition -/

section
variable {s : State} {p : PartId}

theorem forgetHolder_frame (s : State) (q : Holder → Bool) (h : Holder) :
    ∃ H, forgetHolder s q h = { s with mon := { s.mon with holders := H } } :=
  foldl_rel (R := fun s t => ∃ H, t = { s with mon := { s.mon with holders := H } }) (fun _ => ⟨_, rfl⟩)
    (fun _ _ _ ⟨_, h⟩ ⟨H, h'⟩ => ⟨H, by rw [h', h]⟩) (fun _ _ => ⟨_, rfl⟩) _ _

theorem setHolders_frame (s : State) (l : List (BitVec 128)) (h : BitVec 128 → Holder) :
    ∃ H, l.foldl (fun s e => setHolder s (gBase e) (gSize e) (h e)) s = { s with mon := { s.mon with holders := H } } :=
  foldl_rel (R := fun s t => ∃ H, t = { s with mon := { s.mon with holders := H } }) (fun _ => ⟨_, rfl⟩)
    (fun _ _ _ ⟨_, h⟩ ⟨H, h'⟩ => ⟨H, by rw [h', h]⟩) (fun _ _ => ⟨_, rfl⟩) _ _

/-- A partition that ends is not valid, and has no key and no entry. -/
theorem destroyPartition_gone (s : State) (p : PartId) : (getPart (destroyPartition s p) p).valid = false ∧
    tfind (destroyPartition s p).mon.keys p.toNat = none ∧ NoEntry p (destroyPartition s p) := by
  refine ⟨by rw [destroyPartition, getPart_setPart]; rfl, ?_, ?_⟩
  · exact tfind_tdel_self
  · intro e he
    have hmem := (List.mem_filter.1 he).2
    simpa using hmem

theorem settles_getPart {t : State} (h : Settles s t) (q : PartId) : getPart t q = getPart s q := by
  obtain ⟨hparts, -⟩ := h.fields
  rw [getPart, getPart, hparts]

/-- A partition with no job and no entry at work ends. -/
theorem endDestroy_of_empty (hv : (getPart s p).valid = true) (hd : (getPart s p).destroying = true) (hj : (getPart s p).jobs = [])
    (hq : ∀ e ∈ s.mon.grants, partEntry p e = true → engineUses s e = false) : endDestroy s p = destroyPartition s p := by
  refine if_pos ⟨hv, hd, by rw [hj]; rfl, List.all_eq_true.2 fun e he => ?_⟩
  obtain ⟨hmem, hent⟩ := List.mem_filter.1 he
  rw [hq e hmem hent]
  rfl

theorem endDestroy_of_jobs (hj : (getPart s p).jobs ≠ []) : endDestroy s p = s :=
  if_neg fun h => hj (List.isEmpty_iff.1 h.2.2.1)

end

/-! ### The start of a partition's end -/

section
variable {s : State} {p : PartId} {f : Func} {k : Taken}

/-- The partition is being destroyed, each of its jobs is to be reclaimed, and the command waits for the reclaims (R326). -/
def destroyBegun (s : State) (p : PartId) (f : Func) (k : Taken) : State :=
  let v := modPart s p fun x => { x with destroying := true }
  let w := ((getPart v p).jobs.map (·.num)).foldl (fun s j => triggerReclaim s p j rsDESTROYED) v
  { w with inProgress := w.inProgress ++ [⟨f, k.tag, k.opcode, [], false, false, p.toNat⟩] }

theorem endDestroy_of_noJobs (hv : (getPart s p).valid = true) (hj : (getPart s p).jobs = [])
    (hq : ∀ e ∈ s.mon.grants, partEntry p e = true → engineUses s e = false) :
    endDestroy (destroyBegun s p f k) p = destroyPartition (destroyBegun s p f k) p := by
  obtain ⟨v, hv'⟩ : ∃ v, modPart s p (fun x => { x with destroying := true }) = v := ⟨_, rfl⟩
  have hpart : getPart v p = { getPart s p with destroying := true } := by rw [← hv', modPart_eq, getPart_setPart]
  have hw : destroyBegun s p f k = { v with inProgress := v.inProgress ++ [⟨f, k.tag, k.opcode, [], false, false, p.toNat⟩] } := by
    unfold destroyBegun
    dsimp only
    rw [hv', show (getPart v p).jobs = [] by rw [hpart]; exact hj]
    rfl
  have hwpart : getPart (destroyBegun s p f k) p = { getPart s p with destroying := true } := by rw [hw]; exact hpart
  have hmon : (destroyBegun s p f k).mon = s.mon ∧ (destroyBegun s p f k).mig = s.mig := by rw [hw, ← hv']; exact ⟨rfl, rfl⟩
  refine endDestroy_of_empty (by rw [hwpart]; exact hv) (by rw [hwpart]) (by rw [hwpart]; exact hj) fun e he hpe => ?_
  rw [hmon.1] at he
  rw [engineUses, hmon.2]
  exact hq e he hpe

theorem destroyBegun_of_jobs (hj : (getPart s p).jobs ≠ []) : (getPart (destroyBegun s p f k) p).jobs ≠ [] ∧
    (getPart (destroyBegun s p f k) p).destroying = true ∧ ∀ b ∈ (getPart (destroyBegun s p f k) p).jobs, b.crashed.isSome = true := by
  obtain ⟨v, hv⟩ : ∃ v, modPart s p (fun x => { x with destroying := true }) = v := ⟨_, rfl⟩
  have hpart : getPart v p = { getPart s p with destroying := true } := by rw [← hv, modPart_eq, getPart_setPart]
  obtain ⟨hall, hlen, hdes⟩ := triggerAll_part (s := v) (p := p) rsDESTROYED ((getPart v p).jobs.map (·.num)) fun b hb => .inl (List.mem_map_of_mem hb)
  have hw : getPart (destroyBegun s p f k) p = getPart (((getPart v p).jobs.map (·.num)).foldl (fun s j => triggerReclaim s p j rsDESTROYED) v) p := by
    unfold destroyBegun
    dsimp only
    rw [hv]
    rfl
  rw [hw]
  refine ⟨fun h0 => hj (List.length_eq_zero_iff.1 ?_), hdes.trans (by rw [hpart]), hall⟩
  rw [h0, hpart] at hlen
  exact hlen.symm

end

/-! ### New jobs -/

section
variable {s : State} {p : PartId}

theorem fillDrone_parts (s : State) (p : PartId) (a : Nat) (b : List Byte) : (fillDrone s p a b).parts = s.parts := by
  unfold fillDrone
  refine ite_cases (P := fun t : State => t.parts = s.parts) rfl (forAll_fixed (g := State.parts) (fun s c => ?_) _ _)
  dsimp only
  split <;> rfl

/-- The job that a placement or a program becomes stands under the number chosen. -/
theorem findJob_createJob {d : ImageDecl} {k : JobKind} {key : W64} {w : Bool} {drone : List Byte} {ch : PlaceChoice} (hfree : jobFree s p ch.job = true) :
    ∃ j, findJob (getPart (createJob s p d k key w drone ch) p) ch.job = some j ∧ j.kind = k ∧ j.key = key := by
  have hnone : findJob (getPart s p) ch.job = none := by
    simp only [jobFree, Bool.and_eq_true, Option.isNone_iff_eq_none] at hfree
    exact hfree.1.2
  unfold createJob
  dsimp only
  obtain ⟨j, hj, hnum, hkind, hkey⟩ : ∃ j, newJob (getPart s p) ch.job k
      (if (if d.program then 0 else ((placeVariant d (partCourses (getPart s p)).length).map (·.dalloc)).getD 0) = 0 then 0 else ch.drone.getD 0)
      (if d.program then 0 else ((placeVariant d (partCourses (getPart s p)).length).map (·.dalloc)).getD 0) key
      (if w && !d.program then ((ch.regions.getD []).zip (placeSizes d w)).tail else (ch.regions.getD []).zip (placeSizes d w)) = j ∧
      j.num = ch.job ∧ j.kind = k ∧ j.key = key := ⟨_, rfl, rfl, rfl, rfl⟩
  refine ⟨j, ?_, hkind, hkey⟩
  have hfind (t : State) (ht : t.parts = (setPart s p { getPart s p with jobs := insertJob j (getPart s p).jobs }).parts) :
      findJob (getPart t p) ch.job = some j := by
    have hpart : getPart t p = { getPart s p with jobs := insertJob j (getPart s p).jobs } := by
      rw [getPart, ht]
      exact getPart_setPart ..
    rw [hpart, findJob, ← hnum]
    exact find_insertJob_self (by rw [hnum]; exact hnone)
  refine ite_cases (P := fun t : State => findJob (getPart t p) ch.job = some j) (hfind _ ?_) (hfind _ ((fillDrone_parts ..).trans ?_)) <;>
  · rw [← hj]
    rfl

theorem choiceOk_jobFree {d : ImageDecl} {w : Bool} {ch : PlaceChoice} (h : choiceOk s p d w ch = true) : jobFree s p ch.job = true := by
  unfold choiceOk at h
  dsimp only at h
  split at h
  · simp only [Bool.and_eq_true] at h
    exact h.1.1
  · cases h

theorem findJob_congr {t : State} {j : JobNo} (h : t.parts = s.parts) : findJob (getPart t p) j = findJob (getPart s p) j := by
  rw [getPart, h]
  rfl

theorem placeModel_parts (m : ModelSlot) (y : Model) (ch : PlaceChoice) :
    (placeModel s p m y ch).parts = (createJob s p y.decl (.placement m) 0 y.weightsAt.isEmpty (droneBytes y) ch).parts := by
  unfold placeModel
  dsimp only
  split
  · obtain ⟨M, h⟩ := modModel_frame { createJob s p y.decl (.placement m) 0 y.weightsAt.isEmpty (droneBytes y) ch with regions := _, mem := _ } m _
    rw [h]
  · rfl

theorem submitJob_parts (img : Image) (seed : W64) (ch : PlaceChoice) :
    (submitJob s p img seed ch).parts = (createJob s p img.decl (.program img.decl) (deriveKey seed 0x10000) true [] ch).parts := by
  unfold submitJob
  dsimp only
  split <;> rfl

end

/-! ### A job that moves -/

section
variable {s : State} {p q : PartId} {j n : JobNo} {b : Job}

theorem moveHoldings_frame (s : State) (p : PartId) (j : JobNo) (q : PartId) (n : JobNo) : ∃ G H R B, moveHoldings s p j q n =
    { s with mon := { s.mon with grants := G, holders := H }, regions := R, br := B } := by
  unfold moveHoldings
  obtain ⟨H, h⟩ : ∃ H, (s.mon.grants.filter fun e => decide (gPart e = p) && decide (gJob e = j)).foldl (fun s e =>
      if entryHolder e = .part p j then setHolder s (gBase e) (gSize e) (.part q n) else s) s = { s with mon := { s.mon with holders := H } } := by
    refine foldl_rel (R := fun s t => ∃ H, t = { s with mon := { s.mon with holders := H } }) (fun _ => ⟨_, rfl⟩)
      (fun _ _ _ ⟨_, h⟩ ⟨H, h'⟩ => ⟨H, by rw [h', h]⟩) (fun s e => ?_) _ _
    split
    · exact ⟨_, rfl⟩
    · exact ⟨_, rfl⟩
  dsimp only
  rw [h]
  exact ⟨_, _, _, _, rfl⟩

/-- A job whose partition runs no task goes on at a destination of as many courses under its new number. -/
theorem moveJob_same (hpq : p ≠ q) (htask : (getPart s p).task = none) (hb : findJob (getPart s p) j = some b)
    (hlen : (partCourses (getPart s p)).length = (partCourses (getPart s q)).length) (hfree : jobFree s q n = true) :
    findJob (getPart (moveJob s p j q n) p) j = none ∧ findJob (getPart (moveJob s p j q n) q) n = some { b with num := n } ∧
      (moveJob s p j q n).mem = s.mem := by
  have hnone : findJob (getPart s q) n = none := by
    simp only [jobFree, Bool.and_eq_true, Option.isNone_iff_eq_none] at hfree
    exact hfree.1.2
  have hstep : moveJob s p j q n = moveHoldings (setPart (setPart s p { getPart s p with jobs := (getPart s p).jobs.filter fun c => decide (c.num ≠ j) }) q
      { getPart s q with jobs := insertJob { b with num := n } (getPart s q).jobs }) p j q n := by
    have hq : getPart (setPart s p { getPart s p with jobs := (getPart s p).jobs.filter fun c => decide (c.num ≠ j) }) q = getPart s q :=
      getPart_setPart_ne _ _ _ _ (Ne.symm hpq)
    have hfilter (o : Option (Nat × Nat)) : o.filter (fun _ => false) = none := by cases o <;> rfl
    unfold moveJob
    rw [htask]
    simp only [Option.isSome_none, Bool.false_eq_true, false_and, if_false, hb, hlen, decide_true, movedJob, modPart_eq, hq, Bool.not_true,
      hfilter, if_true]
  obtain ⟨G, H, R, B, hframe⟩ := moveHoldings_frame (setPart (setPart s p { getPart s p with jobs := (getPart s p).jobs.filter fun c => decide (c.num ≠ j) }) q
      { getPart s q with jobs := insertJob { b with num := n } (getPart s q).jobs }) p j q n
  rw [hstep, hframe]
  refine ⟨?_, ?_, rfl⟩
  · refine (findJob_congr (s := setPart (setPart s p _) q _) rfl).trans ?_
    rw [getPart_setPart_ne _ _ _ _ hpq, getPart_setPart]
    exact findJob_none_of_filter fun c hc => by simpa using (List.mem_filter.1 hc).2
  · refine (findJob_congr (s := setPart (setPart s p _) q _) rfl).trans ?_
    rw [getPart_setPart]
    exact find_insertJob_self (j := { b with num := n }) hnone

end

/-! ### A new partition -/

section
variable {s : State} {p : PartId} {k : Taken}

/-- A change of cores one after another leaves what each change leaves on the cores of the list. -/
theorem getCore_forAll_of_mem {P : CoreSt → Prop} {g : CoreSt → CoreSt} (hg : ∀ x, P (g x)) {l : List CoreId} {c : CoreId} (h : c ∈ l) (s : State) :
    P (getCore (forAll l (fun s c => modCore s c g) s) c) := by
  have hkeep (m : List CoreId) (u : State) (hu : P (getCore u c)) : P (getCore (forAll m (fun s c => modCore s c g) u) c) := by
    refine foldl_rel (R := fun s t => P (getCore s c) → P (getCore t c)) (fun _ => id) (fun _ _ _ h k hp => k (h hp)) (fun v d hv => ?_) m u hu
    rw [modCore_eq]
    by_cases hd : c = d
    · subst hd
      rw [getCore_setCore]
      exact hg _
    · rw [getCore_setCore_ne _ _ _ _ hd]
      exact hv
  induction l generalizing s with
  | nil => cases h
  | cons d l ih =>
    rcases List.mem_cons.1 h with rfl | hl
    · refine hkeep l (modCore s c g) ?_
      rw [modCore_eq, getCore_setCore]
      exact hg _
    · exact ih hl _

theorem modCores_frame (l : List CoreId) (g : CoreSt → CoreSt) (s : State) : ∃ C, forAll l (fun s c => modCore s c g) s = { s with cores := C } :=
  forAll_rel (R := fun s t => ∃ C, t = { s with cores := C }) (fun _ => ⟨_, rfl⟩) (fun _ _ _ ⟨_, h⟩ ⟨C, h'⟩ => ⟨C, by rw [h', h]⟩) (fun _ _ => ⟨_, rfl⟩) _ _

/-- The new partition (R275, R276). -/
def createdPart (s : State) (k : Taken) (p : PartId) : Part :=
  { Part.reset with
    courses := BitVec.ofNat 32 (argF k 31 0), valid := true, drone := BitVec.ofNat 2 (argF k 38 37), owner := argFn k 36 32, dflt := argB k 39
    grace := if argF k 48 40 = 0 then 20 else argF k 48 40, idleFrom := some s.time, idleSince := some s.time
    t0 := (getPart s p).t0, t1 := (getPart s p).t1, t2 := (getPart s p).t2, br := (getPart s p).br, qReqs := (getPart s p).qReqs
    qWait := (getPart s p).qWait }

theorem createPart_spec (s : State) (k : Taken) (p : PartId) :
    getPart (createPart s k p) p = createdPart s k p ∧ (tfind (createPart s k p).mon.keys p.toNat).isSome = true ∧ (createPart s k p).mem = s.mem ∧
    ∀ c ∈ partCores (createdPart s k p), (getCore (createPart s k p) c).drone = BitVec.ofNat 2 (argF k 38 37) ∧
      (getCore (createPart s k p) c).spTask = .reset := by
  obtain ⟨v, hv⟩ : ∃ v, (if argB k 39 then forAll allParts (fun s q => if (getPart s q).owner = argFn k 36 32 then modPart s q fun y => { y with dflt := false } else s) s
    else s) = v := ⟨_, rfl⟩
  have hframe : ∃ P, v = { s with parts := P } := by
    rw [← hv]
    refine ite_cases (P := fun t : State => ∃ P, t = { s with parts := P }) ?_ ⟨_, rfl⟩
    refine forAll_rel (R := fun s t => ∃ P, t = { s with parts := P }) (fun _ => ⟨_, rfl⟩) (fun _ _ _ ⟨_, h⟩ ⟨P, h'⟩ => ⟨P, by rw [h', h]⟩) (fun s q => ?_) _ _
    exact ite_cases (P := fun t : State => ∃ P, t = { s with parts := P }) ⟨_, rfl⟩ ⟨_, rfl⟩
  obtain ⟨P, hP⟩ := hframe
  have hnew : ({ Part.reset with
      courses := BitVec.ofNat 32 (argF k 31 0), valid := true, drone := BitVec.ofNat 2 (argF k 38 37), owner := argFn k 36 32, dflt := argB k 39
      grace := if argF k 48 40 = 0 then 20 else argF k 48 40, idleFrom := some v.time, idleSince := some v.time
      t0 := (getPart s p).t0, t1 := (getPart s p).t1, t2 := (getPart s p).t2, br := (getPart s p).br, qReqs := (getPart s p).qReqs
      qWait := (getPart s p).qWait } : Part) = createdPart s k p := by rw [hP]; rfl
  obtain ⟨w, hw⟩ : ∃ w, forAll (partCores (createdPart s k p)) (fun s c => modCore s c fun y => setDrone { y with spTask := .reset } (BitVec.ofNat 2 (argF k 38 37)))
    (setPart v p (createdPart s k p)) = w := ⟨_, rfl⟩
  have hstep : createPart s k p = answer (answer (answer
      { w with mon := { w.mon with keys := tset w.mon.keys p.toNat (Config.entropy w.free) }, free := w.free + 1 } opFENCE false) opDRONE false) opKEYS false := by
    unfold createPart
    dsimp only
    rw [hv, hnew, getPart_setPart, hw]
  obtain ⟨C, hC⟩ := modCores_frame (partCores (createdPart s k p)) (fun y => setDrone { y with spTask := .reset } (BitVec.ofNat 2 (argF k 38 37)))
    (setPart v p (createdPart s k p))
  rw [hw] at hC
  rw [hstep]
  refine ⟨?_, ?_, ?_, fun c hc => ?_⟩
  · rw [hC]
    exact getPart_setPart ..
  · exact (congrArg Option.isSome tfind_tset_self).trans rfl
  · rw [hC, hP]
    rfl
  · have hcore := getCore_forAll_of_mem (P := fun x => x.drone = BitVec.ofNat 2 (argF k 38 37) ∧ x.spTask = .reset)
      (g := fun y => setDrone { y with spTask := .reset } (BitVec.ofNat 2 (argF k 38 37))) (fun _ => ⟨rfl, rfl⟩) hc (setPart v p (createdPart s k p))
    rw [hw] at hcore
    exact hcore

end

theorem argF_lt (k : Taken) (hi lo : Nat) : argF k hi lo < 2 ^ (hi - lo + 1) := Nat.mod_lt _ (Nat.two_pow_pos _)

/-- Settles O36: each command's body on the state it is served in, its checks passed; destroying goes on with the reclaims it triggers. -/
theorem partitionAndJobCommandsComplete : Obligations.PartitionAndJobCommandsComplete := by
  intro f k dt s u
  have hserved : ∃ T B F, u = { s with time := T, br := B, funcs := F } := servedIn_frame s f dt
  refine ⟨fun p h hf hbad hen htaken hvalid hent => ?_, fun h hf hargs => ?_, fun y ch h hexp hargs => ?_, fun h hexp hargs => ?_,
    fun b d ch h hexp hargs => ?_, fun img ch h hexp hargs halign => ?_⟩
  · obtain ⟨hpart, hkeys, hmem, hcores⟩ := createPart_spec u k p
    refine ⟨createPart u k p, exec_partitionCreate.trans (runCmd_of_body h (checked_some ?_ ?_)), ?_⟩
    · have hstate : (argFn k 36 32 ≠ 0 && !(getFn u (argFn k 36 32)).enabled) = false := by
        rcases hen with h0 | he
        · simp [h0]
        · simp [he]
      have hlimit : (allParts.all fun q => (getPart u q).valid) = false := by
        rw [List.all_eq_false]
        exact ⟨p, List.mem_map.2 ⟨p.toNat, List.mem_range.2 p.isLt, by simp⟩, by simp [hvalid]⟩
      exact passes_append.2 ⟨passes_levelPf hf, passes_cons.2 ⟨hbad, passes_cons.2 ⟨hstate, passes_cons.2 ⟨htaken, passes_cons.2 ⟨hlimit, passes_nil⟩⟩⟩⟩⟩
    · rw [if_neg (by rw [hent]; simp), if_neg (by rw [hvalid]; simp)]
    · rw [hpart]
      refine ⟨rfl, toNat_ofNat_of_lt (argF_lt k 31 0), rfl, toNat_ofNat_of_lt (argF_lt k 38 37), rfl, rfl, rfl, hkeys, ?_, fun c hc => ?_⟩
      · obtain ⟨T, B, F, hu⟩ := hserved
        rw [hmem, hu]
      · obtain ⟨hd, ht⟩ := hcores c hc
        rw [hd]
        exact ⟨toNat_ofNat_of_lt (argF_lt k 38 37), ht⟩
  · intro p hbusy hab
    have hvalid : (getPart u p).valid = true := by
      have hab' := hab
      simp only [partAbsent, Bool.or_eq_false_iff, Bool.not_eq_false'] at hab'
      exact hab'.1
    have hexec : exec (.partitionDestroy f dt) s = .next (settleProgress (endDestroy (destroyBegun u p f k) p)) := by
      refine exec_partitionDestroy.trans (runCmd_of_body h (checked_some ?_ rfl))
      exact passes_append.2 ⟨passes_levelPf hf, passes_cons.2 ⟨hargs, passes_cons.2 ⟨hbusy, passes_cons.2 ⟨hab, passes_nil⟩⟩⟩⟩
    obtain ⟨T, B, F, hu⟩ := hserved
    refine ⟨_, hexec, fun hjobs hquiet => ?_, fun hjobs => ?_⟩
    · have hend := endDestroy_of_noJobs (f := f) (k := k) hvalid (show (getPart u p).jobs = [] by rw [hu]; exact hjobs) (by rw [hu]; exact hquiet)
      have hsettle := settles_settleProgress (s := destroyPartition (destroyBegun u p f k) p)
      obtain ⟨hval, hkey, hentry⟩ := destroyPartition_gone (destroyBegun u p f k) p
      obtain ⟨-, -, -, -, hkeys, -⟩ := hsettle.fields
      rw [hend, settles_getPart hsettle, hkeys]
      exact ⟨hval, hkey, hsettle.entries p hentry⟩
    · obtain ⟨hne, hdes, hall⟩ := destroyBegun_of_jobs (f := f) (k := k) (show (getPart u p).jobs ≠ [] by rw [hu]; exact hjobs)
      rw [endDestroy_of_jobs hne, settles_getPart settles_settleProgress]
      exact ⟨hdes, hall⟩
  · intro m p hbm hbp hy huser hfault hpart hplace hchoice
    have huses : usesModel u f m = true := by
      have hc : y.users.contains f = true := List.contains_iff_mem.2 huser
      simp only [usesModel, hy, hc]
    have hfaulted : (match getModel u m with | some y => y.faulted | none => true) = false := by
      simp only [hy, hfault]
    obtain ⟨j, hj, hkind, -⟩ := findJob_createJob (s := u) (p := p) (d := y.decl) (k := .placement m) (key := 0) (w := y.weightsAt.isEmpty)
      (drone := droneBytes y) (ch := ch) (choiceOk_jobFree hchoice)
    refine ⟨placeModel u p m y ch, j, exec_modelPlace.trans (runCmd_of_body h (checked_some ?_ ?_)), ?_, hkind⟩
    · refine passes_append.2 ⟨passes_levelExpert hexp, passes_cons.2 ⟨hargs, passes_cons.2 ⟨?_, passes_cons.2 ⟨?_, hpart⟩⟩⟩⟩
      · exact (or_congr_bool hbm hbp).trans rfl
      · exact (or_congr_bool (congrArg not huses) hfaulted).trans rfl
    · have hm : getModel (servedIn s f dt) (BitVec.ofNat 6 (argF k 5 0)) = some y := hy
      simp only [hm]
      exact checked_some hplace (if_pos hchoice)
    · rw [findJob_congr (placeModel_parts m y ch)]
      exact hj
  · intro p j hbp hbj hpart hfound
    obtain ⟨b, hb⟩ := Option.isSome_iff_exists.1 hfound
    obtain ⟨hjobs, -⟩ := triggerReclaim_part (s := u) (p := p) j rsREMOVED
    refine ⟨_, crashedBy rsREMOVED b, exec_jobRemove.trans (runCmd_of_body h (checked_some ?_ rfl)), ?_, rfl, ?_⟩
    · refine passes_append.2 ⟨passes_append.2 ⟨passes_append.2 ⟨passes_levelExpert hexp, passes_cons.2 ⟨hargs, passes_cons.2 ⟨?_, passes_nil⟩⟩⟩, hpart⟩,
        passes_cons.2 ⟨?_, passes_nil⟩⟩
      · exact (or_congr_bool hbp hbj).trans rfl
      · exact Option.isNone_eq_false_iff.2 hfound
    · have hmap := findJob_map (n := j) (x := getPart u p) (g := crashedBy rsREMOVED) fun _ => rfl
      rw [hb] at hmap
      refine Eq.trans ?_ hmap
      rw [findJob, findJob]
      exact congrArg (List.find? _) hjobs
    · rfl
  · intro p q j hpq hbp hbq hbj hpart hpart' hb hkind htask hcrash hend hlen hmove hfree
    obtain ⟨hold, hnew, hmem⟩ := moveJob_same hpq htask hb hlen hfree
    refine ⟨moveJob u p j q ch.job, exec_jobMove.trans (runCmd_of_body h (checked_some ?_ ?_)), hold, hnew, ?_⟩
    · refine passes_append.2 ⟨passes_append.2 ⟨passes_append.2 ⟨passes_levelExpert hexp, passes_cons.2 ⟨hargs, passes_cons.2 ⟨?_, passes_nil⟩⟩⟩, hpart⟩, hpart'⟩
      exact (or_congr_bool (or_congr_bool hbp hbq) hbj).trans rfl
    · have hj : findJob (getPart (servedIn s f dt) (argPart k 4 0)) (BitVec.ofNat 16 (argF k 31 16)) = some b := hb
      simp only [hj, hkind]
      refine checked_some (passes_append.2 ⟨passes_cons.2 ⟨?_, passes_cons.2 ⟨?_, passes_nil⟩⟩, hmove⟩) (if_pos hfree)
      · have hrun : jobRunning (getPart u p) j = false := by rw [jobRunning, htask]
        exact (or_congr_bool (or_congr_bool hrun (by rw [hcrash])) hend).trans rfl
      · rw [decide_eq_true hlen]
        rfl
    · obtain ⟨T, B, F, hu⟩ := hserved
      rw [hmem, hu]
  · intro p hlen hbp hpart hplace hchoice
    have hargsOk : Passes (levelChecks u f true false ++ [(argsBad k 24 [(63, 0), (95, 64), (100, 96), (191, 128)] || decide (argF k 63 0 % 64 ≠ 0), stMALFORMED),
        (busy u (.part p), stBUSY)]) :=
      passes_append.2 ⟨passes_levelExpert hexp, passes_cons.2 ⟨by simp [hargs, halign], passes_cons.2 ⟨hbp, passes_nil⟩⟩⟩
    have hlength : lengthIs (some img) (argF k 95 64) = true := decide_eq_true hlen
    by_cases hok : programOk u img = true
    · obtain ⟨j, hj, hkind, hkey⟩ := findJob_createJob (s := u) (p := p) (d := img.decl) (k := .program img.decl)
        (key := deriveKey (BitVec.ofNat 64 (argF k 191 128)) 0x10000) (w := true) (drone := []) (ch := ch) (choiceOk_jobFree hchoice)
      refine ⟨_, exec_programSubmit.trans (runCmd_of_body h (checked_some hargsOk ((if_neg (by rw [hlength]; simp)).trans
        (checked_some (passes_cons.2 ⟨congrArg not hok, passes_append.2 ⟨hpart, hplace⟩⟩) (if_pos hchoice))))), fun hbad => ?_, fun _ => ?_⟩
      · rw [hok] at hbad
        cases hbad
      · exact ⟨_, j, rfl, by rw [findJob_congr (submitJob_parts img _ ch)]; exact hj, hkind, hkey⟩
    · have hbad : programOk u img = false := Bool.not_eq_true _ ▸ hok
      refine ⟨refuseCmd u f k stIMAGE_INVALID, exec_programSubmit.trans (runCmd_of_body h (checked_some hargsOk ((if_neg (by rw [hlength]; simp)).trans ?_))),
        fun _ => rfl, fun hgood => absurd hgood hok⟩
      have hfirst : (!programOk (servedIn s f dt) img) = true := congrArg not hbad
      simp only [hfirst, List.cons_append]
      exact checked_of_first

end Sys2Proof.Machine
end

section
/-! PROOFS. Models by command: load, its completion, unload (R318 to R320). -/

namespace Sys2Proof.Machine
open Sys2Proof

/-! ### Writes of memory as a requester sees them -/

section
variable {s t : State} (hmem : t.mem = s.mem) (hmon : t.mon = s.mon)
include hmem hmon

theorem lineWith_congr (l o : Nat) (b : List Byte) : lineWith t l o b = lineWith s l o b := by
  have hkey : lineKey t l = lineKey s l := by rw [lineKey, lineKey, hmon]
  have hread : readLine t l = readLine s l := by rw [readLine, readLine, hkey, hmem]
  rw [lineWith, lineWith, hkey, hread]

theorem writeLines_congr (n l o : Nat) (b : List Byte) (m : Tbl Byte) : writeLines t n l o b m = writeLines s n l o b m := by
  induction n generalizing l o b m with
  | zero => rfl
  | succ n ih => rw [writeLines, writeLines, lineWith_congr hmem hmon, ih]

/-- What a write leaves depends on memory and on the monitor's entries and keys. -/
theorem devWritten_congr (a : Nat) (b : List Byte) : devWritten t a b = devWritten s a b := by
  have hunsealed : unsealed t a b.length = unsealed s a b.length := by rw [unsealed, unsealed, hmon]
  rw [devWritten, devWritten, hunsealed, hmem, writeLines_congr hmem hmon]

end

section
variable {s : State} {f : Func} {k : Taken} {dt : Nat} {m : ModelSlot}

theorem exec_modelLoad {img : Option Image} {ch : LoadChoice} : exec (.modelLoad f img ch dt) s = execModelLoad f img ch dt s := rfl
theorem exec_modelLoadComplete {tag : BitVec 16} {ch : PlaceChoice} :
    exec (.modelLoadComplete f tag ch dt) s = execModelLoadComplete f tag ch dt s := rfl
theorem exec_modelUnload : exec (.modelUnload f dt) s = execModelUnload f dt s := rfl

/-! ### Loads -/

/-- A load without a placement: the issuer is a user, and the load is in progress. -/
theorem loadInto_of_noplace {shared : Bool} {ch : PlaceChoice} {y : Model} (hy : getModel s m = some y) :
    loadInto s f k m shared true ch = some
      { setModel s m { y with users := if y.users.contains f then y.users else y.users ++ [f] } with
        inProgress := s.inProgress ++ [⟨f, k.tag, k.opcode, [.model m], false, true, loadRes m shared 0 y.digest⟩] } := by
  simp [loadInto, hy, placeDefault, modModel, loadObjs]

/-- A load of an image that is there adds its issuer to the users. -/
theorem loadInto_adds_user {shared : Bool} {ch : PlaceChoice} {y : Model} (hy : getModel s m = some y) :
    ∃ t, loadInto s f k m shared true ch = some t ∧ t.mem = s.mem ∧ (∃ q ∈ t.inProgress, q.f = f ∧ q.tag = k.tag) ∧
      ∃ z, getModel t m = some z ∧ f ∈ z.users ∧ z.digest = y.digest := by
  refine ⟨_, loadInto_of_noplace hy, rfl, ⟨_, List.mem_append_right _ (List.mem_singleton_self _), rfl, rfl⟩, _, getModel_setModel .., ?_, rfl⟩
  dsimp only
  split
  case isTrue hc => exact List.contains_iff_mem.1 hc
  · exact List.mem_append_right _ (List.mem_singleton_self f)

/-- The image of a first load stands where the runtime chose, in a slot of its own. -/
theorem loadNew_of_free {img : Image} {quant : Bool} {ch : LoadChoice} {a : Nat} (ha : ch.imageAt = some a) (hslot : getModel s ch.slot = none)
    (hspace : spaceOk s tier1Base tier2Base a (pages (imageBytes img quant).length) = true) :
    ∃ t, loadNew s f k img true quant ch = some t ∧ t.mem = devWritten s a (imageBytes img quant) ∧ (∃ q ∈ t.inProgress, q.f = f ∧ q.tag = k.tag) ∧
      ∃ y, getModel t ch.slot = some y ∧ y.digest = digestOf img.obj ∧ y.loading = true ∧ y.users = [f] ∧ y.owner = f ∧ y.imageAt = a := by
  obtain ⟨y, hy, hdigest, hload, husers, howner, hat⟩ : ∃ y, newModel img f a (imageBytes img quant).length quant = y ∧ y.digest = digestOf img.obj ∧
      y.loading = true ∧ y.users = [f] ∧ y.owner = f ∧ y.imageAt = a := ⟨_, rfl, rfl, rfl, rfl, rfl, rfl⟩
  obtain ⟨v, hv⟩ : ∃ v, { devWrite (setModel s ch.slot y) a (imageBytes img quant) with
      regions := (setModel s ch.slot y).regions ++ [(⟨a, pages (imageBytes img quant).length, .model ch.slot⟩ : Region)] } = v := ⟨_, rfl⟩
  have hmodel : getModel v ch.slot = some y := by
    rw [← hv]
    exact getModel_setModel ..
  have hstep : loadNew s f k img true quant ch = loadInto v f k ch.slot false true ch.place := by
    unfold loadNew
    simp only [ha]
    rw [if_neg (by simp [hslot, hspace]), hy, hv]
  refine ⟨_, hstep.trans (loadInto_of_noplace hmodel), ?_, ⟨_, List.mem_append_right _ (List.mem_singleton_self _), rfl, rfl⟩, ?_⟩
  · rw [← hv]
    exact devWritten_congr (s := s) (t := setModel s ch.slot y) rfl rfl a (imageBytes img quant)
  · refine ⟨_, getModel_setModel .., hdigest, hload, ?_, howner, hat⟩
    simp [husers]

section
variable (h : Serves f 0x0101 k s) (hexp : isExpert (servedIn s f dt) f = true)
  (hargs : argsBad k 14 [(63, 0), (103, 64), (104, 104), (105, 105)] = false) (halign : argF k 63 0 % 64 = 0) (hlen : argF k 103 64 ≠ 0)
  {img : Image} (himg : img.obj.bytes.length = argF k 103 64) {ch : LoadChoice}
include h hexp hargs halign hlen himg

/-- A load whose image is not sound is refused. -/
theorem execModelLoad_of_bad (hbad : imageOk (servedIn s f dt) img = false) :
    execModelLoad f (some img) ch dt s = .next (refuseCmd (servedIn s f dt) f k stIMAGE_INVALID) := by
  refine runCmd_of_body h (checked_some ?_ ((if_neg (by simp [lengthIs, himg])).trans ?_))
  · exact passes_cons.2 ⟨by rw [hexp]; simp, passes_cons.2 ⟨by simp [hargs, halign, hlen], passes_nil⟩⟩
  · simp only [hbad]
    exact checked_of_first

/-- A load whose image is sound goes on by the slot that holds its digest. -/
theorem execModelLoad_of_ok (hplace : argB k 105 = true) (hok : imageOk (servedIn s f dt) img = true) {t : State}
    (ht : (match slotOfDigest (servedIn s f dt) (digestOf img.obj) with
      | some m =>
        match getModel (servedIn s f dt) m with
        | none => none
        | some y =>
          if loadWaits (servedIn s f dt) m then
            some { servedIn s f dt with inProgress := (servedIn s f dt).inProgress ++ [⟨f, k.tag, k.opcode, [.model m], true, true, 0⟩] }
          else
            checked (servedIn s f dt) f k ((slotBusy (servedIn s f dt) m, stBUSY) ::
                defaultChecks (servedIn s f dt) f y.decl true (y.faulted || y.weightsAt.isEmpty) ch.place ++
                [(y.faulted && argB k 104 && !anyFreeCourse (servedIn s f dt), stNO_COURSE)]) <|
              if y.faulted then loadAgain (servedIn s f dt) f k m y img true (argB k 104) ch else loadInto (servedIn s f dt) f k m true true ch.place
      | none =>
        checked (servedIn s f dt) f k ((decide (64 ≤ (servedIn s f dt).models.length), stMODEL_FULL) ::
            defaultChecks (servedIn s f dt) f img.decl true true ch.place ++
          [(argB k 104 && !anyFreeCourse (servedIn s f dt), stNO_COURSE),
           (ch.imageAt.isNone && !hasSpace (servedIn s f dt) tier1Base tier2Base (paged [pages img.obj.bytes.length]), stTIER_FULL)]) <|
          loadNew (servedIn s f dt) f k img true (argB k 104) ch) = some t) :
    execModelLoad f (some img) ch dt s = .next t := by
  refine runCmd_of_body h (checked_some ?_ ((if_neg (by simp [lengthIs, himg])).trans (checked_some (passes_cons.2 ⟨?_, passes_nil⟩) ?_)))
  · exact passes_cons.2 ⟨by rw [hexp]; simp, passes_cons.2 ⟨by simp [hargs, halign, hlen], passes_nil⟩⟩
  · exact congrArg not hok
  · rw [hplace]
    exact ht

end

theorem loadWaits_of_free (hb : busy s (.model m) = false) : loadWaits s m = false ∧ slotBusy s m = false := by
  simp only [busy, List.any_eq_false] at hb
  simp only [loadWaits, slotBusy, List.any_eq_false]
  exact ⟨fun q hq => by rw [Bool.and_eq_true]; exact fun h => hb q hq h.2, fun q hq => by rw [Bool.and_eq_true]; exact fun h => hb q hq h.2⟩

end

/-! ### Unload -/

section
variable {s t : State} {f : Func} {m : ModelSlot}

theorem triggerReclaim_models (p : PartId) (j : JobNo) (r : BitVec 8) : (triggerReclaim s p j r).models = s.models := by
  have hstop (v : State) : (closeCharge (stopCores v p) p).models = v.models := by
    obtain ⟨C, B, P, T, h⟩ := (stopsCores_stopCores.trans stopsCores_closeCharge : StopsCores v (closeCharge (stopCores v p) p)).frame
    rw [h]
  obtain ⟨v, hv⟩ : ∃ v, modJob s p j (crashedBy r) = v := ⟨_, rfl⟩
  have hmodels : v.models = s.models := by
    rw [← hv]
    rfl
  have hstep : triggerReclaim s p j r = if (getPart v p).task.isSome ∧ (getPart v p).job = j then
      modPart (closeCharge (stopCores v p) p) p fun x => { x with stopping := true, endReq := none } else v := by rw [← hv]; rfl
  rw [hstep]
  refine ite_cases (P := fun t : State => t.models = s.models) ?_ hmodels
  rw [modPart_eq, setPart_models, hstop, hmodels]

theorem triggerReclaims_models (l : List (PartId × JobNo)) (r : BitVec 8) (s : State) :
    (l.foldl (fun s k => triggerReclaim s k.1 k.2 r) s).models = s.models := by
  induction l generalizing s with
  | nil => rfl
  | cons k l ih => rw [List.foldl_cons, ih, triggerReclaim_models]

theorem usesModel_congr (h : t.models = s.models) : usesModel t f m = usesModel s f m := by
  rw [usesModel, usesModel, getModel, h]
  rfl

theorem usesModel_modModel {n : ModelSlot} {g : Model → Model} (hg : ∀ y, f ∉ y.users → f ∉ (g y).users) (h : usesModel s f m = false) :
    usesModel (modModel s n g) f m = false := by
  unfold modModel
  split
  case h_1 y hy =>
    by_cases hm : m = n
    · subst hm
      have huser : f ∉ y.users := by simpa [usesModel, hy] using h
      simpa [usesModel] using hg y huser
    · rw [usesModel, getModel_setModel_ne _ _ _ _ hm]
      exact h
  case h_2 => exact h

theorem usesModel_dropUser_self : usesModel (dropUser s m f) f m = false := by
  unfold dropUser modModel
  split
  · simp [usesModel]
  case h_2 hnone => simp [usesModel, hnone]

theorem usesModel_dropUser {n : ModelSlot} {g : Func} (h : usesModel s f m = false) : usesModel (dropUser s n g) f m = false :=
  usesModel_modModel (fun y hy => by simp [hy]) h

theorem usesModel_releaseModel {n : ModelSlot} (h : usesModel s f m = false) : usesModel (releaseModel s n) f m = false := by
  unfold releaseModel
  split
  · exact h
  · refine ite_cases (P := fun t : State => usesModel t f m = false) ?_ h
    obtain ⟨v, hv⟩ : ∃ v, releaseRegions s (fun r => decide (r.use = .model n)) = v := ⟨_, rfl⟩
    have hmodels : v.models = s.models := by
      rw [← hv]
      refine (foldl_fixed (g := State.models) (fun s r => ?_) _ _).trans rfl
      unfold freeRegion
      split
      · rfl
      · split <;> rfl
    dsimp only
    rw [hv]
    by_cases hm : m = n
    · subst hm
      simp [usesModel, getModel, tfind_tdel_self]
    · have hfind : getModel { v with models := tdel v.models n.toNat } m = getModel s m := by
        rw [getModel, getModel, hmodels, tfind_tdel_ne (toNat_ne hm)]
      rw [usesModel, hfind]
      exact h

/-- Settling makes no function a user of a model. -/
theorem usesModel_settleProgress (h : usesModel s f m = false) : usesModel (settleProgress s) f m = false := by
  have hfold {α : Type} {g : State → α → State} (hg : ∀ s x, usesModel s f m = false → usesModel (g s x) f m = false) (l : List α) (s : State)
      (hs : usesModel s f m = false) : usesModel (l.foldl g s) f m = false :=
    foldl_rel (R := fun s t => usesModel s f m = false → usesModel t f m = false) (fun _ => id) (fun _ _ _ h k hs => k (h hs)) hg l s hs
  have hresult (s : State) (q : InProgress) (hs : usesModel s f m = false) : usesModel (postResult s q.f q.opcode q.tag stOK 0) f m = false := by
    obtain ⟨F, hF⟩ := postResult_frame s q.f q.opcode q.tag stOK 0
    rw [hF]
    exact hs
  have hcmds : usesModel (settleCmds s) f m = false := by
    refine hfold (fun s q hs => ?_) _ _ h
    unfold finishCmd
    refine hresult _ q (ite_cases (P := fun t : State => usesModel t f m = false) (hfold (fun s o hs => ?_) _ _ hs) hs)
    cases o
    case model n => exact usesModel_releaseModel hs
    all_goals exact hs
  refine hfold (fun s g hs => ?_) _ _ hcmds
  unfold finishFlr
  refine ite_cases (P := fun t : State => usesModel t f m = false) ?_ hs
  refine (usesModel_congr rfl).trans (hfold (fun s n hs => ?_) _ _ hs)
  exact ite_cases (P := fun t : State => usesModel t f m = false) (usesModel_dropUser hs) (usesModel_releaseModel (usesModel_dropUser hs))

end

/-- Settles O37: a load by the slot that holds its digest, the completion of one that does not wait, an unload that drops the user. -/
theorem modelCommandsComplete : Obligations.ModelCommandsComplete := by
  intro f k dt s u
  refine ⟨fun img ch h hexp hplace hargs halign hlen himg => ⟨fun a hnew hroom hcourse ha hslot hspace => ?_, fun m y hm hy hfault hbusy => ?_,
    fun m y hm hy hwait hok => ?_⟩, fun q ch m y hrt hop hwait hm hy hfind => ?_, fun h hargs => ?_⟩
  · cases hok : imageOk u img with
    | false => exact ⟨_, exec_modelLoad.trans (execModelLoad_of_bad h hexp hargs halign hlen himg hok), fun _ => rfl, (fun h => by cases h)⟩
    | true =>
      obtain ⟨t, ht, hres⟩ := loadNew_of_free (f := f) (k := k) (img := img) ha hslot hspace
      refine ⟨t, exec_modelLoad.trans (execModelLoad_of_ok h hexp hargs halign hlen himg hplace hok ?_), (fun h => by cases h), fun _ => ?_⟩
      · have hd : slotOfDigest (servedIn s f dt) (digestOf img.obj) = none := hnew
        rw [hd]
        refine checked_some (passes_cons.2 ⟨decide_eq_false (Nat.not_le.2 hroom), passes_cons.2 ⟨?_, passes_cons.2 ⟨by simp [ha], passes_nil⟩⟩⟩) ht
        cases hq : argB k 104 with
        | false => rfl
        | true => exact congrArg not (hcourse hq)
      · obtain ⟨hmem, hrest⟩ := hres
        exact ⟨hmem.trans (devWritten_congr (servedIn_mem s f dt) (servedIn_mon s f dt) _ _), hrest⟩
  · cases hok : imageOk u img with
    | false => exact ⟨_, exec_modelLoad.trans (execModelLoad_of_bad h hexp hargs halign hlen himg hok), fun _ => rfl, (fun h => by cases h)⟩
    | true =>
      obtain ⟨hwait, hslot⟩ := loadWaits_of_free hbusy
      obtain ⟨t, hgo, hmem, hrest⟩ := loadInto_adds_user (f := f) (k := k) (shared := true) (ch := ch.place) hy
      refine ⟨t, exec_modelLoad.trans (execModelLoad_of_ok h hexp hargs halign hlen himg hplace hok ?_), (fun h => by cases h), fun _ => ?_⟩
      · have hd : slotOfDigest (servedIn s f dt) (digestOf img.obj) = some m := hm
        have hy' : getModel (servedIn s f dt) m = some y := hy
        have hwait' : loadWaits (servedIn s f dt) m = false := hwait
        simp only [hd, hy', hwait', hfault, Bool.false_eq_true, if_false]
        exact checked_some (passes_cons.2 ⟨hslot, passes_cons.2 ⟨rfl, passes_nil⟩⟩) hgo
      · exact ⟨hmem.trans (servedIn_mem s f dt), hrest⟩
  · refine exec_modelLoad.trans (execModelLoad_of_ok h hexp hargs halign hlen himg hplace hok ?_)
    have hd : slotOfDigest (servedIn s f dt) (digestOf img.obj) = some m := hm
    have hy' : getModel (servedIn s f dt) m = some y := hy
    have hwait' : loadWaits (servedIn s f dt) m = true := hwait
    simp only [hd, hy', hwait', if_true]
    rfl
  · refine exec_modelLoadComplete.trans (congrArg Host.Outcome.next ?_)
    have hfind' : s.inProgress.find? (fun r => decide (r.f = q.f) && decide (r.tag = q.tag) && decide (r.opcode = 0x0101)) = some q := hfind
    simp only [hfind', hm, hy, hrt, if_true, completeLoad, hwait, Bool.not_false, Option.getD_some]
    obtain ⟨T, B, ht⟩ := tick_frame s dt
    rw [ht]
  · intro m hbusy huses hheld
    refine ⟨_, exec_modelUnload.trans (runCmd_of_body h (checked_some ?_ rfl)), usesModel_settleProgress ?_⟩
    · exact passes_cons.2 ⟨hargs, passes_cons.2 ⟨hbusy, passes_cons.2 ⟨congrArg not huses, passes_cons.2 ⟨hheld, passes_nil⟩⟩⟩⟩
    · exact (usesModel_congr (triggerReclaims_models (placementsOf u f m) rsREMOVED (dropUser u m f))).trans usesModel_dropUser_self

end Sys2Proof.Machine
end

section
/-! PROOFS. Pause, resume, close and reset of streams by handle list (R24, R34 to R36, R43, R322). -/

namespace Sys2Proof.Machine
open Sys2Proof

/-! ### A step of each handle in turn -/

section
variable {s t u : State} {l : List Handle} {f : Func}

theorem otherStreamsSame_refl (s : State) (l : List Handle) : OtherStreamsSame s s l := fun _ _ => rfl

theorem otherStreamsSame_trans (h : OtherStreamsSame s t l) (k : OtherStreamsSame t u l) : OtherStreamsSame s u l :=
  fun x hx => (k x hx).trans (h x hx)

theorem otherStreamsSame_of_streams (h : t.streams = s.streams) : OtherStreamsSame s t l := fun x _ => by rw [getStream, getStream, h]

theorem otherStreamsSame_setStream (h : Handle) (x : Stream) : OtherStreamsSame s (setStream s h x) [h] :=
  fun k hk => getStream_setStream_ne s h k x (by simpa using hk)

/-- What a step of one handle does: its stream goes from `pre` to `post`, what `inv` says of the state stays, and the other streams are as before. -/
def StepsStream (inv : State → Prop) (pre : Stream → Prop) (post : Stream → Stream → Prop) (h : Handle) (s t : State) : Prop :=
  inv s → pre (getStream s h) → inv t ∧ OtherStreamsSame s t [h] ∧ post (getStream s h) (getStream t h)

/-- A fold over distinct handles does to each stream what its step does. -/
theorem foldl_streams {inv : State → Prop} {pre : Stream → Prop} {post : Stream → Stream → Prop} {g : State → Handle → State}
    (hg : ∀ s h, StepsStream inv pre post h s (g s h)) (hl : l.Nodup) (hinv : inv s) (hpre : ∀ h ∈ l, pre (getStream s h)) :
    inv (l.foldl g s) ∧ OtherStreamsSame s (l.foldl g s) l ∧ ∀ h ∈ l, post (getStream s h) (getStream (l.foldl g s) h) := by
  induction l generalizing s with
  | nil => exact ⟨hinv, otherStreamsSame_refl s [], fun _ h => absurd h List.not_mem_nil⟩
  | cons h l ih =>
    obtain ⟨hh, hl⟩ := List.nodup_cons.1 hl
    obtain ⟨hi, hsame, hpost⟩ := hg s h hinv (hpre h (List.mem_cons_self ..))
    have hkeep (k : Handle) (hk : k ∈ l) : getStream (g s h) k = getStream s k := hsame k fun hm => hh (List.mem_singleton.1 hm ▸ hk)
    obtain ⟨hi', hsame', hpost'⟩ := ih hl hi fun k hk => by
      rw [hkeep k hk]
      exact hpre k (List.mem_cons_of_mem h hk)
    refine ⟨hi', fun k hk => ?_, fun k hk => ?_⟩
    · rw [List.mem_cons, not_or] at hk
      exact (hsame' k hk.2).trans (hsame k (by simpa using hk.1))
    · rcases List.mem_cons.1 hk with rfl | hk
      · rw [List.foldl_cons, hsame' k hh]
        exact hpost
      · rw [List.foldl_cons, ← hkeep k hk]
        exact hpost' k hk

/-- A list command whose every handle is accepted applies the step to each in turn. -/
theorem listEach_of_accepted {pre : Stream → Prop} {inv : State → Prop} {post : Stream → Stream → Prop} {g : State → Handle → State}
    {app : State → Handle → Option State} (hg : ∀ s h, StepsStream inv pre post h s (g s h))
    (happ : ∀ s h, pre (getStream s h) → app s h = some (g s h)) (hmine : ∀ x, pre x → x.state ≠ .free ∧ x.client = f) (hl : l.Nodup) (hinv : inv s)
    (hpre : ∀ h ∈ l, pre (getStream s h)) : (listEach s f app l).1 = l.foldl g s := by
  induction l generalizing s with
  | nil => rfl
  | cons h l ih =>
    obtain ⟨hh, hl⟩ := List.nodup_cons.1 hl
    have hp := hpre h (List.mem_cons_self ..)
    obtain ⟨hfree, hclient⟩ := hmine _ hp
    obtain ⟨hi, hsame, -⟩ := hg s h hinv hp
    have hrest := ih hl hi fun k hk => by
      rw [hsame k fun hm => hh (List.mem_singleton.1 hm ▸ hk)]
      exact hpre k (List.mem_cons_of_mem h hk)
    rw [listEach, if_neg hfree, if_neg (not_not_intro hclient), happ s h hp, List.foldl_cons]
    exact hrest

theorem listResult_frame (s : State) (f : Func) (k : Taken) (sts : List (BitVec 16)) : ∃ F, listResult s f k sts = { s with funcs := F } := postResult_frame ..

/-- A list command whose every handle is accepted, with nothing to follow its RESULT. -/
theorem listCmd_of_accepted {pre : Stream → Prop} {inv : State → Prop} {post : Stream → Stream → Prop} {g : State → Handle → State}
    {app : State → Handle → Option State} {k : Taken} {opt : Bool} (hg : ∀ s h, StepsStream inv pre post h s (g s h))
    (happ : ∀ s h, pre (getStream s h) → app s h = some (g s h)) (hmine : ∀ x, pre x → x.state ≠ .free ∧ x.client = f)
    (hlist : listBad k opt = false) (hl : (listHandles k).Nodup) (hinv : inv s) (hpre : ∀ h ∈ listHandles k, pre (getStream s h))
    (after : State → Handle → State) :
    ∃ v F, listCmd s f k opt app after = some ((listHandles k).foldl after { v with funcs := F }) ∧ inv v ∧ OtherStreamsSame s v (listHandles k) ∧
      ∀ h ∈ listHandles k, post (getStream s h) (getStream v h) := by
  obtain ⟨hi, hsame, hpost⟩ := foldl_streams hg hl hinv hpre
  have heach := listEach_of_accepted hg happ hmine hl hinv hpre
  obtain ⟨F, hF⟩ := listResult_frame (listEach s f app (listHandles k)).1 f k (listEach s f app (listHandles k)).2
  refine ⟨_, F, checked_some (passes_cons.2 ⟨hlist, passes_nil⟩) (congrArg some ?_), hi, hsame, hpost⟩
  rw [hF, heach]

end

/-! ### Pause, resume, reset -/

section
variable {s : State} {h : Handle} {f : Func}

theorem exec_streamPause {dt : Nat} : exec (.streamPause f dt) s = execStreamPause f dt s := rfl
theorem exec_streamResume {dt : Nat} {b : List NewBlock} : exec (.streamResume f b dt) s = execStreamResume f b dt s := rfl
theorem exec_streamClose {dt : Nat} : exec (.streamClose f dt) s = execStreamClose f dt s := rfl
theorem exec_streamReset {dt : Nat} : exec (.streamReset f dt) s = execStreamReset f dt s := rfl

/-- A stream as a pause leaves it. -/
def pausedStream (now : W64) (y : Fn) (x : Stream) : Stream := { x with state := .paused, pauseAt := some now, delays := (y.delay1, y.delay2) }

theorem pauseStream_of_active (hx : (getStream s h).state = .active ∧ (getStream s h).client = f) :
    pauseStream s h = some (modStream s h (pausedStream s.time (getFn s f))) := by
  obtain ⟨hactive, rfl⟩ := hx
  exact if_pos hactive

theorem dropDemotion_of_none (hm : (getStream s h).move = none) : dropDemotion s h = s := by rw [dropDemotion, hm]

theorem length_restartDeadlines (s : State) (x : Stream) : (restartDeadlines s x).length = x.chunks.length := by
  unfold restartDeadlines
  dsimp only
  split
  · cases x.chunks <;> simp
  · simp

/-- The stream goes on as it is in tier 0. -/
theorem resumeStream_of_paused {blocks : List NewBlock} (hx : (getStream s h).state = .paused ∧ (getStream s h).migrating = false ∧
    (getStream s h).move = none ∧ imageTier (getStream s h) = 0) :
    resumeStream blocks s h = some (modStream s h fun x => { x with state := .active, pauseAt := none, chunks := restartDeadlines s x }) := by
  obtain ⟨hstate, hmig, hmove, htier⟩ := hx
  have hgo : ((getStream s h).state = .paused ∨ (getStream s h).state = .evicted) ∧ (!(getStream s h).migrating) = true := ⟨.inl hstate, by rw [hmig]; rfl⟩
  rw [resumeStream, if_pos hgo, dropDemotion_of_none hmove]
  refine congrArg some (if_pos (.inl ?_))
  rw [modStream_eq, getStream_setStream]
  exact htier

/-- The stream as a reset leaves it. -/
def restarted (discard : Bool) (f : Nat) (x : Stream) : Stream :=
  let y := { x with resetFlag := true, resetNext := x.inBundle, sb := sbRestart x.sb }
  if discard then discardAudio f y else y

theorem restarted_fields (discard : Bool) (f : Nat) (x : Stream) :
    (restarted discard f x).resetFlag = true ∧ (restarted discard f x).resetNext = x.inBundle ∧ (restarted discard f x).state = x.state ∧
      (discard = false → (restarted discard f x).chunks = x.chunks ∧ (restarted discard f x).ibRd = x.ibRd) := by
  unfold restarted
  cases discard
  · exact ⟨rfl, rfl, rfl, fun _ => ⟨rfl, rfl⟩⟩
  · refine ⟨?_, ?_, ?_, fun h => by cases h⟩ <;>
    · simp only [if_true, discardAudio]
      split <;> rfl

theorem resetStream_of_open {d : Bool} (hx : (getStream s h).state ≠ .closing ∧ (getStream s h).migrating = false) :
    resetStream d s h = some (modStream s h (restarted d (chunkFrames s (getStream s h)))) :=
  if_pos ⟨hx.1, by rw [hx.2]; rfl⟩

/-- A step that changes the stream's entry only. -/
theorem stepsStream_modStream {inv : State → Prop} {pre : Stream → Prop} {post : Stream → Stream → Prop} {g : Stream → Stream}
    (hinv : ∀ x, inv s → inv (setStream s h x)) (hpost : inv s → pre (getStream s h) → post (getStream s h) (g (getStream s h))) :
    StepsStream inv pre post h s (modStream s h g) := by
  intro hi hp
  rw [modStream_eq, getStream_setStream]
  exact ⟨hinv _ hi, otherStreamsSame_setStream h _, hpost hi hp⟩

end

/-! ### Close -/

section
variable {s : State} {h : Handle} {f : Func}

/-- A stream as a close leaves it, what it drains apart. -/
def closingStream (abort : Bool) (x : Stream) : Stream :=
  let x := { x with state := .closing, closing := some ⟨abort, false, false⟩, pauseAt := none }
  if abort then abortAudio x else x

theorem closingStream_fields (abort : Bool) (x : Stream) :
    (closingStream abort x).state = .closing ∧ (closingStream abort x).closing = some ⟨abort, false, false⟩ ∧ (closingStream abort x).inBundle = x.inBundle ∧
      (closingStream abort x).move = x.move ∧ (abort = true → x.inBundle = false → (closingStream abort x).chunks = []) := by
  unfold closingStream
  cases abort
  · exact ⟨rfl, rfl, rfl, rfl, fun h => by cases h⟩
  · refine ⟨rfl, rfl, rfl, rfl, fun _ hb => ?_⟩
    simp [abortAudio, hb]

/-- Draining marks the close and nothing else. -/
theorem markDrained_cases (s : State) (h : Handle) : markDrained s h = s ∨
    markDrained s h = modStream s h fun x => { x with closing := x.closing.map fun c => { c with drained := true } } := by
  unfold markDrained
  dsimp only
  split
  · exact .inr rfl
  · exact .inl rfl

/-- A stream that is closing as asked: `busy` where its chunk is in a bundle. -/
structure IsClosing (abort busy : Bool) (x : Stream) : Prop where
  state : x.state = .closing
  close : ∃ c, x.closing = some c ∧ c.abort = abort ∧ c.silently = false
  inBundle : x.inBundle = busy
  move : x.move = none
  dropped : abort = true → busy = false → x.chunks = []

/-- A stream that a close takes. -/
def MayClose (f : Func) (busy : Bool) (x : Stream) : Prop :=
  x.state ≠ .closing ∧ x.migrating = false ∧ x.inBundle = busy ∧ x.move = none ∧ x.state ≠ .free ∧ x.client = f

theorem closeStream_of_open {abort busy : Bool} (hx : MayClose f busy (getStream s h)) :
    closeStream abort s h = some (markDrained (modStream s h (closingStream abort)) h) := by
  obtain ⟨hstate, hmig, -, hmove, -⟩ := hx
  refine (if_pos ⟨hstate, by rw [hmig]; rfl⟩).trans ?_
  rw [dropDemotion_of_none hmove]
  rfl

theorem stepsStream_closeStream {abort busy : Bool} : StepsStream (fun _ => True) (MayClose f busy) (fun _ => IsClosing abort busy) h s
    (markDrained (modStream s h (closingStream abort)) h) := by
  intro _ hx
  obtain ⟨-, -, hb, hmove, -⟩ := hx
  obtain ⟨hstate, hclose, hbundle, hmove', hdrop⟩ := closingStream_fields abort (getStream s h)
  have hclosing : IsClosing abort busy (closingStream abort (getStream s h)) :=
    ⟨hstate, ⟨_, hclose, rfl, rfl⟩, hbundle.trans hb, hmove'.trans hmove, fun ha hf => hdrop ha (hb.trans hf)⟩
  have hfirst : getStream (modStream s h (closingStream abort)) h = closingStream abort (getStream s h) := by rw [modStream_eq, getStream_setStream]
  refine ⟨trivial, ?_⟩
  rcases markDrained_cases (modStream s h (closingStream abort)) h with hd | hd
  · rw [hd, hfirst]
    exact ⟨otherStreamsSame_setStream h _, hclosing⟩
  · rw [hd, modStream_eq, hfirst, getStream_setStream]
    refine ⟨otherStreamsSame_trans (otherStreamsSame_setStream h _) (otherStreamsSame_setStream h _), ?_⟩
    obtain ⟨hstate, ⟨c, hc, ha, hs⟩, hbundle, hmove, hdrop⟩ := hclosing
    exact ⟨hstate, ⟨{ c with drained := true }, by rw [hc]; rfl, ha, hs⟩, hbundle, hmove, hdrop⟩

/-- A close waits for the chunk in a bundle. -/
theorem endClose_of_busy {abort : Bool} (hx : IsClosing abort true (getStream s h)) : endClose s h = s := by
  refine if_neg ?_
  simp [closeDone, hx.inBundle]

theorem putRecord_otherStreams (token : BitVec 24) (g : RecFlags) (time : W32) (score : BitVec 16) (seq : W32) :
    OtherStreamsSame s (putRecord s h token g time score seq) [h] := by
  have hwr (s : State) (f : Func) (a : Nat) (b : List Byte) : (hostWr s f a b).streams = s.streams := by
    unfold hostWr
    split <;> rfl
  unfold putRecord
  dsimp only
  refine ite_cases (P := fun t : State => OtherStreamsSame s t [h]) (otherStreamsSame_refl s [h]) ?_
  exact otherStreamsSame_trans (otherStreamsSame_of_streams (hwr ..)) (otherStreamsSame_setStream (s := chargeHost (hostWr s _ _ _) _ _) h _)

theorem postDone_frame (s : State) (l : List DoneEntry) : ∃ F, postDone s l = { s with funcs := F } := by
  have htrans {α : Type} {g : State → α → State} (hg : ∀ s x, ∃ F, g s x = { s with funcs := F }) (l : List α) (s : State) :
      ∃ F, l.foldl g s = { s with funcs := F } :=
    foldl_rel (R := fun s t => ∃ F, t = { s with funcs := F }) (fun _ => ⟨_, rfl⟩) (fun _ _ _ ⟨_, h⟩ ⟨F, h'⟩ => ⟨F, by rw [h', h]⟩) hg l s
  exact htrans (fun s k => htrans (fun s m => postMsg_frame s _ _) _ s) _ s

theorem freeStream_streams (s : State) (h : Handle) : (freeStream s h).streams = (setStream s h .reset).streams := by
  have hrel (s : State) (q : Region → Bool) : (releaseRegions s q).streams = s.streams := (settles_releaseRegions q).fields.2.2.2.1
  unfold freeStream
  dsimp only
  split
  · exact congrArg (fun m => tput .reset m h.toNat Stream.reset) (hrel s _)
  · exact congrArg (fun m => tput .reset m h.toNat Stream.reset) (hrel s _)

/-- A close that has nothing left to run frees the stream. -/
theorem endClose_of_dropped (hx : IsClosing true false (getStream s h)) :
    OtherStreamsSame s (endClose s h) [h] ∧ (getStream (endClose s h) h).state = .free := by
  obtain ⟨hstate, ⟨c, hc, habort, hsilent⟩, hbundle, hmove, hdrop⟩ := hx
  have hdone : closeDone s (getStream s h) = true := by simp [closeDone, hstate, hbundle, hc, habort, hdrop rfl rfl]
  have hend : endClose s h = finishClose s h := by
    rw [endClose, if_pos hdone, dropMove, hmove]
  obtain ⟨v, hv, hsame⟩ : ∃ v, endClose s h = freeStream v h ∧ OtherStreamsSame s v [h] := by
    rw [hend, finishClose, hdone]
    refine ⟨_, rfl, ?_⟩
    refine otherStreamsSame_trans (putRecord_otherStreams (h := h) noToken ⟨false, false, false, false, true, false⟩ (recTime s (getStream s h) 0) 0
      (getStream s h).nextSeq) ?_
    split
    · exact otherStreamsSame_refl _ _
    · obtain ⟨F, hF⟩ := postDone_frame (putRecord s h noToken ⟨false, false, false, false, true, false⟩ (recTime s (getStream s h) 0) 0
        (getStream s h).nextSeq) [doneEntry (getStream s h) h (getStream s h).nextSeq false true]
      rw [hF]
      exact otherStreamsSame_of_streams rfl
  have hstreams := freeStream_streams v h
  rw [hv]
  refine ⟨otherStreamsSame_trans hsame (otherStreamsSame_trans (otherStreamsSame_setStream h .reset) (otherStreamsSame_of_streams hstreams)), ?_⟩
  rw [getStream, hstreams]
  exact congrArg Stream.state (getStream_setStream v h .reset)

end

theorem foldl_same {α : Type} (l : List α) (s : State) : l.foldl (fun s _ => s) s = s := by
  induction l with
  | nil => rfl
  | cons x l ih => exact ih

/-- Settles O39: each handle of a sound list is accepted, its stream changed by its own step, and no other. -/
theorem handleListCommandsComplete : Obligations.HandleListCommandsComplete := by
  intro f k dt s u hs
  have hserved (l : List Handle) : OtherStreamsSame s u l := otherStreamsSame_of_streams (servedIn_streams s f dt)
  have hget (h : Handle) : getStream u h = getStream s h := by rw [getStream, getStream, servedIn_streams]
  have hmem : u.mem = s.mem := servedIn_mem s f dt
  refine ⟨fun h hl hpre => ?_, fun blocks h hl hpre => ?_, fun h hl hpre => ?_, fun h hl habort hpre => ?_, fun h hl hpre => ?_⟩
  · obtain ⟨v, F, hcmd, ⟨hvm, -⟩, hsame, hpost⟩ := listCmd_of_accepted (s := u) (f := f) (k := k) (opt := false)
      (inv := fun t => t.mem = u.mem ∧ t.time = u.time ∧ t.funcs = u.funcs)
      (pre := fun x => (x.state ≠ .free ∧ x.client = f) ∧ x.state = .active ∧ x.client = f)
      (post := fun x y => y = pausedStream u.time (getFn u f) x) (app := pauseStream) (g := fun s h => modStream s h (pausedStream s.time (getFn s f)))
      (fun s h => stepsStream_modStream (fun _ hi => hi) fun hi _ => by rw [getFn, getFn, hi.2.1, hi.2.2])
      (fun s h hx => pauseStream_of_active hx.2) (fun x hx => hx.1) hl.form hl.distinct ⟨rfl, rfl, rfl⟩
      (fun h hh => by rw [hget]; exact ⟨hl.mine h hh, hpre h hh, (hl.mine h hh).2⟩) (fun s _ => s)
    refine ⟨_, exec_streamPause.trans (runCmd_of_body h hcmd), ?_⟩
    rw [foldl_same]
    refine ⟨otherStreamsSame_trans (hserved hs) hsame, hvm.trans hmem, fun h hh => (hpost h hh).trans ?_⟩
    rw [hget]
    have hfn : (getFn u f).delay1 = (getFn s f).delay1 ∧ (getFn u f).delay2 = (getFn s f).delay2 := by
      show (getFn (dropCmd (tick s dt) f) f).delay1 = _ ∧ (getFn (dropCmd (tick s dt) f) f).delay2 = _
      rw [dropCmd, modFn_eq, getFn_setFn, getFn_tick]
      exact ⟨rfl, rfl⟩
    rw [pausedStream, hfn.1, hfn.2]
  · obtain ⟨v, F, hcmd, hvm, hsame, hpost⟩ := listCmd_of_accepted (s := u) (f := f) (k := k) (opt := false) (inv := fun t => t.mem = u.mem)
      (pre := fun x => (x.state ≠ .free ∧ x.client = f) ∧ x.state = .paused ∧ x.migrating = false ∧ x.move = none ∧ imageTier x = 0)
      (post := fun x y => y.state = .active ∧ y.pauseAt = none ∧ y.chunks.length = x.chunks.length) (app := resumeStream blocks)
      (g := fun s h => modStream s h fun x => { x with state := .active, pauseAt := none, chunks := restartDeadlines s x })
      (fun s h => stepsStream_modStream (fun _ hi => hi) fun _ _ => ⟨rfl, rfl, length_restartDeadlines s _⟩)
      (fun s h hx => resumeStream_of_paused hx.2) (fun x hx => hx.1) hl.form hl.distinct rfl
      (fun h hh => by rw [hget]; exact ⟨hl.mine h hh, hpre h hh⟩) (fun s _ => s)
    refine ⟨_, exec_streamResume.trans (runCmd_of_body h hcmd), ?_⟩
    rw [foldl_same]
    refine ⟨otherStreamsSame_trans (hserved hs) hsame, hvm.trans hmem, fun h hh => ?_⟩
    rw [← hget]
    exact hpost h hh
  · obtain ⟨v, F, hcmd, -, hsame, hpost⟩ := listCmd_of_accepted (s := u) (f := f) (k := k) (opt := true) (inv := fun _ => True)
      (pre := MayClose f true) (post := fun _ => IsClosing (argB k 8) true) (app := closeStream (argB k 8)) (fun s h => stepsStream_closeStream)
      (fun s h hx => closeStream_of_open hx) (fun x hx => ⟨hx.2.2.2.2.1, hx.2.2.2.2.2⟩) hl.form hl.distinct trivial
      (fun h hh => by
        rw [hget]
        obtain ⟨hc, hm, hb, hv⟩ := hpre h hh
        exact ⟨hc, hm, hb, hv, hl.mine h hh⟩) endClose
    obtain ⟨-, hsame', hpost'⟩ := foldl_streams (s := { v with funcs := F }) (l := hs) (inv := fun _ => True) (pre := IsClosing (argB k 8) true)
      (post := fun x y => y = x) (g := endClose)
      (fun s h _ hx => by rw [endClose_of_busy hx]; exact ⟨trivial, otherStreamsSame_refl _ _, rfl⟩) hl.distinct trivial hpost
    refine ⟨_, exec_streamClose.trans (runCmd_of_body h hcmd), otherStreamsSame_trans (hserved hs) (otherStreamsSame_trans hsame hsame'), fun h hh => ?_⟩
    rw [hpost' h hh]
    exact ⟨(hpost h hh).state, (hpost h hh).close⟩
  · obtain ⟨v, F, hcmd, -, hsame, hpost⟩ := listCmd_of_accepted (s := u) (f := f) (k := k) (opt := true) (inv := fun _ => True)
      (pre := MayClose f false) (post := fun _ => IsClosing (argB k 8) false) (app := closeStream (argB k 8)) (fun s h => stepsStream_closeStream)
      (fun s h hx => closeStream_of_open hx) (fun x hx => ⟨hx.2.2.2.2.1, hx.2.2.2.2.2⟩) hl.form hl.distinct trivial
      (fun h hh => by
        rw [hget]
        obtain ⟨hc, hm, hb, hv⟩ := hpre h hh
        exact ⟨hc, hm, hb, hv, hl.mine h hh⟩) endClose
    obtain ⟨-, hsame', hpost'⟩ := foldl_streams (s := { v with funcs := F }) (l := hs) (inv := fun _ => True) (pre := IsClosing true false)
      (post := fun _ y => y.state = .free) (g := endClose)
      (fun s h _ hx => ⟨trivial, endClose_of_dropped hx⟩) hl.distinct trivial (habort ▸ hpost)
    exact ⟨_, exec_streamClose.trans (runCmd_of_body h hcmd), otherStreamsSame_trans (hserved hs) (otherStreamsSame_trans hsame hsame'), hpost'⟩
  · obtain ⟨v, F, hcmd, hvm, hsame, hpost⟩ := listCmd_of_accepted (s := u) (f := f) (k := k) (opt := true) (inv := fun t => t.mem = u.mem)
      (pre := fun x => (x.state ≠ .free ∧ x.client = f) ∧ x.state ≠ .closing ∧ x.migrating = false)
      (post := fun x y => y.resetFlag = true ∧ y.resetNext = x.inBundle ∧ y.state = x.state ∧ (argB k 8 = false → y.chunks = x.chunks ∧ y.ibRd = x.ibRd))
      (app := resetStream (argB k 8)) (g := fun s h => modStream s h (restarted (argB k 8) (chunkFrames s (getStream s h))))
      (fun s h => stepsStream_modStream (fun _ hi => hi) fun _ _ => restarted_fields _ _ _)
      (fun s h hx => resetStream_of_open hx.2) (fun x hx => hx.1) hl.form hl.distinct rfl
      (fun h hh => by rw [hget]; exact ⟨hl.mine h hh, hpre h hh⟩) (fun s _ => s)
    refine ⟨_, exec_streamReset.trans (runCmd_of_body h hcmd), ?_⟩
    rw [foldl_same]
    refine ⟨otherStreamsSame_trans (hserved hs) hsame, hvm.trans hmem, fun h hh => ?_⟩
    rw [← hget]
    exact hpost h hh

end Sys2Proof.Machine
end

section
/-! PROOFS. `stream.open`, `stream.push` and the gather of a push (R22, R28, R29, R306, R307, R321). -/

namespace Sys2Proof.Machine
open Sys2Proof

section
variable {s : State} {f : Func} {k : Taken} {dt : Nat} {h : Handle}

theorem exec_streamOpen {ch : OpenChoice} : exec (.streamOpen f ch dt) s = execStreamOpen f ch dt s := rfl
theorem exec_streamPush {l : HostRead} {audio : List HostRead} : exec (.streamPush f l audio dt) s = execStreamPush f l audio dt s := rfl
theorem exec_pushGatherDone : exec (.pushGatherDone f dt) s = execPushGatherDone f dt s := rfl

/-! ### Open -/

/-- An open is carried out on a slot that has the profile, or takes one for it. -/
theorem openStream_spec (s : State) (y : Model) (m : ModelSlot) (p : Profile) (pl : Nat × Nat × Nat) (ch : OpenChoice) :
    ∃ t i, openStream s f k y m p pl ch = okCmd t f k (ch.handle.toNat + i.toNat * 2 ^ 16) ∧
      getStream t ch.handle = openedStream f k y m i ch.handle pl ∧ OtherStreamsSame s t [ch.handle] ∧ t.mem = s.mem := by
  obtain ⟨⟨i, v⟩, hv⟩ : ∃ r, takeProfile s p ch = r := ⟨_, rfl⟩
  have hframe : ∃ P, v = { s with profiles := P } := by
    unfold takeProfile at hv
    split at hv
    · exact ⟨_, (Prod.mk.inj hv).2.symm⟩
    · exact ⟨_, (Prod.mk.inj hv).2.symm⟩
  obtain ⟨P, hP⟩ := hframe
  refine ⟨setStream { v with regions := v.regions ++ streamRegions y.decl ch.handle pl (2 ^ argF k 196 192) (featureBytes y.decl p (argF k 203 200)) } ch.handle
    (openedStream f k y m i ch.handle pl), i, ?_, getStream_setStream .., ?_, ?_⟩
  · unfold openStream
    dsimp only
    rw [hv]
  · refine otherStreamsSame_trans (otherStreamsSame_of_streams ?_) (otherStreamsSame_setStream ch.handle _)
    rw [hP]
  · rw [hP]
    rfl

/-! ### Push -/

theorem pushOutcome_of_room {e : PushEntry} (hrsv : e.rsv = false) (hstate : (getStream s e.handle).state = .opened ∨ (getStream s e.handle).state = .active)
    (hclient : (getStream s e.handle).client = f)
    (hroom : ibHeld (getStream s e.handle) + (getStream s e.handle).reserved + e.len ≤ ibBytes (getStream s e.handle)) :
    pushOutcome s f e = poACCEPTED := by
  have hmine : othersStream f (getStream s e.handle) = false := by simp [othersStream, hclient]
  have hopen : ¬((getStream s e.handle).state ≠ .opened ∧ (getStream s e.handle).state ≠ .active) := fun h => hstate.elim h.1 h.2
  simp only [pushOutcome, hrsv, hmine, Bool.false_eq_true, if_false]
  rw [if_neg hopen, if_neg (Nat.not_lt.2 hroom)]

/-- The stream as an accepted entry leaves it: active, its bytes reserved. -/
def pushed (n : Nat) (x : Stream) : Stream := { x with reserved := x.reserved + n, state := .active }

theorem pushOne_of_accepted {e : PushEntry} {b : List Byte} (ho : pushOutcome s f e = poACCEPTED) (hlen : 0 < e.len) :
    pushOne f ⟨s, [], [], []⟩ e (some b) = ⟨setStream (setStream s e.handle { getStream s e.handle with reserved := (getStream s e.handle).reserved + e.len })
      e.handle (pushed e.len (getStream s e.handle)), [(e.handle, fitBytes e.len b)], [poACCEPTED], []⟩ := by
  unfold pushOne
  simp only [ho, ne_eq, not_true_eq_false, if_false, Nat.ne_of_gt hlen, modStream_eq, getStream_setStream, List.nil_append]
  rfl

/-- A list of one accepted entry whose audio was read. -/
theorem pushList_of_accepted {l b : List Byte} {audio : List HostRead} {e : PushEntry} (he : pushEntry l 0 = e) (ho : pushOutcome s f e = poACCEPTED)
    (hlen : 0 < e.len) :
    ∃ v g, pushList s f k 1 l (some b :: audio) = modFn v f (fun x => { x with gathers := x.gathers ++ [g] }) ∧
      (g.tag = k.tag ∧ g.accepted = 1 ∧ g.refused = 0 ∧ g.entries = [(e.handle, fitBytes e.len b)]) ∧
      getStream v e.handle = pushed e.len (getStream s e.handle) ∧ v.mem = s.mem ∧ v.funcs = s.funcs := by
  refine ⟨setStream (setStream s e.handle { getStream s e.handle with reserved := (getStream s e.handle).reserved + e.len }) e.handle
    (pushed e.len (getStream s e.handle)), ⟨k.tag, [(e.handle, fitBytes e.len b)], [(BitVec.ofNat 64 (argF k 63 0 + 16 * 0 + 3), poACCEPTED)], 1, 0,
      [(fitBytes e.len b).length].sum, false⟩, ?_, ⟨rfl, rfl, rfl, rfl⟩, getStream_setStream .., rfl, rfl⟩
  unfold pushList
  have hone : (List.range 1).foldl (fun a i => pushOne f a (pushEntry l i) ((some b :: audio).getD i none)) (⟨s, [], [], []⟩ : PushScan) =
      pushOne f ⟨s, [], [], []⟩ e (some b) := by rw [← he]; rfl
  rw [hone, pushOne_of_accepted ho hlen]
  rfl

/-! ### The gather -/

theorem draining_of_active {x : Stream} {p : Profile} (hx : x.state = .active) : draining x p = false := by simp [draining, hx]

theorem closeDone_of_active {x : Stream} (hx : x.state = .active) : closeDone s x = false := by simp [closeDone, hx]

theorem svcGuards_of_granted {l : List (Nat × Nat)} {ok : State} (hl : ∀ q ∈ l, svcGrant s true q.1 q.2 = true) : svcGuards s true l ok = ok := by
  have hnone : l.find? (fun x => !svcGrant s true x.1 x.2) = none := List.find?_eq_none.2 fun q hq => by simp [hl q hq]
  rw [svcGuards, hnone]

/-- The bytes of an accepted entry in the inbox ring (R29). -/
theorem putInbox_rd {b : List Byte} {i : Nat} (hfit : b.length ≤ ibBytes (getStream s h)) (hi : i < b.length) :
    Memory.rd (putInbox s h b).mem (ibAddr (getStream s h) + ((getStream s h).ibWr.toNat + i) % ibBytes (getStream s h)) = b[i] := by
  obtain ⟨size, hsize⟩ : ∃ n, ibBytes (getStream s h) = n := ⟨_, rfl⟩
  obtain ⟨wr, hwr⟩ : ∃ n, (getStream s h).ibWr.toNat = n := ⟨_, rfl⟩
  have hpos : 0 < size := hsize ▸ Nat.pow_pos (by decide)
  have hoff : wr % size < size := Nat.mod_lt _ hpos
  unfold putInbox
  simp only [hsize, hwr] at hfit ⊢
  by_cases hin : i < size - wr % size
  · have hidx : (wr + i) % size = wr % size + i := by
      rw [← Nat.mod_add_mod, Nat.mod_eq_of_lt (by omega)]
    rw [hidx, Memory.rd_wrs_out (by rw [List.length_drop]; omega), ← Nat.add_assoc, Memory.rd_wrs_in (by rw [List.length_take]; omega), List.getElem_take]
  · have hidx : (wr + i) % size = i - (size - wr % size) := by
      rw [← Nat.mod_add_mod, Nat.mod_eq_sub_mod (by omega), Nat.mod_eq_of_lt (by omega)]
      omega
    rw [hidx, Memory.rd_wrs_in (by rw [List.length_drop]; omega), List.getElem_drop]
    congr 1
    omega

/-- A stream as a gathered entry leaves it. -/
def gatheredStream (n : Nat) (x : Stream) : Stream :=
  { x with ibWr := x.ibWr + BitVec.ofNat 32 n, reserved := x.reserved - n, dropReserved := x.dropReserved - n
           ibRd := if 0 < x.dropReserved then x.ibWr + BitVec.ofNat 32 n else x.ibRd }

/-- An entry of an active stream is gathered where the service may write the ring. -/
theorem gatherOne_of_active {b : List Byte} (hx : (getStream s h).state = .active)
    (hgrant : ∀ q ∈ ringPieces (ibAddr (getStream s h)) (ibBytes (getStream s h)) (getStream s h).ibWr.toNat b.length, svcGrant s true q.1 q.2 = true) :
    gatherOne s (h, b) = chargeHost (setStream (putInbox s h b) h (gatheredStream b.length (getStream s h))) (getStream s h).client b.length := by
  obtain ⟨v, hv⟩ : ∃ v, chargeHost (setStream (putInbox s h b) h (gatheredStream b.length (getStream s h))) (getStream s h).client b.length = v := ⟨_, rfl⟩
  have hstream : getStream v h = gatheredStream b.length (getStream s h) := by
    rw [← hv]
    exact getStream_setStream ..
  have hactive : (getStream v h).state = .active := by rw [hstream]; exact hx
  have hmark : markDrained v h = v := by
    rw [markDrained, draining_of_active hactive]
    rfl
  have hend : endClose v h = v := if_neg (by rw [closeDone_of_active hactive]; simp)
  have hstep : gatherOne s (h, b) = svcGuards s true (ringPieces (ibAddr (getStream s h)) (ibBytes (getStream s h)) (getStream s h).ibWr.toNat b.length)
      (endClose (markDrained v h) h) := by
    rw [← hv]
    rfl
  rw [hstep, svcGuards_of_granted hgrant, hmark, hend, hv]

theorem execPushGatherDone_of_gather {g : Gather} {r : List Gather} (hrt : rtRuns s = true) (hfatal : s.fatal = false) (hg : (getFn s f).gathers = g :: r) :
    execPushGatherDone f dt s = .next (finishGather (tick s dt) f g) := by
  simp only [execPushGatherDone, hg, hrt, hfatal]
  rfl

end

/-- Settles O38: an open by its choices, a push of one entry with room, and the gather of one entry. -/
theorem openAndPushComplete : Obligations.OpenAndPushComplete := by
  refine ⟨fun f k dt s ch y pl => ?_, fun f k dt s => ⟨fun l audio b => ?_, fun g r h b hrt hfatal hg hentries houts => ?_⟩⟩
  · intro u m p hserves hbad hbusy huses hy hfault hprofile hrings hslot hcap hused hplaces hchoice hplace
    obtain ⟨t, i, hopen, hstream, hsame, hmem⟩ := openStream_spec (f := f) (k := k) u y m p pl ch
    refine ⟨t, i.toNat, exec_streamOpen.trans (runCmd_of_body hserves (checked_some ?_ ?_)), i.isLt, ?_,
      otherStreamsSame_trans (otherStreamsSame_of_streams (servedIn_streams s f dt)) hsame, hmem.trans (servedIn_mem s f dt)⟩
    · exact passes_cons.2 ⟨hbad, passes_cons.2 ⟨hbusy, passes_cons.2 ⟨congrArg not huses, passes_nil⟩⟩⟩
    · have hm : getModel (servedIn s f dt) (argV 6 k 165 160) = some y := hy
      simp only [hm]
      refine checked_some ?_ ?_
      · refine passes_cons.2 ⟨hfault, passes_cons.2 ⟨congrArg not hprofile, passes_cons.2 ⟨hrings, passes_cons.2 ⟨?_, passes_cons.2 ⟨hcap,
          passes_cons.2 ⟨decide_eq_false (Nat.not_le.2 hused), passes_cons.2 ⟨by rw [hplaces]; rfl, passes_nil⟩⟩⟩⟩⟩⟩⟩
        rcases hslot with hslot | hroom
        · exact (congrArg (· && _) (Option.isNone_eq_false_iff.2 hslot)).trans (Bool.false_and _)
        · exact (congrArg (_ && ·) (decide_eq_false (Nat.not_le.2 hroom))).trans (Bool.and_false _)
      · simp only [hplaces]
        have hboth : (openChoiceOk u p ch && streamPlacesOk u y.decl pl (2 ^ argF k 196 192) (featureBytes y.decl p (argF k 203 200))) = true := by
          rw [hchoice, hplace]
          rfl
        exact (if_pos hboth).trans (congrArg some hopen)
    · rw [hstream]
      exact ⟨rfl, rfl, rfl, rfl, rfl, rfl, rfl, rfl, rfl, rfl, rfl, rfl, rfl, rfl, rfl, rfl, rfl⟩
  · intro u hserves hargs halign hcount e x hrsv hstate hclient hlen hroom
    obtain ⟨v, g, hpush, ⟨htag, hacc, href, hent⟩, hstream, hmem, hfuncs⟩ := pushList_of_accepted (s := u) (f := f) (k := k) (b := b) (audio := audio) (e := e) rfl
      (pushOutcome_of_room hrsv hstate hclient hroom) hlen
    refine ⟨modFn v f fun x => { x with gathers := x.gathers ++ [g] }, g, exec_streamPush.trans (runCmd_of_body hserves (checked_some ?_ ((if_neg (by rw [hcount]; decide)).trans ?_))), ?_, ?_, ?_, htag,
      hacc, href, hent, hmem.trans (servedIn_mem s f dt)⟩
    · exact passes_cons.2 ⟨by simp [hargs, halign, hcount], passes_nil⟩
    · rw [hcount]
      exact congrArg some hpush
    · rw [modFn_eq, getStream_setFn, hstream]
      rfl
    · rw [modFn_eq, getStream_setFn, hstream]
      rfl
    · rw [modFn_eq, getFn_setFn, getFn, hfuncs]
      rfl
  · intro x hactive hdrop hfit hgrant
    obtain ⟨T, B, htick⟩ := tick_frame s dt
    obtain ⟨v, hv⟩ : ∃ v, modFn (tick s dt) f (fun x => { x with gathers := x.gathers.tail }) = v := ⟨_, rfl⟩
    have hframe : ∃ F, v = { s with time := T, br := B, funcs := F } := ⟨_, by rw [← hv, htick]; rfl⟩
    obtain ⟨F, hF⟩ := hframe
    have hstream : getStream v h = x := by rw [hF]; rfl
    have hone : gatherOne v (h, b) = chargeHost (setStream (putInbox v h b) h (gatheredStream b.length x)) x.client b.length := by
      rw [← hstream]
      refine gatherOne_of_active (by rw [hstream]; exact hactive) fun q hq => ?_
      rw [hstream] at hq
      rw [hF]
      exact hgrant q hq
    refine ⟨gatherOne v (h, b), exec_pushGatherDone.trans ((execPushGatherDone_of_gather hrt hfatal hg).trans ?_), ?_, ?_⟩
    · have hvf : v.fatal = false := by rw [hF]; exact hfatal
      unfold finishGather
      rw [hv, hentries, houts]
      simp only [List.foldl_cons, List.foldl_nil, hvf, Bool.false_eq_true, if_false]
    · have hfn : (getFn v f).gathers = r := by
        rw [← hv, modFn_eq, getFn_setFn, getFn_tick, hg]
        rfl
      rw [hone]
      exact hfn
    · have hafter : getStream (gatherOne v (h, b)) h = gatheredStream b.length x := by
        rw [hone]
        exact getStream_setStream ..
      have hmem : (gatherOne v (h, b)).mem = (putInbox v h b).mem := by
        rw [hone]
        rfl
      rw [hafter, hmem]
      refine ⟨rfl, ?_, rfl, fun i hi => ?_⟩
      · simp [gatheredStream, hdrop]
      · rw [← hstream]
        exact putInbox_rd (by rw [hstream]; exact hfit) hi

end Sys2Proof.Machine
end

section
/-! PROOFS. The 100 ms interval, the interference report and energy samples (R291, R293, R300, R386). -/

namespace Sys2Proof.Machine
open Sys2Proof

/-! ### Tables of functions and partitions -/

theorem mem_allFuncs (f : Func) : f ∈ allFuncs := List.mem_map.2 ⟨f.toNat, List.mem_range.2 f.isLt, by simp⟩
theorem mem_allParts (p : PartId) : p ∈ allParts := List.mem_map.2 ⟨p.toNat, List.mem_range.2 p.isLt, by simp⟩
theorem nodup_allFuncs : allFuncs.Nodup := by decide

section
variable {s t u : State} {f g : Func}

@[simp] theorem getAcct_modAcct (s : State) (f : Func) (h : Account → Account) : getAcct (modAcct s f h) f = h (getAcct s f) := tget_tput_self
theorem getAcct_modAcct_ne (h : Account → Account) (hg : g ≠ f) : getAcct (modAcct s f h) g = getAcct s g := tget_tput_ne (toNat_ne hg)

/-! ### What does not move energy -/

/-- What closing idle spans, cutting tasks and recording corrections change: partitions, functions and telemetry, but no energy of an account. -/
structure KeepsEnergy (s t : State) : Prop where
  frame : ∃ P T F, t = { s with parts := P, tele := T, funcs := F }
  device : t.tele.device = s.tele.device
  lastPw : t.tele.lastPw = s.tele.lastPw
  accUpd : t.tele.accUpd = s.tele.accUpd
  uj : ∀ f, (getAcct t f).uj = (getAcct s f).uj

theorem KeepsEnergy.refl (s : State) : KeepsEnergy s s := ⟨⟨_, _, _, rfl⟩, rfl, rfl, rfl, fun _ => rfl⟩

theorem KeepsEnergy.trans (h : KeepsEnergy s t) (k : KeepsEnergy t u) : KeepsEnergy s u := by
  obtain ⟨P, T, F, ht⟩ := h.frame
  obtain ⟨P', T', F', hu⟩ := k.frame
  exact ⟨⟨P', T', F', by rw [hu, ht]⟩, k.device.trans h.device, k.lastPw.trans h.lastPw, k.accUpd.trans h.accUpd, fun f => (k.uj f).trans (h.uj f)⟩

theorem keepsEnergy_forAll {α : Type} {g : State → α → State} (hg : ∀ s x, KeepsEnergy s (g s x)) (l : List α) (s : State) : KeepsEnergy s (l.foldl g s) :=
  foldl_rel KeepsEnergy.refl (fun _ _ _ => .trans) hg l s

theorem keepsEnergy_parts (P : Tbl Part) : KeepsEnergy s { s with parts := P } := ⟨⟨P, _, _, rfl⟩, rfl, rfl, rfl, fun _ => rfl⟩

theorem keepsEnergy_modAcct {h : Account → Account} (hh : ∀ a, (h a).uj = a.uj) : KeepsEnergy s (modAcct s f h) := by
  refine ⟨⟨_, _, _, rfl⟩, rfl, rfl, rfl, fun g => ?_⟩
  by_cases hg : g = f
  · subst hg
    rw [getAcct_modAcct]
    exact hh _
  · rw [getAcct_modAcct_ne h hg]

theorem keepsEnergy_closeIdle (p : PartId) : KeepsEnergy s (closeIdle s p) := by
  unfold closeIdle
  dsimp only
  split
  · exact .refl s
  · exact (keepsEnergy_parts _).trans (keepsEnergy_modAcct fun _ => rfl)

theorem keepsEnergy_cutParts (p : PartId) : KeepsEnergy s (cutParts s p) := by
  unfold cutParts
  dsimp only
  split
  · exact .refl s
  · split
    · exact .refl s
    · exact ⟨⟨_, _, _, rfl⟩, rfl, rfl, rfl, fun _ => rfl⟩

theorem keepsEnergy_cutAll : KeepsEnergy s (cutAll s) := by
  refine keepsEnergy_forAll (fun s p => ?_) _ _
  split
  · exact .refl s
  · exact keepsEnergy_cutParts p

theorem keepsEnergy_logError (i : ErrInfo) : KeepsEnergy s (logError s i) := by
  unfold logError
  split
  · exact .refl s
  · dsimp only
    split
    · exact ⟨⟨_, _, _, rfl⟩, rfl, rfl, rfl, fun _ => rfl⟩
    · obtain ⟨F, hF⟩ := postEvent_frame { s with tele := _ } 0 evERROR _
      rw [hF]
      exact ⟨⟨_, _, _, rfl⟩, rfl, rfl, rfl, fun _ => rfl⟩

theorem parts_logError (i : ErrInfo) : (logError s i).tele.parts = s.tele.parts := by
  unfold logError
  split
  · rfl
  · dsimp only
    split
    · rfl
    · obtain ⟨F, hF⟩ := postEvent_frame { s with tele := _ } 0 evERROR _
      rw [hF]

theorem keepsEnergy_logCorrected : KeepsEnergy s (logCorrected s) :=
  (keepsEnergy_forAll (fun _ _ => keepsEnergy_logError _) s.tele.corrected s).trans ⟨⟨_, _, _, rfl⟩, rfl, rfl, rfl, fun _ => rfl⟩

theorem parts_logCorrected : (logCorrected s).tele.parts = s.tele.parts :=
  foldl_fixed (g := fun s => s.tele.parts) (fun _ _ => parts_logError _) s.tele.corrected s

/-! ### The division of the interval's energy -/

/-- Shares added one after another reach each function of the list once. -/
theorem addShares_uj (c : Func → Nat) {l : List Func} (hl : l.Nodup) (s : State) (g : Func) :
    (getAcct (l.foldl (fun s f => if c f = 0 then s else modAcct s f fun a => { a with uj := a.uj + c f }) s) g).uj =
      (getAcct s g).uj + if g ∈ l then (c g : Int) else 0 := by
  induction l generalizing s with
  | nil => simp
  | cons f l ih =>
    obtain ⟨hf, hl⟩ := List.nodup_cons.1 hl
    rw [List.foldl_cons, ih hl]
    by_cases hg : g = f
    · subst hg
      by_cases hc : c g = 0
      · simp [hc]
      · simp [hc, hf]
    · have hkeep : getAcct (if c f = 0 then s else modAcct s f fun a => { a with uj := a.uj + c f }) g = getAcct s g := by
        split
        · rfl
        · exact getAcct_modAcct_ne _ hg
      simp [hkeep, hg]

theorem addShares_frame (c : Func → Nat) (l : List Func) (s : State) :
    ∃ A, l.foldl (fun s f => if c f = 0 then s else modAcct s f fun a => { a with uj := a.uj + c f }) s =
      { s with tele := { s.tele with accounts := A } } := by
  refine foldl_rel (R := fun s t => ∃ A, t = { s with tele := { s.tele with accounts := A } }) (fun _ => ⟨_, rfl⟩)
    (fun _ _ _ ⟨_, h⟩ ⟨A, h'⟩ => ⟨A, by rw [h', h]⟩) (fun s f => ?_) l s
  split
  · exact ⟨_, rfl⟩
  · exact ⟨_, rfl⟩

/-- The division moves the measured energy to the accounts, to the last microjoule (R291). -/
theorem divideEnergy_spec (s : State) : ∃ T, divideEnergy s = { s with tele := T } ∧ T.device.measured = s.tele.device.measured + eMeas s ∧
    T.lastPw = s.pw.energy ∧ T.parts = [] ∧ T.accUpd = s.tele.accUpd ∧ T.device.interval = s.tele.device.interval ∧
    T.device.uj + (allFuncs.map fun f => (tget .reset T.accounts f.toNat).uj).sum =
      s.tele.device.uj + (allFuncs.map fun f => (getAcct s f).uj).sum + eMeas s := by
  obtain ⟨c, hc⟩ : ∃ c, clientUj s (eShared s) = c := ⟨_, rfl⟩
  obtain ⟨A, hA⟩ := addShares_frame c allFuncs s
  have hfold : (allFuncs.map fun f => (f, c f)).foldl (fun s x => if x.2 = 0 then s else modAcct s x.1 fun a => { a with uj := a.uj + x.2 }) s =
      { s with tele := { s.tele with accounts := A } } := by
    rw [List.foldl_map]
    exact hA
  have huj (g : Func) : (tget .reset A g.toNat).uj = (getAcct s g).uj + (c g : Int) := by
    have hshare := addShares_uj c nodup_allFuncs s g
    rw [hA, if_pos (mem_allFuncs g)] at hshare
    exact hshare
  have hsum : (allFuncs.map fun f => (tget .reset A f.toNat).uj).sum = (allFuncs.map fun f => (getAcct s f).uj).sum + ((allFuncs.map c).sum : Nat) := by
    rw [List.map_congr_left (fun f _ => huj f), sum_map_add_natCast]
  unfold divideEnergy
  dsimp only
  rw [hc, hfold, List.map_map]
  refine ⟨_, rfl, rfl, rfl, rfl, rfl, rfl, show s.tele.device.uj + ((eMeas s : Int) - (allFuncs.map ((fun x : Func × Nat => (x.2 : Int)) ∘ fun f => (f, c f))).sum) +
    (allFuncs.map fun f => (tget .reset A f.toNat).uj).sum = _ from ?_⟩
  have htotal : (allFuncs.map ((fun x : Func × Nat => (x.2 : Int)) ∘ fun f => (f, c f))).sum = ((allFuncs.map c).sum : Nat) := natCast_sum_map ..
  rw [hsum, htotal]
  omega

/-! ### The pages -/

theorem tget_stampAccounts (n : Nat) (t : Tbl Account) {l : List Func} (hl : l.Nodup) (f : Func) :
    tget .reset (l.foldl (fun a f => tmod .reset a f.toNat fun y => { y with interval := BitVec.ofNat 64 n }) t) f.toNat =
      if f ∈ l then { tget .reset t f.toNat with interval := BitVec.ofNat 64 n } else tget .reset t f.toNat := by
  induction l generalizing t with
  | nil => simp
  | cons g l ih =>
    obtain ⟨hg, hl⟩ := List.nodup_cons.1 hl
    rw [List.foldl_cons, ih _ hl]
    by_cases hf : f = g
    · subst hf
      simp [hg, tmod]
    · have hkeep : tget .reset (tmod .reset t g.toNat fun y => { y with interval := BitVec.ofNat 64 n }) f.toNat = tget .reset t f.toNat :=
        tget_tput_ne (toNat_ne hf)
      simp [hkeep, hf]

/-- The rewritten areas: each account and the device's under the interval's number (R300, R390). -/
theorem rewritePages_spec (s : State) (n mw : Nat) : ∃ T, rewritePages s n mw = { s with tele := T } ∧
    T.device = { s.tele.device with interval := BitVec.ofNat 64 n } ∧ T.lastPw = s.tele.lastPw ∧ T.parts = s.tele.parts ∧ T.accSnap = T.accounts ∧
    T.devSnap = T.device ∧ T.accUpd = s.tele.accUpd + 2 ∧
    ∀ f, tget .reset T.accounts f.toNat = { getAcct s f with interval := BitVec.ofNat 64 n } :=
  ⟨_, rfl, rfl, rfl, rfl, rfl, rfl, rfl, fun f => (tget_stampAccounts n s.tele.accounts nodup_allFuncs f).trans (if_pos (mem_allFuncs f))⟩

theorem exec_reconciliationClose {dt : Nat} : exec (.reconciliationClose dt) s = execReconciliationClose dt s := rfl
theorem exec_interferenceReport {dt : Nat} : exec (.interferenceReport dt) s = execInterferenceReport dt s := rfl
theorem exec_energySample {m : EnergySample} {dt : Nat} : exec (.energySample m dt) s = execEnergySample m dt s := rfl

/-- The closing of an interval (R291, R300). -/
theorem closeInterval_spec (s : State) : ∃ P T F, closeInterval s = { s with parts := P, tele := T, funcs := F } ∧
    T.device.interval = BitVec.ofNat 64 (intervalOf s) ∧ T.device.measured = s.tele.device.measured + eMeas s ∧ T.lastPw = s.pw.energy ∧ T.parts = [] ∧
    T.accSnap = T.accounts ∧ T.devSnap = T.device ∧ T.accUpd = s.tele.accUpd + 2 ∧
    (∀ f : Func, (tget .reset T.accounts f.toNat).interval = BitVec.ofNat 64 (intervalOf s)) ∧
    T.device.uj + (allFuncs.map fun f => (tget .reset T.accounts f.toNat).uj).sum =
      s.tele.device.uj + (allFuncs.map fun f => (getAcct s f).uj).sum + eMeas s := by
  obtain ⟨v, hv⟩ : ∃ v, cutAll (forAll allParts closeIdle s) = v := ⟨_, rfl⟩
  have hcut : KeepsEnergy s v := hv ▸ (keepsEnergy_forAll (fun _ p => keepsEnergy_closeIdle p) allParts s).trans keepsEnergy_cutAll
  have hlog : KeepsEnergy (divideEnergy v) (logCorrected (divideEnergy v)) := keepsEnergy_logCorrected
  obtain ⟨T, hdiv, hmeas, hlast, hparts, hupd, hint, hsum⟩ := divideEnergy_spec v
  obtain ⟨P0, T0, F0, hvframe⟩ := hcut.frame
  obtain ⟨P1, T1, F1, hlframe⟩ := hlog.frame
  obtain ⟨w, hw⟩ : ∃ w, logCorrected (divideEnergy v) = w := ⟨_, rfl⟩
  have hwparts : w.tele.parts = [] := by rw [← hw, parts_logCorrected, hdiv]; exact hparts
  rw [hw] at hlog hlframe
  have hwuj (f : Func) : (getAcct w f).uj = (tget .reset T.accounts f.toNat).uj := (hlog.uj f).trans (by rw [hdiv]; rfl)
  have hemeas : eMeas v = eMeas s := by rw [eMeas, eMeas, hcut.lastPw, hvframe]
  obtain ⟨T2, hpages, hdev, hlast2, hparts2, hacc2, hdev2, hupd2, hacct2⟩ := rewritePages_spec w (intervalOf s) (eMeas v / (100 * (intervalOf s - s.tele.device.interval.toNat)))
  have hstep : closeInterval s = rewritePages w (intervalOf s) (eMeas v / (100 * (intervalOf s - s.tele.device.interval.toNat))) := by
    unfold closeInterval
    dsimp only
    rw [hv, hw]
  have hdevice : w.tele.device = T.device := hlog.device.trans (by rw [hdiv])
  refine ⟨w.parts, T2, w.funcs, ?_, ?_, ?_, ?_, ?_, hacc2, hdev2, ?_, fun f => ?_, ?_⟩
  · rw [hstep, hpages, hlframe, hdiv, hvframe]
  · rw [hdev]
  · rw [hdev, hdevice, ← hemeas, ← hcut.device]
    exact hmeas
  · rw [hlast2, hlog.lastPw, hdiv]
    exact hlast.trans (by rw [hvframe])
  · rw [hparts2, hwparts]
  · rw [hupd2, hlog.accUpd, hdiv, ← hcut.accUpd, ← hupd]
  · rw [hacct2]
  · have hmap : (allFuncs.map fun f => (tget .reset T2.accounts f.toNat).uj) = allFuncs.map fun f => (tget .reset T.accounts f.toNat).uj :=
      List.map_congr_left fun f _ => by rw [hacct2]; exact hwuj f
    have hmap' : (allFuncs.map fun f => (getAcct v f).uj) = allFuncs.map fun f => (getAcct s f).uj := List.map_congr_left fun f _ => hcut.uj f
    rw [hmap, hdev, hdevice, ← hemeas, ← hcut.device, ← hmap']
    exact hsum

/-! ### The interference report -/

theorem clearSums_frame (p : PartId) : ∃ P, clearSums s p = { s with parts := P } := by
  unfold clearSums
  dsimp only
  split
  · exact ⟨_, rfl⟩
  · exact ⟨_, rfl⟩

/-- The sums of every job of a partition are 0. -/
def SumsClear (s : State) (p : PartId) : Prop := ∀ b ∈ (getPart s p).jobs, b.tasks = 0 ∧ b.soloTicks = 0 ∧ b.obsCycles = 0

theorem sumsClear_clearSums_self (p : PartId) : SumsClear (clearSums s p) p := by
  unfold clearSums
  dsimp only
  split
  case isTrue h =>
    intro b hb
    rw [List.isEmpty_iff.1 h] at hb
    cases hb
  · intro b hb
    rw [getPart_setPart] at hb
    obtain ⟨b0, -, rfl⟩ := List.mem_map.1 hb
    exact ⟨rfl, rfl, rfl⟩

theorem sumsClear_clearSums {p q : PartId} (h : SumsClear s q) : SumsClear (clearSums s p) q := by
  by_cases hq : q = p
  · subst hq
    exact sumsClear_clearSums_self _
  · unfold clearSums
    dsimp only
    split
    · exact h
    · unfold SumsClear
      rw [getPart_setPart_ne _ _ _ _ hq]
      exact h

theorem sumsClear_forAll {l : List PartId} {p : PartId} (hp : p ∈ l) (s : State) : SumsClear (forAll l clearSums s) p := by
  have hkeep (m : List PartId) (u : State) (hu : SumsClear u p) : SumsClear (m.foldl clearSums u) p :=
    foldl_rel (R := fun s t => SumsClear s p → SumsClear t p) (fun _ => id) (fun _ _ _ h k hs => k (h hs)) (fun _ _ hs => sumsClear_clearSums hs) m u hu
  unfold forAll
  induction l generalizing s with
  | nil => cases hp
  | cons q l ih =>
    rcases List.mem_cons.1 hp with rfl | hl
    · exact hkeep l _ (sumsClear_clearSums_self _)
    · exact ih hl _

theorem forAll_clearSums_frame (l : List PartId) (s : State) : ∃ P, forAll l clearSums s = { s with parts := P } :=
  forAll_rel (R := fun s t => ∃ P, t = { s with parts := P }) (fun _ => ⟨_, rfl⟩) (fun _ _ _ ⟨_, h⟩ ⟨P, h'⟩ => ⟨P, by rw [h', h]⟩)
    (fun _ p => clearSums_frame p) l s

theorem energySample_spec (s : State) (m : EnergySample) :
    (energySample s m).mem = s.mem ∧ (energySample s m).pw.energy = s.pw.energy + BitVec.ofNat 64 m.uj ∧
      (energySample s m).pw.power = m.power ∧ (energySample s m).pw.tmax = m.tmax := by
  have hcourses (u : State) : (m.courses.foldl courseSample u).mem = u.mem ∧ (m.courses.foldl courseSample u).pw = u.pw :=
    ⟨foldl_fixed (g := State.mem) (f := courseSample) (fun _ _ => rfl) m.courses u, foldl_fixed (g := State.pw) (f := courseSample) (fun _ _ => rfl) m.courses u⟩
  have hwaits (u : State) : (m.qwait.foldl waitSample u).mem = u.mem ∧ (m.qwait.foldl waitSample u).pw = u.pw :=
    ⟨foldl_fixed (g := State.mem) (f := waitSample) (fun _ _ => rfl) m.qwait u, foldl_fixed (g := State.pw) (f := waitSample) (fun _ _ => rfl) m.qwait u⟩
  unfold energySample
  dsimp only
  rw [(hwaits _).1, (hwaits _).2, (hcourses _).1, (hcourses _).2]
  exact ⟨rfl, rfl, rfl, rfl⟩

/-- The seconds' report of every partition (R293): nothing of memory, and the sums begin anew. -/
theorem reportAll_spec (s : State) : (reportAll s).mem = s.mem ∧ (reportAll s).tele.interf = allParts.flatMap (jobReports s) ∧
    (reportAll s).tele.lastSec = secondOf s ∧ (reportAll s).tele.gone = [] ∧ (reportAll s).tele.intfUpd = s.tele.intfUpd + 2 ∧
    ∀ p, SumsClear (reportAll s) p := by
  obtain ⟨P, hP⟩ := forAll_clearSums_frame allParts s
  have hclear (p : PartId) := sumsClear_forAll (mem_allParts p) s
  unfold reportAll
  dsimp only
  rw [hP] at hclear ⊢
  exact ⟨rfl, rfl, rfl, rfl, rfl, hclear⟩

end

/-- Settles O45: only the division and the stamping of the pages move an account, and the division hands out what it takes. -/
theorem intervalsClose : Obligations.IntervalsClose := by
  intro dt s
  obtain ⟨T, B, htick⟩ := tick_frame s dt
  refine ⟨fun hrt hdue => ?_, fun hrt hsec => ?_, fun m hreach => ?_⟩
  · obtain ⟨P', T', F', hclose, hint, hmeas, hlast, hparts, hacc, hdev, hupd, hacct, hsum⟩ := closeInterval_spec (tick s dt)
    have hlt : intervalOf (tick s dt) < 2 ^ 64 := Nat.lt_of_le_of_lt (Nat.div_le_self _ _) (tick s dt).time.isLt
    have hrow : exec (.reconciliationClose dt) s = .next (closeInterval (tick s dt)) :=
      exec_reconciliationClose.trans (congrArg Host.Outcome.next (if_pos (by rw [hrt, hdue]; rfl)))
    have hkeep : (tick s dt).mem = s.mem ∧ (tick s dt).tele = s.tele ∧ (tick s dt).pw = s.pw := by rw [htick]; exact ⟨rfl, rfl, rfl⟩
    obtain ⟨hmem, htele, hpw⟩ := hkeep
    have hemeas : eMeas (tick s dt) = eMeas s := by rw [eMeas, eMeas, htele, hpw]
    have hacctOf (f : Func) : getAcct (tick s dt) f = getAcct s f := by rw [getAcct, htele]; rfl
    rw [hemeas, htele] at hmeas
    rw [hpw] at hlast
    rw [htele] at hupd
    simp only [hemeas, htele, hacctOf] at hsum
    refine ⟨_, hrow, ?_⟩
    rw [hclose]
    exact ⟨hmem, by rw [hint]; exact Nat.mod_eq_of_lt hlt, hmeas, hlast, hparts, hacc, hdev, hupd, hacct, hsum⟩
  · obtain ⟨hmem, hinterf, hlast, hgone, hupd, hclear⟩ := reportAll_spec (tick s dt)
    have hkeep : (tick s dt).mem = s.mem ∧ (tick s dt).tele = s.tele := by rw [htick]; exact ⟨rfl, rfl⟩
    have hrow : exec (.interferenceReport dt) s = .next (reportAll (tick s dt)) :=
      exec_interferenceReport.trans (congrArg Host.Outcome.next (if_pos (by rw [hrt, decide_eq_true hsec]; rfl)))
    exact ⟨_, hrow, hmem.trans hkeep.1, hinterf, hlast, hgone, by rw [hupd, hkeep.2], hclear⟩
  · obtain ⟨hmem, henergy, hpower, htmax⟩ := energySample_spec (tick s dt) m
    have hkeep : (tick s dt).mem = s.mem ∧ (tick s dt).pw = s.pw := by rw [htick]; exact ⟨rfl, rfl⟩
    have hrow : exec (.energySample m dt) s = .next (energySample (tick s dt) m) :=
      exec_energySample.trans (congrArg Host.Outcome.next (if_pos hreach))
    exact ⟨_, hrow, hmem.trans hkeep.1, by rw [henergy, hkeep.2], hpower, htmax⟩

end Sys2Proof.Machine
end

section
/-! PROOFS. Silent chunks and pause timers (R19, R24, R25). -/

namespace Sys2Proof.Machine
open Sys2Proof

section
variable {s t u : State} {h : Handle}

/-! ### Records of a chunk -/

/-- What writing records changes: host memory, accounts, and the place in the stream's outbound ring. -/
def PutsRecords (h : Handle) (s t : State) : Prop :=
  t.mem = s.mem ∧ OtherStreamsSame s t [h] ∧ ∃ n b, getStream t h = { getStream s h with obHead := n, obPhase := b }

theorem putsRecords_refl (s : State) : PutsRecords h s s := ⟨rfl, otherStreamsSame_refl s [h], _, _, rfl⟩

theorem putsRecords_trans (hst : PutsRecords h s t) (htu : PutsRecords h t u) : PutsRecords h s u := by
  obtain ⟨hmem, hother, n, b, ht⟩ := hst
  obtain ⟨hmem', hother', n', b', hu⟩ := htu
  exact ⟨hmem'.trans hmem, otherStreamsSame_trans hother hother', n', b', by rw [hu, ht]⟩

theorem mem_hostWr (s : State) (f : Func) (a : Nat) (b : List Byte) : (hostWr s f a b).mem = s.mem := by
  unfold hostWr
  split <;> rfl

theorem getStream_hostWr (s : State) (f : Func) (a : Nat) (b : List Byte) : getStream (hostWr s f a b) h = getStream s h := by
  unfold hostWr
  split <;> rfl

theorem mem_modStream_chargeHost (s : State) (f : Func) (n : Nat) (g : Stream → Stream) : (modStream (chargeHost s f n) h g).mem = s.mem := rfl

theorem putsRecords_putRecord (token : BitVec 24) (g : RecFlags) (time : W32) (score : BitVec 16) (seq : W32) :
    PutsRecords h s (putRecord s h token g time score seq) := by
  refine ⟨?_, putRecord_otherStreams token g time score seq, ?_⟩
  · unfold putRecord
    dsimp only
    split
    · rfl
    · exact (mem_modStream_chargeHost _ _ _ _).trans (mem_hostWr ..)
  · unfold putRecord
    dsimp only
    split
    · exact ⟨_, _, rfl⟩
    · have hkeep (v : State) (f : Func) (n : Nat) : getStream (chargeHost v f n) h = getStream v h := rfl
      rw [modStream_eq, getStream_setStream, hkeep, getStream_hostWr]
      split
      · exact ⟨_, _, rfl⟩
      · exact ⟨_, _, rfl⟩

theorem putsRecords_chunkRecords (g : RecFlags) (toks : Tokens) (seq : W32) : PutsRecords h s (chunkRecords s h g toks seq) :=
  foldl_rel putsRecords_refl (fun _ _ _ => putsRecords_trans) (fun _ _ => putsRecords_putRecord ..) _ s

/-! ### A silent chunk -/

/-- The end of a silent chunk: records, an account, and the stream's move past the chunk. -/
theorem endChunk_silent_eq (s : State) (h : Handle) : ∃ g a, (endChunk s h .silent false []).1 =
    modStream (modAcct (chunkRecords s h g [] (getStream s h).nextSeq) (getStream s h).client a) h fun x => passChunk x (chunkFrames s (getStream s h)) := by
  unfold endChunk
  simp only [if_true, if_neg (show ¬ChunkEnd.silent = ChunkEnd.commit by decide)]
  exact ⟨_, _, rfl⟩

theorem endChunk_silent (s : State) (h : Handle) : ∃ n b, (endChunk s h .silent false []).1.mem = s.mem ∧
    OtherStreamsSame s (endChunk s h .silent false []).1 [h] ∧
    getStream (endChunk s h .silent false []).1 h =
      passChunk { getStream s h with obHead := n, obPhase := b } (chunkFrames s (getStream s h)) := by
  obtain ⟨g, a, heq⟩ := endChunk_silent_eq s h
  rw [heq]
  obtain ⟨hmem, hother, n, b, hstream⟩ := putsRecords_chunkRecords (s := s) (h := h) g [] (getStream s h).nextSeq
  obtain ⟨v, hv⟩ : ∃ v, chunkRecords s h g [] (getStream s h).nextSeq = v := ⟨_, rfl⟩
  rw [hv] at hmem hother hstream ⊢
  have hkeep : getStream (modAcct v (getStream s h).client a) h = getStream v h := rfl
  refine ⟨n, b, hmem, otherStreamsSame_trans hother (otherStreamsSame_trans (otherStreamsSame_of_streams rfl) (otherStreamsSame_setStream h _)), ?_⟩
  rw [modStream_eq, getStream_setStream, hkeep, hstream]

theorem startDue_of_running (hs : (getStream s h).state ≠ .paused) : startDue s h = s := by
  unfold startDue
  dsimp only
  split
  · exact if_neg fun hc => hs hc.2.2
  · rfl

theorem moveOffRetired_nil (s : State) (h : Handle) : moveOffRetired s [] h = s := by
  unfold moveOffRetired
  dsimp only
  split
  next hb => simp at hb
  · rfl

/-- After a chunk of an active stream that took no blocks nothing more happens. -/
theorem afterChunk_of_active (hs : (getStream s h).state = .active) : afterChunk s [] h = s := by
  rw [afterChunk, moveOffRetired_nil, startDue_of_running (by simp [hs])]
  exact if_neg (by rw [closeDone_of_active hs]; simp)

theorem passChunk_of_keep {x : Stream} (hx : x.discard = none) (n : Nat) :
    passChunk x n = { x with nextSeq := x.nextSeq + 1, frRd := x.frRd + BitVec.ofNat 24 n, firstFrameAbs := x.firstFrameAbs + n
                             chunks := x.chunks.tail, discard := none, inBundle := false } := by
  simp [passChunk, discardFrames, hx]

/-! ### A pause timer -/

/-- A descriptor carries the tag it is made with in bits 31 to 16. -/
theorem dTag_mkDesc {op cls : Nat} {tag : BitVec 16} {src dst len lay : Nat} (hop : op < 8) (hcls : cls < 4) :
    dTag (mkDesc op cls tag src dst len lay) = tag := by
  have htag := tag.isLt
  obtain ⟨n, hn⟩ : ∃ n, tag.toNat = n := ⟨_, rfl⟩
  rw [hn] at htag
  refine BitVec.eq_of_toNat_eq ?_
  simp only [dTag, mkDesc, nfld, BitVec.toNat_ofNat, Nat.shiftRight_eq_div_pow, hn]
  omega

/-- Both halves of a copy of an image carry its tag. -/
theorem dTag_raw (d : ImageDecl) (tag : BitVec 16) (a b a' b' : Nat) :
    ∀ e ∈ mkDesc 0 2 tag a b (genBytes d) 0 :: (if winBytes d = 0 then [] else [mkDesc 0 2 tag a' b' (winBytes d) 0]), dTag e = tag := by
  intro e he
  rcases List.mem_cons.1 he with rfl | he
  · exact dTag_mkDesc (by decide) (by decide)
  · split at he
    · cases he
    · rw [List.mem_singleton.1 he]
      exact dTag_mkDesc (by decide) (by decide)

theorem outDescs_tagged (d : ImageDecl) (lay gen win dst : Nat) (raw : Bool) (tag : BitVec 16) :
    outDescs d lay 2 gen win dst raw tag ≠ [] ∧ ∀ e ∈ outDescs d lay 2 gen win dst raw tag, dTag e = tag := by
  cases raw with
  | true => exact ⟨List.cons_ne_nil _ _, dTag_raw d tag _ _ _ _⟩
  | false =>
    refine ⟨List.cons_ne_nil _ _, fun e he => ?_⟩
    rw [List.mem_singleton.1 he]
    exact dTag_mkDesc (by decide) (by decide)

theorem backDescs_tagged (d : ImageDecl) (lay src gen win : Nat) (raw : Bool) (tag : BitVec 16) :
    backDescs d lay 2 src gen win raw tag ≠ [] ∧ ∀ e ∈ backDescs d lay 2 src gen win raw tag, dTag e = tag := by
  cases raw with
  | true => exact ⟨List.cons_ne_nil _ _, dTag_raw d tag _ _ _ _⟩
  | false =>
    refine ⟨List.cons_ne_nil _ _, fun e he => ?_⟩
    rw [List.mem_singleton.1 he]
    exact dTag_mkDesc (by decide) (by decide)

/-- A move out of the image's tier queues its descriptors under the next tag and marks the stream as moving (R24). -/
theorem startMove_out (dst : Nat) {m : Model} (hm : getModel s (getStream s h).model = some m) :
    (startMove s h false 2 dst).mem = s.mem ∧ OtherStreamsSame s (startMove s h false 2 dst) [h] ∧
      getStream (startMove s h false 2 dst) h = { getStream s h with moving := true, move := some ⟨false, dst, s.mig.next⟩ } ∧
      ∃ l, l ≠ [] ∧ (startMove s h false 2 dst).mig.queue = s.mig.queue ++ l ∧ ∀ d ∈ l, dTag d = s.mig.next := by
  unfold startMove
  dsimp only
  rw [hm]
  obtain ⟨l, hl⟩ : ∃ l, l = (if imageTier (getStream s h) = 0 then
      outDescs m.decl m.imageAt 2 (genAddr m.decl (imgAddr (getStream s h)) (getStream s h).gen) (winAddr m.decl (imgAddr (getStream s h))) dst
        (touchesSealed s dst (blkBytes m.decl)) s.mig.next
    else if touchesSealed s (imgAddr (getStream s h)) (blkBytes m.decl) = touchesSealed s dst (blkBytes m.decl) then
      [mkDesc 0 2 s.mig.next (imgAddr (getStream s h)) dst (lowBytes m.decl) 0]
    else if touchesSealed s (imgAddr (getStream s h)) (blkBytes m.decl) = true then
      outDescs m.decl m.imageAt 2 (imgAddr (getStream s h)) (imgAddr (getStream s h) + genBytes m.decl) dst false s.mig.next
    else backDescs m.decl m.imageAt 2 (imgAddr (getStream s h)) dst (dst + genBytes m.decl) false s.mig.next) := ⟨_, rfl⟩
  have htagged : l ≠ [] ∧ ∀ e ∈ l, dTag e = s.mig.next := by
    rw [hl]
    split
    · exact outDescs_tagged ..
    · split
      · refine ⟨List.cons_ne_nil _ _, fun e he => ?_⟩
        rw [List.mem_singleton.1 he]
        exact dTag_mkDesc (by decide) (by decide)
      · split
        · exact outDescs_tagged ..
        · exact backDescs_tagged ..
  simp only [queueDescs, Bool.false_eq_true, if_false, Bool.not_false, true_and]
  rw [← hl]
  have hmodel (c : Prop) [Decidable c] (v : State) (k : ModelSlot) (g : Model → Model) : ∃ M, (if c then modModel v k g else v) = { v with models := M } := by
    split
    · exact modModel_frame v k g
    · exact ⟨_, rfl⟩
  obtain ⟨M, hM⟩ := hmodel (touchesSealed s dst (blkBytes m.decl) = true) { s with
    regions := s.regions ++ [(⟨dst, lowBytes m.decl, .image h⟩ : Region)], mig := { s.mig with next := s.mig.next + 1, queue := s.mig.queue ++ l } }
    (getStream s h).model fun m => { m with tele := { m.tele with suppressed := m.tele.suppressed + 1 } }
  obtain ⟨w, hw⟩ : ∃ w, w = { s with
    models := M, regions := s.regions ++ [(⟨dst, lowBytes m.decl, .image h⟩ : Region)]
    mig := { s.mig with next := s.mig.next + 1, queue := s.mig.queue ++ l } } := ⟨_, rfl⟩
  have hkeep : w.mem = s.mem ∧ w.streams = s.streams ∧ w.mig.queue = s.mig.queue ++ l := by
    rw [hw]
    exact ⟨rfl, rfl, rfl⟩
  obtain ⟨hmem, hstreams, hqueue⟩ := hkeep
  have hstream : getStream w h = getStream s h := by rw [getStream, getStream, hstreams]
  rw [hM, ← hw, modStream_eq, getStream_setStream, hstream]
  exact ⟨hmem, otherStreamsSame_trans (otherStreamsSame_of_streams hstreams) (otherStreamsSame_setStream h _), rfl, l, htagged.1, hqueue, htagged.2⟩

theorem moveFits_model (hfit : moveFits s h n = true) : ∃ m, getModel s (getStream s h).model = some m := by
  cases hm : getModel s (getStream s h).model with
  | some m => exact ⟨m, rfl⟩
  | none => simp [moveFits, streamDecl, hm] at hfit

/-- The timer of a paused stream that may move: it waits for the chunk in a bundle, or starts the move. -/
theorem demote_spec {dst tier ms : Nat} (hm : mayDemote s h tier ms dst = true) :
    (demote s h dst).mem = s.mem ∧ OtherStreamsSame s (demote s h dst) [h] ∧ (getStream (demote s h dst) h).state = .paused ∧
      (getStream (demote s h dst) h).statePtr = (getStream s h).statePtr ∧
      ((getStream s h).inBundle = true → (getStream (demote s h dst) h).moving = false ∧
        (getStream (demote s h dst) h).move = some ⟨false, dst, 0⟩ ∧ (demote s h dst).mig.queue = s.mig.queue) ∧
      ((getStream s h).inBundle = false → (getStream (demote s h dst) h).moving = true ∧
        (getStream (demote s h dst) h).move = some ⟨false, dst, s.mig.next⟩ ∧
        ∃ l, l ≠ [] ∧ (demote s h dst).mig.queue = s.mig.queue ++ l ∧ ∀ d ∈ l, dTag d = s.mig.next) := by
  simp only [mayDemote, Bool.and_eq_true, Bool.not_eq_true', decide_eq_true_eq] at hm
  obtain ⟨⟨⟨⟨⟨hpause, -⟩, hmoving⟩, -⟩, hnone⟩, hfit⟩ := hm
  have hpaused : (getStream s h).state = .paused := by
    unfold pauseReached at hpause
    split at hpause
    · simp only [Bool.and_eq_true, decide_eq_true_eq] at hpause
      exact hpause.1.1
    · cases hpause
  obtain ⟨v, hv⟩ : ∃ v, modStream s h (fun x => { x with move := some ⟨false, dst, 0⟩ }) = v := ⟨_, rfl⟩
  have hvstream : getStream v h = { getStream s h with move := some ⟨false, dst, 0⟩ } := by
    rw [← hv]
    exact getStream_setStream ..
  have hvother : OtherStreamsSame s v [h] := hv ▸ otherStreamsSame_setStream h _
  have hvframe : v.mem = s.mem ∧ v.mig = s.mig := by
    rw [← hv]
    exact ⟨rfl, rfl⟩
  obtain ⟨hvmem, hvmig⟩ := hvframe
  have hdemote : demote s h dst = startDue v h := congrArg (startDue · h) hv
  rw [hdemote]
  by_cases hbundle : (getStream s h).inBundle = true
  · have hstay : startDue v h = v := by
      unfold startDue
      dsimp only
      rw [hvstream]
      exact if_neg fun hc => by simp [hbundle] at hc
    rw [hstay, hvstream]
    exact ⟨hvmem, hvother, hpaused, rfl, fun _ => ⟨hmoving, rfl, by rw [hvmig]⟩, fun hb => absurd hb (by simp [hbundle])⟩
  · have hbundle : (getStream s h).inBundle = false := by simpa using hbundle
    obtain ⟨w, hw⟩ : ∃ w, modStream v h (fun x => { x with move := none }) = w := ⟨_, rfl⟩
    have hwsame : w.mem = s.mem ∧ w.mig = s.mig ∧ w.models = s.models ∧ w.regions = s.regions ∧ w.mon = s.mon ∧ getStream w h = { getStream s h with move := none } := by
      rw [← hw, ← hv]
      refine ⟨rfl, rfl, rfl, rfl, rfl, ?_⟩
      rw [modStream_eq, getStream_setStream, modStream_eq, getStream_setStream]
    obtain ⟨hwmem, hwmig, hwmodels, hwregions, hwmon, hwstream⟩ := hwsame
    have hwother : OtherStreamsSame s w [h] := otherStreamsSame_trans hvother (hw ▸ otherStreamsSame_setStream h _)
    have hwfit : moveFits w h dst = true := by
      rw [← hw, ← hv]
      exact (by rw [moveFits, modStream_eq, getStream_setStream, modStream_eq, getStream_setStream]; rfl : _ = moveFits s h dst).trans hfit
    have hstart : startDue v h = startMove w h false 2 dst := by
      unfold startDue
      dsimp only
      rw [hvstream]
      simp only [hmoving, hbundle, hpaused, Bool.not_false, true_and, if_true, hw, hwfit]
    obtain ⟨m, hmodel⟩ := moveFits_model hwfit
    obtain ⟨hmem, hother, hstream, l, hl, hqueue, htags⟩ := startMove_out dst hmodel
    rw [hwmig] at hqueue htags hstream
    rw [hstart, hstream, hwstream]
    exact ⟨hmem.trans hwmem, otherStreamsSame_trans hwother hother, hpaused, rfl, fun hb => absurd hb (by simp [hbundle]),
      fun _ => ⟨rfl, rfl, l, hl, hqueue, htags⟩⟩

theorem exec_silentCommit {dt : Nat} : exec (.silentCommit h dt) s = execSilentCommit h dt s := rfl
theorem exec_pauseTimerTier1 {dst dt : Nat} : exec (.pauseTimerTier1 h dst dt) s = execPauseTimerTier1 h dst dt s := rfl
theorem exec_pauseTimerTier2 {dst dt : Nat} : exec (.pauseTimerTier2 h dst dt) s = execPauseTimerTier2 h dst dt s := rfl

end

/-- Settles O41: the end of a silent chunk writes its record and goes past it; a timer that is reached leaves its move with the stream, or starts it. -/
theorem silenceAndPauseTimers : Obligations.SilenceAndPauseTimers := by
  intro h dt s hrt
  obtain ⟨T, B, htick⟩ := tick_frame s dt
  have hkeep : (tick s dt).mem = s.mem ∧ (tick s dt).streams = s.streams ∧ (tick s dt).models = s.models ∧ (tick s dt).mig = s.mig ∧
      chunkFrames (tick s dt) (getStream s h) = chunkFrames s (getStream s h) := by
    rw [htick]
    exact ⟨rfl, rfl, rfl, rfl, rfl⟩
  obtain ⟨hmem, hstreams, hmodels, hmig, hframes⟩ := hkeep
  have hstream (g : Handle) : getStream (tick s dt) g = getStream s g := by rw [getStream, getStream, hstreams]
  refine ⟨fun hsilent hactive hdiscard => ?_, fun i tier ms dst hi hmay => ?_⟩
  · obtain ⟨n, b, hmem', hother, hchunk⟩ := endChunk_silent (tick s dt) h
    obtain ⟨r, hr⟩ : ∃ r, endChunk (tick s dt) h .silent false [] = r := ⟨_, rfl⟩
    obtain ⟨v, l⟩ := r
    obtain ⟨F, hF⟩ := postDone_frame v l
    rw [hr] at hmem' hother hchunk
    rw [hstream, hframes, passChunk_of_keep (x := { getStream s h with obHead := n, obPhase := b }) hdiscard] at hchunk
    have hrow : exec (.silentCommit h dt) s = .next { v with funcs := F } := by
      refine exec_silentCommit.trans (congrArg Host.Outcome.next ((if_pos (by rw [hrt, hsilent]; rfl)).trans ?_))
      dsimp only
      rw [hr, hF]
      refine afterChunk_of_active (?_ : (getStream v h).state = .active)
      rw [hchunk]
      exact hactive
    have hpost : getStream { v with funcs := F } h = getStream v h := rfl
    refine ⟨_, hrow, hmem'.trans hmem, otherStreamsSame_trans (otherStreamsSame_of_streams hstreams) hother, ?_⟩
    rw [hpost, hchunk]
    exact ⟨rfl, rfl, rfl, rfl, rfl, rfl⟩
  · obtain ⟨hmem', hother, hspec⟩ := demote_spec hmay
    rw [hstream, hmig] at hspec
    refine ⟨demote (tick s dt) h dst, ?_, hmem'.trans hmem, otherStreamsSame_trans (otherStreamsSame_of_streams hstreams) hother, hspec⟩
    have hguard : (rtRuns s && mayDemote (tick s dt) h tier ms dst) = true := by rw [hrt, hmay]; rfl
    simp only [List.mem_cons, Prod.mk.injEq, List.not_mem_nil, or_false] at hi
    rcases hi with ⟨rfl, rfl, rfl⟩ | ⟨rfl, rfl, rfl⟩
    · exact exec_pauseTimerTier1.trans (congrArg Host.Outcome.next (if_pos hguard))
    · exact exec_pauseTimerTier2.trans (congrArg Host.Outcome.next (if_pos hguard))

end Sys2Proof.Machine
end

section
/-! PROOFS. Column sums and the rows of the accumulator bank (R127, R133, R136). -/

namespace Sys2Proof.Machine
open Sys2Proof

/-! ### Column sums -/

/-- The products of one array row reach each column once. -/
theorem addProducts_getElem? {p p2 : List Int} {sums : List Int} {codes : List Nat} {n : Nat} {v : Int} (hv : sums[n]? = some v) (hn : n < codes.length) :
    (addProducts false p p2 sums codes)[n]? = some (v + p.getD (codes.getD n 0) 0) := by
  simp [addProducts, List.getElem?_zipWith, hv, hn]

/-- Rows of products added one after another give each column the sum of what its codes select. -/
theorem foldl_addProducts_getElem? (prod prod2 : Nat → List Int) {n : Nat} {l : List (List Nat × Nat)} (hl : ∀ x ∈ l, n < x.1.length) {acc : List Int}
    {v : Int} (hv : acc[n]? = some v) :
    (l.foldl (fun acc x => addProducts false (prod x.2) (prod2 x.2) acc x.1) acc)[n]? =
      some (v + (l.map fun x => (prod x.2).getD (x.1.getD n 0) 0).sum) := by
  induction l generalizing acc v with
  | nil => simp [hv]
  | cons x l ih =>
    rw [List.foldl_cons, ih (fun y hy => hl y (List.mem_cons_of_mem x hy)) (addProducts_getElem? hv (hl x (List.mem_cons_self ..))), List.map_cons,
      List.sum_cons, Int.add_assoc]

/-! ### The accumulator stage -/

theorem satn_bounds (v : Int) : -2 ^ 39 ≤ satn 40 v ∧ satn 40 v < 2 ^ 39 := by
  unfold satn
  dsimp only
  split
  · omega
  · split <;> omega

theorem toInt_ofI_satn (v : Int) : (ofI 40 (satn 40 v)).toInt = satn 40 v := by
  obtain ⟨hlo, hhi⟩ := satn_bounds v
  rw [ofI, BitVec.toInt_ofInt, Int.bmod_eq_of_le (by omega) (by omega)]

/-- A written accumulator row holds the next values, saturated; the other rows are as before. -/
theorem accRowUpd_written {m : RowUpdate} {old g : Engines} (h : ¬(m.noin = true ∧ m.mode ≠ 0)) {n : Nat} (hn : n < 256) :
    accI (accRowUpd old m g) m.row n = satn 40 (accNext old m n) := by
  unfold accRowUpd accI
  rw [if_neg h]
  dsimp only
  rw [tget_tputs_in (by simpa using hn)]
  simp [toInt_ofI_satn]

theorem accRowUpd_other {m : RowUpdate} {old g : Engines} (h : ¬(m.noin = true ∧ m.mode ≠ 0)) {r k : Nat} (hk : k < 256) (hr : r ≠ m.row) :
    accI (accRowUpd old m g) r k = accI g r k := by
  unfold accRowUpd accI
  rw [if_neg h]
  dsimp only
  rw [tget_tputs_out]
  simp only [List.length_map, List.length_range]
  omega

theorem accNext_plainOrAdd {m : RowUpdate} (old : Engines) (n : Nat) (hm : m.mode.toNat ≤ 1) :
    accNext old m n = if m.mode = 0 then m.sums.getD n 0 else accI old m.row n + m.sums.getD n 0 := by
  by_cases h0 : m.mode = 0
  · rw [if_pos h0, accNext, h0]
    rfl
  · have h1 : m.mode.toNat = 1 := by
      have hne : m.mode.toNat ≠ 0 := fun hz => h0 (BitVec.eq_of_toNat_eq hz)
      omega
    rw [if_neg h0, accNext, h1]
    rfl

/-- Settles O23: the rows of products are added in turn, and PLAIN and ACCUM write one row, saturated. -/
theorem columnSumsAndAccumulatorRows : Obligations.ColumnSumsAndAccumulatorRows := by
  refine ⟨fun g afmt tsel azp fmt krows tile elems n hfmt hn hrows => ?_, fun m old g n hn hmode => ⟨fun hwrite => ?_, fun hno hne => if_pos ⟨hno, hne⟩⟩⟩
  · have hlen : ∀ x ∈ (tile.take krows).zip elems, n < x.1.length := fun x hx => by
      rw [hrows x.1 (List.mem_of_mem_take (List.of_mem_zip hx).1)]
      exact hn
    have hstart : (List.replicate 256 (0 : Int))[n]? = some 0 := by rw [List.getElem?_replicate, if_pos hn]
    have hsum := foldl_addProducts_getElem? (productRow g afmt tsel azp) (fun _ => []) hlen hstart
    rw [Int.zero_add] at hsum
    simpa only [colSums, hfmt, decide_false, if_false] using hsum
  · have hwritten : ¬(m.noin = true ∧ m.mode ≠ 0) := by
      rintro ⟨hno, hne⟩
      exact hwrite.elim (fun h => by simp [hno] at h) hne
    refine ⟨(accRowUpd_written hwritten hn).trans (by rw [accNext_plainOrAdd old n hmode]), fun r k hk hr => accRowUpd_other hwritten hk hr⟩

end Sys2Proof.Machine
end

section
/-! PROOFS. What the end of a task, of a chunk and of a stream leaves alone: the outside of the state, what a function's settings and mailbox
counters are, a core's sequencer but for its going idle, a partition's courses, a partition without a task, a stream that closes (R32, R43, R94, R183, R282). -/

namespace Sys2Proof.Machine
open Sys2Proof

/-! ### The relation -/

/-- What no end of a task, chunk or stream touches of the device. -/
def outside (s : State) : PwSt × Bool × List (BitVec 2) × W64 × Tbl Course × BitVec 512 × List InProgress := (s.pw, s.fatal, s.aer, s.time, s.courses, s.mon.fatal, s.inProgress)

/-- A function whose messages and vectors alone have moved. -/
structure FnKept (x y : Fn) : Prop where
  enabled : y.enabled = x.enabled
  ready : y.ready = x.ready
  flr : y.flr = x.flr
  holdoff : y.holdoff = x.holdoff
  count : y.count = x.count
  taken : y.taken = x.taken
  inNext : y.inNext = x.inNext

/-- A sequencer that has gone on at most to idle, with its queues as they were or emptied. -/
structure SeqKept (q r : Seq) : Prop where
  phase : q.phase = .idle → r.phase = .idle
  pc : r.pc = q.pc
  sregs : r.sregs = q.sregs
  queues : (∀ k, getQ q k = []) → ∀ k, getQ r k = []
  asks : q.asks = [] → r.asks = []

/-- The stream's entry is free, or its close is under way. -/
def Closes (x : Stream) : Prop := x.state = .free ∨ x.state = .closing

/-- What the end of a task, of a chunk or of a stream keeps. -/
structure WindsUp (s t : State) : Prop where
  outside : outside t = outside s
  fns : ∀ f, FnKept (getFn s f) (getFn t f)
  seqs : ∀ c, SeqKept (getCore s c).seq (getCore t c).seq
  courses : ∀ p, (getPart t p).courses = (getPart s p).courses
  task : ∀ p, (getPart s p).task = none → (getPart t p).task = none
  ends : ∀ p, (getPart s p).endReq = none → (getPart t p).endReq = none
  closes : ∀ h, Closes (getStream s h) → Closes (getStream t h)
  client : ∀ h, (getStream t h).client = (getStream s h).client ∨ Closes (getStream t h)

theorem FnKept.refl (x : Fn) : FnKept x x := ⟨rfl, rfl, rfl, rfl, rfl, rfl, rfl⟩

theorem FnKept.trans {x y z : Fn} (h : FnKept x y) (k : FnKept y z) : FnKept x z :=
  ⟨k.enabled.trans h.enabled, k.ready.trans h.ready, k.flr.trans h.flr, k.holdoff.trans h.holdoff, k.count.trans h.count, k.taken.trans h.taken,
    k.inNext.trans h.inNext⟩

theorem SeqKept.refl (q : Seq) : SeqKept q q := ⟨id, rfl, rfl, id, id⟩

theorem SeqKept.trans {q r w : Seq} (h : SeqKept q r) (k : SeqKept r w) : SeqKept q w :=
  ⟨fun hq => k.phase (h.phase hq), k.pc.trans h.pc, k.sregs.trans h.sregs, fun hq => k.queues (h.queues hq), fun hq => k.asks (h.asks hq)⟩

section
variable {s t u : State} {p : PartId} {c : CoreId} {h : Handle}

theorem WindsUp.refl (s : State) : WindsUp s s := ⟨rfl, fun _ => .refl _, fun _ => .refl _, fun _ => rfl, fun _ => id, fun _ => id, fun _ => id, fun _ => .inl rfl⟩

theorem WindsUp.trans (h : WindsUp s t) (k : WindsUp t u) : WindsUp s u :=
  ⟨k.outside.trans h.outside, fun f => (h.fns f).trans (k.fns f), fun c => (h.seqs c).trans (k.seqs c), fun p => (k.courses p).trans (h.courses p), fun p hp => k.task p (h.task p hp), fun p hp => k.ends p (h.ends p hp),
    fun x hx => k.closes x (h.closes x hx), fun x => (k.client x).elim (fun hu => (h.client x).elim (fun ht => .inl (hu.trans ht)) fun ht => .inr (k.closes x ht)) .inr⟩

/-- The last operation first: what it is applied to is then known. -/
theorem WindsUp.after (k : WindsUp t u) (h : WindsUp s t) : WindsUp s u := h.trans k

/-- An update of none of the fields that the relation speaks of. -/
theorem windsUp_of (ho : outside t = outside s) (hf : t.funcs = s.funcs) (hc : t.cores = s.cores) (hp : t.parts = s.parts) (hs : t.streams = s.streams) : WindsUp s t :=
  ⟨ho, fun f => by rw [getFn, getFn, hf]; exact .refl _, fun c => by rw [getCore, getCore, hc]; exact .refl _, fun p => by rw [getPart, getPart, hp], fun p hn => by rw [getPart, hp]; exact hn, fun p hn => by rw [getPart, hp]; exact hn,
    fun h hc => by rw [getStream, hs]; exact hc, fun h => .inl (by rw [getStream, getStream, hs])⟩

theorem windsUp_setPart {x : Part} (hc : x.courses = (getPart s p).courses) (ht : (getPart s p).task = none → x.task = none)
    (he : (getPart s p).endReq = none → x.endReq = none) :
    WindsUp s (setPart s p x) := by
  have hpart (q : PartId) : (getPart (setPart s p x) q).courses = (getPart s q).courses ∧
      ((getPart s q).task = none → (getPart (setPart s p x) q).task = none) ∧
      ((getPart s q).endReq = none → (getPart (setPart s p x) q).endReq = none) := by
    by_cases hq : q = p
    · subst hq
      rw [getPart_setPart]
      exact ⟨hc, ht, he⟩
    · rw [getPart_setPart_ne _ _ _ _ hq]
      exact ⟨rfl, id, id⟩
  exact ⟨rfl, fun _ => .refl _, fun _ => .refl _, fun q => (hpart q).1, fun q => (hpart q).2.1, fun q => (hpart q).2.2, fun _ => id, fun _ => .inl rfl⟩

theorem windsUp_setStream {x : Stream} (hx : Closes (getStream s h) → Closes x) (hc : x.client = (getStream s h).client ∨ Closes x) :
    WindsUp s (setStream s h x) := by
  have hstream (k : Handle) : (Closes (getStream s k) → Closes (getStream (setStream s h x) k)) ∧
      ((getStream (setStream s h x) k).client = (getStream s k).client ∨ Closes (getStream (setStream s h x) k)) := by
    by_cases he : k = h
    · subst he
      rw [getStream_setStream]
      exact ⟨hx, hc⟩
    · rw [getStream_setStream_ne _ _ _ _ he]
      exact ⟨id, .inl rfl⟩
  exact ⟨rfl, fun _ => .refl _, fun _ => .refl _, fun _ => rfl, fun _ => id, fun _ => id, fun k => (hstream k).1, fun k => (hstream k).2⟩

theorem windsUp_modStream {g : Stream → Stream} (hg : ∀ x, (g x).state = x.state ∧ (g x).client = x.client) : WindsUp s (modStream s h g) :=
  windsUp_setStream (fun hx => by unfold Closes; rw [(hg _).1]; exact hx) (.inl (hg _).2)

theorem windsUp_setFn {f : Func} {x : Fn} (hx : FnKept (getFn s f) x) : WindsUp s (setFn s f x) := by
  refine ⟨rfl, fun g => ?_, fun _ => .refl _, fun _ => rfl, fun _ => id, fun _ => id, fun _ => id, fun _ => .inl rfl⟩
  by_cases he : g = f
  · subst he
    rw [getFn_setFn]
    exact hx
  · rw [getFn_setFn_ne _ _ _ _ he]
    exact .refl _

theorem windsUp_ite {q : Prop} [Decidable q] (h : WindsUp s t) (k : WindsUp s u) : WindsUp s (if q then t else u) := by
  split
  · exact h
  · exact k

theorem windsUp_foldl {α : Type} {f : State → α → State} (h : ∀ s x, WindsUp s (f s x)) (l : List α) (s : State) : WindsUp s (l.foldl f s) :=
  foldl_rel WindsUp.refl (fun _ _ _ => .trans) h l s

theorem windsUp_forAll {α : Type} {f : State → α → State} (h : ∀ s x, WindsUp s (f s x)) (l : List α) (s : State) : WindsUp s (forAll l f s) :=
  windsUp_foldl h l s

theorem windsUp_setCore {x : CoreSt} (hx : SeqKept (getCore s c).seq x.seq) : WindsUp s (setCore s c x) := by
  refine ⟨rfl, fun _ => .refl _, fun d => ?_, fun _ => rfl, fun _ => id, fun _ => id, fun _ => id, fun _ => .inl rfl⟩
  by_cases he : d = c
  · subst he
    rw [getCore_setCore]
    exact hx
  · rw [getCore_setCore_ne _ _ _ _ he]
    exact .refl _

theorem windsUp_modCore {g : CoreSt → CoreSt} (hg : ∀ x, SeqKept x.seq (g x).seq) : WindsUp s (modCore s c g) := windsUp_setCore (hg _)

theorem windsUp_modAcct (f : Func) (g : Account → Account) : WindsUp s (modAcct s f g) := windsUp_of rfl rfl rfl rfl rfl
theorem windsUp_setModel (m : ModelSlot) (x : Model) : WindsUp s (setModel s m x) := windsUp_of rfl rfl rfl rfl rfl

theorem windsUp_modJob (j : JobNo) (g : Job → Job) : WindsUp s (modJob s p j g) := windsUp_setPart rfl id id

theorem windsUp_modTask (g : Task → Task) : WindsUp s (modTask s p g) := windsUp_setPart rfl (fun h => congrArg (Option.map g) h) id

/-! ### Messages, records, regions -/

theorem fnKept_setVec (x : Fn) (v : Nat) (y : Vec) : FnKept x (setVec x v y) := ⟨rfl, rfl, rfl, rfl, rfl, rfl, rfl⟩

theorem fnKept_drainOut (now : W64) (n : Nat) (x : Fn) : FnKept x (drainOut now n x) := by
  induction n generalizing x with
  | zero => exact .refl x
  | succ n ih =>
    unfold drainOut
    split
    · exact .refl x
    · dsimp only
      split
      · exact .refl x
      · refine FnKept.trans (FnKept.trans ?_ (fnKept_setVec _ _ _)) (ih _)
        exact ⟨rfl, rfl, rfl, rfl, rfl, rfl, rfl⟩

theorem fnKept_pushMsg (now : W64) (x : Fn) (m : Msg) : FnKept x (pushMsg now x m) := by
  unfold pushMsg
  dsimp only
  split
  · exact ⟨rfl, rfl, rfl, rfl, rfl, rfl, rfl⟩
  · refine FnKept.trans ?_ (fnKept_drainOut now 65 _)
    exact ⟨rfl, rfl, rfl, rfl, rfl, rfl, rfl⟩

theorem windsUp_postMsg (f : Func) (m : Msg) : WindsUp s (postMsg s f m) := by
  refine windsUp_ite (.refl s) (windsUp_setFn ?_)
  dsimp only
  split
  · exact fnKept_pushMsg ..
  · exact .refl _

theorem windsUp_logError (i : ErrInfo) : WindsUp s (logError s i) := by
  refine windsUp_ite (.refl s) ?_
  have htele (T : TeleSt) : WindsUp s { s with tele := T } := windsUp_of rfl rfl rfl rfl rfl
  exact windsUp_ite (htele _) ((htele _).trans (windsUp_postMsg ..))

theorem windsUp_hostWr (f : Func) (a : Nat) (b : List Byte) : WindsUp s (hostWr s f a b) := windsUp_ite (.refl s) (windsUp_of rfl rfl rfl rfl rfl)

theorem windsUp_traceRec (bit event : Nat) (j : JobNo) (n : Nat) (b : W32) : WindsUp s (traceRec s p bit event j n b) := by
  unfold traceRec
  split
  · exact .refl s
  · exact windsUp_ite (.refl s) ((windsUp_hostWr ..).trans (windsUp_setPart rfl id id))

theorem windsUp_logTaskErrors (t : Task) (o : BitVec 3) : WindsUp s (logTaskErrors s p t o) :=
  windsUp_foldl (fun _ _ => (windsUp_logError _).trans (windsUp_traceRec ..)) _ _

theorem windsUp_freeRegion (r : Region) : WindsUp s (freeRegion s r) :=
  windsUp_ite (.refl s) (windsUp_ite (windsUp_of rfl rfl rfl rfl rfl) (windsUp_of rfl rfl rfl rfl rfl))

theorem windsUp_releaseRegions (q : Region → Bool) : WindsUp s (releaseRegions s q) :=
  WindsUp.trans (t := { s with regions := s.regions.filter fun r => !q r }) (windsUp_of rfl rfl rfl rfl rfl)
    (windsUp_foldl (fun _ r => windsUp_freeRegion r) (s.regions.filter q) _)

theorem windsUp_putRecord (token : BitVec 24) (g : RecFlags) (time : W32) (score : BitVec 16) (seq : W32) :
    WindsUp s (putRecord s h token g time score seq) := by
  refine windsUp_ite (.refl s) (WindsUp.after (windsUp_modStream fun x => ?_) (WindsUp.after (windsUp_modAcct _ _) (windsUp_hostWr _ _ _)))
  split <;> exact ⟨rfl, rfl⟩

theorem windsUp_postDone (l : List DoneEntry) : WindsUp s (postDone s l) :=
  windsUp_foldl (fun _ _ => windsUp_foldl (fun _ _ => windsUp_postMsg ..) _ _) _ _

/-! ### The end of a close -/

theorem windsUp_freeStream : WindsUp s (freeStream s h) := by
  unfold freeStream
  have hfn (v : State) (f : Func) (g : Fn → List Gather) : WindsUp v (modFn v f fun y => { y with gathers := g y }) :=
    windsUp_setFn ⟨rfl, rfl, rfl, rfl, rfl, rfl, rfl⟩
  have hreset (v : State) : WindsUp v (setStream v h .reset) := windsUp_setStream (fun _ => .inl rfl) (.inr (.inl rfl))
  exact windsUp_ite (((windsUp_releaseRegions _).trans (hfn _ _ _)).trans (hreset _))
    ((((windsUp_releaseRegions _).trans (hfn _ _ _)).trans (hreset _)).trans (windsUp_of rfl rfl rfl rfl rfl))

theorem windsUp_finishClose : WindsUp s (finishClose s h) := by
  refine windsUp_ite (.refl s) (windsUp_freeStream.after ?_)
  exact windsUp_ite (windsUp_putRecord ..) (WindsUp.after (windsUp_postDone _) (windsUp_putRecord ..))

theorem windsUp_dropMove : WindsUp s (dropMove s h) := by
  unfold dropMove
  split
  · exact .refl s
  · refine WindsUp.after (windsUp_modStream fun _ => ⟨rfl, rfl⟩) ?_
    exact windsUp_ite (WindsUp.after (windsUp_releaseRegions _) (windsUp_of rfl rfl rfl rfl rfl)) (.refl s)

theorem windsUp_endClose : WindsUp s (endClose s h) := windsUp_ite (windsUp_dropMove.trans windsUp_finishClose) (.refl s)

/-! ### The end of a chunk -/

theorem windsUp_modModel (m : ModelSlot) (g : Model → Model) : WindsUp s (modModel s m g) := by
  obtain ⟨M, hM⟩ := modModel_frame s m g
  exact hM ▸ windsUp_of rfl rfl rfl rfl rfl

theorem windsUp_startMove (promote : Bool) (cls dst : Nat) : WindsUp s (startMove s h promote cls dst) := by
  unfold startMove
  dsimp only
  split
  · exact .refl s
  · refine WindsUp.after (windsUp_modStream fun _ => ⟨rfl, rfl⟩) (windsUp_ite (WindsUp.after (windsUp_modModel _ _) ?_) ?_)
    · exact windsUp_of rfl rfl rfl rfl rfl
    · exact windsUp_of rfl rfl rfl rfl rfl

theorem windsUp_startDue : WindsUp s (startDue s h) := by
  unfold startDue
  dsimp only
  split
  · exact windsUp_ite (windsUp_ite (WindsUp.after (windsUp_startMove ..) (windsUp_modStream fun _ => ⟨rfl, rfl⟩)) (windsUp_modStream fun _ => ⟨rfl, rfl⟩)) (.refl s)
  · exact .refl s

theorem windsUp_switchPtr (dst : Nat) : WindsUp s (switchPtr s h dst) := by
  unfold switchPtr
  exact WindsUp.after (windsUp_modStream fun _ => ⟨rfl, rfl⟩) (windsUp_releaseRegions _)

theorem windsUp_moveOffRetired (blocks : List NewBlock) : WindsUp s (moveOffRetired s blocks h) := by
  unfold moveOffRetired
  dsimp only
  split
  · exact windsUp_ite (WindsUp.after (windsUp_switchPtr _) (windsUp_of rfl rfl rfl rfl rfl)) (.refl s)
  · exact .refl s

theorem windsUp_afterChunk (blocks : List NewBlock) : WindsUp s (afterChunk s blocks h) :=
  ((windsUp_moveOffRetired blocks).trans windsUp_startDue).trans windsUp_endClose

theorem windsUp_requeueChunk (hs err : Nat → Nat) (late : List CoreId) : WindsUp s (requeueChunk s h hs err late) := windsUp_modStream fun _ => ⟨rfl, rfl⟩

theorem windsUp_putPcm (b : List Byte) : WindsUp s (putPcm s h b) := by
  unfold putPcm
  dsimp only
  exact windsUp_ite (.refl s) (WindsUp.after (windsUp_modStream fun _ => ⟨rfl, rfl⟩) (WindsUp.after (windsUp_modAcct _ _) (windsUp_foldl (fun _ _ => windsUp_hostWr ..) _ _)))

theorem windsUp_putSample (y : W32) : WindsUp s (putSample s h y) := by
  unfold putSample
  dsimp only
  have hsbtm (B : SbTmSt) : WindsUp s { s with sbtm := B } := windsUp_of rfl rfl rfl rfl rfl
  exact (hsbtm _).trans (windsUp_putPcm _)

theorem windsUp_synthSamples (n : Nat) : WindsUp s (synthSamples n s h) := by
  induction n generalizing s with
  | zero => exact .refl s
  | succ n ih => exact WindsUp.after ih (WindsUp.after (windsUp_foldl (fun _ _ => windsUp_putSample _) _ _) (windsUp_modStream fun _ => ⟨rfl, rfl⟩))

theorem windsUp_endSynth (commit : Bool) : WindsUp s (endSynth s h commit) :=
  windsUp_ite (.refl s) (WindsUp.after (windsUp_modStream fun _ => ⟨rfl, rfl⟩) (windsUp_ite (windsUp_synthSamples _) (.refl s)))

theorem windsUp_pcmRecord (g : RecFlags) (seq : W32) : WindsUp s (pcmRecord s h g seq) :=
  windsUp_ite (WindsUp.after (windsUp_modStream fun _ => ⟨rfl, rfl⟩) (windsUp_putRecord ..)) (.refl s)

theorem windsUp_chunkRecords (g : RecFlags) (toks : Tokens) (seq : W32) : WindsUp s (chunkRecords s h g toks seq) :=
  windsUp_foldl (fun _ _ => windsUp_putRecord ..) _ _

theorem windsUp_endChunk (how : ChunkEnd) (r : Bool) (toks : Tokens) : WindsUp s (endChunk s h how r toks).1 := by
  unfold endChunk
  dsimp only
  refine WindsUp.after (windsUp_modStream fun x => ?_) (WindsUp.after (windsUp_modAcct _ _) (WindsUp.after (windsUp_chunkRecords ..) ?_))
  · split <;> exact ⟨rfl, rfl⟩
  · have hsynth (b : Bool) : WindsUp s (if how = .silent then s else endSynth s h b) := windsUp_ite (.refl s) (windsUp_endSynth b)
    exact windsUp_ite (WindsUp.after (windsUp_pcmRecord ..) (hsynth _)) (hsynth _)

/-! ### The chunks of a bundle -/

/-- A fold that carries the entries to be posted along. -/
theorem windsUp_foldl_fst {α β : Type} {f : State × β → α → State × β} (hf : ∀ a x, WindsUp a.1 (f a x).1) (l : List α) (a : State × β) :
    WindsUp a.1 (l.foldl f a).1 := by
  induction l generalizing a with
  | nil => exact .refl _
  | cons x l ih => exact WindsUp.trans (hf a x) (ih _)

theorem windsUp_settleMembers (late : List CoreId) (ms : List Member) (fails : Member → Chunk → Bool) (hs err : Nat → Nat) (blocks : List NewBlock) :
    WindsUp s (settleMembers s late ms fails hs err blocks) := by
  unfold settleMembers
  refine WindsUp.after (windsUp_forAll (fun _ _ => windsUp_afterChunk _) _ _) (WindsUp.after (windsUp_postDone _) (windsUp_foldl_fst (fun a m => ?_) ms (s, [])))
  dsimp only
  split
  · split
    · exact windsUp_endChunk ..
    · exact windsUp_requeueChunk ..
  · exact windsUp_requeueChunk ..

theorem windsUp_bundleTokens (m : ModelSlot) (n : Nat) : WindsUp s (bundleTokens s p m n).2 := by
  unfold bundleTokens
  dsimp only
  split
  · split
    · exact .refl s
    · exact windsUp_setModel ..
  · exact .refl s

theorem windsUp_applyPegReports (m : ModelSlot) (b : Bundle) : WindsUp s (applyPegReports s p m b) := by
  unfold applyPegReports
  dsimp only
  split
  · refine windsUp_ite (.refl s) (windsUp_ite (windsUp_setModel ..) (windsUp_ite (windsUp_setModel ..) ?_))
    split
    · exact windsUp_setModel ..
    · exact WindsUp.after (windsUp_foldl (fun _ _ => windsUp_modStream (by exact fun _ => ⟨rfl, rfl⟩)) _ _) (windsUp_setModel ..)
  · exact .refl s

theorem windsUp_applyStateStats (m : ModelSlot) : WindsUp s (applyStateStats s p m) := by
  unfold applyStateStats
  dsimp only
  split
  · split
    · exact .refl s
    · exact windsUp_setModel ..
  · exact .refl s

theorem windsUp_commitBundle (blocks : List NewBlock) : WindsUp s (commitBundle s p blocks) := by
  unfold commitBundle
  dsimp only
  split
  · exact .refl s
  · split
    · exact .refl s
    · refine windsUp_ite (.refl s) (WindsUp.after (windsUp_forAll (fun _ _ => windsUp_afterChunk _) _ _) (WindsUp.after (windsUp_postDone _)
        (WindsUp.after (windsUp_modTask _) (WindsUp.after (windsUp_modJob _ _) (WindsUp.after (windsUp_foldl_fst (fun a m => ?_) _ (_, []))
          (WindsUp.after (windsUp_applyStateStats _) (WindsUp.after (windsUp_applyPegReports _ _) (windsUp_bundleTokens _ _))))))))
      exact windsUp_endChunk ..

theorem windsUp_unformBundle (b : Bundle) : WindsUp s (unformBundle s b) :=
  windsUp_forAll (fun _ _ => WindsUp.after (windsUp_afterChunk _) (windsUp_requeueChunk ..)) _ _

theorem windsUp_unformWith : WindsUp s (unformWith s h) := by
  unfold unformWith
  split
  · exact .refl s
  · exact WindsUp.after (windsUp_unformBundle _) (windsUp_of rfl rfl rfl rfl rfl)

/-! ### The end of a task -/

theorem windsUp_closeIdle : WindsUp s (closeIdle s p) := by
  unfold closeIdle
  dsimp only
  split
  · exact .refl s
  · exact WindsUp.after (windsUp_modAcct _ _) (windsUp_setPart rfl id id)

theorem windsUp_cutParts : WindsUp s (cutParts s p) := by
  unfold cutParts
  dsimp only
  split
  · exact .refl s
  · exact windsUp_ite (.refl s) (WindsUp.after (windsUp_modTask _) (windsUp_of rfl rfl rfl rfl rfl))

theorem windsUp_closeCharge : WindsUp s (closeCharge s p) := by
  have hcharge : WindsUp s (chargeTask s p) := by
    unfold chargeTask
    dsimp only
    split
    · exact .refl s
    · exact windsUp_ite (.refl s) (WindsUp.after (windsUp_modTask _) (WindsUp.after windsUp_cutParts (windsUp_foldl (fun _ _ => windsUp_modAcct _ _) _ _)))
  exact WindsUp.after (windsUp_modTask _) hcharge

theorem windsUp_landAll : WindsUp s (landAll s c) := windsUp_ite (.refl s) (WindsUp.after (windsUp_modCore fun _ => ⟨id, rfl, rfl, id, id⟩) (windsUp_modCore fun _ => .refl _))

theorem windsUp_dropReserved : WindsUp s (dropReserved s c) := by
  unfold dropReserved
  dsimp only
  split
  · exact windsUp_ite (.refl s) (windsUp_setPart rfl id id)
  · exact .refl s

theorem windsUp_dropWaits : WindsUp s (dropWaits s c) := by
  unfold dropWaits
  obtain ⟨B, h⟩ := sendWaiting_frame { s with br := _ }
  rw [h]
  exact windsUp_of rfl rfl rfl rfl rfl

theorem seqKept_emptied (q : Seq) : SeqKept q { q with dmaQ := [], wlQ := [], mxQ := [], vxQ := [], seqQ := [] } :=
  ⟨id, rfl, rfl, fun _ k => by cases k <;> rfl, id⟩

theorem windsUp_emptyQueues : WindsUp s (emptyQueues s c) := windsUp_setCore (seqKept_emptied _)

/-- The sequencer goes to idle. -/
theorem windsUp_idle : WindsUp s (modSeq s c fun q => { q with phase := .idle, asks := [], ldPend := [], due := none }) :=
  windsUp_setCore ⟨fun _ => rfl, rfl, rfl, id, fun _ => rfl⟩

theorem windsUp_stopCore : WindsUp s (stopCore s c) := by
  unfold stopCore
  dsimp only
  exact WindsUp.after windsUp_emptyQueues (WindsUp.after windsUp_dropWaits (WindsUp.after windsUp_idle (WindsUp.after windsUp_landAll windsUp_dropReserved)))

theorem windsUp_stopCores : WindsUp s (stopCores s p) := WindsUp.after (windsUp_setPart rfl id id) (windsUp_forAll (fun _ _ => windsUp_stopCore) _ _)

theorem windsUp_noteOvershoot : WindsUp s (noteOvershoot s p) := by
  unfold noteOvershoot
  dsimp only
  split
  · exact windsUp_ite (windsUp_modJob _ _) (.refl s)
  · exact .refl s

theorem windsUp_addTele (j : JobNo) : WindsUp s (addTele s p j) := windsUp_forAll (fun _ _ => windsUp_modJob _ _) _ _

theorem windsUp_correctRow (r : SramRow) : WindsUp s (correctRow c s r) := by
  unfold correctRow
  have hfirst (T : TeleSt) (M : MonSt) (hM : M.fatal = s.mon.fatal) : WindsUp s { s with tele := T, mon := M } :=
    windsUp_of (congrArg (fun f => (s.pw, s.fatal, s.aer, s.time, s.courses, f, s.inProgress)) hM) rfl rfl rfl rfl
  refine windsUp_ite (hfirst _ _ (by rfl)) (windsUp_ite (windsUp_ite (WindsUp.after (windsUp_logError _) (hfirst _ _ (by rfl))) (hfirst _ _ (by rfl)))
    (windsUp_ite ?_ (hfirst _ _ (by rfl))))
  exact windsUp_of rfl rfl rfl rfl rfl

theorem windsUp_runWindows : WindsUp s (runWindows s p) := by
  refine windsUp_forAll (fun _ _ => WindsUp.after (windsUp_foldl (fun _ _ => ?_) _ _) (windsUp_modCore (by exact fun _ => .refl _))) _ _
  exact windsUp_ite (windsUp_modCore (by exact fun _ => .refl _)) (windsUp_foldl (fun _ _ => windsUp_correctRow _) _ _)

theorem windsUp_unbind : WindsUp s (unbind s p) := by
  unfold unbind
  dsimp only
  split
  · exact windsUp_noteOvershoot
  · refine WindsUp.after windsUp_runWindows (WindsUp.after (windsUp_setPart rfl (fun _ => rfl) fun _ => rfl) ?_)
    have hcores (l : List CoreId) (j : JobNo) : WindsUp s (forAll l (fun s c => modSeq (landAll s c) c fun q => { q with phase := .idle, asks := [], ldPend := [], due := none })
        (addTele (closeCharge (noteOvershoot s p) p) p j)) :=
      WindsUp.after (windsUp_forAll (fun _ _ => WindsUp.after windsUp_idle windsUp_landAll) _ _)
        (WindsUp.after (windsUp_addTele _) (WindsUp.after windsUp_closeCharge windsUp_noteOvershoot))
    split
    · exact WindsUp.after (windsUp_releaseRegions _) (hcores _ _)
    · exact hcores _ _

theorem windsUp_stopNoGrace : WindsUp s (stopNoGrace s p) := by
  unfold stopNoGrace
  dsimp only
  split
  · exact .refl s
  · have hlog (t : Task) (o : BitVec 3) : WindsUp s (logTaskErrors (closeCharge (stopCores s p) p) p t o) :=
      WindsUp.after (windsUp_logTaskErrors _ _) (WindsUp.after windsUp_closeCharge windsUp_stopCores)
    exact WindsUp.after windsUp_unbind (windsUp_ite (WindsUp.after (windsUp_commitBundle _) (hlog _ _)) (WindsUp.after (windsUp_settleMembers ..) (hlog _ _)))

theorem windsUp_stopAll : WindsUp s (stopAll s) := windsUp_forAll (fun _ _ => windsUp_stopNoGrace) _ _

theorem windsUp_parkTask : WindsUp s (parkTask s p) := by
  unfold parkTask
  dsimp only
  split
  · exact .refl s
  · refine WindsUp.after windsUp_runWindows (WindsUp.after (windsUp_forAll (fun _ _ => windsUp_modCore (by exact fun _ => ⟨fun _ => rfl, rfl, rfl, id, id⟩)) _ _) (WindsUp.after (windsUp_setPart rfl (fun _ => rfl) fun _ => rfl) ?_))
    have htele (j : JobNo) (q : Prop) [Decidable q] : WindsUp s (addTele (if q then commitBundle s p [] else s) p j) :=
      WindsUp.after (windsUp_addTele _) (windsUp_ite (windsUp_commitBundle _) (.refl s))
    split
    · exact WindsUp.after (windsUp_modJob _ _) (htele _ _)
    · exact htele _ _

end

end Sys2Proof.Machine
end

section
/-! PROOFS. C1, C2, device idle and standby (R120, R382 to R384). -/

namespace Sys2Proof.Machine
open Sys2Proof

/-! ### Updates of every entry of a table -/

section
variable {κ β : Type} {get : State → κ → β} {f : State → κ → State} {g : κ → β → β}

/-- A fold that changes one entry in each turn changes those of its list once each. -/
theorem get_foldl [DecidableEq κ] (hself : ∀ s k, get (f s k) k = g k (get s k)) (hne : ∀ s k j, j ≠ k → get (f s k) j = get s j) {l : List κ}
    (hl : l.Nodup) (s : State) (j : κ) : get (l.foldl f s) j = if j ∈ l then g j (get s j) else get s j := by
  induction l generalizing s with
  | nil => rfl
  | cons k l ih =>
    obtain ⟨hk, hl⟩ := List.nodup_cons.1 hl
    rw [List.foldl_cons, ih hl]
    by_cases hj : j = k
    · subst hj
      rw [if_neg hk, if_pos (List.mem_cons_self ..), hself]
    · simp [hne s k j hj, hj]

end

section
variable {s t u : State} {k : CourseId} {c : CoreId} {p : PartId}

theorem nodup_allCourses : allCourses.Nodup := by decide
theorem mem_allCourses (k : CourseId) : k ∈ allCourses := List.mem_map.2 ⟨k.toNat, List.mem_range.2 k.isLt, by simp⟩
theorem nodup_allPorts : allPorts.Nodup := by decide
theorem mem_allPorts (n : PortNo) : n ∈ allPorts := List.mem_map.2 ⟨n.toNat, List.mem_range.2 n.isLt, by simp⟩

/-- A function's entry after all functions have changed by `g`. -/
theorem getFn_forAll (g : Func → Fn → Fn) (s : State) (f : Func) : getFn (forAll allFuncs (fun s f => modFn s f (g f)) s) f = g f (getFn s f) := by
  have hget := get_foldl (get := getFn) (f := fun s f => modFn s f (g f)) (g := g) (fun s k => getFn_setFn ..) (fun s k j h => getFn_setFn_ne _ _ _ _ h)
    nodup_allFuncs s f
  rw [if_pos (mem_allFuncs f)] at hget
  exact hget

theorem forAll_modFn_frame (g : Func → Fn → Fn) (l : List Func) (s : State) : ∃ F, forAll l (fun s f => modFn s f (g f)) s = { s with funcs := F } :=
  forAll_rel (R := fun s t => ∃ F, t = { s with funcs := F }) (fun _ => ⟨_, rfl⟩) (fun _ _ _ ⟨_, h⟩ ⟨F, h'⟩ => ⟨F, by rw [h', h]⟩) (fun _ _ => ⟨_, rfl⟩) l s

theorem unready_spec (s : State) : ∃ F, unready s = { s with funcs := F } ∧ ∀ f, getFn (unready s) f = { getFn s f with ready := false } := by
  obtain ⟨F, hF⟩ := forAll_modFn_frame (fun _ x => { x with ready := false }) allFuncs s
  exact ⟨F, hF, getFn_forAll (fun _ x => { x with ready := false }) s⟩

/-- Courses put into a state together. -/
theorem putCStates_spec (c : CState) {l : List CourseId} (hl : l.Nodup) (s : State) :
    (∃ Q, forAll l (fun s k => putCState s k c) s = { s with courses := Q }) ∧ ∀ k ∈ l, (getCourse (forAll l (fun s k => putCState s k c) s) k).cst = c := by
  refine ⟨forAll_rel (R := fun s t => ∃ Q, t = { s with courses := Q }) (fun _ => ⟨_, rfl⟩) (fun _ _ _ ⟨_, h⟩ ⟨Q, h'⟩ => ⟨Q, by rw [h', h]⟩)
    (fun _ _ => ⟨_, rfl⟩) l s, fun k hk => ?_⟩
  have hget := get_foldl (get := getCourse) (f := fun s k => putCState s k c) (g := fun _ x => { x with cst := c }) (fun s k => getCourse_setCourse ..)
    (fun s k j h => getCourse_setCourse_ne _ _ _ _ h) hl s k
  rw [if_pos hk] at hget
  exact congrArg Course.cst hget

theorem nodup_partCourses (x : Part) : (partCourses x).Nodup := nodup_allCourses.sublist List.filter_sublist

/-! ### A course leaves C2 -/

theorem applySpares_frame (s : State) (c : CoreId) : ∃ U M T F, applySpares s c = { s with fuses := U, mon := M, tele := T, funcs := F } := by
  unfold applySpares
  refine foldl_rel (R := fun s t => ∃ U M T F, t = { s with fuses := U, mon := M, tele := T, funcs := F }) (fun _ => ⟨_, _, _, _, rfl⟩)
    (fun _ _ _ ⟨_, _, _, _, h⟩ ⟨U, M, T, F, h'⟩ => ⟨U, M, T, F, by rw [h', h]⟩) (fun s x => ?_) _ _ |>.imp fun U ⟨M, T, F, h⟩ => ⟨M, T, F, h.trans rfl⟩
  dsimp only
  obtain ⟨T, F, h⟩ := logError_frame _ _
  rw [h]
  exact ⟨_, _, _, _, rfl⟩

theorem nodup_courseCores (k : CourseId) : (courseCores k).Nodup := by
  revert k
  decide

theorem wakeCourse_spec (s : State) (k : CourseId) : (wakeCourse s k).mem = s.mem ∧ (getCourse (wakeCourse s k) k).cst = .c0 ∧
    ∀ c ∈ courseCores k, getCore (wakeCourse s k) c = wokenCore (getCore s c) := by
  have hspares (s : State) (c : CoreId) : (applySpares s c).mem = s.mem ∧ (applySpares s c).cores = s.cores := by
    obtain ⟨U, M, T, F, h⟩ := applySpares_frame s c
    rw [h]
    exact ⟨rfl, rfl⟩
  obtain ⟨v, hv⟩ : ∃ v, forAll (courseCores k) (fun s c => applySpares (modCore s c wokenCore) c) s = v := ⟨_, rfl⟩
  have hmem : v.mem = s.mem := by
    rw [← hv]
    exact foldl_fixed (g := State.mem) (f := fun s c => applySpares (modCore s c wokenCore) c) (fun s c => (hspares _ _).1) (courseCores k) s
  have hwake : wakeCourse s k = setCourse v k { getCourse v k with cst := .c0, lastJob := none } := by rw [wakeCourse, hv]
  rw [hwake]
  refine ⟨hmem, congrArg Course.cst (getCourse_setCourse ..), fun c hc => ?_⟩
  · have hget := get_foldl (get := getCore) (f := fun s c => applySpares (modCore s c wokenCore) c) (g := fun _ => wokenCore)
      (fun s d => by rw [getCore, (hspares _ _).2]; exact getCore_setCore ..)
      (fun s d j h => by rw [getCore, (hspares _ _).2]; exact getCore_setCore_ne _ _ _ _ h) (nodup_courseCores k) s c
    rw [if_pos hc] at hget
    rw [getCore_setCourse, ← hv]
    exact hget

theorem rd_wokenCore (x : CoreSt) (a : Nat) :
    Memory.rd (wokenCore x).eng.sp a = if a < droneStart x.drone.toNat then 0 else Memory.rd x.eng.sp a := by
  have htclear := tget_tclear (d := (0 : Byte)) (t := x.eng.sp) (lo := 0) (n := droneStart x.drone.toNat) (j := a)
  simp only [Nat.zero_le, true_and, Nat.zero_add] at htclear
  exact htclear

/-! ### Standby -/

theorem windsUp_clearMeet : WindsUp s (clearMeet s p) := by
  unfold clearMeet
  split
  · exact windsUp_ite windsUp_stopNoGrace windsUp_parkTask
  · exact .refl s

/-- With no task to end, D3hot changes the functions alone (R384). -/
theorem askStandby_of_over (hover : tasksOver s = true) : ∃ F, askStandby s = { s with pw := { s.pw with pfD3 := true }, funcs := F } ∧
    ∀ f, (getFn (askStandby s) f).ready = false := by
  obtain ⟨F, hF, hready⟩ := unready_spec { s with pw := { s.pw with pfD3 := true } }
  have hnone : ∀ p ∈ allParts, ¬((getPart s p).task.isSome = true ∧ (!(getPart s p).atMeet) = true ∧ (getPart s p).endReq.isNone = true) := fun p hp h => by
    have hp' := List.all_eq_true.1 hover p hp
    simp only [Bool.and_eq_true, Bool.or_eq_true] at hp'
    obtain ⟨hsome, hmeet, -⟩ := h
    rcases hp'.1 with h0 | h0
    · simp [Option.isNone_iff_eq_none.1 h0] at hsome
    · simp [h0] at hmeet
  obtain ⟨v, hv⟩ : ∃ v, unready { s with pw := { s.pw with pfD3 := true } } = v := ⟨_, rfl⟩
  rw [hv] at hF hready
  have hparts : v.parts = s.parts := by rw [hF]
  have hkeep (l : List PartId) (hl : ∀ p ∈ l, p ∈ allParts) :
      l.foldl (fun s p => if (getPart s p).task.isSome ∧ !(getPart s p).atMeet ∧ (getPart s p).endReq.isNone then requestEnd s p else s) v = v := by
    induction l with
    | nil => rfl
    | cons p l ih =>
      rw [List.foldl_cons, if_neg (by rw [getPart, hparts]; exact hnone p (hl p (List.mem_cons_self ..)))]
      exact ih fun q hq => hl q (List.mem_cons_of_mem p hq)
  have hask : askStandby s = v := by
    unfold askStandby
    dsimp only
    rw [hv]
    exact hkeep allParts fun _ => id
  refine ⟨F, hask.trans hF, fun f => ?_⟩
  rw [hask, hready]

theorem up_setPeer (s : State) (n m : PortNo) : (getPort (setPeer s n) m).up = (getPort s m).up := by
  unfold setPeer
  dsimp only
  by_cases hm : m = n
  · subst hm
    rw [getPort_setPort]
    split <;> rfl
  · rw [getPort_setPort_ne _ _ _ _ hm]

theorem up_refreshPorts (s : State) (m : PortNo) : (getPort (refreshPorts s) m).up = (getPort s m).up := by
  have hpeers (l : List PortNo) (s : State) : (getPort (l.foldl setPeer s) m).up = (getPort s m).up :=
    foldl_fixed (g := fun s => (getPort s m).up) (fun s n => up_setPeer s n m) l s
  exact hpeers allPorts s

theorem refreshPorts_frame (s : State) : ∃ B, refreshPorts s = { s with br := B } := by
  obtain ⟨B, h⟩ := foldl_rel (R := fun s t => ∃ B, t = { s with br := B }) (fun _ => ⟨_, rfl⟩) (fun _ _ _ ⟨_, h⟩ ⟨B, h'⟩ => ⟨B, by rw [h', h]⟩)
    (fun s n => ⟨_, rfl⟩) allPorts (s := s) (f := setPeer)
  unfold refreshPorts
  rw [h]
  exact ⟨_, rfl⟩

theorem portsDown_spec (s : State) : (∃ B, forAll allPorts (fun s n => setPort s n { getPort s n with up := false }) s = { s with br := B }) ∧
    ∀ n, (getPort (forAll allPorts (fun s n => setPort s n { getPort s n with up := false }) s) n).up = false := by
  refine ⟨forAll_rel (R := fun s t => ∃ B, t = { s with br := B }) (fun _ => ⟨_, rfl⟩) (fun _ _ _ ⟨_, h⟩ ⟨B, h'⟩ => ⟨B, by rw [h', h]⟩)
    (fun _ _ => ⟨_, rfl⟩) allPorts s, fun n => ?_⟩
  have hget := get_foldl (get := getPort) (f := fun s n => setPort s n { getPort s n with up := false }) (g := fun _ x => { x with up := false })
    (fun s k => getPort_setPort ..) (fun s k j h => getPort_setPort_ne _ _ _ _ h) nodup_allPorts s n
  rw [if_pos (mem_allPorts n)] at hget
  exact congrArg Port.up hget

theorem sleep_spec (s : State) : (sleep s).pw = { s.pw with standby := true } ∧ (∀ k, (getCourse (sleep s) k).cst = .c2) ∧
    (∀ n, (getPort (sleep s) n).up = false) ∧ ∀ f, (getFn (sleep s) f).ready = (getFn s f).ready := by
  obtain ⟨v, hv⟩ : ∃ v, forAll allParts clearMeet s = v := ⟨_, rfl⟩
  have hwinds : WindsUp s v := hv ▸ windsUp_forAll (fun _ _ => windsUp_clearMeet) _ _
  obtain ⟨⟨Q, hQ⟩, hcst⟩ := putCStates_spec .c2 nodup_allCourses v
  obtain ⟨w, hw⟩ : ∃ w, forAll allCourses (fun s k => putCState s k .c2) v = w := ⟨_, rfl⟩
  rw [hw] at hQ hcst
  obtain ⟨⟨B, hB⟩, hup⟩ := portsDown_spec w
  obtain ⟨x, hx⟩ : ∃ x, forAll allPorts (fun s n => setPort s n { getPort s n with up := false }) w = x := ⟨_, rfl⟩
  rw [hx] at hB hup
  obtain ⟨B', hB'⟩ := refreshPorts_frame (filterRoutes x fun _ _ => false)
  have hup' (n : PortNo) : (getPort (refreshPorts (filterRoutes x fun _ _ => false)) n).up = false := (up_refreshPorts _ n).trans (hup n)
  have hsleep : sleep s = { v with courses := Q, br := { B' with locked := false }, pw := { v.pw with standby := true } } := by
    unfold sleep
    dsimp only
    rw [hv, hw, hx, hB', hB, hQ]
    rfl
  rw [hB'] at hup'
  have hpw : v.pw = s.pw := congrArg Prod.fst hwinds.outside
  rw [hsleep]
  refine ⟨by rw [← hpw], fun k => ?_, hup', fun f => (hwinds.fns f).ready⟩
  rw [hQ] at hcst
  exact hcst k (mem_allCourses k)

theorem exec_c1Entry : exec (.c1Entry k) s = execC1Entry k s := rfl
theorem exec_c2Entry : exec (.c2Entry k) s = execC2Entry k s := rfl
theorem exec_c2Exit : exec (.c2Exit k) s = execC2Exit k s := rfl
theorem exec_deviceIdleEntry : exec .deviceIdleEntry s = execDeviceIdleEntry s := rfl
theorem exec_deviceIdleExit : exec .deviceIdleExit s = execDeviceIdleExit s := rfl
theorem exec_standbyEntry {dt : Nat} : exec (.standbyEntry dt) s = execStandbyEntry dt s := rfl
theorem exec_standbyExit {dt : Nat} : exec (.standbyExit dt) s = execStandbyExit dt s := rfl

end

/-- Settles O57: each row is its guard and its update; standby clears the meets, which leaves the functions and the power registers alone. -/
theorem lowPowerStatesComplete : Obligations.LowPowerStatesComplete := by
  intro dt s
  obtain ⟨T, B, htick⟩ := tick_frame s dt
  refine ⟨fun k hdev hcst hbound => ?_, fun k hrt hcst => ⟨fun hnone => ?_, fun p hsome hdue => ?_⟩, fun k hrt hcst => ?_, fun hdev hidle hall => ?_,
    fun hdev hidle => ?_, fun hdev hover => ?_, fun hd3 hphase hclock hfatal => ?_⟩
  · exact exec_c1Entry.trans (congrArg Host.Outcome.next (if_pos (by rw [hdev, hcst, hbound]; rfl)))
  · refine exec_c2Entry.trans (congrArg Host.Outcome.next ((if_neg ?_).trans ?_))
    · simp [hrt, hcst]
    · rw [hnone]
  · obtain ⟨⟨Q, hQ⟩, hall⟩ := putCStates_spec .c2 (nodup_partCourses (getPart s p)) s
    refine ⟨forAll (partCourses (getPart s p)) (fun s k => putCState s k .c2) s, ?_, hall, by rw [hQ], by rw [hQ]⟩
    refine exec_c2Entry.trans (congrArg Host.Outcome.next ((if_neg ?_).trans ?_))
    · simp [hrt, hcst]
    · rw [hsome]
      exact if_pos hdue
  · obtain ⟨hmem, hc0, hcores⟩ := wakeCourse_spec s k
    refine ⟨wakeCourse s k, exec_c2Exit.trans (congrArg Host.Outcome.next (if_pos (by rw [hrt, hcst]; rfl))), hc0, hmem, fun c hc => ?_⟩
    rw [hcores c hc]
    exact ⟨rfl, rfl, rfl, rd_wokenCore _⟩
  · have hc2 : allCourses.all (fun k => decide ((getCourse s k).cst = .c2)) = true := List.all_eq_true.2 fun k _ => decide_eq_true (hall k)
    exact exec_deviceIdleEntry.trans (congrArg Host.Outcome.next (if_pos (by rw [hdev, hidle, hc2]; rfl)))
  · exact exec_deviceIdleExit.trans (congrArg Host.Outcome.next (if_pos (by rw [hdev, hidle]; rfl)))
  · have hover' : tasksOver (tick s dt) = true := by rw [htick]; exact hover
    have hpw : (tick s dt).pw = s.pw := by rw [htick]
    have hrow (v : State) (hv : (if (tick s dt).pw.pfD3 then tick s dt else askStandby (tick s dt)) = v) (hvo : tasksOver v = true) :
        exec (.standbyEntry dt) s = .next (sleep v) := by
      refine exec_standbyEntry.trans (congrArg Host.Outcome.next ((if_neg (by simp [hdev])).trans ?_))
      dsimp only
      rw [hv]
      exact if_pos hvo
    by_cases hd3 : s.pw.pfD3 = true
    · obtain ⟨hpw', hc2, hup, -⟩ := sleep_spec (tick s dt)
      refine ⟨_, hrow _ (if_pos (by rw [hpw]; exact hd3)) hover', by rw [hpw'], by rw [hpw', hpw]; exact hd3, hc2, hup, fun h => ?_⟩
      rw [hd3] at h
      cases h
    · obtain ⟨F, hF, hready⟩ := askStandby_of_over hover'
      obtain ⟨hpw', hc2, hup, hkeep⟩ := sleep_spec (askStandby (tick s dt))
      have hover'' : tasksOver (askStandby (tick s dt)) = true := by rw [hF]; exact hover'
      exact ⟨_, hrow _ (if_neg (by rw [hpw]; exact hd3)) hover'', by rw [hpw'], by rw [hpw', hF], hc2, hup, fun _ f => (hkeep f).trans (hready f)⟩
  · have hreach : configReaches s = true := by simp [configReaches, hphase, hclock]
    obtain ⟨v, hv⟩ : ∃ v, leaveStandby (tick s dt) = v := ⟨_, rfl⟩
    have hkeep : v.fatal = false ∧ v.pw = { s.pw with standby := false, pfD3 := false } ∧ v.funcs = s.funcs := by
      rw [← hv, htick]
      exact ⟨hfatal, rfl, rfl⟩
    obtain ⟨hvfatal, hvpw, hvfuncs⟩ := hkeep
    have hvdev : devRuns v = true := by simp [devRuns, hvpw, hphase, hclock]
    obtain ⟨F, hF⟩ := forAll_modFn_frame (fun _ x => { x with ready := x.enabled && !x.flr }) allFuncs v
    have hget := getFn_forAll (fun _ x => { x with ready := x.enabled && !x.flr }) v
    refine ⟨forAll allFuncs (fun s f => modFn s f fun x => { x with ready := x.enabled && !x.flr }) v, ?_, by rw [hF, hvpw], by rw [hF, hvpw], fun f => ?_⟩
    · refine exec_standbyExit.trans (congrArg Host.Outcome.next ((if_pos (by rw [hd3, hreach]; rfl)).trans ?_))
      unfold wake
      dsimp only
      rw [hv]
      exact if_neg (by simp [hvfatal, hvdev])
    · rw [hget, getFn, hvfuncs]
      rfl

end Sys2Proof.Machine
end

section
/-! PROOFS. The watchdog of a device that does not run (R403). -/

namespace Sys2Proof.Machine
open Sys2Proof

/-- A device in standby whose last heartbeat lies 50 s back: the watchdog is suspended (Table 18-8), and no warm reset has been. -/
def sleepingLate : State := { State.reset with time := 0x12A05F200, pw := { PwSt.reset with phase := .running, standby := true } }

/-- What a boot finds is of no account. -/
def noBoot : BootEnv := ⟨none, none, none, none, none, none, none, true, [], false⟩

theorem sleepingLate_stalled : stalled (tick sleepingLate 0) = true := by decide
theorem sleepingLate_autoOk : autoOk (tick sleepingLate 0) = true := by decide

/-- The expiry of a suspended watchdog is no event. -/
theorem exec_watchdogExpiry_sleepingLate : exec (.watchdogExpiry noBoot 0) sleepingLate = .next sleepingLate := by
  have hauto : (sleepingLate.pw.autoDue && configReaches sleepingLate) = false := by decide
  have hdog : (devRuns sleepingLate && stalled (tick sleepingLate 0)) = false := by decide
  exact congrArg Host.Outcome.next ((if_neg (by rw [hauto]; decide)).trans (if_neg (by rw [hdog]; decide)))

/-- Refutes O59: the clause on `watchdogExpiry` does not ask that the device runs, and in standby the row leaves the state as it is. -/
theorem not_deviceErrorsHeartbeatAndThermalLoop : ¬ Obligations.DeviceErrorsHeartbeatAndThermalLoop := by
  rintro ⟨-, -, hdog⟩
  obtain ⟨-, hexpiry, -⟩ := hdog 0 sleepingLate
  obtain ⟨t, ht, hcause, -⟩ := (hexpiry noBoot sleepingLate_stalled rfl).1 sleepingLate_autoOk
  rw [exec_watchdogExpiry_sleepingLate] at ht
  cases ht
  exact absurd hcause (by decide)

end Sys2Proof.Machine
end

section
/-! PROOFS. Boot, and the resets that hold the device or end in boot (R361, R374 to R376, R381, R417). -/

namespace Sys2Proof.Machine
open Sys2Proof

/-! ### What boot leaves -/

/-- What no step of boot changes: time, memories, the tables of partitions, streams and models, the straps, registers that outlast it, the
life-cycle fuses, and SM_REQ. -/
def bootKept (s : State) : (W64 × Tbl Byte × Tbl Byte) × (Tbl Part × Tbl Stream × Tbl Model) × (DevNo × Bool) ×
    (BitVec 2 × BitVec 8 × List W64) × (Bool × Bool × List Rail) × (BitVec 16 × BitVec 6) ×
    (Bool × Bool × Option (BitVec 384)) × (BitVec 4 × Bool × BitVec 8) :=
  ((s.time, s.mem, s.hostMem), (s.parts, s.streams, s.models), (s.fuses.devid, s.fuses.bootsrc), (s.pw.wrCause, s.pw.wrCount, s.pw.autoResets),
    (s.pw.pwrgood, s.pw.perstLow, s.pw.railsBad), (s.pw.capWatts, s.pw.capHyst),
    (s.fuses.prov, s.fuses.retired, s.fuses.idSecret), (s.mon.reqOp, s.mon.reqBusy, s.mon.reqStatus))

/-- Boot has ended, or has stopped. -/
def BootOver (s : State) : Prop := s.pw.phase = .running ∨ s.pw.phase = .bootStopped

section
variable {s t u : State}

theorem readRecord_straps {u v : Fuses} {b : List Byte} (h : readRecord u b = some v) :
    v.devid = u.devid ∧ v.bootsrc = u.bootsrc ∧ v.prov = u.prov ∧ v.retired = u.retired ∧ v.idSecret = u.idSecret := by
  unfold readRecord at h
  dsimp only at h
  split at h
  · cases h
    exact ⟨rfl, rfl, rfl, rfl, rfl⟩
  · cases h

theorem bootKept_applyRecord (s : State) (flash : Option (List Byte)) : bootKept (applyRecord s flash) = bootKept s := by
  unfold applyRecord
  split
  · rfl
  · split
    next v hv =>
      have hrec : flashRecord s.fuses flash = some v := (Option.filter_eq_some_iff.1 hv).1
      have hstraps : v.devid = s.fuses.devid ∧ v.bootsrc = s.fuses.bootsrc ∧ v.prov = s.fuses.prov ∧ v.retired = s.fuses.retired ∧
          v.idSecret = s.fuses.idSecret := by
        cases flash with
        | none =>
          cases hrec
          exact ⟨rfl, rfl, rfl, rfl, rfl⟩
        | some b => exact readRecord_straps hrec
      simp [bootKept, hstraps]
    · rfl

theorem bootKept_readyAll (s : State) : bootKept (readyAll s) = bootKept s ∧ (readyAll s).pw = s.pw := by
  obtain ⟨F, hF⟩ := forAll_rel (R := fun s t : State => ∃ F, t = { s with funcs := F }) (fun _ => ⟨_, rfl⟩)
    (fun _ _ _ ⟨_, h⟩ ⟨F, h'⟩ => ⟨F, by rw [h', h]⟩) (f := fun s f => if f = 0 ∨ (getFn s f).enabled then modFn s f fun x => { x with enabled := true, ready := true } else s)
    (fun s f => ite_cases (P := fun t : State => ∃ F, t = { s with funcs := F }) ⟨_, rfl⟩ ⟨_, rfl⟩) allFuncs s
  rw [readyAll, hF]
  exact ⟨rfl, rfl⟩

theorem boot_startRuntime (s : State) : bootKept (startRuntime s) = bootKept s ∧ BootOver (startRuntime s) := by
  unfold startRuntime
  dsimp only
  split
  · exact ⟨rfl, .inl rfl⟩
  · obtain ⟨hkept, hpw⟩ := bootKept_readyAll { s with
      mon := { s.mon with step := 6, hostLoad := [] }, beatAt := s.time, pw := { s.pw with phase := .running, standby := s.pw.pfD3 } }
    exact ⟨hkept, .inl (by rw [hpw])⟩

/-- The runtime starts with an accepted image, or boot stops. -/
theorem bootRuntime_cases (s : State) (b : BootEnv) :
    (∃ i o n, bootRuntime s b = startRuntime (takeRuntime { s with mon := { s.mon with fail := n } } i o)) ∨
      ∃ n, bootRuntime s b = stopBoot { s with mon := { s.mon with fail := n } } := by
  unfold bootRuntime
  obtain ⟨r, hr⟩ : ∃ r, tryBoot s.fuses 2 0 s.mon.fail.toNat (bootSources s b.rtA b.rtB b.rtHost) = r := ⟨_, rfl⟩
  simp only [hr]
  obtain ⟨found, n⟩ := r
  cases found with
  | none => exact .inr ⟨_, rfl⟩
  | some x => exact .inl ⟨_, _, _, rfl⟩

theorem bootKept_takeRuntime (s : State) (i : Nat) (o : SignedObj) : bootKept (takeRuntime s i o) = bootKept s := by simp only [bootKept, takeRuntime]
theorem bootKept_takeMonitor (s : State) (i : Nat) (o : SignedObj) : bootKept (takeMonitor s i o) = bootKept s := by simp only [bootKept, takeMonitor]

theorem boot_bootRuntime (s : State) (b : BootEnv) : bootKept (bootRuntime s b) = bootKept s ∧ BootOver (bootRuntime s b) := by
  rcases bootRuntime_cases s b with ⟨i, o, n, h⟩ | ⟨n, h⟩
  · obtain ⟨hkept, hover⟩ := boot_startRuntime (takeRuntime { s with mon := { s.mon with fail := n } } i o)
    rw [h]
    exact ⟨hkept.trans (bootKept_takeRuntime _ i o), hover⟩
  · rw [h]
    exact ⟨rfl, .inr rfl⟩

theorem deriveAttest_frame (s : State) (d : BitVec 384) : ∃ m, deriveAttest s d = { s with mon := { s.mon with attest := m } } := by
  unfold deriveAttest
  split
  next k _ => exact ⟨attestSecret k (lcState s.fuses) s.mon.monDigest d, rfl⟩
  · exact ⟨_, rfl⟩

theorem bootKept_deriveAttest (s : State) (d : BitVec 384) : bootKept (deriveAttest s d) = bootKept s := by
  obtain ⟨m, h⟩ := deriveAttest_frame s d
  rw [h]
  simp only [bootKept]

/-- Step 3 applies the sparing record; then links train and the runtime boots, or boot stops. -/
theorem bootFrom3_cases (s : State) (b : BootEnv) : ∃ w, bootKept w = bootKept s ∧
    (bootFrom3 s b = bootRuntime (trainLinks { w with mon := { w.mon with step := 3 } } b) b ∨
      bootFrom3 s b = stopBoot (setFatal { w with mon := { w.mon with step := 3 } })) := by
  refine ⟨applyRecord (deriveAttest s (nextRuntime s b)) b.sparingFlash, (bootKept_applyRecord ..).trans (bootKept_deriveAttest ..), ?_⟩
  unfold bootFrom3
  exact ite_cases (P := fun t => t = _ ∨ t = _) (.inl rfl) (.inr rfl)

theorem boot_bootFrom3 (s : State) (b : BootEnv) : bootKept (bootFrom3 s b) = bootKept s ∧ BootOver (bootFrom3 s b) := by
  obtain ⟨w, hw, h | h⟩ := bootFrom3_cases s b
  · obtain ⟨hkept, hover⟩ := boot_bootRuntime (trainLinks { w with mon := { w.mon with step := 3 } } b) b
    have htrain : bootKept (trainLinks { w with mon := { w.mon with step := 3 } } b) = bootKept w := by simp only [bootKept, trainLinks]
    rw [h]
    exact ⟨(hkept.trans htrain).trans hw, hover⟩
  · have hstop : bootKept (stopBoot (setFatal { w with mon := { w.mon with step := 3 } })) = bootKept w := by simp only [bootKept, stopBoot, setFatal]
    rw [h]
    exact ⟨hstop.trans hw, .inr rfl⟩

theorem boot_afterMonitor (s : State) (b : BootEnv) : bootKept (afterMonitor s b) = bootKept s ∧ BootOver (afterMonitor s b) := by
  unfold afterMonitor
  split
  · exact ⟨rfl, .inr rfl⟩
  · exact boot_bootFrom3 s b

/-- Boot goes on with an accepted monitor, or stops; before that it changes nothing that is kept. -/
theorem boot_cases (s : State) (b : BootEnv) (enum : Bool) : ∃ w, bootKept w = bootKept (if enum then sampleStraps s else s) ∧
    ((∃ i o, boot s b enum = afterMonitor (takeMonitor w i o) b) ∨ boot s b enum = stopBoot w) := by
  unfold boot
  obtain ⟨v, hv⟩ : ∃ v, (if enum then sampleStraps s else s) = v := ⟨_, rfl⟩
  simp only [hv]
  obtain ⟨r, hr⟩ : ∃ r, tryBoot v.fuses 1 0 0 (bootSources { v with
    mon := { v.mon with step := 1 }, pw := { v.pw with smbAck := true, poweredOn := false, enumDue := enum || v.pw.enumDue } } b.monA b.monB b.monHost) = r := ⟨_, rfl⟩
  simp only [hr]
  obtain ⟨found, n⟩ := r
  refine ⟨{ v with mon := { v.mon with step := 1, fail := BitVec.ofNat 8 n }
                   pw := { v.pw with smbAck := true, poweredOn := false, enumDue := enum || v.pw.enumDue } }, by simp only [bootKept], ?_⟩
  cases found with
  | none => exact .inr rfl
  | some x => exact .inl ⟨_, _, rfl⟩

/-- Boot keeps what `bootKept` names of the state whose straps it has sampled, and ends running or stopped (Table 17-4). -/
theorem boot_spec (s : State) (b : BootEnv) (enum : Bool) :
    bootKept (boot s b enum) = bootKept (if enum then sampleStraps s else s) ∧ BootOver (boot s b enum) := by
  obtain ⟨w, hw, ⟨i, o, h⟩ | h⟩ := boot_cases s b enum
  · obtain ⟨hkept, hover⟩ := boot_afterMonitor (takeMonitor w i o) b
    rw [h]
    exact ⟨(hkept.trans (bootKept_takeMonitor w i o)).trans hw, hover⟩
  · rw [h]
    exact ⟨hw, .inr rfl⟩

end

/-! ### Pins and rails -/

section
variable {s : State}

theorem exec_powerOnReset {b : BootEnv} : exec (.powerOnReset b) s = execPowerOnReset b s := rfl
theorem exec_pwrgoodFall : exec .pwrgoodFall s = execPwrgoodFall s := rfl
theorem exec_undervoltage {r : Rail} : exec (.undervoltage r) s = execUndervoltage r s := rfl
theorem exec_railReturn {r : Rail} {b : BootEnv} : exec (.railReturn r b) s = execRailReturn r b s := rfl
theorem exec_perstNAssert : exec .perstNAssert s = execPerstNAssert s := rfl
theorem exec_perstNDeassert {b : BootEnv} : exec (.perstNDeassert b) s = execPerstNDeassert b s := rfl

/-- With nothing that holds the device the reset ends in boot, with the straps sampled. -/
theorem release_of_mayBoot (b : BootEnv) (h : mayBoot s = true) :
    BootOver (release s b) ∧ (release s b).fuses.devid = s.fuses.devidPins ∧ (release s b).fuses.bootsrc = s.fuses.bootsrcPin := by
  obtain ⟨hkept, hover⟩ := boot_spec s b true
  have hstraps := congrArg (fun k => k.2.2.1) hkept
  rw [release, if_pos h]
  exact ⟨hover, congrArg Prod.fst hstraps, congrArg Prod.snd hstraps⟩

/-- The end of one reset leaves the pins and rails as they are. -/
theorem release_pins (s : State) (b : BootEnv) :
    (release s b).pw.pwrgood = s.pw.pwrgood ∧ (release s b).pw.perstLow = s.pw.perstLow ∧ (release s b).pw.railsBad = s.pw.railsBad := by
  unfold release
  split
  · have hpins := congrArg (fun k => k.2.2.2.2.1) (boot_spec s b true).1
    exact ⟨congrArg (fun k => k.1) hpins, congrArg (fun k => k.2.1) hpins, congrArg (fun k => k.2.2) hpins⟩
  · exact ⟨rfl, rfl, rfl⟩

end

/-- Settles O55: each row is its guard and its update; what the device holds after a cold hold is written out in the model, and boot keeps pins and straps. -/
theorem pinsAndRailsResetTheDevice : Obligations.PinsAndRailsResetTheDevice := by
  intro s held booted
  refine ⟨fun b hgood hrails => ?_, fun hgood => ?_, fun r hgood hr => ?_, fun r b hr => ?_, fun hlow hgood hclock => ?_, fun b hlow hheld => ?_⟩
  · obtain ⟨v, hv⟩ : ∃ v : State, { s with pw := { s.pw with pwrgood := true, poweredOn := true } } = v := ⟨_, rfl⟩
    have hvkeep : v.pw.pwrgood = true ∧ v.pw.perstLow = s.pw.perstLow ∧ v.pw.railsBad = [] ∧ v.pw.phase = s.pw.phase ∧
        v.fuses = s.fuses := by
      rw [← hv]
      exact ⟨rfl, rfl, hrails, rfl, rfl⟩
    obtain ⟨hvgood, hvlow, hvrails, hvphase, hvfuses⟩ := hvkeep
    have hrow : exec (.powerOnReset b) s = .next (release v b) :=
      exec_powerOnReset.trans (congrArg Host.Outcome.next ((if_pos (by simp [hgood, hrails])).trans (congrArg (release · b) hv)))
    refine ⟨_, hrow, (release_pins v b).1.trans hvgood, fun hlow => ?_, fun hlow => ?_⟩
    · rw [release, if_neg (by simp [mayBoot, hvlow, hlow]), hvphase]
    · have hboot := release_of_mayBoot (s := v) b (by simp [mayBoot, hvgood, hvrails, hvlow, hlow])
      rw [hvfuses] at hboot
      exact hboot
  · exact ⟨_, exec_pwrgoodFall.trans (congrArg Host.Outcome.next (if_pos hgood)), ⟨rfl, rfl, rfl, rfl, rfl, rfl, rfl, rfl, rfl, rfl⟩, rfl, rfl⟩
  · exact ⟨_, exec_undervoltage.trans (congrArg Host.Outcome.next (if_pos (by rw [hgood, hr]; rfl))), ⟨rfl, rfl, rfl, rfl, rfl, rfl, rfl, rfl, rfl, rfl⟩, rfl, rfl⟩
  · obtain ⟨v, hv⟩ : ∃ v : State, { s with pw := { s.pw with railsBad := s.pw.railsBad.filter fun q => decide (q ≠ r) } } = v := ⟨_, rfl⟩
    have hvkeep : v.pw.pwrgood = s.pw.pwrgood ∧ v.pw.perstLow = s.pw.perstLow ∧ v.pw.railsBad = (s.pw.railsBad.filter fun q => decide (q ≠ r)) ∧
        v.fuses = s.fuses := by
      rw [← hv]
      exact ⟨rfl, rfl, rfl, rfl⟩
    obtain ⟨hvgood, hvlow, hvrails, hvfuses⟩ := hvkeep
    have hrow : exec (.railReturn r b) s = .next (release v b) :=
      exec_railReturn.trans (congrArg Host.Outcome.next ((if_pos hr).trans (congrArg (release · b) hv)))
    refine ⟨_, hrow, (release_pins v b).2.2.trans hvrails, fun hgood hlow hall => ?_⟩
    have hnone : v.pw.railsBad = [] := by
      rw [hvrails]
      exact List.filter_eq_nil_iff.2 fun q hq => by simp [hall q hq]
    have hboot := release_of_mayBoot (s := v) b (by simp [mayBoot, hvgood, hgood, hnone, hvlow, hlow])
    rw [hvfuses] at hboot
    exact hboot
  · refine ⟨perstHold s, exec_perstNAssert.trans (congrArg Host.Outcome.next ((if_neg (by simp [hlow])).trans (if_pos (by simp [hgood, hclock])))),
      ⟨rfl, rfl, rfl, rfl, rfl, rfl, rfl, rfl, rfl, rfl⟩, rfl, rfl, rfl, rfl⟩
  · obtain ⟨v, hv⟩ : ∃ v : State, { s with pw := { s.pw with perstLow := false } } = v := ⟨_, rfl⟩
    have hvkeep : v.pw.pwrgood = s.pw.pwrgood ∧ v.pw.perstLow = false ∧ v.pw.railsBad = s.pw.railsBad ∧ v.pw.phase = .held ∧ v.fuses = s.fuses := by
      rw [← hv]
      exact ⟨rfl, rfl, rfl, hheld, rfl⟩
    obtain ⟨hvgood, hvlow, hvrails, hvphase, hvfuses⟩ := hvkeep
    have hrow : exec (.perstNDeassert b) s = .next (release v b) := by
      refine exec_perstNDeassert.trans (congrArg Host.Outcome.next ((if_neg (by simp [hlow])).trans ?_))
      exact (if_pos hheld).trans (congrArg (release · b) hv)
    refine ⟨_, hrow, (release_pins v b).2.1.trans hvlow, fun hgood hrails => ?_⟩
    have hboot := release_of_mayBoot (s := v) b (by simp [mayBoot, hvgood, hgood, hvrails, hrails, hvlow])
    rw [hvfuses] at hboot
    exact hboot

end Sys2Proof.Machine
end

section
/-! PROOFS. The narrower resets: warm reset, hot reset, FLR, VF Enable, partition reset (R295, R296, R312, R376 to R379). -/

namespace Sys2Proof.Machine
open Sys2Proof

/-! ### What the effects of an FLR keep -/

/-- The mailbox settings and counters of a function are at their reset values. -/
def FreshFn (x : Fn) : Prop := x.holdoff = 20 ∧ x.count = 16 ∧ x.taken = [] ∧ x.inNext = 0

/-- No stream of the function is left that does not close. -/
def Swept (s : State) (f : Func) : Prop := ∀ h, (getStream s h).client = f → Closes (getStream s h)

/-- What every effect of an FLR, of this function or another, keeps. -/
structure Recedes (s t : State) : Prop where
  pw : t.pw = s.pw
  enabled : ∀ f, (getFn t f).enabled = (getFn s f).enabled
  fresh : ∀ f, FreshFn (getFn s f) → FreshFn (getFn t f)
  closes : ∀ h, Closes (getStream s h) → Closes (getStream t h)
  client : ∀ h, (getStream t h).client = (getStream s h).client ∨ Closes (getStream t h)

section
variable {s t u : State} {p : PartId} {f : Func} {h : Handle}

theorem Recedes.refl (s : State) : Recedes s s := ⟨rfl, fun _ => rfl, fun _ => id, fun _ => id, fun _ => .inl rfl⟩

theorem Recedes.trans (h : Recedes s t) (k : Recedes t u) : Recedes s u :=
  ⟨k.pw.trans h.pw, fun f => (k.enabled f).trans (h.enabled f), fun f hf => k.fresh f (h.fresh f hf), fun x hx => k.closes x (h.closes x hx),
    fun x => (k.client x).elim (fun hu => (h.client x).elim (fun ht => .inl (hu.trans ht)) fun ht => .inr (k.closes x ht)) .inr⟩

theorem Recedes.after (k : Recedes t u) (h : Recedes s t) : Recedes s u := h.trans k

theorem WindsUp.recedes (h : WindsUp s t) : Recedes s t := by
  refine ⟨congrArg Prod.fst h.outside, fun f => (h.fns f).enabled, fun f hf => ?_, h.closes, h.client⟩
  obtain ⟨hholdoff, hcount, htaken, hnext⟩ := hf
  exact ⟨(h.fns f).holdoff.trans hholdoff, (h.fns f).count.trans hcount, (h.fns f).taken.trans htaken, (h.fns f).inNext.trans hnext⟩

/-- An update of other fields. -/
theorem recedes_of (hp : t.pw = s.pw) (hf : t.funcs = s.funcs) (hs : t.streams = s.streams) : Recedes s t :=
  ⟨hp, fun f => by rw [getFn, getFn, hf], fun f h => by rw [getFn, hf]; exact h, fun h hc => by rw [getStream, hs]; exact hc,
    fun h => .inl (by rw [getStream, getStream, hs])⟩

theorem recedes_modFn {g : Fn → Fn} (he : ∀ x, (g x).enabled = x.enabled) (hg : ∀ x, FreshFn x → FreshFn (g x)) : Recedes s (modFn s f g) := by
  have hfn (k : Func) : (getFn (modFn s f g) k).enabled = (getFn s k).enabled ∧ (FreshFn (getFn s k) → FreshFn (getFn (modFn s f g) k)) := by
    by_cases hk : k = f
    · subst hk
      rw [modFn_eq, getFn_setFn]
      exact ⟨he _, hg _⟩
    · rw [modFn_eq, getFn_setFn_ne _ _ _ _ hk]
      exact ⟨rfl, id⟩
  exact ⟨rfl, fun k => (hfn k).1, fun k => (hfn k).2, fun _ => id, fun _ => .inl rfl⟩

theorem recedes_ite {q : Prop} [Decidable q] (h : Recedes s t) (k : Recedes s u) : Recedes s (if q then t else u) := by
  split
  · exact h
  · exact k

theorem recedes_foldl {α : Type} {f : State → α → State} (h : ∀ s x, Recedes s (f s x)) (l : List α) (s : State) : Recedes s (l.foldl f s) :=
  foldl_rel Recedes.refl (fun _ _ _ => .trans) h l s

theorem Recedes.swept (h : Recedes s t) (hs : Swept s f) : Swept t f := fun x hx =>
  (h.client x).elim (fun hc => h.closes x (hs x (hc.symm.trans hx))) id

theorem Recedes.runtimeUp (h : Recedes s t) : runtimeUp t = runtimeUp s := by rw [Machine.runtimeUp, Machine.runtimeUp, h.pw]

/-! ### Streams and commands of the function -/

theorem recedes_modModel (m : ModelSlot) (g : Model → Model) : Recedes s (modModel s m g) := (windsUp_modModel m g).recedes

theorem recedes_abandonLoad (q : InProgress) : Recedes s (abandonLoad f s q) := by
  unfold abandonLoad
  split
  · exact recedes_ite (recedes_modModel ..) (.refl s)
  · exact .refl s

theorem recedes_dropCommands : Recedes s (dropCommands s f) := by
  unfold dropCommands
  dsimp only
  have hload := recedes_foldl (f := abandonLoad f) (fun _ q => recedes_abandonLoad q) (s.inProgress.filter fun q => decide (q.f = f)) s
  exact hload.trans (recedes_of rfl rfl rfl)

theorem recedes_closeSilently : Recedes s (closeSilently s h) := by
  obtain ⟨v, hv⟩ : ∃ v, dropMove (unformWith s h) h = v := ⟨_, rfl⟩
  have hsv : WindsUp s v := hv ▸ windsUp_unformWith.trans windsUp_dropMove
  unfold closeSilently
  dsimp only
  rw [hv]
  obtain ⟨x, hx⟩ : ∃ x : Stream, { abortAudio (getStream v h) with
    state := .closing, closing := some ⟨true, true, true⟩, pauseAt := none, migrating := false, moving := false, reserved := 0, dropReserved := 0 } = x := ⟨_, rfl⟩
  have hclosing : Closes x := .inr (by rw [← hx])
  rw [modStream_eq, hx]
  exact ((hsv.trans (windsUp_setStream (fun _ => hclosing) (.inr hclosing))).trans windsUp_endClose).recedes

theorem closes_closeSilently : Closes (getStream (closeSilently s h) h) := by
  unfold closeSilently
  dsimp only
  refine windsUp_endClose.closes h ?_
  rw [modStream_eq, getStream_setStream]
  exact .inr rfl

/-- Every open stream of a function is among its handles. -/
theorem mem_handlesOf (hc : (getStream s h).client = f) (hs : ¬Closes (getStream s h)) : h ∈ handlesOf s f := by
  have hfree : (getStream s h).state ≠ .free := fun hx => hs (.inl hx)
  have hne : getStream s h ≠ Stream.reset := fun he => hfree (by rw [he]; rfl)
  obtain ⟨x, hx⟩ : ∃ x, tfind s.streams h.toNat = some x := by
    cases hfind : tfind s.streams h.toNat with
    | some x => exact ⟨x, rfl⟩
    | none => exact absurd (by rw [getStream, tget_eq_tfind, hfind]; rfl) hne
  have hget : getStream s h = x := by rw [getStream, tget_eq_tfind, hx]; rfl
  refine List.mem_map.2 ⟨(h.toNat, x), List.mem_filter.2 ⟨mem_of_tfind hx, ?_⟩, by simp⟩
  rw [hget] at hc hfree
  simp [hc, hfree]

/-- Closing every handle of the function silently sweeps it. -/
theorem swept_closeAll : Swept ((handlesOf s f).foldl closeSilently s) f := by
  have hfold (l : List Handle) (v : State) : Recedes v (l.foldl closeSilently v) := recedes_foldl (fun _ _ => recedes_closeSilently) l v
  have hclosed (l : List Handle) (v : State) {k : Handle} (hk : k ∈ l) : Closes (getStream (l.foldl closeSilently v) k) := by
    induction l generalizing v with
    | nil => cases hk
    | cons j l ih =>
      rcases List.mem_cons.1 hk with rfl | hk
      · exact (hfold l _).closes _ closes_closeSilently
      · exact ih _ hk
  intro k hk
  rcases (hfold (handlesOf s f) s).client k with hc | hc
  · by_cases hs : Closes (getStream s k)
    · exact (hfold _ s).closes k hs
    · exact hclosed _ s (mem_handlesOf (hc.symm.trans hk) hs)
  · exact hc

/-! ### Partitions of the function -/

theorem windsUp_triggerReclaim (j : JobNo) (r : BitVec 8) : WindsUp s (triggerReclaim s p j r) := by
  have hstop (v : State) : WindsUp v (modPart (closeCharge (stopCores v p) p) p fun x => { x with stopping := true, endReq := none }) := by
    obtain ⟨w, hw⟩ : ∃ w, closeCharge (stopCores v p) p = w := ⟨_, rfl⟩
    have hvw : WindsUp v w := hw ▸ windsUp_stopCores.trans windsUp_closeCharge
    rw [hw]
    exact hvw.trans (windsUp_setPart rfl id fun _ => rfl)
  obtain ⟨v, hv⟩ : ∃ v, modJob s p j (fun b => { b with crashed := some (b.crashed.getD r) }) = v := ⟨_, rfl⟩
  have hsv : WindsUp s v := hv ▸ windsUp_modJob ..
  unfold triggerReclaim
  dsimp only
  rw [hv]
  exact windsUp_ite (hsv.trans (hstop v)) hsv

theorem recedes_destroyPartition : Recedes s (destroyPartition s p) := by
  unfold destroyPartition
  dsimp only
  have herase (v : State) : Recedes v (eraseSealed v p) := by
    unfold eraseSealed
    dsimp only
    have hforget (u : State) (q : Holder → Bool) : Recedes u (forgetHolder u q .unknown) := by
      obtain ⟨H, hH⟩ := forgetHolder_frame u q .unknown
      exact hH ▸ recedes_of rfl rfl rfl
    exact Recedes.after (hforget _ _) (recedes_foldl (by exact fun _ _ => recedes_of rfl rfl rfl) _ v)
  have hcores (l : List CoreId) (v : State) : Recedes v (forAll l (fun s c => modCore s c fun y => setDrone { y with spTask := .reset } 0) v) :=
    recedes_foldl (by exact fun _ _ => recedes_of rfl rfl rfl) l v
  obtain ⟨v, hv⟩ : ∃ v, eraseSealed (closeIdle s p) p = v := ⟨_, rfl⟩
  have hsv : Recedes s v := hv ▸ windsUp_closeIdle.recedes.trans (herase _)
  rw [hv]
  obtain ⟨w, hw⟩ : ∃ w, forAll (partCores (getPart v p)) (fun s c => modCore s c fun y => setDrone { y with spTask := .reset } 0) v = w := ⟨_, rfl⟩
  have hvw : Recedes v w := hw ▸ hcores _ v
  rw [hw]
  have hanswer (v : State) (n : Nat) : Recedes v (answer v n false) := recedes_of rfl rfl rfl
  have hgrants (G : MonSt) (A : Tbl Aperture) : Recedes w { w with mon := G, apertures := A } := recedes_of rfl rfl rfl
  have hpart (v : State) (x : Part) : Recedes v (setPart v p x) := recedes_of rfl rfl rfl
  exact Recedes.after (hpart _ _) (Recedes.after (hanswer _ _) (Recedes.after (hanswer _ _) (Recedes.after (hanswer _ _)
    ((hsv.trans hvw).trans (hgrants _ _)))))

theorem recedes_dropPartition : Recedes s (dropPartition s p) := by
  unfold dropPartition
  dsimp only
  have hmark (v : State) (g : Part → Part) : Recedes v (modPart v p g) := recedes_of rfl rfl rfl
  exact Recedes.after (recedes_ite recedes_destroyPartition (.refl _))
    (Recedes.after (recedes_foldl (fun _ j => Recedes.after (windsUp_modJob ..).recedes (windsUp_triggerReclaim ..).recedes) _ _) (hmark s _))

/-! ### What settles after it -/

theorem recedes_releaseModel (m : ModelSlot) : Recedes s (releaseModel s m) := by
  unfold releaseModel
  split
  · exact .refl s
  · exact recedes_ite ((windsUp_releaseRegions _).recedes.trans (recedes_of rfl rfl rfl)) (.refl s)

theorem recedes_settleCmds : Recedes s (settleCmds s) := by
  unfold settleCmds
  refine Recedes.after (recedes_foldl (fun s q => ?_) _ _) (recedes_of rfl rfl rfl)
  unfold finishCmd
  refine Recedes.after (windsUp_postMsg ..).recedes (recedes_ite (recedes_foldl (fun s o => ?_) _ _) (.refl s))
  split
  · exact recedes_releaseModel _
  · exact .refl s

theorem recedes_finishFlr : Recedes s (finishFlr s f) := by
  refine recedes_ite (Recedes.after (recedes_modFn (by exact fun _ => rfl) (by exact fun _ => id)) (recedes_foldl (fun s m => ?_) _ s)) (.refl s)
  exact recedes_ite (recedes_modModel ..) (Recedes.after (recedes_releaseModel m) (recedes_modModel ..))

theorem recedes_settleProgress : Recedes s (settleProgress s) :=
  Recedes.after (recedes_foldl (fun _ _ => recedes_finishFlr) _ _) recedes_settleCmds

/-! ### The FLR -/

theorem flrEffects_spec : Recedes s (flrEffects s f) ∧ Swept (flrEffects s f) f := by
  unfold flrEffects
  dsimp only
  have hclose (v : State) : Recedes v ((handlesOf v f).foldl closeSilently v) := recedes_foldl (fun _ _ => recedes_closeSilently) _ v
  have hrest (v : State) (l : List PartId) : Recedes v (settleProgress (modFn (l.foldl dropPartition v) f fun x => { x with flr := true })) :=
    Recedes.after recedes_settleProgress (Recedes.after (recedes_modFn (by exact fun _ => rfl) (by exact fun _ => id))
      (recedes_foldl (fun _ _ => recedes_dropPartition) l v))
  exact ⟨Recedes.after (hrest _ _) (Recedes.after (hclose _) recedes_dropCommands), (hrest _ _).swept swept_closeAll⟩

theorem flrOne_spec : Recedes s (flrOne s f) ∧ FreshFn (getFn (flrOne s f) f) ∧ (runtimeUp s = true → Swept (flrOne s f) f) := by
  obtain ⟨v, hv⟩ : ∃ v, dropTurns (modFn s f flrFn) f = v := ⟨_, rfl⟩
  have hvrec : Recedes s v := by
    rw [← hv]
    exact Recedes.trans (t := modFn s f flrFn) (recedes_modFn (fun _ => rfl) fun _ _ => ⟨rfl, rfl, rfl, rfl⟩) (recedes_of rfl rfl rfl)
  have hvfresh : FreshFn (getFn v f) := by
    rw [← hv]
    have hget : getFn (dropTurns (modFn s f flrFn) f) f = flrFn (getFn s f) := getFn_setFn ..
    rw [hget]
    exact ⟨rfl, rfl, rfl, rfl⟩
  obtain ⟨heff, hswept⟩ := flrEffects_spec (s := v) (f := f)
  have hone : flrOne s f = if runtimeUp v then flrEffects v f else v := by rw [← hv]; rfl
  have hrest : Recedes v (flrOne s f) := by
    rw [hone]
    exact recedes_ite heff (.refl v)
  refine ⟨hvrec.trans hrest, hrest.fresh f hvfresh, fun hup => ?_⟩
  rw [hone, if_pos (hvrec.runtimeUp.trans hup)]
  exact hswept

/-- FLRs of several functions. -/
theorem flrs_spec (l : List Func) (s : State) : Recedes s (forAll l flrOne s) ∧ (∀ f ∈ l, FreshFn (getFn (forAll l flrOne s) f)) ∧
    (runtimeUp s = true → ∀ f ∈ l, Swept (forAll l flrOne s) f) := by
  unfold forAll
  induction l generalizing s with
  | nil => exact ⟨.refl s, fun _ hf => absurd hf List.not_mem_nil, fun _ _ hf => absurd hf List.not_mem_nil⟩
  | cons g l ih =>
    obtain ⟨hrec, hfresh, hswept⟩ := flrOne_spec (s := s) (f := g)
    obtain ⟨hrec', hfresh', hswept'⟩ := ih (flrOne s g)
    refine ⟨hrec.trans hrec', fun f hf => ?_, fun hup f hf => ?_⟩
    · rcases List.mem_cons.1 hf with rfl | hf
      · exact hrec'.fresh _ hfresh
      · exact hfresh' f hf
    · rcases List.mem_cons.1 hf with rfl | hf
      · exact hrec'.swept (hswept hup)
      · exact hswept' (hrec.runtimeUp.trans hup) f hf

/-- VF Enable cleared: only the VFs' entries change, and none is enabled. -/
theorem clearVfs_spec (s : State) : (∃ F, clearVfs s = { s with funcs := F }) ∧ ∀ f, f ≠ 0 → (getFn (clearVfs s) f).enabled = false := by
  refine ⟨forAll_rel (R := fun s t : State => ∃ F, t = { s with funcs := F }) (fun _ => ⟨_, rfl⟩) (fun _ _ _ ⟨_, h⟩ ⟨F, h'⟩ => ⟨F, by rw [h', h]⟩)
    (fun s f => ite_cases (P := fun t : State => ∃ F, t = { s with funcs := F }) ⟨_, rfl⟩ ⟨_, rfl⟩) allFuncs s, fun f hf => ?_⟩
  have hget := get_foldl (get := getFn) (f := fun s f => if f = 0 then s else modFn s f fun x => { x with enabled := false })
    (g := fun f x => if f = 0 then x else { x with enabled := false })
    (fun s k => by
      split
      · rfl
      · exact getFn_setFn ..)
    (fun s k j hj => by
      split
      · rfl
      · exact getFn_setFn_ne _ _ _ _ hj) nodup_allFuncs s f
  rw [if_pos (mem_allFuncs f), if_neg hf] at hget
  exact congrArg Fn.enabled hget

/-- VFs that come into being. -/
theorem enableVfs_spec (s : State) (n : Nat) : (enableVfs s n).mem = s.mem ∧ (∀ f, f ≠ 0 → f.toNat ≤ n → (getFn (enableVfs s n) f).enabled = true) ∧
    ∀ f, n < f.toNat → getFn (enableVfs s n) f = getFn s f := by
  obtain ⟨up, hup⟩ : ∃ up, (devRuns s && !s.fatal && !s.pw.pfD3) = up := ⟨_, rfl⟩
  have heq : enableVfs s n = allFuncs.foldl (fun s f => if f ≠ 0 ∧ f.toNat ≤ n then modFn s f fun x => { x with enabled := true, ready := up && !x.flr } else s) s := by
    rw [← hup]
    rfl
  have hget (f : Func) := get_foldl (get := getFn) (f := fun s f => if f ≠ 0 ∧ f.toNat ≤ n then modFn s f fun x => { x with enabled := true, ready := up && !x.flr } else s)
    (g := fun f x => if f ≠ 0 ∧ f.toNat ≤ n then { x with enabled := true, ready := up && !x.flr } else x)
    (fun s k => by
      split
      · exact getFn_setFn ..
      · rfl)
    (fun s k j hj => by
      split
      · exact getFn_setFn_ne _ _ _ _ hj
      · rfl) nodup_allFuncs s f
  simp only [if_pos (mem_allFuncs _), ← heq] at hget
  refine ⟨?_, fun f hf hn => ?_, fun f hn => ?_⟩
  · rw [heq]
    exact foldl_fixed (g := State.mem) (by exact fun s f => ite_cases (P := fun t : State => t.mem = s.mem) rfl rfl) allFuncs s
  · rw [hget, if_pos ⟨hf, hn⟩]
  · rw [hget, if_neg fun h => absurd h.2 (by omega)]

/-! ### The partition reset -/

/-- The core stands at its reset sequencer with empty queues. -/
def CoreRests (x : CoreSt) : Prop := x.seq.phase = .idle ∧ x.seq.pc = 0 ∧ x.seq.sregs = [] ∧ ∀ k, getQ x.seq k = []

theorem coreRests_of_seqKept {x y : CoreSt} (h : SeqKept x.seq y.seq) (hx : CoreRests x) : CoreRests y := by
  obtain ⟨hphase, hpc, hregs, hqueues⟩ := hx
  exact ⟨h.phase hphase, h.pc.trans hpc, h.sregs.trans hregs, h.queues hqueues⟩

/-- A stopped core stands idle with empty queues. -/
theorem idle_emptyQueues {c : CoreId} (h : (getCore s c).seq.phase = .idle) :
    (getCore (emptyQueues s c) c).seq.phase = .idle ∧ ∀ k, getQ (getCore (emptyQueues s c) c).seq k = [] := by
  rw [emptyQueues, modCore_eq, getCore_setCore]
  exact ⟨h, fun k => by cases k <;> rfl⟩

theorem idle_stopCore (c : CoreId) : (getCore (stopCore s c) c).seq.phase = .idle ∧ ∀ k, getQ (getCore (stopCore s c) c).seq k = [] := by
  obtain ⟨w, hw⟩ : ∃ w, modSeq (landAll (dropReserved s c) c) c (fun q => { q with phase := .idle, ldPend := [], due := none, asks := [] }) = w := ⟨_, rfl⟩
  have hidle : (getCore w c).seq.phase = .idle := by rw [← hw, modSeq_eq, modCore_eq, getCore_setCore]
  unfold stopCore
  dsimp only
  rw [hw]
  exact idle_emptyQueues ((windsUp_dropWaits.seqs c).phase hidle)

/-- A sequencer put to its reset values. -/
def resetSeq (x : CoreSt) : CoreSt := { x with seq := { x.seq with pc := 0, sregs := [] }, eng := { x.eng with vl := 0, rings := [], mx := .reset } }

theorem coreRests_resetSeq {x : CoreSt} (hi : x.seq.phase = .idle) (hq : ∀ k, getQ x.seq k = []) : CoreRests (resetSeq x) :=
  ⟨hi, rfl, rfl, fun k => (show getQ (resetSeq x).seq k = getQ x.seq k by cases k <;> rfl).trans (hq k)⟩

theorem coreRests_resetCore (c : CoreId) : CoreRests (getCore (resetCore s c) c) ∧ ∀ d, CoreRests (getCore s d) → CoreRests (getCore (resetCore s c) d) := by
  obtain ⟨w, hw⟩ : ∃ w, stopCore s c = w := ⟨_, rfl⟩
  have hidle := idle_stopCore (s := s) c
  have hsw : WindsUp s w := hw ▸ windsUp_stopCore
  rw [hw] at hidle
  obtain ⟨v, hv⟩ : ∃ v, disownFrames w c = v := ⟨_, rfl⟩
  have hcore (d : CoreId) : getCore v d = getCore w d := by
    rw [← hv]
    rfl
  have hreset : resetCore s c = setCore v c (resetSeq (getCore v c)) := by
    rw [← hv, ← hw]
    rfl
  rw [hreset]
  have hself : CoreRests (getCore (setCore v c (resetSeq (getCore v c))) c) := by
    rw [getCore_setCore, hcore]
    exact coreRests_resetSeq hidle.1 hidle.2
  refine ⟨hself, fun d hd => ?_⟩
  by_cases he : d = c
  · subst he
    exact hself
  · rw [getCore_setCore_ne _ _ _ _ he, hcore]
    exact coreRests_of_seqKept (hsw.seqs d) hd

theorem coreRests_resetCores {c : CoreId} (hc : c ∈ partCores (getPart s p)) : CoreRests (getCore (resetCores s p) c) := by
  have hkeep (l : List CoreId) (v : State) (hv : CoreRests (getCore v c)) : CoreRests (getCore (l.foldl resetCore v) c) :=
    foldl_rel (R := fun s t => CoreRests (getCore s c) → CoreRests (getCore t c)) (fun _ => id) (fun _ _ _ h k hs => k (h hs))
      (fun _ d hs => (coreRests_resetCore d).2 c hs) l v hv
  have hall (l : List CoreId) (v : State) (hl : c ∈ l) : CoreRests (getCore (l.foldl resetCore v) c) := by
    induction l generalizing v with
    | nil => cases hl
    | cons d l ih =>
      rcases List.mem_cons.1 hl with rfl | hl
      · exact hkeep l _ (coreRests_resetCore _).1
      · exact ih _ hl
  exact hall _ s hc

theorem windsUp_settleReset : WindsUp s (settleReset s p) := by
  unfold settleReset
  dsimp only
  split
  · exact .refl s
  next t _ =>
    obtain ⟨v, hv⟩ : ∃ v, modTask (logTaskErrors (closeCharge s p) p t 4) p (fun t => { t with errors := [] }) = v := ⟨_, rfl⟩
    have hsv : WindsUp s v := hv ▸ (windsUp_closeCharge.trans (windsUp_logTaskErrors ..)).trans (windsUp_modTask _)
    rw [hv]
    exact windsUp_ite (hsv.trans (windsUp_commitBundle _)) (windsUp_ite hsv (hsv.trans (windsUp_settleMembers ..)))

/-- No task is bound after `unbind`. -/
theorem task_unbind (s : State) (p : PartId) : (getPart (unbind s p) p).task = none := by
  have hover : (getPart (noteOvershoot s p) p).task = none ∨ ∃ t, (getPart (noteOvershoot s p) p).task = some t := by
    cases (getPart (noteOvershoot s p) p).task with
    | none => exact .inl rfl
    | some t => exact .inr ⟨t, rfl⟩
  unfold unbind
  dsimp only
  rcases hover with h | ⟨t, h⟩
  · rw [h]
    exact h
  · rw [h]
    refine windsUp_runWindows.task p ?_
    rw [modPart_eq, getPart_setPart]

/-- What the wiping of cores leaves alone: partitions and sequencers. -/
theorem wipeCores_spec (s : State) (p : PartId) : (wipeCores s p).parts = s.parts ∧ ∀ c, (getCore (wipeCores s p) c).seq = (getCore s c).seq := by
  have hwipe (v : State) (d c : CoreId) : (wipeCore v d).parts = v.parts ∧ (getCore (wipeCore v d) c).seq = (getCore v c).seq := by
    refine ⟨rfl, ?_⟩
    unfold wipeCore
    by_cases he : c = d
    · subst he
      rw [modCore_eq, getCore_setCore]
    · rw [modCore_eq, getCore_setCore_ne _ _ _ _ he]
  obtain ⟨v, hv⟩ : ∃ v, forAll (partCores (getPart s p)) wipeCore s = v := ⟨_, rfl⟩
  have hvkeep : v.parts = s.parts ∧ ∀ c, (getCore v c).seq = (getCore s c).seq := by
    rw [← hv]
    exact ⟨foldl_fixed (g := State.parts) (fun v d => (hwipe v d d).1) _ s, fun c => foldl_fixed (g := fun s => (getCore s c).seq) (fun v d => (hwipe v d c).2) _ s⟩
  unfold wipeCores
  dsimp only
  rw [hv]
  have hcourses (l : List CourseId) : ∃ Q, forAll l (fun s k => setCourse s k { getCourse s k with lastJob := none }) v = { v with courses := Q } :=
    forAll_rel (R := fun s t : State => ∃ Q, t = { s with courses := Q }) (fun _ => ⟨_, rfl⟩) (fun _ _ _ ⟨_, h⟩ ⟨Q, h'⟩ => ⟨Q, by rw [h', h]⟩) (fun _ _ => ⟨_, rfl⟩) l v
  obtain ⟨Q, hQ⟩ := hcourses (partCourses (getPart s p))
  rw [hQ]
  exact hvkeep

/-- The partition reset (R379). -/
theorem resetPartition_spec (s : State) (p : PartId) : (getPart (resetPartition s p) p).resetDue = false ∧ (getPart (resetPartition s p) p).stopping = false ∧
    (getPart (resetPartition s p) p).task = none ∧ ∀ c ∈ partCores (getPart s p), CoreRests (getCore (resetPartition s p) c) := by
  obtain ⟨v, hv⟩ : ∃ v, unbind (settleReset (resetCores s p) p) p = v := ⟨_, rfl⟩
  have hvwinds : WindsUp (resetCores s p) v := hv ▸ windsUp_settleReset.trans windsUp_unbind
  have hvtask : (getPart v p).task = none := hv ▸ task_unbind _ p
  obtain ⟨hparts, hseqs⟩ := wipeCores_spec v p
  have hreset : resetPartition s p = setPart (wipeCores v p) p { getPart (wipeCores v p) p with resetDue := false, stopping := false } := by
    rw [← hv]
    rfl
  rw [hreset, getPart_setPart]
  refine ⟨rfl, rfl, ?_, fun c hc => ?_⟩
  · rw [getPart, hparts]
    exact hvtask
  · refine coreRests_of_seqKept ?_ (coreRests_of_seqKept (hvwinds.seqs c) (coreRests_resetCores hc))
    have hcore : (getCore (setPart (wipeCores v p) p { getPart (wipeCores v p) p with resetDue := false, stopping := false }) c).seq = (getCore v c).seq := hseqs c
    rw [hcore]
    exact .refl _

theorem exec_pwWresetWrite {v : W32} {b : BootEnv} {dt : Nat} : exec (.pwWresetWrite v b dt) s = execPwWresetWrite v b dt s := rfl
theorem exec_hotReset {dt : Nat} : exec (.hotReset dt) s = execHotReset dt s := rfl
theorem exec_flr {dt : Nat} : exec (.flr f dt) s = execFlr f dt s := rfl
theorem exec_vfEnableWrite {e : Bool} {n : BitVec 6} : exec (.vfEnableWrite e n) s = execVfEnableWrite e n s := rfl
theorem exec_partitionReset {dt : Nat} : exec (.partitionReset p dt) s = execPartitionReset p dt s := rfl

/-- The warm reset ends in boot over what it leaves (R376). -/
theorem warmReset_spec (s : State) (cause : BitVec 2) (b : BootEnv) :
    bootKept (warmReset s cause b) = bootKept (warmState s cause) ∧ BootOver (warmReset s cause b) := boot_spec (warmState s cause) b false

end

/-- Settles O56: boot keeps what the warm reset leaves, and each effect of an FLR keeps what the FLRs before it have reset. -/
theorem narrowerResetsComplete : Obligations.NarrowerResetsComplete := by
  intro dt s u fresh
  obtain ⟨T, B, htick⟩ : ∃ T B, u = { s with time := T, br := B } := tick_frame s dt
  refine ⟨fun b hreach => ?_, fun v b hv => ?_, fun hheld hclock => ?_, fun f hreach hexists hf => ?_, fun hreach => ⟨fun n hoff hn => ?_, fun n hon => ?_⟩,
    fun p hrt hdue hquiet => ?_⟩
  · obtain ⟨hkept, hover⟩ := warmReset_spec u 1 b
    simp only [bootKept, Prod.mk.injEq] at hkept
    obtain ⟨⟨htime, hmem, -⟩, ⟨hparts, hstreams, hmodels⟩, -, ⟨hcause, hcount, -⟩, -, ⟨hwatts, -⟩, -⟩ := hkept
    have hrow : exec (.pwWresetWrite 0x57525354 b dt) s = .next (warmReset u 1 b) :=
      exec_pwWresetWrite.trans (congrArg Host.Outcome.next (if_pos (by rw [hreach]; rfl)))
    refine ⟨_, hrow, hcause, hcount.trans ?_, htime, hmem.trans ?_, hstreams, hmodels, hparts, hwatts.trans ?_, hover⟩
    · rw [htick]
      rfl
    · rw [htick]
      rfl
    · rw [htick]
      rfl
  · exact exec_pwWresetWrite.trans (congrArg Host.Outcome.next (if_neg (by rw [decide_eq_false (show ¬v = wresetKey from hv), Bool.and_false]; decide)))
  · obtain ⟨v, hv⟩ : ∃ v, clearVfs (leaveStandby u) = v := ⟨_, rfl⟩
    obtain ⟨⟨F, hF⟩, hoff⟩ := clearVfs_spec (leaveStandby u)
    rw [hv] at hF hoff
    obtain ⟨hrec, hfresh, hswept⟩ := flrs_spec allFuncs v
    have hup : runtimeUp v = runtimeUp s := by
      rw [hF, htick]
      rfl
    refine ⟨forAll allFuncs flrOne v, ?_, fun f => hfresh f (mem_allFuncs f), fun f hf => (hrec.enabled f).trans (hoff f hf),
      fun hs h => hswept (hup.trans hs) _ (mem_allFuncs _) h rfl⟩
    refine exec_hotReset.trans (congrArg Host.Outcome.next ((if_pos (by simp [hheld, hclock])).trans ?_))
    rw [← hv]
    rfl
  · obtain ⟨hrec, hfresh, hswept⟩ := flrOne_spec (s := u) (f := f)
    have hkeep : runtimeUp u = runtimeUp s ∧ getFn u f = getFn s f := by
      rw [htick]
      exact ⟨rfl, rfl⟩
    have hrow : exec (.flr f dt) s = .next (flrOne u f) :=
      exec_flr.trans (congrArg Host.Outcome.next ((if_neg (by rw [hreach, hexists]; decide)).trans (if_neg hf)))
    exact ⟨_, hrow, hfresh, by rw [hrec.enabled, hkeep.2], fun hs => hswept (hkeep.1.trans hs)⟩
  · obtain ⟨hmem, hon, hkeep⟩ := enableVfs_spec s n.toNat
    refine ⟨enableVfs s n.toNat, ?_, hon, hkeep, hmem⟩
    refine exec_vfEnableWrite.trans (congrArg Host.Outcome.next ((if_neg (by rw [hreach]; decide)).trans ((if_pos rfl).trans (if_neg ?_))))
    simp [hoff, hn]
  · obtain ⟨⟨F, hF⟩, hoff⟩ := clearVfs_spec s
    obtain ⟨hrec, -, -⟩ := flrs_spec (allFuncs.filter fun f => decide (f ≠ 0)) (clearVfs s)
    refine ⟨disableVfs s, ?_, fun f hf => (hrec.enabled f).trans (hoff f hf)⟩
    exact exec_vfEnableWrite.trans (congrArg Host.Outcome.next ((if_neg (by rw [hreach]; decide)).trans ((if_neg (by decide)).trans (if_pos hon))))
  · obtain ⟨hreset, hstop, htask, hcores⟩ := resetPartition_spec u p
    have hpart : getPart u p = getPart s p := by
      rw [htick]
      rfl
    refine ⟨resetPartition u p, exec_partitionReset.trans (congrArg Host.Outcome.next (if_pos (by rw [hrt, hdue, hquiet]; rfl))), hreset, hstop, htask, ?_⟩
    rw [hpart] at hcores
    exact hcores

end Sys2Proof.Machine
end

section
/-! PROOFS. Requests of the diagnostic window: NONCE, QUOTE, TOKEN, HOSTIMG, SM_FATAL, and the entropy source (R355, R361 to R371, R408). -/

namespace Sys2Proof.Machine
open Sys2Proof

section
variable {s t : State}

theorem exec_smReqNonce {dt : Nat} : exec (.smReqNonce dt) s = execSmReqNonce dt s := rfl
theorem exec_smReqQuote {dt : Nat} : exec (.smReqQuote dt) s = execSmReqQuote dt s := rfl
theorem exec_smReqToken {key : BitVec 776} {b : BootEnv} {san : Bool} {dt : Nat} : exec (.smReqToken key b san dt) s = execSmReqToken key b san dt s := rfl
theorem exec_smReqHostimg {key : BitVec 776} {b : BootEnv} {dt : Nat} : exec (.smReqHostimg key b dt) s = execSmReqHostimg key b dt s := rfl
theorem exec_smFatalClear : exec .smFatalClear s = execSmFatalClear s := rfl
theorem exec_entropyFail {dt : Nat} : exec (.entropyFail dt) s = execEntropyFail dt s := rfl

/-- The status of SM_REQ. -/
def ReqStatus (t : State) (op : BitVec 4) (st : BitVec 8) : Prop := t.mon.reqOp = op ∧ t.mon.reqBusy = false ∧ t.mon.reqStatus = st

theorem reqStatus_served (s : State) (op : BitVec 4) (st : BitVec 8) : ReqStatus (served s op st) op st := ⟨rfl, rfl, rfl⟩

/-- A monitor that serves no request takes the next. -/
theorem askMon_of_idle {op : BitVec 4} {go : State} (hserves : monServes s = true) (hbusy : s.mon.reqBusy = false) : askMon s op go = go := by
  rw [askMon, if_neg (by simp [hserves]), if_neg (by simp [hbusy])]

theorem askMon_of_busy {op : BitVec 4} {go : State} (hserves : monServes s = true) (hbusy : s.mon.reqBusy = true) (hop : s.mon.reqOp ≠ op) :
    askMon s op go = { s with mon := { s.mon with reqStatus := rqBUSY } } := by
  rw [askMon, if_neg (by simp [hserves]), if_pos (by simp [hbusy, hop])]

/-! ### QUOTE -/

/-- The three answers to QUOTE (R364, R365). -/
theorem serveQuote_spec (s : State) : (serveQuote s).mem = s.mem ∧
    (lcState s.fuses = lcRETIRED → ReqStatus (serveQuote s) 2 rqREFUSED ∧ (serveQuote s).mon.quote = s.mon.quote) ∧
    (∀ k, lcState s.fuses ≠ lcRETIRED → s.fuses.idSecret = some k → ReqStatus (serveQuote s) 2 rqOK ∧ (serveQuote s).mon.quote = quoteBytes s k) ∧
    (lcState s.fuses ≠ lcRETIRED → s.fuses.idSecret = none → ReqStatus (serveQuote s) 2 rqNO_KEY ∧ (serveQuote s).mon.quote = s.mon.quote) := by
  refine ⟨?_, fun h => ?_, fun k h hk => ?_, fun h hk => ?_⟩
  · unfold serveQuote
    split
    · rfl
    · split <;> rfl
  · rw [serveQuote, if_pos h]
    exact ⟨reqStatus_served .., rfl⟩
  · obtain ⟨q, hq⟩ : ∃ q, quoteBytes s k = q := ⟨_, rfl⟩
    rw [serveQuote, if_neg h, hk, hq]
    dsimp only
    rw [hq]
    exact ⟨reqStatus_served .., rfl⟩
  · rw [serveQuote, if_neg h, hk]
    exact ⟨reqStatus_served .., rfl⟩

/-! ### TOKEN -/

/-- What a warm reset by the monitor keeps of the state it is applied to. -/
theorem warmReset_kept (s : State) (cause : BitVec 2) (b : BootEnv) :
    (warmReset s cause b).mem = s.mem ∧ (warmReset s cause b).pw.wrCause = cause ∧ (warmReset s cause b).fuses.prov = s.fuses.prov ∧
      (warmReset s cause b).fuses.retired = s.fuses.retired ∧ (warmReset s cause b).fuses.idSecret = s.fuses.idSecret := by
  obtain ⟨hkept, -⟩ := warmReset_spec s cause b
  simp only [bootKept, Prod.mk.injEq] at hkept
  obtain ⟨⟨-, hmem, -⟩, -, -, ⟨hcause, -, -⟩, -, -, ⟨hprov, hretired, hsecret⟩, -⟩ := hkept
  exact ⟨hmem, hcause, hprov, hretired, hsecret⟩

theorem signRecord_lifeCycle (u : Fuses) : (signRecord u).prov = u.prov ∧ (signRecord u).retired = u.retired ∧ (signRecord u).idSecret = u.idSecret := by
  unfold signRecord
  split
  · exact ⟨rfl, rfl, rfl⟩
  · exact ⟨rfl, rfl, rfl⟩

/-- The fuses of the two transitions that make and destroy the identity (R362, R370). -/
theorem burnFuses_lifeCycle (n : Nat) (u : Fuses) (o : SignedObj) :
    (tokTo o = lcRETIRED → (burnFuses n u o).retired = true ∧ (burnFuses n u o).idSecret = none) ∧
    (tokTo o = lcPROVISIONED → (burnFuses n u o).prov = true ∧ (burnFuses n u o).idSecret.isSome = true) := by
  refine ⟨fun h => ?_, fun h => ?_⟩
  · have hne : tokTo o ≠ lcPROVISIONED := by rw [h]; decide
    unfold burnFuses
    dsimp only
    rw [if_neg hne, if_pos h]
    exact ⟨rfl, rfl⟩
  · unfold burnFuses
    dsimp only
    rw [if_pos h]
    obtain ⟨hprov, -, hsecret⟩ := signRecord_lifeCycle { u with
      prov := true, idSecret := some ((Config.entropy n).setWidth 384), idPub := publicKey ((Config.entropy n).setWidth 384)
      idCert := Config.identityCert (publicKey ((Config.entropy n).setWidth 384)), sparing := [], sparingNo := 0 }
    rw [hprov, hsecret]
    exact ⟨rfl, rfl⟩

/-! ### HOSTIMG -/

/-- One source of an image is taken, or it fails with its code (R361). -/
theorem tryBoot_single (u : Fuses) (type i fail : Nat) (b : BootSource) :
    (bootFail u b type = 0 → ∃ o, tryBoot u type i fail [b] = (some (i, o), fail)) ∧
    (bootFail u b type ≠ 0 → tryBoot u type i fail [b] = (none, bootFail u b type)) := by
  cases b with
  | none =>
    have hnone : bootFail u none type = 5 := by rw [bootFail]
    exact ⟨fun h => absurd (h.symm.trans hnone) (by decide), fun _ => rfl⟩
  | some o =>
    unfold tryBoot
    split
    next _ hzero => exact ⟨fun _ => ⟨_, rfl⟩, fun h => absurd hzero h⟩
    next hother => exact ⟨fun h => absurd h (hother o rfl), fun h => rfl⟩

/-- A boot that goes on leaves SM_REQ as it is. -/
theorem reqStatus_of_bootKept {op : BitVec 4} {st : BitVec 8} (h : bootKept t = bootKept s) (hs : ReqStatus s op st) : ReqStatus t op st := by
  simp only [bootKept, Prod.mk.injEq] at h
  obtain ⟨-, -, -, -, -, -, -, hop, hbusy, hstatus⟩ := h
  obtain ⟨hop', hbusy', hstatus'⟩ := hs
  exact ⟨hop.trans hop', hbusy.trans hbusy', hstatus.trans hstatus'⟩

/-- The host's image is refused with the code of its failure, or boot goes on with it (R361, Table 17-8). -/
theorem tryHostImage_spec (s : State) (o : SignedObj) (b : BootEnv) {c : Nat}
    (hc : bootFail s.fuses (hostSource (some o)) (if s.mon.step = 1 then 1 else 2) = c) :
    (c ≠ 0 → ReqStatus (tryHostImage s o b) 4 rqREFUSED ∧ (tryHostImage s o b).mon.fail = BitVec.ofNat 8 c ∧ (tryHostImage s o b).pw = s.pw) ∧
    (c = 0 → ReqStatus (tryHostImage s o b) 4 rqOK) := by
  obtain ⟨hok, hfail⟩ := tryBoot_single s.fuses (if s.mon.step = 1 then 1 else 2) 2 s.mon.fail.toNat (hostSource (some o))
  rw [hc] at hok hfail
  refine ⟨fun h => ?_, fun h => ?_⟩
  · have hrow : tryHostImage s o b = served { s with mon := { s.mon with fail := BitVec.ofNat 8 c } } 4 rqREFUSED := by
      unfold tryHostImage
      simp only [hfail h]
    rw [hrow]
    exact ⟨reqStatus_served .., rfl, rfl⟩
  · obtain ⟨x, hx⟩ := hok h
    obtain ⟨v, hv⟩ : ∃ v, served s 4 rqOK = v := ⟨_, rfl⟩
    have hvstatus : ReqStatus v 4 rqOK := hv ▸ reqStatus_served ..
    have hrow : tryHostImage s o b = if (if s.mon.step = 1 then 1 else 2) = 1 then afterMonitor (takeMonitor v 2 x) b
        else startRuntime (takeRuntime (deriveAttest v (digestOf x)) 2 x) := by
      unfold tryHostImage
      simp only [hx, hv]
    rw [hrow]
    refine ite_cases (P := fun t => ReqStatus t 4 rqOK) ?_ ?_
    · exact reqStatus_of_bootKept ((boot_afterMonitor _ b).1.trans (bootKept_takeMonitor ..)) hvstatus
    · exact reqStatus_of_bootKept ((boot_startRuntime _).1.trans ((bootKept_takeRuntime ..).trans (bootKept_deriveAttest ..))) hvstatus

end

/-- Settles O49: an idle monitor serves each request by its own function; boot, where one follows, keeps SM_REQ and the life-cycle fuses. -/
theorem monitorWindowRequestsComplete : Obligations.MonitorWindowRequestsComplete := by
  intro dt s u idle status
  obtain ⟨T, B, htick⟩ : ∃ T B, u = { s with time := T, br := B } := tick_frame s dt
  have hkeep : u.mem = s.mem ∧ u.fuses = s.fuses ∧ u.mon = s.mon ∧ u.pw = s.pw ∧ u.free = s.free := by
    rw [htick]
    exact ⟨rfl, rfl, rfl, rfl, rfl⟩
  obtain ⟨hmem, hfuses, hmon, hpw, hfree⟩ := hkeep
  refine ⟨fun ⟨hserves, hbusy⟩ => ?_, fun hserves hbusy hop => ?_, fun ⟨hserves, hbusy⟩ => ?_, fun key b san ⟨hserves, hbusy⟩ => ?_, fun key b hwants => ?_,
    fun key b ⟨hserves, hbusy⟩ hwants => ?_, fun hreach => ?_, fun hup hok => ?_⟩
  · refine ⟨served (giveNonce u) 1 rqOK, exec_smReqNonce.trans (congrArg Host.Outcome.next (askMon_of_idle hserves hbusy)), reqStatus_served .., ?_, rfl, hmem⟩
    have hnonce : (served (giveNonce u) 1 rqOK).mon.nonce = (Config.entropy u.free).setWidth 256 := rfl
    rw [hnonce, hfree]
  · exact exec_smReqNonce.trans (congrArg Host.Outcome.next (askMon_of_busy hserves hbusy hop))
  · obtain ⟨hmem', hretired, hkey, hnokey⟩ := serveQuote_spec u
    rw [hfuses] at hretired hkey hnokey
    rw [hmon] at hretired hnokey
    exact ⟨serveQuote u, exec_smReqQuote.trans (congrArg Host.Outcome.next (askMon_of_idle hserves hbusy)), hmem'.trans hmem, hretired, hkey, hnokey⟩
  · intro tok
    have hstatus : tokStatus u tok = tokStatus s tok := by rw [tokStatus, tokStatus, hfuses, hmon]
    refine ⟨serveToken u tok b san, exec_smReqToken.trans (congrArg Host.Outcome.next (askMon_of_idle hserves hbusy)), fun hbad => ?_, fun hgood => ?_⟩
    · have hrow : serveToken u tok b san = served u 3 (tokStatus s tok) := by
        unfold serveToken
        dsimp only
        rw [hstatus]
        exact if_pos hbad
      rw [hrow]
      exact ⟨reqStatus_served .., hfuses, hmem⟩
    · have hrow : serveToken u tok b san = if san ∨ u.pw.expPresent = 0 then runToken u tok b else stallToken u := by
        unfold serveToken
        dsimp only
        rw [hstatus]
        exact if_neg (not_not_intro hgood)
      obtain ⟨v, hv⟩ : ∃ v : State, { u with mem := [], free := u.free + 1, fuses := burnFuses u.free u.fuses tok } = v := ⟨_, rfl⟩
      have hvkeep : v.mem = [] ∧ v.fuses = burnFuses u.free u.fuses tok := by
        rw [← hv]
        exact ⟨rfl, rfl⟩
      have hrun : runToken u tok b = warmReset v 3 b := by rw [runToken, hv]
      obtain ⟨hwmem, hwcause, hwprov, hwretired, hwsecret⟩ := warmReset_kept v 3 b
      obtain ⟨hburnRetired, hburnProv⟩ := burnFuses_lifeCycle u.free u.fuses tok
      rw [hvkeep.2] at hwprov hwretired hwsecret
      rw [hrow, hrun]
      refine ⟨?_, fun hsan => ?_, fun hsan hexp => ?_⟩
      · exact ite_cases (P := fun t : State => t.mem = []) (hwmem.trans hvkeep.1) rfl
      · rw [if_pos (.inl hsan)]
        refine ⟨hwcause, fun h => ?_, fun h => ?_⟩
        · exact ⟨hwretired.trans (hburnRetired h).1, hwsecret.trans (hburnRetired h).2⟩
        · exact ⟨hwprov.trans (hburnProv h).1, by rw [hwsecret]; exact (hburnProv h).2⟩
      · rw [if_neg (by rw [hsan, hpw]; exact fun h => h.elim (by decide) hexp)]
        exact ⟨hfuses, rfl⟩
  · intro c
    obtain ⟨hbad, hgood⟩ := tryHostImage_spec u (areaObj s.mon.hostLoad 0x3C0000 key) b (c := c) (by rw [hfuses, hmon])
    have hrow := exec_smReqHostimg.trans (congrArg Host.Outcome.next (if_pos hwants) : execSmReqHostimg key b dt s = _)
    clear_value c
    obtain ⟨t, ht⟩ : ∃ t, tryHostImage u (areaObj s.mon.hostLoad 0x3C0000 key) b = t := ⟨_, rfl⟩
    rw [ht] at hbad hgood
    have hphase : s.pw.phase = .bootStopped := by
      simp only [wantsImage, Bool.and_eq_true, decide_eq_true_eq] at hwants
      exact hwants.1.1.1.2
    refine ⟨t, hrow.trans (congrArg Host.Outcome.next ht), fun hc => ?_, hgood⟩
    obtain ⟨hst, hfail, hpw'⟩ := hbad hc
    exact ⟨hst, hfail, by rw [hpw', hpw, hphase]⟩
  · refine ⟨served u 4 rqREFUSED, exec_smReqHostimg.trans (congrArg Host.Outcome.next ((if_neg (by simp [hwants])).trans (askMon_of_idle hserves hbusy))), ?_⟩
    exact reqStatus_served ..
  · exact exec_smFatalClear.trans (congrArg Host.Outcome.next (if_pos hreach))
  · have hrow : exec (.entropyFail dt) s = .next (failEntropy u) := exec_entropyFail.trans (congrArg Host.Outcome.next (if_pos (by rw [hup, hok]; rfl)))
    obtain ⟨v, hv⟩ : ∃ v : State, { u with mon := { u.mon with entropyOk := false, entropyReported := true } } = v := ⟨_, rfl⟩
    have hvkeep : v.mon.entropyOk = false ∧ v.mon.entropyReported = true ∧ v.mem = s.mem := by
      rw [← hv]
      exact ⟨rfl, rfl, hmem⟩
    refine ⟨failEntropy u, hrow, ?_⟩
    have hfail : failEntropy u = if u.mon.entropyReported then v else logError v (errInfo cENTROPY 7) := by rw [← hv]; rfl
    obtain ⟨T', F, hlog⟩ := logError_frame v (errInfo cENTROPY 7)
    rw [hfail, hlog]
    exact ite_cases (P := fun t : State => t.mon.entropyOk = false ∧ t.mon.entropyReported = true ∧ t.mem = s.mem) hvkeep hvkeep

end Sys2Proof.Machine
end


-- ==== Proofs: the monitor's grants, verified regions and their release ====
section
/-! PROOFS. GRANT, REVOKE, VERIFY and RELEASE: what a grant zeroes, and what carving and write removal leave of an entry. -/

namespace Sys2Proof.Machine
open Sys2Proof

/-! ### GRANT -/

theorem exec_grant (g : GrantReq) (s : State) : exec (.grant g) s = execGrant g s := rfl
theorem exec_revoke (e : BitVec 128) (s : State) : exec (.revoke e) s = execRevoke e s := rfl
theorem exec_verify (base : Nat) (key : BitVec 776) (s : State) : exec (.verify base key) s = execVerify base key s := rfl
theorem exec_release (base : Nat) (s : State) : exec (.release base) s = execRelease base s := rfl

/-- The advance of the background zeroing is a change of the marks of it alone. -/
theorem zeroedTo_frame (s : State) (a : Nat) : ∃ z, zeroedTo s a = { s with sbtm := z } := by
  unfold zeroedTo
  split
  · exact ⟨s.sbtm, rfl⟩
  · exact ⟨_, rfl⟩

theorem releasedOver_zeroedTo (s : State) (a : Nat) (e : BitVec 128) : releasedOver (zeroedTo s a) e = releasedOver s e := by
  obtain ⟨z, hz⟩ := zeroedTo_frame s a
  rw [hz]
  rfl

theorem grantOk_zeroedTo (s : State) (a : Nat) (e : BitVec 128) : grantOk (zeroedTo s a) e = grantOk s e := by
  obtain ⟨z, hz⟩ := zeroedTo_frame s a
  rw [hz]
  rfl

/-- What taking a page changes: its bytes, unless they are zeroed already, and its holder. -/
theorem takePage_eq (h : Holder) (s : State) (pg : Nat) :
    takePage h s pg = if holderOf s pg = .verified ∨ holderOf s pg = h then s else
      { s with mem := if holderOf s pg = .zeroed then s.mem else Memory.zero s.mem (pg * 4096) 4096
               mon := { s.mon with holders := putHolder s s.mon.holders pg h } } := by
  refine ite_congr rfl (fun _ => rfl) fun _ => ?_
  by_cases hz : holderOf s pg = .zeroed
  · simp only [hz, if_true]
  · simp only [hz, if_false]
    rfl

/-- Recording a page's holder leaves every other page's, whatever the page's default is. -/
theorem tget_putHolder_ne {s : State} {d h : Holder} {t : Tbl Holder} {pg k : Nat} (hk : k ≠ pg) :
    tget d (putHolder s t pg h) k = tget d t k := by
  unfold putHolder tput
  split
  · exact tget_tdel_ne hk
  · exact (tget_tins_ne hk).trans (tget_tdel_ne hk)

theorem holderOf_takePage (h : Holder) (s : State) {pg k : Nat} (hk : k ≠ pg) : holderOf (takePage h s pg) k = holderOf s k := by
  rw [takePage_eq]
  split
  · rfl
  · exact ite_congr rfl (fun _ => rfl) fun _ => tget_putHolder_ne hk

theorem grants_takePage (h : Holder) (s : State) (pg : Nat) : (takePage h s pg).mon.grants = s.mon.grants := by
  rw [takePage_eq]
  split <;> rfl

theorem rd_takePage (h : Holder) (s : State) (pg a : Nat) :
    Memory.rd (takePage h s pg).mem a =
      if a / 4096 = pg ∧ ¬(holderOf s pg = .zeroed ∨ holderOf s pg = .verified ∨ holderOf s pg = h) then 0 else Memory.rd s.mem a := by
  have hpage : (pg * 4096 ≤ a ∧ a < pg * 4096 + 4096) ↔ a / 4096 = pg := by omega
  rw [takePage_eq]
  by_cases hk : holderOf s pg = .verified ∨ holderOf s pg = h
  · rw [if_pos hk, if_neg (fun hc => hc.2 (Or.inr hk))]
  · rw [if_neg hk]
    by_cases hz : holderOf s pg = .zeroed
    · simp only [hz, if_true, true_or, not_true, and_false, if_false]
    · rw [if_neg hz, Memory.rd_zero]
      exact ite_congr (propext (hpage.trans ⟨fun ha => ⟨ha, not_or.2 ⟨hz, hk⟩⟩, And.left⟩)) (fun _ => rfl) fun _ => rfl

/-- Distinct pages taken one after another: each is zeroed as its holder before the first step says. -/
theorem takePages_spec (h : Holder) (l : List Nat) (s : State) (hl : l.Nodup) :
    (l.foldl (takePage h) s).mon.grants = s.mon.grants ∧ ∀ a, Memory.rd (l.foldl (takePage h) s).mem a =
      if a / 4096 ∈ l ∧ ¬(holderOf s (a / 4096) = .zeroed ∨ holderOf s (a / 4096) = .verified ∨ holderOf s (a / 4096) = h) then 0
      else Memory.rd s.mem a := by
  induction l generalizing s with
  | nil => simp
  | cons pg l ih =>
    obtain ⟨hpg, hl⟩ := List.nodup_cons.1 hl
    obtain ⟨hg, hm⟩ := ih (takePage h s pg) hl
    refine ⟨hg.trans (grants_takePage h s pg), fun a => (hm a).trans ?_⟩
    rw [rd_takePage]
    by_cases ha : a / 4096 = pg
    · have hout : a / 4096 ∉ l := ha ▸ hpg
      rw [if_neg fun hc => hout hc.1, ha]
      simp only [true_and, List.mem_cons, true_or]
    · simp only [holderOf_takePage h s ha, ha, false_and, if_false, List.mem_cons, false_or]

theorem nodup_pagesOf (a n : Nat) : (pagesOf a n).Nodup :=
  List.Pairwise.map _ (fun i j (hij : i ≠ j) (heq : a / 4096 + i = a / 4096 + j) => hij (Nat.add_left_cancel heq)) List.nodup_range

theorem mem_pagesOf {a n pg : Nat} (ha : a % 4096 = 0) (hn : n % 4096 = 0) : pg ∈ pagesOf a n ↔ a / 4096 ≤ pg ∧ pg < (a + n) / 4096 := by
  simp only [pagesOf, cdiv, ha, List.mem_map, List.mem_range]
  constructor
  · rintro ⟨i, hi, rfl⟩
    omega
  · rintro ⟨hlo, hhi⟩
    exact ⟨pg - a / 4096, by omega, by omega⟩

theorem gBase_aligned (e : BitVec 128) : gBase e % 4096 = 0 := by simp [gBase]
theorem gSize_aligned (e : BitVec 128) : gSize e % 4096 = 0 := by simp [gSize]

/-- A grant: the entry is added, and its bytes are zeroed unless their last holder was none, a verified object or the entry's own. -/
theorem doGrant_spec (s : State) (e : BitVec 128) :
    (doGrant s e).mon.grants = s.mon.grants ++ [e] ∧ ∀ a, Memory.rd (doGrant s e).mem a =
      if (gBase e ≤ a ∧ a < gEnd e) ∧
        ¬(holderOf s (a / 4096) = .zeroed ∨ holderOf s (a / 4096) = .verified ∨ holderOf s (a / 4096) = entryHolder e) then 0
      else Memory.rd s.mem a := by
  obtain ⟨hg, hm⟩ := takePages_spec (entryHolder e) (pagesOf (gBase e) (gSize e)) s (nodup_pagesOf _ _)
  have hb := gBase_aligned e
  have hn := gSize_aligned e
  have hmem (a : Nat) : a / 4096 ∈ pagesOf (gBase e) (gSize e) ↔ gBase e ≤ a ∧ a < gEnd e := by
    rw [mem_pagesOf hb hn, gEnd]
    omega
  refine ⟨congrArg (· ++ [e]) hg, fun a => (hm a).trans ?_⟩
  simp only [hmem]

/-! ### What is left of an entry -/

theorem gBase_div_lt (e : BitVec 128) : gBase e / 4096 < 2 ^ 36 := by
  simp only [gBase, nfld]
  omega

theorem gSize_div_lt (e : BitVec 128) : gSize e / 4096 < 2 ^ 30 := by
  simp only [gSize, nfld]
  omega

/-- The range that an entry is given is the one it has. -/
theorem gRange_withRange {e : BitVec 128} {a n : Nat} (ha : a % 4096 = 0) (hn : n % 4096 = 0) (ha' : a / 4096 < 2 ^ 36) (hn' : n / 4096 < 2 ^ 30) :
    gBase (withRange e a n) = a ∧ gSize (withRange e a n) = n := by
  have hlow : (withRange e a n).toNat % 2 ^ 66 = a / 4096 + n / 4096 * 2 ^ 36 := by
    have hv : a / 4096 + n / 4096 * 2 ^ 36 < 2 ^ 66 := by omega
    apply Nat.eq_of_testBit_eq
    intro i
    rw [Nat.testBit_mod_two_pow]
    by_cases hi : i < 66
    · have hshift : ((e >>> 66) <<< 66).getLsbD i = false := by simp [hi]
      simp only [hi, decide_true, Bool.true_and, BitVec.testBit_toNat, withRange, BitVec.getLsbD_or, hshift, Bool.false_or,
        BitVec.getLsbD_ofNat, show i < 128 by omega]
    · rw [Nat.testBit_lt_two_pow (Nat.lt_of_lt_of_le hv (Nat.pow_le_pow_right (by decide) (by omega)))]
      simp [hi]
  have hmod : (withRange e a n).toNat = (withRange e a n).toNat / 2 ^ 66 * 2 ^ 66 + (a / 4096 + n / 4096 * 2 ^ 36) := by
    rw [← hlow]
    omega
  simp only [gBase, gSize, nfld, Nat.shiftRight_eq_div_pow]
  omega

theorem gTouches_eq_false {e : BitVec 128} {a n : Nat} (h : a + n ≤ gBase e ∨ gBase e + gSize e ≤ a) : gTouches e a n = false := by
  simp only [gTouches, Bool.and_eq_false_iff, decide_eq_false_iff_not]
  omega

/-- What a carving leaves of an entry lies outside the range. -/
theorem gTouches_carve {e x : BitVec 128} {a n : Nat} (ha : a % 4096 = 0) (hn : n % 4096 = 0)
    (hend : a + n ≤ tier1Base) (hx : x ∈ carve e a n) : gTouches x a n = false := by
  have hb := gBase_aligned e
  have hs := gSize_aligned e
  have hb' := gBase_div_lt e
  have hs' := gSize_div_lt e
  simp only [carve] at hx
  split at hx
  next hout =>
    rw [List.mem_singleton.1 hx]
    exact gTouches_eq_false (by omega)
  next hin =>
    rcases List.mem_append.1 hx with hx | hx
    · split at hx
      · rw [List.mem_singleton.1 hx]
        obtain ⟨h1, h2⟩ := gRange_withRange (e := e) (a := gBase e) (n := a - gBase e) hb (by omega) hb' (by omega)
        exact gTouches_eq_false (by omega)
      · cases hx
    · split at hx
      · rw [List.mem_singleton.1 hx]
        have hend' : a + n ≤ 0x004000000000 := hend
        obtain ⟨h1, h2⟩ := gRange_withRange (e := e) (a := a + n) (n := gBase e + gSize e - (a + n)) (by omega) (by omega) (by omega) (by omega)
        exact gTouches_eq_false (by omega)
      · cases hx

/-- Without its write bits an entry permits no write. -/
theorem noWrite_spec (e : BitVec 128) : gPartW (noWrite e) = false ∧ gSvcW (noWrite e) = false := by
  constructor <;> simp [gPartW, gSvcW, noWrite]

/-- After the removal an entry that reaches into the range permits no write. -/
theorem noWriteIn_spec {e x : BitVec 128} {a n : Nat} (ha : a % 4096 = 0) (hn : n % 4096 = 0) (hend : a + n ≤ tier1Base)
    (hx : x ∈ noWriteIn a n e) (ht : gTouches x a n = true) : gPartW x = false ∧ gSvcW x = false := by
  unfold noWriteIn at hx
  split at hx
  · rcases List.mem_append.1 hx with hx | hx
    · rw [gTouches_carve ha hn hend hx] at ht
      cases ht
    · obtain ⟨y, -, rfl⟩ := List.mem_map.1 hx
      exact noWrite_spec y
  next hw =>
    rw [List.mem_singleton.1 hx]
    exact (Bool.or_eq_false_iff.1 (Bool.eq_false_iff.2 hw))

/-- Every entry of a table that passes a check reaches into a range only when it is idle, where each that does is. -/
theorem all_quiet {s : State} {a n : Nat} {w : BitVec 128 → Bool}
    (h : ∀ e ∈ s.mon.grants, gTouches e a n = true → w e = true → revokeQuiet s e = true) :
    (s.mon.grants.filter fun e => gTouches e a n && w e).all (revokeQuiet s) = true := by
  rw [List.all_eq_true]
  intro e he
  obtain ⟨hmem, hw⟩ := List.mem_filter.1 he
  exact h e hmem (Bool.and_eq_true_iff.1 hw).1 (Bool.and_eq_true_iff.1 hw).2

/-! ### The requests -/

theorem grant_refused {s : State} {e : BitVec 128} {z : BitVec 48} (hrt : rtRuns s = true) (hr : releasedOver s e = false) (hk : grantOk s e = false) :
    exec (.grant ⟨e, z⟩) s = .next (answer (zeroedTo s z.toNat) opGRANT true) := by
  simp only [exec_grant, execGrant, hrt, Bool.not_true, Bool.false_eq_true, if_false, releasedOver_zeroedTo, hr, grantOk_zeroedTo, hk,
    Bool.not_false, if_true]

theorem grant_waits {s : State} {e : BitVec 128} {z : BitVec 48} (hrt : rtRuns s = true) (hk : grantOk s e = true)
    (hw : grantWaits (zeroedTo s z.toNat) e = true) : exec (.grant ⟨e, z⟩) s = .next (zeroedTo s z.toNat) := by
  simp only [exec_grant, execGrant, hrt, Bool.not_true, Bool.false_eq_true, if_false, grantOk_zeroedTo, hk, hw, if_true, ite_self]

theorem grant_done {s : State} {e : BitVec 128} {z : BitVec 48} (hrt : rtRuns s = true) (hk : grantOk s e = true)
    (hw : grantWaits (zeroedTo s z.toNat) e = false) : exec (.grant ⟨e, z⟩) s = .next (doGrant (zeroedTo s z.toNat) e) := by
  have hr : releasedOver (zeroedTo s z.toNat) e = false := (Bool.or_eq_false_iff.1 hw).1
  simp only [exec_grant, execGrant, hrt, Bool.not_true, Bool.false_eq_true, if_false, grantOk_zeroedTo, hk, hw, hr]

theorem doGrant_zeroedTo (s : State) (a : Nat) (e : BitVec 128) : (doGrant (zeroedTo s a) e).mon.grants = s.mon.grants ++ [e] ∧
    ∀ x, Memory.rd (doGrant (zeroedTo s a) e).mem x =
      if (gBase e ≤ x ∧ x < gEnd e) ∧
        ¬(holderOf s (x / 4096) = .zeroed ∨ holderOf s (x / 4096) = .verified ∨ holderOf s (x / 4096) = entryHolder e) then 0
      else Memory.rd s.mem x := by
  obtain ⟨z, hz⟩ := zeroedTo_frame s a
  rw [hz]
  exact doGrant_spec { s with sbtm := z } e

theorem verify_eq {s : State} {base : Nat} {key : BitVec 776} {r : Region} (hrt : rtRuns s = true) (hr : placedRegion s base = some r)
    (htier : tierOf base = 0) (hnew : isVerified s base = false)
    (hquiet : ∀ e ∈ s.mon.grants, gTouches e r.base r.size = true → gPartW e = true ∨ gSvcW e = true → revokeQuiet s e = true) :
    exec (.verify base key) s = .next (if verifyOk s (objectAt s r key) then doVerify s r (objectAt s r key) else answer s opVERIFY true) := by
  have hall := all_quiet (w := fun e => gPartW e || gSvcW e) fun e he ht hw => hquiet e he ht (Bool.or_eq_true_iff.1 hw)
  rw [exec_verify]
  simp only [execVerify, hrt, Bool.not_true, Bool.false_eq_true, if_false, hr, htier, ne_eq, not_true, hnew, false_or, hall, if_true]
  cases verifyOk s (objectAt s r key) <;> rfl

theorem release_eq {s : State} {base : Nat} {v : Verified} (hrt : rtRuns s = true)
    (hv : s.mon.verified.find? (fun v => decide (v.base = base)) = some v) (hup : givenUp s v = true)
    (hquiet : ∀ e ∈ s.mon.grants, gTouches e v.base v.size = true → revokeQuiet s e = true) :
    exec (.release base) s = .next (doRelease s v) := by
  have hall := all_quiet (w := fun _ => true) fun e he ht _ => hquiet e he ht
  simp only [Bool.and_true] at hall
  rw [exec_release]
  simp only [execRelease, hrt, Bool.not_true, Bool.false_eq_true, if_false, hv, hup, hall, Bool.and_self, if_true]

/-- Settles O46: the pages of a grant one by one, and the entries that a verified region and its release leave. -/
theorem monitorRequestsComplete : Obligations.MonitorRequestsComplete := by
  intro s hrt
  refine ⟨fun e z => grant_refused hrt, fun e z => grant_waits hrt, fun e z hk hw => ?_, fun e he => ?_, fun e he hq => ?_,
    fun base key r hr htier hnew hra hrn hend hquiet => ?_, fun base v hv hup hva hvn hend hquiet => ?_⟩
  · obtain ⟨hg, hm⟩ := doGrant_zeroedTo s z.toNat e
    refine ⟨_, grant_done hrt hk hw, hg, fun a ha => (hm a).trans (if_neg fun hc => ?_), fun a hlo hhi => (hm a).trans ?_⟩
    · have := hc.1
      omega
    · simp only [hlo, hhi, and_self, true_and, ite_not]
  · rw [exec_revoke]
    simp only [execRevoke, hrt, he, Bool.not_true, Bool.false_eq_true, if_false, Bool.not_false, if_true]
  · rw [exec_revoke]
    simp only [execRevoke, hrt, he, hq, Bool.not_true, Bool.false_eq_true, if_false, if_true]
  · refine ⟨_, verify_eq hrt hr htier hnew hquiet, ?_, fun hbad => if_neg (Bool.eq_false_iff.1 hbad), fun hok => ?_⟩
    · split <;> rfl
    · rw [if_pos hok]
      refine ⟨⟨_, List.mem_append_right _ (List.mem_singleton_self _), rfl, rfl, rfl⟩, fun e he ht => ?_⟩
      obtain ⟨g, -, hg⟩ := List.mem_flatMap.1 he
      exact noWriteIn_spec hra hrn hend hg ht
  · refine ⟨_, release_eq hrt hv hup hquiet, fun hin => ?_, fun e he => ?_, fun a => Memory.rd_zero⟩
    · simpa using (List.mem_filter.1 hin).2
    · obtain ⟨g, -, hg⟩ := List.mem_flatMap.1 he
      exact gTouches_carve hva hvn hend hg

end Sys2Proof.Machine
end


-- ==== Proofs: links, HELLOs and routes ====
section
/-! PROOFS. What a sent frame changes, and the links: up, down, HELLOs sent and heard, and routes that lapse. -/

namespace Sys2Proof.Machine
open Sys2Proof

variable {s t u : State}

/-! ### Sending -/

/-- `t` is `s` with frames sent. -/
def Sends (s t : State) : Prop := ∃ l, t = { s with br := { s.br with sent := s.br.sent ++ l } }

theorem Sends.refl (s : State) : Sends s s := ⟨[], by rw [List.append_nil]⟩

theorem Sends.trans (h : Sends s t) (k : Sends t u) : Sends s u := by
  obtain ⟨l, rfl⟩ := h
  obtain ⟨m, rfl⟩ := k
  exact ⟨l ++ m, by rw [List.append_assoc]⟩

theorem sendOn_eq {n : PortNo} {dst : Nat} {fr : Frame} (h : s.br.devidConflict = false ∨ fr.type = ftHELLO) :
    sendOn s n dst fr = { s with br := { s.br with sent := s.br.sent ++ [⟨n, fr, frameOctets s n dst fr⟩] } } :=
  if_neg fun hc => h.elim (fun h => by simp [h] at hc) hc.2

theorem sends_sendOn (n : PortNo) (dst : Nat) (fr : Frame) : Sends s (sendOn s n dst fr) := by
  unfold sendOn
  split
  · exact .refl s
  · exact ⟨_, rfl⟩

theorem sends_sendFrame (fr : Frame) : Sends s (sendFrame s fr) := by
  unfold sendFrame
  split
  · split
    · exact sends_sendOn ..
    · exact .refl s
  · exact .refl s

theorem sendFrame_eq {fr : Frame} {r : RouteSrc} (hr : routeTo s fr.dst = some r) (hup : (getPort s r.port).up = true)
    (h : s.br.devidConflict = false) : ∃ o, sendFrame s fr = { s with br := { s.br with sent := s.br.sent ++ [⟨r.port, fr, o⟩] } } := by
  simp only [sendFrame, hr, hup, if_true, sendOn_eq (.inl h)]
  exact ⟨_, rfl⟩

theorem sends_offerWindow (n : WinNo) (w : Win) : Sends s (offerWindow s n w) :=
  foldl_rel (R := Sends) Sends.refl (fun _ _ _ => Sends.trans) (by exact fun _ _ => sends_sendFrame _) _ s

theorem sends_offerDevice (d : DevNo) : Sends s (offerDevice s d) :=
  foldl_rel (R := Sends) Sends.refl (fun _ _ _ => Sends.trans) (by exact fun _ _ => sends_sendFrame _) _ s

/-- A tick moves the time and the slew of it. -/
theorem tick_br (s : State) (dt : Nat) :
    ∃ T v a, tick s dt = { s with time := T, br := { s.br with slew := v, slewAcc := a } } := by
  unfold tick
  split
  · exact ⟨_, s.br.slew, s.br.slewAcc, rfl⟩
  · exact ⟨_, _, _, rfl⟩

/-! ### HELLOs sent -/

theorem exec_bridgeLinkUp {n : PortNo} {dt : Nat} : exec (.bridgeLinkUp n dt) s = execBridgeLinkUp n dt s := rfl
theorem exec_bridgeLinkDown {n : PortNo} {dt : Nat} : exec (.bridgeLinkDown n dt) s = execBridgeLinkDown n dt s := rfl
theorem exec_helloTimer {dt : Nat} : exec (.helloTimer dt) s = execHelloTimer dt s := rfl
theorem exec_helloReceive {n remote : PortNo} {fr : Frame} {dt : Nat} :
    exec (.helloReceive n remote fr dt) s = execHelloReceive n remote fr dt s := rfl
theorem exec_routeExpiry {d : DevNo} {dt : Nat} : exec (.routeExpiry d dt) s = execRouteExpiry d dt s := rfl

/-- A HELLO leaves a port that is up, and the port's time of it is now. -/
theorem sendHello_spec {n : PortNo} (hup : (getPort s n).up = true) :
    (sendHello s n).time = s.time ∧ getPort (sendHello s n) n = { getPort s n with helloAt := s.time } ∧
    (∀ m, m ≠ n → getPort (sendHello s n) m = getPort s m) ∧
    ∃ fr o, (sendHello s n).br.sent = s.br.sent ++ [⟨n, fr, o⟩] ∧ fr.type = ftHELLO ∧ fr.src = myDev s := by
  obtain ⟨fr, hfr⟩ : ∃ fr, mkFrame s ftHELLO 0 0 0 0 (helloPayload s n) = fr := ⟨_, rfl⟩
  have htype : fr.type = ftHELLO := hfr ▸ rfl
  have hsrc : fr.src = myDev s := hfr ▸ rfl
  obtain ⟨v, hv⟩ : ∃ v, setPort s n { getPort s n with helloAt := s.time } = v := ⟨_, rfl⟩
  have heq : sendHello s n = { v with br := { v.br with sent := v.br.sent ++ [⟨n, fr, frameOctets v n helloMac fr⟩] } } := by
    rw [sendHello, if_pos hup, hfr, hv, sendOn_eq (.inr htype)]
  rw [heq, ← hv]
  exact ⟨rfl, getPort_setPort .., fun m hm => getPort_setPort_ne _ _ _ _ hm, fr, _, rfl, htype, hsrc⟩

/-- HELLOs on several ports: each port's time of its last is now, and the frames go in the ports' order. -/
theorem sendHellos_spec (l : List PortNo) (s : State) (hup : ∀ n ∈ l, (getPort s n).up = true) :
    (∀ n, n ∈ l ∨ (getPort s n).helloAt = s.time → (getPort (l.foldl sendHello s) n).helloAt = s.time) ∧
    ∃ x, (l.foldl sendHello s).br.sent = s.br.sent ++ x ∧ x.map (·.port) = l ∧ ∀ y ∈ x, y.fr.type = ftHELLO := by
  induction l generalizing s with
  | nil => exact ⟨fun n hn => hn.resolve_left List.not_mem_nil, [], by simp⟩
  | cons n l ih =>
    obtain ⟨v, hv⟩ : ∃ v, sendHello s n = v := ⟨_, rfl⟩
    obtain ⟨htime, hself, hother, fr, o, hsent, htype, -⟩ := sendHello_spec (hup n (List.mem_cons_self ..))
    rw [hv] at htime hself hother hsent
    have hupv (m : PortNo) : (getPort v m).up = (getPort s m).up := by
      by_cases hm : m = n
      · rw [hm, hself]
      · rw [hother m hm]
    obtain ⟨hat, x, hx, hports, htypes⟩ := ih v fun m hm => (hupv m).trans (hup m (List.mem_cons_of_mem n hm))
    rw [List.foldl_cons, hv]
    refine ⟨fun m hm => (hat m ?_).trans htime, ⟨n, fr, o⟩ :: x, ?_, ?_, ?_⟩
    · rw [htime]
      by_cases hmn : m = n
      · exact .inr (by rw [hmn, hself])
      · rw [hother m hmn]
        exact hm.imp (fun h => (List.mem_cons.1 h).resolve_left hmn) id
    · rw [hx, hsent, List.append_assoc, List.singleton_append]
    · rw [List.map_cons, hports]
    · exact List.forall_mem_cons.2 ⟨htype, htypes⟩

theorem getPort_setRoot (s : State) (n : PortNo) : getPort (setRoot s) n = getPort s n := rfl

/-- A port that has come up sends its HELLO at once. -/
theorem linkUp_spec (n : PortNo) (dt : Nat) : ∃ t fr, sendHello (setRoot (setPort (tick s dt) n { getPort (tick s dt) n with up := true })) n = t ∧
    (getPort t n).up = true ∧ (∀ m, m ≠ n → getPort t m = getPort s m) ∧ (getPort t n).helloAt = (tick s dt).time ∧
    (∃ o, t.br.sent = s.br.sent ++ [⟨n, fr, o⟩]) ∧ fr.type = ftHELLO ∧ fr.src = myDev s := by
  obtain ⟨T, v, a, htick⟩ := tick_br s dt
  obtain ⟨x, hx⟩ : ∃ x, setRoot (setPort (tick s dt) n { getPort (tick s dt) n with up := true }) = x := ⟨_, rfl⟩
  have hself : getPort x n = { getPort (tick s dt) n with up := true } := by rw [← hx, getPort_setRoot, getPort_setPort]
  have hother (m : PortNo) (hm : m ≠ n) : getPort x m = getPort s m := by
    rw [← hx, getPort_setRoot, getPort_setPort_ne _ _ _ _ hm, htick]
    rfl
  have hrest : x.time = (tick s dt).time ∧ x.br.sent = s.br.sent ∧ myDev x = myDev s := by
    rw [← hx, htick]
    exact ⟨rfl, rfl, rfl⟩
  have hup : (getPort x n).up = true := by rw [hself]
  obtain ⟨-, hself', hother', fr, o, hsent, htype, hsrc⟩ := sendHello_spec hup
  refine ⟨_, fr, congrArg (sendHello · n) hx, ?_, fun m hm => (hother' m hm).trans (hother m hm), ?_, ⟨o, hsent.trans ?_⟩, htype, hsrc.trans hrest.2.2⟩
  · rw [hself', hself]
  · rw [hself', hrest.1]
  · rw [hrest.2.1]

/-! ### Routes -/

/-- What a table lists under a key stands in an entry of that key. -/
theorem mem_of_mem_tget {α : Type} {t : Tbl (List α)} {k : Nat} {x : α} (h : x ∈ tget [] t k) : ∃ e ∈ t, e.1 = k ∧ x ∈ e.2 := by
  rw [tget_eq_tfind] at h
  cases hk : tfind t k with
  | none => simp [hk] at h
  | some v => exact ⟨(k, v), mem_of_tfind hk, rfl, by simpa [hk] using h⟩

/-- Every source that a filter leaves is one that it keeps. -/
theorem keep_of_filterRoutes {keep : Nat → RouteSrc → Bool} {d : Nat} {a : RouteSrc} (h : a ∈ tget [] (filterRoutes s keep).br.routes d) :
    keep d a = true := by
  obtain ⟨e, he, rfl, ha⟩ := mem_of_mem_tget h
  obtain ⟨r, -, rfl⟩ := List.mem_map.1 (List.mem_filter.1 he).1
  exact (List.mem_filter.1 ha).2

theorem routes_setPeer (s : State) (n : PortNo) : (setPeer s n).br.routes = s.br.routes := rfl
theorem routes_setRoot (s : State) : (setRoot s).br.routes = s.br.routes := rfl

theorem routes_refreshPorts (s : State) : (refreshPorts s).br.routes = s.br.routes := by
  have hpeers : (allPorts.foldl setPeer s).br.routes = s.br.routes := 
    foldl_fixed (g := fun s => s.br.routes) (by exact routes_setPeer) allPorts s
  exact (routes_setRoot _).trans hpeers

theorem br_tellConflict (s : State) : (tellConflict s).br.devidConflict = s.br.devidConflict ∧ (tellConflict s).br.routes = s.br.routes := by
  unfold tellConflict
  split
  · obtain ⟨T, F, h⟩ := logError_frame { s with br := { s.br with conflictTold := true } } (errInfo cDEVID_CONFLICT 7)
    rw [h]
    exact ⟨rfl, rfl⟩
  · exact ⟨rfl, rfl⟩

/-- A HELLO makes a source of its device's route, heard now on its port. -/
theorem routes_hearHello (s : State) (n remote : PortNo) (d : DevNo) :
    ∃ a ∈ tget [] (hearHello s n remote d).br.routes d.toNat, a.port = n ∧ a.remote = remote ∧ a.at_ = s.time := by
  obtain ⟨l, hl⟩ : ∃ l, (tget [] s.br.routes d.toNat).filter (fun a => decide (a.port ≠ n)) = l := ⟨_, rfl⟩
  have hroutes : (hearHello s n remote d).br.routes = tset s.br.routes d.toNat (l ++ [⟨n, remote, s.time⟩]) := by
    have hset := routes_refreshPorts { s with br := { s.br with routes := tset s.br.routes d.toNat (l ++ [⟨n, remote, s.time⟩]) } }
    unfold hearHello
    dsimp only
    rw [hl]
    split
    · obtain ⟨m, hm⟩ := sends_offerDevice (s := refreshPorts { s with br := { s.br with routes := tset s.br.routes d.toNat (l ++ [⟨n, remote, s.time⟩]) } }) d
      rw [hm]
      exact hset
    · exact hset
  rw [hroutes, tget_eq_tfind, tfind_tset_self]
  exact ⟨⟨n, remote, s.time⟩, List.mem_append_right _ (List.mem_singleton_self _), rfl, rfl, rfl⟩

/-- Settles O51: a HELLO leaves each port that is due; routes follow the HELLOs heard and end with the link or after their life. -/
theorem linksAndRoutesComplete : Obligations.LinksAndRoutesComplete := by
  intro dt s hrun
  obtain ⟨T, v, a, htick⟩ := tick_br s dt
  refine ⟨fun n hdown => ?_, fun n hup => ?_, fun hdue => ?_, fun n remote fr hup hver htype hlen => ⟨fun hsrc => ?_, fun hsrc => ?_⟩, fun d hlapsed => ?_⟩
  · obtain ⟨t, fr, heq, hspec⟩ := linkUp_spec (s := s) n dt
    refine ⟨t, fr, ?_, hspec⟩
    rw [exec_bridgeLinkUp]
    simp only [execBridgeLinkUp, hrun, hdown, Bool.not_false, Bool.and_self, if_true, heq]
  · refine ⟨refreshPorts (filterRoutes (setPort (tick s dt) n { getPort (tick s dt) n with up := false }) fun _ a => decide (a.port ≠ n)),
      ?_, ?_, fun d a ha => ?_⟩
    · rw [exec_bridgeLinkDown]
      simp only [execBridgeLinkDown, hrun, hup, Bool.and_self, if_true]
    · exact (up_refreshPorts _ n).trans (congrArg Port.up (getPort_setPort (tick s dt) n _))
    · rw [routes_refreshPorts] at ha
      exact of_decide_eq_true (keep_of_filterRoutes ha)
  · obtain ⟨n, hn⟩ := hdue
    have hany : allPorts.any (helloDue (tick s dt)) = true := List.any_eq_true.2 ⟨n, mem_allPorts n, hn⟩
    obtain ⟨hat, x, hx, hports, htypes⟩ := sendHellos_spec (allPorts.filter (helloDue (tick s dt))) (setRoot (tick s dt)) fun m hm => by
      have hd := (List.mem_filter.1 hm).2
      exact (Bool.and_eq_true_iff.1 hd).1
    refine ⟨_, x, ?_, fun m hm => hat m (.inl (List.mem_filter.2 ⟨mem_allPorts m, hm⟩)), hx.trans ?_, hports, htypes⟩
    · rw [exec_helloTimer]
      simp only [execHelloTimer, hrun, hany, Bool.and_self, if_true]
    · rw [htick]
      rfl
  · refine ⟨numberConflict (tick s dt), ?_, (br_tellConflict _).1, (br_tellConflict _).2.trans ?_⟩
    · rw [exec_helloReceive]
      simp only [execHelloReceive, hrun, hup, hver, htype, hlen, hsrc, decide_true, Bool.and_self, if_true]
    · rw [htick]
  · refine ⟨hearHello (tick s dt) n remote fr.src, ?_, routes_hearHello ..⟩
    rw [exec_helloReceive]
    simp only [execHelloReceive, hrun, hup, hver, htype, hlen, hsrc, decide_true, Bool.and_self, if_true, if_false]
  · refine ⟨refreshPorts (filterRoutes (tick s dt) fun k a => !(decide (k = d.toNat) && lapsed (tick s dt) a)), ?_, fun b hb => ?_⟩
    · rw [exec_routeExpiry]
      simp only [execRouteExpiry, hrun, hlapsed, Bool.and_self, if_true]
    · rw [routes_refreshPorts] at hb
      simpa using keep_of_filterRoutes hb

end Sys2Proof.Machine
end


-- ==== Proofs: device time ====
section
/-! PROOFS. SYNC frames: the request to the parent, the stamped answer, and the correction of device time. -/

namespace Sys2Proof.Machine
open Sys2Proof

variable {s : State}

theorem exec_syncTimer {dt : Nat} : exec (.syncTimer dt) s = execSyncTimer dt s := rfl
theorem exec_syncReqReceive {n : PortNo} {fr : Frame} {x : SyncStamps} : exec (.syncReqReceive n fr x) s = execSyncReqReceive n fr x s := rfl
theorem exec_syncRespReceive {n : PortNo} {fr : Frame} {t1 t4 : W64} {dt : Nat} :
    exec (.syncRespReceive n fr t1 t4 dt) s = execSyncRespReceive n fr t1 t4 dt s := rfl

/-- A device whose time still may step does so once. -/
theorem correctTime_step {ns : Int} (hphase : s.pw.phase ≠ .running) (hstep : s.br.stepped = false) :
    correctTime s ns = stepTime { s with br := { s.br with offset := sat32 ns } } (BitVec.ofInt 64 (ns / 10)) :=
  if_neg fun hc => hc.elim hphase fun h => by simp [hstep] at h

theorem correctTime_slew {ns : Int} (h : s.pw.phase = .running ∨ s.br.stepped = true) :
    correctTime s ns = { s with br := { s.br with offset := sat32 ns, slew := ns / 10, slewAcc := 0, locked := decide (ns.natAbs ≤ 1000) } } :=
  if_pos h

theorem correctTime_spec (s : State) (ns : Int) : (correctTime s ns).br.offset = sat32 ns ∧
    (s.pw.phase = .running ∨ s.br.stepped = true →
      (correctTime s ns).time = s.time ∧ (correctTime s ns).br.slew = ns / 10 ∧ ((correctTime s ns).br.locked = true ↔ ns.natAbs ≤ 1000)) ∧
    (s.pw.phase ≠ .running → s.br.stepped = false → (correctTime s ns).time = s.time + BitVec.ofInt 64 (ns / 10) ∧
      (correctTime s ns).br.locked = true ∧ (correctTime s ns).br.stepped = true) := by
  refine ⟨?_, fun h => ?_, fun hphase hstep => ?_⟩
  · by_cases h : s.pw.phase = .running ∨ s.br.stepped = true
    · rw [correctTime_slew h]
    · rw [correctTime_step (fun hp => h (.inl hp)) (Bool.eq_false_iff.2 fun hs => h (.inr hs))]
      rfl
  · rw [correctTime_slew h]
    exact ⟨rfl, rfl, decide_eq_true_iff⟩
  · rw [correctTime_step hphase hstep]
    exact ⟨rfl, rfl, rfl⟩

/-- Settles O54: each SYNC frame goes by the route of its destination, and an offset slews or steps the time. -/
theorem deviceTimeFollows : Obligations.DeviceTimeFollows := by
  intro dt s
  obtain ⟨T, v, a, htick⟩ := tick_br s dt
  refine ⟨fun r hrun hfollows hgap hroute hup hconf => ?_, fun n q r t2 t3 harr hroute hup h2 h3 h23 => ?_,
    fun n fr t1 t4 harr hfollows hsrc htag => ⟨correctTime (tick s dt)
      (syncOffset t1.toNat (leNat (fr.payload.take 8)) (leNat (fr.payload.drop 8)) t4.toNat), ?_, ?_⟩⟩
  · have hgap' : syncGap ≤ ((tick s dt).time - (tick s dt).br.syncAt).toNat := by
      rw [htick] at hgap ⊢
      exact hgap
    have hnext : exec (.syncTimer dt) s = .next (sendFrame
        { tick s dt with br := { (tick s dt).br with syncAt := (tick s dt).time, syncTag := (tick s dt).br.syncTag + 1 } }
        (mkFrame { tick s dt with br := { (tick s dt).br with syncAt := (tick s dt).time, syncTag := (tick s dt).br.syncTag + 1 } }
          ftSYNC_REQ (tick s dt).br.parent 0 0 ((tick s dt).br.syncTag + 1) [])) := by
      rw [exec_syncTimer]
      simp only [execSyncTimer, hrun, hfollows, hgap', decide_true, Bool.and_self, if_true]
    rw [htick] at hnext ⊢
    obtain ⟨o, ho⟩ := sendFrame_eq (s := { s with time := T, br := { s.br with slew := v, slewAcc := a, syncAt := T, syncTag := s.br.syncTag + 1 } })
      (fr := mkFrame { s with time := T, br := { s.br with slew := v, slewAcc := a, syncAt := T, syncTag := s.br.syncTag + 1 } }
        ftSYNC_REQ s.br.parent 0 0 (s.br.syncTag + 1) []) hroute hup hconf
    exact ⟨_, _, o, hnext.trans (congrArg Host.Outcome.next ho), rfl, rfl, rfl, rfl, rfl, rfl⟩
  · have hnext : exec (.syncReqReceive n q ⟨t2, t3, dt⟩) s = .next (sendFrame (tick s dt)
        (mkFrame (tick s dt) ftSYNC_RESP q.src 0 0 q.tag (leBytes 8 t2.toNat ++ leBytes 8 t3.toNat))) := by
      rw [exec_syncReqReceive]
      simp only [execSyncReqReceive, harr, h2, h3, h23, decide_true, Bool.and_self, if_true]
    have hconf : s.br.devidConflict = false := by
      have hlast := (Bool.and_eq_true_iff.1 harr).2
      exact Bool.not_eq_true' _ ▸ hlast
    rw [htick] at hnext
    obtain ⟨o, ho⟩ := sendFrame_eq (s := { s with time := T, br := { s.br with slew := v, slewAcc := a } })
      (fr := mkFrame { s with time := T, br := { s.br with slew := v, slewAcc := a } } ftSYNC_RESP q.src 0 0 q.tag
        (leBytes 8 t2.toNat ++ leBytes 8 t3.toNat)) hroute hup hconf
    exact ⟨_, _, o, hnext.trans (congrArg Host.Outcome.next ho), rfl, rfl, rfl, rfl, rfl⟩
  · rw [exec_syncRespReceive]
    simp only [execSyncRespReceive, harr, hfollows, hsrc, htag, decide_true, Bool.and_self, if_true]
  · have hpw : (tick s dt).pw = s.pw ∧ (tick s dt).br.stepped = s.br.stepped := by
      rw [htick]
      exact ⟨rfl, rfl⟩
    have hspec := correctTime_spec (tick s dt) (syncOffset t1.toNat (leNat (fr.payload.take 8)) (leNat (fr.payload.drop 8)) t4.toNat)
    rw [hpw.1, hpw.2] at hspec
    exact hspec

end Sys2Proof.Machine
end


-- ==== Proofs: windows opened and closed ====
section
/-! PROOFS. `window.open` and `window.close`; what the end of windows and of the migrations on them leaves alone. -/

namespace Sys2Proof.Machine
open Sys2Proof

variable {s t u : State}

/-! ### Tables with entries left out -/

theorem tfind_filter_key {α : Type} (keep : Nat → Bool) (l : Tbl α) (k : Nat) :
    tfind (l.filter fun x => keep x.1) k = if keep k then tfind l k else none := by
  induction l with
  | nil => simp [tfind]
  | cons x l ih =>
    obtain ⟨i, v⟩ := x
    by_cases hik : i = k
    · subst hik
      cases hi : keep i
      · simpa [List.filter_cons, hi] using ih
      · simp [hi, tfind]
    · cases hi : keep i
      · simpa [List.filter_cons, hi, tfind, hik] using ih
      · simpa [List.filter_cons, hi, tfind, hik] using ih

/-! ### Migrations that fail, windows that end -/

/-- `t` is `s` but for streams, the migrations and their engine, the commands under way and the functions. -/
def FailsMoves (s t : State) : Prop :=
  ∃ O I P G S F, t = { s with br := { s.br with migOut := O, migIn := I }, inProgress := P, mig := G, streams := S, funcs := F }

theorem FailsMoves.refl (s : State) : FailsMoves s s := ⟨_, _, _, _, _, _, rfl⟩

theorem FailsMoves.trans (h : FailsMoves s t) (k : FailsMoves t u) : FailsMoves s u := by
  obtain ⟨_, _, _, _, _, _, rfl⟩ := h
  obtain ⟨_, _, _, _, _, _, rfl⟩ := k
  exact ⟨_, _, _, _, _, _, rfl⟩

theorem failsMoves_postResult (f : Func) (op tag st : BitVec 16) (n : Nat) : FailsMoves s (postResult s f op tag st n) := by
  obtain ⟨F, h⟩ := postResult_frame s f op tag st n
  exact ⟨_, _, _, _, _, F, h⟩

theorem failsMoves_migFail (m : MigOut) (r : BitVec 16) : FailsMoves s (migFail s m r) := by
  unfold migFail
  refine .trans ?_ (failsMoves_postResult ..)
  cases m.copy <;> exact ⟨_, _, _, _, _, _, rfl⟩

theorem failsMoves_failMigs : FailsMoves s (failMigs s) := by
  have hfold := foldl_rel (R := FailsMoves) .refl (fun _ _ _ => .trans) (f := fun s m => migFail s m 0) (by exact fun _ m => failsMoves_migFail m 0)
    (s.br.migOut.filter fun m => m.copy.isSome && !pairStands s m.window m.device) s
  obtain ⟨v, hv⟩ : ∃ v, (s.br.migOut.filter fun m => m.copy.isSome && !pairStands s m.window m.device).foldl (fun s m => migFail s m 0) s = v := ⟨_, rfl⟩
  rw [hv] at hfold
  unfold failMigs
  dsimp only
  rw [hv]
  exact hfold.trans ⟨_, _, _, _, _, _, rfl⟩

/-- Windows that end go with their pairs; beside them only migrations and commands end. -/
theorem endWindows_spec (ws : List Nat) :
    FailsMoves { s with br := { s.br with wins := s.br.wins.filter fun w => !ws.contains w.1, pairs := s.br.pairs.filter fun x => !ws.contains x.2.window.toNat } }
      (endWindows s ws) := by
  unfold endWindows
  dsimp only
  refine FailsMoves.trans failsMoves_failMigs ?_
  generalize failMigs _ = v
  exact foldl_rel (R := FailsMoves) .refl (fun _ _ _ => .trans) (by exact fun v c => FailsMoves.trans ⟨_, _, _, _, _, _, rfl⟩ (failsMoves_postResult ..)) _ v

/-- Which windows the settling of closes ends. -/
def closedNow (s : State) : List Nat :=
  (s.br.wins.filter fun w => w.2.closing && s.br.pairs.all fun x => decide (x.2.window.toNat ≠ w.1) || pairQuiet x.2).map (·.1)

/-- The settling of closes ends the windows that are due, and those alone. -/
theorem settleCloses_spec (s : State) :
    FailsMoves { s with br := { s.br with
        wins := s.br.wins.filter fun w => !(closedNow s).contains w.1, pairs := s.br.pairs.filter fun x => !(closedNow s).contains x.2.window.toNat } }
      (settleCloses s) := by
  unfold settleCloses
  dsimp only
  split
  next hnone =>
    have hempty : closedNow s = [] := by rw [closedNow, List.isEmpty_iff.1 hnone, List.map_nil]
    simp only [hempty, List.contains_nil, Bool.not_false, filter_all]
    exact .refl s
  next => exact endWindows_spec _

theorem getWin_settleCloses (s : State) (n : WinNo) : getWin (settleCloses s) n = if n.toNat ∈ closedNow s then none else getWin s n := by
  obtain ⟨_, _, _, _, _, _, h⟩ := settleCloses_spec s
  rw [h]
  refine (tfind_filter_key (fun k => !(closedNow s).contains k) s.br.wins n.toNat).trans ?_
  by_cases hn : n.toNat ∈ closedNow s <;> simp [hn, getWin]

theorem mem_settleCloses (s : State) : (settleCloses s).mem = s.mem := by
  obtain ⟨_, _, _, _, _, _, h⟩ := settleCloses_spec s
  rw [h]

/-! ### Credits that go back -/

/-- `t` is `s` with frames sent, and pairs the same but for the credits to return. -/
def Returns (s t : State) : Prop :=
  (∃ S P, t = { s with br := { s.br with sent := S, pairs := P } }) ∧ ∀ i q, getPair s i = some q → ∃ c, getPair t i = some { q with credRet := c }

theorem Returns.refl (s : State) : Returns s s := ⟨⟨_, _, rfl⟩, fun _ q h => ⟨q.credRet, h⟩⟩

theorem Returns.trans (h : Returns s t) (k : Returns t u) : Returns s u := by
  refine ⟨?_, fun i q hq => ?_⟩
  · obtain ⟨⟨_, _, rfl⟩, -⟩ := h
    obtain ⟨⟨_, _, rfl⟩, -⟩ := k
    exact ⟨_, _, rfl⟩
  · obtain ⟨c, hc⟩ := h.2 i q hq
    obtain ⟨d, hd⟩ := k.2 i _ hc
    exact ⟨d, hd⟩

theorem returns_sendCtl (i : Nat) (ty : BitVec 4) (seq : BitVec 16) : Returns s (sendCtl s i ty seq) := by
  unfold sendCtl
  split
  · exact .refl s
  next p hp =>
    split
    · obtain ⟨l, hl⟩ := sends_sendFrame (s := setPair s i { p with credRet := 0 }) (ctlFrame s p ty seq)
      rw [hl]
      refine ⟨⟨_, _, rfl⟩, fun j q hq => ?_⟩
      by_cases hj : j = i
      · rw [hj, hp] at hq
        cases hq
        rw [hj]
        exact ⟨0, getPair_setPair s i _⟩
      · exact ⟨q.credRet, (getPair_setPair_ne s i j _ hj).trans hq⟩
    · exact .refl s

theorem returns_flushCredits (n : WinNo) : Returns s (flushCredits s n) :=
  foldl_rel (R := Returns) .refl (fun _ _ _ => .trans) (by exact fun _ x => returns_sendCtl x.1 ftACK 0) _ s

/-! ### The commands -/

theorem exec_windowOpen {f : Func} {dt : Nat} : exec (.windowOpen f dt) s = execWindowOpen f dt s := rfl
theorem exec_windowClose {f : Func} {dt : Nat} : exec (.windowClose f dt) s = execWindowClose f dt s := rfl

/-- A window that opens stands as it is described; it is offered, and nothing else changes. -/
theorem openWindow_spec (s : State) (n : WinNo) (w : Win) : getWin (openWindow s n w) n = some w ∧
    (∀ m, m ≠ n → getWin (openWindow s n w) m = getWin s m) ∧ (openWindow s n w).mem = s.mem ∧ (openWindow s n w).br.pairs = s.br.pairs := by
  obtain ⟨l, hl⟩ := sends_offerWindow (s := { s with br := { s.br with wins := tset s.br.wins n.toNat w } }) n w
  rw [openWindow, hl]
  exact ⟨tfind_tset_self, fun m hm => tfind_tset_ne (toNat_ne hm), rfl, rfl⟩

/-- The window is closing from now on, and the command waits for it. -/
def closingWindow (s : State) (f : Func) (k : Taken) (n : WinNo) (w : Win) : State :=
  { flushCredits s n with
    br := { (flushCredits s n).br with wins := tset (flushCredits s n).br.wins n.toNat { w with closing := true, closeFor := some (f, k.tag) } }
    inProgress := (flushCredits s n).inProgress ++ [⟨f, k.tag, k.opcode, [.window n], false, false, 0⟩] }

theorem closeWindow_eq (s : State) (f : Func) (k : Taken) (n : WinNo) (w : Win) : closeWindow s f k n w = settleCloses (closingWindow s f k n w) := rfl

theorem getWin_closingWindow (s : State) (f : Func) (k : Taken) (n : WinNo) (w : Win) :
    getWin (closingWindow s f k n w) n = some { w with closing := true, closeFor := some (f, k.tag) } := tfind_tset_self

theorem mem_closingWindow (s : State) (f : Func) (k : Taken) (n : WinNo) (w : Win) : (closingWindow s f k n w).mem = s.mem := by
  obtain ⟨⟨S, P, h⟩, -⟩ := returns_flushCredits (s := s) n
  rw [closingWindow, h]

/-- A closing window that no pair uses is due. -/
theorem closed_of_noPair {f : Func} {k : Taken} {n : WinNo} {w : Win} (h : ∀ x ∈ s.br.pairs, x.2.window ≠ n) :
    n.toNat ∈ closedNow (closingWindow s f k n w) := by
  have hflush : flushCredits s n = s := by
    have hnone : (s.br.pairs.filter fun x => decide (x.2.window = n) && !x.2.failed && decide (0 < x.2.credRet)) = [] :=
      List.filter_eq_nil_iff.2 fun x hx => by simp [h x hx]
    rw [flushCredits, hnone]
    rfl
  rw [closedNow, closingWindow, hflush]
  refine List.mem_map.2 ⟨(n.toNat, _), List.mem_filter.2 ⟨mem_of_tfind tfind_tset_self, ?_⟩, rfl⟩
  simp only [Bool.true_and, List.all_eq_true]
  intro x hx
  simp [toNat_ne (h x hx)]

/-- A closing window with an unacknowledged frame on a pair that stands is not due. -/
theorem notClosed_of_unacked {f : Func} {k : Taken} {n : WinNo} {w : Win} {i : Nat} {q : Pair} (hq : getPair s i = some q) (hn : q.window = n)
    (hf : q.failed = false) (hu : q.unacked ≠ []) : n.toNat ∉ closedNow (closingWindow s f k n w) := by
  obtain ⟨c, hc⟩ := (returns_flushCredits (s := s) n).2 i q hq
  intro hin
  obtain ⟨e, he, hen⟩ := List.mem_map.1 hin
  have hall := (Bool.and_eq_true_iff.1 (List.mem_filter.1 he).2).2
  have hpair := List.all_eq_true.1 hall (i, { q with credRet := c }) (mem_of_tfind hc)
  simp [hen, hn, pairQuiet, hf, hu] at hpair

/-- The state in which a command is served has the bridge of the state before, but for the slew of its clock. -/
theorem servedIn_br (s : State) (f : Func) (dt : Nat) :
    ∃ T v a F, servedIn s f dt = { s with time := T, br := { s.br with slew := v, slewAcc := a }, funcs := F } := by
  obtain ⟨T, v, a, h⟩ := tick_br s dt
  exact ⟨T, v, a, _, congrArg (fun t => dropCmd t f) h⟩

/-- The checks of `window.close` before its window is looked up. -/
def wcloseChecks (s : State) (f : Func) (k : Taken) (n : WinNo) : List (Bool × BitVec 16) :=
  levelChecks s f true false ++ [(argsBad k 1 [(7, 0)], stMALFORMED), (busy s (.window n) || s.br.migIn.any fun g => decide (g.window = n), stBUSY)]

theorem wcloseChecks_pass {f : Func} {k : Taken} {n : WinNo} (hexpert : isExpert s f = true) (hargs : argsBad k 1 [(7, 0)] = false)
    (hbusy : busy s (.window n) = false) (hmig : ∀ g ∈ s.br.migIn, g.window ≠ n) : Passes (wcloseChecks s f k n) := by
  have hnone : (s.br.migIn.any fun g => decide (g.window = n)) = false := by simpa using hmig
  simp [wcloseChecks, passes_levelExpert hexpert, hargs, hbusy, hnone]

theorem checked_wclose_busy {f : Func} {k : Taken} {n : WinNo} {go : Option State} (hexpert : isExpert s f = true)
    (hargs : argsBad k 1 [(7, 0)] = false) (hmig : ∃ g ∈ s.br.migIn, g.window = n) :
    checked s f k (wcloseChecks s f k n) go = some (refuseCmd s f k stBUSY) := by
  have hsome : (s.br.migIn.any fun g => decide (g.window = n)) = true := by simpa using hmig
  simp [checked, wcloseChecks, levelChecks, firstBad, hexpert, hargs, hsome]

/-- A served `window.close` that passes its checks sets the window closing and settles the closes. -/
theorem windowClose_eq {f : Func} {k : Taken} {dt : Nat} {n : WinNo} {w : Win} (hserves : Serves f 0x0211 k s) (hn : BitVec.ofNat 8 (argF k 7 0) = n)
    (hpass : Passes (wcloseChecks (servedIn s f dt) f k n)) (hw : getWin (servedIn s f dt) n = some w) (hmine : notMine (servedIn s f dt) f w.part = false) :
    exec (.windowClose f dt) s = .next (settleCloses (closingWindow (servedIn s f dt) f k n w)) := by
  rw [exec_windowClose]
  refine runCmd_of_body hserves ?_
  dsimp only
  rw [hn]
  refine checked_some hpass ?_
  rw [hw]
  exact checked_some (by simp [hmine]) (by rw [closeWindow_eq])

/-- Settles O50: a window stands from its opening to the settling of closes that finds its pairs quiet. -/
theorem windowsOpenAndClose : Obligations.WindowsOpenAndClose := by
  intro f k dt s
  obtain ⟨T, v, a, F, hserved⟩ := servedIn_br s f dt
  refine ⟨fun n hserves => ?_, fun w hserves hexpert hargs => ?_⟩
  · intro p j hpass hn
    obtain ⟨t, ht⟩ : ∃ t, openWindow (servedIn s f dt) n (newWindow k p j) = t := ⟨_, rfl⟩
    obtain ⟨hself, hother, hmem, hpairs⟩ := openWindow_spec (servedIn s f dt) n (newWindow k p j)
    rw [ht] at hself hother hmem hpairs
    refine ⟨t, ?_, hself, fun m hm => (hother m hm).trans ?_, hmem.trans (servedIn_mem ..), hpairs.trans ?_⟩
    · rw [exec_windowOpen]
      refine runCmd_of_body hserves (checked_some hpass ?_)
      rw [hn, Option.map_some, ht]
    · rw [hserved]
      rfl
    · rw [hserved]
  · intro n hbusy hw hmine
    have hwins : (servedIn s f dt).br.migIn = s.br.migIn ∧ (servedIn s f dt).br.pairs = s.br.pairs ∧ getWin (servedIn s f dt) n = some w := by
      rw [hserved]
      exact ⟨rfl, rfl, hw⟩
    obtain ⟨hmigs, hpairs, hw'⟩ := hwins
    have hclose (hmig : ∀ g ∈ s.br.migIn, g.window ≠ n) := windowClose_eq hserves rfl (wcloseChecks_pass hexpert hargs hbusy (hmigs ▸ hmig)) hw' hmine
    have hmem : (settleCloses (closingWindow (servedIn s f dt) f k n w)).mem = s.mem :=
      (mem_settleCloses _).trans ((mem_closingWindow ..).trans (servedIn_mem ..))
    refine ⟨fun hmig => ?_, fun hmig hnone => ⟨_, hclose hmig, ?_, hmem⟩, fun i q hmig hq hqn hf hu => ⟨_, hclose hmig, ?_, hmem⟩⟩
    · rw [exec_windowClose]
      exact runCmd_of_body hserves (checked_wclose_busy hexpert hargs (hmigs ▸ hmig))
    · rw [getWin_settleCloses, if_pos (closed_of_noPair (hpairs ▸ hnone))]
    · have hq' : getPair (servedIn s f dt) i = some q := (congrArg (tfind · i) hpairs).trans hq
      rw [getWin_settleCloses, if_neg (notClosed_of_unacked hq' hqn hf hu), getWin_closingWindow]

end Sys2Proof.Machine
end


-- ==== Proofs: pairs formed, acknowledged, retried and failed ====
section
/-! PROOFS. PAIR, ACK, NAK and REJECT frames, the retry timeout and discarded frames, while no window is closing. -/

namespace Sys2Proof.Machine
open Sys2Proof

variable {s t : State} {n : PortNo} {fr : Frame} {dt : Nat} {i : Nat} {q : Pair}

theorem exec_pairReceive : exec (.pairReceive n fr dt) s = execPairReceive n fr dt s := rfl
theorem exec_ackFrame : exec (.ackFrame n fr dt) s = execAckFrame n fr dt s := rfl
theorem exec_nakFrame : exec (.nakFrame n fr dt) s = execNakFrame n fr dt s := rfl
theorem exec_rejectFrame : exec (.rejectFrame n fr dt) s = execRejectFrame n fr dt s := rfl
theorem exec_retryTimeout {pair : BitVec 10} : exec (.retryTimeout pair dt) s = execRetryTimeout pair dt s := rfl
theorem exec_frameDiscard {et : BitVec 16} {ok : Bool} : exec (.frameDiscard n et ok fr) s = execFrameDiscard n et ok fr s := rfl

/-- No window is closing. -/
def NoneCloses (s : State) : Prop := ∀ x ∈ s.br.wins, x.2.closing = false

/-- While no window is closing there is no close to settle. -/
theorem settleCloses_of_none (h : NoneCloses s) : settleCloses s = s := by
  have hnone : (s.br.wins.filter fun w => w.2.closing && s.br.pairs.all fun x => decide (x.2.window.toNat ≠ w.1) || pairQuiet x.2) = [] :=
    List.filter_eq_nil_iff.2 fun x hx => by simp [h x hx]
  simp only [settleCloses, hnone, List.isEmpty_nil, if_true]

theorem Sends.getPair (h : Sends s t) (i : Nat) : getPair t i = getPair s i := by
  obtain ⟨l, rfl⟩ := h
  rfl

/-! ### PAIR -/

theorem sends_answer (b : Bool) (w : WinNo) (x : Win) (d : DevNo) : Sends s (if b then s else sendPair s w x d true) := by
  split
  · exact .refl s
  · exact sends_sendFrame _

theorem sends_ne (h : Sends s t) : t.mem = s.mem ∧ t.br.wins = s.br.wins := by
  obtain ⟨l, rfl⟩ := h
  exact ⟨rfl, rfl⟩

/-- A pair that is formed stands as its frame says; an answer may be sent. -/
theorem formed_spec (s : State) (i : Nat) (p : Pair) (ht : Sends (setPair s i p) t) : getPair t i = some p ∧ t.mem = s.mem :=
  ⟨(ht.getPair i).trans (getPair_setPair s i p), (sends_ne ht).1⟩

theorem receivePair_new {w : Win} (hidx : pairIdx s fr.win fr.src = none) (hfree : freePair s = some i) :
    Sends (setPair s i (newPair fr.win fr.src (leNat fr.payload) s.time)) (receivePair s w fr) := by
  simp only [receivePair, hidx, hfree, formPair]
  exact sends_answer ..

theorem receivePair_anew {w : Win} (hidx : pairIdx s fr.win fr.src = some i) (hq : getPair s i = some q) (hquiet : pairBusy s q = false)
    (hoffer : (leNat fr.payload).testBit 0 = false) :
    Sends (setPair s i (newPair fr.win fr.src (leNat fr.payload) s.time)) (receivePair s w fr) := by
  have haside : setAside s i = s := by simp only [setAside, hq, hquiet, Bool.not_false, if_true]
  simp only [receivePair, hidx, hoffer, haside, formPair, Bool.false_eq_true, if_false]
  exact sends_sendFrame _

theorem pairReceive_eq {w : Win} (harr : arrives s n fr ftPAIR = true) (hw : getWin s fr.win = some w) (hadm : admits w fr.src = true) :
    exec (.pairReceive n fr dt) s = .next (receivePair (tick s dt) w fr) := by
  rw [exec_pairReceive]
  simp only [execPairReceive, harr, hw, hadm, if_true]

/-! ### Acknowledgement -/

/-- A pair whose frames before `ack` are acknowledged, with the credits that come back. -/
def ackedPair (q : Pair) (fr : Frame) (cred : Nat) (now : W64) : Pair :=
  { q with
    avail := BitVec.ofNat 16 (min q.granted.toNat (q.avail.toNat + cred)), unacked := q.unacked.drop (fr.ack - q.txAcked).toNat, txAcked := fr.ack
    timeouts := 0, progress := now }

theorem avail_ackedPair (q : Pair) (fr : Frame) (cred : Nat) (now : W64) :
    (ackedPair q fr cred now).avail.toNat = min q.granted.toNat (q.avail.toNat + cred) :=
  toNat_ofNat_of_lt (Nat.lt_of_le_of_lt (Nat.min_le_left ..) q.granted.isLt)

/-- With nothing waiting an acknowledgement changes the pair alone. -/
theorem takeAck_acked (hopen : NoneCloses s) (hq : getPair s i = some q) (hf : q.failed = false) (hv : fr.ackV = true)
    (h1 : 1 ≤ (fr.ack - q.txAcked).toNat) (hm : (fr.ack - q.txAcked).toNat ≤ q.unacked.length) (hwait : q.waitTx = []) :
    takeAck s i fr = setPair s i (ackedPair q fr fr.cred.toNat s.time) := by
  have hset : settleCloses (setPair s i (ackedPair q fr fr.cred.toNat s.time)) = setPair s i (ackedPair q fr fr.cred.toNat s.time) :=
    settleCloses_of_none hopen
  simp only [takeAck, takeAckOf, hq, hf, hv, Bool.not_true, Bool.false_eq_true, or_self, if_false, h1, hm, decide_true, Bool.and_self, if_true, hwait,
    List.length_nil, pairSend]
  simpa only [ackedPair, hf, hwait] using hset

/-- `t` is `s` but for frames sent and pairs, and its pair `i` is as it was in what the sending of frames does not touch. -/
def KeepsPair (i : Nat) (s t : State) : Prop := (∃ S P, t = { s with br := { s.br with sent := S, pairs := P } }) ∧
  ∀ q, getPair s i = some q → ∃ z, getPair t i = some z ∧ z.failed = q.failed ∧ z.rxNext = q.rxNext ∧ z.reads = q.reads

theorem KeepsPair.refl (i : Nat) (s : State) : KeepsPair i s s := ⟨⟨_, _, rfl⟩, fun q hq => ⟨q, hq, rfl, rfl, rfl⟩⟩

theorem KeepsPair.trans {u : State} (h : KeepsPair i s t) (k : KeepsPair i t u) : KeepsPair i s u := by
  obtain ⟨⟨_, _, rfl⟩, hs⟩ := h
  obtain ⟨⟨_, _, rfl⟩, ht⟩ := k
  refine ⟨⟨_, _, rfl⟩, fun q hq => ?_⟩
  obtain ⟨z, hz, hf, hr, hw⟩ := hs q hq
  obtain ⟨y, hy, hf', hr', hw'⟩ := ht z hz
  exact ⟨y, hy, hf'.trans hf, hr'.trans hr, hw'.trans hw⟩

theorem KeepsPair.noneCloses (h : KeepsPair i s t) (hopen : NoneCloses s) : NoneCloses t := by
  obtain ⟨⟨_, _, rfl⟩, -⟩ := h
  exact hopen

theorem keepsPair_setPair {p p' : Pair} (hp : getPair s i = some p) (hf : p'.failed = p.failed) (hr : p'.rxNext = p.rxNext) (hw : p'.reads = p.reads) :
    KeepsPair i s (setPair s i p') := by
  refine ⟨⟨_, _, rfl⟩, fun q hq => ⟨p', getPair_setPair s i p', ?_⟩⟩
  rw [hp] at hq
  cases hq
  exact ⟨hf, hr, hw⟩

theorem Sends.keepsPair (h : Sends s t) : KeepsPair i s t := by
  obtain ⟨l, rfl⟩ := h
  exact ⟨⟨_, _, rfl⟩, fun q hq => ⟨q, hq, rfl, rfl, rfl⟩⟩

theorem keepsPair_pairSend (fuel i : Nat) (s : State) : KeepsPair i s (pairSend fuel i s) := by
  induction fuel generalizing s with
  | zero => exact .refl i s
  | succ fuel ih =>
    unfold pairSend
    split
    · exact .refl i s
    next p hp =>
      split
      · exact .refl i s
      next x rest hx =>
        have hstep (p' : Pair) (fr : Frame) (hf : p'.failed = p.failed) (hr : p'.rxNext = p.rxNext) (hw : p'.reads = p.reads) :
            KeepsPair i s (pairSend fuel i (sendFrame (setPair s i p') fr)) :=
          ((keepsPair_setPair hp hf hr hw).trans (sends_sendFrame fr).keepsPair).trans (ih _)
        split
        · exact .refl i s
        · exact hstep _ _ rfl rfl rfl

theorem keepsPair_takeAckOf (hopen : NoneCloses s) (cred : Nat) : KeepsPair i s (takeAckOf s i fr cred) := by
  unfold takeAckOf
  split
  · exact .refl i s
  next p hp =>
    split
    · exact .refl i s
    · dsimp only
      have hstep (p' : Pair) (hf : p'.failed = p.failed) (hr : p'.rxNext = p.rxNext) (hw : p'.reads = p.reads) :
          KeepsPair i s (settleCloses (pairSend p'.waitTx.length i (setPair s i p'))) := by
        have hkeeps := (keepsPair_setPair hp hf hr hw).trans (keepsPair_pairSend p'.waitTx.length i (setPair s i p'))
        rw [settleCloses_of_none (hkeeps.noneCloses hopen)]
        exact hkeeps
      split <;> exact hstep _ rfl rfl rfl

/-! ### Frames sent again -/

theorem sends_resendAll : Sends s (resendAll s i) := by
  unfold resendAll
  split
  · exact .refl s
  next p hp => exact foldl_rel (R := Sends) .refl (fun _ _ _ => .trans) (by exact fun _ _ => sends_sendFrame _) _ s

/-- Frames for one destination that can be reached go in their order. -/
theorem resend_spec {d : DevNo} {r : RouteSrc} (ack : BitVec 16) (l : List TxFrame) (s : State) (hdst : ∀ x ∈ l, x.fr.dst = d)
    (hr : routeTo s d = some r) (hup : (getPort s r.port).up = true) (hc : s.br.devidConflict = false) :
    ∃ m, l.foldl (fun s x => sendFrame s { x.fr with ackV := true, ack := ack }) s = { s with br := { s.br with sent := s.br.sent ++ m } } ∧
      m.map (·.fr.seq) = l.map (·.fr.seq) := by
  induction l generalizing s with
  | nil => exact ⟨[], by rw [List.append_nil]; rfl, rfl⟩
  | cons x l ih =>
    obtain ⟨o, ho⟩ := sendFrame_eq (s := s) (fr := { x.fr with ackV := true, ack := ack }) (hdst x (List.mem_cons_self ..) ▸ hr) hup hc
    obtain ⟨m, hm, hseq⟩ := ih { s with br := { s.br with sent := s.br.sent ++ [⟨r.port, { x.fr with ackV := true, ack := ack }, o⟩] } }
      (fun y hy => hdst y (List.mem_cons_of_mem x hy)) hr hup hc
    refine ⟨⟨r.port, { x.fr with ackV := true, ack := ack }, o⟩ :: m, ?_, congrArg (x.fr.seq :: ·) hseq⟩
    rw [List.foldl_cons, ho, hm]
    simp only [List.append_assoc, List.singleton_append]

theorem resendAll_spec {r : RouteSrc} {d : DevNo} (hq : getPair s i = some q) (hdst : ∀ x ∈ q.unacked, x.fr.dst = d)
    (hr : routeTo s d = some r) (hup : (getPort s r.port).up = true) (hc : s.br.devidConflict = false) :
    ∃ m, resendAll s i = { s with br := { s.br with sent := s.br.sent ++ m } } ∧ m.map (·.fr.seq) = q.unacked.map (·.fr.seq) := by
  simp only [resendAll, hq]
  exact resend_spec q.rxNext q.unacked s hdst hr hup hc

/-! ### Failure -/

theorem reported_spec (hopen : NoneCloses s) (p : Pair) :
    getPair (settleCloses (failMigs (logError (setPair s i p) (errInfo cPAIR_FAILED 7)))) i = some p := by
  obtain ⟨T, F, hlog⟩ := logError_frame (setPair s i p) (errInfo cPAIR_FAILED 7)
  obtain ⟨O, I, P, G, S, F', hmigs⟩ := failsMoves_failMigs (s := logError (setPair s i p) (errInfo cPAIR_FAILED 7))
  have hopen' : NoneCloses (failMigs (logError (setPair s i p) (errInfo cPAIR_FAILED 7))) := by
    rw [hmigs, hlog]
    exact hopen
  rw [settleCloses_of_none hopen', hmigs, hlog]
  exact getPair_setPair s i p

/-- A pair that fails is marked so, whatever else its failure ends, while no window is closing. -/
theorem pairFail_spec (hopen : NoneCloses s) (hq : getPair s i = some q) : ∃ z, getPair (pairFail s i) i = some z ∧ z.failed = true := by
  unfold pairFail
  rw [hq]
  dsimp only
  split
  next hf => exact ⟨q, hq, hf⟩
  · exact ⟨_, reported_spec hopen _, rfl⟩

/-- The retry of a pair: counted and sent again, or the failure of the pair. -/
theorem retry_spec (hopen : NoneCloses s) (hq : getPair s i = some q) (hf : q.failed = false) : ∃ z, getPair (retry s i q) i = some z ∧
    (q.timeouts + 1 < s.br.retryMax.toNat → z.timeouts = q.timeouts + 1 ∧ z.failed = false ∧ z.unacked = q.unacked) ∧
    (s.br.retryMax.toNat ≤ q.timeouts + 1 → z.failed = true) := by
  unfold retry
  split
  next hmax =>
    obtain ⟨z, hz, hfail⟩ := pairFail_spec hopen hq
    exact ⟨z, hz, fun h => absurd h (by omega), fun _ => hfail⟩
  next hmore =>
    exact ⟨_, (sends_resendAll.getPair i).trans (getPair_setPair s i _), fun _ => ⟨rfl, hf, rfl⟩, fun h => absurd h hmore⟩

/-- A Lemrix frame that reaches the bridge comes while the device's number is its own. -/
theorem noConflict_of_arrives {ty : BitVec 4} (h : arrives s n fr ty = true) (hty : ty ≠ ftHELLO) : s.br.devidConflict = false := by
  unfold arrives at h
  rw [decide_eq_false hty, Bool.false_or] at h
  simp only [Bool.and_eq_true, Bool.not_eq_true'] at h
  exact h.2.2

/-- Settles O53: each control frame of a pair changes that pair, since no close is there to settle. -/
theorem pairsFormAcknowledgeAndFail : Obligations.PairsFormAcknowledgeAndFail := by
  intro n fr dt s hopen
  obtain ⟨T, v, a, htick⟩ := tick_br s dt
  obtain ⟨u, hu⟩ : ∃ u, tick s dt = u := ⟨_, rfl⟩
  have hbr : u.br.pairs = s.br.pairs ∧ u.br.wins = s.br.wins ∧ u.mem = s.mem ∧ u.br.sent = s.br.sent ∧ u.br.retryMax = s.br.retryMax := by
    rw [← hu, htick]
    exact ⟨rfl, rfl, rfl, rfl, rfl⟩
  have hroutes : u.br.routes = s.br.routes ∧ u.br.ports = s.br.ports ∧ u.br.devidConflict = s.br.devidConflict ∧ u.br.migOut = s.br.migOut := by
    rw [← hu, htick]
    exact ⟨rfl, rfl, rfl, rfl⟩
  obtain ⟨hpairs, hwins, hmem, hsent, hmax⟩ := hbr
  obtain ⟨hroutes, hports, hconf, hmig⟩ := hroutes
  have hopen' : NoneCloses u := fun x hx => hopen x (hwins ▸ hx)
  have hget (i : Nat) : getPair u i = getPair s i := congrArg (tfind · i) hpairs
  have hidx (w : WinNo) (d : DevNo) : pairIdx u w d = pairIdx s w d := by rw [pairIdx, pairIdx, hpairs]
  dsimp only
  rw [hu]
  refine ⟨fun w i harr hw hadm hnone hfree => ?_, fun w i q harr hw hadm hsome hq hquiet hoffer => ?_, fun i q hsome hq =>
    ⟨fun harr hf hv h1 hm hwait => ?_, fun r harr hstands hf hv h1 hm hwait hdst hroute hup => ?_, fun harr => ?_⟩,
    fun pair q hq hruns hdue => ?_, fun et ok hrun hup hdis => ?_⟩
  · have hfree' : freePair u = some i := by simpa only [freePair, hget] using hfree
    exact ⟨_, (pairReceive_eq harr hw hadm).trans (by rw [hu]), (formed_spec u i _ (receivePair_new ((hidx ..).trans hnone) hfree')).1,
      (formed_spec u i _ (receivePair_new ((hidx ..).trans hnone) hfree')).2.trans hmem⟩
  · have hquiet' : pairBusy u q = false := by rw [pairBusy, hmig]; exact hquiet
    have hspec := formed_spec u i _ (receivePair_anew (w := w) ((hidx ..).trans hsome) ((hget i).trans hq) hquiet' hoffer)
    exact ⟨_, (pairReceive_eq harr hw hadm).trans (by rw [hu]), hspec.1, hspec.2.trans hmem⟩
  · refine ⟨setPair u i (ackedPair q fr fr.cred.toNat u.time), _, ?_, getPair_setPair u i _, ⟨rfl, rfl, rfl, avail_ackedPair ..⟩, hmem⟩
    rw [exec_ackFrame]
    simp only [execAckFrame, harr, if_true, hsome, hu, takeAck_acked hopen' ((hget i).trans hq) hf hv h1 hm hwait]
  · obtain ⟨l, hl, hseq⟩ := resendAll_spec (s := setPair u i (ackedPair q fr fr.cred.toNat u.time)) (d := fr.src) (r := r) (getPair_setPair u i _)
      (fun x hx => hdst x (List.mem_of_mem_drop hx)) (by simpa only [routeTo, setPair, hroutes] using hroute)
      (by simpa only [getPort, setPair, hports] using hup) (hconf.trans (noConflict_of_arrives harr (by decide)))
    refine ⟨_, _, l, ?_, (Sends.getPair ⟨l, hl⟩ i).trans (getPair_setPair u i _), ⟨rfl, rfl, rfl, avail_ackedPair ..⟩, ?_, hseq, ?_⟩
    · rw [exec_nakFrame]
      simp only [execNakFrame, harr, if_true, hsome, hstands, hu, takeAck_acked hopen' ((hget i).trans hq) hf hv h1 hm hwait]
    · rw [hl, ← hsent]
      rfl
    · rw [hl, ← hmem]
      rfl
  · have hkeeps : KeepsPair i u (takeAck u i fr) := keepsPair_takeAckOf hopen' _
    obtain ⟨y, hy, -⟩ := hkeeps.2 q ((hget i).trans hq)
    obtain ⟨z, hz, hfail⟩ := pairFail_spec (hkeeps.noneCloses hopen') hy
    refine ⟨_, z, ?_, hz, hfail⟩
    rw [exec_rejectFrame]
    simp only [execRejectFrame, harr, if_true, hsome, hu]
  · have hf : q.failed = false := by
      simp only [retryDue, Bool.and_eq_true, Bool.not_eq_true'] at hdue
      exact hdue.1.1
    obtain ⟨z, hz, hspec⟩ := retry_spec hopen' ((hget _).trans hq) hf
    rw [hmax] at hspec
    refine ⟨_, z, ?_, hz, hspec⟩
    rw [exec_retryTimeout]
    simp only [execRetryTimeout, hq, hruns, hu, hdue, Bool.and_self, if_true]
  · rw [exec_frameDiscard]
    simp only [execFrameDiscard, hrun, hup, hdis, Bool.and_self, if_true]

end Sys2Proof.Machine
end


-- ==== Proofs: sequenced frames ====
section
/-! PROOFS. A sequenced frame in its turn: what each type applies, and that rx_next advances. -/

namespace Sys2Proof.Machine
open Sys2Proof

variable {s t : State} {n : PortNo} {fr : Frame} {dt i : Nat} {q : Pair}

theorem exec_writeFrame : exec (.writeFrame n fr dt) s = execWriteFrame n fr dt s := rfl
theorem exec_migDataFrame : exec (.migDataFrame n fr dt) s = execMigDataFrame n fr dt s := rfl
theorem exec_readReqFrame : exec (.readReqFrame n fr dt) s = execReadReqFrame n fr dt s := rfl
theorem exec_atomicFrame : exec (.atomicFrame n fr dt) s = execAtomicFrame n fr dt s := rfl
theorem exec_readRespFrame : exec (.readRespFrame n fr dt) s = execReadRespFrame n fr dt s := rfl
theorem exec_migCtrlFrame {ch : OpenChoice} : exec (.migCtrlFrame n fr ch dt) s = execMigCtrlFrame n fr ch dt s := rfl

/-! ### Device memory read -/

theorem devRead_congr (hm : t.mem = s.mem) (hk : t.mon = s.mon) (a k : Nat) : devRead t a k = devRead s a k := by
  have hline (l : Nat) : readLine t l = readLine s l := by rw [readLine, readLine, lineKey, lineKey, hm, hk]
  have hunsealed : unsealed t a k = unsealed s a k := by rw [unsealed, unsealed, hk]
  rw [devRead, devRead, hunsealed, hm]
  simp only [hline]

/-! ### A frame in its turn -/

/-- `t` is `s` but for the time, its slew, the frames sent and the pairs. -/
def TouchesPairs (s t : State) : Prop :=
  ∃ T v a S P, t = { s with time := T, br := { s.br with slew := v, slewAcc := a, sent := S, pairs := P } }

theorem takeAckOf_unsigned (hv : fr.ackV = false) (cred : Nat) : takeAckOf s i fr cred = s := by
  unfold takeAckOf
  split
  · rfl
  · rw [if_pos (.inr (by simp [hv]))]

theorem keepsPair_takeAckOf' (h : fr.ackV = false ∨ NoneCloses s) (cred : Nat) : KeepsPair i s (takeAckOf s i fr cred) := by
  rcases h with h | h
  · rw [takeAckOf_unsigned h]
    exact .refl i s
  · exact keepsPair_takeAckOf h cred

/-- The frame is applied to a state whose pair has counted it; an acknowledgement may follow. -/
theorem takeExpected_returns {p : Pair} {apply : Nat → State → State} :
    Returns (apply i (setPair s i { p with rxNext := p.rxNext + 1, credRet := p.credRet + creditsOf fr, nakSent := false }))
      (takeExpected s i p fr apply) := by
  unfold takeExpected
  dsimp only
  split
  · exact .refl _
  · split
    · exact returns_sendCtl ..
    · exact .refl _

/-- A frame that is taken in its turn: what it applies, and to which state. -/
theorem receive_expected {perm : Option Nat} {apply : Nat → State → State} (hidx : pairIdx s fr.win fr.src = some i)
    (hq : getPair s i = some q) (hf : q.failed = false) (hseq : fr.seq = q.rxNext) (hopen : fr.ackV = false ∨ NoneCloses s)
    (hok : frameTaken s fr perm = true) :
    ∃ v z, TouchesPairs s v ∧ getPair v i = some z ∧ z.rxNext = q.rxNext + 1 ∧ z.reads = q.reads ∧
      Returns (apply i v) (receiveSequenced (tick s dt) fr perm apply) := by
  obtain ⟨T, sl, sa, htick⟩ := tick_br s dt
  have hok' : frameTaken (tick s dt) fr perm = true := by rw [htick]; exact hok
  have hidx' : pairIdx (tick s dt) fr.win fr.src = some i := by rw [htick]; exact hidx
  have hq' : getPair (tick s dt) i = some q := by rw [htick]; exact hq
  have hopen' : fr.ackV = false ∨ NoneCloses (tick s dt) := by rw [htick]; exact hopen
  obtain ⟨v, hv⟩ : ∃ v, takeAckOf (tick s dt) i fr (credsOf q fr true) = v := ⟨_, rfl⟩
  obtain ⟨⟨S, P, hvs⟩, hkeep⟩ := hv ▸ keepsPair_takeAckOf' (i := i) hopen' (credsOf q fr true)
  obtain ⟨p, hp, hpf, hpr, hpw⟩ := hkeep q hq'
  refine ⟨setPair v i { p with rxNext := p.rxNext + 1, credRet := p.credRet + creditsOf fr, nakSent := false }, _, ?_,
    getPair_setPair v i _, congrArg (· + 1) hpr, hpw, ?_⟩
  · rw [hvs, htick]
    exact ⟨_, _, _, _, _, rfl⟩
  · have heq : receiveSequenced (tick s dt) fr perm apply = takeExpected v i p fr apply := by
      simp only [receiveSequenced, hidx', hq', hok', hv, hp, takeSequenced, hpf, hf, hpr, hseq, if_true, Bool.false_eq_true, if_false]
    rw [heq]
    exact takeExpected_returns

section
variable (h : TouchesPairs s t)
include h
theorem TouchesPairs.mem : t.mem = s.mem := by
  obtain ⟨_, _, _, _, _, rfl⟩ := h
  rfl
theorem TouchesPairs.mon : t.mon = s.mon := by
  obtain ⟨_, _, _, _, _, rfl⟩ := h
  rfl
theorem TouchesPairs.cores : t.cores = s.cores := by
  obtain ⟨_, _, _, _, _, rfl⟩ := h
  rfl
theorem TouchesPairs.wins : t.br.wins = s.br.wins := by
  obtain ⟨_, _, _, _, _, rfl⟩ := h
  rfl
theorem TouchesPairs.migOut : t.br.migOut = s.br.migOut := by
  obtain ⟨_, _, _, _, _, rfl⟩ := h
  rfl
end

/-- An access that a grant of the window's job permits is carried out. -/
theorem inboundGuard_of_grant {v : State} {w : Win} {write : Bool} {ok : State} (hv : TouchesPairs s v) (hw : getWin s fr.win = some w)
    (hg : partGrant s w.part w.job write fr.addr.toNat fr.len.toNat = true) : inboundGuard v fr write ok = ok := by
  have hw' : getWin v fr.win = some w := (congrArg (tfind · fr.win.toNat) hv.wins).trans hw
  have hg' : partGrant v w.part w.job write fr.addr.toNat fr.len.toNat = true := by
    rw [← hg]
    simp only [partGrant, gReadable, hv.mon]
  simp only [inboundGuard, hw', hg', if_true]

section
variable (h : Returns s t)
include h
theorem Returns.mem : t.mem = s.mem := by
  obtain ⟨⟨_, _, rfl⟩, -⟩ := h
  rfl
theorem Returns.cores : t.cores = s.cores := by
  obtain ⟨⟨_, _, rfl⟩, -⟩ := h
  rfl
theorem Returns.streams : t.streams = s.streams := by
  obtain ⟨⟨_, _, rfl⟩, -⟩ := h
  rfl
theorem Returns.migOut : t.br.migOut = s.br.migOut := by
  obtain ⟨⟨_, _, rfl⟩, -⟩ := h
  rfl
theorem Returns.migIn : t.br.migIn = s.br.migIn := by
  obtain ⟨⟨_, _, rfl⟩, -⟩ := h
  rfl
end

/-! ### Answers -/

/-- The pair holds a frame to be sent or acknowledged that carries an answer. -/
def Holds (p : Pair) (ty : BitVec 4) (tag : BitVec 16) (b : List Byte) : Prop :=
  ∃ x ∈ p.waitTx ++ p.unacked, x.fr.type = ty ∧ x.fr.tag = tag ∧ x.fr.payload = b

/-- The sending of waiting frames keeps each of them with the pair, sent or not. -/
theorem holds_pairSend {ty : BitVec 4} {tag : BitVec 16} {b : List Byte} (fuel : Nat) (s : State) {p : Pair} (hp : getPair s i = some p)
    (h : Holds p ty tag b) : ∃ z, getPair (pairSend fuel i s) i = some z ∧ z.rxNext = p.rxNext ∧ Holds z ty tag b := by
  induction fuel generalizing s p with
  | zero => exact ⟨p, hp, rfl, h⟩
  | succ fuel ih =>
    unfold pairSend
    rw [hp]
    dsimp only
    split
    · exact ⟨p, hp, rfl, h⟩
    next x rest hx =>
      split
      · exact ⟨p, hp, rfl, h⟩
      · have hstep (p' : Pair) (g : Frame) (hr : p'.rxNext = p.rxNext) (hh : Holds p' ty tag b) :
            ∃ z, getPair (pairSend fuel i (sendFrame (setPair s i p') g)) i = some z ∧ z.rxNext = p.rxNext ∧ Holds z ty tag b := by
          obtain ⟨z, hz, hzr, hzh⟩ := ih (sendFrame (setPair s i p') g) (((sends_sendFrame g).getPair i).trans (getPair_setPair s i p')) hh
          exact ⟨z, hz, hzr.trans hr, hzh⟩
        refine hstep _ _ rfl ?_
        obtain ⟨y, hy, hty, htag, hb⟩ := h
        rw [hx, List.cons_append, List.mem_cons, List.mem_append] at hy
        rcases hy with rfl | hy | hy
        · exact ⟨_, List.mem_append_right _ (List.mem_append_right _ (List.mem_singleton_self _)), hty, htag, hb⟩
        · exact ⟨y, List.mem_append_left _ hy, hty, htag, hb⟩
        · exact ⟨y, List.mem_append_right _ (List.mem_append_left _ hy), hty, htag, hb⟩

/-- A response stands with the pair, and only accounts, frames and pairs change. -/
theorem respond_spec {p : Pair} (b : List Byte) (hp : getPair s i = some p) :
    (respond s i fr b).mem = s.mem ∧ ∃ z, getPair (respond s i fr b) i = some z ∧ z.rxNext = p.rxNext ∧ Holds z ftREAD_RESP fr.tag b := by
  obtain ⟨v, hv⟩ : ∃ v, chargeBridge s (winClient s fr.win) b.length = v := ⟨_, rfl⟩
  have hpv : getPair v i = some p := hv ▸ hp
  have hmem : v.mem = s.mem := hv ▸ rfl
  obtain ⟨r, hr⟩ : ∃ r, mkFrame s ftREAD_RESP fr.src fr.win 0 fr.tag b = r := ⟨_, rfl⟩
  have hheld : Holds { p with waitTx := p.waitTx ++ [⟨r, none, 0, 0⟩] } ftREAD_RESP fr.tag b :=
    ⟨⟨r, none, 0, 0⟩, List.mem_append_left _ (List.mem_append_right _ (List.mem_singleton_self _)), hr ▸ rfl, hr ▸ rfl, hr ▸ rfl⟩
  have heq : respond s i fr b = pairSend (p.waitTx.length + 1) i (setPair v i { p with waitTx := p.waitTx ++ [⟨r, none, 0, 0⟩] }) := by
    simp only [respond, hv, hr, pairEnqueue, hpv, List.length_singleton]
  obtain ⟨⟨S, P, hs⟩, -⟩ := keepsPair_pairSend (p.waitTx.length + 1) i (setPair v i { p with waitTx := p.waitTx ++ [⟨r, none, 0, 0⟩] })
  obtain ⟨z, hz, hzr, hzh⟩ := holds_pairSend (p.waitTx.length + 1) _ (getPair_setPair v i { p with waitTx := p.waitTx ++ [⟨r, none, 0, 0⟩] }) hheld
  rw [heq]
  refine ⟨?_, z, hz, hzr, hzh⟩
  rw [hs]
  exact hmem

/-! ### Read responses -/

/-- The command that a response serves has its bytes and one outstanding read less. -/
theorem deliverRead_spec {c : CoreId} {m : Nat} {e : QEntry} {r : ReadWait} {b : List Byte}
    (he : (getCore s c).seq.dmaQ.find? (fun e => decide (e.n = m)) = some e) :
    ∃ y ∈ (getCore (deliverRead s c m r b) c).seq.dmaQ, y.n = m ∧ y.remoteReads = e.remoteReads - 1 ∧ y.got = tputs 0 e.got r.off (fitBytes r.len b) := by
  have hn : e.n = m := by simpa using List.find?_some he
  rw [deliverRead, modEntry, modSeq, modCore, getCore_setCore]
  exact ⟨_, List.mem_map.2 ⟨e, List.mem_of_find?_eq_some he, if_pos hn⟩, hn, rfl, rfl⟩

/-! ### Migration control -/

theorem br_freeStream (s : State) (h : Handle) : (freeStream s h).br = s.br := by
  have hregion (s : State) (r : Region) : (freeRegion s r).br = s.br := by
    unfold freeRegion
    split
    · rfl
    · split <;> rfl
  have hregions (q : Region → Bool) : (releaseRegions s q).br = s.br :=
    foldl_fixed (g := fun s : State => s.br) (by exact hregion) (s.regions.filter q) { s with regions := s.regions.filter fun r => !q r }
  unfold freeStream
  dsimp only
  split <;> exact hregions _

/-- The read of a response's tag is no longer outstanding, and its bytes go to the command that waits for them. -/
def readAnswered (s : State) (i : Nat) (p : Pair) (r : ReadWait) (b : List Byte) : State :=
  match r.owner with
  | some (c, n) => deliverRead (setPair s i { p with reads := p.reads.erase r }) c n r b
  | none => setPair s i { p with reads := p.reads.erase r }

theorem br_readAnswered (s : State) (i : Nat) (p : Pair) (r : ReadWait) (b : List Byte) :
    (readAnswered s i p r b).br = (setPair s i { p with reads := p.reads.erase r }).br := by
  unfold readAnswered
  split <;> rfl

theorem applyReadResp_eq {p : Pair} {r : ReadWait} (hp : getPair s i = some p) (hr : p.reads.find? (fun r => decide (r.tag = fr.tag)) = some r)
    (hopen : NoneCloses s) : applyReadResp fr i s = readAnswered s i p r fr.payload := by
  have hopen' : NoneCloses (readAnswered s i p r fr.payload) := fun x hx => hopen x (by rw [br_readAnswered] at hx; exact hx)
  rw [← settleCloses_of_none hopen']
  simp only [applyReadResp, hp, hr]
  rfl

/-- The state in which a migration out, with its command, is no longer under way. -/
def withoutOut (s : State) (m : MigOut) : State :=
  { s with
    br := { s.br with migOut := s.br.migOut.filter fun x => decide (x ≠ m) }
    inProgress := s.inProgress.filter fun q => !decide (q.f = m.f ∧ q.tag = m.tag ∧ q.opcode = 0x0212) }

/-- An accepted migration frees its stream and is no longer under way. -/
theorem migAccepted_spec (s : State) (m : MigOut) (h : Nat) : (getStream (migAccepted s m h) m.handle).state = .free ∧ m ∉ (migAccepted s m h).br.migOut ∧
    (migAccepted s m h).br.pairs = s.br.pairs := by
  obtain ⟨v, hv⟩ : ∃ v, withoutOut s m = v := ⟨_, rfl⟩
  obtain ⟨F, hF⟩ := postResult_frame (freeStream v m.handle) m.f 0x0212 m.tag stOK h
  have heq : migAccepted s m h = { freeStream v m.handle with funcs := F } := by
    rw [← hF, ← hv]
    rfl
  have hfree : getStream (freeStream v m.handle) m.handle = .reset := by
    rw [getStream, freeStream_streams]
    exact getStream_setStream ..
  rw [heq]
  refine ⟨congrArg Stream.state hfree, fun hin => ?_, ?_⟩
  · have hin' : m ∈ v.br.migOut := br_freeStream v m.handle ▸ hin
    rw [← hv] at hin'
    simpa using (List.mem_filter.1 hin').2
  · exact (congrArg BrSt.pairs (br_freeStream v m.handle)).trans (hv ▸ rfl)

/-- Settles O52: what is applied is applied to a state in which only the time, frames and pairs have changed. -/
theorem sequencedFramesAreApplied : Obligations.SequencedFramesAreApplied := by
  intro n fr dt s i q w hidx hq hwin hf hseq hopen hw
  have hstep {perm : Option Nat} {apply : Nat → State → State} := receive_expected (dt := dt) (perm := perm) (apply := apply) hidx hq hf hseq hopen
  refine ⟨fun ins ty hins harr hok hg => ?_, fun harr hok hg => ?_, fun harr hok hg => ?_, fun r harr hr hopen' => ?_, fun ch harr => ⟨fun hstart => ?_, fun m hacc hm hopen' => ?_⟩⟩
  · obtain ⟨v, z, hv, hz, hzr, -, hret⟩ := hstep (apply := applyWrite fr) hok
    rw [applyWrite, inboundGuard_of_grant hv hw hg] at hret
    obtain ⟨c, hc⟩ := hret.2 i z hz
    refine ⟨_, _, ?_, ⟨hc, hzr⟩, hret.mem.trans (devWritten_congr hv.mem hv.mon ..)⟩
    simp only [List.mem_cons, Prod.mk.injEq, List.not_mem_nil, or_false] at hins
    rcases hins with ⟨rfl, rfl⟩ | ⟨rfl, rfl⟩
    · rw [exec_writeFrame]
      exact congrArg Host.Outcome.next (if_pos harr)
    · rw [exec_migDataFrame]
      exact congrArg Host.Outcome.next (if_pos harr)
  · obtain ⟨v, z, hv, hz, hzr, -, hret⟩ := hstep (apply := applyReadReq fr) hok
    rw [applyReadReq, inboundGuard_of_grant hv hw hg, devRead_congr hv.mem hv.mon] at hret
    obtain ⟨hmem, y, hy, hyr, x, hx⟩ := respond_spec (fr := fr) (devRead s fr.addr.toNat fr.len.toNat) hz
    obtain ⟨c, hc⟩ := hret.2 i y hy
    refine ⟨_, ?_, ⟨_, ⟨hc, hyr.trans hzr⟩, x, hx⟩, hret.mem.trans (hmem.trans hv.mem)⟩
    rw [exec_readReqFrame]
    exact congrArg Host.Outcome.next (if_pos harr)
  · obtain ⟨v, z, hv, hz, hzr, -, hret⟩ := hstep (apply := applyAtomic fr) hok
    rw [applyAtomic, inboundGuard_of_grant hv hw hg, devRead_congr hv.mem hv.mon] at hret
    obtain ⟨u, hu⟩ : ∃ u, devWrite v fr.addr.toNat (leBytes 8 ((leNat (devRead s fr.addr.toNat 8) + leNat fr.payload) % 2 ^ 64)) = u := ⟨_, rfl⟩
    have hzu : getPair u i = some z := hu ▸ hz
    have humem : u.mem = devWritten s fr.addr.toNat (leBytes 8 ((leNat (devRead s fr.addr.toNat 8) + leNat fr.payload) % 2 ^ 64)) :=
      hu ▸ devWritten_congr hv.mem hv.mon ..
    rw [hu] at hret
    obtain ⟨hmem, y, hy, hyr, x, hx⟩ := respond_spec (fr := fr) (devRead s fr.addr.toNat 8) hzu
    obtain ⟨c, hc⟩ := hret.2 i y hy
    refine ⟨_, ?_, ⟨_, ⟨hc, hyr.trans hzr⟩, x, hx⟩, hret.mem.trans (hmem.trans humem)⟩
    rw [exec_atomicFrame]
    exact congrArg Host.Outcome.next (if_pos harr)
  · obtain ⟨v, z, hv, hz, hzr, hzw, hret⟩ := hstep (perm := none) (apply := applyReadResp fr) rfl
    rw [applyReadResp_eq hz (hzw ▸ hr) (fun x hx => hopen' x (hv.wins ▸ hx))] at hret
    obtain ⟨c, hc⟩ := hret.2 i _ ((congrArg (tfind · i) (congrArg BrSt.pairs (br_readAnswered v i z r fr.payload))).trans (getPair_setPair v i _))
    refine ⟨_, _, ?_, ⟨hc, hzr⟩, congrArg (·.erase r) hzw, fun d m e hown he => ?_⟩
    · rw [exec_readRespFrame]
      exact congrArg Host.Outcome.next (if_pos harr)
    · have hcores : (setPair v i { z with reads := z.reads.erase r }).cores = s.cores := hv.cores
      have he' : (getCore (setPair v i { z with reads := z.reads.erase r }) d).seq.dmaQ.find? (fun e => decide (e.n = m)) = some e := by
        rw [getCore, hcores]
        exact he
      rw [readAnswered, hown] at hret
      rw [getCore, hret.cores]
      exact deliverRead_spec he'
  · obtain ⟨v, z, hv, hz, hzr, -, hret⟩ := hstep (perm := none) (apply := applyMigCtrl fr ch) rfl
    have hfits : endFits (tick s dt) fr ch = true := if_neg (by rw [hstart]; decide)
    have happly : applyMigCtrl fr ch i v = { v with br := { v.br with
        migIn := (dropIn v fr.win fr.src).br.migIn ++ [⟨fr.win, fr.src, fr.payload⟩] } } := by
      simp only [applyMigCtrl, hstart, mcSTART]
      rfl
    rw [happly] at hret
    obtain ⟨c, hc⟩ := hret.2 i z hz
    refine ⟨_, _, ?_, ⟨hc, hzr⟩, ?_, hret.mem.trans hv.mem⟩
    · rw [exec_migCtrlFrame]
      simp only [execMigCtrlFrame, harr, hfits, Bool.and_self, if_true]
    · rw [hret.migIn]
      exact List.mem_append_right _ (List.mem_singleton_self _)
  · obtain ⟨v, z, hv, hz, hzr, -, hret⟩ := hstep (perm := none) (apply := applyMigCtrl fr ch) rfl
    have hfits : endFits (tick s dt) fr ch = true := if_neg (by rw [hacc]; decide)
    have hm' : findOut v fr.win fr.src = some m := by
      rw [← hm, findOut, findOut, hv.migOut]
    have happly : applyMigCtrl fr ch i v = migAccepted v m (nfld (leNat fr.payload) 31 16) := by
      simp only [applyMigCtrl, hacc, mcACCEPT, hm']
    obtain ⟨hfree, hgone, hpairs⟩ := migAccepted_spec v m (nfld (leNat fr.payload) 31 16)
    rw [happly] at hret
    obtain ⟨c, hc⟩ := hret.2 i z ((congrArg (tfind · i) hpairs).trans hz)
    refine ⟨_, _, ?_, ⟨hc, hzr⟩, ?_, ?_⟩
    · rw [exec_migCtrlFrame]
      simp only [execMigCtrlFrame, harr, hfits, Bool.and_self, if_true]
    · rw [getStream, hret.streams]
      exact hfree
    · rw [hret.migOut]
      exact hgone

end Sys2Proof.Machine
end


-- ==== Proofs: memory services and uncorrectable reads ====
section
/-! PROOFS. Background zeroing, scrub passes, lost tiers, and what an uncorrectable read does by its requester. -/

namespace Sys2Proof.Machine
open Sys2Proof

variable {s t u : State} {c : CoreId} {p : PartId} {a dt : Nat}

theorem exec_tier1ZeroDone : exec .tier1ZeroDone s = execTier1ZeroDone s := rfl
theorem exec_scrubPass {x : BitVec 48} {k b : Bool} : exec (.scrubPass x k b dt) s = execScrubPass x k b dt s := rfl
theorem exec_expanderDown {x : BitVec 2} : exec (.expanderDown x dt) s = execExpanderDown x dt s := rfl
theorem exec_lpddr6PllLoss : exec (.lpddr6PllLoss dt) s = execLpddr6PllLoss dt s := rfl
theorem exec_uncorrectableRead {r : Requester} {x : BitVec 48} {sym : BitVec 16} :
    exec (.uncorrectableRead r x sym dt) s = execUncorrectableRead r x sym dt s := rfl

/-! ### Records and retired pages -/

/-- A record is written while the runtime runs: the sequence number goes on by one. -/
theorem logError_runs (i : ErrInfo) (hrt : rtRuns s = true) :
    ∃ T F, logError s i = { s with tele := T, funcs := F } ∧ T.nextSeq = s.tele.nextSeq + 1 := by
  unfold logError
  rw [hrt]
  simp only [Bool.not_true, Bool.false_eq_true, if_false]
  split
  · exact ⟨_, s.funcs, rfl, rfl⟩
  · obtain ⟨F, hF⟩ := postEvent_frame { s with tele := _ } 0 evERROR _
    exact ⟨_, F, hF, rfl⟩

/-- The retirement of a page changes the list of retired pages, the records and the functions' messages. -/
theorem retirePage_frame (s : State) (a : Nat) (x : BitVec 3) :
    ∃ R T F, retirePage s a x = { s with mon := { s.mon with retired := R }, tele := T, funcs := F } := by
  unfold retirePage
  dsimp only
  split
  · exact ⟨_, _, _, rfl⟩
  · split
    · obtain ⟨T, F, h⟩ := logError_frame { s with mon := { s.mon with retired := s.mon.retired ++ [a / 4096] } }
        { errInfo cPAGE_RETIRED x with addr := some (BitVec.ofNat 48 (a / 4096 * 4096)) }
      exact ⟨_, T, F, h⟩
    · obtain ⟨T, F, h⟩ := logError_frame s { errInfo cPAGE_RETIRED x with addr := some (BitVec.ofNat 48 (a / 4096 * 4096)) }
      exact ⟨_, T, F, h⟩

theorem retireAt_frame (s : State) (a : Nat) : ∃ R T F, retireAt s a = { s with mon := { s.mon with retired := R }, tele := T, funcs := F } := by
  unfold retireAt
  split
  · exact retirePage_frame ..
  · exact ⟨_, _, _, rfl⟩

/-- A page that is not retired, with room on the list, is retired and recorded. -/
theorem retirePage_new (x : BitVec 3) (hrt : rtRuns s = true) (hnew : s.mon.retired.contains (a / 4096) = false) (hroom : s.mon.retired.length < 4096) :
    ∃ T F, retirePage s a x = { s with mon := { s.mon with retired := s.mon.retired ++ [a / 4096] }, tele := T, funcs := F } ∧
      T.nextSeq = s.tele.nextSeq + 1 := by
  obtain ⟨T, F, h, hseq⟩ := logError_runs (s := { s with mon := { s.mon with retired := s.mon.retired ++ [a / 4096] } })
    { errInfo cPAGE_RETIRED x with addr := some (BitVec.ofNat 48 (a / 4096 * 4096)) } hrt
  refine ⟨T, F, ?_, hseq⟩
  rw [← h]
  simp only [retirePage, hnew, Bool.false_eq_true, if_false, maxRetired, hroom, if_true]

/-- A corrected error below the sixteenth of a day is counted, and nothing is retired. -/
theorem noteCorrectedPage_few (hfew : (lastDay s.time (tget [] s.mon.pageErrs (a / 4096))).length < 15) :
    tget 0 (noteCorrectedPage s a).tele.corrected (if a < tier1Base then 1 else 2) = tget 0 s.tele.corrected (if a < tier1Base then 1 else 2) + 1 ∧
    (noteCorrectedPage s a).mon.retired = s.mon.retired ∧ (noteCorrectedPage s a).mem = s.mem := by
  have hnot : ¬16 ≤ (lastDay s.time (tget [] s.mon.pageErrs (a / 4096)) ++ [s.time]).length := by
    rw [List.length_append, List.length_singleton]
    omega
  unfold noteCorrectedPage
  dsimp only
  rw [if_neg hnot]
  refine ⟨?_, rfl, rfl⟩
  simp only [tmod, tget_tput_self]

/-! ### A core's read -/

/-- A task error stops its core with the cause. -/
theorem raiseTaskAt_phase (x : BitVec 8) (pc : BitVec 13) (at_ : Option (BitVec 48)) (sym : BitVec 16) :
    (getCore (abandonRest (raiseTaskAt s c x pc at_ sym) c) c).seq.phase = .stopped x pc ∧ (abandonRest (raiseTaskAt s c x pc at_ sym) c).mem = s.mem := by
  obtain ⟨v, hv⟩ : ∃ v, raiseTaskAt s c x pc at_ sym = v := ⟨_, rfl⟩
  have hphase : (getCore v c).seq.phase = .stopped x pc ∧ v.mem = s.mem := by
    have hcore : (getCore (modSeq s c fun q => { q with phase := .stopped x pc }) c).seq.phase = .stopped x pc := by
      rw [modSeq, modCore, getCore_setCore]
    rw [← hv]
    unfold raiseTaskAt
    dsimp only
    split
    · exact ⟨hcore, rfl⟩
    · exact ⟨hcore, rfl⟩
  rw [hv, abandonRest, modSeq, modCore, getCore_setCore]
  exact hphase

theorem mem_foldl_modSeq {α : Type} (g : α → Seq → Seq) (l : List α) (s : State) : (l.foldl (fun s k => modSeq s c (g k)) s).mem = s.mem := by
  induction l generalizing s with
  | nil => rfl
  | cons x l ih => exact ih (modSeq s c (g x))

theorem mem_zeroWord (s : State) (c : CoreId) (w : Nat) : (zeroWord s c w).mem = s.mem := by
  unfold zeroWord
  exact mem_foldl_modSeq _ _ s

theorem coreRead_spec (sym : BitVec 16) (hlive : taskLive s c = true) :
    ∃ pc, (getCore (coreRead s c a sym) c).seq.phase = .stopped (dataCause a) pc ∧ (coreRead s c a sym).mem = s.mem := by
  unfold coreRead
  rw [if_pos hlive]
  exact ⟨_, raiseTaskAt_phase ..⟩

theorem sramRead_spec (r : SramRow) (hlive : taskLive s c = true) :
    ∃ pc, (getCore (sramRead s c r) c).seq.phase = .stopped cSRAM_UE pc ∧ (sramRead s c r).mem = s.mem := by
  unfold sramRead
  rw [if_pos hlive]
  obtain ⟨hphase, hmem⟩ := raiseTaskAt_phase (s := zeroWord s c (rowWord r)) (c := c) cSRAM_UE (getCore (zeroWord s c (rowWord r)) c).seq.pc
    (some (BitVec.ofNat 48 (rowAddr r))) (rowDetail r)
  exact ⟨_, hphase, hmem.trans (mem_zeroWord ..)⟩

/-! ### The migration engine's read -/

/-- `t` is `s` but for cores, the bridge, partitions, telemetry, models and functions. -/
def Reclaims (s t : State) : Prop :=
  ∃ C B P T M F, t = { s with cores := C, br := B, parts := P, tele := T, models := M, funcs := F }

theorem Reclaims.refl (s : State) : Reclaims s s := ⟨_, _, _, _, _, _, rfl⟩

theorem Reclaims.trans (h : Reclaims s t) (k : Reclaims t u) : Reclaims s u := by
  obtain ⟨_, _, _, _, _, _, rfl⟩ := h
  obtain ⟨_, _, _, _, _, _, rfl⟩ := k
  exact ⟨_, _, _, _, _, _, rfl⟩

theorem StopsCores.reclaims (h : StopsCores s t) : Reclaims s t := by
  obtain ⟨_, _, _, _, rfl⟩ := h.frame
  exact ⟨_, _, _, _, _, _, rfl⟩

theorem reclaims_modPart (g : Part → Part) : Reclaims s (modPart s p g) := ⟨_, _, _, _, _, _, rfl⟩

theorem reclaims_triggerReclaim (j : JobNo) (r : BitVec 8) : Reclaims s (triggerReclaim s p j r) := by
  obtain ⟨v, hv⟩ : ∃ v, modJob s p j (fun b => { b with crashed := some (b.crashed.getD r) }) = v := ⟨_, rfl⟩
  have hsv : Reclaims s v := hv ▸ ⟨_, _, _, _, _, _, rfl⟩
  unfold triggerReclaim
  dsimp only
  rw [hv]
  split
  · have hstop : Reclaims v (closeCharge (stopCores v p) p) := stopsCores_stopCores.reclaims.trans stopsCores_closeCharge.reclaims
    exact (hsv.trans hstop).trans (reclaims_modPart _)
  · exact hsv

theorem reclaims_reclaimPlacements (m : ModelSlot) : Reclaims s (reclaimPlacements s m) :=
  foldl_rel (R := Reclaims) .refl (fun _ _ _ => .trans)
    (by exact fun _ _ => foldl_rel (R := Reclaims) .refl (fun _ _ _ => .trans) (by exact fun _ j => reclaims_triggerReclaim j rsFAULTED) _ _) _ s

theorem reclaims_postEvent (f : Func) (code : BitVec 16) (n : Nat) : Reclaims s (postEvent s f code n) := by
  obtain ⟨F, h⟩ := postEvent_frame s f code n
  rw [h]
  exact ⟨_, _, _, _, _, _, rfl⟩

theorem reclaims_faultModel (m : ModelSlot) : Reclaims s (faultModel s m) := by
  unfold faultModel
  split
  · exact .refl s
  · split
    · exact .refl s
    · obtain ⟨M, hM⟩ := modModel_frame s m fun y => { y with faulted := true }
      rw [hM]
      refine Reclaims.trans (t := { s with models := M }) ⟨s.cores, s.br, s.parts, s.tele, M, s.funcs, rfl⟩ ?_
      unfold postFaulted
      split
      · exact .refl _
      · exact foldl_rel (R := Reclaims) .refl (fun _ _ _ => .trans) (by exact fun _ _ => reclaims_postEvent ..) _ _

theorem reclaims_faultWeights (a : Nat) : Reclaims s (faultWeights s a) := by
  unfold faultWeights
  split
  · exact (reclaims_faultModel _).trans (reclaims_reclaimPlacements _)
  · exact .refl s

theorem chargeStream_frame (s : State) (h : Option Handle) (l : List (Nat × Nat)) : ∃ T, chargeStream s h l = { s with tele := T } := by
  unfold chargeStream
  split
  · exact foldl_rel (R := fun s t => ∃ T, t = { s with tele := T }) (fun _ => ⟨_, rfl⟩) (fun _ _ _ ⟨_, h⟩ ⟨T, h'⟩ => ⟨T, by rw [h', h]⟩)
      (by exact fun _ _ => ⟨_, rfl⟩) l s
  · exact ⟨_, rfl⟩

/-- The part of a COPY before a line that cannot be read is delivered, and the descriptor ends with DATA_ERROR. -/
theorem failAt_spec {w : MigWork} (hop : dOp w.desc = 0) (hout : outOfTag s (dTag w.desc) = none) :
    (failAt s w a).mig = { s.mig with
      work := s.mig.work.filter fun x => decide (x.desc ≠ w.desc), cur := s.mig.cur.filter fun c => decide (c ≠ w.desc)
      due := s.mig.due ++ [⟨⟨dTag w.desc, w.moved + (a / 64 * 64 - (dSrc w.desc + w.moved)), 2⟩, true⟩] } ∧
    (failAt s w a).mem = if 0 < a / 64 * 64 - (dSrc w.desc + w.moved) then
      devWritten s (dDst w.desc + w.moved) (devRead s (dSrc w.desc + w.moved) (a / 64 * 64 - (dSrc w.desc + w.moved))) else s.mem := by
  obtain ⟨n, hn⟩ : ∃ n, a / 64 * 64 - (dSrc w.desc + w.moved) = n := ⟨_, rfl⟩
  unfold failAt
  rw [if_pos hop, hn]
  dsimp only
  by_cases hpos : 0 < n
  · obtain ⟨T, hT⟩ := chargeStream_frame (devWrite s (dDst w.desc + w.moved) (devRead s (dSrc w.desc + w.moved) n)) (descStream s w.desc)
      ([(dSrc w.desc + w.moved, n)] ++ [(dDst w.desc + w.moved, n)])
    have hmove : movePlain s w.desc w.moved n = { devWrite s (dDst w.desc + w.moved) (devRead s (dSrc w.desc + w.moved) n) with tele := T } := by
      rw [← hT]
      simp only [movePlain, hop, if_true, hout]
    rw [if_pos hpos, if_pos hpos, hmove]
    exact ⟨rfl, rfl⟩
  · rw [if_neg hpos, if_neg hpos]
    exact ⟨rfl, rfl⟩

theorem migrationRead_spec {w : MigWork} (sym : BitVec 16) (hw : s.mig.cur.bind (workOf s) = some w) (hreads : readsNow s w a = true) :
    (migrationRead s a sym).mig = (failAt s w a).mig ∧ (migrationRead s a sym).mem = (failAt s w a).mem := by
  obtain ⟨v, hv⟩ : ∃ v, failAt s w a = v := ⟨_, rfl⟩
  obtain ⟨T, F, hlog⟩ := logError_frame v { errInfo (dataCause a) (errSource (dataCause a)) with addr := some (BitVec.ofNat 48 a), detail := sym }
  obtain ⟨R, T', F', hret⟩ := retireAt_frame { v with tele := T, funcs := F } a
  obtain ⟨C, B, P, T'', M, F'', hfault⟩ := reclaims_faultWeights (s := { v with mon := { v.mon with retired := R }, tele := T', funcs := F' }) a
  have heq : migrationRead s a sym = { v with mon := { v.mon with retired := R }, cores := C, br := B, parts := P, tele := T'', models := M, funcs := F'' } := by
    simp only [migrationRead, hw, hreads, hv, Bool.not_true, Bool.false_eq_true, if_false, hlog, hret, hfault]
  rw [heq, hv]
  exact ⟨rfl, rfl⟩

/-! ### The soundboard's read -/

theorem inboxRead_spec {h : Handle} (hin : (getStream s h).state ≠ .free ∧ ibAddr (getStream s h) ≤ a ∧ a < ibAddr (getStream s h) + ibBytes (getStream s h)) :
    (getStream (inboxRead s h a) h).badLines = (getStream s h).badLines ++ [lineCounter (getStream s h) a] ∧
    (inboxRead s h a).fatal = s.fatal ∧ (inboxRead s h a).mem = s.mem := by
  obtain ⟨v, hv⟩ : ∃ v, modStream s h (fun x => { x with badLines := x.badLines ++ [lineCounter x a] }) = v := ⟨_, rfl⟩
  obtain ⟨T, F, hlog⟩ := logError_frame v { errInfo cSB_DATA 5 with addr := some (BitVec.ofNat 48 a), handle := some h }
  obtain ⟨R, T', F', hret⟩ := retireAt_frame { v with tele := T, funcs := F } a
  have heq : inboxRead s h a = { v with mon := { v.mon with retired := R }, tele := T', funcs := F' } := by
    unfold inboxRead
    dsimp only
    rw [if_pos hin, hv, hlog, hret]
  rw [heq, ← hv]
  exact ⟨congrArg Stream.badLines (getStream_setStream ..), rfl, rfl⟩

/-! ### A partition's unit -/

theorem idle_stopAllCores {l : List CoreId} (hc : c ∈ l) (s : State) : (getCore (forAll l stopCore s) c).seq.phase = .idle := by
  induction l generalizing s with
  | nil => cases hc
  | cons d l ih =>
    have hrest : WindsUp (stopCore s d) (forAll l stopCore (stopCore s d)) := windsUp_forAll (by exact fun _ _ => windsUp_stopCore) _ _
    rcases List.mem_cons.1 hc with rfl | hc
    · exact (hrest.seqs c).phase (idle_stopCore c).1
    · exact ih hc (stopCore s d)

theorem idle_stopCores (hc : c ∈ partCores (getPart s p)) : (getCore (stopCores s p) c).seq.phase = .idle := idle_stopAllCores hc s

/-- A partition that is to be reset has its cores stopped at once. -/
theorem resetDue_spec (s : State) (p : PartId) (t : State)
    (ht : modPart (closeCharge (stopCores s p) p) p (fun x => { x with resetDue := true, stopping := true, endReq := none }) = t) :
    (getPart t p).resetDue = true ∧ (getPart t p).stopping = true ∧ ∀ d ∈ partCores (getPart s p), (getCore t d).seq.phase = .idle := by
  obtain ⟨v, hv⟩ : ∃ v, closeCharge (stopCores s p) p = v := ⟨_, rfl⟩
  have hidle (d : CoreId) (hd : d ∈ partCores (getPart s p)) : (getCore v d).seq.phase = .idle := by
    rw [← hv]
    exact (windsUp_closeCharge.seqs d).phase (idle_stopCores hd)
  rw [hv] at ht
  subst ht
  refine ⟨?_, ?_, hidle⟩
  · rw [modPart_eq, getPart_setPart]
  · rw [modPart_eq, getPart_setPart]

theorem partUnitError_spec (hp : partOfCore s c = some p) : (getPart (partUnitError s c) p).resetDue = true ∧ (getPart (partUnitError s c) p).stopping = true ∧
    ∀ d ∈ partCores (getPart s p), (getCore (partUnitError s c) d).seq.phase = .idle := by
  unfold partUnitError
  rw [hp]
  dsimp only
  have hstop (i : ErrInfo) := resetDue_spec (logError s i) p _ rfl
  have hparts (i : ErrInfo) : getPart (logError s i) p = getPart s p := by
    obtain ⟨T, F, h⟩ := logError_frame s i
    rw [h]
    rfl
  simp only [hparts] at hstop
  exact hstop _

/-! ### Device errors -/

theorem task_stopNoGrace (s : State) (p : PartId) : (getPart (stopNoGrace s p) p).task = none := by
  unfold stopNoGrace
  split
  next h => exact h
  · exact task_unbind _ p

theorem task_stopAll (s : State) (p : PartId) : (getPart (stopAll s) p).task = none := by
  have hall (l : List PartId) (s : State) (hp : p ∈ l) : (getPart (forAll l stopNoGrace s) p).task = none := by
    induction l generalizing s with
    | nil => cases hp
    | cons q l ih =>
      have hrest : WindsUp (stopNoGrace s q) (forAll l stopNoGrace (stopNoGrace s q)) := windsUp_forAll (by exact fun _ _ => windsUp_stopNoGrace) _ _
      rcases List.mem_cons.1 hp with rfl | hp
      · exact hrest.task p (task_stopNoGrace s p)
      · exact ih (stopNoGrace s q) hp
  exact hall allParts s (mem_allParts p)

/-- What a device error leaves: the device fatal, no function ready, no task bound. -/
def DeviceDown (s : State) : Prop := s.fatal = true ∧ (∀ f, (getFn s f).ready = false) ∧ ∀ p, (getPart s p).task = none

theorem WindsUp.fatal_eq (h : WindsUp s t) : t.fatal = s.fatal := congrArg (fun x => x.2.1) h.outside

theorem WindsUp.deviceDown (h : WindsUp s t) (hs : DeviceDown s) : DeviceDown t := by
  obtain ⟨hfatal, hready, htask⟩ := hs
  exact ⟨h.fatal_eq.trans hfatal, fun f => (h.fns f).ready.trans (hready f), fun p => h.task p (htask p)⟩

theorem deviceDown_stopAll (hfatal : s.fatal = true) (hready : ∀ f, (getFn s f).ready = false) : DeviceDown (stopAll s) := by
  have htask := task_stopAll s
  have hstop : WindsUp s (stopAll s) := windsUp_stopAll
  generalize stopAll s = t at htask hstop ⊢
  exact ⟨hstop.fatal_eq.trans hfatal, fun f => (hstop.fns f).ready.trans (hready f), htask⟩

theorem deviceDown_deviceError (i : ErrInfo) : DeviceDown (deviceError s i) := by
  obtain ⟨F, hF, hready⟩ := unready_spec (setFatal (noteAuto s i.cause))
  obtain ⟨u, hu⟩ : ∃ u, unready (setFatal (noteAuto s i.cause)) = u := ⟨_, rfl⟩
  rw [hu] at hF hready
  have hfatal : u.fatal = true := by
    rw [hF]
    rfl
  have hdown := deviceDown_stopAll (s := { u with aer := u.aer ++ [0] }) hfatal fun f => congrArg Fn.ready (hready f)
  obtain ⟨w, hw⟩ : ∃ w, stopAll { u with aer := u.aer ++ [0] } = w := ⟨_, rfl⟩
  rw [hw] at hdown
  unfold deviceError
  dsimp only
  rw [hu, hw]
  refine (windsUp_logError _).deviceDown ?_
  split
  · exact hdown
  · exact hdown

theorem windsUp_retireAt (a : Nat) : WindsUp s (retireAt s a) := by
  have hlist (R : List Nat) : WindsUp s { s with mon := { s.mon with retired := R } } := windsUp_of rfl rfl rfl rfl rfl
  refine windsUp_ite ?_ (.refl s)
  exact windsUp_ite (.refl s) ((windsUp_ite (hlist _) (.refl s)).trans (windsUp_logError _))

theorem windsUp_postFaulted (m : ModelSlot) : WindsUp s (postFaulted s m) := by
  unfold postFaulted
  split
  · exact .refl s
  · exact windsUp_foldl (by exact fun _ _ => windsUp_postMsg ..) _ s

theorem windsUp_faultModel (m : ModelSlot) : WindsUp s (faultModel s m) := by
  unfold faultModel
  split
  · exact .refl s
  · exact windsUp_ite (.refl s) ((windsUp_modModel m _).trans (windsUp_postFaulted m))

theorem windsUp_reclaimPlacements (m : ModelSlot) : WindsUp s (reclaimPlacements s m) :=
  windsUp_foldl (by exact fun _ _ => windsUp_foldl (by exact fun _ j => windsUp_triggerReclaim j rsFAULTED) _ _) _ s

theorem windsUp_faultWeights (a : Nat) : WindsUp s (faultWeights s a) := by
  unfold faultWeights
  split
  · exact (windsUp_faultModel _).trans (windsUp_reclaimPlacements _)
  · exact .refl s

theorem deviceDown_hostRead (a : Nat) : DeviceDown (hostRead s a) :=
  (windsUp_faultWeights a).deviceDown ((windsUp_retireAt a).deviceDown (deviceDown_deviceError _))

/-! ### The rows -/

/-- A read of a memory that the device has is answered by its requester, at the row's time. -/
theorem uncorrectableRead_eq {r : Requester} {x : BitVec 48} {sym : BitVec 16} (hruns : devRuns s = true) (hx : x.toNat < tierEnd) :
    exec (.uncorrectableRead r x sym dt) s = .next (readFault (tick s dt) r x.toNat sym) := by
  rw [exec_uncorrectableRead]
  simp only [execUncorrectableRead, hruns, hx, decide_true, Bool.and_self, if_true]

theorem scrubPass_eq {x : BitVec 48} {k b : Bool} (hruns : devRuns s = true) (hx : x.toNat < tier2Base) :
    exec (.scrubPass x k b dt) s = .next (scrubLine (tick s dt) x.toNat k b) := by
  rw [exec_scrubPass]
  simp only [execScrubPass, hruns, hx, decide_true, Bool.and_self, if_true]

theorem getLsbD_oneBit (x : BitVec 2) (i : Nat) : (1#4 <<< x.toNat).getLsbD i = decide (i = x.toNat) := by
  by_cases hi : i < 4
  · have hall : ∀ x : BitVec 2, ∀ i < 4, (1#4 <<< x.toNat).getLsbD i = decide (i = x.toNat) := by decide
    exact hall x i hi
  · rw [BitVec.getLsbD_of_ge _ _ (by omega)]
    exact (decide_eq_false (by omega)).symm

theorem expanderDown_spec (x : BitVec 2) (hrt : rtRuns s = true) :
    (∀ i, (expanderDown s x).pw.expDown.getLsbD i = (s.pw.expDown.getLsbD i || decide (i = x.toNat))) ∧
    (expanderDown s x).tele.nextSeq = s.tele.nextSeq + 1 ∧ (expanderDown s x).mem = s.mem := by
  obtain ⟨T, F, hlog, hseq⟩ := logError_runs (s := { s with pw := { s.pw with expDown := s.pw.expDown ||| (1#4 <<< x.toNat) } })
    { errInfo cEXPANDER_DOWN 3 with addr := some (BitVec.ofNat 48 (tier2Base + x.toNat * sliceSize)) } hrt
  unfold expanderDown
  dsimp only
  rw [hlog]
  refine ⟨fun i => ?_, hseq, rfl⟩
  simp only [BitVec.getLsbD_or, getLsbD_oneBit]

/-- Settles O47: each requester's answer to a line that cannot be read, and the services that meet one. -/
theorem memoryServicesAndUncorrectableReads : Obligations.MemoryServicesAndUncorrectableReads := by
  refine ⟨fun s dt => ?_, fun x sym dt s hruns hx => ?_⟩
  · obtain ⟨T, B, htick⟩ := tick_frame s dt
    refine ⟨fun hruns hdone => ?_, fun x hruns hx => ⟨?_, fun hfew => ?_, fun hrt hnew hroom => ?_⟩, fun x hrt hpresent hup => ?_, fun hreach => ?_⟩
    · rw [exec_tier1ZeroDone]
      simp only [execTier1ZeroDone, hruns, hdone, Bool.not_false, Bool.and_self, if_true]
    · exact scrubPass_eq hruns hx
    · rw [htick] at hfew
      obtain ⟨hcount, hret, hmem⟩ := noteCorrectedPage_few (s := { s with time := T, br := B }) hfew
      refine ⟨_, (scrubPass_eq hruns hx).trans (by rw [htick]; rfl), hcount, hret, hmem⟩
    · rw [htick] at hrt
      obtain ⟨T', F, heq, hseq⟩ := retirePage_new (s := { s with time := T, br := B }) (if x.toNat < tier1Base then 1 else 2) hrt hnew hroom
      have hnext : exec (.scrubPass x false true dt) s = .next (retirePage (tick s dt) x.toNat (if x.toNat < tier1Base then 1 else 2)) :=
        scrubPass_eq hruns hx
      rw [htick, heq] at hnext
      exact ⟨_, hnext, rfl, hseq, rfl⟩
    · rw [htick] at hrt
      have hruns : devRuns s = true := (Bool.and_eq_true_iff.1 hrt).1
      refine ⟨expanderDown { s with time := T, br := B } x, ?_, expanderDown_spec x hrt⟩
      rw [exec_expanderDown]
      simp only [execExpanderDown, hruns, hpresent, hup, Bool.not_false, Bool.and_self, if_true, htick]
    · rw [exec_lpddr6PllLoss]
      exact congrArg Host.Outcome.next (if_pos hreach)
  · obtain ⟨T, v, b, htick⟩ := tick_br s dt
    have hread {r : Requester} := uncorrectableRead_eq (dt := dt) (r := r) (sym := sym) hruns hx
    obtain ⟨u, hu⟩ : ∃ u, tick s dt = u := ⟨_, rfl⟩
    rw [hu] at htick hread
    have hmem : u.mem = s.mem := by rw [htick]
    refine ⟨fun c hlive => ?_, fun c bank row hlive => ?_, fun w hw hop hout hnow => ?_, fun h hfree hlo hhi => ?_, fun c p hp => ?_, fun r hr => ?_⟩
    · obtain ⟨pc, hphase, hm⟩ := coreRead_spec (s := u) (a := x.toNat) sym (by rw [htick]; exact hlive)
      exact ⟨_, pc, hread, hphase, hm.trans hmem⟩
    · obtain ⟨pc, hphase, hm⟩ := sramRead_spec (s := u) ⟨bank, row⟩ (by rw [htick]; exact hlive)
      exact ⟨_, pc, hread, hphase, hm.trans hmem⟩
    · have hw' : u.mig.cur.bind (workOf u) = some w := by rw [htick]; exact hw
      have hout' : outOfTag u (dTag w.desc) = none := by rw [htick]; exact hout
      have hnow' : readsNow u w x.toNat = true := by
        simp only [readsNow, hop] at hnow ⊢
        exact hnow
      obtain ⟨hmig, hm⟩ := migrationRead_spec sym hw' hnow'
      obtain ⟨hfmig, hfm⟩ := failAt_spec (a := x.toNat) hop hout'
      have humig : u.mig = s.mig ∧ u.mon = s.mon := by rw [htick]; exact ⟨rfl, rfl⟩
      rw [hfmig] at hmig
      rw [hfm, devWritten_congr hmem humig.2, devRead_congr hmem humig.2, hmem] at hm
      exact ⟨_, hread, (congrArg MigSt.work hmig).trans (by rw [humig.1]), (congrArg MigSt.due hmig).trans (by rw [humig.1]), hm⟩
    · have hstream : getStream u h = getStream s h := by rw [htick]; rfl
      obtain ⟨hlines, hfatal, hm⟩ := inboxRead_spec (s := u) (h := h) (a := x.toNat) (by rw [hstream]; exact ⟨hfree, hlo, hhi⟩)
      rw [hstream] at hlines
      exact ⟨_, _, hread, hlines, hfatal.trans (by rw [htick]), hm.trans hmem⟩
    · obtain ⟨hdue, hstop, hidle⟩ := partUnitError_spec (s := u) (c := c) (p := p) (by rw [htick]; exact hp)
      have hpart : getPart u p = getPart s p := by rw [htick]; rfl
      rw [hpart] at hidle
      exact ⟨_, hread, hdue, hstop, hidle⟩
    · simp only [List.mem_cons, List.not_mem_nil, or_false] at hr
      rcases hr with rfl | rfl | rfl | rfl
      · exact ⟨_, hread, deviceDown_hostRead _⟩
      · exact ⟨_, hread, deviceDown_deviceError _⟩
      · exact ⟨_, hread, deviceDown_deviceError _⟩
      · exact ⟨_, hread, deviceDown_deviceError _⟩

end Sys2Proof.Machine
end


-- ==== Proofs: tasks that start, slices ====
section
/-! PROOFS. The start of a task on a partition's cores, and the slices that start and expire. -/

namespace Sys2Proof.Machine
open Sys2Proof

variable {s t u : State} {p : PartId} {j : JobNo} {c : CoreId}

/-! ### What a starting task leaves of its partition's slice -/

/-- Memory and the slice of partition `p` stand; `j` remains the job that last ran where it is. -/
structure SliceStands (p : PartId) (j : JobNo) (s t : State) : Prop where
  mem : t.mem = s.mem
  sliceJob : (getPart t p).sliceJob = (getPart s p).sliceJob
  sliceStart : (getPart t p).sliceStart = (getPart s p).sliceStart
  sliceLen : (getPart t p).sliceLen = (getPart s p).sliceLen
  lastRan : (getPart s p).lastRan = j → (getPart t p).lastRan = j

theorem SliceStands.refl (p : PartId) (j : JobNo) (s : State) : SliceStands p j s s := ⟨rfl, rfl, rfl, rfl, id⟩

theorem SliceStands.trans (h : SliceStands p j s t) (k : SliceStands p j t u) : SliceStands p j s u :=
  ⟨k.mem.trans h.mem, k.sliceJob.trans h.sliceJob, k.sliceStart.trans h.sliceStart, k.sliceLen.trans h.sliceLen, fun hj => k.lastRan (h.lastRan hj)⟩

/-- The composition with the last operation first. -/
theorem SliceStands.after (k : SliceStands p j t u) (h : SliceStands p j s t) : SliceStands p j s u := h.trans k

theorem sliceStands_of (hm : t.mem = s.mem) (hp : t.parts = s.parts) : SliceStands p j s t := by
  have hpart : getPart t p = getPart s p := by rw [getPart, getPart, hp]
  exact ⟨hm, by rw [hpart], by rw [hpart], by rw [hpart], fun h => hpart ▸ h⟩

theorem sliceStands_modPart {q : PartId} {g : Part → Part} (hjob : ∀ x, (g x).sliceJob = x.sliceJob) (hstart : ∀ x, (g x).sliceStart = x.sliceStart)
    (hlen : ∀ x, (g x).sliceLen = x.sliceLen) (hran : ∀ x, x.lastRan = j → (g x).lastRan = j) : SliceStands p j s (modPart s q g) := by
  by_cases hq : p = q
  · subst hq
    refine ⟨rfl, ?_, ?_, ?_, fun h => ?_⟩ <;> rw [modPart_eq, getPart_setPart]
    · exact hjob _
    · exact hstart _
    · exact hlen _
    · exact hran _ h
  · have hpart : getPart (modPart s q g) p = getPart s p := getPart_setPart_ne _ _ _ _ hq
    exact ⟨rfl, by rw [hpart], by rw [hpart], by rw [hpart], fun h => by rw [hpart]; exact h⟩

theorem sliceStands_foldl {α : Type} {f : State → α → State} (h : ∀ s x, SliceStands p j s (f s x)) (l : List α) (s : State) :
    SliceStands p j s (l.foldl f s) := foldl_rel (.refl p j) (fun _ _ _ => .trans) h l s

theorem sliceStands_modTask (q : PartId) (g : Task → Task) : SliceStands p j s (modTask s q g) :=
  sliceStands_modPart (fun _ => rfl) (fun _ => rfl) (fun _ => rfl) fun _ => id

theorem sliceStands_modAcct (f : Func) (g : Account → Account) : SliceStands p j s (modAcct s f g) := sliceStands_of rfl rfl
theorem sliceStands_clearLate (l : List CoreId) : SliceStands p j s (clearLate s l) := sliceStands_of rfl rfl

theorem sliceStands_closeIdle : SliceStands p j s (closeIdle s p) := by
  unfold closeIdle
  dsimp only
  split
  · exact .refl p j s
  · exact SliceStands.after (sliceStands_modAcct _ _) (sliceStands_modPart (fun _ => rfl) (fun _ => rfl) (fun _ => rfl) fun _ => id)

theorem sliceStands_traceRec (bit event : Nat) (k : JobNo) (n : Nat) (b : W32) : SliceStands p j s (traceRec s p bit event k n b) := by
  obtain ⟨H, P, hframe, r, hpart⟩ := traceRec_frame s p bit event k n b
  exact ⟨by rw [hframe], by rw [hpart], by rw [hpart], by rw [hpart], fun h => by rw [hpart]; exact h⟩

theorem sliceStands_bindTask {k : Task} (hk : k.job = j) : SliceStands p j s (bindTask s p k) := by
  unfold bindTask
  dsimp only
  refine SliceStands.after (sliceStands_traceRec ..) (SliceStands.after (sliceStands_modTask _ _) (SliceStands.after (sliceStands_modPart ?_ ?_ ?_ ?_)
    (SliceStands.after (sliceStands_clearLate _) sliceStands_closeIdle)))
  · exact fun _ => rfl
  · exact fun _ => rfl
  · exact fun _ => rfl
  · intro x _
    split
    · exact hk
    · exact hk

theorem sliceStands_modCore (d : CoreId) (g : CoreSt → CoreSt) : SliceStands p j s (modCore s d g) := sliceStands_of rfl rfl

theorem sliceStands_claimCourses (q : PartId) (k : JobNo) : SliceStands p j s (claimCourses s q k) :=
  sliceStands_foldl (by exact fun _ _ => sliceStands_of rfl rfl) _ s

theorem sliceStands_putBwJob (q : PartId) (b : Job) : SliceStands p j s (putBwJob s q b) :=
  sliceStands_foldl (by exact fun _ _ => sliceStands_modCore _ _) _ s

theorem sliceStands_resumeRange : SliceStands p j s (resumeRange s c) := by
  unfold resumeRange
  dsimp only
  split
  · exact .refl p j s
  · unfold raiseTask raiseTaskAt
    dsimp only
    split
    · exact sliceStands_modCore _ _
    · exact SliceStands.after (sliceStands_modTask _ _) (sliceStands_modCore _ _)

theorem sliceStands_restoreTask (b : Job) (d : ImageDecl) (ctx : Ctx) (fresh : Bool) {k : Task} (hk : k.job = j) :
    SliceStands p j s (restoreTask s p b d ctx fresh k) := by
  unfold restoreTask forAll
  dsimp only
  refine SliceStands.after (sliceStands_foldl (by exact fun _ _ => sliceStands_resumeRange) _ _) (SliceStands.after (sliceStands_bindTask hk)
    (SliceStands.after (sliceStands_putBwJob _ _) (SliceStands.after (sliceStands_modPart ?_ ?_ ?_ ?_)
    (SliceStands.after (sliceStands_claimCourses _ _) (sliceStands_foldl ?_ _ s)))))
  · exact fun _ => rfl
  · exact fun _ => rfl
  · exact fun _ => rfl
  · exact fun _ => id
  · intro v x
    split
    · exact sliceStands_modCore _ _
    · exact .refl p j v

theorem sliceStands_startTask (b : Job) (d : ImageDecl) (n : Option Bundle) (v : Variant) (pegs : List (BitVec 8)) (hb : b.num = j) :
    SliceStands p j s (startTask s p b d n v pegs) := by
  unfold startTask
  dsimp only
  refine SliceStands.after (sliceStands_bindTask hb) (SliceStands.after (sliceStands_putBwJob _ _) (SliceStands.after (sliceStands_modPart ?_ ?_ ?_ ?_)
    (SliceStands.after (sliceStands_claimCourses _ _) (sliceStands_foldl (by exact fun _ _ => sliceStands_modCore _ _) _ s))))
  · exact fun _ => rfl
  · exact fun _ => rfl
  · exact fun _ => rfl
  · exact fun _ => id

theorem sliceStands_runJob (b : Job) (hs : b.stopped = none) (hb : b.num = j) : SliceStands p j s (runJob s p b) := by
  unfold runJob
  rw [hs]
  split
  · exact .refl p j s
  · split
    next hnone => cases hnone
    · unfold runProgram
      split
      · exact .refl p j s
      · split
        · exact sliceStands_of rfl rfl
        · split
          · exact sliceStands_restoreTask _ _ _ _ hb
          · exact sliceStands_startTask _ _ _ _ _ hb
    · exact .refl p j s

/-! ### What a started task finds -/

/-- A core that runs from the start of its stream. -/
def RunsFresh (s : State) (c : CoreId) : Prop := (getCore s c).seq.phase = .running ∧ (getCore s c).seq.pc = 0

theorem runsFresh_modCore {d : CoreId} {g : CoreSt → CoreSt} (hg : ∀ x, x.seq.phase = .running ∧ x.seq.pc = 0 → (g x).seq.phase = .running ∧ (g x).seq.pc = 0)
    (h : RunsFresh s c) : RunsFresh (modCore s d g) c := by
  unfold RunsFresh
  by_cases hd : c = d
  · subst hd
    rw [modCore_eq, getCore_setCore]
    exact hg _ h
  · rw [modCore_eq, getCore_setCore_ne _ _ _ _ hd]
    exact h

theorem runsFresh_startCore {o : Bool} {v : Variant} {i : Nat} {sp : SpTask} {img : StImage} {pegs : List (BitVec 8)} :
    RunsFresh (modCore s c fun y => startCore y o v i sp img pegs) c := by
  unfold RunsFresh
  rw [modCore_eq, getCore_setCore]
  exact ⟨rfl, rfl⟩

/-- Every core of a list that is started runs from the start of its stream, whatever the others do. -/
theorem runsFresh_startAll {f : State → CoreId × Nat → State} {o : State → CoreId → Bool} {v : Variant} {sp : SpTask} {img : StImage} {pegs : List (BitVec 8)}
    (hf : ∀ s d i, f s (d, i) = modCore s d fun y => startCore y (o s d) v i sp img pegs) (l : List (CoreId × Nat)) (s : State)
    (h : c ∈ l.map Prod.fst ∨ RunsFresh s c) : RunsFresh (l.foldl f s) c := by
  induction l generalizing s with
  | nil => exact h.resolve_left List.not_mem_nil
  | cons x l ih =>
    obtain ⟨d, i⟩ := x
    refine ih _ ?_
    rw [hf]
    rcases h with h | h
    · rcases List.mem_cons.1 h with rfl | h
      · exact .inr runsFresh_startCore
      · exact .inl h
    · exact .inr (runsFresh_modCore (fun _ _ => ⟨rfl, rfl⟩) h)

theorem cores_bindTask (s : State) (p : PartId) (k : Task) : (bindTask s p k).cores = s.cores := by
  obtain ⟨P, T, hidle⟩ := closeIdle_frame s p
  unfold bindTask
  dsimp only
  rw [hidle]
  obtain ⟨H, P', h, -⟩ := traceRec_frame _ p 0 1 _ _ _
  rw [h]
  rfl

theorem task_bindTask (s : State) (p : PartId) (k : Task) : ∃ z, (getPart (bindTask s p k) p).task = some z ∧ z.job = k.job ∧ z.bundle = k.bundle ∧
    z.committed = k.committed := by
  unfold bindTask
  dsimp only
  obtain ⟨H, P', -, r, hpart⟩ := traceRec_frame _ p 0 1 _ _ _
  rw [hpart]
  obtain ⟨v, hv⟩ : ∃ v, clearLate (closeIdle s p) (partCores (getPart s p)) = v := ⟨_, rfl⟩
  rw [hv, markTask, modTask, modPart_eq, getPart_setPart, modPart_eq, getPart_setPart]
  split
  · exact ⟨_, rfl, rfl, rfl, rfl⟩
  · exact ⟨_, rfl, rfl, rfl, rfl⟩

theorem runsFresh_of_cores (hc : t.cores = s.cores) (h : RunsFresh s c) : RunsFresh t c := by
  rw [RunsFresh, getCore, hc]
  exact h

theorem runsFresh_putBwJob (b : Job) (h : RunsFresh s c) : RunsFresh (putBwJob s p b) c := by
  have hall (l : List CoreId) (s : State) (h : RunsFresh s c) : RunsFresh (l.foldl (fun s d => modCore s d fun x => { x with bwKey := b.key, bwStep := b.step }) s) c := by
    induction l generalizing s with
    | nil => exact h
    | cons d l ih => exact ih _ (runsFresh_modCore (fun _ hx => hx) h)
  exact hall _ s h

theorem cores_claimCourses (s : State) (p : PartId) (k : JobNo) : (claimCourses s p k).cores = s.cores :=
  foldl_fixed (g := fun s : State => s.cores) (by exact fun _ _ => rfl) (partCourses (getPart s p)) s

/-- The partition's cores with the streams of a variant loaded, each at its start. -/
def startedCores (s : State) (p : PartId) (b : Job) (d : ImageDecl) (v : Variant) (pegs : List (BitVec 8)) : State :=
  (partCores (getPart s p)).zipIdx.foldl
    (fun s (c, i) => modCore s c fun y => startCore y (otherRan s c p b.num) v i (spTaskFor v b) (stImageFor d) pegs) s

/-- The partition ready for a task of the job: its cores started, its courses claimed, its semaphores initial. -/
def readyFor (s : State) (p : PartId) (b : Job) (d : ImageDecl) (v : Variant) (pegs : List (BitVec 8)) : State :=
  putBwJob (modPart (claimCourses (startedCores s p b d v pegs) p b.num) p fun x =>
    { x with sems := d.semInit.foldl (fun t e => tput 0 t (e.1 % 64) e.2) [], semNet := [], semWait := [] }) p b

theorem startTask_eq (s : State) (p : PartId) (b : Job) (d : ImageDecl) (n : Option Bundle) (v : Variant) (pegs : List (BitVec 8)) :
    startTask s p b d n v pegs = bindTask (readyFor s p b d v pegs) p (newTask (readyFor s p b d v pegs) b.num n v pegs) := rfl

theorem runsFresh_startedCores {b : Job} {d : ImageDecl} {v : Variant} {pegs : List (BitVec 8)} (hc : c ∈ partCores (getPart s p)) :
    RunsFresh (startedCores s p b d v pegs) c :=
  runsFresh_startAll (o := fun s c => otherRan s c p b.num) (by exact fun _ _ _ => rfl) _ s (.inl (by simpa using hc))

theorem runsFresh_readyFor {b : Job} {d : ImageDecl} {v : Variant} {pegs : List (BitVec 8)} (hc : c ∈ partCores (getPart s p)) :
    RunsFresh (readyFor s p b d v pegs) c := by
  have hstarted : RunsFresh (startedCores s p b d v pegs) c := runsFresh_startedCores hc
  unfold readyFor
  generalize startedCores s p b d v pegs = w at hstarted ⊢
  exact runsFresh_putBwJob b (runsFresh_of_cores (cores_claimCourses w p b.num) hstarted)

/-- A started task is bound to its partition, whose cores run from the start of their streams. -/
theorem startTask_spec (s : State) (p : PartId) (b : Job) (d : ImageDecl) (n : Option Bundle) (v : Variant) (pegs : List (BitVec 8)) :
    (∃ z, (getPart (startTask s p b d n v pegs) p).task = some z ∧ z.job = b.num ∧ z.bundle = n ∧ z.committed = false) ∧
    ∀ c ∈ partCores (getPart s p), RunsFresh (startTask s p b d n v pegs) c := by
  have hready (c : CoreId) (hc : c ∈ partCores (getPart s p)) : RunsFresh (readyFor s p b d v pegs) c := runsFresh_readyFor hc
  rw [startTask_eq]
  generalize readyFor s p b d v pegs = w at hready ⊢
  refine ⟨?_, fun c hc => runsFresh_of_cores (cores_bindTask ..) (hready c hc)⟩
  obtain ⟨z, hz, hjob, hbundle, hcomm⟩ := task_bindTask w p (newTask w b.num n v pegs)
  exact ⟨z, hz, hjob, hbundle, hcomm⟩

/-! ### Slices -/

theorem exec_sliceStart {dt : Nat} : exec (.sliceStart p dt) s = execSliceStart p dt s := rfl
theorem exec_sliceExpiry {dt : Nat} : exec (.sliceExpiry p dt) s = execSliceExpiry p dt s := rfl

/-- A job at the beginning of its slice: its overshoot is taken off, and the next limit of hard stops holds. -/
def newlySliced (b j : Job) : Job := if j.num = b.num then { j with overshoot := 0, hsLimit := j.hsNext } else j

/-- The partition at the beginning of a job's slice. -/
def slicedPart (s : State) (p : PartId) (b : Job) : Part :=
  { getPart s p with
    sliceJob := b.num, sliceStart := s.time, sliceLen := sliceTicks b, lastRan := b.num, jobs := (getPart s p).jobs.map (newlySliced b) }

theorem beginSlice_spec (s : State) (p : PartId) (b : Job) : getPart (beginSlice s p b) p = slicedPart s p b ∧ ∃ P, beginSlice s p b = { s with parts := P } := by
  refine ⟨?_, _, rfl⟩
  rw [beginSlice, modJob, modPart_eq, getPart_setPart, modPart_eq, getPart_setPart]
  rfl

/-- Whether a task may be bound does not depend on slices. -/
theorem canBind_beginSlice (s : State) (p : PartId) (b : Job) : canBind (beginSlice s p b) p = canBind s p := by
  obtain ⟨hpart, P, hP⟩ := beginSlice_spec s p b
  have hjobs : ((getPart s p).jobs.map (newlySliced b)).any (fun b => b.crashed.isSome || b.ended) = (getPart s p).jobs.any fun b => b.crashed.isSome || b.ended := by
    rw [List.any_map]
    refine congrArg _ (funext fun x => ?_)
    simp only [Function.comp, newlySliced]
    split <;> rfl
  have hcan (x : Part) (hx : getPart (beginSlice s p b) p = x) : canBind (beginSlice s p b) p =
      (x.valid && !s.pw.pfD3 && !x.stopping && !x.destroying && !(x.jobs.any fun b => b.crashed.isSome || b.ended) &&
        ((partCourses x).all fun k => decide ((getCourse s k).cst ≠ .c2)) && !((partCores x).any (bridgeBusy s))) := by
    unfold canBind
    rw [hx, hP]
    rfl
  rw [hcan _ hpart]
  simp only [slicedPart, hjobs]
  rfl

theorem runJob_placement {b : Job} {m : ModelSlot} (hs : b.stopped = none) (hk : b.kind = .placement m) : runJob s p b = s := by
  unfold runJob
  rw [hs, hk, ite_self]

/-- A program job without a context image starts its task. -/
theorem runJob_program {b : Job} {d : ImageDecl} {v : Variant} (hs : b.stopped = none) (hk : b.kind = .program d) (hctx : b.ctx = none)
    (hcan : canBind s p = true) (hleft : sliceLeft s (getPart s p) = true) (htask : (getPart s p).task = none)
    (hv : jobVariant s (getPart s p) b false = some v) (hver : jobVerified s b = true) : runJob s p b = startTask s p b d none v noPegs := by
  have hmay : ¬((!canBind s p) = true ∨ (!sliceLeft s (getPart s p)) = true ∨ (getPart s p).task.isSome = true) := by simp [hcan, hleft, htask]
  unfold runJob runProgram
  rw [if_neg hmay]
  simp only [hs, hk, hv, hver, hctx, Bool.not_true, Bool.false_eq_true, if_false]

/-- The slice of a job with no task of its own: the partition's slice begins, and the job runs where it can. -/
theorem newSlice_eq {b : Job} (htask : (getPart s p).task = none) (hmeet : (getPart s p).atMeet = false) :
    newSlice s p b = runJob (beginSlice s p b) p b := by
  have hpark : parkTask s p = s := by
    unfold parkTask
    rw [htask]
  simp only [newSlice, hmeet, Bool.false_and, Bool.false_eq_true, if_false, hpark]

theorem sliceStart_spec {b : Job} (htask : (getPart s p).task = none) (hmeet : (getPart s p).atMeet = false) (hs : b.stopped = none) (hnum : b.num ≠ 0)
    (hlen : 0 < sliceTicks b) {t : State} (ht : newSlice s p b = t) :
    (getPart t p).sliceJob = b.num ∧ (getPart t p).sliceStart = s.time ∧ (getPart t p).sliceLen = sliceTicks b ∧ (getPart t p).lastRan = b.num ∧
    t.mem = s.mem ∧ (∀ m, b.kind = .placement m → (getPart t p).task = none) ∧
    (∀ d v, b.kind = .program d → b.ctx = none → canBind s p = true → jobVariant s (getPart s p) b false = some v → jobVerified s b = true →
      ∃ k, (getPart t p).task = some k ∧ k.job = b.num ∧ k.bundle = none ∧ ∀ c ∈ partCores (getPart s p), RunsFresh t c) := by
  obtain ⟨hpart, P, hP⟩ := beginSlice_spec s p b
  have hcan := canBind_beginSlice s p b
  obtain ⟨w, hw⟩ : ∃ w, beginSlice s p b = w := ⟨_, rfl⟩
  rw [newSlice_eq htask hmeet, hw] at ht
  rw [hw] at hpart hP hcan
  have hstands : SliceStands p b.num w t := ht ▸ sliceStands_runJob b hs rfl
  have htaskw : (getPart w p).task = none := by rw [hpart]; exact htask
  refine ⟨hstands.sliceJob.trans (by rw [hpart]; rfl), hstands.sliceStart.trans (by rw [hpart]; rfl), hstands.sliceLen.trans (by rw [hpart]; rfl),
    hstands.lastRan (by rw [hpart]; rfl), hstands.mem.trans (by rw [hP]), fun m hk => ?_, fun d v hk hctx hmay hv hver => ?_⟩
  · rw [← ht, runJob_placement hs hk, htaskw]
  · have hleft : sliceLeft w (getPart w p) = true := by
      rw [hpart, hP]
      refine Bool.and_eq_true_iff.2 ⟨decide_eq_true hnum, decide_eq_true ?_⟩
      simp only [slicedPart, BitVec.sub_self]
      exact hlen
    have hv' : jobVariant w (getPart w p) b false = some v := by
      rw [← hv, hpart]
      simp only [jobVariant, hk]
      rfl
    have hver' : jobVerified w b = true := by
      rw [← hver, hP]
      rfl
    rw [runJob_program hs hk hctx (hcan.trans hmay) hleft htaskw hv' hver'] at ht
    obtain ⟨⟨z, hz, hjob, hbundle, -⟩, hcores⟩ := startTask_spec w p b d none v noPegs
    rw [ht] at hz hcores
    refine ⟨z, hz, hjob, hbundle, fun c hc => hcores c ?_⟩
    rw [hpart]
    exact hc

/-- Settles O43: a slice begins with the partition's record of it; what runs in it is the job's task, where it can be bound. -/
theorem slicesStartAndExpire : Obligations.SlicesStartAndExpire := by
  intro p dt s b
  obtain ⟨T, sl, sa, htick⟩ := tick_br s dt
  obtain ⟨u, hu⟩ : ∃ u, tick s dt = u := ⟨_, rfl⟩
  dsimp only
  rw [hu] at htick ⊢
  have hpart : getPart u p = getPart s p := by rw [htick]; rfl
  have hmem : u.mem = s.mem := by rw [htick]
  refine ⟨fun hslice htask hmeet hcur hnext hstopped hnum hlen => ?_, fun hexp => ⟨fun hothers => ?_, fun hnone hfind => ?_⟩⟩
  · have hstart : exec (.sliceStart p dt) s = .next (newSlice u p b) := by
      rw [exec_sliceStart]
      simp only [execSliceStart, hslice, if_true, hu, startSlice, hpart, hcur, hnext]
    obtain ⟨h1, h2, h3, h4, h5, h6, h7⟩ := sliceStart_spec (s := u) (b := b) (p := p) (by rw [hpart]; exact htask) (by rw [hpart]; exact hmeet)
      hstopped hnum hlen rfl
    rw [hpart] at h7
    refine ⟨_, hstart, h1, h2, h3, h4, h5.trans hmem, h6, fun d v hk hctx hcan hv hver => h7 d v hk hctx ?_ ?_ ?_⟩
    · rw [htick]
      exact hcan
    · rw [htick]
      exact hv
    · rw [htick]
      exact hver
  · obtain ⟨v, hv⟩ : ∃ v, modPart u p (fun x => { x with endReq := some u.time, reqGrace := x.grace }) = v := ⟨_, rfl⟩
    have hvp : getPart v p = { getPart s p with endReq := some u.time, reqGrace := (getPart s p).grace } := by
      rw [← hv, modPart_eq, getPart_setPart, hpart]
    obtain ⟨H, P, hframe, r, hrec⟩ := traceRec_frame v p 2 3 (getPart u p).job 0 ((((getPart u p).task.bind (·.bundle)).map (·.no)).getD 0)
    have hreq : exec (.sliceExpiry p dt) s = .next (requestEnd u p) := by
      rw [exec_sliceExpiry]
      simp only [execSliceExpiry, hu, hexp, if_true, sliceOver, hpart, hothers]
    have heq : requestEnd u p = traceRec v p 2 3 (getPart u p).job 0 ((((getPart u p).task.bind (·.bundle)).map (·.no)).getD 0) := by
      rw [← hv]
      rfl
    rw [heq] at hreq
    rw [hvp] at hrec
    refine ⟨_, hreq, ?_, ?_, ?_, ?_⟩
    · rw [hrec]
    · rw [hrec]
    · rw [hrec]
    · rw [hframe, ← hmem, ← hv]
      rfl
  · obtain ⟨hslice, P, hP⟩ := beginSlice_spec u p b
    have hend : (getPart u p).endReq = none := by
      simp only [expired, Bool.and_eq_true, Option.isNone_iff_eq_none] at hexp
      exact hexp.1.1.2
    refine ⟨beginSlice u p b, ?_, ?_, ?_, ?_, ?_⟩
    · rw [exec_sliceExpiry]
      simp only [execSliceExpiry, hu, hexp, if_true, sliceOver, hpart, hnone, hfind, Bool.false_eq_true, if_false]
    · rw [hslice]
      rfl
    · rw [hslice]
      rfl
    · rw [hslice]
      exact hend
    · rw [hP, hmem]

end Sys2Proof.Machine
end


-- ==== Proofs: bundles formed, bound and committed ====
section
/-! PROOFS. Bundles: formation from the queue, the binding of a resident bundle, and the commit. -/

namespace Sys2Proof.Machine
open Sys2Proof

variable {s t u : State} {p : PartId} {h : Handle} {dt : Nat}

theorem exec_bundleForm {m : ModelSlot} : exec (.bundleForm m p dt) s = execBundleForm m p dt s := rfl
theorem exec_bundleBind {b rec : Nat} {l : List NewBlock} : exec (.bundleBind b p rec l dt) s = execBundleBind b p rec l dt s := rfl
theorem exec_commitUpdate {l : List NewBlock} : exec (.commitUpdate p l dt) s = execCommitUpdate p l dt s := rfl

/-! ### Formation -/

/-- Every stream of the queue is in a bundle once the queue has been gone through. -/
theorem inBundle_foldl (l : List (Handle × Chunk)) (s : State) (hh : h ∈ l.map Prod.fst ∨ (getStream s h).inBundle = true) :
    (getStream (l.foldl (fun s a => modStream s a.1 fun x => { x with inBundle := true, resetNext := false }) s) h).inBundle = true := by
  induction l generalizing s with
  | nil => exact hh.resolve_left List.not_mem_nil
  | cons a l ih =>
    refine ih _ ?_
    by_cases ha : h = a.1
    · subst ha
      exact .inr (congrArg Stream.inBundle (getStream_setStream ..))
    · dsimp only
      rw [modStream_eq, getStream_setStream_ne _ _ _ _ ha]
      exact hh.imp_left fun hh => (List.mem_cons.1 hh).resolve_left ha

theorem formBundle_spec (s : State) (m : ModelSlot) (q : List (Handle × Chunk)) : ∃ b, (formBundle s m q).mem = s.mem ∧
    (formBundle s m q).bundles = s.bundles ++ [b] ∧ b.no = s.bundleNo + 1 ∧ b.model = m ∧ b.members.map (·.handle) = (q.take 256).map (·.1) ∧
    ∀ y ∈ b.members, (getStream (formBundle s m q) y.handle).inBundle = true := by
  have hkeep {β : Type} (g : State → β) (hg : ∀ s h x, g (setStream s h x) = g s) (l : List (Handle × Chunk)) (s : State) :
      g (l.foldl (fun s a => modStream s a.1 fun x => { x with inBundle := true, resetNext := false }) s) = g s :=
    foldl_fixed (by exact fun s a => hg s a.1 _) l s
  refine ⟨⟨s.bundleNo + 1, m, (q.take 256).map (formMember s), false, 0⟩, ?_, ?_, rfl, rfl, ?_, fun y hy => ?_⟩
  · exact hkeep (fun s => s.mem) (fun _ _ _ => rfl) _ _
  · exact hkeep (fun s => s.bundles) (fun _ _ _ => rfl) _ _
  · rw [List.map_map]
    rfl
  · obtain ⟨a, ha, rfl⟩ := List.mem_map.1 hy
    exact inBundle_foldl _ _ (.inl (List.mem_map_of_mem ha))

/-! ### Binding -/

/-- The members of a resident bundle are left where they are. -/
theorem resolveMembers_of_resident {x : Bundle} (hres : allResident s x = true) : resolveMembers s [] x = s := by
  have hall (l : List Member) (hl : ∀ m ∈ l, imageTier (getStream s m.handle) = 0) :
      l.foldl (fun s m => if stillFormed s x then bringBack s [] 0 m.reset m.handle else s) s = s := by
    induction l with
    | nil => rfl
    | cons m l ih =>
      have hback : bringBack s [] 0 m.reset m.handle = s := if_pos (.inl (hl m (List.mem_cons_self ..)))
      rw [List.foldl_cons, hback, ite_self]
      exact ih fun k hk => hl k (List.mem_cons_of_mem m hk)
  refine hall x.members fun m hm => ?_
  have htier := (Bool.and_eq_true_iff.1 (List.all_eq_true.1 hres m hm)).1
  exact of_decide_eq_true htier

theorem length_memberBytes (m : Member) : (memberBytes m).length = 64 := length_leBytes ..

theorem length_recordBytes (b : Bundle) (now : W64) : (recordBytes b now).length = 64 + 64 * b.members.length := by
  rw [recordBytes, List.length_append, length_leBytes, length_flatMap_const fun m _ => length_memberBytes m, Nat.mul_comm]

/-- Bytes read back where they were just written. -/
theorem rds_wrs_self (m : Tbl Byte) (a : Nat) (b : List Byte) : Memory.rds (Memory.wrs m a b) a b.length = b := by
  refine List.ext_getElem (by simp [Memory.rds]) fun i h1 h2 => ?_
  simp only [Memory.rds, List.getElem_map, List.getElem_range]
  exact Memory.rd_wrs_in h2

theorem bundles_bindTask (s : State) (p : PartId) (k : Task) : (bindTask s p k).bundles = s.bundles := by
  obtain ⟨P, T, hidle⟩ := closeIdle_frame s p
  unfold bindTask
  dsimp only
  rw [hidle]
  obtain ⟨H, P', h, -⟩ := traceRec_frame _ p 0 1 _ _ _
  rw [h]
  rfl

theorem bundles_readyFor (s : State) (p : PartId) (j : Job) (d : ImageDecl) (v : Variant) (pegs : List (BitVec 8)) :
    (readyFor s p j d v pegs).bundles = s.bundles := by
  have hcores (w : State) : (putBwJob w p j).bundles = w.bundles := foldl_fixed (g := fun s : State => s.bundles) (by exact fun _ _ => rfl) (partCores (getPart w p)) w
  have hcourses (w : State) : (claimCourses w p j.num).bundles = w.bundles :=
    foldl_fixed (g := fun s : State => s.bundles) (by exact fun _ _ => rfl) (partCourses (getPart w p)) w
  have hstarted : (startedCores s p j d v pegs).bundles = s.bundles :=
    foldl_fixed (g := fun s : State => s.bundles) (by exact fun _ _ => rfl) (partCores (getPart s p)).zipIdx s
  unfold readyFor
  exact (hcores _).trans ((hcourses _).trans hstarted)

theorem bundles_startTask (s : State) (p : PartId) (j : Job) (d : ImageDecl) (n : Option Bundle) (v : Variant) (pegs : List (BitVec 8)) :
    (startTask s p j d n v pegs).bundles = s.bundles := by
  rw [startTask_eq, bundles_bindTask, bundles_readyFor]

/-- A bundle as it is bound: its members as they stand at dispatch, and the place of its record. -/
def boundBundle (s : State) (y : Model) (x : Bundle) (anchored : Bool) (rec : Nat) : Bundle :=
  { x with members := x.members.map (bindMember s y), anchored := anchored, recAddr := rec }

theorem handles_boundBundle (s : State) (y : Model) (x : Bundle) (anchored : Bool) (rec : Nat) :
    (boundBundle s y x anchored rec).members.map (·.handle) = x.members.map (·.handle) := by
  rw [boundBundle, List.map_map]
  rfl

/-- The state with the bundle's record in memory, before its task starts. -/
def recorded (s : State) (y : Model) (b : Bundle) (anchored : Bool) (rec : Nat) : State :=
  { stampPegs (writeHeaders s y b anchored) y b with
    mem := Memory.wrs (stampPegs (writeHeaders s y b anchored) y b).mem rec (recordBytes b s.time)
    regions := (stampPegs (writeHeaders s y b anchored) y b).regions ++ [⟨rec, pages (64 + 64 * b.members.length), .bundle b.no⟩]
    bundles := (stampPegs (writeHeaders s y b anchored) y b).bundles.filter fun c => decide (c.no ≠ b.no) }

theorem bindTo_eq (s : State) (p : PartId) (j : Job) (y : Model) (x : Bundle) (v : Variant) (anchored : Bool) (rec : Nat) :
    bindTo s p j y x v anchored rec = svcGuards s true (bindPieces s y (boundBundle s y x anchored rec) rec)
      (startTask (recorded s y (boundBundle s y x anchored rec) anchored rec) p j y.decl (some (boundBundle s y x anchored rec)) v
        (pegRegs y ((boundBundle s y x anchored rec).members.map (·.peg)))) := rfl

theorem bindPieces_boundBundle (s : State) (y : Model) (x : Bundle) (anchored : Bool) (rec : Nat) :
    bindPieces s y (boundBundle s y x anchored rec) rec = bindPieces s y x rec := by
  simp only [bindPieces, boundBundle, List.length_map, List.map_map]
  rfl

theorem mem_recorded (s : State) (y : Model) (b : Bundle) (anchored : Bool) (rec : Nat) :
    (recorded s y b anchored rec).mem = Memory.wrs (stampPegs (writeHeaders s y b anchored) y b).mem rec (recordBytes b s.time) := by
  rw [recorded]

theorem parts_recorded (s : State) (y : Model) (b : Bundle) (anchored : Bool) (rec : Nat) : (recorded s y b anchored rec).parts = s.parts := by
  have hheaders : (writeHeaders s y b anchored).parts = s.parts := by
    unfold writeHeaders
    split
    · rfl
    · exact foldl_fixed (g := fun s : State => s.parts) (by exact fun _ _ => rfl) b.members s
  have hpegs (w : State) : (stampPegs w y b).parts = w.parts := foldl_fixed (g := fun s : State => s.parts) (by exact fun _ _ => rfl) b.members w
  exact (hpegs _).trans hheaders

/-- What a bundle finds when it is bound: its task, its record, its cores at their start. -/
theorem bindTo_spec {j : Job} {y : Model} {x : Bundle} (v : Variant) (anchored : Bool) {rec : Nat}
    (hg : ∀ q ∈ bindPieces s y x rec, svcGrant s true q.1 q.2 = true) {t : State} (ht : bindTo s p j y x v anchored rec = t) :
    ∃ k c, (getPart t p).task = some k ∧ k.job = j.num ∧ k.bundle = some c ∧ k.committed = false ∧ c.no = x.no ∧ c.recAddr = rec ∧
      c.members.map (·.handle) = x.members.map (·.handle) ∧ Memory.rds t.mem rec (64 + 64 * x.members.length) = recordBytes c s.time ∧
      (∀ q ∈ t.bundles, q.no ≠ x.no) ∧ ∀ d ∈ partCores (getPart s p), RunsFresh t d := by
  obtain ⟨c, hc⟩ : ∃ c, boundBundle s y x anchored rec = c := ⟨_, rfl⟩
  have hno : c.no = x.no ∧ c.recAddr = rec := hc ▸ ⟨rfl, rfl⟩
  have hhandles : c.members.map (·.handle) = x.members.map (·.handle) := hc ▸ handles_boundBundle ..
  have hlen : c.members.length = x.members.length := by
    have := congrArg List.length hhandles
    rwa [List.length_map, List.length_map] at this
  obtain ⟨w, hw⟩ : ∃ w, recorded s y c anchored rec = w := ⟨_, rfl⟩
  have hmem : Memory.rds w.mem rec (64 + 64 * x.members.length) = recordBytes c s.time := by
    rw [← hw, ← hlen, ← length_recordBytes c s.time]
    exact (congrArg (Memory.rds · rec _) (mem_recorded s y c anchored rec)).trans (rds_wrs_self ..)
  have hbundles : ∀ q ∈ w.bundles, q.no ≠ x.no := fun q hq => by
    rw [← hw] at hq
    have hq' := of_decide_eq_true (List.mem_filter.1 hq).2
    rwa [hno.1] at hq'
  have hparts : getPart w p = getPart s p := by
    rw [← hw, getPart, parts_recorded]
    rfl
  rw [bindTo_eq, hc, hw, svcGuards_of_granted (by rw [← hc, bindPieces_boundBundle]; exact hg)] at ht
  obtain ⟨⟨k, hk, hjob, hbundle, hcomm⟩, hcores⟩ := startTask_spec w p j y.decl (some c) v (pegRegs y (c.members.map (·.peg)))
  have hstands : SliceStands p j.num w t := ht ▸ sliceStands_startTask _ _ _ _ _ rfl
  have htb : t.bundles = w.bundles := ht ▸ bundles_startTask ..
  rw [ht] at hk hcores
  refine ⟨k, c, hk, hjob, hbundle, hcomm, hno.1, hno.2, hhandles, ?_, fun q hq => hbundles q (htb ▸ hq), fun d hd => hcores d ?_⟩
  · rw [hstands.mem]
    exact hmem
  · rw [hparts]
    exact hd

/-- A resident bundle that a partition accepts is bound. -/
theorem tryBind_eq {x : Bundle} {rec : Nat} {j : Job} {y : Model} {v : Variant} (hres : allResident s x = true) (hacc : acceptsModel s p x.model = some j)
    (hwrites : writesDone s x = true) (hformed : stillFormed s x = true) (hlow : lowestFor s p x.model = true) (hy : getModel s x.model = some y)
    (hv : jobVariant s (getPart s p) j (dueAnchor s y.decl x) = some v) (hver : jobVerified s j = true)
    (hspace : spaceOk s 0 tier1Base rec (pages (64 + 64 * x.members.length)) = true) :
    tryBind s x p rec = bindTo s p j y x v (dueAnchor s y.decl x) rec := by
  simp only [tryBind, hres, hwrites, hformed, hlow, hacc, hy, hv, hver, hspace, Bool.not_true, Bool.false_eq_true, or_self, if_false, if_true]

theorem stillFormed_of_find {b : Nat} {x : Bundle} (h : findBundle s b = some x) : stillFormed s x = true :=
  List.any_eq_true.2 ⟨x, List.mem_of_find?_eq_some h, by simp⟩

/-! ### The commit -/

/-- What of a stream says where its chunks and its generation stand. -/
def chunkView (x : Stream) : Bool × Bool × W32 × List Chunk × (Bool × Bool) × StreamState × Option (BitVec 24) :=
  (x.gen, x.inBundle, x.nextSeq, x.chunks, (x.resetFlag, x.resetNext), x.state, x.discard)

/-- What the reports of a task and the output of a chunk leave: memory, the partitions, other streams, and where every chunk stands. -/
structure KeepsChunks (l : List Handle) (s t : State) : Prop where
  mem : t.mem = s.mem
  parts : t.parts = s.parts
  others : OtherStreamsSame s t l
  view : ∀ h, chunkView (getStream t h) = chunkView (getStream s h)

section
variable {l : List Handle}

theorem keepsChunks_of_streams (hmem : t.mem = s.mem) (hparts : t.parts = s.parts) (hstreams : t.streams = s.streams) : KeepsChunks l s t :=
  ⟨hmem, hparts, otherStreamsSame_of_streams hstreams, fun h => by rw [getStream, hstreams]; rfl⟩

theorem keepsChunks_refl (s : State) : KeepsChunks l s s := keepsChunks_of_streams rfl rfl rfl

theorem keepsChunks_ite {c : Prop} [Decidable c] (ht : KeepsChunks l s t) (hu : KeepsChunks l s u) : KeepsChunks l s (if c then t else u) := by
  split
  · exact ht
  · exact hu

theorem KeepsChunks.after (k : KeepsChunks l t u) (h : KeepsChunks l s t) : KeepsChunks l s u :=
  ⟨k.mem.trans h.mem, k.parts.trans h.parts, otherStreamsSame_trans h.others k.others, fun x => (k.view x).trans (h.view x)⟩

theorem keepsChunks_foldl {α : Type} {g : State → α → State} (r : List α) (hg : ∀ s, ∀ a ∈ r, KeepsChunks l s (g s a)) (s : State) :
    KeepsChunks l s (r.foldl g s) := by
  induction r generalizing s with
  | nil => exact keepsChunks_refl s
  | cons a r ih => exact (ih (fun s b hb => hg s b (List.mem_cons_of_mem a hb)) _).after (hg s a (List.mem_cons_self ..))

theorem keepsChunks_modStream (hh : h ∈ l) {f : Stream → Stream} (hf : ∀ x, chunkView (f x) = chunkView x) (s : State) :
    KeepsChunks l s (modStream s h f) := by
  refine ⟨rfl, rfl, fun k hk => getStream_setStream_ne _ _ _ _ fun e => hk (e ▸ hh), fun k => ?_⟩
  rw [modStream_eq]
  by_cases hk : k = h
  · rw [hk, getStream_setStream, hf]
  · rw [getStream_setStream_ne _ _ _ _ hk]

theorem keepsChunks_hostWr (s : State) (f : Func) (a : Nat) (b : List Byte) : KeepsChunks l s (hostWr s f a b) := by
  unfold hostWr
  split
  · exact keepsChunks_refl s
  · exact keepsChunks_of_streams rfl rfl rfl

theorem keepsChunks_chargeHost (s : State) (f : Func) (n : Nat) : KeepsChunks l s (chargeHost s f n) := keepsChunks_of_streams rfl rfl rfl

theorem keepsChunks_putRecord (hh : h ∈ l) (token : BitVec 24) (g : RecFlags) (time : W32) (score : BitVec 16) (seq : W32) (s : State) :
    KeepsChunks l s (putRecord s h token g time score seq) := by
  unfold putRecord
  dsimp only
  split
  · exact keepsChunks_refl s
  · refine (keepsChunks_modStream hh (fun x => ?_) _).after ((keepsChunks_chargeHost _ _ _).after (keepsChunks_hostWr _ _ _ _))
    split <;> rfl

theorem keepsChunks_chunkRecords (hh : h ∈ l) (g : RecFlags) (toks : Tokens) (seq : W32) (s : State) :
    KeepsChunks l s (chunkRecords s h g toks seq) :=
  keepsChunks_foldl _ (fun s _ _ => keepsChunks_putRecord hh _ _ _ _ _ s) s

theorem keepsChunks_pcmRecord (hh : h ∈ l) (g : RecFlags) (seq : W32) (s : State) : KeepsChunks l s (pcmRecord s h g seq) := by
  unfold pcmRecord
  dsimp only
  split
  · exact (keepsChunks_modStream hh (by exact fun _ => rfl) _).after (keepsChunks_putRecord hh _ _ _ _ _ s)
  · exact keepsChunks_refl s

theorem keepsChunks_putPcm (hh : h ∈ l) (b : List Byte) (s : State) : KeepsChunks l s (putPcm s h b) := by
  unfold putPcm
  dsimp only
  split
  · exact keepsChunks_refl s
  · exact (keepsChunks_modStream hh (by exact fun _ => rfl) _).after
      ((keepsChunks_chargeHost _ _ _).after (keepsChunks_foldl _ (by exact fun s _ _ => keepsChunks_hostWr s _ _ _) s))

theorem keepsChunks_putSample (hh : h ∈ l) (y : W32) (s : State) : KeepsChunks l s (putSample s h y) := by
  unfold putSample
  exact (keepsChunks_putPcm hh _ _).after (keepsChunks_of_streams rfl rfl rfl)

theorem keepsChunks_synthSample (hh : h ∈ l) (s : State) : KeepsChunks l s (synthSample s h) := by
  unfold synthSample
  exact (keepsChunks_foldl _ (by exact fun s _ _ => keepsChunks_putSample hh _ s) _).after (keepsChunks_modStream hh (by exact fun _ => rfl) s)

theorem keepsChunks_synthSamples (hh : h ∈ l) (k : Nat) (s : State) : KeepsChunks l s (synthSamples k s h) := by
  induction k generalizing s with
  | zero => exact keepsChunks_refl s
  | succ k ih => exact (ih _).after (keepsChunks_synthSample hh s)

theorem keepsChunks_endSynth (hh : h ∈ l) (commit : Bool) (s : State) : KeepsChunks l s (endSynth s h commit) := by
  unfold endSynth
  dsimp only
  split
  · exact keepsChunks_refl s
  · refine (keepsChunks_modStream hh (by exact fun _ => rfl) _).after ?_
    split
    · exact keepsChunks_synthSamples hh _ s
    · exact keepsChunks_refl s

/-! What the reports of a task do. -/

theorem keepsChunks_setModel (s : State) (m : ModelSlot) (y : Model) : KeepsChunks l s (setModel s m y) := keepsChunks_of_streams rfl rfl rfl

theorem keepsChunks_bundleTokens (s : State) (p : PartId) (m : ModelSlot) (n : Nat) : KeepsChunks l s (bundleTokens s p m n).2 := by
  unfold bundleTokens
  dsimp only
  split
  · split
    · exact keepsChunks_refl s
    · exact keepsChunks_setModel ..
  · exact keepsChunks_refl s

theorem keepsChunks_applyStateStats (s : State) (p : PartId) (m : ModelSlot) : KeepsChunks l s (applyStateStats s p m) := by
  unfold applyStateStats
  dsimp only
  split
  · split
    · exact keepsChunks_refl s
    · exact keepsChunks_setModel ..
  · exact keepsChunks_refl s

theorem keepsChunks_applyPegReports (s : State) (p : PartId) (m : ModelSlot) (b : Bundle) :
    KeepsChunks (b.members.map (·.handle)) s (applyPegReports s p m b) := by
  unfold applyPegReports
  dsimp only
  split
  · refine keepsChunks_ite (keepsChunks_refl s) (keepsChunks_ite (keepsChunks_setModel ..) (keepsChunks_ite (keepsChunks_setModel ..) ?_))
    split
    · exact keepsChunks_setModel ..
    · refine (keepsChunks_foldl _ (fun s _ ha => ?_) _).after (keepsChunks_setModel _ _ _)
      exact keepsChunks_modStream (List.mem_map_of_mem (List.fst_mem_of_mem_zipIdx ha)) (by exact fun _ => rfl) s
  · exact keepsChunks_refl s

end

/-! The chunks of the members. -/

/-- A stream before and after the commit of its chunk. -/
structure Committed (r : Bool) (x y : Stream) : Prop where
  gen : y.gen = !x.gen
  inBundle : y.inBundle = false
  nextSeq : y.nextSeq = x.nextSeq + 1
  chunks : y.chunks = x.chunks.tail
  resetFlag : y.resetFlag = if r then x.resetNext else x.resetFlag
  state : y.state = x.state

/-- The commit's change to its stream. -/
def commitStream (f bstride : Nat) (r : Bool) (x : Stream) : Stream :=
  { passReset (passBow (passChunk x f) bstride) r with gen := !(passReset (passBow (passChunk x f) bstride) r).gen }

theorem committed_commitStream {x y : Stream} (hy : chunkView y = chunkView x) (hx : x.discard = none) (f bstride : Nat) (r : Bool) :
    Committed r x (commitStream f bstride r y) := by
  simp only [chunkView, Prod.mk.injEq] at hy
  obtain ⟨hgen, -, hseq, hchunks, ⟨hflag, hnext⟩, hstate, hdiscard⟩ := hy
  rw [commitStream, passChunk_of_keep (hdiscard.trans hx)]
  refine ⟨congrArg Bool.not hgen, rfl, congrArg (· + 1) hseq, congrArg List.tail hchunks, ?_, hstate⟩
  rw [← hflag, ← hnext]
  rfl

theorem endChunk_commit_eq (s : State) (h : Handle) (r : Bool) (toks : Tokens) : ∃ v f bstride, KeepsChunks [h] s v ∧
    (endChunk s h .commit r toks).1 = modStream v h (commitStream f bstride r) := by
  have hh : h ∈ [h] := List.mem_singleton_self h
  obtain ⟨w, hw⟩ : ∃ w, endSynth s h true = w := ⟨_, rfl⟩
  have hkeep : KeepsChunks [h] s w := hw ▸ keepsChunks_endSynth hh true s
  have hacct (v : State) (f : Func) (g : Account → Account) : KeepsChunks [h] v (modAcct v f g) := keepsChunks_of_streams rfl rfl rfl
  unfold endChunk
  simp only [if_neg (show ¬ChunkEnd.commit = ChunkEnd.silent by decide), if_true, decide_true, hw]
  exact ⟨_, _, _, (hacct _ _ _).after ((keepsChunks_chunkRecords hh _ _ _ _).after ((keepsChunks_pcmRecord hh _ _ _).after hkeep)), rfl⟩

/-- What one commit, or several, do beside their streams. -/
structure OnlyStreams (l : List Handle) (s t : State) : Prop where
  mem : t.mem = s.mem
  parts : t.parts = s.parts
  others : OtherStreamsSame s t l

theorem endChunk_commit {r : Bool} {toks : Tokens} (hd : (getStream s h).discard = none) :
    OnlyStreams [h] s (endChunk s h .commit r toks).1 ∧ Committed r (getStream s h) (getStream (endChunk s h .commit r toks).1 h) := by
  obtain ⟨v, f, bstride, hkeep, heq⟩ := endChunk_commit_eq s h r toks
  rw [heq, modStream_eq, getStream_setStream]
  exact ⟨⟨hkeep.mem, hkeep.parts, otherStreamsSame_trans hkeep.others (otherStreamsSame_setStream h _)⟩,
    committed_commitStream (hkeep.view h) hd f bstride r⟩

/-- One member's step of the commit. -/
def commitMember (toks : Tbl Tokens) : State × List DoneEntry → Member × Nat → State × List DoneEntry
  | a, (m, i) => ((endChunk a.1 m.handle .commit m.reset (tget [] toks i)).1, a.2 ++ (endChunk a.1 m.handle .commit m.reset (tget [] toks i)).2)

theorem commitMembers_spec (toks : Tbl Tokens) (l : List (Member × Nat)) (a : State × List DoneEntry) (hn : (l.map (·.1.handle)).Nodup)
    (hd : ∀ e ∈ l, (getStream a.1 e.1.handle).discard = none) :
    OnlyStreams (l.map (·.1.handle)) a.1 (l.foldl (commitMember toks) a).1 ∧
      ∀ e ∈ l, Committed e.1.reset (getStream a.1 e.1.handle) (getStream (l.foldl (commitMember toks) a).1 e.1.handle) := by
  induction l generalizing a with
  | nil => exact ⟨⟨rfl, rfl, otherStreamsSame_refl _ _⟩, fun _ he => absurd he List.not_mem_nil⟩
  | cons e l ih =>
    obtain ⟨hnot, hn⟩ := List.nodup_cons.1 hn
    obtain ⟨hfirst, hcommit⟩ := endChunk_commit (r := e.1.reset) (toks := tget [] toks e.2) (hd e (List.mem_cons_self ..))
    obtain ⟨b, hb⟩ : ∃ b, commitMember toks a e = b := ⟨_, rfl⟩
    have hb1 : b.1 = (endChunk a.1 e.1.handle .commit e.1.reset (tget [] toks e.2)).1 := hb ▸ rfl
    rw [← hb1] at hfirst hcommit
    have hne (k : Member × Nat) (hk : k ∈ l) : k.1.handle ≠ e.1.handle := fun he => hnot (List.mem_map.2 ⟨k, hk, he⟩)
    have hsame (k : Member × Nat) (hk : k ∈ l) : getStream b.1 k.1.handle = getStream a.1 k.1.handle :=
      hfirst.others _ fun he => hne k hk (List.mem_singleton.1 he)
    obtain ⟨hrest, hcommits⟩ := ih b hn fun k hk => (congrArg Stream.discard (hsame k hk)).trans (hd k (List.mem_cons_of_mem e hk))
    rw [List.foldl_cons, hb]
    refine ⟨⟨hrest.mem.trans hfirst.mem, hrest.parts.trans hfirst.parts, fun k hk => ?_⟩, fun k hk => ?_⟩
    · rw [List.map_cons, List.mem_cons, not_or] at hk
      exact (hrest.others k hk.2).trans (hfirst.others k fun he => hk.1 (List.mem_singleton.1 he))
    · rcases List.mem_cons.1 hk with rfl | hk
      · rw [hrest.others _ hnot]
        exact hcommit
      · rw [← hsame k hk]
        exact hcommits k hk

theorem afterChunks_of_active (l : List Handle) (s : State) (hl : ∀ h ∈ l, (getStream s h).state = .active) :
    forAll l (fun s h => afterChunk s [] h) s = s := by
  induction l with
  | nil => rfl
  | cons h l ih =>
    rw [forAll, List.foldl_cons, afterChunk_of_active (hl h (List.mem_cons_self ..))]
    exact ih fun k hk => hl k (List.mem_cons_of_mem h hk)

/-- The state with the reports of a bundle's task taken. -/
def reported (s : State) (p : PartId) (b : Bundle) : State :=
  applyStateStats (applyPegReports (bundleTokens s p b.model b.members.length).2 p b.model b) p b.model

theorem keepsChunks_reported (s : State) (p : PartId) (b : Bundle) : KeepsChunks (b.members.map (·.handle)) s (reported s p b) :=
  (keepsChunks_applyStateStats _ _ _).after ((keepsChunks_applyPegReports _ _ _ _).after (keepsChunks_bundleTokens _ _ _ _))

/-- The state with the members' chunks committed, and the DONE entries owed. -/
def membersCommitted (s : State) (p : PartId) (b : Bundle) : State × List DoneEntry :=
  b.members.zipIdx.foldl (commitMember (bundleTokens s p b.model b.members.length).1) (reported s p b, [])

/-- The bundle's job with its runs of errors ended, and its task settled. -/
def settledTask (s : State) (p : PartId) (j : JobNo) : State :=
  modTask (modJob s p j fun j => { j with errRuns := 0, hsRuns := 0 }) p fun t => { t with settled := true }

theorem task_settledTask {k : Task} (s : State) (p : PartId) (j : JobNo) (hk : (getPart s p).task = some k) :
    (getPart (settledTask s p j) p).task = some { k with settled := true } := by
  simp [settledTask, modTask, modJob, modPart, hk]

theorem streams_settledTask (s : State) (p : PartId) (j : JobNo) : (settledTask s p j).mem = s.mem ∧ (settledTask s p j).streams = s.streams := ⟨rfl, rfl⟩

theorem commitBundle_eq {k : Task} {b : Bundle} (hk : (getPart s p).task = some k) (hb : k.bundle = some b) (hc : k.committed = true) (hs : k.settled = false)
    (l : List NewBlock) : commitBundle s p l = forAll (b.members.map (·.handle)) (fun s h => afterChunk s l h)
      (postDone (settledTask (membersCommitted s p b).1 p k.job) (membersCommitted s p b).2) := by
  unfold commitBundle
  simp only [hk, hb, hc, hs]
  rfl

theorem handles_zipIdx (l : List Member) : l.zipIdx.map (·.1.handle) = l.map (·.handle) := by
  rw [show (fun e : Member × Nat => e.1.handle) = (fun m : Member => m.handle) ∘ Prod.fst from rfl, ← List.map_map, List.zipIdx_map_fst]

/-- The commit of a bundle whose members are active flips the generation of every one and passes its chunk. -/
theorem commitBundle_spec {k : Task} {b : Bundle} (hk : (getPart s p).task = some k) (hb : k.bundle = some b) (hc : k.committed = true) (hs : k.settled = false)
    (hn : (b.members.map (·.handle)).Nodup) (hm : ∀ m ∈ b.members, (getStream s m.handle).state = .active ∧ (getStream s m.handle).discard = none)
    {t : State} (ht : commitBundle s p [] = t) : t.mem = s.mem ∧ (getPart t p).task = some { k with settled := true } ∧
      OtherStreamsSame s t (b.members.map (·.handle)) ∧ ∀ m ∈ b.members, Committed m.reset (getStream s m.handle) (getStream t m.handle) := by
  rw [commitBundle_eq hk hb hc hs] at ht
  have hrep := keepsChunks_reported s p b
  obtain ⟨z, hz⟩ : ∃ z, membersCommitted s p b = z := ⟨_, rfl⟩
  have hview (m : Member) (r : Bool) (y : Stream) (h : Committed r (getStream (reported s p b) m.handle) y) : Committed r (getStream s m.handle) y := by
    have := hrep.view m.handle
    simp only [chunkView, Prod.mk.injEq] at this
    obtain ⟨hgen, -, hseq, hchunks, ⟨hflag, hnext⟩, hstate, -⟩ := this
    obtain ⟨hgen', hin, hseq', hchunks', hflag', hstate'⟩ := h
    rw [hgen] at hgen'
    rw [hseq] at hseq'
    rw [hchunks] at hchunks'
    rw [hflag, hnext] at hflag'
    exact ⟨hgen', hin, hseq', hchunks', hflag', hstate'.trans hstate⟩
  have hdiscard (m : Member) (hmem : m ∈ b.members) : (getStream (reported s p b) m.handle).discard = none := by
    have := hrep.view m.handle
    simp only [chunkView, Prod.mk.injEq] at this
    exact this.2.2.2.2.2.2.trans (hm m hmem).2
  obtain ⟨honly, hcommits⟩ := commitMembers_spec (bundleTokens s p b.model b.members.length).1 b.members.zipIdx (reported s p b, [])
    (by rw [handles_zipIdx]; exact hn) fun e he => hdiscard _ (List.fst_mem_of_mem_zipIdx he)
  rw [handles_zipIdx] at honly
  change OnlyStreams _ _ (membersCommitted s p b).1 at honly
  change ∀ e ∈ _, Committed _ _ (getStream (membersCommitted s p b).1 _) at hcommits
  rw [hz] at honly hcommits ht
  have hall (m : Member) (hmem : m ∈ b.members) : Committed m.reset (getStream s m.handle) (getStream z.1 m.handle) := by
    obtain ⟨i, hi, rfl⟩ := List.mem_iff_getElem.1 hmem
    exact hview _ _ _ (hcommits (b.members[i], i) (List.mem_zipIdx_iff_getElem?.2 (List.getElem?_eq_getElem hi)))
  have htask := task_settledTask z.1 p k.job (k := k) (by
    rw [getPart, honly.parts, hrep.parts]
    exact hk)
  have hsettled := streams_settledTask z.1 p k.job
  obtain ⟨w, hw⟩ : ∃ w, settledTask z.1 p k.job = w := ⟨_, rfl⟩
  rw [hw] at ht htask hsettled
  obtain ⟨hmemory, hstreams⟩ := hsettled
  obtain ⟨F, hF⟩ := postDone_frame w z.2
  have hstream (h : Handle) : getStream { w with funcs := F } h = getStream z.1 h := by rw [getStream, getStream, ← hstreams]
  rw [hF, afterChunks_of_active _ _ fun h hh => by
    obtain ⟨m, hmem, rfl⟩ := List.mem_map.1 hh
    rw [hstream]
    exact (hall m hmem).state.trans (hm m hmem).1] at ht
  rw [← ht]
  refine ⟨hmemory.trans (honly.mem.trans hrep.mem), htask, fun h hh => ?_, fun m hmem => ?_⟩
  · rw [hstream, honly.others h hh]
    exact hrep.others h hh
  · rw [hstream]
    exact hall m hmem

end Sys2Proof.Machine
end

section
/-! PROOFS. The settled statement. -/

namespace Sys2Proof.Machine
open Sys2Proof

/-- Settles O42: the members are left where they are when a resident bundle binds, and a commit passes the chunk of every one. -/
theorem bundlesAreFormedBoundAndCommitted : Obligations.BundlesAreFormedBoundAndCommitted := by
  intro p dt s hrt u
  obtain ⟨T, sl, sa, htick⟩ := tick_br s dt
  refine ⟨fun m hform => ?_, fun b x rec j y v hfatal hfind hres hacc hwrites hlow hy hv hver hspace hgrants => ?_,
    fun k b hk hc hs hb hn hm => ?_⟩
  · have hqueue : eligibleQueue u m = eligibleQueue s m := by
      rw [show u = _ from htick]
      rfl
    have hnext : exec (.bundleForm m p dt) s = .next (formBundle u m (eligibleQueue s m)) := by
      rw [exec_bundleForm, execBundleForm, hrt, if_pos (show (true && canForm (tick s dt) m p) = true from hform)]
    obtain ⟨c, hmem, hbundles, hno, hmodel, hhandles, hin⟩ := formBundle_spec u m (eligibleQueue s m)
    refine ⟨_, c, hnext, hmem.trans (by rw [show u = _ from htick]), hbundles.trans (by rw [show u = _ from htick]),
      hno.trans (by rw [show u = _ from htick]), hmodel, ?_, hin⟩
    rw [hqueue, hhandles]
  · have hin : (rtRuns s && !s.fatal && blocksOk s []) = true := by
      rw [hrt, hfatal]
      rfl
    have hbound := bindTo_spec (s := u) (p := p) (j := j) (y := y) (x := x) v (dueAnchor u y.decl x) (rec := rec)
      (by rw [show u = _ from htick]; exact hgrants) rfl
    have hparts : getPart u p = getPart s p := by
      rw [show u = _ from htick]
      rfl
    rw [hparts] at hbound
    have hnext : exec (.bundleBind b p rec [] dt) s = .next (bindTo u p j y x v (dueAnchor u y.decl x) rec) := by
      rw [exec_bundleBind, execBundleBind, hfind]
      refine congrArg Host.Outcome.next ((if_pos hin).trans ?_)
      rw [resolveMembers_of_resident (by rw [htick]; exact hres)]
      refine tryBind_eq ?_ hacc ?_ ?_ hlow ?_ ?_ ?_ ?_
      · rw [htick]; exact hres
      · rw [htick]; exact hwrites
      · rw [htick]; exact stillFormed_of_find hfind
      · rw [htick]; exact hy
      · rw [htick]; exact hv
      · rw [htick]; exact hver
      · rw [htick]; exact hspace
    obtain ⟨k, c, hk, hjob, hbundle, hcomm, hno, hrec, hhandles, hmem, hbundles, hcores⟩ := hbound
    exact ⟨_, k, c, hnext, hk, hjob, hbundle, hcomm, hno, hrec, hhandles, hmem, hbundles, hcores⟩
  · have hdue : (rtRuns s && commitDue (getPart s p) && blocksOk s []) = true := by
      rw [hrt, commitDue, hk]
      simp only [hc, hs, hb]
      rfl
    have hnext : exec (.commitUpdate p [] dt) s = .next (commitBundle u p []) := by
      rw [exec_commitUpdate]
      exact congrArg Host.Outcome.next (if_pos hdue)
    have hstream (h : Handle) : getStream u h = getStream s h := by
      rw [show u = _ from htick]
      rfl
    have hparts : getPart u p = getPart s p := by
      rw [show u = _ from htick]
      rfl
    obtain ⟨hmem, htask, hother, hcommits⟩ := commitBundle_spec (s := u) (by rw [hparts]; exact hk) hb hc hs hn
      (fun m hmem => by rw [hstream]; exact hm m hmem) rfl
    refine ⟨_, _, hnext, hmem.trans (by rw [show u = _ from htick]), htask, rfl, fun h hh => (hother h hh).trans (hstream h), fun m hmem => ?_⟩
    have hcommit := hcommits m hmem
    rw [hstream] at hcommit
    exact ⟨hcommit.gen, hcommit.inBundle, hcommit.nextSeq, hcommit.chunks, hcommit.resetFlag⟩

end Sys2Proof.Machine
end


-- ==== Proofs: the soundboard ====
section
/-! PROOFS. The soundboard: a sample taken, a frame computed, a synthesis sample put out. -/

namespace Sys2Proof.Machine
open Sys2Proof

variable {s t u : State} {h : Handle} {dt : Nat}

theorem exec_sampleTake {n : Nat} : exec (.sampleTake h n) s = execSampleTake h n s := rfl
theorem exec_frameCompute : exec (.frameCompute h dt) s = execFrameCompute h dt s := rfl
theorem exec_synthesisOutput {n : Nat} : exec (.synthesisOutput h n) s = execSynthesisOutput h n s := rfl

theorem sbRuns_of (hd : devRuns s = true) (hf : s.fatal = false) : sbRuns s = true := by rw [sbRuns, hd, hf]; rfl

theorem svcGuards_false_of_granted {l : List (Nat × Nat)} {ok : State} (hl : ∀ q ∈ l, svcGrant s false q.1 q.2 = true) : svcGuards s false l ok = ok := by
  have hnone : l.find? (fun x => !svcGrant s false x.1 x.2) = none := List.find?_eq_none.2 fun q hq => by simp [hl q hq]
  rw [svcGuards, hnone]

/-- The end of a stage does nothing more to a stream that is not closing. -/
theorem markDrained_of_open (hx : (getStream s h).state ≠ .closing) : markDrained s h = s :=
  if_neg (by simp [draining, hx])

theorem endClose_of_open (hx : (getStream s h).state ≠ .closing) : endClose s h = s :=
  if_neg (by simp [closeDone, hx])

/-! ### Sample stage -/

theorem takeSamples_one (hf : s.fatal = false) (hm : mayTakeSample (profileOf s (getStream s h)) (getStream s h) = true) :
    takeSamples 1 s h = takeSample s h := if_pos (by rw [hf, hm]; rfl)

theorem takeSample_eq (hg : ∀ q ∈ ringPieces (ibAddr (getStream s h)) (ibBytes (getStream s h)) (getStream s h).ibRd.toNat
      (sampleBytes (profileOf s (getStream s h)).inFmt.toNat), svcGrant s false q.1 q.2 = true) :
    ∃ v g, takeSample s h = modStream (sbCount s v) h g ∧ (g (getStream s h)).state = (getStream s h).state ∧
      (g (getStream s h)).ibRd = (getStream s h).ibRd + BitVec.ofNat 32 (sampleBytes (profileOf s (getStream s h)).inFmt.toNat) ∧
      (g (getStream s h)).ibWr = (getStream s h).ibWr ∧ (g (getStream s h)).sb = sbTake (profileOf s (getStream s h)) (getStream s h).bowKey (getStream s h).sb
        (sampleOf s (profileOf s (getStream s h)) (getStream s h) (sampleBytes (profileOf s (getStream s h)).inFmt.toNat)) :=
  ⟨_, _, svcGuards_false_of_granted hg, rfl, rfl, rfl, rfl⟩

/-! ### Frame stage -/

theorem length_fitBytes (n : Nat) (b : List Byte) : (fitBytes n b).length = n := by
  rw [fitBytes, List.length_take, List.length_append, List.length_replicate]
  omega

theorem slotBytes_ge (d : SbDecl) : 16 ≤ slotBytes d := by
  rw [slotBytes, cdiv]
  omega

theorem length_frameSlot (d : SbDecl) (c : SbCtx) (o : List W32) (e : W32) (run : BitVec 16) : (frameSlot d c o e run).length = slotBytes d := by
  have hge := slotBytes_ge d
  rw [frameSlot, List.length_append, length_fitBytes, length_leBytes]
  omega

theorem chunkReady_eq (s : State) (h : Handle) : chunkReady s h = s ∨ ∃ c, chunkReady s h = modStream s h fun x => { x with chunks := x.chunks ++ [c] } := by
  unfold chunkReady
  dsimp only
  split
  · exact .inl rfl
  · exact .inr ⟨_, rfl⟩

theorem chunkReady_of_boundary (hf : chunkFrames s (getStream s h) ≠ 0) (hb : pastBoundary (chunkFrames s (getStream s h)) (getStream s h) = 0) :
    ∃ c, chunkReady s h = modStream s h fun x => { x with chunks := x.chunks ++ [c] } :=
  ⟨_, if_neg fun hc => hc.elim hf fun hn => hn hb⟩

/-- A frame that has its samples needs no padding. -/
theorem padFrame_of_full (hop : hopLen (profileOf s (getStream s h)).sb ≤ (getStream s h).sb.hop) : padFrame s h = setStream s h (getStream s h) := by
  rw [padFrame, modStream_eq, Nat.sub_eq_zero_of_le hop]
  rfl

/-- A stream with its next frame in the ring. -/
def framed (d : SbDecl) (r : FrameOut) (run : BitVec 16) (x : Stream) : Stream := { x with sb := afterFrame d x.sb r run, frWr := x.frWr + 1 }

theorem chunkReady_stream (s : State) (h : Handle) : (chunkReady s h).mem = s.mem ∧ OtherStreamsSame s (chunkReady s h) [h] ∧
    ∃ l, getStream (chunkReady s h) h = { getStream s h with chunks := l } := by
  rcases chunkReady_eq s h with hc | ⟨c, hc⟩
  · rw [hc]
    exact ⟨rfl, otherStreamsSame_refl s [h], _, rfl⟩
  · rw [hc, modStream_eq, getStream_setStream]
    exact ⟨rfl, otherStreamsSame_setStream h _, _, rfl⟩

/-- A frame of a stream that is not closing: its slot is written, and its chunk is ready where the frame ends one. -/
theorem computeFrame_eq (hopen : (getStream s h).state ≠ .closing)
    (hg : svcGrant s true (frameAddr s (getStream s h)) (slotBytes (profileOf s (getStream s h)).sb) = true) :
    let d := (profileOf s (getStream s h)).sb
    let r := frameOut d (getStream s h).sb.muSet (getStream s h).sb.mu (frameSamples d (getStream s h).sb)
    let run := silentNext (profileOf s (getStream s h)) r.energy (getStream s h).sb.silentRun
    ∃ v, v.mem = Memory.wrs s.mem (frameAddr s (getStream s h)) (frameSlot d (getStream s h).sb r.o r.energy run) ∧ v.streams = s.streams ∧
      v.models = s.models ∧ v.profiles = s.profiles ∧ computeFrame s h = chunkReady (modStream v h (fun _ => framed d r run (getStream s h))) h := by
  intro d r run
  obtain ⟨v, hv⟩ : ∃ v, modAcct { s with
    mem := Memory.wrs s.mem (frameAddr s (getStream s h)) (frameSlot d (getStream s h).sb r.o r.energy run)
    sbtm := { s.sbtm with frames := noteLoad s.time (if d.fft = 3 then 3 else 2) s.sbtm.frames } } (getStream s h).client
      (fun a => { a with frameUnits := a.frameUnits + (if d.fft = 3 then 3 else 2) }) = v := ⟨_, rfl⟩
  have hframe : v.mem = Memory.wrs s.mem (frameAddr s (getStream s h)) (frameSlot d (getStream s h).sb r.o r.energy run) ∧ v.streams = s.streams ∧
      v.models = s.models ∧ v.profiles = s.profiles := by
    rw [← hv]
    exact ⟨rfl, rfl, rfl, rfl⟩
  obtain ⟨hmem, hstreams, hmodels, hprofiles⟩ := hframe
  refine ⟨v, hmem, hstreams, hmodels, hprofiles, ?_⟩
  have hready : (getStream (chunkReady (modStream v h fun _ => framed d r run (getStream s h)) h) h).state ≠ .closing := by
    obtain ⟨-, -, l, hl⟩ := chunkReady_stream (modStream v h fun _ => framed d r run (getStream s h)) h
    rw [hl, modStream_eq, getStream_setStream]
    exact hopen
  have hlen := length_frameSlot d (getStream s h).sb r.o r.energy run
  unfold computeFrame
  dsimp only
  rw [svcGuard, if_pos (by rw [hlen]; exact hg)]
  have hclose : endClose (markDrained (chunkReady (modStream v h fun _ => framed d r run (getStream s h)) h) h) h =
      chunkReady (modStream v h fun _ => framed d r run (getStream s h)) h := by
    rw [markDrained_of_open hready, endClose_of_open hready]
  rw [← hclose, ← hv]
  rfl

/-- What a computed frame leaves: its slot in the ring, the stream one frame on, and a chunk where it ends one (R42). -/
theorem computeFrame_spec {x : Stream} (hx : getStream s h = x) (hopen : x.state ≠ .closing)
    (hg : svcGrant s true (frameAddr s x) (slotBytes (profileOf s x).sb) = true) {t : State} (ht : computeFrame s h = t) :
    let d := (profileOf s x).sb
    let r := frameOut d x.sb.muSet x.sb.mu (frameSamples d x.sb)
    t.mem = Memory.wrs s.mem (frameAddr s x) (frameSlot d x.sb r.o r.energy (silentNext (profileOf s x) r.energy x.sb.silentRun)) ∧
      OtherStreamsSame s t [h] ∧ (getStream t h).frWr = x.frWr + 1 ∧ (getStream t h).sb.frame = x.sb.frame + 1 ∧
      (getStream t h).sb.hop = x.sb.hop - hopLen d ∧
      ((x.frWr + 1 - chunkBase x).toNat % chunkFrames s x = 0 → chunkFrames s x ≠ 0 → (getStream t h).chunks.length = x.chunks.length + 1) := by
  subst hx
  intro d r
  obtain ⟨v, hmem, hstreams, hmodels, hprofiles, heq⟩ := computeFrame_eq hopen hg
  rw [ht] at heq
  obtain ⟨y, hy⟩ : ∃ y, framed d r (silentNext (profileOf s (getStream s h)) r.energy (getStream s h).sb.silentRun) (getStream s h) = y := ⟨_, rfl⟩
  have hfields : y.frWr = (getStream s h).frWr + 1 ∧ y.sb.frame = (getStream s h).sb.frame + 1 ∧ y.sb.hop = (getStream s h).sb.hop - hopLen d ∧
      y.chunks = (getStream s h).chunks ∧ y.model = (getStream s h).model ∧ y.feProfile = (getStream s h).feProfile ∧
      chunkBase y = chunkBase (getStream s h) := by
    rw [← hy]
    exact ⟨rfl, rfl, rfl, rfl, rfl, rfl, rfl⟩
  obtain ⟨hwr, hframe, hhop, hchunks, hmodel, hprofile, hbase⟩ := hfields
  change t = chunkReady (modStream v h fun _ => framed d r (silentNext (profileOf s (getStream s h)) r.energy (getStream s h).sb.silentRun) (getStream s h)) h at heq
  rw [hy, modStream_eq] at heq
  obtain ⟨w, hw⟩ : ∃ w, setStream v h y = w := ⟨_, rfl⟩
  have hwkeep : w.mem = v.mem ∧ w.models = v.models ∧ w.profiles = v.profiles := by
    rw [← hw]
    exact ⟨rfl, rfl, rfl⟩
  obtain ⟨hwmem, hwmodels, hwprofiles⟩ := hwkeep
  have hwstream : getStream w h = y := by rw [← hw, getStream_setStream]
  have hwother : OtherStreamsSame s w [h] := otherStreamsSame_trans (otherStreamsSame_of_streams hstreams) (hw ▸ otherStreamsSame_setStream h y)
  rw [hw] at heq
  have hframes : chunkFrames w (getStream w h) = chunkFrames s (getStream s h) := by
    simp only [chunkFrames, streamDecl, hopOf, profileOf, getProfile, getModel, hwmodels, hwprofiles, hmodels, hprofiles, hwstream, hmodel, hprofile]
  obtain ⟨hmem', hother, l, hl⟩ := chunkReady_stream w h
  rw [← heq] at hmem' hother hl
  refine ⟨hmem'.trans (hwmem.trans hmem), otherStreamsSame_trans hwother hother, ?_, ?_, ?_, fun hdue hf => ?_⟩
  · rw [hl, hwstream]
    exact hwr
  · rw [hl, hwstream]
    exact hframe
  · rw [hl, hwstream]
    exact hhop
  · obtain ⟨c, hc⟩ := chunkReady_of_boundary (s := w) (h := h) (by rw [hframes]; exact hf) (by
      rw [pastBoundary, hframes, hwstream, hwr, hbase, Nat.max_eq_right (Nat.one_le_iff_ne_zero.2 hf)]
      exact hdue)
    rw [heq, hc, modStream_eq, getStream_setStream, hwstream]
    exact (List.length_append (bs := [c])).trans (congrArg (· + 1) (congrArg List.length hchunks))

/-! ### Synthesis output -/

/-- A sample of the model's rate that leaves at the same rate leaves as it is. -/
theorem resample_same {f : Nat} (k m : Nat) (y : W32) (hist : List W32) : resample f f k m y hist = [y] := if_pos rfl

theorem putPcm_spec (hs : isSilent (getStream s h) = false) (b : List Byte) : (putPcm s h b).mem = s.mem ∧ OtherStreamsSame s (putPcm s h b) [h] ∧
    getStream (putPcm s h b) h = { getStream s h with pcmTotal := (getStream s h).pcmTotal + BitVec.ofNat 32 b.length, pcmChunk := true } := by
  have hwrites (l : List (Byte × Nat)) (g : Byte × Nat → Nat) (w : State) :
      (l.foldl (fun w e => hostWr w (getStream s h).client (g e) [e.1]) w).mem = w.mem ∧
        (l.foldl (fun w e => hostWr w (getStream s h).client (g e) [e.1]) w).streams = w.streams := by
    have hone (w : State) (f : Func) (a : Nat) (b : List Byte) : (hostWr w f a b).streams = w.streams := by
      unfold hostWr
      split <;> rfl
    exact ⟨foldl_fixed (g := fun s : State => s.mem) (by exact fun _ _ => mem_hostWr ..) l w,
      foldl_fixed (g := fun s : State => s.streams) (by exact fun _ _ => hone ..) l w⟩
  unfold putPcm
  simp only [hs, Bool.false_eq_true, if_false]
  obtain ⟨w, hw⟩ : ∃ w, b.zipIdx.foldl (fun w e => hostWr w (getStream s h).client ((getStream s h).obBase.toNat * 4096 + 16 * obRecords (getStream s h) +
      ((getStream s h).pcmTotal.toNat + e.2) % 2 ^ ((profileOf s (getStream s h)).pcmSize.toNat + 12)) [e.1]) s = w := ⟨_, rfl⟩
  obtain ⟨hmem, hstreams⟩ := hwrites b.zipIdx (fun e => (getStream s h).obBase.toNat * 4096 + 16 * obRecords (getStream s h) +
      ((getStream s h).pcmTotal.toNat + e.2) % 2 ^ ((profileOf s (getStream s h)).pcmSize.toNat + 12)) s
  rw [hw] at hmem hstreams
  simp only [hw]
  have hcharged (k : Handle) : getStream (chargeHost w (getStream s h).client b.length) k = getStream s k := by
    change tget .reset w.streams k.toNat = tget .reset s.streams k.toNat
    rw [hstreams]
  rw [modStream_eq, getStream_setStream, hcharged]
  exact ⟨hmem, fun k hk => (getStream_setStream_ne _ _ _ _ fun he => hk (List.mem_singleton.2 he)).trans (hcharged k), rfl⟩

/-- A synthesis sample is put out in the profile's format (R49). -/
theorem putSample_spec (hs : isSilent (getStream s h) = false) (y : W32) : (putSample s h y).mem = s.mem ∧ OtherStreamsSame s (putSample s h y) [h] ∧
    getStream (putSample s h y) h = { getStream s h with
      pcmTotal := (getStream s h).pcmTotal + BitVec.ofNat 32 (encodeSample (profileOf s (getStream s h)).outFmt.toNat y).1.length, pcmChunk := true } := by
  unfold putSample
  dsimp only
  obtain ⟨w, hw⟩ : ∃ w, { s with sbtm := { s.sbtm with
      clip := if (encodeSample (profileOf s (getStream s h)).outFmt.toNat y).2 then satAdd s.sbtm.clip 1 else s.sbtm.clip
      samples := noteLoad s.time 1 s.sbtm.samples } } = w := ⟨_, rfl⟩
  have hkeep : w.mem = s.mem ∧ w.streams = s.streams := by
    rw [← hw]
    exact ⟨rfl, rfl⟩
  have hstream : getStream w h = getStream s h := by rw [getStream, getStream, hkeep.2]
  obtain ⟨hmem, hother, hput⟩ := putPcm_spec (s := w) (h := h) (by rw [hstream]; exact hs) (encodeSample (profileOf s (getStream s h)).outFmt.toNat y).1
  rw [hw]
  rw [hstream] at hput
  exact ⟨hmem.trans hkeep.1, otherStreamsSame_trans (otherStreamsSame_of_streams hkeep.2) hother, hput⟩

theorem synthSample_spec (hs : isSilent (getStream s h) = false)
    (hrate : modelRate (profileOf s (getStream s h)).sb = rateOf (profileOf s (getStream s h)).outRate.toNat) :
    let x := getStream s h
    let t := synthSample s h
    t.mem = s.mem ∧ OtherStreamsSame s t [h] ∧ (getStream t h).sb.outTaken = x.sb.outTaken + 1 ∧ (getStream t h).sb.outCount = x.sb.outCount + 1 ∧
      (getStream t h).pcmChunk = true ∧ (getStream t h).pcmTotal = x.pcmTotal + BitVec.ofNat 32 (encodeSample (profileOf s x).outFmt.toNat
        (stagedValue (BitVec.ofNat 32 (Memory.rdNat s.mem (stagingAddr s x x.sb.outTaken) 4)))).1.length := by
  intro x t
  obtain ⟨y, hy⟩ : ∃ y, stagedValue (BitVec.ofNat 32 (Memory.rdNat s.mem (stagingAddr s x x.sb.outTaken) 4)) = y := ⟨_, rfl⟩
  obtain ⟨z, hz⟩ : ∃ z : Stream, { x with sb := { x.sb with
      outHist := (firTaps y x.sb.outHist).take 31, outTaken := x.sb.outTaken + 1, outCount := x.sb.outCount + 1 } } = z := ⟨_, rfl⟩
  have hfields : isSilent z = isSilent x ∧ z.feProfile = x.feProfile ∧ z.pcmTotal = x.pcmTotal ∧ z.sb.outTaken = x.sb.outTaken + 1 ∧
      z.sb.outCount = x.sb.outCount + 1 := by
    rw [← hz]
    exact ⟨rfl, rfl, rfl, rfl, rfl⟩
  obtain ⟨hsilent, hprofile, htotal, htaken, hcount⟩ := hfields
  obtain ⟨w, hw⟩ : ∃ w, setStream s h z = w := ⟨_, rfl⟩
  have hwkeep : w.mem = s.mem ∧ w.profiles = s.profiles := by
    rw [← hw]
    exact ⟨rfl, rfl⟩
  have hwstream : getStream w h = z := by rw [← hw, getStream_setStream]
  have ht : t = putSample w h y := by
    change synthSample s h = _
    unfold synthSample
    dsimp only
    rw [hrate, resample_same, ← hw, ← hz, ← hy]
    rfl
  have hout : profileOf w z = profileOf s x := by simp only [profileOf, getProfile, hprofile, hwkeep.2]
  obtain ⟨hmem, hother, hput⟩ := putSample_spec (s := w) (h := h) (by rw [hwstream, hsilent]; exact hs) y
  rw [← ht, hwstream, hout] at hput
  rw [← ht] at hmem hother
  rw [hput, hy]
  refine ⟨hmem.trans hwkeep.1, otherStreamsSame_trans (hw ▸ otherStreamsSame_setStream h z) hother, htaken, hcount, rfl, ?_⟩
  rw [← htotal]

end Sys2Proof.Machine
end

section
/-! PROOFS. The settled statement. -/

namespace Sys2Proof.Machine
open Sys2Proof

/-- Settles O40: nothing of a stage is left over for the stream's end, because the stream is not closing. -/
theorem soundboardCommandsComplete : Obligations.SoundboardCommandsComplete := by
  intro h s hd hf x p n
  have hruns := sbRuns_of hd hf
  refine ⟨fun hm hopen hg => ?_, ?_, fun hsyn hs hrate => ?_⟩
  · have hnext : exec (.sampleTake h 1) s = .next (endClose (markDrained (takeSamples 1 s h) h) h) := by
      rw [exec_sampleTake]
      exact congrArg Host.Outcome.next (if_pos (by rw [hruns, Bool.true_and]; exact hm))
    obtain ⟨v, g, htake, hstate, hrd, hwr, hsb⟩ := takeSample_eq hg
    rw [takeSamples_one hf hm, htake, modStream_eq] at hnext
    obtain ⟨y, hy⟩ : ∃ y, g (getStream s h) = y := ⟨_, rfl⟩
    rw [hy] at hstate hrd hwr hsb
    have hcount : getStream (sbCount s v) h = getStream s h := rfl
    rw [hcount, hy] at hnext
    obtain ⟨t, ht⟩ : ∃ t, setStream (sbCount s v) h y = t := ⟨_, rfl⟩
    have hmem : t.mem = s.mem := ht ▸ rfl
    have hother : OtherStreamsSame s t [h] := ht ▸ otherStreamsSame_trans (otherStreamsSame_of_streams rfl) (otherStreamsSame_setStream h y)
    have hstream : getStream t h = y := by rw [← ht, getStream_setStream]
    have htopen : (getStream t h).state ≠ .closing := by
      rw [hstream, hstate]
      exact hopen
    rw [ht, markDrained_of_open htopen, endClose_of_open htopen] at hnext
    rw [← hstream] at hrd hwr hsb
    exact ⟨t, hnext, hmem, hother, hrd, hwr, hsb⟩
  · intro dt hon hmig hfull hop hopen a k r hg
    obtain ⟨T, sl, sa, htick⟩ := tick_br s dt
    obtain ⟨w, hw⟩ : ∃ w, setStream (tick s dt) h x = w := ⟨_, rfl⟩
    have hmay : (sbRuns s && mayFrame s (getStream s h)) = true := by
      simp only [hruns, mayFrame, Bool.true_and, Bool.and_eq_true, Bool.or_eq_true, decide_eq_true_eq, Bool.not_eq_true']
      exact ⟨⟨⟨hon, hmig⟩, hfull⟩, .inl hop⟩
    have hstick : getStream (tick s dt) h = x := by
      rw [htick]
      rfl
    have hpad : padFrame (tick s dt) h = w := by
      rw [padFrame_of_full (by rw [hstick, htick]; exact hop), hstick, hw]
    have hnext : exec (.frameCompute h dt) s = .next (computeFrame w h) := by
      rw [exec_frameCompute, ← hpad]
      exact congrArg Host.Outcome.next (if_pos hmay)
    have hkeep : w.mem = s.mem ∧ w.models = s.models ∧ w.profiles = s.profiles := by
      rw [← hw, htick]
      exact ⟨rfl, rfl, rfl⟩
    obtain ⟨hmem, hmodels, hprofiles⟩ := hkeep
    have hother : OtherStreamsSame s w [h] := by
      rw [← hw, htick]
      exact otherStreamsSame_trans (otherStreamsSame_of_streams rfl) (otherStreamsSame_setStream h x)
    have hgrant : svcGrant w true a k = svcGrant s true a k := by
      rw [← hw, htick]
      rfl
    have hprofile : profileOf w x = p := by simp only [profileOf, getProfile, hprofiles, p]
    have haddr : frameAddr w x = a := by simp only [frameAddr, hprofile, a, p]
    have hframes : chunkFrames w x = chunkFrames s x := by simp only [chunkFrames, streamDecl, getModel, hmodels, hopOf, profileOf, getProfile, hprofiles]
    obtain ⟨htmem, htother, hwr, hframe, hhop, hchunk⟩ := computeFrame_spec (s := w) (h := h) (x := x) (by rw [← hw, getStream_setStream]) hopen
      (by rw [haddr, hprofile]; exact hgrant.trans hg) rfl
    rw [haddr, hprofile, hmem] at htmem
    rw [hprofile] at hhop
    rw [hframes] at hchunk
    have hlen := length_frameSlot p.sb x.sb r.o r.energy (silentNext p r.energy x.sb.silentRun)
    refine ⟨_, hnext, otherStreamsSame_trans hother htother, hwr, hframe, hhop, ?_, fun b hb => ?_, hchunk⟩
    · rw [htmem, show k = _ from hlen.symm]
      exact rds_wrs_self ..
    · rw [htmem]
      exact Memory.rd_wrs_out (by rw [hlen]; exact hb)
  · intro y
    have hleft : min 1 (synthLeft s x) = 1 := by
      simp only [hasSynth, Bool.and_eq_true, decide_eq_true_eq] at hsyn
      exact Nat.min_eq_left hsyn.1.2
    have hnext : exec (.synthesisOutput h 1) s = .next (synthSample s h) := by
      rw [exec_synthesisOutput]
      refine congrArg Host.Outcome.next ((if_pos (by rw [hruns, Bool.true_and]; exact hsyn)).trans ?_)
      rw [show min 1 (synthLeft s (getStream s h)) = 1 from hleft]
      rfl
    obtain ⟨hmem, hother, htaken, hcount, hchunk, htotal⟩ := synthSample_spec hs hrate
    exact ⟨_, hnext, hmem, hother, htaken, hcount, hchunk, htotal⟩

end Sys2Proof.Machine
end


-- ==== Proofs: the migration engine ====
section
/-! PROOFS. The migration engine (R272, R273): a descriptor begun or refused, moved on, put behind one of a higher class, and recorded; a
stream set moving (R332). -/

namespace Sys2Proof.Machine
open Sys2Proof

variable {s t u : State} {h : Handle} {dt : Nat} {d : BitVec 256} {w : MigWork}

theorem exec_streamMigrate {f : Func} {r : Bool} : exec (.streamMigrate f r dt) s = execStreamMigrate f r dt s := rfl
theorem exec_migrationDescriptor {d : Option (BitVec 256)} : exec (.migrationDescriptor d) s = execMigrationDescriptor d s := rfl
theorem exec_migrationComplete : exec (.migrationComplete dt) s = execMigrationComplete dt s := rfl

/-! ### What a migration to another device sends -/

/-- What a migration's messages and queued descriptors change: the bridge, the engine's lists, the accounts. -/
def SendsOut (s t : State) : Prop := ∃ B G T, t = { s with br := B, mig := G, tele := T }

theorem sendsOut_refl (s : State) : SendsOut s s := ⟨_, _, _, rfl⟩

theorem SendsOut.after (k : SendsOut t u) (h : SendsOut s t) : SendsOut s u := by
  obtain ⟨_, _, _, rfl⟩ := h
  obtain ⟨_, _, _, rfl⟩ := k
  exact ⟨_, _, _, rfl⟩

theorem sendsOut_ite {c : Prop} [Decidable c] (h : SendsOut s t) (k : SendsOut s u) : SendsOut s (if c then t else u) := by
  split
  · exact h
  · exact k

theorem sendsOut_pairEnqueue (s : State) (i : Nat) (l : List TxFrame) : SendsOut s (pairEnqueue s i l) := by
  unfold pairEnqueue
  split
  · exact sendsOut_refl s
  next p _ =>
    obtain ⟨⟨S, P, hsend⟩, -⟩ := keepsPair_pairSend (p.waitTx.length + l.length) i (setPair s i { p with waitTx := p.waitTx ++ l })
    exact ⟨_, _, _, hsend⟩

theorem sendsOut_migCtrl (s : State) (i v : Nat) : SendsOut s (migCtrl s i v) := by
  unfold migCtrl
  split
  · exact sendsOut_refl s
  · exact sendsOut_pairEnqueue ..

theorem sendsOut_sendMigData (s : State) (i : Nat) (c : Func) (a : Nat) (b : List Byte) : SendsOut s (sendMigData s i c a b) := by
  have hcharge : SendsOut s (chargeBridge s c b.length) := ⟨_, _, _, rfl⟩
  unfold sendMigData
  split
  · exact sendsOut_refl s
  · exact (sendsOut_pairEnqueue ..).after hcharge

theorem sendsOut_finishOut (s : State) (m : MigOut) (n : Nat) : SendsOut s (finishOut s m n) := by
  unfold finishOut
  split
  · exact sendsOut_refl s
  · exact (sendsOut_migCtrl ..).after (sendsOut_sendMigData ..)

theorem sendsOut_modOut (s : State) (m n : MigOut) : SendsOut s (modOut s m n) := ⟨_, _, _, rfl⟩

theorem sendsOut_secondStage (s : State) (m : MigOut) (n : Nat) : SendsOut s (secondStage s m n) := by
  unfold secondStage
  dsimp only
  split
  · exact sendsOut_ite ((sendsOut_finishOut ..).after (sendsOut_modOut ..)) ⟨_, _, _, rfl⟩
  · exact sendsOut_refl s

/-- A copy of a stream with a standing pair and a model starts, or waits for the stream's chunk and audio. -/
theorem sendsOut_startOut {m : MigOut} (hpair : (pairIdx s m.window m.device).isSome = true) (hmodel : (getModel s (getStream s m.handle).model).isSome = true)
    (hstands : pairStands s m.window m.device = true) : SendsOut s (startOut s m) := by
  obtain ⟨i, hi⟩ := Option.isSome_iff_exists.1 hpair
  obtain ⟨y, hy⟩ := Option.isSome_iff_exists.1 hmodel
  unfold startOut
  dsimp only
  refine sendsOut_ite (sendsOut_refl s) ?_
  rw [hi, hy]
  simp only [hstands, Bool.not_true, Bool.false_eq_true, if_false]
  obtain ⟨v, hv⟩ : ∃ v, queueDescs s (genDescs s (getStream s m.handle) y (match getPair s i with | some p => p.rbase | none => 0)) = v := ⟨_, rfl⟩
  have hqueue : SendsOut s v.2 := hv ▸ ⟨_, _, _, rfl⟩
  have hctrl (n : MigOut) (k : Nat) : SendsOut s (migCtrl (modOut v.2 m n) i k) := (sendsOut_migCtrl ..).after ((sendsOut_modOut ..).after hqueue)
  rw [← hv] at hctrl
  exact sendsOut_ite ((sendsOut_secondStage ..).after (hctrl ..)) (hctrl ..)

/-- A stream as an accepted migration leaves it. -/
def migratingStream (x : Stream) : Stream := { x with moving := true, migrating := true, move := none }

/-- The migration that a command asks for, before its copy starts. -/
def outgoing (f : Func) (k : Taken) (h : Handle) (dev : DevNo) (n : WinNo) : MigOut where
  f := f
  tag := k.tag
  handle := h
  device := dev
  window := n
  dfunc := BitVec.ofNat 5 (argF k 36 32)
  dvec := BitVec.ofNat 11 (argF k 47 37)
  dobAddr := BitVec.ofNat 64 (argF k 127 64)
  copy := none
  coded := none

/-- The command's entry among those in progress. -/
def asked (f : Func) (k : Taken) (h : Handle) (n : WinNo) : InProgress := ⟨f, k.tag, k.opcode, [.window n, .stream h], false, false, 0⟩

theorem acceptMigrate_spec {f : Func} {k : Taken} {dev : DevNo} {n : WinNo} (hpair : (pairIdx s n dev).isSome = true)
    (hmodel : (getModel s (getStream s h).model).isSome = true) (hstands : pairStands s n dev = true) {t : State} (ht : acceptMigrate s f k h dev n = t) :
    t.mem = s.mem ∧ OtherStreamsSame s t [h] ∧ getStream t h = migratingStream (getStream s h) ∧
      ∃ q ∈ t.inProgress, q.f = f ∧ q.tag = k.tag ∧ q.opcode = k.opcode := by
  obtain ⟨m, hm⟩ : ∃ m, outgoing f k h dev n = m := ⟨_, rfl⟩
  have hfields : m.window = n ∧ m.device = dev ∧ m.handle = h := by
    rw [← hm]
    exact ⟨rfl, rfl, rfl⟩
  obtain ⟨hwin, hdev, hhandle⟩ := hfields
  obtain ⟨w, hw⟩ : ∃ w, setStream s h (migratingStream (getStream s h)) = w := ⟨_, rfl⟩
  have hwkeep : w.mem = s.mem ∧ w.models = s.models ∧ w.br = s.br ∧ w.inProgress = s.inProgress := by
    rw [← hw]
    exact ⟨rfl, rfl, rfl, rfl⟩
  obtain ⟨hwmem, hwmodels, hwbr, hwprogress⟩ := hwkeep
  have hwstream : getStream w h = migratingStream (getStream s h) := by rw [← hw, getStream_setStream]
  have hwother : OtherStreamsSame s w [h] := hw ▸ otherStreamsSame_setStream h _
  obtain ⟨v, hv⟩ : ∃ v, { w with
    br := { w.br with migOut := w.br.migOut ++ [m] }
    inProgress := w.inProgress ++ [asked f k h n] } = v := ⟨_, rfl⟩
  have hvkeep : v.mem = w.mem ∧ v.models = w.models ∧ v.streams = w.streams ∧ v.br.pairs = w.br.pairs ∧
      v.inProgress = w.inProgress ++ [asked f k h n] := by
    rw [← hv]
    exact ⟨rfl, rfl, rfl, rfl, rfl⟩
  obtain ⟨hvmem, hvmodels, hvstreams, hvpairs, hvprogress⟩ := hvkeep
  have hvstream (k : Handle) : getStream v k = getStream w k := by rw [getStream, getStream, hvstreams]
  have ht' : t = startOut v m := by rw [← ht, ← hv, ← hw, ← hm]; rfl
  have hout : SendsOut v t := by
    rw [ht']
    refine sendsOut_startOut ?_ ?_ ?_
    · rw [hwin, hdev, pairIdx, hvpairs, hwbr]
      exact hpair
    · rw [hhandle, hvstream, hwstream, getModel, hvmodels, hwmodels]
      exact hmodel
    · rw [hwin, hdev, pairStands, hvpairs, hwbr]
      exact hstands
  obtain ⟨_, _, _, htv⟩ := hout
  have htkeep : t.mem = v.mem ∧ t.streams = v.streams ∧ t.inProgress = v.inProgress := by
    rw [htv]
    exact ⟨rfl, rfl, rfl⟩
  obtain ⟨htmem, htstreams, htprogress⟩ := htkeep
  have htstream (k : Handle) : getStream t k = getStream w k := by rw [getStream, htstreams, ← getStream, hvstream]
  refine ⟨htmem.trans (hvmem.trans hwmem), fun k hk => (htstream k).trans (hwother k hk), (htstream h).trans hwstream,
    asked f k h n, ?_, rfl, rfl, rfl⟩
  rw [htprogress, hvprogress]
  exact List.mem_append_right _ (List.mem_singleton_self _)

/-! ### The engine -/

theorem outOfTag_of_none (hout : s.br.migOut = []) (tag : BitVec 16) : outOfTag s tag = none := by
  rw [outOfTag, hout]
  rfl

/-- A row of the engine where nothing migrates out and nothing is released. -/
theorem execMigrationDescriptor_eq (hrt : rtRuns s = true) (hout : s.br.migOut = []) (hrel : s.mig.releasing = []) (d : Option (BitVec 256)) :
    exec (.migrationDescriptor d) s = .next (takeDesc (landPiece (withDesc s d))) := by
  have houts : startOuts s = s := by
    rw [startOuts, hout]
    rfl
  have hrels : startReleases s = s := by
    rw [startReleases, hrel]
    rfl
  rw [exec_migrationDescriptor, execMigrationDescriptor, hrt, houts, hrels]
  rfl

/-- The ranges of a COPY or a ZERO on this device. -/
theorem descRanges_plain (hout : s.br.migOut = []) (hop : dOp d ≤ 1) :
    descRanges s d = (if dOp d = 0 then [(dSrc d, dLen d)] else [], [(dDst d, dLen d)]) := by
  have hfar : (outOfTag s (dTag d)).isSome = false := by rw [outOfTag_of_none hout]; rfl
  unfold descRanges
  dsimp only
  rw [hfar]
  rcases Nat.le_one_iff_eq_zero_or_eq_one.1 hop with h0 | h1
  · rw [h0]
    rfl
  · rw [h1]
    rfl

/-- What the grants permit of a COPY or a ZERO. -/
def Permitted (s : State) (d : BitVec 256) : Prop := (dOp d = 0 → svcGrant s false (dSrc d) (dLen d) = true) ∧ svcGrant s true (dDst d) (dLen d) = true

/-- The memories of a COPY or a ZERO are up. -/
def RangesUp (s : State) (d : BitVec 256) : Prop := (dOp d = 0 → onDown s (dSrc d) (dLen d) = false) ∧ onDown s (dDst d) (dLen d) = false

theorem descCheck_refused (hout : s.br.migOut = []) (hop : dOp d ≤ 1) (hp : ¬Permitted s d) :
    descCheck s (descRanges s d).1 (descRanges s d).2 = some ⟨stFence, 0, false⟩ := by
  rw [descRanges_plain hout hop]
  refine if_pos ?_
  by_cases h0 : dOp d = 0
  · simp only [Permitted, h0, true_imp_iff] at hp
    simp only [h0, if_true, List.all_cons, List.all_nil, Bool.and_true, Bool.or_eq_true, Bool.not_eq_true']
    by_cases hs : svcGrant s false (dSrc d) (dLen d) = true
    · exact .inr (by simpa using fun hd => hp ⟨hs, hd⟩)
    · exact .inl (by simpa using hs)
  · simp only [Permitted, h0, false_imp_iff, true_and] at hp
    simpa [h0] using hp

theorem descCheck_permitted (hout : s.br.migOut = []) (hop : dOp d ≤ 1) (hp : Permitted s d) (hup : RangesUp s d) :
    descCheck s (descRanges s d).1 (descRanges s d).2 = none := by
  rw [descRanges_plain hout hop]
  obtain ⟨hsrc, hdst⟩ := hp
  obtain ⟨hsrcUp, hdstUp⟩ := hup
  by_cases h0 : dOp d = 0
  · simp [descCheck, h0, hsrc h0, hdst, hsrcUp h0, hdstUp]
  · simp [descCheck, h0, hdst, hdstUp]

/-- A descriptor that is refused leaves the engine with its record due. -/
theorem beginDesc_refused (hwork : s.mig.work = []) (hout : s.br.migOut = []) (hop : dOp d ≤ 1) (hp : ¬Permitted s d) :
    beginDesc s d = endDesc { s with mig := { s.mig with queue := removeDesc d s.mig.queue } } d ⟨stFence, 0, false⟩ := by
  obtain ⟨v, hv⟩ : ∃ v : State, { s with mig := { s.mig with queue := removeDesc d s.mig.queue } } = v := ⟨_, rfl⟩
  have hcheck : descCheck v (descRanges v d).1 (descRanges v d).2 = some ⟨stFence, 0, false⟩ :=
    descCheck_refused (by rw [← hv]; exact hout) hop (by rw [← hv]; exact hp)
  unfold beginDesc
  rw [hwork, hv]
  dsimp only [List.any_nil]
  rw [hcheck]
  rfl

/-- A descriptor that the grants permit, with its memories up, is at work. -/
theorem beginDesc_permitted (hwork : ∀ w ∈ s.mig.work, w.desc ≠ d) (hout : s.br.migOut = []) (hop : dOp d ≤ 1) (hp : Permitted s d) (hup : RangesUp s d) :
    beginDesc s d = { s with mig := { s.mig with queue := removeDesc d s.mig.queue, work := s.mig.work ++ [⟨d, 0⟩] } } := by
  obtain ⟨v, hv⟩ : ∃ v : State, { s with mig := { s.mig with queue := removeDesc d s.mig.queue } } = v := ⟨_, rfl⟩
  have hcheck : descCheck v (descRanges v d).1 (descRanges v d).2 = none :=
    descCheck_permitted (by rw [← hv]; exact hout) hop (by rw [← hv]; exact hp) (by rw [← hv]; exact hup)
  have hnot : (s.mig.work.any fun w => decide (w.desc = d)) = false := List.any_eq_false.2 fun w hw => by simpa using hwork w hw
  unfold beginDesc
  rw [hnot, hv]
  dsimp only
  rw [hcheck, ← hv]
  rfl

theorem beginDesc_atWork {w : MigWork} (hw : w ∈ s.mig.work) : beginDesc s w.desc = s := if_pos (List.any_eq_true.2 ⟨w, hw, by simp⟩)

theorem takeDesc_eq (h : nextDesc s = some d) : takeDesc s = { beginDesc s d with mig := { (beginDesc s d).mig with cur := (workOf (beginDesc s d) d).map (·.desc) } } := by
  rw [takeDesc, h]

theorem takeDesc_idle (hwork : s.mig.work = []) (hqueue : s.mig.queue = []) : takeDesc s = s := by
  rw [takeDesc, nextDesc, hwork, hqueue]
  rfl

/-! ### A piece of a COPY or a ZERO -/

theorem movePlain_eq (hout : s.br.migOut = []) (hmove : movingStream s (dTag d) = none) (o n : Nat) :
    movePlain s d o n = { s with mem := devWritten s (dDst d + o) (if dOp d = 0 then devRead s (dSrc d + o) n else List.replicate n 0) } := by
  have hstream : descStream s d = none := by
    rw [descStream, outOfTag_of_none hout]
    exact hmove
  unfold movePlain
  dsimp only
  rw [outOfTag_of_none hout, hstream]
  rfl

/-- A piece that does not end its descriptor. -/
theorem advanceDesc_on (hout : s.br.migOut = []) (hop : dOp w.desc ≤ 1) (hmove : movingStream s (dTag w.desc) = none) {n : Nat} (hn : 0 < n)
    (hlen : w.moved + n < dLen w.desc) : advanceDesc s w n = { s with
      mem := devWritten s (dDst w.desc + w.moved) (if dOp w.desc = 0 then devRead s (dSrc w.desc + w.moved) n else List.replicate n 0)
      mig := { s.mig with cur := none, work := s.mig.work.map fun x => if x = w then { x with moved := w.moved + n } else x } } := by
  have hk : min n (dLen w.desc - w.moved) = n := by omega
  unfold advanceDesc
  simp only [hk, hop, hn, hlen, and_self, if_true, movePlain_eq hout hmove]

/-- The piece that ends its descriptor. -/
theorem advanceDesc_last (hout : s.br.migOut = []) (hop : dOp w.desc ≤ 1) (hmove : movingStream s (dTag w.desc) = none) {n k : Nat} (hk : 0 < k)
    (hmin : min n (dLen w.desc - w.moved) = k) (hlen : w.moved + k = dLen w.desc) : advanceDesc s w n = endDesc { s with
      mem := devWritten s (dDst w.desc + w.moved) (if dOp w.desc = 0 then devRead s (dSrc w.desc + w.moved) k else List.replicate k 0) } w.desc ⟨0, dLen w.desc, false⟩ := by
  unfold advanceDesc
  simp only [hmin, hop, hk, hlen, and_self, if_true, movePlain_eq hout hmove, Nat.lt_irrefl, if_false]
  rcases Nat.le_one_iff_eq_zero_or_eq_one.1 hop with h0 | h1
  · simp only [finishDesc, h0]
  · simp only [finishDesc, h1]

theorem landPiece_eq (hcur : s.mig.cur = some w.desc) (hwork : s.mig.work = [w]) : landPiece s = advanceDesc s w 65536 := by
  have hfound : workOf s w.desc = some w := by
    rw [workOf, hwork]
    exact List.find?_cons_of_pos (by simp)
  rw [landPiece, hcur, Option.bind_some, hfound]
  rfl

theorem landPiece_idle (hcur : s.mig.cur = none) : landPiece s = s := by
  rw [landPiece, hcur]
  rfl

/-! ### The order of service -/

theorem descKey_plain (hmove : movingStream s (dTag d) = none) : descKey s d = (dClass d, if dClass d = 0 then 2 ^ 64 else 0) := by
  rw [descKey, neededBy, hmove]

theorem nextDesc_single {l m : List (BitVec 256)} (hwork : s.mig.work.map (·.desc) = l) (hqueue : s.mig.queue = m) (hlm : l ++ m = [d]) : nextDesc s = some d := by
  rw [nextDesc, hwork, hqueue, hlm]
  rfl

/-- A descriptor of a higher class that has come goes before the one at work. -/
theorem nextDesc_higher {e : BitVec 256} (hwork : s.mig.work.map (·.desc) = [e]) (hqueue : s.mig.queue = [d]) (hd : movingStream s (dTag d) = none)
    (he : movingStream s (dTag e) = none) (hclass : dClass d < dClass e) : nextDesc s = some d := by
  have hkey : keyLt (descKey s d) (descKey s e) = true := by simp [keyLt, descKey_plain hd, descKey_plain he, hclass]
  rw [nextDesc, hwork, hqueue]
  exact if_pos hkey

/-! ### What settling leaves of the engine -/

/-- Memory, the streams and the engine's lists are as they were; regions may wait to be zeroed. -/
def EngineRests (s t : State) : Prop := t.mem = s.mem ∧ t.streams = s.streams ∧ ∃ R, t.mig = { s.mig with releasing := R }

theorem engineRests_of (hmem : t.mem = s.mem) (hstreams : t.streams = s.streams) (hmig : t.mig = s.mig) : EngineRests s t := ⟨hmem, hstreams, _, hmig⟩

theorem engineRests_refl (s : State) : EngineRests s s := engineRests_of rfl rfl rfl

theorem EngineRests.trans (h : EngineRests s t) (k : EngineRests t u) : EngineRests s u := by
  obtain ⟨hmem, hstreams, R, hmig⟩ := h
  obtain ⟨hmem', hstreams', R', hmig'⟩ := k
  exact ⟨hmem'.trans hmem, hstreams'.trans hstreams, R', by rw [hmig', hmig]⟩

/-- The last operation first: what it is applied to is then known. -/
theorem EngineRests.after (k : EngineRests t u) (h : EngineRests s t) : EngineRests s u := h.trans k

theorem engineRests_ite {c : Prop} [Decidable c] (h : EngineRests s t) (k : EngineRests s u) : EngineRests s (if c then t else u) := by
  split
  · exact h
  · exact k

theorem engineRests_foldl {α : Type} {f : State → α → State} (h : ∀ s x, EngineRests s (f s x)) (l : List α) (s : State) : EngineRests s (l.foldl f s) :=
  foldl_rel engineRests_refl (fun _ _ _ => .trans) h l s

theorem engineRests_forAll {α : Type} {f : State → α → State} (h : ∀ s x, EngineRests s (f s x)) (l : List α) (s : State) : EngineRests s (forAll l f s) :=
  engineRests_foldl h l s

theorem engineRests_postResult (f : Func) (op tag st : BitVec 16) (n : Nat) : EngineRests s (postResult s f op tag st n) := by
  obtain ⟨F, h⟩ := postResult_frame s f op tag st n
  rw [h]
  exact engineRests_of rfl rfl rfl

theorem engineRests_freeRegion (r : Region) : EngineRests s (freeRegion s r) :=
  engineRests_ite (engineRests_refl s) (engineRests_ite (engineRests_of rfl rfl rfl) ⟨rfl, rfl, _, rfl⟩)

theorem engineRests_releaseRegions (q : Region → Bool) : EngineRests s (releaseRegions s q) :=
  (engineRests_foldl (fun _ r => engineRests_freeRegion r) _ _).after (engineRests_of rfl rfl rfl)

theorem engineRests_releaseModel (m : ModelSlot) : EngineRests s (releaseModel s m) := by
  unfold releaseModel
  split
  · exact engineRests_refl s
  · exact engineRests_ite (EngineRests.after (engineRests_of rfl rfl rfl) (engineRests_releaseRegions _)) (engineRests_refl s)

theorem engineRests_dropUser (m : ModelSlot) (f : Func) : EngineRests s (dropUser s m f) := by
  obtain ⟨M, h⟩ := modModel_frame s m fun y =>
    { y with users := y.users.filter fun g => decide (g ≠ f)
             owner := if y.owner = f then (allFuncs.find? fun g => (y.users.filter fun g => decide (g ≠ f)).contains g).getD y.owner else y.owner }
  rw [show dropUser s m f = _ from h]
  exact engineRests_of rfl rfl rfl

theorem engineRests_dropModels (f : Func) : EngineRests s (dropModels s f) :=
  engineRests_foldl (fun _ m => engineRests_ite (engineRests_dropUser m f) ((engineRests_releaseModel m).after (engineRests_dropUser m f))) _ _

theorem engineRests_finishCmd (q : InProgress) : EngineRests s (finishCmd s q) := by
  unfold finishCmd
  refine EngineRests.after (engineRests_postResult ..) (engineRests_ite (engineRests_foldl (fun s o => ?_) _ _) (engineRests_refl s))
  cases o
  case model m => exact engineRests_releaseModel m
  all_goals exact engineRests_refl s

theorem engineRests_settleCmds : EngineRests s (settleCmds s) :=
  (engineRests_foldl (fun _ q => engineRests_finishCmd q) _ _).after (engineRests_of rfl rfl rfl)

theorem engineRests_finishFlr (f : Func) : EngineRests s (finishFlr s f) := by
  unfold finishFlr
  exact engineRests_ite ((engineRests_of rfl rfl rfl).after (engineRests_dropModels f)) (engineRests_refl s)

theorem engineRests_settleProgress : EngineRests s (settleProgress s) :=
  (engineRests_forAll (fun _ f => engineRests_finishFlr f) _ _).after engineRests_settleCmds

theorem engineRests_destroyPartition (p : PartId) : EngineRests s (destroyPartition s p) := by
  have hidle : EngineRests s (closeIdle s p) := by
    obtain ⟨P, T, h⟩ := closeIdle_frame s p
    rw [h]
    exact engineRests_of rfl rfl rfl
  have herase (v : State) : EngineRests v (eraseSealed v p) := by
    unfold eraseSealed
    dsimp only
    have hforget (u : State) (q : Holder → Bool) : EngineRests u (forgetHolder u q .unknown) := by
      obtain ⟨H, hH⟩ := forgetHolder_frame u q .unknown
      rw [hH]
      exact engineRests_of rfl rfl rfl
    exact (hforget _ _).after (engineRests_foldl (by exact fun _ _ => engineRests_of rfl rfl rfl) _ v)
  have hcores (l : List CoreId) (v : State) : EngineRests v (forAll l (fun s c => modCore s c fun y => setDrone { y with spTask := .reset } 0) v) :=
    engineRests_foldl (by exact fun _ _ => engineRests_of rfl rfl rfl) l v
  unfold destroyPartition
  dsimp only
  obtain ⟨v, hv⟩ : ∃ v, eraseSealed (closeIdle s p) p = v := ⟨_, rfl⟩
  have hsv : EngineRests s v := by
    rw [← hv]
    exact (herase _).after hidle
  rw [hv]
  obtain ⟨w, hw⟩ : ∃ w, forAll (partCores (getPart v p)) (fun s c => modCore s c fun y => setDrone { y with spTask := .reset } 0) v = w := ⟨_, rfl⟩
  have hvw : EngineRests v w := by
    rw [← hw]
    exact hcores _ v
  rw [hw]
  have hanswer (v : State) (n : Nat) : EngineRests v (answer v n false) := engineRests_of rfl rfl rfl
  have hgrants (G : MonSt) (A : Tbl Aperture) : EngineRests w { w with mon := G, apertures := A } := engineRests_of rfl rfl rfl
  have hpart (v : State) (x : Part) : EngineRests v (setPart v p x) := engineRests_of rfl rfl rfl
  exact (hpart _ _).after ((hanswer _ _).after ((hanswer _ _).after ((hanswer _ _).after ((hgrants _ _).after (hvw.after hsv)))))

theorem engineRests_settleDestroys : EngineRests s (settleDestroys s) :=
  engineRests_settleProgress.after (engineRests_forAll (fun _ p => engineRests_ite (engineRests_destroyPartition p) (engineRests_refl _)) _ _)

/-! ### A record -/

/-- A copy of images that ended well: state_ptr switches, and a paused stream in tier 2 is EVICTED (R24, R27). -/
theorem moveDone_spec (s : State) (h : Handle) (m : Move) : (∃ R, (moveDone s h m).mig = { s.mig with releasing := R }) ∧ OtherStreamsSame s (moveDone s h m) [h] ∧
    (getStream (moveDone s h m) h).statePtr = BitVec.ofNat 36 (m.dst / 4096) ∧ (getStream (moveDone s h m) h).move = none ∧
    (getStream (moveDone s h m) h).state = if m.promote = false ∧ tierOf m.dst = 2 ∧ (getStream s h).state = .paused then .evicted else (getStream s h).state := by
  obtain ⟨v, hv⟩ : ∃ v, releaseRegions s (fun r => decide (r.base = imgAddr (getStream s h)) && decide (r.use = .image h)) = v := ⟨_, rfl⟩
  obtain ⟨-, hstreams, R, hmig⟩ : EngineRests s v := hv ▸ engineRests_releaseRegions _
  have hstream (k : Handle) : getStream v k = getStream s k := by rw [getStream, getStream, hstreams]
  obtain ⟨y, hy⟩ : ∃ y : Stream, { getStream s h with statePtr := BitVec.ofNat 36 (m.dst / 4096), moving := (getStream s h).migrating, move := none } = y := ⟨_, rfl⟩
  have hfields : y.statePtr = BitVec.ofNat 36 (m.dst / 4096) ∧ y.move = none ∧ y.state = (getStream s h).state := by
    rw [← hy]
    exact ⟨rfl, rfl, rfl⟩
  obtain ⟨hptr, hmove, hstate⟩ := hfields
  have hswitch : switchPtr s h m.dst = setStream v h y := by
    unfold switchPtr
    dsimp only
    rw [hv, modStream_eq, hstream, ← hy]
  obtain ⟨w, hw⟩ : ∃ w, setStream v h y = w := ⟨_, rfl⟩
  have hwmig : w.mig = v.mig := hw ▸ rfl
  have hwstream : getStream w h = y := by rw [← hw, getStream_setStream]
  have hwother : OtherStreamsSame s w [h] := otherStreamsSame_trans (otherStreamsSame_of_streams hstreams) (hw ▸ otherStreamsSame_setStream h y)
  have hdone : moveDone s h m = if !m.promote ∧ tierOf m.dst = 2 then modStream w h fun x => if x.state = .paused then { x with state := .evicted } else x else w := by
    rw [← hw, ← hswitch]
    rfl
  rw [hdone]
  by_cases htier : m.promote = false ∧ tierOf m.dst = 2
  · obtain ⟨hpromote, htier⟩ := htier
    simp only [hpromote, htier, Bool.not_false, and_self, if_true, true_and, modStream_eq, getStream_setStream, hwstream, hstate]
    refine ⟨⟨R, hwmig.trans hmig⟩, otherStreamsSame_trans hwother (otherStreamsSame_setStream h _), ?_⟩
    by_cases hp : (getStream s h).state = .paused
    · simp only [hp, if_true]
      exact ⟨hptr, hmove, trivial⟩
    · simp only [hp, if_false]
      exact ⟨hptr, hmove, hstate⟩
  · have hnot : ¬((!m.promote) = true ∧ tierOf m.dst = 2) := fun hc => htier ⟨by simpa using hc.1, hc.2⟩
    rw [if_neg hnot, hwstream, if_neg fun hc => htier ⟨hc.1, hc.2.1⟩]
    exact ⟨⟨R, hwmig.trans hmig⟩, hwother, hptr, hmove, hstate⟩

/-- A record is written of a state with one record due and nothing at work. -/
theorem completeNext_eq {x : MigDue} (hout : s.br.migOut = []) (hdue : s.mig.due = [x]) :
    completeNext s = takeDesc (settleDestroys (settleDesc { s with mig := { s.mig with done := s.mig.done ++ [x.out], due := [] } } x.out
      (x.dataErr && decide (x.out.status ≠ stFence)))) := by
  have hvisible : visible s x.out.tag = true := by rw [visible, outOfTag_of_none hout]
  have hready : readyDue s = some x := by
    rw [readyDue, hdue]
    exact List.find?_cons_of_pos hvisible
  have herase : s.mig.due.erase x = [] := by
    rw [hdue]
    exact List.erase_cons_head x []
  rw [completeNext, hready]
  dsimp only
  rw [completeDesc, herase]

/-- A row of MIGRATION_COMPLETE where a record may be written. -/
theorem execMigrationComplete_eq {x : MigDue} (hrt : rtRuns s = true) (hout : s.br.migOut = []) (hdue : s.mig.due = [x]) :
    exec (.migrationComplete dt) s = .next (completeNext (tick s dt)) := by
  obtain ⟨T, sl, sa, htick⟩ := tick_br s dt
  have hout' : (tick s dt).br.migOut = [] := by
    rw [htick]
    exact hout
  have hdue' : (tick s dt).mig.due = [x] := by
    rw [htick]
    exact hdue
  have hready : (readyDue (tick s dt)).isSome = true := by
    rw [readyDue, hdue', List.find?_cons_of_pos (by rw [visible, outOfTag_of_none hout'])]
    rfl
  rw [exec_migrationComplete, execMigrationComplete, hrt]
  dsimp only
  rw [hready]
  rfl

/-- What follows the settling of a record: the engine has nothing to take. -/
theorem takeDesc_settled {v : State} (hwork : v.mig.work = []) (hqueue : v.mig.queue = []) : EngineRests v (takeDesc (settleDestroys v)) := by
  have hrests := engineRests_settleDestroys (s := v)
  obtain ⟨hmem, hstreams, R, hmig⟩ := hrests
  rw [takeDesc_idle (by rw [hmig]; exact hwork) (by rw [hmig]; exact hqueue)]
  exact ⟨hmem, hstreams, R, hmig⟩

end Sys2Proof.Machine
end

section
/-! PROOFS. The settled statement. -/

namespace Sys2Proof.Machine
open Sys2Proof

section
variable {s : State} {d : BitVec 256} {w : MigWork} {dt : Nat}

theorem withDesc_some (hform : descForm s d = true) (hqueue : s.mig.queue = []) :
    withDesc s (some d) = { s with mig := { s.mig with queue := [d], next := s.mig.next + 1 } } := by
  rw [withDesc, if_pos hform, hqueue]
  rfl

theorem removeDesc_single (d : BitVec 256) : removeDesc d [d] = [] := if_pos rfl

theorem beginDesc_frame (hnot : ∀ w ∈ s.mig.work, w.desc ≠ d) :
    ∃ W C D, beginDesc s d = { s with mig := { s.mig with queue := removeDesc d s.mig.queue, work := W, cur := C, due := D } } := by
  have hany : (s.mig.work.any fun w => decide (w.desc = d)) = false := List.any_eq_false.2 fun w hw => by simpa using hnot w hw
  unfold beginDesc
  rw [hany]
  simp only [Bool.false_eq_true, if_false]
  split
  · exact ⟨_, _, _, rfl⟩
  · exact ⟨_, _, _, rfl⟩

/-- A descriptor that comes to an idle engine is begun, or refused at once (R272). -/
theorem descriptor_begun (hrt : rtRuns s = true) (hout : s.br.migOut = []) (hrel : s.mig.releasing = []) (hdue : s.mig.due = []) (hqueue : s.mig.queue = [])
    (hwork : s.mig.work = []) (hcur : s.mig.cur = none) (hop : dOp d ≤ 1) (hform : descForm s d = true) :
    ∃ t, exec (.migrationDescriptor (some d)) s = .next t ∧ t.mig.queue = [] ∧ t.mig.next = s.mig.next + 1 ∧ t.streams = s.streams ∧ t.mem = s.mem ∧
      (¬Permitted s d → t.mig.work = [] ∧ t.mig.cur = none ∧ t.mig.due = [⟨⟨dTag d, 0, 1⟩, false⟩]) ∧
      (Permitted s d → RangesUp s d → t.mig.work = [⟨d, 0⟩] ∧ t.mig.cur = some d ∧ t.mig.due = []) := by
  have hnext := execMigrationDescriptor_eq hrt hout hrel (some d)
  rw [withDesc_some hform hqueue] at hnext
  obtain ⟨v, hv⟩ : ∃ v : State, { s with mig := { s.mig with queue := [d], next := s.mig.next + 1 } } = v := ⟨_, rfl⟩
  have hkeep : v.mem = s.mem ∧ v.streams = s.streams ∧ v.br = s.br ∧ v.mig = { s.mig with queue := [d], next := s.mig.next + 1 } := by
    rw [← hv]
    exact ⟨rfl, rfl, rfl, rfl⟩
  obtain ⟨hmem, hstreams, hbr, hmig⟩ := hkeep
  have hpermitted : Permitted v d ↔ Permitted s d := by
    rw [← hv]
    exact Iff.rfl
  have hup : RangesUp v d ↔ RangesUp s d := by
    rw [← hv]
    exact Iff.rfl
  have hvwork : v.mig.work = [] := by rw [hmig]; exact hwork
  have hvqueue : v.mig.queue = [d] := by rw [hmig]
  have hvcur : v.mig.cur = none := by rw [hmig]; exact hcur
  have hvdue : v.mig.due = [] := by rw [hmig]; exact hdue
  have hvout : v.br.migOut = [] := by rw [hbr]; exact hout
  have htake := takeDesc_eq (s := v) (nextDesc_single (d := d) (congrArg _ hvwork) hvqueue rfl)
  obtain ⟨W, C, D, hbegin⟩ := beginDesc_frame (s := v) (d := d) (by rw [hvwork]; exact fun _ h => absurd h List.not_mem_nil)
  rw [hv, landPiece_idle hvcur, htake] at hnext
  refine ⟨_, hnext, ?_, ?_, ?_, ?_, fun hp => ?_, fun hp hr => ?_⟩
  · rw [hbegin, hvqueue]
    exact removeDesc_single d
  · rw [hbegin, hmig]
  · rw [hbegin]
    exact hstreams
  · rw [hbegin]
    exact hmem
  · have hrefused := beginDesc_refused hvwork hvout hop (fun h => hp (hpermitted.1 h))
    have hw : (beginDesc v d).mig.work = [] := by
      rw [hrefused]
      exact (congrArg _ hvwork).trans List.filter_nil
    have hd : (beginDesc v d).mig.due = [⟨⟨dTag d, 0, 1⟩, false⟩] := by
      rw [hrefused]
      exact congrArg (· ++ _) hvdue
    refine ⟨hw, ?_, hd⟩
    change (workOf (beginDesc v d) d).map (·.desc) = none
    rw [workOf, hw]
    rfl
  · have hgone := beginDesc_permitted (s := v) (d := d) (by rw [hvwork]; exact fun _ h => absurd h List.not_mem_nil) hvout hop (hpermitted.2 hp) (hup.2 hr)
    have hw : (beginDesc v d).mig.work = [⟨d, 0⟩] := by
      rw [hgone]
      exact congrArg (· ++ _) hvwork
    have hd : (beginDesc v d).mig.due = [] := by
      rw [hgone]
      exact hvdue
    refine ⟨hw, ?_, hd⟩
    change (workOf (beginDesc v d) d).map (·.desc) = some d
    rw [workOf, hw, List.find?_cons_of_pos (by simp)]
    rfl

/-- The next piece of the descriptor at work lands (R273). -/
theorem piece_landed (hrt : rtRuns s = true) (hout : s.br.migOut = []) (hrel : s.mig.releasing = []) (hdue : s.mig.due = []) (hqueue : s.mig.queue = [])
    (hwork : s.mig.work = [w]) (hcur : s.mig.cur = some w.desc) (hop : dOp w.desc ≤ 1) (hmove : movingStream s (dTag w.desc) = none)
    (hleft : w.moved < dLen w.desc) {n : Nat} (hn : min 65536 (dLen w.desc - w.moved) = n) :
    ∃ t, exec (.migrationDescriptor none) s = .next t ∧ t.streams = s.streams ∧
      t.mem = devWritten s (dDst w.desc + w.moved) (if dOp w.desc = 0 then devRead s (dSrc w.desc + w.moved) n else List.replicate n 0) ∧
      (w.moved + n < dLen w.desc → t.mig.work = [⟨w.desc, w.moved + n⟩] ∧ t.mig.cur = some w.desc ∧ t.mig.due = []) ∧
      (w.moved + n = dLen w.desc → t.mig.work = [] ∧ t.mig.cur = none ∧ t.mig.due = [⟨⟨dTag w.desc, dLen w.desc, 0⟩, false⟩]) := by
  have hnext := execMigrationDescriptor_eq hrt hout hrel none
  rw [show withDesc s none = s from rfl, landPiece_eq hcur hwork] at hnext
  have hle : w.moved + n ≤ dLen w.desc := by omega
  have hpos : 0 < n := by omega
  rcases Nat.lt_or_eq_of_le hle with hlt | heq
  · have hn' : n = 65536 := by omega
    subst hn'
    have hadv := advanceDesc_on hout hop hmove hpos hlt
    obtain ⟨v, hv⟩ : ∃ v, advanceDesc s w 65536 = v := ⟨_, rfl⟩
    rw [hv] at hadv hnext
    have hvwork : v.mig.work = [⟨w.desc, w.moved + 65536⟩] := by
      rw [hadv, hwork]
      simp
    have hbegin : beginDesc v w.desc = v := beginDesc_atWork (w := ⟨w.desc, w.moved + 65536⟩) (by rw [hvwork]; exact List.mem_singleton_self _)
    rw [takeDesc_eq (d := w.desc) (nextDesc_single (congrArg _ hvwork) (by rw [hadv]; exact hqueue) rfl), hbegin] at hnext
    have hkeep : v.streams = s.streams ∧ v.mem = devWritten s (dDst w.desc + w.moved)
        (if dOp w.desc = 0 then devRead s (dSrc w.desc + w.moved) 65536 else List.replicate 65536 0) ∧ v.mig.due = [] := by
      rw [hadv]
      exact ⟨rfl, rfl, hdue⟩
    obtain ⟨hstreams, hmem, hvdue⟩ := hkeep
    refine ⟨_, hnext, hstreams, hmem, fun _ => ⟨hvwork, ?_, hvdue⟩, fun he => absurd he (Nat.ne_of_lt hlt)⟩
    change (workOf v w.desc).map (·.desc) = some w.desc
    rw [workOf, hvwork, List.find?_cons_of_pos (by simp)]
    rfl
  · have hadv := advanceDesc_last hout hop hmove hpos hn heq
    obtain ⟨v, hv⟩ : ∃ v, advanceDesc s w 65536 = v := ⟨_, rfl⟩
    rw [hv] at hadv hnext
    have hvwork : v.mig.work = [] := by
      rw [hadv]
      simp [endDesc, hwork]
    have hvcur : v.mig.cur = none := by
      rw [hadv]
      simp [endDesc, hcur]
    have hkeep : v.streams = s.streams ∧ v.mem = devWritten s (dDst w.desc + w.moved)
        (if dOp w.desc = 0 then devRead s (dSrc w.desc + w.moved) n else List.replicate n 0) ∧ v.mig.queue = [] ∧
        v.mig.due = [⟨⟨dTag w.desc, dLen w.desc, 0⟩, false⟩] := by
      rw [hadv]
      exact ⟨rfl, rfl, hqueue, congrArg (· ++ _) hdue⟩
    obtain ⟨hstreams, hmem, hvqueue, hvdue⟩ := hkeep
    rw [takeDesc_idle hvwork hvqueue] at hnext
    exact ⟨v, hnext, hstreams, hmem, fun hlt => absurd heq (Nat.ne_of_lt hlt), fun _ => ⟨hvwork, hvcur, hvdue⟩⟩

/-- A descriptor of a higher class is taken at the 64 KiB boundary (R273). -/
theorem piece_preempted (hrt : rtRuns s = true) (hout : s.br.migOut = []) (hrel : s.mig.releasing = []) (hqueue : s.mig.queue = [])
    (hwork : s.mig.work = [w]) (hcur : s.mig.cur = some w.desc) (hopW : dOp w.desc ≤ 1) (hmoveW : movingStream s (dTag w.desc) = none)
    (hleft : w.moved + 65536 < dLen w.desc) (hop : dOp d ≤ 1) (hmove : movingStream s (dTag d) = none) (hform : descForm s d = true)
    (hp : Permitted s d) (hup : RangesUp s d) (hclass : dClass d < dClass w.desc) :
    ∃ t, exec (.migrationDescriptor (some d)) s = .next t ∧ t.mig.work = [⟨w.desc, w.moved + 65536⟩, ⟨d, 0⟩] ∧ t.mig.cur = some d ∧ t.mig.queue = [] := by
  have hnext := execMigrationDescriptor_eq hrt hout hrel (some d)
  rw [withDesc_some hform hqueue] at hnext
  obtain ⟨v, hv⟩ : ∃ v : State, { s with mig := { s.mig with queue := [d], next := s.mig.next + 1 } } = v := ⟨_, rfl⟩
  have hvwork : v.mig.work = [w] := hv ▸ hwork
  rw [hv, landPiece_eq (w := w) (hv ▸ hcur) hvwork] at hnext
  have hadv := advanceDesc_on (s := v) (w := w) (hv ▸ hout) hopW (hv ▸ hmoveW) (n := 65536) (by decide) hleft
  obtain ⟨u, hu⟩ : ∃ u, advanceDesc v w 65536 = u := ⟨_, rfl⟩
  rw [hu] at hadv hnext
  have huwork : u.mig.work = [⟨w.desc, w.moved + 65536⟩] := by
    rw [hadv, hvwork]
    simp
  have huqueue : u.mig.queue = [d] := by
    rw [hadv, ← hv]
  have hne : w.desc ≠ d := fun he => absurd (he ▸ hclass) (Nat.lt_irrefl _)
  have hpu : Permitted u d := by
    rw [hadv, ← hv]
    exact hp
  have hupu : RangesUp u d := by
    rw [hadv, ← hv]
    exact hup
  have hmoved : movingStream u (dTag d) = none ∧ movingStream u (dTag w.desc) = none := by
    rw [hadv, ← hv]
    exact ⟨hmove, hmoveW⟩
  have hbegin := beginDesc_permitted (s := u) (d := d) (by
    rw [huwork]
    intro x hx
    rw [List.mem_singleton.1 hx]
    exact hne) (by rw [hadv, ← hv]; exact hout) hop hpu hupu
  rw [takeDesc_eq (nextDesc_higher (d := d) (e := w.desc) (congrArg _ huwork) huqueue hmoved.1 hmoved.2 hclass)] at hnext
  have hw : (beginDesc u d).mig.work = [⟨w.desc, w.moved + 65536⟩, ⟨d, 0⟩] := by
    rw [hbegin, huwork]
    rfl
  refine ⟨_, hnext, hw, ?_, ?_⟩
  · change (workOf (beginDesc u d) d).map (·.desc) = some d
    rw [workOf, hw, List.find?_cons_of_neg (by simpa using hne), List.find?_cons_of_pos (by simp)]
    rfl
  · change (beginDesc u d).mig.queue = []
    rw [hbegin, huqueue]
    exact removeDesc_single d

end

/-- Settles O48: the engine holds at most one descriptor in each case, so the order of service and the checks decide by its class and ranges alone. -/
theorem migrationEngineMovesData : Obligations.MigrationEngineMovesData := by
  refine ⟨?_, ?_⟩
  · intro f k dt s hserves u h w x dev hexpert hbad hbusyW hbusyH hothers hstate hmoving hnoPair hstands
    have hustreams : u.streams = s.streams := servedIn_streams s f dt
    have hx : x = getStream u h := by
      rw [getStream, hustreams]
      rfl
    rw [hx] at hothers hstate hmoving hnoPair
    have hpair : (pairIdx u w dev).isSome = true ∧ (getModel u (getStream u h).model).isSome = true := by
      unfold noPair at hnoPair
      split at hnoPair
      next q y hq hy =>
        refine ⟨?_, ?_⟩
        · obtain ⟨i, hi, -⟩ := Option.bind_eq_some_iff.1 hq
          rw [hi]
          rfl
        · obtain ⟨m, hm, -⟩ := Option.map_eq_some_iff.1 hy
          rw [hm]
          rfl
      · cases hnoPair
    have hok : (decide ((getStream u h).state ≠ .paused) && decide ((getStream u h).state ≠ .evicted) || (getStream u h).moving) = false := by
      rw [hmoving]
      rcases hstate with h | h <;> simp [h]
    have hnext : exec (.streamMigrate f true dt) s = .next (acceptMigrate u f k h dev w) := by
      rw [exec_streamMigrate]
      refine runCmd_of_body hserves (checked_some (passes_append.2 ⟨passes_levelExpert hexpert, ?_⟩) rfl)
      simp only [passes_cons, passes_nil, and_true]
      exact ⟨hbad, by rw [Bool.or_eq_false_iff]; exact ⟨hbusyW, hbusyH⟩, hothers, hok, hnoPair, rfl⟩
    obtain ⟨t, ht⟩ : ∃ t, acceptMigrate u f k h dev w = t := ⟨_, rfl⟩
    rw [ht] at hnext
    obtain ⟨hmem, hother, hstream, hprogress⟩ := acceptMigrate_spec hpair.1 hpair.2 hstands ht
    refine ⟨t, hnext, ?_, ?_, ?_, fun k hk => ?_, hmem.trans (servedIn_mem s f dt), hprogress⟩
    · rw [hstream]
      rfl
    · rw [hstream]
      rfl
    · rw [hstream, hx]
      rfl
    · rw [hother k hk, getStream, getStream, hustreams]
  · intro s hrt hout hrel hdue mine permitted up
    refine ⟨?_, ?_, ?_, ?_⟩
    · intro d hqueue hwork hcur hmine hform
      exact descriptor_begun hrt hout hrel hdue hqueue hwork hcur hmine.1 hform
    · intro w hqueue hwork hcur hmine hleft n bytes
      exact piece_landed hrt hout hrel hdue hqueue hwork hcur hmine.1 hmine.2 hleft rfl
    · intro w d hqueue hwork hcur hmineW hleft hmine hform hp hup hclass
      exact piece_preempted hrt hout hrel hqueue hwork hcur hmineW.1 hmineW.2 hleft hmine.1 hmine.2 hform hp hup hclass
    · intro x dt hqueue hwork hcur u
      obtain ⟨T, sl, sa, htick⟩ := tick_br u dt
      obtain ⟨v, hv⟩ : ∃ v, tick u dt = v := ⟨_, rfl⟩
      have hkeep : v.br.migOut = [] ∧ v.mig = { s.mig with due := [x] } ∧ v.mem = s.mem ∧ v.streams = s.streams := by
        rw [← hv, htick]
        exact ⟨hout, rfl, rfl, rfl⟩
      obtain ⟨hvout, hvmig, hvmem, hvstreams⟩ := hkeep
      have hnext := execMigrationComplete_eq (s := u) (dt := dt) (x := x) hrt hout rfl
      rw [hv, completeNext_eq (x := x) hvout (by rw [hvmig]), hvmig] at hnext
      obtain ⟨y, hy⟩ : ∃ y : State, { v with mig := { { s.mig with due := [x] } with done := s.mig.done ++ [x.out], due := [] } } = y := ⟨_, rfl⟩
      have hykeep : y.br.migOut = [] ∧ y.mig = { s.mig with done := s.mig.done ++ [x.out], due := [] } ∧ y.mem = v.mem ∧ y.streams = v.streams := by
        rw [← hy]
        exact ⟨hvout, rfl, rfl, rfl⟩
      obtain ⟨hyout, hymig, hymem, hystreams⟩ := hykeep
      have hystream (h : Handle) : getStream y h = getStream s h := by rw [getStream, getStream, hystreams, hvstreams]
      have hymoving (tag : BitVec 16) : movingStream y tag = movingStream s tag := by rw [movingStream, movingStream, hystreams, hvstreams]
      have hywork : y.mig.work = [] ∧ y.mig.queue = [] ∧ y.mig.due = [] ∧ y.mig.releasing = [] := by
        rw [hymig]
        exact ⟨hwork, hqueue, rfl, hrel⟩
      obtain ⟨hywork, hyqueue, hydue, hyrel⟩ := hywork
      change exec _ _ = .next (takeDesc (settleDestroys (settleDesc _ _ _))) at hnext
      refine ⟨fun hmove => ?_, fun h m hmove hstatus hm => ?_⟩
      · have hsettle (lost : Bool) : settleDesc y x.out lost = y := by
          rw [settleDesc, outOfTag_of_none hyout, hymoving, hmove, hyrel]
          rfl
        have hnext' := hnext.trans (congrArg (fun z => Host.Outcome.next (takeDesc (settleDestroys z))) ((congrArg (settleDesc · _ _) hy).trans (hsettle _)))
        obtain ⟨hmem, hstreams, R, hmig⟩ := takeDesc_settled hywork hyqueue
        exact ⟨_, hnext', by rw [hmig, hymig], by rw [hmig, hymig], hmem.trans (hymem.trans hvmem), hstreams.trans (hystreams.trans hvstreams)⟩
      · have hmore : moreOf y x.out.tag = false := by
          rw [moreOf, hyqueue, hywork, hydue]
          rfl
        have hsettle (lost : Bool) : settleDesc y x.out lost = moveDone y h m := by
          rw [settleDesc, outOfTag_of_none hyout, hymoving, hmove, hyrel]
          dsimp only [List.find?_nil]
          rw [if_neg (by rw [hstatus]; decide), hmore, hystream, hm]
          rfl
        have hnext' := hnext.trans (congrArg (fun z => Host.Outcome.next (takeDesc (settleDestroys z))) ((congrArg (settleDesc · _ _) hy).trans (hsettle _)))
        obtain ⟨⟨R, hmig⟩, hother, hptr, hnone, hstate⟩ := moveDone_spec y h m
        obtain ⟨z, hz⟩ : ∃ z, moveDone y h m = z := ⟨_, rfl⟩
        rw [hz] at hmig hother hptr hnone hstate hnext'
        obtain ⟨-, hstreams, R', hmig'⟩ := takeDesc_settled (v := z) (by rw [hmig]; exact hywork) (by rw [hmig]; exact hyqueue)
        have htstream (k : Handle) : getStream (takeDesc (settleDestroys z)) k = getStream z k := by rw [getStream, getStream, hstreams]
        refine ⟨_, hnext', by rw [hmig', hmig, hymig], by rw [hmig', hmig, hymig], fun k hk => ?_, ?_, ?_, ?_⟩
        · rw [htstream, hother k hk, hystream]
        · rw [htstream, hptr]
        · rw [htstream, hnone]
        · rw [htstream, hstate, hystream]

end Sys2Proof.Machine
end


-- ==== Proofs: units of the queued memory commands ====
section
/-! PROOFS. A unit of a queued memory command: the entry that is alone in its queue is worked on by itself, reads what stands, and moves on. -/

namespace Sys2Proof.Machine
open Sys2Proof

variable {s t u : State} {c : CoreId} {q : QEntry}

/-! ### The entry under work -/

/-- A state whose cores, memory and monitor are those of another. -/
structure SameCores (s t : State) : Prop where
  cores : ∀ d, getCore t d = getCore s d
  mem : t.mem = s.mem
  mon : t.mon = s.mon
  fuses : t.fuses = s.fuses

theorem sameCores_refl (s : State) : SameCores s s := ⟨fun _ => rfl, rfl, rfl, rfl⟩

theorem SameCores.trans (h : SameCores s t) (k : SameCores t u) : SameCores s u :=
  ⟨fun d => (k.cores d).trans (h.cores d), k.mem.trans h.mem, k.mon.trans h.mon, k.fuses.trans h.fuses⟩

theorem SameCores.onlyEntry (h : SameCores s t) (ho : OnlyEntry s c q) : OnlyEntry t c q := fun k => by rw [h.cores c]; exact ho k

theorem sameCores_setCore (s : State) (c : CoreId) : SameCores s (setCore s c (getCore s c)) := by
  refine ⟨fun d => ?_, rfl, rfl, rfl⟩
  by_cases hd : d = c
  · rw [hd, getCore_setCore]
  · rw [getCore_setCore_ne _ _ _ _ hd]

theorem setQ_getQ (q : Seq) (k : QSel) : setQ q k (getQ q k) = q := by cases k <;> rfl

/-- A change of the only entry of its queue. -/
theorem modEntry_of_onlyEntry (ho : OnlyEntry s c q) (f : QEntry → QEntry) : modEntry s c (queueOf q.kind) q.n f =
    setCore s c { getCore s c with seq := setQ (getCore s c).seq (queueOf q.kind) [f q] } := by
  have hq := getQ_of_onlyEntry ho
  unfold modEntry
  rw [modSeq_eq, modCore_eq, hq]
  simp

/-- The core after a change of the only entry. -/
theorem onlyEntry_modEntry (ho : OnlyEntry s c q) {f : QEntry → QEntry} {e : QEntry} (he : f q = e) (hk : queueOf e.kind = queueOf q.kind) :
    OnlyEntry (modEntry s c (queueOf q.kind) q.n f) c e := by
  intro k
  rw [modEntry_of_onlyEntry ho, getCore_setCore, he, getQ_setQ, hk]
  split
  · rfl
  next hne => exact (ho k).trans (if_neg hne)

theorem modEntry_self (ho : OnlyEntry s c q) {f : QEntry → QEntry} (hf : f q = q) : modEntry s c (queueOf q.kind) q.n f = setCore s c (getCore s c) := by
  rw [modEntry_of_onlyEntry ho, hf, ← getQ_of_onlyEntry ho, setQ_getQ]

/-- What an entry's change leaves: the engines, the other cores, memory, the monitor. -/
structure SameEngines (c : CoreId) (s t : State) : Prop where
  eng : (getCore t c).eng = (getCore s c).eng
  spTask : (getCore t c).spTask = (getCore s c).spTask
  others : ∀ d, d ≠ c → getCore t d = getCore s d
  mem : t.mem = s.mem
  mon : t.mon = s.mon
  fuses : t.fuses = s.fuses

theorem SameEngines.trans (h : SameEngines c s t) (k : SameEngines c t u) : SameEngines c s u :=
  ⟨k.eng.trans h.eng, k.spTask.trans h.spTask, fun d hd => (k.others d hd).trans (h.others d hd), k.mem.trans h.mem, k.mon.trans h.mon,
    k.fuses.trans h.fuses⟩

theorem SameCores.engines (h : SameCores s t) : SameEngines c s t :=
  ⟨by rw [h.cores], by rw [h.cores], fun d _ => h.cores d, h.mem, h.mon, h.fuses⟩

theorem sameEngines_modEntry (s : State) (c : CoreId) (k : QSel) (n : Nat) (f : QEntry → QEntry) : SameEngines c s (modEntry s c k n f) := by
  unfold modEntry
  rw [modSeq_eq, modCore_eq]
  exact ⟨by rw [getCore_setCore], by rw [getCore_setCore], fun d hd => getCore_setCore_ne _ _ _ _ hd, rfl, rfl, rfl⟩

/-- The next unit of a command: its number in row order is one more. -/
theorem nextUnit_spec {q : QEntry} (hj : q.uIdx < (shapeOf q).2) :
    (nextUnit q).n = q.n ∧ (nextUnit q).started = q.started ∧ (nextUnit q).kind = q.kind ∧
      (nextUnit q).uRow * (shapeOf q).2 + (nextUnit q).uIdx = q.uRow * (shapeOf q).2 + q.uIdx + 1 := by
  have hdrop (p : QEntry) (hp : p = q ∨ ∃ C, p = { q with cap := C }) : p.n = q.n ∧ p.started = q.started ∧ p.kind = q.kind ∧ p.uRow = q.uRow ∧ p.uIdx = q.uIdx := by
    rcases hp with rfl | ⟨C, rfl⟩
    · exact ⟨rfl, rfl, rfl, rfl, rfl⟩
    · exact ⟨rfl, rfl, rfl, rfl, rfl⟩
  obtain ⟨p, hp, hpq⟩ : ∃ p, (if keepsPieces q then q else dropCap q fun k => decide (k < keyBlock)) = p ∧ (p = q ∨ ∃ C, p = { q with cap := C }) := by
    split
    · exact ⟨_, rfl, .inl rfl⟩
    · exact ⟨_, rfl, .inr ⟨_, rfl⟩⟩
  obtain ⟨hn, hst, hk, hr, hi⟩ := hdrop p hpq
  unfold nextUnit
  dsimp only
  rw [hp]
  split
  · exact ⟨hn, hst, hk, by simp only [hr]; omega⟩
  next hlast =>
    refine ⟨hn, hst, hk, ?_⟩
    have : q.uIdx + 1 = (shapeOf q).2 := by omega
    simp only [Nat.add_mul, Nat.one_mul]
    omega

theorem zerosOf_of_onlyEntry (ho : OnlyEntry s c q) (hz : q.zeros = []) (port : BitVec 3) (key : Nat) (l : Pieces) :
    zerosOf s c (reads q port key l) = [] := by
  have hq := getQ_of_onlyEntry ho
  simp only [zerosOf, reads, hq]
  simp [hz]

/-- What a read of one piece delivers. -/
theorem performNow_read (ho : OnlyEntry s c q) (hz : q.zeros = []) (port : BitVec 3) (key a n : Nat) :
    performNow c s (reads q port key [(a, n)]) = modEntry s c (queueOf q.kind) q.n fun e => putCap e key (spRead (getCore s c) [] a n) := by
  have hdelivers : delivers s c (reads q port key [(a, n)]) false = spRead (getCore s c) [] a n := by
    rw [delivers, zerosOf_of_onlyEntry ho hz]
    exact List.append_nil _
  change modEntry s c (queueOf q.kind) q.n (fun e => putCap e key (delivers s c (reads q port key [(a, n)]) false)) = _
  rw [hdelivers]

/-- What a write of bytes at consecutive places puts down. -/
theorem writeCells_pieces (s : State) (c : CoreId) (a : Access) (p : Nat) (l : List Byte) (hp : a.pieces = l.zipIdx.map fun x => (p + x.2, 1)) :
    writeCells s c a l = spWrites (getCore s c) p l := by
  have hplaces : (a.pieces.flatMap fun y => (List.range y.2).map fun i => y.1 + i) = l.zipIdx.map fun x => p + x.2 := by
    rw [hp, List.flatMap_map]
    simp only [List.range_one, List.map_cons, List.map_nil, Nat.add_zero]
    exact List.map_eq_flatMap.symm
  have hzip : (l.zipIdx.map fun x => p + x.2).zip l = l.zipIdx.map fun x => (p + x.2, x.1) := by
    refine List.ext_getElem (by simp) fun i h1 h2 => by simp
  rw [writeCells, hplaces, hzip, List.filterMap_map]
  rfl

/-! ### Charges -/

theorem countTier_frame (s : State) (c : CoreId) (a n : Nat) : ∃ P, countTier s c a n = { s with parts := P } := by
  unfold countTier
  split
  · exact ⟨_, rfl⟩
  · exact ⟨_, rfl⟩

/-! ### What device memory reads -/

theorem length_decRounds (rk : List Byte) (n : Nat) (b : List Byte) : (decRounds rk (n + 1) b).length = 16 := by
  induction n generalizing b with
  | zero => simp [decRounds, permute]
  | succ n ih => exact ih _

theorem length_aesDecrypt {rk : List Byte} (hrk : 16 ≤ rk.length) (b : List Byte) : (aesDecrypt rk b).length = 16 := by
  rw [aesDecrypt, xorBytes, List.length_zipWith, length_decRounds, roundKey, List.length_take, List.length_drop]
  omega

theorem length_xtsBlocks {f : List Byte → List Byte} (hf : ∀ b, (f b).length = 16) (n t : Nat) (b : List Byte) : (xtsBlocks f n t b).length = 16 * n := by
  induction n generalizing t b with
  | zero => rfl
  | succ n ih =>
    rw [xtsBlocks, List.length_append, ih, xorBytes, List.length_zipWith, hf, length_leBytes]
    omega

theorem length_dataKeys (key : BitVec 512) : 16 ≤ (dataKeys key).length := by
  rw [dataKeys, roundKeys, List.length_append, List.length_take, length_leBytes]
  omega

theorem length_readLine (s : State) (l : Nat) : (readLine s l).length = 64 := by
  have hrds : (Memory.rds s.mem (l * 64) 64).length = 64 := by simp [Memory.rds]
  rw [readLine]
  split
  next k _ => exact length_xtsBlocks (length_aesDecrypt (length_dataKeys k)) 4 _ _
  · exact hrds

theorem length_devRead (s : State) (a n : Nat) : (devRead s a n).length = n := by
  unfold devRead
  split
  · simp [Memory.rds]
  · rw [List.length_take, List.length_drop, length_flatMap_const fun _ _ => length_readLine .., List.length_range, cdiv]
    omega

end Sys2Proof.Machine
end


-- ==== Proofs: DMA ====
section
/-! PROOFS. DMA without coding on this device (R86 to R89). -/

namespace Sys2Proof.Machine
open Sys2Proof

variable {s t u : State} {c : CoreId} {q e : QEntry} {d : DmaSide}

/-- A command of the four DMA kinds. -/
def IsDma (q : QEntry) : Prop := q.kind ∈ [.dmaLoad, .dmaStore, .dmaCopy, .dmaZero]

theorem startOf_dma (h : IsDma q) : startOf s c q = startDma s c q := by
  unfold startOf
  simp only [IsDma, List.mem_cons, List.not_mem_nil, or_false] at h
  rcases h with h | h | h | h <;> rw [h]

theorem unitEffect_dma (h : IsDma q) : unitEffect s c q = dmaUnit s c q q.uRow q.uIdx := by
  unfold unitEffect
  simp only [IsDma, List.mem_cons, List.not_mem_nil, or_false] at h
  rcases h with h | h | h | h <;> rw [h]

theorem queueOf_dma (h : IsDma q) : queueOf q.kind = .dma := by
  simp only [IsDma, List.mem_cons, List.not_mem_nil, or_false] at h
  rcases h with h | h | h | h <;> rw [h] <;> rfl

theorem shapeOf_dma (h : IsDma q) : shapeOf q = (dmaRows q.w, cdiv (dmaLen q.w) 128) := by
  unfold shapeOf
  simp only [IsDma, List.mem_cons, List.not_mem_nil, or_false] at h
  rcases h with h | h | h | h <;> rw [h] <;> rfl

/-! ### Start -/

section
variable (hz : dmaCz q.w = 0)
include hz

theorem not_isCoded : isCoded q = false := by simp [isCoded, hz]

theorem sides_uncoded (hd : d ∈ dmaSides q) : d.coded = false := by
  unfold dmaSides at hd
  rw [hz] at hd
  simp only [ne_eq, not_true_eq_false, decide_false] at hd
  split at hd <;> simp only [List.mem_cons, List.not_mem_nil, or_false] at hd
  · rw [hd]
  · rw [hd]
  · rcases hd with rfl | rfl
    · rfl
    · rfl
  · rw [hd]

theorem startDma_eq (hm : dmaMayStart (getCore s c) q = true) (hg : ∀ d ∈ dmaSides q, gaBad d.value = false) :
    startDma s c q = if dmaLen q.w = 0 then .done s else (dmaErr s c q).getD (beginDma s c q) := by
  have hnone : (dmaSides q).find? sideMisaligned = none := List.find?_eq_none.2 fun d hd => by
    simp [sideMisaligned, hg d hd, sides_uncoded hz hd]
  have hslot : slotPending (getCore s c) q = false := by rw [slotPending, not_isCoded hz]; rfl
  unfold startDma
  dsimp only
  rw [hslot, hm, hnone]
  rfl

omit hz in
theorem source_local (hl : ∀ d ∈ dmaSides q, isRemote s d = false) : (dmaSource q).filter (isRemote s) = none := by
  cases h : dmaSource q with
  | none => rfl
  | some d =>
    have hd : isRemote s d = false := hl d (List.mem_of_find?_eq_some h)
    simp [Option.filter, hd]

theorem beginDma_spec (hl : ∀ d ∈ dmaSides q, isRemote s d = false) :
    ∃ r, beginDma s c q = .run s r ∧ r.started = true ∧ r.w = q.w ∧ r.regs = q.regs ∧ r.uRow = q.uRow ∧ r.uIdx = q.uIdx := by
  have hlocal := source_local hl
  obtain ⟨y, hy⟩ : ∃ y : QEntry, { q with supp := suppressedRows s q, gslot := none } = y := ⟨_, rfl⟩
  have hfields : y.w = q.w ∧ y.regs = q.regs ∧ y.uRow = q.uRow ∧ y.uIdx = q.uIdx ∧ dmaSource y = dmaSource q := by
    rw [← hy]
    exact ⟨rfl, rfl, rfl, rfl, rfl⟩
  obtain ⟨hw, hregs, hrow, hidx, hsource⟩ := hfields
  have hcoded : isCoded y = false := by
    rw [isCoded, hw]
    exact not_isCoded hz
  have hbegin : ∃ n, beginDma s c q = .run s (paced s c y n) := by
    unfold beginDma
    simp only [not_isCoded hz, hcoded, Bool.false_eq_true, if_false, hy]
    rw [hsource, hlocal]
    exact ⟨_, rfl⟩
  obtain ⟨n, hbegin⟩ := hbegin
  exact ⟨_, hbegin, rfl, hw, hregs, hrow, hidx⟩

end

/-! ### A unit -/

/-- A command without coding on this device, at a unit of its rows. -/
structure PlainUnit (s : State) (q : QEntry) : Prop where
  dma : IsDma q
  uncoded : dmaCz q.w = 0
  here : ∀ d ∈ dmaSides q, isRemote s d = false
  supp : q.supp = []
  lost : q.lost = []
  gslot : q.gslot = none

theorem PlainUnit.notDecodes (h : PlainUnit s q) (r : Nat) : decodes q r = false := by rw [decodes, not_isCoded h.uncoded]; rfl
theorem PlainUnit.notCodes (h : PlainUnit s q) (r : Nat) : codes q r = false := by rw [codes, not_isCoded h.uncoded]; rfl

theorem PlainUnit.congr (h : PlainUnit s q) (hf : t.fuses = s.fuses) : PlainUnit t q :=
  ⟨h.dma, h.uncoded, fun d hd => by rw [isRemote, hf]; exact h.here d hd, h.supp, h.lost, h.gslot⟩

/-- Bytes in the entry's hands change nothing of what it is. -/
theorem PlainUnit.putCap (h : PlainUnit s q) (key : Nat) (b : List Byte) : PlainUnit s (putCap q key b) :=
  ⟨h.dma, h.uncoded, h.here, h.supp, h.lost, h.gslot⟩

theorem PlainUnit.openUnit (h : PlainUnit s q) (ho : OnlyEntry s c q) : SameCores s (openUnit s c q) := by
  have hfetch : fetchBlock s c q q.uRow q.uIdx = q := by rw [fetchBlock, h.notDecodes]; rfl
  have hsame : SameCores s (modEntry s c .dma q.n fun e => fetchBlock s c e e.uRow e.uIdx) := by
    rw [← queueOf_dma h.dma, modEntry_self ho (f := fun e => fetchBlock s c e e.uRow e.uIdx) hfetch]
    exact sameCores_setCore s c
  unfold Machine.openUnit
  split
  · exact hsame
  · exact hsame
  · exact sameCores_refl s

theorem not_sourceLost (h : q.lost = []) (r o n : Nat) : sourceLost s q r o n = false := by
  unfold sourceLost
  split
  · rw [h]
    exact Bool.and_false _
  · rfl

/-- The source of a unit is none, or stands here and is charged. -/
theorem PlainUnit.source_cases (h : PlainUnit s q) : dmaSource q = none ∨ ∃ d, dmaSource q = some d ∧ isRemote s d = false := by
  cases hs : dmaSource q with
  | none => exact .inl rfl
  | some d => exact .inr ⟨d, rfl, h.here d (List.mem_of_find?_eq_some hs)⟩

/-- A unit whose last step is known once its source has been charged. -/
theorem PlainUnit.dmaUnit_of (h : PlainUnit s q) (r j : Nat) : ∃ P, ∀ z, (match dmaDest q with | some d => putPlain { s with parts := P } c q d r j | none => { s with parts := P }) = z →
    finishSent z c (entryNow z c q) r = z → dmaUnit s c q r j = z := by
  rcases h.source_cases with hs | ⟨e, hs, he⟩
  · refine ⟨s.parts, fun z hz hfinish => ?_⟩
    unfold dmaUnit
    simp only [h.supp, List.contains_nil, Bool.false_and, Bool.false_eq_true, if_false, hs, h.notDecodes, h.notCodes, not_isCoded h.uncoded]
    subst hz
    cases hd : dmaDest q <;> simp only [hd] at hfinish ⊢ <;> simp only [hfinish, ite_self]
  · obtain ⟨P, hP⟩ := countTier_frame s c (sideAddr q.w e r + 128 * j) (pieceLen q j)
    refine ⟨P, fun z hz hfinish => ?_⟩
    unfold dmaUnit
    simp only [h.supp, List.contains_nil, Bool.false_and, Bool.false_eq_true, if_false, hs, he, h.notDecodes, h.notCodes, not_isCoded h.uncoded, hP]
    subst hz
    cases hd : dmaDest q <;> simp only [hd] at hfinish ⊢ <;> simp only [hfinish, ite_self]

/-- The end of a row has nothing to send. -/
theorem PlainUnit.finishSent_eq (h : PlainUnit s q) (ho : OnlyEntry s c q) (r : Nat) : finishSent s c (entryNow s c q) r = s := by
  have hlocal : (dmaDest q).filter (isRemote s) = none := by
    cases hd : dmaDest q with
    | none => rfl
    | some d =>
      have hh : isRemote s d = false := h.here d (List.mem_of_find?_eq_some hd)
      simp [Option.filter, hh]
  rw [entryNow_of_onlyEntry ho, finishSent, hlocal]

/-- A unit that lands in the scratchpad has no bytes for memory. -/
theorem PlainUnit.dmaUnit_noDest (h : PlainUnit s q) (ho : OnlyEntry s c q) (hd : dmaDest q = none) (r j : Nat) :
    ∃ P, dmaUnit s c q r j = { s with parts := P } := by
  obtain ⟨P, hP⟩ := h.dmaUnit_of (c := c) r j
  refine ⟨P, hP _ (by rw [hd]) ?_⟩
  have hz : PlainUnit { s with parts := P } q := h.congr rfl
  exact hz.finishSent_eq (c := c) ho r

/-- A unit whose piece is whole writes it to its destination. -/
theorem PlainUnit.dmaUnit_dest (h : PlainUnit s q) (ho : OnlyEntry s c q) (hd : dmaDest q = some d) {l : List Byte} {r j : Nat}
    (hl : pieceOut s q r j = l.zipIdx.map fun x => (x.2, x.1)) (hlen : l.length = pieceLen q j) :
    ∃ P, dmaUnit s c q r j = { s with parts := P, mem := devWritten s (sideAddr q.w d r + 128 * j) l } := by
  obtain ⟨P, hP⟩ := h.dmaUnit_of (c := c) r j
  obtain ⟨v, hv⟩ : ∃ v : State, { s with parts := P } = v := ⟨_, rfl⟩
  have hvu : PlainUnit v q := h.congr (by rw [← hv])
  have hvkeep : v.mem = s.mem ∧ v.mon = s.mon ∧ OnlyEntry v c q ∧ pieceOut v q r j = l.zipIdx.map (fun x => (x.2, x.1)) := by
    rw [← hv]
    exact ⟨rfl, rfl, ho, hl⟩
  obtain ⟨hmem, hmon, hvo, hpiece⟩ := hvkeep
  obtain ⟨P', hP'⟩ := countTier_frame v c (sideAddr q.w d r + 128 * j) (pieceLen q j)
  have hbytes : (l.zipIdx.map fun x => (x.2, x.1)).map (·.2) = l := by
    rw [List.map_map]
    exact List.zipIdx_map_fst 0 l
  have hhere : isRemote v d = false := hvu.here d (List.mem_of_find?_eq_some hd)
  have hput : putPlain v c q d r j = { v with parts := P', mem := devWritten v (sideAddr q.w d r + 128 * j) l } := by
    unfold putPlain
    dsimp only
    rw [hpiece, hhere, hP', hbytes]
    simp only [List.length_map, List.length_zipIdx, hlen, Bool.false_eq_true, if_false, if_true]
    rw [devWrite, devWritten_congr (t := { v with parts := P' }) (s := v) rfl rfl]
  rw [hv] at hP
  have hz : PlainUnit { v with parts := P', mem := devWritten v (sideAddr q.w d r + 128 * j) l } q := hvu.congr rfl
  refine ⟨P', (hP _ (by rw [hd]; exact hput) (hz.finishSent_eq (c := c) hvo r)).trans ?_⟩
  rw [devWritten_congr hmem hmon, ← hv]

/-! ### The four kinds -/

theorem sourceBytes_zero (hk : q.kind = .dmaZero) (r o n : Nat) : sourceBytes s q r o n = List.replicate n 0 := by
  rw [sourceBytes, hk]

theorem sourceBytes_local (hk : q.kind ≠ .dmaZero) (hd : dmaSource q = some d) (hl : isRemote s d = false) (r o n : Nat) :
    sourceBytes s q r o n = devRead s (sideAddr q.w d r + o) n := by
  unfold sourceBytes
  rw [hd]
  split
  next hz => exact absurd hz hk
  next hsome _ =>
    cases hsome
    simp only [hl, Bool.false_eq_true, if_false]
  next hn _ => cases hn

/-- A piece read from memory, or zeros, is whole. -/
theorem pieceOut_source (h : PlainUnit s q) (hk : q.kind ≠ .dmaStore) (r j : Nat) :
    pieceOut s q r j = (sourceBytes s q r (128 * j) (pieceLen q j)).zipIdx.map fun x => (x.2, x.1) := by
  unfold pieceOut
  rw [if_neg hk, h.notDecodes]
  simp only [Bool.false_eq_true, if_false, not_sourceLost h.lost]
  exact congrFun List.filterMap_eq_map' _

/-- The entry after its unit: alone in its queue, one unit on. -/
structure OneOn (c : CoreId) (q : QEntry) (u : State) : Prop where
  entry : ∃ e, getQ (getCore u c).seq .dma = [e] ∧ e.n = q.n ∧ e.started = true ∧
    e.uRow * cdiv (dmaLen q.w) 128 + e.uIdx = q.uRow * cdiv (dmaLen q.w) 128 + q.uIdx + 1

/-- The end of a unit: the row's work, and the entry moves on. -/
theorem PlainUnit.finishUnit_eq {w z : State} (h : PlainUnit w e) (ho : OnlyEntry w c e) (hn : e.n = q.n) (hk : queueOf q.kind = queueOf e.kind) (hr : e.uRow = q.uRow)
    (hj : e.uIdx < cdiv (dmaLen e.w) 128) (hw : e.w = q.w) (hi : e.uIdx = q.uIdx) (hs : e.started = true)
    (hz : dmaUnit w c e e.uRow e.uIdx = z) (hzo : OnlyEntry z c e) : SameEngines c z (finishUnit w c q) ∧ OneOn c q (finishUnit w c q) := by
  have hentry : entryNow w c q = e := by
    have hq := getQ_of_onlyEntry ho
    rw [entryNow, hk, hq]
    simp [hn]
  have hfinish : finishUnit w c q = modEntry z c (queueOf e.kind) e.n fun e => if e.uRow = q.uRow then nextUnit e else e := by
    rw [finishUnit, hentry, unitEffect_dma h.dma, hz, hk, hn]
  rw [hfinish]
  refine ⟨sameEngines_modEntry .., ⟨nextUnit e, ?_, ?_⟩⟩
  · rw [modEntry_of_onlyEntry hzo, getCore_setCore]
    dsimp only
    rw [queueOf_dma h.dma, getQ_setQ_self, if_pos hr]
  · have hshape := shapeOf_dma h.dma
    obtain ⟨hnn, hst, -, hnum⟩ := nextUnit_spec (q := e) (by rw [hshape]; exact hj)
    rw [hshape, hw, hr, hi] at hnum
    exact ⟨hnn.trans hn, hst.trans hs, hnum⟩

theorem dmaDest_congr (hk : e.kind = q.kind) (hw : e.w = q.w) (hr : e.regs = q.regs) : dmaDest e = dmaDest q := by
  rw [dmaDest, dmaDest, dmaSides, dmaSides, hk, hw, hr]

theorem SameCores.entryNow (h : SameCores s t) (ho : OnlyEntry s c q) : entryNow t c q = q := entryNow_of_onlyEntry (h.onlyEntry ho)

/-- An entry with the same command at the same unit. -/
structure SameUnit (q e : QEntry) : Prop where
  n : e.n = q.n
  kind : e.kind = q.kind
  uRow : e.uRow = q.uRow
  uIdx : e.uIdx = q.uIdx
  w : e.w = q.w
  regs : e.regs = q.regs
  started : e.started = q.started

theorem sameUnit_refl (q : QEntry) : SameUnit q q := ⟨rfl, rfl, rfl, rfl, rfl, rfl, rfl⟩
theorem sameUnit_putCap (q : QEntry) (key : Nat) (b : List Byte) : SameUnit q (putCap q key b) := ⟨rfl, rfl, rfl, rfl, rfl, rfl, rfl⟩

section
variable (h : PlainUnit s q) (ho : OnlyEntry s c q) (hs : q.started = true) (hj : q.uIdx < cdiv (dmaLen q.w) 128)
include hj

theorem pieceLen_pos : 0 < pieceLen q q.uIdx := by
  rw [cdiv] at hj
  rw [pieceLen]
  omega

include hs

/-- The end of a unit that writes its bytes to its destination, its accesses of the scratchpad made. -/
theorem finishUnit_dest {w : State} (hd : dmaDest q = some d) {l : List Byte} (he : PlainUnit w e) (hwo : OnlyEntry w c e) (hsame : SameEngines c s w)
    (hu : SameUnit q e) (hl : pieceOut w e q.uRow q.uIdx = l.zipIdx.map fun x => (x.2, x.1)) (hlen : l.length = pieceLen q q.uIdx) :
    SameEngines c { s with mem := devWritten s (sideAddr q.w d q.uRow + 128 * q.uIdx) l } (finishUnit w c q) ∧ OneOn c q (finishUnit w c q) := by
  obtain ⟨P, hP⟩ := he.dmaUnit_dest hwo (d := d) (r := q.uRow) (j := q.uIdx) (by rw [dmaDest_congr hu.kind hu.w hu.regs]; exact hd) hl
    (by rw [hlen, pieceLen, pieceLen, hu.w])
  rw [hu.w, devWritten_congr hsame.mem hsame.mon] at hP
  obtain ⟨z, hz⟩ : ∃ z : State, { w with parts := P, mem := devWritten s (sideAddr q.w d q.uRow + 128 * q.uIdx) l } = z := ⟨_, rfl⟩
  have hzo : OnlyEntry z c e := by
    rw [← hz]
    exact hwo
  have hzsame : SameEngines c { s with mem := devWritten s (sideAddr q.w d q.uRow + 128 * q.uIdx) l } z := by
    rw [← hz]
    exact ⟨hsame.eng, hsame.spTask, hsame.others, rfl, hsame.mon, hsame.fuses⟩
  obtain ⟨hfin, hone⟩ := he.finishUnit_eq hwo hu.n (by rw [hu.kind]) hu.uRow (by rw [hu.uIdx, hu.w]; exact hj) hu.w hu.uIdx (hu.started.trans hs)
    (by rw [hu.uRow, hu.uIdx]; exact hP.trans hz) hzo
  exact ⟨hzsame.trans hfin, hone⟩

include h ho

/-- COPY and ZERO: the source's bytes go to the destination. -/
theorem moveUnit_direct (hk : q.kind = .dmaCopy ∨ q.kind = .dmaZero) (hd : dmaDest q = some d)
    {l : List Byte} (hl : ∀ v, SameCores s v → sourceBytes v q q.uRow (128 * q.uIdx) (pieceLen q q.uIdx) = l) (hlen : l.length = pieceLen q q.uIdx) :
    SameEngines c { s with mem := devWritten s (sideAddr q.w d q.uRow + 128 * q.uIdx) l } (moveUnit s c q) ∧ OneOn c q (moveUnit s c q) := by
  obtain ⟨v, hv⟩ : ∃ v, openUnit s c q = v := ⟨_, rfl⟩
  have hsv : SameCores s v := hv ▸ h.openUnit ho
  have hmove : moveUnit s c q = finishUnit v c q := by
    rw [moveUnit, hv, hsv.entryNow ho]
    rcases hk with hk | hk <;> simp only [unitAccess, hk] <;> rfl
  have hpiece : pieceOut v q q.uRow q.uIdx = l.zipIdx.map fun x => (x.2, x.1) := by
    rw [pieceOut_source (h.congr hsv.fuses) (by rcases hk with hk | hk <;> simp [hk]), hl v hsv]
  rw [hmove]
  exact finishUnit_dest hs hj hd (h.congr hsv.fuses) (hsv.onlyEntry ho) hsv.engines (sameUnit_refl q) hpiece hlen

/-- STORE: the scratchpad's bytes go to the destination. -/
theorem moveUnit_store (hz : q.zeros = []) (hk : q.kind = .dmaStore) (hd : dmaDest q = some d) {l : List Byte}
    (hl : l = spRead (getCore s c) [] (spRow q q.uRow + 128 * q.uIdx) (pieceLen q q.uIdx)) :
    SameEngines c { s with mem := devWritten s (sideAddr q.w d q.uRow + 128 * q.uIdx) l } (moveUnit s c q) ∧ OneOn c q (moveUnit s c q) := by
  obtain ⟨v, hv⟩ : ∃ v, openUnit s c q = v := ⟨_, rfl⟩
  have hsv : SameCores s v := hv ▸ h.openUnit ho
  have hvo := hsv.onlyEntry ho
  obtain ⟨w, hw⟩ : ∃ w, modEntry v c (queueOf q.kind) q.n (fun e => putCap e (keyPiece q.uIdx) l) = w := ⟨_, rfl⟩
  have hmove : moveUnit s c q = finishUnit w c q := by
    have hread := performNow_read hvo hz 1 (keyPiece q.uIdx) (spRow q q.uRow + 128 * q.uIdx) (pieceLen q q.uIdx)
    rw [hsv.cores c, ← hl, hw] at hread
    rw [moveUnit, hv, hsv.entryNow ho]
    simp only [unitAccess, hk]
    exact congrArg (finishUnit · c q) hread
  have hwo : OnlyEntry w c (putCap q (keyPiece q.uIdx) l) := hw ▸ onlyEntry_modEntry hvo rfl rfl
  have hvw : SameEngines c v w := hw ▸ sameEngines_modEntry ..
  have hpiece : pieceOut w (putCap q (keyPiece q.uIdx) l) q.uRow q.uIdx = l.zipIdx.map fun x => (x.2, x.1) := by
    unfold pieceOut
    rw [if_pos (show (putCap q (keyPiece q.uIdx) l).kind = .dmaStore from hk)]
    have hcap : capOf (putCap q (keyPiece q.uIdx) l) (keyPiece q.uIdx) = l := by simp [capOf, putCap]
    rw [hcap]
  rw [hmove]
  exact finishUnit_dest hs hj hd ((h.congr (hvw.fuses.trans hsv.fuses)).putCap _ l) hwo (hsv.engines.trans hvw) (sameUnit_putCap ..) hpiece
    (by rw [hl]; simp [spRead])

/-- LOAD: the source's bytes go to the scratchpad. -/
theorem moveUnit_load (hk : q.kind = .dmaLoad) (hd : dmaSource q = some d) :
    let l := devRead s (sideAddr q.w d q.uRow + 128 * q.uIdx) (pieceLen q q.uIdx)
    let u := moveUnit s c q
    u.mem = s.mem ∧ (∀ d, d ≠ c → getCore u d = getCore s d) ∧ OneOn c q u ∧
      (getCore u c).eng = { (getCore s c).eng with sp := Memory.wrList (getCore s c).eng.sp (spWrites (getCore s c) (spRow q q.uRow + 128 * q.uIdx) l) } := by
  intro l u
  obtain ⟨v, hv⟩ : ∃ v, openUnit s c q = v := ⟨_, rfl⟩
  have hsv : SameCores s v := hv ▸ h.openUnit ho
  have hvo := hsv.onlyEntry ho
  have hhere : isRemote v d = false := by
    rw [isRemote, hsv.fuses]
    exact h.here d (List.mem_of_find?_eq_some hd)
  have hpiece : pieceOut v q q.uRow q.uIdx = l.zipIdx.map fun x => (x.2, x.1) := by
    rw [pieceOut_source (h.congr hsv.fuses) (by simp [hk]), sourceBytes_local (by simp [hk]) hd hhere, devRead_congr hsv.mem hsv.mon]
  obtain ⟨w, hw⟩ : ∃ w, modEng v c (fun e => { e with sp := Memory.wrList e.sp (spWrites (getCore s c) (spRow q q.uRow + 128 * q.uIdx) l) }) = w := ⟨_, rfl⟩
  have hne : l ≠ [] := by
    intro hnil
    have hlen := length_devRead s (sideAddr q.w d q.uRow + 128 * q.uIdx) (pieceLen q q.uIdx)
    have hpos := pieceLen_pos hj
    rw [show devRead s (sideAddr q.w d q.uRow + 128 * q.uIdx) (pieceLen q q.uIdx) = [] from hnil] at hlen
    rw [← hlen] at hpos
    exact absurd hpos (by decide)
  have haccess : unitAccess v c q = [⟨1, .dma, q.n, q.pc, 0, l.zipIdx.map (fun x => (spRow q q.uRow + 128 * q.uIdx + x.2, 1)), some l⟩] := by
    have hsome : (l.zipIdx.map fun x => (x.2, x.1)).isEmpty = false := by simpa using hne
    have hbytes : (l.zipIdx.map fun x => (x.2, x.1)).map (·.2) = l := by
      rw [List.map_map]
      exact List.zipIdx_map_fst 0 l
    simp only [unitAccess, hk, hpiece, writesAt, hsome, Bool.false_eq_true, if_false, hbytes]
    rw [List.map_map]
    rfl
  have hmove : u = finishUnit w c q := by
    change finishUnit ((unitAccess (openUnit s c q) c (entryNow (openUnit s c q) c q)).foldl (performNow c) (openUnit s c q)) c q = _
    rw [hv, hsv.entryNow ho, haccess, ← hw]
    refine congrArg (finishUnit · c q) ?_
    refine congrArg (fun y => modEng v c fun e => { e with sp := Memory.wrList e.sp y }) ?_
    rw [writeCells_pieces v c _ (spRow q q.uRow + 128 * q.uIdx) l rfl, hsv.cores c]
  have hwcore : getCore w c = { getCore v c with eng := { (getCore v c).eng with
      sp := Memory.wrList (getCore v c).eng.sp (spWrites (getCore s c) (spRow q q.uRow + 128 * q.uIdx) l) } } := by
    rw [← hw]
    exact getCore_setCore ..
  have hwo : OnlyEntry w c q := fun k => by
    rw [hwcore]
    exact hvo k
  have hwkeep : w.mem = v.mem ∧ w.fuses = v.fuses ∧ ∀ d, d ≠ c → getCore w d = getCore v d := by
    rw [← hw]
    exact ⟨rfl, rfl, fun d hd => getCore_setCore_ne _ _ _ _ hd⟩
  obtain ⟨hwmem, hwfuses, hwothers⟩ := hwkeep
  have hwu : PlainUnit w q := h.congr (hwfuses.trans hsv.fuses)
  have hnoDest : dmaDest q = none := by rw [dmaDest, dmaSides, hk]; rfl
  obtain ⟨P, hP⟩ := hwu.dmaUnit_noDest hwo hnoDest q.uRow q.uIdx
  obtain ⟨z, hzw⟩ : ∃ z : State, { w with parts := P } = z := ⟨_, rfl⟩
  have hzkeep : z.mem = w.mem ∧ (∀ d, getCore z d = getCore w d) ∧ OnlyEntry z c q := by
    rw [← hzw]
    exact ⟨rfl, fun _ => rfl, hwo⟩
  obtain ⟨hzmem, hzcores, hzo⟩ := hzkeep
  obtain ⟨hfin, hone⟩ := hwu.finishUnit_eq hwo rfl rfl rfl hj rfl rfl hs (hP.trans hzw) hzo
  rw [hmove]
  refine ⟨hfin.mem.trans (hzmem.trans (hwmem.trans hsv.mem)), fun d hd => ?_, hone, ?_⟩
  · rw [hfin.others d hd, hzcores, hwothers d hd, hsv.cores]
  · rw [hfin.eng, hzcores, hwcore, hsv.cores c]

end

end Sys2Proof.Machine
end

section
/-! PROOFS. The settled statement. -/

namespace Sys2Proof.Machine
open Sys2Proof

/-- Settles O20: without coding a unit's piece is whole, and nothing of the row is left to send. -/
theorem dmaCommandsMoveRows : Obligations.DmaCommandsMoveRows := by
  intro c s q hkind hcz x
  refine ⟨fun hm hg => ⟨fun hlen => ?_, fun hlen hl herr => ?_⟩, ?_⟩
  · rw [startOf_dma hkind, startDma_eq hcz hm hg, if_pos hlen]
  · rw [startOf_dma hkind, startDma_eq hcz hm hg, if_neg (Nat.ne_of_gt hlen), herr]
    exact beginDma_spec hcz hl
  · intro hl ho hs hlost hzeros hsupp hcap hgslot hreads hrow hj r j n ga ra rb spa u
    have h : PlainUnit s q := ⟨hkind, hcz, hl, hsupp, hlost, hgslot⟩
    have hmem {d : DmaSide} {l : List Byte} {t : State} (ht : SameEngines c { s with mem := devWritten s (sideAddr q.w d q.uRow + 128 * q.uIdx) l } t ∧ OneOn c q t) :
        t.mem = devWritten s (sideAddr q.w d q.uRow + 128 * q.uIdx) l ∧ (getCore t c).eng = x.eng ∧ (∀ d, d ≠ c → getCore t d = getCore s d) ∧ OneOn c q t :=
      ⟨ht.1.mem, ht.1.eng, ht.1.others, ht.2⟩
    simp only [List.mem_cons, List.not_mem_nil, or_false] at hkind
    rcases hkind with hk | hk | hk | hk
    · have hd : dmaSource q = some ⟨sregT q.regs (wfld q.w 36 32), false, false⟩ := by simp [dmaSource, dmaSides, hk, hcz]
      obtain ⟨hmem, hothers, hone, heng⟩ := moveUnit_load h ho hs hj hk hd
      exact ⟨hone.entry, hothers, fun _ => ⟨hmem, heng⟩, fun h => by simp [hk] at h, fun h => by simp [hk] at h, fun h => by simp [hk] at h⟩
    · have hd : dmaDest q = some ⟨sregT q.regs (wfld q.w 36 32), false, true⟩ := by simp [dmaDest, dmaSides, hk, hcz]
      obtain ⟨hmem, heng, hothers, hone⟩ := hmem (moveUnit_store h ho hs hj hzeros hk hd rfl)
      exact ⟨hone.entry, hothers, fun h => by simp [hk] at h, fun _ => ⟨hmem, heng⟩, fun h => by simp [hk] at h, fun h => by simp [hk] at h⟩
    · have hs' : dmaSource q = some ⟨sregT q.regs (wfld q.w 36 32), false, false⟩ := by simp [dmaSource, dmaSides, hk, hcz]
      have hd : dmaDest q = some ⟨sregT q.regs (wfld q.w 41 37), false, true⟩ := by simp [dmaDest, dmaSides, hk, hcz]
      obtain ⟨hmem, heng, hothers, hone⟩ := hmem (moveUnit_direct h ho hs hj (.inl hk) hd (fun v hv => by
        rw [sourceBytes_local (by simp [hk]) hs' (by rw [isRemote, hv.fuses]; exact hl _ (List.mem_of_find?_eq_some hs')), devRead_congr hv.mem hv.mon])
        (length_devRead ..))
      exact ⟨hone.entry, hothers, fun h => by simp [hk] at h, fun h => by simp [hk] at h, fun _ => ⟨hmem, heng⟩, fun h => by simp [hk] at h⟩
    · have hd : dmaDest q = some ⟨sregT q.regs (wfld q.w 36 32), false, true⟩ := by simp [dmaDest, dmaSides, hk]
      obtain ⟨hmem, heng, hothers, hone⟩ := hmem (moveUnit_direct h ho hs hj (.inr hk) hd (fun v _ => sourceBytes_zero hk _ _ _) (List.length_replicate ..))
      exact ⟨hone.entry, hothers, fun h => by simp [hk] at h, fun h => by simp [hk] at h, fun h => by simp [hk] at h, fun _ => ⟨hmem, heng⟩⟩

end Sys2Proof.Machine
end


-- ==== Proofs: WLOAD and ADRAIN ====
section
/-! PROOFS. WLOAD, DRAIN and FILL: when they start, what a unit moves (R130, R139, R145). -/

namespace Sys2Proof.Machine
open Sys2Proof

variable {s t u : State} {c : CoreId} {q : QEntry}

/-! ### WLOAD -/

theorem startOf_wload (hk : q.kind = .wload) : startOf s c q = startWload s c q := by rw [startOf, hk]

section
variable (hq : earlier (getCore s c).seq.wlQ q.n = []) (hsh : (getCore s c).eng.mx.shState ≠ 3) (hb : arrayBusy (getCore s c) q = false)
include hq hsh hb

/-- Nothing keeps the WLOAD waiting. -/
theorem wload_free : ¬((!(earlier (getCore s c).seq.wlQ q.n).isEmpty) = true ∨ (getCore s c).eng.mx.shState = 3 ∨ arrayBusy (getCore s c) q = true) := by
  rw [hq, hb]
  exact fun h => h.elim (fun h => Bool.noConfusion h) fun h => h.elim hsh fun h => Bool.noConfusion h

theorem startWload_fail {e : BitVec 8} (he : rangeErr (getCore s c).spTask ⟨false, wlSrc q, wlBytes q⟩ = some e) : startWload s c q = .fail e none false := by
  refine (if_neg (wload_free hq hsh hb)).trans ?_
  rw [he]

theorem startWload_run (hr : rangeErr (getCore s c).spTask ⟨false, wlSrc q, wlBytes q⟩ = none) : startWload s c q =
    .run (modEng s c fun e => { e with mx := loadingSlots e.mx (wlFmt q) (BitVec.ofNat 8 (wfld q.w 61 54)) }) (timed s c q (cdiv (wlBytes q) 512 + 6)) := by
  refine (if_neg (wload_free hq hsh hb)).trans ?_
  rw [hr]

end

/-- The slots of a WLOAD that starts: a W8 tile takes both, any other the shadow (R130). -/
theorem loadingSlots_plain {mx : MxSlot} {fmt : Nat} {k : BitVec 8} (hf : fmt ≠ 3) : (loadingSlots mx fmt k).shState = 1 ∧
    (mx.actState ≠ 2 → (loadingSlots mx fmt k).actState = mx.actState ∧ (loadingSlots mx fmt k).actCodes = mx.actCodes) ∧
    (mx.actState = 2 → (loadingSlots mx fmt k).actState = 0) := by
  unfold loadingSlots
  dsimp only
  rw [if_neg hf]
  refine ⟨rfl, fun ha => ?_, fun ha => ?_⟩
  · rw [if_neg ha]
    exact ⟨rfl, rfl⟩
  · rw [if_pos ha]

theorem loadingSlots_wide {mx : MxSlot} {k : BitVec 8} : (loadingSlots mx 3 k).actState = 3 ∧ (loadingSlots mx 3 k).shState = 0 := ⟨rfl, rfl⟩

/-- The bytes that a read of `width` bytes a cycle presents. -/
theorem readStep_at {port : BitVec 3} {a n width j : Nat} (hj : j * width < n) (t0 : Nat) (ht : t0 = q.startAt) :
    readStep q port a n width (t0 + j) = [reads q port j [(a + j * width, min width (n - j * width))]] := by
  unfold readStep
  dsimp only
  rw [ht, Nat.add_sub_cancel_left, if_pos hj]

/-! ### ADRAIN -/

theorem startOf_drain (hk : q.kind = .adrainDrain) : startOf s c q = startAdrain false s c q := by rw [startOf, hk]
theorem startOf_fill (hk : q.kind = .adrainFill) : startOf s c q = startAdrain true s c q := by rw [startOf, hk]

theorem startAdrain_eq {fill : Bool} (hq : earlier (getCore s c).seq.mxQ q.n = []) (hg : gaBad (sregT q.regs (wfld q.w 36 32)) = false)
    (ha : gaLocal (sregT q.regs (wfld q.w 36 32)) % 16 = 0) (hd : gaDev (sregT q.regs (wfld q.w 36 32)) = s.fuses.devid.toNat)
    (hl : localErr s c (!fill) (adrainRanges q.w (gaLocal (sregT q.regs (wfld q.w 36 32)))) = none)
    (hdown : downErr s (adrainRanges q.w (gaLocal (sregT q.regs (wfld q.w 36 32)))) = none) :
    startAdrain fill s c q = .run s (begun s c q) := by
  unfold startAdrain adrainBase
  dsimp only
  rw [hq, hg, ha, hd, hl, hdown]
  exact (if_neg (by simp)).trans ((if_neg (by simp)).trans ((if_neg (by simp)).trans rfl))

/-- Cells set one after another from a place on. -/
theorem tget_cells (g : Nat → BitVec 40) (base n : Nat) (t : Tbl (BitVec 40)) (k : Nat) :
    tget 0 ((List.range n).foldl (fun t i => tput 0 t (base + i) (g i)) t) k = if base ≤ k ∧ k < base + n then g (k - base) else tget 0 t k := by
  induction n with
  | zero => exact (if_neg (by omega)).symm
  | succ n ih =>
    rw [List.range_succ, List.foldl_append, List.foldl_cons, List.foldl_nil]
    by_cases hk : k = base + n
    · subst hk
      rw [tget_tput_self, if_pos (by omega), Nat.add_sub_cancel_left]
    · rw [tget_tput_ne hk, ih]
      by_cases hin : base ≤ k ∧ k < base + n
      · rw [if_pos hin, if_pos (by omega)]
      · rw [if_neg hin, if_neg (by omega)]

theorem unitEffect_drain (hk : q.kind = .adrainDrain) : unitEffect s c q = drainUnit s c q q.uRow q.uIdx := by rw [unitEffect, hk]
theorem unitEffect_fill (hk : q.kind = .adrainFill) : unitEffect s c q = fillUnit s c q q.uRow q.uIdx := by rw [unitEffect, hk]

/-- A unit of DRAIN writes 64 cells of a row to memory. -/
theorem drainUnit_spec (s : State) (c : CoreId) (q : QEntry) (r g : Nat) :
    (getCore (drainUnit s c q r g) c).eng.acc = (getCore s c).eng.acc ∧ (getCore (drainUnit s c q r g) c).eng.sp = (getCore s c).eng.sp ∧
      (drainUnit s c q r g).mem = devWritten s (adrainUnit q r g).2.2 ((List.range 64).flatMap fun i => leBytes (aformBytes (wfld q.w 59 57))
        (drainElem (wfld q.w 59 57) (wfld q.w 64 60) (accI (getCore s c).eng (adrainUnit q r g).1 ((adrainUnit q r g).2.1 + i))).1) := by
  obtain ⟨⟨row, col, a⟩, hunit⟩ : ∃ y, adrainUnit q r g = y := ⟨_, rfl⟩
  unfold drainUnit
  rw [hunit]
  dsimp only
  obtain ⟨l, hl⟩ : ∃ l, (List.range 64).map (fun i => drainElem (wfld q.w 59 57) (wfld q.w 64 60) (accI (getCore s c).eng row (col + i))) = l := ⟨_, rfl⟩
  obtain ⟨v, hv⟩ : ∃ v, modEng s c (fun e => { e with mxSat := satAdd e.mxSat (l.filter (·.2)).length }) = v := ⟨_, rfl⟩
  have hkeep : v.mem = s.mem ∧ v.mon = s.mon ∧ (getCore v c).eng.acc = (getCore s c).eng.acc ∧ (getCore v c).eng.sp = (getCore s c).eng.sp := by
    rw [← hv, modEng, modCore_eq, getCore_setCore]
    exact ⟨rfl, rfl, rfl, rfl⟩
  obtain ⟨hmem, hmon, hacc, hsp⟩ := hkeep
  obtain ⟨P, hP⟩ := countTier_frame v c a (64 * aformBytes (wfld q.w 59 57))
  rw [hl, hv, hP]
  refine ⟨hacc, hsp, ?_⟩
  change devWritten { v with parts := P } a _ = _
  rw [devWritten_congr (t := { v with parts := P }) (s := s) hmem hmon, ← hl, List.flatMap_map]

/-- A unit of FILL sets 64 cells from memory. -/
theorem fillUnit_spec (s : State) (c : CoreId) (hlost : q.lost = []) (r g : Nat) :
    (fillUnit s c q r g).mem = s.mem ∧ (getCore (fillUnit s c q r g) c).eng.sp = (getCore s c).eng.sp ∧
      ∀ k, tget 0 (getCore (fillUnit s c q r g) c).eng.acc k =
        if (adrainUnit q r g).1 * 256 + (adrainUnit q r g).2.1 ≤ k ∧ k < (adrainUnit q r g).1 * 256 + (adrainUnit q r g).2.1 + 64 then
          ofI 40 (fillElem (wfld q.w 59 57) (wfld q.w 64 60) (devNat s ((adrainUnit q r g).2.2 +
            (k - ((adrainUnit q r g).1 * 256 + (adrainUnit q r g).2.1)) * aformBytes (wfld q.w 59 57)) (aformBytes (wfld q.w 59 57)))).1
        else tget 0 (getCore s c).eng.acc k := by
  obtain ⟨⟨row, col, a⟩, hunit⟩ : ∃ y, adrainUnit q r g = y := ⟨_, rfl⟩
  unfold fillUnit
  rw [hunit]
  dsimp only
  have hall (f : Nat → Bool) (hf : ∀ i, f i = true) : (List.range 64).filter f = List.range 64 := List.filter_eq_self.2 fun i _ => hf i
  rw [hall _ fun i => by rw [hlost]; rfl]
  obtain ⟨v, P, hP, hv⟩ : ∃ v P, countTier s c a (64 * aformBytes (wfld q.w 59 57)) = v ∧ v = { s with parts := P } := by
    obtain ⟨P, hP⟩ := countTier_frame s c a (64 * aformBytes (wfld q.w 59 57))
    exact ⟨_, P, rfl, hP⟩
  have hvcore : getCore v c = getCore s c := by rw [hv]; rfl
  have hvmem : v.mem = s.mem := by rw [hv]
  rw [hP, modEng, modCore_eq, getCore_setCore, hvcore]
  refine ⟨hvmem, rfl, fun k => ?_⟩
  dsimp only
  rw [List.foldl_map]
  exact tget_cells (fun i => ofI 40 (fillElem (wfld q.w 59 57) (wfld q.w 64 60) (devNat s (a + i * aformBytes (wfld q.w 59 57)) (aformBytes (wfld q.w 59 57)))).1)
    (row * 256 + col) 64 _ k

end Sys2Proof.Machine
end

section
/-! PROOFS. The settled statement. -/

namespace Sys2Proof.Machine
open Sys2Proof

/-- Settles O24: a W8 tile takes both slots, any other the shadow; a unit of ADRAIN is 64 cells of one row. -/
theorem wloadAndAdrainRun : Obligations.WloadAndAdrainRun := by
  intro c s q x
  refine ⟨fun hk hq hsh hb => ?_, fun hk => ?_⟩
  · intro fmt n src
    refine ⟨fun e he => ?_, fun hr => ?_⟩
    · rw [startOf_wload hk]
      exact startWload_fail hq hsh hb he
    · have hrun := startWload_run hq hsh hb hr
      rw [← startOf_wload hk] at hrun
      have heng : (getCore (modEng s c fun e => { e with mx := loadingSlots e.mx (wlFmt q) (BitVec.ofNat 8 (wfld q.w 61 54)) }) c).eng.mx =
          loadingSlots x.eng.mx (wlFmt q) (BitVec.ofNat 8 (wfld q.w 61 54)) := by
        rw [modEng, modCore_eq, getCore_setCore]
      refine ⟨_, _, hrun, rfl, rfl, rfl, fun hf => ?_, fun hf => ?_, fun j hj => ?_⟩
      · rw [heng]
        exact loadingSlots_plain hf
      · rw [heng, show wlFmt q = 3 from hf]
        exact loadingSlots_wide
      · exact readStep_at hj _ rfl
  · intro fill va form wb sh
    refine ⟨fun hq hg ha hd hl hdown => ?_, ?_⟩
    · have hrun := startAdrain_eq (fill := fill) hq hg ha hd hl hdown
      simp only [isAdrain, Bool.or_eq_true, decide_eq_true_eq] at hk
      rcases hk with hk | hk
      · rw [startOf_drain hk, ← hrun]
        simp [fill, hk]
      · rw [startOf_fill hk, ← hrun]
        simp [fill, hk]
    · intro row col a u
      refine ⟨fun hk => ?_, fun hk hlost hcol => ?_⟩
      · have hu : u = drainUnit s c q q.uRow q.uIdx := unitEffect_drain hk
        rw [hu]
        exact drainUnit_spec s c q q.uRow q.uIdx
      · have hu : u = fillUnit s c q q.uRow q.uIdx := unitEffect_fill hk
        rw [hu]
        obtain ⟨hmem, hsp, hacc⟩ := fillUnit_spec s c hlost q.uRow q.uIdx
        refine ⟨hmem, hsp, fun i hi => ?_, fun k hk => ?_⟩
        · rw [hacc (row * 256 + col + i), if_pos ⟨Nat.le_add_right .., Nat.add_lt_add_left hi _⟩]
          rw [show row * 256 + col + i - ((adrainUnit q q.uRow q.uIdx).1 * 256 + (adrainUnit q q.uRow q.uIdx).2.1) = i from Nat.add_sub_cancel_left ..]
          rfl
        · rw [hacc k, if_neg fun h => by
            have h1 : row * 256 + col ≤ k := h.1
            have h2 : k < row * 256 + col + 64 := h.2
            omega]

end Sys2Proof.Machine
end


-- ==== Proofs: MATMUL ====
section
/-! PROOFS. MATMUL: its start, the rows it reads, and the accumulator stage (R127 to R146). -/

namespace Sys2Proof.Machine
open Sys2Proof

variable {s t u : State} {c : CoreId} {q : QEntry}

theorem matmul_cases (h : isMatmul q.kind = true) : q.kind = .matmulPlain ∨ q.kind = .matmulAccum ∨ q.kind = .matmulDecay ∨ q.kind = .matmulRotate := by
  cases hk : q.kind <;> simp [hk, isMatmul] at h ⊢

theorem startOf_matmul (h : isMatmul q.kind = true) : startOf s c q = startMatmul s c q := by
  rcases matmul_cases h with h | h | h | h <;> rw [startOf, h]

/-! ### Row starts -/

theorem length_rowStarts (step : Nat → Nat) (n i t : Nat) : (rowStarts step n i t).length = n := by
  induction n generalizing i t with
  | zero => rfl
  | succ n ih => rw [rowStarts, List.length_cons, ih]

/-- Rows at equal distances. -/
theorem rowStarts_const {step : Nat → Nat} {k : Nat} (hk : ∀ i, step i = k) {n j : Nat} (hj : j < n) (i t : Nat) :
    (rowStarts step n i t)[j]? = some (t + j * k) := by
  induction n generalizing i j t with
  | zero => exact absurd hj (Nat.not_lt_zero _)
  | succ n ih =>
    rw [rowStarts, hk]
    cases j with
    | zero => simp
    | succ j =>
      rw [List.getElem?_cons_succ, ih (Nat.lt_of_succ_lt_succ hj), Nat.add_mul, Nat.one_mul]
      exact congrArg some (by omega)

/-- A map over a list and its places. -/
theorem getElem?_map_zipIdx {α β : Type} (l : List α) (f : α × Nat → β) (i : Nat) : (l.zipIdx.map f)[i]? = l[i]?.map fun x => f (x, i) := by
  simp [Option.map_map, Function.comp_def]

/-! ### Start -/

/-- The rows of a command that starts at a cycle. -/
def mmSched (t : SpTask) (q : QEntry) (w8 : Bool) (first : Nat) : List Nat :=
  rowStarts (fun i => max (if w8 then 2 else 1) (actCycles t q i)) (mmRows q) 0 first

/-- When their results are in the accumulators. -/
def mmOuts (t : SpTask) (q : QEntry) (w8 : Bool) (first : Nat) : List Nat :=
  ((mmSched t q w8 first).zipIdx.map fun x => x.1 + actEntry t q x.2).map (· + if w8 then 273 else 272)

theorem length_mmSched (t : SpTask) (q : QEntry) (w8 : Bool) (first : Nat) : (mmSched t q w8 first).length = mmRows q := length_rowStarts ..

theorem length_mmOuts (t : SpTask) (q : QEntry) (w8 : Bool) (first : Nat) : (mmOuts t q w8 first).length = mmRows q := by
  rw [mmOuts, List.length_map, List.length_map, List.length_zipIdx, length_mmSched]

/-- Rows of the plain form are presented one a cycle, two cycles apart with W8 (R140). -/
theorem mmSched_plain {t : SpTask} (hf : mmForm q = 0) (w8 : Bool) (first : Nat) {i : Nat} (hi : i < mmRows q) :
    (mmSched t q w8 first)[i]? = some (first + i * if w8 then 2 else 1) := by
  refine rowStarts_const (fun j => ?_) hi 0 first
  rw [actCycles, hf]
  cases w8 <;> rfl

theorem mmOuts_plain {t : SpTask} (hf : mmForm q = 0) (w8 : Bool) (first : Nat) {i : Nat} (hi : i < mmRows q) :
    (mmOuts t q w8 first)[i]? = some (first + i * (if w8 then 2 else 1) + 6 + if w8 then 273 else 272) := by
  rw [mmOuts, List.getElem?_map, getElem?_map_zipIdx, mmSched_plain hf w8 first hi]
  simp [actEntry, hf]

section
variable (hw : ¬(((earlier (getCore s c).seq.mxQ q.n).any fun e => !isMatmul e.kind) = true ∨ (getCore s c).seq.cycle < freeAt (earlier (getCore s c).seq.mxQ q.n)))
include hw

theorem startMatmul_fail (ht : tileStateErr (getCore s c).eng.mx (wbit q.w 68) (wfld q.w 95 90) = true) : startMatmul s c q = .fail cTILE_STATE none false :=
  (if_neg hw).trans (if_pos ht)

theorem startMatmul_run {mx : MxSlot} {first : Nat} (ht : tileStateErr (getCore s c).eng.mx (wbit q.w 68) (wfld q.w 95 90) = false)
    (hm : ((decide (q.kind = .matmulDecay) || decide (q.kind = .matmulRotate)) && memberErr s c (wfld q.w 119 112) (mmRows q)) = false)
    (hr : rangesErr (getCore s c).spTask (if mmNoin q then [] else (List.range (mmRows q)).flatMap (actRanges q)) = none)
    (hmx : (if wbit q.w 68 then swapSlots (getCore s c).eng.mx else (getCore s c).eng.mx) = mx)
    (hfirst : (getCore s c).seq.cycle + (if wbit q.w 68 then 1 else 0) = first) :
    ∃ u p, startMatmul s c q = .run u p ∧ u.mem = s.mem ∧ (getCore u c).eng = { (getCore s c).eng with mx := mx } ∧ p.started = true ∧ p.w = q.w ∧
      p.sched = mmSched (getCore s c).spTask q (decide (mx.actState = 2)) first ∧ p.outs = mmOuts (getCore s c).spTask q (decide (mx.actState = 2)) first ∧
      p.endAt = p.outs.getLast? := by
  have hstart : startMatmul s c q = _ := (if_neg hw).trans ((if_neg (by rw [ht]; exact Bool.false_ne_true)).trans (if_neg (by rw [hm]; exact Bool.false_ne_true)))
  rw [hr, hmx, hfirst] at hstart
  refine ⟨_, _, hstart, rfl, ?_, rfl, rfl, rfl, rfl, rfl⟩
  rw [modSeq_eq, modCore_eq, getCore_setCore, modEng, modCore_eq, getCore_setCore]

end

/-! ### Rows read -/

theorem actCycles_plain {v : SpTask} (hf : mmForm q = 0) (i : Nat) : actCycles v q i = 1 := by
  rw [actCycles, hf]
  rfl

/-- The row that a cycle presents in the plain form. -/
theorem mem_rowsRead {v : SpTask} {q : QEntry} {t i : Nat} (hf : mmForm q = 0) (hs : q.sched[i]? = some t) : (i, 0) ∈ rowsRead v q t := by
  have hone : actCycles v q i = 1 := actCycles_plain hf i
  refine List.mem_map.2 ⟨(t, i), List.mem_filter.2 ⟨List.mem_zipIdx_iff_getElem?.2 hs, ?_⟩, by simp⟩
  simp [hone]

theorem mem_matmulAccess {v : SpTask} {t i : Nat} (hf : mmForm q = 0) (hn : mmNoin q = false) (hs : q.sched[i]? = some t) :
    reads q 2 0 [(mmSrc q + i * mmPitch q * 64, actRowBytes (wfld q.w 67 66))] ∈ matmulAccess v q t := by
  have hpieces : actPieces v q i 0 = [(mmSrc q + i * mmPitch q * 64, actRowBytes (wfld q.w 67 66))] := by
    rw [actPieces, hf]
    rfl
  rw [matmulAccess, hn, ← hpieces]
  exact List.mem_map.2 ⟨(i, 0), mem_rowsRead hf hs, rfl⟩

/-- A row read becomes its exact column sums. -/
theorem mem_matmulRead {x : CoreSt} {t i : Nat} (hf : mmForm q = 0) (hn : mmNoin q = false) (hs : q.sched[i]? = some t) :
    (i, colSums x.eng (wfld q.w 67 66) (wfld q.w 95 90) (sxt 8 (wfld q.w 103 96)) x.eng.mx.actFmt.toNat (x.eng.mx.actKrowsM1.toNat + 1)
      (tileRows x.eng.mx.actFmt.toNat (x.eng.mx.actKrowsM1.toNat + 1) x.eng.mx.actCodes) (actElems (wfld q.w 67 66) (capOf q 0))) ∈ (matmulRead x q t).sums := by
  have hone : actCycles x.spTask q i = 1 := actCycles_plain hf i
  have hrow : actRow x.spTask q i = capOf q 0 := by
    rw [actRow, hf, hone]
    exact List.append_nil _
  have hmem : (i, 0) ∈ (rowsRead x.spTask q t).filter fun y => decide (y.2 + 1 = actCycles x.spTask q y.1) :=
    List.mem_filter.2 ⟨mem_rowsRead hf hs, by simp [hone]⟩
  unfold matmulRead
  simp only [hn, Bool.false_eq_true, if_false]
  rw [if_neg (by rw [List.isEmpty_iff]; exact List.ne_nil_of_mem hmem)]
  refine List.mem_append_right _ (List.mem_map.2 ⟨(i, 0), hmem, ?_⟩)
  rw [hrow]

/-! ### The accumulator stage -/

theorem matmulWrite_single {old : Engines} {t i : Nat} (h : (q.outs.zipIdx.filter fun o => decide (o.1 = t)) = [(t, i)]) :
    (getCore (matmulWrite old s c q t) c).eng = accRowUpd old (rowUpdate s c q i) (getCore s c).eng ∧ (matmulWrite old s c q t).mem = s.mem := by
  have hone : matmulWrite old s c q t = modEntry (modEng s c (accRowUpd old (rowUpdate s c q i))) c .mx q.n
      fun e => { e with sums := e.sums.filter fun x => decide (x.1 ≠ i) } := by
    unfold matmulWrite
    exact (congrArg (List.foldl _ s) h).trans rfl
  obtain ⟨v, hv⟩ : ∃ v, modEng s c (accRowUpd old (rowUpdate s c q i)) = v := ⟨_, rfl⟩
  have hveng : (getCore v c).eng = accRowUpd old (rowUpdate s c q i) (getCore s c).eng := by rw [← hv, modEng, modCore_eq, getCore_setCore]
  have hvmem : v.mem = s.mem := by rw [← hv]; rfl
  have hsame := sameEngines_modEntry v c .mx q.n fun e => { e with sums := e.sums.filter fun x => decide (x.1 ≠ i) }
  rw [hone, hv]
  exact ⟨hsame.eng.trans hveng, hsame.mem.trans hvmem⟩

end Sys2Proof.Machine
end

section
/-! PROOFS. The settled statement. -/

namespace Sys2Proof.Machine
open Sys2Proof

/-- Settles O22: a plain row takes one cycle to read, so the rows' distance is the engine's own. -/
theorem matmulsRun : Obligations.MatmulsRun := by
  intro c s q hmm x m swap mx first w8 src ahead
  refine ⟨fun hahead hfree => ?_, fun t i hf hn hs => ?_, fun old t i h => matmulWrite_single h⟩
  · have hw : ¬(((earlier (getCore s c).seq.mxQ q.n).any fun e => !isMatmul e.kind) = true ∨
        (getCore s c).seq.cycle < freeAt (earlier (getCore s c).seq.mxQ q.n)) := by
      rintro (h | h)
      · obtain ⟨e, he, hne⟩ := List.any_eq_true.1 h
        simp [hahead e he] at hne
      · exact absurd hfree (Nat.not_le.2 h)
    rw [startOf_matmul hmm]
    refine ⟨fun ht => startMatmul_fail hw ht, fun ht hm hr => ?_⟩
    have hmember : ((decide (q.kind = .matmulDecay) || decide (q.kind = .matmulRotate)) && memberErr s c (wfld q.w 119 112) (mmRows q)) = false := by
      by_cases hk : q.kind = .matmulDecay ∨ q.kind = .matmulRotate
      · rw [show memberErr s c (wfld q.w 119 112) (mmRows q) = false from hm hk, Bool.and_false]
      · rw [not_or] at hk
        simp [hk.1, hk.2]
    obtain ⟨u, p, hrun, hmem, heng, hstarted, hpw, hsched, houts, hend⟩ := startMatmul_run hw ht hmember hr rfl rfl
    refine ⟨u, p, hrun, hmem, heng, hstarted, hpw, ?_, ?_, hend, fun hf i hi => ⟨?_, ?_⟩⟩
    · rw [hsched]
      exact length_mmSched ..
    · rw [houts]
      exact length_mmOuts ..
    · rw [hsched]
      exact mmSched_plain hf _ _ hi
    · rw [houts]
      exact mmOuts_plain hf _ _ hi
  · exact ⟨mem_matmulAccess hf hn hs, mem_matmulRead hf hn hs⟩

end Sys2Proof.Machine
end


-- ==== Proofs: CONFIG ====
section
/-! PROOFS. CONFIG: the control record and the bow sites, which the sequencer reads itself, and the tables that the engines load. -/

namespace Sys2Proof.Machine
open Sys2Proof

variable {s t u : State} {c : CoreId} {q : QEntry} {w : CmdWord} {e : IssueEnv}

/-! ### Issue -/

theorem narrowConfig_of_ok {kind : QKind} {m : Nat} (h : rangeErr (getCore s c).spTask ⟨false, idxVal (getCore s c).seq.sregs w 32, wfld w 71 60 * 64⟩ = none) :
    narrowConfig kind c w m s = modSeq (startSeq s c kind w m) c fun q => { q with next := q.cycle + m + 1 } := by
  rw [narrowConfig, h]

/-! ### The sequencer's own records -/

/-- A change of the core alone, its command memory, PC and phase apart. -/
theorem hasNext_setCore {x : CoreSt} (hp : x.seq.pc = (getCore s c).seq.pc) (hm : x.seq.cmdMem = (getCore s c).seq.cmdMem) (hn : HasNext s c) :
    HasNext (setCore s c x) c := by
  unfold HasNext
  rw [getCore_setCore, hp, hm]
  exact hn

/-- A record that takes effect in the core: the next command follows. -/
theorem goAfter_setCore {x : CoreSt} (hp : x.seq.pc = (getCore s c).seq.pc) (hm : x.seq.cmdMem = (getCore s c).seq.cmdMem)
    (hphase : x.seq.phase = .running) (hn : HasNext s c) :
    goAfter (setCore s c x) c = setCore (setCore s c x) c { x with seq := { x.seq with pc := x.seq.pc + 1 } } := by
  have hrun : (getCore (setCore s c x) c).seq.phase = .running := by
    rw [getCore_setCore]
    exact hphase
  rw [goAfter, if_pos hrun, advance_of_hasNext (hasNext_setCore hp hm hn), onward, modSeq_eq, modCore_eq, getCore_setCore]

theorem endEntry_seq (hk : q.kind = .cfgCtrl ∨ q.kind = .cfgBow) : endEntry s c q = if q.kind = .cfgCtrl then endCoreControl s c q else endBowSites s c q := by
  rcases hk with hk | hk
  · simp only [endEntry, endSeq, hk, if_true]
  · simp only [endEntry, endSeq, hk]
    rfl

theorem nfld_low (v : W64) : nfld v.toNat 31 0 = v.toNat % 2 ^ 32 := by rw [nfld, Nat.shiftRight_zero]

theorem nfld_high (v : W64) : nfld v.toNat 63 32 = v.toNat / 2 ^ 32 := by
  rw [nfld, Nat.shiftRight_eq_div_pow]
  exact Nat.mod_eq_of_lt (by have := v.isLt; omega)

/-- Two timeouts in their range, and nothing after them (R81, R85). -/
theorem controlOk_of_range {ws : List W64} (h1 : 100 ≤ (ws.getD 0 0).toNat % 2 ^ 32) (h2 : (ws.getD 0 0).toNat % 2 ^ 32 ≤ 5000000)
    (h3 : 100 ≤ (ws.getD 0 0).toNat / 2 ^ 32) (h4 : (ws.getD 0 0).toNat / 2 ^ 32 ≤ 5000000) (h5 : ∀ y ∈ ws.drop 1, y = 0) : controlOk ws = true := by
  have hrest : ((ws.drop 1).all fun x => decide (x = 0)) = true := List.all_eq_true.2 fun y hy => decide_eq_true (h5 y hy)
  rw [controlOk, nfld_low, nfld_high, hrest, timeoutOk, timeoutOk, decide_eq_true h1, decide_eq_true h2, decide_eq_true h3, decide_eq_true h4]
  rfl

section
variable (hn : HasNext s c) (hp : (getCore s c).seq.phase = .running)
include hn hp

theorem endCoreControl_spec (hok : controlOk (narrowWords q) = true) : let u := endCoreControl s c q
    let v := ((narrowWords q).getD 0 0).toNat
    (getCore u c).seq.syncTimeout.toNat = v % 2 ^ 32 ∧ (getCore u c).seq.decisionTimeout.toNat = v / 2 ^ 32 ∧
      (getCore u c).seq.pc = (getCore s c).seq.pc + 1 ∧ (getCore u c).eng = (getCore s c).eng ∧ SameElsewhere s u c := by
  intro u v
  have hv : v < 2 ^ 64 := ((narrowWords q).getD 0 0).isLt
  obtain ⟨x, hx⟩ : ∃ x : CoreSt, { getCore s c with seq := { (getCore s c).seq with
      syncTimeout := BitVec.ofNat 32 (nfld ((narrowWords q).getD 0 0).toNat 31 0)
      decisionTimeout := BitVec.ofNat 32 (nfld ((narrowWords q).getD 0 0).toNat 63 32) } } = x := ⟨_, rfl⟩
  have hu : u = goAfter (setCore s c x) c := by
    rw [← hx]
    exact if_pos hok
  rw [hu, goAfter_setCore (by rw [← hx]) (by rw [← hx]) (by rw [← hx]; exact hp) hn, getCore_setCore, ← hx]
  refine ⟨?_, ?_, rfl, rfl, sameElsewhere_trans (sameElsewhere_setCore ..) (sameElsewhere_setCore ..)⟩
  · dsimp only
    rw [nfld_low, BitVec.toNat_ofNat]
    exact Nat.mod_mod _ _
  · dsimp only
    rw [nfld_high, BitVec.toNat_ofNat]
    exact Nat.mod_eq_of_lt (by omega)

theorem endBowSites_spec (hok : ∀ y ∈ narrowWords q, siteOk y = true) : let u := endBowSites s c q
    (getCore u c).seq.pc = (getCore s c).seq.pc + 1 ∧ SameElsewhere s u c ∧
      (getCore u c).eng.sites = tputs (0, 0) (getCore s c).eng.sites (wfld q.w 59 52) ((narrowWords q).map siteOf) := by
  intro u
  obtain ⟨x, hx⟩ : ∃ x : CoreSt, { getCore s c with eng := { (getCore s c).eng with
      sites := tputs (0, 0) (getCore s c).eng.sites (wfld q.w 59 52) ((narrowWords q).map siteOf) } } = x := ⟨_, rfl⟩
  have hu : u = goAfter (setCore s c x) c := by
    rw [← hx]
    exact if_pos (List.all_eq_true.2 hok)
  rw [hu, goAfter_setCore (by rw [← hx]) (by rw [← hx]) (by rw [← hx]; exact hp) hn, getCore_setCore, ← hx]
  exact ⟨rfl, sameElsewhere_trans (sameElsewhere_setCore ..) (sameElsewhere_setCore ..), rfl⟩

end

theorem siteOf_toNat (v : W64) : (siteOf v).1.toNat = v.toNat % 2 ^ 12 ∧ (siteOf v).2.toNat = v.toNat / 2 ^ 16 % 2 ^ 24 := by
  simp only [siteOf, nfld, BitVec.toNat_ofNat, Nat.shiftRight_eq_div_pow]
  omega

/-! ### Tables -/

theorem rangesErr_single {v : SpTask} {r : SpRange} (h : rangeErr v r = none) : rangesErr v [r] = none := by
  rw [rangesErr, h]
  rfl

theorem startMxConfig_run (hq : earlier (getCore s c).seq.mxQ q.n = []) (hr : rangeErr (getCore s c).spTask ⟨false, cfgSource q, cfgBytes q⟩ = none) :
    startMxConfig s c q = .run s (timed s c q (cdiv (cfgBytes q) 512 + 6)) := by
  rw [startMxConfig, hq, hr]
  rfl

/-- A command of the vector engine whose queue is free before it and whose ranges are sound runs. -/
theorem startVx_run (hq : earlier (getCore s c).seq.vxQ q.n = []) {l : List SpRange} (hr : rangesErr (getCore s c).spTask l = none) (m : Nat) :
    startVx s c q l m = .run s { timed s c q m with vl := (getCore s c).eng.vl.toNat } := by
  rw [startVx, hq, hr]
  rfl

theorem eng_install (s : State) (c : CoreId) (i : Install) : (getCore (install s c i) c).eng = installEng (getCore s c).eng i := by
  rw [install, modEng, modCore_eq, getCore_setCore]

theorem endVxConfig_sound (hk : q.kind ≠ .cfgTbl) (h : ∀ b ∈ vxTables q 2112, rescaleBad b = false) :
    endVxConfig s c q = install s c (.rescale (wfld q.w 59 52) ((vxTables q 2112).map rescaleOf)) :=
  (if_neg hk).trans (if_neg (by simpa using h))

theorem endVxConfig_unsound (hk : q.kind ≠ .cfgTbl) (h : ∃ b ∈ vxTables q 2112, rescaleBad b = true) :
    endVxConfig s c q = raiseTask s c cDESC_MALFORMED q.pc := (if_neg hk).trans (if_pos (List.any_eq_true.2 h))

theorem endVxConfig_tblSound (hk : q.kind = .cfgTbl) (h : ∀ b ∈ vxTables q 576, tblBad b = false) :
    endVxConfig s c q = install s c (.tbl (wfld q.w 59 52) ((vxTables q 576).map tblOf)) :=
  (if_pos hk).trans (if_neg (by simpa using h))

theorem endVxConfig_tblUnsound (hk : q.kind = .cfgTbl) (h : ∃ b ∈ vxTables q 576, tblBad b = true) :
    endVxConfig s c q = raiseTask s c cDESC_MALFORMED q.pc := (if_pos hk).trans (if_pos (List.any_eq_true.2 h))

theorem czWaits_of_count (h : (tget .reset (getCore s c).eng.czSlots (czSlotOf q)).count ≠ 0) : czWaits (getCore s c) q = true := by
  rw [czWaits, decide_eq_true h, Bool.or_true]

theorem czWaits_of_free (hm : dmaMayStart (getCore s c) q = true) (h : (tget .reset (getCore s c).eng.czSlots (czSlotOf q)).count = 0) :
    czWaits (getCore s c) q = false := by
  rw [czWaits, hm, decide_eq_false (not_not_intro h)]
  rfl

theorem startCzLoad_run (hw : czWaits (getCore s c) q = false) (hr : rangeErr (getCore s c).spTask ⟨false, cfgSource q, 320⟩ = none) :
    startCzLoad s c q = .run s (czTimed s c q) := by
  rw [startCzLoad, hw, hr]
  rfl

theorem startCzBuild_run (hw : czWaits (getCore s c) q = false)
    (hr : rangesErr (getCore s c).spTask ([⟨false, cfgSource q, cfgBytes q⟩] ++ if czFinal q then [⟨true, cfgSource q + cfgBytes q, 320⟩] else []) = none) :
    startCzBuild s c q = .run s (czTimed s c q) := by
  unfold startCzBuild
  dsimp only
  rw [hw, hr]
  rfl

theorem startCz_wait (hk : q.kind = .cfgCzLoad ∨ q.kind = .cfgCzBuild) (hw : czWaits (getCore s c) q = true) : startOf s c q = .wait := by
  rcases hk with hk | hk
  · rw [startOf, hk]
    exact if_pos hw
  · rw [startOf, hk]
    exact if_pos hw

/-- A build counts its payload into the pending histogram, in the cycle that has read the last of it. -/
theorem czCompute_hist (hk : q.kind = .cfgCzBuild) : (getCore (czCompute s c q (q.startAt + czReads q)) c).eng =
    { (getCore s c).eng with hist := addHist (getCore s c).eng.hist (wfld q.w 58 56) (capAll q (cfgBytes q) 128) } := by
  have hone : czCompute s c q (q.startAt + czReads q) = modEntry (modEng s c fun e => { e with hist := addHist e.hist (wfld q.w 58 56) (capAll q (cfgBytes q) 128) })
      c .dma q.n fun e => { e with cap := [] } := if_pos ⟨hk, rfl⟩
  rw [hone, (sameEngines_modEntry _ c .dma q.n _).eng, modEng, modCore_eq, getCore_setCore]

end Sys2Proof.Machine
end

section
/-! PROOFS. The settled statement. -/

namespace Sys2Proof.Machine
open Sys2Proof

/-- Settles O25: a record takes effect where every word of it is sound; a table where each of its tables is. -/
theorem configCommandsComplete : Obligations.ConfigCommandsComplete := by
  refine ⟨?_, ?_, ?_⟩
  · intro c w e s
    generalize ht : atIssue s c e = t
    intro t' after hr
    exact ⟨fun h => outcome_of_issues ht exec_configCoreControl h (narrowConfig_of_ok hr),
      fun h => outcome_of_issues ht exec_configBowSites h (narrowConfig_of_ok hr)⟩
  · intro c s q hn hp x u ws v
    refine ⟨fun hk h1 h2 h3 h4 h5 => ?_, fun hk hok => ?_⟩
    · have hu : u = endCoreControl s c q := (endEntry_seq (.inl hk)).trans (if_pos hk)
      rw [hu]
      exact endCoreControl_spec hn hp (controlOk_of_range h1 h2 h3 h4 h5)
    · have hu : u = endBowSites s c q := (endEntry_seq (.inr hk)).trans (if_neg (by simp [hk]))
      obtain ⟨hpc, hsame, hsites⟩ := endBowSites_spec hn hp hok
      rw [← hu] at hpc hsame hsites
      refine ⟨hpc, hsame, fun k hk => ?_⟩
      have hget : tget (0, 0) (getCore u c).eng.sites (wfld q.w 59 52 + k) = siteOf ws[k] := by
        rw [hsites, tget_tputs_in (by simpa using hk), List.getElem_map]
      rw [hget]
      exact siteOf_toNat _
  · intro c s q x n src mxKind cut cz
    refine ⟨fun hk hq hr => ?_, fun hk hq hr => ?_, fun hk => ⟨fun h => ?_, fun h => ?_⟩, fun hk => ⟨fun h => ?_, fun h => ?_⟩, fun hk hm => ⟨fun h => ?_, fun h hr => ?_⟩,
      fun hk => ?_, fun hk => ?_⟩
    · have hstart : startOf s c q = startMxConfig s c q := by rcases hk with hk | hk | hk <;> rw [startOf, hk]
      rw [hstart]
      exact startMxConfig_run hq hr
    · have hstart : startOf s c q = startVxConfig s c q := by rcases hk with hk | hk <;> rw [startOf, hk]
      exact ⟨_, hstart.trans (startVx_run hq (rangesErr_single hr) _), rfl, rfl⟩
    · have hend : endEntry s c q = endVxConfig s c q := by simp only [endEntry, vxEnd, hk]
      rw [hend, endVxConfig_sound (by simp [hk]) h, eng_install]
      rfl
    · have hend : endEntry s c q = endVxConfig s c q := by simp only [endEntry, vxEnd, hk]
      rw [hend]
      exact endVxConfig_unsound (by simp [hk]) h
    · have hend : endEntry s c q = endVxConfig s c q := by simp only [endEntry, vxEnd, hk]
      rw [hend, endVxConfig_tblSound hk h, eng_install]
      rfl
    · have hend : endEntry s c q = endVxConfig s c q := by simp only [endEntry, vxEnd, hk]
      rw [hend]
      exact endVxConfig_tblUnsound hk h
    · exact startCz_wait hk (czWaits_of_count h)
    · have hfree := czWaits_of_free hm h
      rcases hk with hk | hk
      · rw [if_pos hk] at hr
        have hr' : rangeErr x.spTask ⟨false, cfgSource q, 320⟩ = none := by
          cases he : rangeErr x.spTask ⟨false, cfgSource q, 320⟩ with
          | none => rfl
          | some e =>
            rw [show src = cfgSource q from rfl, rangesErr, he] at hr
            cases hr
        refine ⟨czTimed s c q, ?_, rfl⟩
        rw [startOf, hk]
        exact startCzLoad_run hfree hr'
      · rw [if_neg (by simp [hk])] at hr
        refine ⟨czTimed s c q, ?_, rfl⟩
        rw [startOf, hk]
        refine startCzBuild_run hfree ?_
        rw [czFinal, hk]
        cases hb : wbit q.w 59 <;> rw [hb] at hr <;> exact hr
    · intro b
      have hend : endEntry s c q = endCz s c q := by simp only [endEntry, hk]
      refine ⟨fun h => ?_, fun h => ?_⟩
      · rw [hend, endCz, if_pos hk, ← eng_install]
        exact congrArg (fun u => (getCore u c).eng) (if_pos h)
      · rw [hend, endCz, if_pos hk]
        exact if_neg (by rw [show czRecordOk (capAll q (cfgBytes q) 128) = false from h]; exact Bool.false_ne_true)
    · exact czCompute_hist hk

end Sys2Proof.Machine
end

-- ==== Proofs: commands of the vector engine ====
section
/-! PROOFS. VCHAIN and VDESC: their start, their writes, the row computed, and the descriptor slots. -/

namespace Sys2Proof.Machine
open Sys2Proof

variable {s t u : State} {c : CoreId} {q : QEntry}

/-! ### The start of a chain -/

theorem length_chainStarts (pace : Nat → Nat) (grp hold n i t g : Nat) : (chainStarts pace grp hold n i t g).length = n := by
  induction n generalizing i t g with
  | zero => rfl
  | succ n ih => exact congrArg (· + 1) (ih ..)

theorem vchain_free {ahead : List QEntry} (h : ahead = []) (n : Nat) :
    ¬((ahead.any fun e => !chainLike e.kind) = true ∨ n < freeAt ahead) := by
  rw [h]
  simp [freeAt]

theorem startVchain_done (hq : earlier (getCore s c).seq.vxQ q.n = []) (hv : (getCore s c).eng.vl.toNat = 0) : startVchain s c q = .done s :=
  (if_neg (vchain_free hq _)).trans (if_pos hv)

theorem startVchain_fail (hq : earlier (getCore s c).seq.vxQ q.n = []) (hv : (getCore s c).eng.vl.toNat ≠ 0) {e : BitVec 8}
    (he : chainErr s c q (chainDesc (getCore s c) q) (getCore s c).eng.vl.toNat (chainRows q) = some e) : startVchain s c q = .fail e none false := by
  refine (if_neg (vchain_free hq _)).trans ((if_neg hv).trans ?_)
  rw [he]

theorem startVchain_run (hq : earlier (getCore s c).seq.vxQ q.n = []) (hv : (getCore s c).eng.vl.toNat ≠ 0)
    (he : chainErr s c q (chainDesc (getCore s c) q) (getCore s c).eng.vl.toNat (chainRows q) = none) :
    startVchain s c q = .run s (chainPlan s c q (chainDesc (getCore s c) q) (getCore s c).eng.vl.toNat) := by
  refine (if_neg (vchain_free hq _)).trans ((if_neg hv).trans ?_)
  rw [he, hq]
  exact if_neg fun h => h.2 rfl

theorem chainPlan_spec (d : Desc) (vl : Nat) : let p := chainPlan s c q d vl
    p.started = true ∧ p.vl = vl ∧ p.sched.length = chainRows q ∧ p.outs.length = chainRows q ∧
      p.sched.head? = some ((getCore s c).seq.cycle + prologueV d vl + prologueU d (chainRows q)) := by
  refine ⟨rfl, rfl, length_chainStarts .., ?_, rfl⟩
  simp [chainPlan, length_chainStarts]

/-! ### What a chain writes -/

theorem mem_rowsAt {l : List Nat} {n : Nat → Nat} {t r b : Nat} (h : (r, b) ∈ rowsAt l n t) : r < l.length := by
  obtain ⟨⟨p, i⟩, hi, heq⟩ := List.mem_map.1 h
  have hlt := (List.mem_zipIdx (List.mem_filter.1 hi).1).2.1
  obtain rfl : i = r := (Prod.mk.inj heq).1
  simpa using hlt

/-- A piece cut from the bytes of a row lies in the row. -/
theorem piece_in_row {l : List Byte} {k n m : Nat} (hl : l.length ≤ m) (hne : (l.drop k).take n ≠ []) : k + ((l.drop k).take n).length ≤ m := by
  have hk : k < l.length := by
    refine Nat.lt_of_not_le fun hle => hne ?_
    rw [List.drop_eq_nil_of_le hle, List.take_nil]
  rw [List.length_take, List.length_drop]
  omega

theorem chainWrites_elements {d : Desc} (hred : d.redOp = 0) (hout : q.outs.length = chainRows q)
    (hlen : ∀ r, (capOf q (vkey 3 r 0)).length ≤ fmtBytes d.ofmt q.vl) {a : Access} (ha : a ∈ chainWrites d q n) :
    d.wen = true ∧ a.port = 4 ∧ ∃ r < chainRows q, ∃ o b, a.data = some b ∧
      a.pieces = [(vaddr q 50 46 + r * (wfld q.w 106 95 * 64) + o, b.length)] ∧ (b ≠ [] → o + b.length ≤ fmtBytes d.ofmt q.vl) := by
  unfold chainWrites at ha
  dsimp only at ha
  cases hwen : d.wen with
  | false => simp [hwen] at ha
  | true =>
    rw [if_neg (by simp [hwen]), if_pos hred] at ha
    obtain ⟨⟨r, b⟩, hr, rfl⟩ := List.mem_map.1 ha
    exact ⟨rfl, rfl, r, hout ▸ mem_rowsAt hr, _, _, rfl, rfl, piece_in_row (hlen r)⟩

/-! ### The row computed -/

theorem addChain_spec (s : State) (c : CoreId) (q : QEntry) (v : VStat) : (addChain s c q v).mem = s.mem ∧
    (getCore (addChain s c q v) c).eng = { (getCore s c).eng with descs := (getCore (addChain s c q v) c).eng.descs } ∧
    (getCore (addChain s c q v) c).seq = (getCore s c).seq := by
  unfold addChain install modEng
  rw [modCore_eq, getCore_setCore]
  exact ⟨rfl, rfl, rfl⟩

/-- What a chain makes of the elements of a row. -/
def chainOut (s : State) (c : CoreId) (q : QEntry) (r : Nat) (old : Byte) : List Byte × VStat :=
  let d := chainDesc (getCore s c) q
  rowOut d.ofmt old (runRow (getCore s c).eng (chainIn s c q d r).1 d r).1

/-- The entry of a chain after a row of elements: the row's bytes are kept under the row's number. -/
def withRow (r : Nat) (out : List Byte) (q : QEntry) : QEntry :=
  let keep (k : Nat) : Bool := decide (2 * 2 ^ 30 ≤ k) || decide (k % 2 ^ 30 / 2 ^ 12 ≠ r)
  let e := { q with cap := q.cap.filter fun k => keep k.1, vals := q.vals.filter fun k => decide (k.1 / 2 ^ 12 ≠ 5 * 2 ^ 18 + r) }
  putCap e (vkey 3 r 0) out

theorem capOf_withRow (r : Nat) (out : List Byte) (q : QEntry) : capOf (withRow r out q) (vkey 3 r 0) = out := capOf_putCap_self ..

/-- The byte that stands where a row of elements ends: a row of nibbles keeps half of it. -/
def rowTail (s : State) (c : CoreId) (q : QEntry) (r : Nat) : Byte :=
  let a := vaddr q 50 46 + r * (wfld q.w 106 95 * 64)
  (spRead (getCore s c) [] (a + fmtBytes (chainDesc (getCore s c) q).ofmt q.vl - 1) 1).getD 0 0

theorem chainRow_elements (r : Nat) (hred : (chainDesc (getCore s c) q).redOp = 0) :
    ∃ v, chainRow s c q r = modEntry (addChain s c q v) c .vx q.n (withRow r (chainOut s c q r (rowTail s c q r)).1) := by
  unfold chainRow
  dsimp only
  exact ⟨_, congrArg (modEntry _ c .vx q.n) (funext fun e => if_pos hred)⟩

theorem chainRow_spec (r : Nat) (hk : q.kind = .vchain) (hred : (chainDesc (getCore s c) q).redOp = 0) (ho : OnlyEntry s c q) :
    (chainRow s c q r).mem = s.mem ∧
    (getCore (chainRow s c q r) c).eng = { (getCore s c).eng with descs := (getCore (chainRow s c q r) c).eng.descs } ∧
    ∃ e old, getQ (getCore (chainRow s c q r) c).seq .vx = [e] ∧ capOf e (vkey 3 r 0) = (chainOut s c q r old).1 := by
  obtain ⟨v, hrow⟩ := chainRow_elements (s := s) (c := c) (q := q) r hred
  obtain ⟨hmem, heng, hseq⟩ := addChain_spec s c q v
  have hvx : queueOf q.kind = .vx := by rw [hk]; rfl
  have ho' : OnlyEntry (addChain s c q v) c q := fun k => by rw [hseq]; exact ho k
  have hsame := sameEngines_modEntry (addChain s c q v) c .vx q.n (withRow r (chainOut s c q r (rowTail s c q r)).1)
  have hq := getQ_of_onlyEntry (onlyEntry_modEntry ho' (f := withRow r (chainOut s c q r (rowTail s c q r)).1) rfl rfl)
  rw [hrow]
  refine ⟨hsame.mem.trans hmem, ?_, _, rowTail s c q r, ?_, capOf_withRow r _ q⟩
  · rw [hsame.eng]
    exact heng
  · rw [show queueOf (withRow r (chainOut s c q r (rowTail s c q r)).1 q).kind = .vx from hvx, hvx] at hq
    exact hq

/-! ### Descriptors -/

theorem vxAccess_vdescLoad {x : CoreSt} (hk : q.kind = .vdescLoad) : vxAccess x q q.startAt = [reads q 5 0 [(cfgSource q, 72)]] := by
  rw [vxAccess, hk]
  exact if_pos rfl

theorem vxAccess_vdescStats {x : CoreSt} (hk : q.kind = .vdescStats) :
    vxAccess x q q.startAt = [writes q 4 (cfgSource q) (statsRecord (dslot x (wfld q.w 55 52)))] := by
  rw [vxAccess, hk]
  exact if_pos rfl

theorem startVd_run (hq : earlier (getCore s c).seq.vxQ q.n = []) {r : SpRange} (hr : rangeErr (getCore s c).spTask r = none) (m : Nat) :
    startVx s c q [r] m = .run s { timed s c q m with vl := (getCore s c).eng.vl.toNat } := startVx_run hq (rangesErr_single hr) m

end Sys2Proof.Machine
end

section
/-! PROOFS. The settled statement. -/

namespace Sys2Proof.Machine
open Sys2Proof

/-- Settles O26: each start, write and slot by the definition of its command. -/
theorem vectorCommandsRun : Obligations.VectorCommandsRun := by
  intro c s q x vl d rows
  refine ⟨fun hk hq => ?_, fun hk hred hlen _ hout t a ha => chainWrites_elements hred hout hlen ha, fun r hk hred ho => chainRow_spec r hk hred ho,
    fun hk hq hr => ?_, fun hk => ?_, fun hk => ?_, fun hk hq hr => ?_, fun hk hb => ?_⟩
  · have hstart : startOf s c q = startVchain s c q := by rw [startOf, hk]
    rw [hstart]
    have hpos (h : x.eng.vl ≠ 0) : x.eng.vl.toNat ≠ 0 := fun h0 => h (BitVec.eq_of_toNat_eq h0)
    refine ⟨fun hv => startVchain_done hq (congrArg BitVec.toNat hv), fun e hv he => startVchain_fail hq (hpos hv) he, fun hv he => ?_⟩
    exact ⟨_, startVchain_run hq (hpos hv) he, chainPlan_spec ..⟩
  · have hstart : startOf s c q = startVdLoad s c q := by rw [startOf, hk]
    refine ⟨_, hstart.trans (startVd_run hq hr 7), rfl, vxAccess_vdescLoad hk⟩
  · intro words
    have hend : endEntry s c q = endVdLoad s c q := by simp only [endEntry, vxEnd, hk]
    rw [hend]
    refine ⟨fun h => ?_, fun h => if_pos h⟩
    have hinst : endVdLoad s c q = install s c (.desc (wfld q.w 55 52) words) := if_neg (by rw [show descBad _ = false from h]; exact Bool.false_ne_true)
    rw [hinst, eng_install]
    rfl
  · intro v
    have hstart : startOf s c q = startVdSetvl s c q := by rw [startOf, hk]
    rw [hstart]
    exact ⟨fun h => if_neg (by exact Nat.not_lt.2 h), fun h => if_pos h⟩
  · have hstart : startOf s c q = startVdStats s c q := by rw [startOf, hk]
    refine ⟨_, hstart.trans (startVd_run hq hr 3), rfl, vxAccess_vdescStats hk⟩
  · have hend : endEntry s c q = install s c (.statsClear (wfld q.w 55 52)) := by
      simp only [endEntry, vxEnd, hk]
      exact if_pos hb
    rw [hend, dslot, eng_install]
    exact tget_tput_self

end Sys2Proof.Machine
end

-- ==== Proofs: SPREAD and QSCAN ====
section
/-! PROOFS. SPREAD, SCAN, MERGE and PICK: when they run, and what their writes are. -/

namespace Sys2Proof.Machine
open Sys2Proof

variable {s t u : State} {c : CoreId} {q : QEntry}

/-- A command of the vector engine that runs, with the vector length as it stands. -/
def RunsAsIs (s : State) (c : CoreId) (q : QEntry) : Prop :=
  ∃ p, startOf s c q = .run s p ∧ p.started = true ∧ p.vl = (getCore s c).eng.vl.toNat ∧ p.w = q.w

section
variable (hq : earlier (getCore s c).seq.vxQ q.n = [])
include hq

theorem runsAsIs_of_startVx {l : List SpRange} {m : Nat} (hs : startOf s c q = startVx s c q l m) (hr : rangesErr (getCore s c).spTask l = none) :
    RunsAsIs s c q := ⟨_, hs.trans (startVx_run hq hr m), rfl, rfl, rfl⟩

theorem not_behind : ¬((!(earlier (getCore s c).seq.vxQ q.n).isEmpty) = true) := by simp [hq]

/-! ### SPREAD -/

theorem startSpread_done (hv : (getCore s c).eng.vl.toNat = 0) : startSpread s c q = .done s := (if_neg (not_behind hq)).trans (if_pos hv)

theorem startSpread_fail (hv : 0 < (getCore s c).eng.vl.toNat) (hb : (getCore s c).eng.vl.toNat % 2 ^ spreadLog q ≠ 0) :
    startSpread s c q = .fail cSPREAD_SHAPE none false :=
  (if_neg (not_behind hq)).trans ((if_neg (Nat.ne_of_gt hv)).trans (if_pos hb))

theorem startSpread_eq (hv : 0 < (getCore s c).eng.vl.toNat) (hb : (getCore s c).eng.vl.toNat % 2 ^ spreadLog q = 0) : ∃ m, startSpread s c q =
    startVx s c q
      ((List.range (spreadRows q)).map (fun r => ⟨false, cfgSource q + r * spreadPitch q, fmtBytes (spreadFmt q) (getCore s c).eng.vl.toNat⟩) ++
        [⟨false, wfld q.w 91 72, 32⟩] ++
        (List.range (spreadRows q)).map (fun r => ⟨true, wfld q.w 71 52 + r * spreadPitch q, 4 * (getCore s c).eng.vl.toNat⟩)) m :=
  ⟨_, (if_neg (not_behind hq)).trans ((if_neg (Nat.ne_of_gt hv)).trans (if_neg (not_not_intro hb)))⟩

/-! ### SCAN -/

theorem startScan_memory (ha : wbit q.w 52 = false) : ∃ m, startScan s c q =
    startVx s c q ((List.range (scanRows q)).map (fun r => ⟨false, cfgSource q + r * (wfld q.w 90 79 * 64), fmtBytes (scanFmt q) (getCore s c).eng.vl.toNat⟩) ++
      [⟨true, wfld q.w 110 91, 128⟩]) m := by
  unfold startScan
  dsimp only
  rw [if_neg (not_behind hq), scanAcc, ha, if_neg (fun h => Bool.false_ne_true h.1)]
  exact ⟨_, rfl⟩

theorem startScan_acc (ha : wbit q.w 52 = true) (hrow : (getCore s c).eng.vl.toNat = 0 ∨ cfgSource q + wfld q.w 78 69 ≤ 1023) :
    ∃ m, startScan s c q = startVx s c q [⟨true, wfld q.w 110 91, 128⟩] m := by
  unfold startScan
  dsimp only
  have hin : ¬(scanAcc q = true ∧ (getCore s c).eng.vl.toNat ≠ 0 ∧ cfgSource q + scanRows q - 1 > 1023) := by
    rw [scanRows]
    omega
  rw [if_neg (not_behind hq), if_neg hin, scanAcc, ha]
  exact ⟨_, rfl⟩

theorem startScan_fail (ha : wbit q.w 52 = true) (hv : (getCore s c).eng.vl.toNat ≠ 0) (hrow : 1023 < cfgSource q + wfld q.w 78 69) :
    startScan s c q = .fail cACC_RANGE none false := by
  refine (if_neg (not_behind hq)).trans (if_pos ⟨ha, hv, ?_⟩)
  rw [scanRows]
  omega

end

/-! ### What they write -/

theorem data_readStep {port : BitVec 3} {p n width tt : Nat} {a : Access} (ha : a ∈ readStep q port p n width tt) : a.data = none := by
  unfold readStep at ha
  dsimp only at ha
  split at ha
  · obtain rfl := List.mem_singleton.1 ha
    rfl
  · cases ha

theorem spreadAccess_writes (hlen : ∀ r, (capOf q (vkey 3 r 0)).length ≤ 4 * q.vl) {a : Access} {n : Nat} (ha : a ∈ spreadAccess q n) {y : List Byte}
    (hy : a.data = some y) : ∃ r < spreadRows q, ∃ o, a.pieces = [(wfld q.w 71 52 + r * spreadPitch q + o, y.length)] ∧ (y ≠ [] → o + y.length ≤ 4 * q.vl) := by
  unfold spreadAccess at ha
  rcases List.mem_append.1 ha with ha | ha
  · have hnone : a.data = none := by
      split at ha
      · obtain rfl := List.mem_singleton.1 ha
        rfl
      · split at ha
        · obtain rfl := List.mem_singleton.1 ha
          rfl
        · cases ha
    rw [hnone] at hy
    cases hy
  · obtain ⟨⟨r, b⟩, hr, rfl⟩ := List.mem_map.1 ha
    obtain rfl := Option.some.inj hy
    exact ⟨r, by simpa using mem_rowsAt hr, _, rfl, piece_in_row (hlen r)⟩

theorem scanAccess_writes {a : Access} {n : Nat} (ha : a ∈ scanAccess q n) {y : List Byte} (hy : a.data = some y) :
    y = capOf q (vkey 4 0 0) ∧ a.pieces = [(wfld q.w 110 91, y.length)] := by
  unfold scanAccess at ha
  rcases List.mem_append.1 ha with ha | ha
  · split at ha
    · cases ha
    · obtain rfl := List.mem_singleton.1 ha
      cases hy
  · split at ha
    · obtain rfl := List.mem_singleton.1 ha
      obtain rfl := Option.some.inj hy
      exact ⟨rfl, rfl⟩
    · cases ha

theorem mergeAccess_writes {a : Access} {n : Nat} (ha : a ∈ mergeAccess q n) {y : List Byte} (hy : a.data = some y) :
    y = capOf q (vkey 4 0 0) ∧ a.pieces = [(wfld q.w 78 59, y.length)] := by
  unfold mergeAccess at ha
  rcases List.mem_append.1 ha with ha | ha
  · rw [data_readStep ha] at hy
    cases hy
  · split at ha
    · obtain rfl := List.mem_singleton.1 ha
      obtain rfl := Option.some.inj hy
      exact ⟨rfl, rfl⟩
    · cases ha

theorem mergeCompute_mismatch {r y : ScanRec} {rest : List ScanRec} (hl : mergeRecs q = r :: rest) (hy : y ∈ rest) (hne : sameHeader r y = false) :
    mergeCompute s c q (mergeOut q) = raiseTask s c cSCAN_MISMATCH q.pc := by
  have hall : rest.all (sameHeader r) = false := List.all_eq_false.2 ⟨y, hy, by simp [hne]⟩
  refine (if_neg (not_not_intro rfl)).trans ?_
  rw [hl]
  exact if_pos (by rw [hall]; rfl)

theorem pickAccess_result (e : Engines) : pickAccess e q (q.startAt + 22) =
    [writes q 4 (cfgSource q + 16) [pickOf e q, (capOf q 0).getD 17 0 ||| 1]] := by
  have hread : readStep q 5 (cfgSource q) 128 128 (q.startAt + 22) = [] := if_neg (by omega)
  rw [pickAccess, hread, if_pos rfl, List.nil_append]

theorem pickCompute_peg : tget 0 (getCore (pickCompute s c q (q.startAt + 22)) c).eng.peg (wfld q.w 57 52) = pickOf (getCore s c).eng q := by
  rw [pickCompute, if_pos rfl, eng_install]
  exact tget_tput_self

end Sys2Proof.Machine
end

section
/-! PROOFS. The settled statement. -/

namespace Sys2Proof.Machine
open Sys2Proof

/-- Settles O28: SPREAD and SCAN by their shapes, MERGE and PICK by their records. -/
theorem spreadAndQscanRun : Obligations.SpreadAndQscanRun := by
  intro c s q x vl src runs fmt hq
  refine ⟨fun hk => ?_, fun hk => ?_, fun hk => ?_, fun hk => ?_⟩
  · intro rows pitch dst b
    have hstart : startOf s c q = startSpread s c q := by rcases hk with hk | hk <;> rw [startOf, hk]
    refine ⟨fun hv => hstart.trans (startSpread_done hq hv), fun hv hne => hstart.trans (startSpread_fail hq hv hne), fun hv h0 hr => ?_,
      fun _ hlen t a ha y hy => spreadAccess_writes hlen ha hy⟩
    obtain ⟨m, hm⟩ := startSpread_eq hq hv h0
    exact runsAsIs_of_startVx hq (hstart.trans hm) hr
  · have hstart : startOf s c q = startScan s c q := by rw [startOf, hk]
    refine ⟨fun ha hr => ?_, fun ha hrow hr => ?_, fun ha hv hrow => hstart.trans (startScan_fail hq ha hv hrow), fun t a ha y hy => scanAccess_writes ha hy⟩
    · obtain ⟨m, hm⟩ := startScan_memory hq ha
      exact runsAsIs_of_startVx hq (hstart.trans hm) hr
    · obtain ⟨m, hm⟩ := startScan_acc hq ha hrow
      exact runsAsIs_of_startVx hq (hstart.trans hm) (rangesErr_single hr)
  · have hstart : startOf s c q = startMerge s c q := by rw [startOf, hk]
    refine ⟨fun hr => runsAsIs_of_startVx hq hstart hr, fun t a ha y hy => mergeAccess_writes ha hy, fun r rest hl ⟨y, hy, hne⟩ => ?_⟩
    have hcomp : vxCompute s c q (mergeOut q) = mergeCompute s c q (mergeOut q) := by rw [vxCompute, hk]
    exact hcomp.trans (mergeCompute_mismatch hl hy hne)
  · have hstart : startOf s c q = startPick s c q := by rw [startOf, hk]
    refine ⟨fun hr => runsAsIs_of_startVx hq hstart hr, ?_, ?_⟩
    · have hcomp : vxCompute s c q (q.startAt + 22) = pickCompute s c q (q.startAt + 22) := by rw [vxCompute, hk]
      rw [hcomp]
      exact pickCompute_peg
    · have hacc : vxAccess x q (q.startAt + 22) = pickAccess x.eng q (q.startAt + 22) := by rw [vxAccess, hk]
      exact hacc.trans (pickAccess_result _)

end Sys2Proof.Machine
end

-- ==== Proofs: STATEIO ====
section
/-! PROOFS. LOAD, SAVE, WREAD and WWRITE: their start, and what one of their units writes. -/

namespace Sys2Proof.Machine
open Sys2Proof

variable {s t u : State} {c : CoreId} {q : QEntry}

/-! ### The start -/

theorem startSt_run {l : Bool} {ms : List Member} (ha : adrainRuns (getCore s c) = false) :
    (stCheck s c q l (·.gen) = .ok ms → l = false → startStLoad s c q = .run s (paced s c q (ms.length * beats (stCols q.w * stWidth q.w)))) ∧
      (stCheck s c q (wbit q.w 111) (fun m => !m.gen) = .ok ms → startStSave s c q = .run s (paced s c q (ms.length * beats (stCols q.w * stWidth q.w)))) := by
  refine ⟨fun h hl => ?_, fun h => ?_⟩
  · subst hl
    rw [startStLoad, ha, h]
    rfl
  · rw [startStSave, ha, h]
    rfl

/-- The frames of a WREAD or WWRITE: a member, its place among the members, a frame's number. -/
def winList (q : QEntry) (ms : List Member) : List (Member × Nat × Nat) :=
  ms.zipIdx.flatMap fun m => (List.range (winFrames q)).map fun k => (m.1, m.2, k)

/-- Address and length of a frame's slot. -/
def winPlace (x : CoreSt) (q : QEntry) (y : Member × Nat × Nat) : Nat × Nat := (winSlot x q.w y.1 (winFrame x q.w y.1 y.2.2), winBytesOf q)

theorem startWindow_run {write : Bool} {ms : List Member} (ha : adrainRuns (getCore s c) = false)
    (hms : stMembers s c (wfld q.w 93 86) (wfld q.w 101 94 + 1) = some ms) (hg : (getCore s c).stImage.genSize ≠ 0) (hw : (getCore s c).stImage.wcap ≠ 0)
    (hin : ∀ y ∈ winList q ms, (winPlace (getCore s c) q y).1 + winBytesOf q ≤ blockOf y.1 + (getCore s c).stImage.blkSize.toNat * 4096)
    (hlast : sxt 10 (wfld q.w 121 112) + ((winFrames q - 1 : Nat) : Int) < ((getCore s c).stImage.fe.toNat : Int))
    (hfirst : if write then 0 ≤ sxt 10 (wfld q.w 121 112)
      else ((getCore s c).stImage.fe.toNat : Int) - ((getCore s c).stImage.wcap.toNat : Int) ≤ sxt 10 (wfld q.w 121 112))
    (hl : localErr s c false (blockRanges (getCore s c) ms ++ (winList q ms).map (winPlace (getCore s c) q)) = none)
    (hd : downErr s ((winList q ms).map (winPlace (getCore s c) q)) = none)
    (hr : rangesErr (getCore s c).spTask ((winList q ms).map fun y => ⟨!write, winSpa q y.2.1 y.2.2, winBytesOf q⟩) = none) :
    startWindow write s c q = .run s (paced s c q ((winList q ms).length * beats (winBytesOf q))) := by
  have hany : ((winList q ms).any fun y => decide ((winPlace (getCore s c) q y).1 + winBytesOf q > blockOf y.1 + (getCore s c).stImage.blkSize.toNat * 4096)) = false :=
    List.any_eq_false.2 fun y hy => by simpa using hin y hy
  unfold startWindow
  dsimp only
  rw [ha, if_neg Bool.false_ne_true, if_neg (not_or.2 ⟨hg, hw⟩), hms]
  dsimp only
  refine (if_neg (by exact ne_true_of_eq_false hany)).trans ((if_neg ?_).trans ?_)
  · cases write
    · simp only [Bool.false_eq_true, if_false, Bool.or_eq_true, decide_eq_true_eq] at hfirst ⊢
      omega
    · simp only [if_true, Bool.or_eq_true, decide_eq_true_eq] at hfirst ⊢
      omega
  · split
    next e h => exact absurd (h.symm.trans hl) (Option.some_ne_none e)
    next =>
      split
      next e h => exact absurd (h.symm.trans hr) (Option.some_ne_none e)
      next => exact congrArg (Option.getD · _) hd

/-! ### A unit of LOAD and SAVE -/

theorem unitEffect_load (hk : q.kind = .stLoad) : unitEffect s c q = stLoadUnit s c q q.uRow q.uIdx := by rw [unitEffect, hk]
theorem unitEffect_save (hk : q.kind = .stSave) : unitEffect s c q = stSaveUnit s c q q.uRow q.uIdx := by rw [unitEffect, hk]

/-- The value that LOAD gives the accumulator for element `n` of a unit that lies at `a`. -/
def loadElem (s : State) (q : QEntry) (m : Member) (a n : Nat) : BitVec 40 :=
  if wbit q.w 110 || m.reset then 0 else ofI 40 (sxt (8 * stWidth q.w) (devNat s (a + n * stWidth q.w) (stWidth q.w)) * (2 ^ stSh q.w : Nat))

/-- Without lost data every element of the unit has its value. -/
theorem loadCells_eq {m : Member} (hlost : q.lost = []) (cell a n : Nat) (t : Tbl (BitVec 40)) :
    ((List.range n).filterMap fun n =>
      let b := a + n * stWidth q.w
      if wbit q.w 110 || m.reset then some (cell + n, (0 : Int))
      else if q.lost.contains (b / 64) || q.lost.contains ((b + stWidth q.w - 1) / 64) then none
      else some (cell + n, sxt (8 * stWidth q.w) (devNat s b (stWidth q.w)) * (2 ^ stSh q.w : Nat))).foldl (fun t x => tput 0 t x.1 (ofI 40 x.2)) t =
    (List.range n).foldl (fun t i => tput 0 t (cell + i) (loadElem s q m a i)) t := by
  have hzero : ofI 40 0 = 0 := by decide
  rw [List.foldl_filterMap]
  congr 1
  funext t i
  rw [loadElem, hlost]
  cases hz : wbit q.w 110 || m.reset <;> simp [hzero]

theorem stLoadUnit_spec {m : Member} (hlost : q.lost = []) (r g : Nat) (hm : memberAt s c (wfld q.w 91 84) r = some m) :
    (stLoadUnit s c q r g).mem = s.mem ∧ (getCore (stLoadUnit s c q r g) c).eng.sp = (getCore s c).eng.sp ∧
      ∀ k, tget 0 (getCore (stLoadUnit s c q r g) c).eng.acc k =
        if (wfld q.w 83 74 + r) * 256 + stCol0 q.w + 64 * g ≤ k ∧ k < (wfld q.w 83 74 + r) * 256 + stCol0 q.w + 64 * g + 64 then
          loadElem s q m ((stRange (getCore s c) q m m.gen).1 + 64 * g * stWidth q.w) (k - ((wfld q.w 83 74 + r) * 256 + stCol0 q.w + 64 * g))
        else tget 0 (getCore s c).eng.acc k := by
  unfold stLoadUnit
  dsimp only
  rw [hm]
  dsimp only
  obtain ⟨a, ha⟩ : ∃ a, (stRange (getCore s c) q m m.gen).1 + 64 * g * stWidth q.w = a := ⟨_, rfl⟩
  rw [ha]
  obtain ⟨v, P, hP, hv⟩ : ∃ v P, countTier s c a (64 * stWidth q.w) = v ∧ v = { s with parts := P } := by
    obtain ⟨P, hP⟩ := countTier_frame s c a (64 * stWidth q.w)
    exact ⟨_, P, rfl, hP⟩
  have hvcore : getCore v c = getCore s c := by rw [hv]; rfl
  have hvmem : v.mem = s.mem := by rw [hv]
  rw [hP, modEng, modCore_eq, getCore_setCore, hvcore]
  refine ⟨hvmem, rfl, fun k => ?_⟩
  dsimp only
  refine (congrArg (tget 0 · k) (loadCells_eq hlost _ a 64 _)).trans ?_
  exact tget_cells (loadElem s q m a) ((wfld q.w 83 74 + r) * 256 + stCol0 q.w + 64 * g) 64 _ k

theorem length_flatMap_leBytes {α : Type} (wd : Nat) (f : α → Nat) (l : List α) : (l.flatMap fun y => leBytes wd (f y)).length = l.length * wd :=
  length_flatMap_const fun _ _ => length_leBytes ..

theorem stSaveUnit_spec {m : Member} (r g : Nat) (hm : memberAt s c (wfld q.w 91 84) r = some m) :
    (getCore (stSaveUnit s c q r g) c).eng.acc = (getCore s c).eng.acc ∧ (getCore (stSaveUnit s c q r g) c).eng.sp = (getCore s c).eng.sp ∧
      ∃ b, b.length = 64 * stWidth q.w ∧
        (stSaveUnit s c q r g).mem = devWritten s ((stRange (getCore s c) q m (!m.gen)).1 + 64 * g * stWidth q.w) b := by
  unfold stSaveUnit
  dsimp only
  rw [hm]
  dsimp only
  obtain ⟨a, ha⟩ : ∃ a, (stRange (getCore s c) q m (!m.gen)).1 + 64 * g * stWidth q.w = a := ⟨_, rfl⟩
  rw [ha]
  obtain ⟨l, hl, hlen⟩ : ∃ l : List (Int × VStat), (List.range 64).map (fun n =>
      spill (stSh q.w) (stWidth q.w) (accI (getCore s c).eng (wfld q.w 83 74 + r) (stCol0 q.w + 64 * g + n))
        (drawOf (bowDraw m.bowKey m.bowStep (tget (0, 0) q.sites (wfld q.w 115 112)).1 (tget (0, 0) q.sites (wfld q.w 115 112)).2 (wfld q.w 127 120)
          (idxVal q.regs q.w 32 + 64 * g + n)))) = l ∧ l.length = 64 := ⟨_, rfl, by simp⟩
  rw [hl]
  obtain ⟨v, hv, hvmem, hvmon, hvacc, hvsp⟩ : ∃ v, (if wbit q.w 111 then install s c (.statsAdd (wfld q.w 119 116) 0 (l.foldl (fun v y => v.add y.2) VStat.zero).sat
      (l.foldl (fun v y => v.add y.2) VStat.zero).conv (l.foldl (fun v y => v.add y.2) VStat.zero).sqerr) else s) = v ∧
      v.mem = s.mem ∧ v.mon = s.mon ∧ (getCore v c).eng.acc = (getCore s c).eng.acc ∧ (getCore v c).eng.sp = (getCore s c).eng.sp := by
    cases wbit q.w 111
    · exact ⟨_, rfl, rfl, rfl, rfl, rfl⟩
    · refine ⟨_, if_pos rfl, rfl, rfl, ?_, ?_⟩ <;> rw [eng_install] <;> rfl
  obtain ⟨P, hP⟩ := countTier_frame v c a (64 * stWidth q.w)
  rw [hv, hP]
  refine ⟨hvacc, hvsp, l.flatMap fun y => leBytes (stWidth q.w) (ofI (8 * stWidth q.w) y.1).toNat,
    (length_flatMap_leBytes _ _ l).trans (by rw [hlen]), ?_⟩
  exact devWritten_congr (t := { v with parts := P }) (s := s) hvmem hvmon a _

/-! ### A unit of WREAD and WWRITE -/

/-- The end of a unit whose effect is known. -/
theorem finishUnit_sameEngines {e : QEntry} (he : OnlyEntry s c e) (hn : e.n = q.n) (hk : e.kind = q.kind) (hu : unitEffect s c e = u) :
    SameEngines c u (finishUnit s c q) := by
  have hentry : entryNow s c q = e := by
    have hq := getQ_of_onlyEntry he
    rw [entryNow, ← hk, hq]
    simp [hn]
  rw [finishUnit, hentry, hu]
  exact sameEngines_modEntry ..

/-- A read over a window changes nothing but its charge. -/
theorem winMemory_read (s : State) (c : CoreId) (q : QEntry) (r j : Nat) : ∃ P, winMemory false s c q r j = { s with parts := P } := by
  unfold winMemory
  split
  · exact ⟨_, rfl⟩
  next m f o n _ =>
    dsimp only
    rw [if_neg Bool.false_ne_true]
    split
    · exact countTier_frame ..
    · exact ⟨_, rfl⟩

theorem delivered_all (hlost : q.lost = []) (a : Nat) (b : List Byte) : delivered q a b = b.zipIdx.map fun x => (x.2, x.1) := by
  rw [delivered, hlost]
  simp

/-- What a unit of WREAD delivers. -/
def winDelivered (s : State) (c : CoreId) (q : QEntry) (m : Member) (f : Int) (o n : Nat) : List Byte :=
  if winLive s (getCore s c) m f then devRead s (winSlot (getCore s c) q.w m f + o) n else List.replicate n 0

theorem wreadBytes_eq {m : Member} {f : Int} {o n r j : Nat} (hlost : q.lost = []) (hu : winUnit s c q r j = some (m, f, o, n)) :
    wreadBytes s c q r j = (winDelivered s c q m f o n).zipIdx.map fun x => (x.2, x.1) := by
  unfold wreadBytes winDelivered
  rw [hu]
  dsimp only
  cases winLive s (getCore s c) m f
  · rfl
  · exact delivered_all hlost _ _

/-- Bytes presented to consecutive places are put there. -/
theorem writesAt_performed (s : State) (c : CoreId) (q : QEntry) (p : Nat) (l : List Byte) :
    ((writesAt q p (l.zipIdx.map fun x => (x.2, x.1))).foldl (performNow c) s).mem = s.mem ∧
    (getCore ((writesAt q p (l.zipIdx.map fun x => (x.2, x.1))).foldl (performNow c) s) c) =
      { getCore s c with eng := { (getCore s c).eng with sp := Memory.wrList (getCore s c).eng.sp (spWrites (getCore s c) p l) } } := by
  cases hl : l with
  | nil => exact ⟨rfl, rfl⟩
  | cons b rest =>
    rw [← hl]
    have hsome : (l.zipIdx.map fun x => (x.2, x.1)).isEmpty = false := by simp [hl]
    have hbytes : (l.zipIdx.map fun x => (x.2, x.1)).map (·.2) = l := by
      rw [List.map_map]
      exact List.zipIdx_map_fst 0 l
    have haccess : writesAt q p (l.zipIdx.map fun x => (x.2, x.1)) = [⟨1, .dma, q.n, q.pc, 0, l.zipIdx.map (fun x => (p + x.2, 1)), some l⟩] := by
      rw [writesAt, hsome, hbytes, List.map_map]
      rfl
    have hcells := writeCells_pieces s c ⟨1, .dma, q.n, q.pc, 0, l.zipIdx.map (fun x => (p + x.2, 1)), some l⟩ p l rfl
    have hperf : performNow c s ⟨1, .dma, q.n, q.pc, 0, l.zipIdx.map (fun x => (p + x.2, 1)), some l⟩ =
        modEng s c fun e => { e with sp := Memory.wrList e.sp (spWrites (getCore s c) p l) } :=
      congrArg (fun y => modEng s c fun e => { e with sp := Memory.wrList e.sp y }) hcells
    rw [haccess, List.foldl_cons, List.foldl_nil, hperf, modEng, modCore_eq, getCore_setCore]
    exact ⟨rfl, rfl⟩

theorem moveUnit_wread (ho : OnlyEntry s c q) (hlost : q.lost = []) (hk : q.kind = .stWread) {m : Member} {f : Int} {o n : Nat}
    (hu : winUnit s c q q.uRow q.uIdx = some (m, f, o, n)) :
    (moveUnit s c q).mem = s.mem ∧ (getCore (moveUnit s c q) c).eng =
      { (getCore s c).eng with sp := Memory.wrList (getCore s c).eng.sp (spWrites (getCore s c) (winAt q q.uRow q.uIdx) (winDelivered s c q m f o n)) } := by
  obtain ⟨hmem, hcore⟩ := writesAt_performed s c q (winAt q q.uRow q.uIdx) (winDelivered s c q m f o n)
  obtain ⟨w, hw⟩ : ∃ w, (writesAt q (winAt q q.uRow q.uIdx) ((winDelivered s c q m f o n).zipIdx.map fun x => (x.2, x.1))).foldl (performNow c) s = w := ⟨_, rfl⟩
  rw [hw] at hmem hcore
  have hmove : moveUnit s c q = finishUnit w c q := by
    have hopen : openUnit s c q = s := by rw [openUnit, hk]
    rw [moveUnit, hopen, entryNow_of_onlyEntry ho]
    simp only [unitAccess, hk]
    rw [wreadBytes_eq hlost hu, hw]
  have hwo : OnlyEntry w c q := fun k => by
    rw [hcore]
    exact ho k
  obtain ⟨P, hP⟩ := winMemory_read w c q q.uRow q.uIdx
  obtain ⟨z, hz⟩ : ∃ z : State, { w with parts := P } = z := ⟨_, rfl⟩
  have heffect : unitEffect w c q = z := by
    rw [unitEffect, hk, ← hz]
    exact hP
  have hzw : z.mem = w.mem ∧ getCore z c = getCore w c := by
    rw [← hz]
    exact ⟨rfl, rfl⟩
  have hfin := finishUnit_sameEngines hwo rfl rfl heffect
  rw [hmove, hfin.mem, hfin.eng, hzw.1, hzw.2, hcore]
  exact ⟨hmem, rfl⟩

theorem winUnit_modEntry (s : State) (c : CoreId) (k : QSel) (n : Nat) (g : QEntry → QEntry) (key : Nat) (b : List Byte) (r j : Nat) :
    winUnit (modEntry s c k n g) c (putCap q key b) r j = winUnit s c q r j := by
  have hcore : getCore (modEntry s c k n g) c = { getCore s c with seq := (getCore (modEntry s c k n g) c).seq } := by
    unfold modEntry
    rw [modSeq_eq, modCore_eq, getCore_setCore]
  have hmember (i : Nat) : memberAt (modEntry s c k n g) c (wfld q.w 93 86) i = memberAt s c (wfld q.w 93 86) i := rfl
  have hframe (y : Member) (i : Nat) : winFrame (getCore (modEntry s c k n g) c) q.w y i = winFrame (getCore s c) q.w y i := by
    rw [hcore]
    rfl
  unfold winUnit
  exact (congrArg (Option.map _) (hmember _)).trans (congrArg (fun h => Option.map h _) (funext fun y => by rw [show (putCap q key b).w = q.w from rfl, hframe]; rfl))

theorem moveUnit_wwrite (ho : OnlyEntry s c q) (hz : q.zeros = []) (hk : q.kind = .stWwrite) {m : Member} {f : Int} {o n : Nat}
    (hu : winUnit s c q q.uRow q.uIdx = some (m, f, o, n)) :
    (getCore (moveUnit s c q) c).eng = (getCore s c).eng ∧
      (moveUnit s c q).mem = devWritten s (winSlot (getCore s c) q.w m f + o) (spRead (getCore s c) [] (winAt q q.uRow q.uIdx) n) := by
  obtain ⟨l, hl⟩ : ∃ l, spRead (getCore s c) [] (winAt q q.uRow q.uIdx) n = l := ⟨_, rfl⟩
  have hlen : l.length = n := by rw [← hl]; simp [spRead]
  obtain ⟨w, hw⟩ : ∃ w, modEntry s c (queueOf q.kind) q.n (fun e => putCap e 0 l) = w := ⟨_, rfl⟩
  have hsame : SameEngines c s w := hw ▸ sameEngines_modEntry ..
  have himage : (getCore w c).stImage = (getCore s c).stImage := by
    rw [← hw]
    unfold modEntry
    rw [modSeq_eq, modCore_eq, getCore_setCore]
  have hmove : moveUnit s c q = finishUnit w c q := by
    have hopen : openUnit s c q = s := by rw [openUnit, hk]
    have hread := performNow_read ho hz 1 0 (winAt q q.uRow q.uIdx) n
    rw [hl, hw] at hread
    rw [moveUnit, hopen, entryNow_of_onlyEntry ho]
    simp only [unitAccess, hk, hu]
    exact congrArg (finishUnit · c q) hread
  have hwo : OnlyEntry w c (putCap q 0 l) := hw ▸ onlyEntry_modEntry ho rfl rfl
  have hunit : winUnit w c (putCap q 0 l) q.uRow q.uIdx = some (m, f, o, n) := by
    rw [← hw, winUnit_modEntry]
    exact hu
  have hslot : winSlot (getCore w c) q.w m f = winSlot (getCore s c) q.w m f := by rw [winSlot, winSlot, himage]
  obtain ⟨P, hP⟩ := countTier_frame w c (winSlot (getCore s c) q.w m f + o) n
  obtain ⟨v, hv⟩ : ∃ v : State, { w with parts := P } = v := ⟨_, rfl⟩
  have hvw : v.mem = w.mem ∧ v.mon = w.mon ∧ getCore v c = getCore w c := by
    rw [← hv]
    exact ⟨rfl, rfl, rfl⟩
  obtain ⟨hvmem, hvmon, hvcore⟩ := hvw
  have heffect : unitEffect w c (putCap q 0 l) = devWrite v (winSlot (getCore s c) q.w m f + o) l := by
    rw [unitEffect, show (putCap q 0 l).kind = .stWwrite from hk]
    change winMemory true w c (putCap q 0 l) q.uRow q.uIdx = _
    unfold winMemory
    rw [hunit]
    dsimp only
    rw [if_pos rfl, show (putCap q 0 l).w = q.w from rfl, hslot, hP, hv, capOf_putCap_self, ← hlen, List.take_length]
  have hfin := finishUnit_sameEngines (q := q) hwo rfl rfl heffect
  rw [hmove, hfin.mem, hfin.eng]
  refine ⟨?_, ?_⟩
  · exact (congrArg CoreSt.eng hvcore).trans hsame.eng
  · exact (devWritten_congr (hvmem.trans hsame.mem) (hvmon.trans hsame.mon) _ _).trans (by rw [hl])

end Sys2Proof.Machine
end

section
/-! PROOFS. The settled statement. -/

namespace Sys2Proof.Machine
open Sys2Proof

/-- Settles O27: a unit of LOAD or SAVE is 64 elements of one member, a unit of WREAD or WWRITE a piece of one frame. -/
theorem stateioCommandsRun : Obligations.StateioCommandsRun := by
  intro c s q x
  refine ⟨fun ha ms => ⟨fun hk hc => ?_, fun hk hc => ?_⟩, fun ha hk => ?_, fun m hlost hm => ?_, ?_⟩
  · have hstart : startOf s c q = startStLoad s c q := by rw [startOf, hk]
    exact ⟨_, hstart.trans ((startSt_run ha).1 hc rfl), rfl⟩
  · have hstart : startOf s c q = startStSave s c q := by rw [startOf, hk]
    exact ⟨_, hstart.trans ((startSt_run (l := false) ha).2 hc), rfl⟩
  · intro write nfr fb rel fe ms hms hg hw frames slots hin hlast hfirst hl hd hr
    have hstart : startOf s c q = startWindow write s c q := by
      rcases hk with hk | hk
      · rw [startOf, hk, show write = false from decide_eq_false (by rw [hk]; decide)]
      · rw [startOf, hk, show write = true from decide_eq_true hk]
    exact ⟨_, hstart.trans (startWindow_run ha hms hg hw hin hlast hfirst hl hd hr), rfl⟩
  · intro wd row col u
    refine ⟨fun hk => ?_, fun hk => ?_⟩
    · obtain ⟨hmem, hsp, hacc⟩ := stLoadUnit_spec hlost q.uRow q.uIdx hm
      have hu : u = stLoadUnit s c q q.uRow q.uIdx := unitEffect_load hk
      have hcell : row * 256 + col = (wfld q.w 83 74 + q.uRow) * 256 + stCol0 q.w + 64 * q.uIdx := (Nat.add_assoc ..).symm
      rw [hu, hcell]
      refine ⟨hmem, hsp, fun i hi => ?_, fun k hk => ?_⟩
      · rw [hacc, if_pos (by omega), Nat.add_sub_cancel_left]
        rfl
      · rw [hacc, if_neg (by omega)]
    · obtain ⟨hacc, hsp, b, hlen, hmem⟩ := stSaveUnit_spec q.uRow q.uIdx hm
      have hu : u = stSaveUnit s c q q.uRow q.uIdx := unitEffect_save hk
      rw [hu]
      refine ⟨hacc, hsp, b, hlen, hmem, fun hi => ?_⟩
      have hfit : 64 * (q.uIdx + 1) * wd ≤ stCols q.w * wd := Nat.mul_le_mul_right _ (Nat.mul_le_mul_left _ hi)
      rw [hlen, stRange]
      calc 64 * q.uIdx * wd + 64 * wd = 64 * (q.uIdx + 1) * wd := by rw [Nat.mul_succ, Nat.add_mul]
        _ ≤ stCols q.w * wd := hfit
  · intro m f o n ho _ hlost hz _ _ hu a u put
    exact ⟨fun hk => moveUnit_wread ho hlost hk hu, fun hk => moveUnit_wwrite ho hz hk hu⟩

end Sys2Proof.Machine
end

section
/-! PROOFS. The courses, the jobs and the presence of a task of every partition, and where models have their weights: no cycle of a core and no
settlement of a task touches them. -/

namespace Sys2Proof.Machine
open Sys2Proof

variable {s t u : State}

/-! ### The view -/

/-- Of a partition: its courses, whether it has a task, its jobs. -/
@[simp] def partView (x : Part) : W32 × Bool × List Job := (x.courses, x.task.isSome, x.jobs)

/-- Of the device: every partition's view, and where every model has its weights. -/
def standing (s : State) : (PartId → W32 × Bool × List Job) × (ModelSlot → Option (List (Nat × Nat))) :=
  (fun p => partView (getPart s p), fun m => (getModel s m).map (·.weightsAt))

@[simp] theorem standing_setPart {p : PartId} {x : Part} (hx : partView x = partView (getPart s p)) : standing (setPart s p x) = standing s := by
  refine Prod.ext (funext fun q => ?_) rfl
  by_cases hq : q = p
  · rw [hq]
    exact (congrArg partView (getPart_setPart ..)).trans hx
  · exact congrArg partView (getPart_setPart_ne _ _ _ _ hq)

@[simp] theorem standing_modPart {p : PartId} {g : Part → Part} (hg : ∀ x, partView (g x) = partView x) : standing (modPart s p g) = standing s :=
  standing_setPart (hg _)

@[simp] theorem standing_modTask (p : PartId) (g : Task → Task) : standing (modTask s p g) = standing s := standing_modPart fun x => by simp

theorem standing_setModel {m : ModelSlot} {x y : Model} (hy : getModel s m = some y) (hx : x.weightsAt = y.weightsAt) :
    standing (setModel s m x) = standing s := by
  refine Prod.ext rfl (funext fun k => ?_)
  by_cases hk : k = m
  · subst hk
    change (tfind (tset s.models k.toNat x) k.toNat).map (·.weightsAt) = (getModel s k).map (·.weightsAt)
    rw [tfind_tset_self, hy]
    exact congrArg some hx
  · change (tfind (tset s.models m.toNat x) k.toNat).map (·.weightsAt) = _
    rw [tfind_tset_ne (toNat_ne hk)]
    rfl

@[simp] theorem standing_modModel {m : ModelSlot} {g : Model → Model} (hg : ∀ y, (g y).weightsAt = y.weightsAt) : standing (modModel s m g) = standing s := by
  unfold modModel
  split
  next y hy => exact standing_setModel hy (hg y)
  next => rfl

@[simp] theorem standing_ite {c : Prop} [Decidable c] (a b : State) : standing (if c then a else b) = if c then standing a else standing b := apply_ite ..

theorem standing_ite_of {c : Prop} [Decidable c] {a b : State} (ha : standing a = standing s) (hb : standing b = standing s) :
    standing (if c then a else b) = standing s := by
  split <;> assumption

@[simp] theorem standing_foldl {α : Type} {f : State → α → State} (h : ∀ s x, standing (f s x) = standing s) (l : List α) :
    standing (l.foldl f s) = standing s := by
  induction l generalizing s with
  | nil => rfl
  | cons x l ih => exact ih.trans (h s x)

@[simp] theorem standing_forAll {α : Type} {f : State → α → State} (h : ∀ s x, standing (f s x) = standing s) (l : List α) :
    standing (forAll l f s) = standing s := standing_foldl h l

theorem standing_foldl_fst {α β : Type} {f : State × β → α → State × β} (h : ∀ a x, standing (f a x).1 = standing a.1) (l : List α) (a : State × β) :
    standing (l.foldl f a).1 = standing a.1 := by
  induction l generalizing a with
  | nil => rfl
  | cons x l ih => exact (ih _).trans (h a x)

@[simp] theorem standing_upd (s : State) {x_pending : List Instr} {x_time : W64} {x_free : Nat} {x_mem x_hostMem : Tbl Byte} {x_regions : List Region} {x_cores : Tbl CoreSt}
    {x_courses : Tbl Course} {x_streams : Tbl Stream} {x_profiles : Tbl Profile} {x_bundles : List Bundle} {x_bundleNo : W32} {x_funcs : Tbl Fn}
    {x_turns : List (Func × Func)} {x_fatal : Bool} {x_beat : W32} {x_beatAt : W64} {x_apertures : Tbl Aperture} {x_cpl : Option (List Byte)}
    {x_inProgress : List InProgress} {x_aer : List (BitVec 2)} {x_sbtm : SbTmSt} {x_mig : MigSt} {x_mon : MonSt} {x_fuses : Fuses} {x_br : BrSt}
    {x_tele : TeleSt} {x_pw : PwSt} : standing ⟨x_pending, x_time, x_free, x_mem, x_hostMem, x_regions, x_cores, x_courses, s.parts, x_streams,
    x_profiles, s.models, x_bundles, x_bundleNo, x_funcs, x_turns, x_fatal, x_beat, x_beatAt, x_apertures, x_cpl, x_inProgress, x_aer, x_sbtm,
    x_mig, x_mon, x_fuses, x_br, x_tele, x_pw⟩ = standing s := rfl

/-! ### The operations -/

@[simp] theorem standing_setCore (c : CoreId) (x : CoreSt) : standing (setCore s c x) = standing s := rfl

@[simp] theorem standing_modCore (c : CoreId) (f : CoreSt → CoreSt) : standing (modCore s c f) = standing s := rfl

@[simp] theorem standing_modSeq (c : CoreId) (f : Seq → Seq) : standing (modSeq s c f) = standing s := rfl

@[simp] theorem standing_modEng (c : CoreId) (f : Engines → Engines) : standing (modEng s c f) = standing s := rfl

@[simp] theorem standing_setStream (h : Handle) (x : Stream) : standing (setStream s h x) = standing s := rfl

@[simp] theorem standing_modStream (h : Handle) (f : Stream → Stream) : standing (modStream s h f) = standing s := rfl

@[simp] theorem standing_setFn (f : Func) (x : Fn) : standing (setFn s f x) = standing s := rfl

@[simp] theorem standing_modFn (f : Func) (g : Fn → Fn) : standing (modFn s f g) = standing s := rfl

@[simp] theorem standing_addTierBytes (p : PartId) (a n : Nat) : standing (addTierBytes s p a n) = standing s := standing_modPart fun x => by
  split
  · rfl
  · split <;> rfl

@[simp] theorem standing_tick (dt : Nat) : standing (tick s dt) = standing s := by simp [tick]

@[simp] theorem standing_raiseTaskAt (c : CoreId) (cause : BitVec 8) (pc : BitVec 13) (addr : Option (BitVec 48)) (sym : BitVec 16) :
    standing (raiseTaskAt s c cause pc addr sym) = standing s := by
  unfold raiseTaskAt
  dsimp only
  split <;> simp

@[simp] theorem standing_raiseTask (c : CoreId) (cause : BitVec 8) (pc : BitVec 13) : standing (raiseTask s c cause pc) = standing s := by simp [raiseTask]

@[simp] theorem standing_abandonRest (c : CoreId) : standing (abandonRest s c) = standing s := rfl

@[simp] theorem standing_emptyQueues (c : CoreId) : standing (emptyQueues s c) = standing s := rfl

@[simp] theorem standing_hostWr (f : Func) (a : Nat) (b : List Byte) : standing (hostWr s f a b) = standing s := by simp [hostWr]

@[simp] theorem standing_postMsg (f : Func) (m : Msg) : standing (postMsg s f m) = standing s := by simp [postMsg]

@[simp] theorem standing_postEvent (f : Func) (code : BitVec 16) (payload : Nat) : standing (postEvent s f code payload) = standing s := by simp [postEvent]

@[simp] theorem standing_traceRec (p : PartId) (bit : Nat) (event : Nat) (job : JobNo) (detail : Nat) (bundle : W32) :
    standing (traceRec s p bit event job detail bundle) = standing s := by
  unfold traceRec
  split
  · rfl
  · dsimp only
    split
    · rfl
    · exact (standing_modPart (by exact fun _ => rfl)).trans (standing_hostWr ..)

@[simp] theorem standing_logError (i : ErrInfo) : standing (logError s i) = standing s := by simp [logError]

@[simp] theorem standing_logTaskErrors (p : PartId) (t : Task) (o : BitVec 3) : standing (logTaskErrors s p t o) = standing s := by simp [logTaskErrors]

@[simp] theorem standing_correctRow (c : CoreId) (r : SramRow) : standing (correctRow c s r) = standing s := by simp [correctRow]

@[simp] theorem standing_devWrite (a : Nat) (b : List Byte) : standing (devWrite s a b) = standing s := rfl

@[simp] theorem standing_devCells (l : List (Nat × Byte)) : standing (devCells s l) = standing s := by
  unfold devCells
  split
  · rfl
  · exact standing_foldl (by exact fun _ _ => rfl) _

@[simp] theorem standing_carveAll (a n : Nat) : standing (carveAll s a n) = standing s := rfl

@[simp] theorem standing_staleTier2 (r : Region) : standing (staleTier2 s r) = standing s := rfl

@[simp] theorem standing_freeRegion (r : Region) : standing (freeRegion s r) = standing s := by simp [freeRegion]

@[simp] theorem standing_releaseRegions (p : Region → Bool) : standing (releaseRegions s p) = standing s := by simp [releaseRegions]

@[simp] theorem standing_modAcct (f : Func) (g : Account → Account) : standing (modAcct s f g) = standing s := rfl

@[simp] theorem standing_chargeAll (cl : List Func) (g : (Nat → Nat) → Account → Account) : standing (chargeAll s cl g) = standing s := by
  unfold chargeAll
  exact standing_foldl (fun _ _ => by simp) _

@[simp] theorem standing_cutParts (p : PartId) : standing (cutParts s p) = standing s := by
  unfold cutParts
  dsimp only
  split <;> simp

@[simp] theorem standing_chargeTask (p : PartId) : standing (chargeTask s p) = standing s := by
  unfold chargeTask
  dsimp only
  split <;> simp

@[simp] theorem standing_closeCharge (p : PartId) : standing (closeCharge s p) = standing s := by simp [closeCharge]

@[simp] theorem standing_chargeHardStop (p : PartId) (overrunTicks : Nat) : standing (chargeHardStop s p overrunTicks) = standing s := by
  unfold chargeHardStop
  dsimp only
  split <;> simp

@[simp] theorem standing_chargeHost (f : Func) (n : Nat) : standing (chargeHost s f n) = standing s := rfl

@[simp] theorem standing_putPcm (h : Handle) (b : List Byte) : standing (putPcm s h b) = standing s := by simp [putPcm]

@[simp] theorem standing_putSample (h : Handle) (y : W32) : standing (putSample s h y) = standing s := by simp [putSample]

@[simp] theorem standing_synthSample (h : Handle) : standing (synthSample s h) = standing s := by simp [synthSample]

@[simp] theorem standing_synthSamples (k : Nat) (h : Handle) : standing (synthSamples k s h) = standing s := by
  induction k generalizing s with
  | zero => rfl
  | succ k ih => exact ih.trans (standing_synthSample h)

@[simp] theorem standing_endSynth (h : Handle) (commit : Bool) : standing (endSynth s h commit) = standing s := by simp [endSynth]

@[simp] theorem standing_putRecord (h : Handle) (token : BitVec 24) (g : RecFlags) (time : W32) (score : BitVec 16) (seq : W32) :
    standing (putRecord s h token g time score seq) = standing s := by simp [putRecord]

@[simp] theorem standing_postDone (l : List DoneEntry) : standing (postDone s l) = standing s := by simp [postDone]

@[simp] theorem standing_pcmRecord (h : Handle) (g : RecFlags) (seq : W32) : standing (pcmRecord s h g seq) = standing s := by simp [pcmRecord]

@[simp] theorem standing_chunkRecords (h : Handle) (g : RecFlags) (toks : Tokens) (seq : W32) :
    standing (chunkRecords s h g toks seq) = standing s := by simp [chunkRecords]

@[simp] theorem standing_endChunk (h : Handle) (how : ChunkEnd) (r : Bool) (toks : Tokens) : standing (endChunk s h how r toks).1 = standing s := by simp [endChunk]

@[simp] theorem standing_requeueChunk (h : Handle) (hs err : Nat → Nat) (late : List CoreId) : standing (requeueChunk s h hs err late) = standing s := rfl

@[simp] theorem standing_freeStream (h : Handle) : standing (freeStream s h) = standing s := by
  unfold freeStream
  dsimp only
  split <;> simp

@[simp] theorem standing_finishClose (h : Handle) : standing (finishClose s h) = standing s := by simp [finishClose]

@[simp] theorem standing_queueDescs (l : BitVec 16 → List (BitVec 256)) : standing (queueDescs s l).2 = standing s := rfl

@[simp] theorem standing_startMove (h : Handle) (promote : Bool) (cls dst : Nat) : standing (startMove s h promote cls dst) = standing s := by
  unfold startMove
  dsimp only
  split <;> simp

@[simp] theorem standing_dropDescs (tag : BitVec 16) : standing (dropDescs s tag) = standing s := rfl

@[simp] theorem standing_dropMove (h : Handle) : standing (dropMove s h) = standing s := by
  unfold dropMove
  split <;> simp

@[simp] theorem standing_switchPtr (h : Handle) (dst : Nat) : standing (switchPtr s h dst) = standing s := by simp [switchPtr]

@[simp] theorem standing_zeroedBlock (h : Handle) (base : Nat) : standing (zeroedBlock s h base) = standing s := by
  unfold zeroedBlock
  split <;> simp

@[simp] theorem standing_startDue (h : Handle) : standing (startDue s h) = standing s := by
  unfold startDue
  dsimp only
  repeat' split
  all_goals simp

@[simp] theorem standing_moveOffRetired (blocks : List NewBlock) (h : Handle) : standing (moveOffRetired s blocks h) = standing s := by
  unfold moveOffRetired
  dsimp only
  split <;> simp

@[simp] theorem standing_endClose (h : Handle) : standing (endClose s h) = standing s := by simp [endClose]

@[simp] theorem standing_afterChunk (blocks : List NewBlock) (h : Handle) : standing (afterChunk s blocks h) = standing s := by simp [afterChunk]

@[simp] theorem standing_dropEntry (c : CoreId) (k : QSel) (n : Nat) : standing (dropEntry s c k n) = standing s := rfl

@[simp] theorem standing_modEntry (c : CoreId) (k : QSel) (n : Nat) (f : QEntry → QEntry) : standing (modEntry s c k n f) = standing s := rfl

@[simp] theorem standing_countTier (c : CoreId) (a n : Nat) : standing (countTier s c a n) = standing s := by
  unfold countTier
  split <;> simp

@[simp] theorem standing_land (c : CoreId) (l : List (Nat × Byte)) : standing (land s c l) = standing s := by simp [land]

@[simp] theorem standing_matmulWrite (old : Engines) (c : CoreId) (q : QEntry) (t : Nat) : standing (matmulWrite old s c q t) = standing s := by
  unfold matmulWrite
  exact standing_foldl (fun _ _ => by simp) _

@[simp] theorem standing_drainUnit (c : CoreId) (q : QEntry) (r g : Nat) : standing (drainUnit s c q r g) = standing s := by simp [drainUnit]

@[simp] theorem standing_fillUnit (c : CoreId) (q : QEntry) (r g : Nat) : standing (fillUnit s c q r g) = standing s := by simp [fillUnit]

@[simp] theorem standing_install (c : CoreId) (i : Install) : standing (install s c i) = standing s := rfl

@[simp] theorem standing_chainRow (c : CoreId) (q : QEntry) (r : Nat) : standing (chainRow s c q r) = standing s := by
  unfold chainRow
  exact (standing_modEntry ..).trans (standing_install ..)

@[simp] theorem standing_chainRecords (c : CoreId) (q : QEntry) (g : Nat) : standing (chainRecords s c q g) = standing s := by
  unfold chainRecords
  exact (standing_modEntry ..).trans (standing_install ..)

@[simp] theorem standing_chainCompute (c : CoreId) (q : QEntry) (t : Nat) : standing (chainCompute s c q t) = standing s := by
  unfold chainCompute
  dsimp only
  split
  · exact standing_foldl (fun _ _ => standing_chainRow ..) _
  · exact (standing_foldl (fun _ _ => standing_chainRecords ..) _).trans (standing_foldl (fun _ _ => standing_chainRow ..) _)

@[simp] theorem standing_endVdLoad (c : CoreId) (q : QEntry) : standing (endVdLoad s c q) = standing s := by simp [endVdLoad]

@[simp] theorem standing_endVxConfig (c : CoreId) (q : QEntry) : standing (endVxConfig s c q) = standing s := by simp [endVxConfig]

@[simp] theorem standing_scanCompute (c : CoreId) (q : QEntry) (t : Nat) : standing (scanCompute s c q t) = standing s := by simp [scanCompute]

@[simp] theorem standing_mergeCompute (c : CoreId) (q : QEntry) (t : Nat) : standing (mergeCompute s c q t) = standing s := by
  unfold mergeCompute
  split
  · rfl
  · split
    · rfl
    · split <;> simp

@[simp] theorem standing_pickCompute (c : CoreId) (q : QEntry) (t : Nat) : standing (pickCompute s c q t) = standing s := by simp [pickCompute]

@[simp] theorem standing_spreadCompute (c : CoreId) (q : QEntry) (t : Nat) : standing (spreadCompute s c q t) = standing s := by
  unfold spreadCompute
  exact standing_foldl (fun _ _ => by simp) _

@[simp] theorem standing_vxCompute (c : CoreId) (q : QEntry) (t : Nat) : standing (vxCompute s c q t) = standing s := by
  unfold vxCompute
  split <;> simp

@[simp] theorem standing_vxEnd (c : CoreId) (q : QEntry) : standing (vxEnd s c q) = standing s := by
  unfold vxEnd
  split <;> simp

@[simp] theorem standing_applyPegReports (p : PartId) (slot : ModelSlot) (b : Bundle) : standing (applyPegReports s p slot b) = standing s := by
  unfold applyPegReports
  dsimp only
  split
  next m k hm hk =>
    have hset (x : Model) (hx : x.weightsAt = m.weightsAt) : standing (setModel s slot x) = standing s := standing_setModel hm hx
    have hstep (q : Prop) [Decidable q] (x : Model) (n : Nat) (hx : x.weightsAt = m.weightsAt) : (if q then setStep x n else x).weightsAt = m.weightsAt := by
      split <;> exact hx
    refine standing_ite_of rfl (standing_ite_of (hset _ (by rfl)) (standing_ite_of (hset _ (hstep _ _ _ (by rfl))) ?_))
    split
    · exact hset _ (hstep _ _ _ (by rfl))
    · exact (standing_foldl (fun _ _ => standing_modStream ..) _).trans (hset _ (hstep _ _ _ (by rfl)))
  next => rfl

@[simp] theorem standing_applyStateStats (p : PartId) (slot : ModelSlot) : standing (applyStateStats s p slot) = standing s := by
  unfold applyStateStats
  dsimp only
  split
  next hm _ =>
    split
    · rfl
    · exact standing_setModel hm rfl
  next => rfl

@[simp] theorem standing_bundleTokens (p : PartId) (slot : ModelSlot) (n : Nat) : standing (bundleTokens s p slot n).2 = standing s := by
  unfold bundleTokens
  dsimp only
  split
  next hm _ =>
    split
    · rfl
    · exact standing_setModel hm rfl
  next => rfl

@[simp] theorem standing_noteConflicts (c : CoreId) (l : List (Access × (BitVec 3 × BitVec 6))) : standing (noteConflicts s c l) = standing s := by
  unfold noteConflicts
  dsimp only
  split
  · simp
  · split <;> simp

@[simp] theorem standing_perform (c : CoreId) (x : Access × Option (BitVec 3 × BitVec 6)) : standing (perform c s x) = standing s := by
  unfold perform
  dsimp only
  split <;> simp

@[simp] theorem standing_present (run : RunEnv) (c : CoreId) (l : List Access) : standing (present run s c l) = standing s := by simp [present]

@[simp] theorem standing_sendOn (n : PortNo) (dst : Nat) (fr : Frame) : standing (sendOn s n dst fr) = standing s := by simp [sendOn]

@[simp] theorem standing_sendFrame (fr : Frame) : standing (sendFrame s fr) = standing s := by
  unfold sendFrame
  split <;> simp

@[simp] theorem standing_setPair (i : Nat) (p : Pair) : standing (setPair s i p) = standing s := rfl

@[simp] theorem standing_pairSend (n i : Nat) : standing (pairSend n i s) = standing s := by
  induction n generalizing s with
  | zero => rfl
  | succ n ih =>
    unfold pairSend
    split
    · rfl
    · split
      · rfl
      · split
        · rfl
        · exact ih.trans (standing_sendFrame _)

@[simp] theorem standing_pairEnqueue (i : Nat) (l : List TxFrame) : standing (pairEnqueue s i l) = standing s := by
  unfold pairEnqueue
  split <;> simp

@[simp] theorem standing_sendWaiting : standing (sendWaiting s) = standing s := by simp [sendWaiting]

@[simp] theorem standing_addBridgeBytes (p : PartId) (n : Nat) : standing (addBridgeBytes s p n) = standing s := standing_modPart fun _ => rfl

@[simp] theorem standing_sendRow (c : CoreId) (q : QEntry) (d : DmaSide) (r m : Nat) (b : List Byte) : standing (sendRow s c q d r m b) = standing s := by
  unfold sendRow
  dsimp only
  repeat' split
  all_goals simp

@[simp] theorem standing_requestRow (c : CoreId) (q : QEntry) (d : DmaSide) (x : State × Nat) (r : Nat) : standing (requestRow c q d x r).1 = standing x.1 := by
  unfold requestRow
  dsimp only
  repeat' split
  all_goals simp

@[simp] theorem standing_putPlain (c : CoreId) (q : QEntry) (d : DmaSide) (r j : Nat) : standing (putPlain s c q d r j) = standing s := by simp [putPlain]

@[simp] theorem standing_putCoded (c : CoreId) (q : QEntry) (d : DmaSide) (r i : Nat) : standing (putCoded s c q d r i) = standing s := by simp [putCoded]

@[simp] theorem standing_finishSent (c : CoreId) (q : QEntry) (r : Nat) : standing (finishSent s c q r) = standing s := by
  unfold finishSent
  split <;> simp

@[simp] theorem standing_blockDone (c : CoreId) (q : QEntry) : standing (blockDone s c q) = standing s := by
  unfold blockDone
  split <;> simp

@[simp] theorem standing_corruptBlock (c : CoreId) (q : QEntry) : standing (corruptBlock s c q) = standing s := by simp [corruptBlock]

/-- The charge for the source of a unit. -/
def sourceCharged (s : State) (c : CoreId) (q : QEntry) (r j : Nat) : State :=
  match dmaSource q with
  | some d =>
    if isRemote s d then s
    else if decodes q r then (if firstOfBlock q j then countTier s c (sideAddr q.w d r) (blockCost s q r (blockAt q j)) else s)
    else countTier s c (sideAddr q.w d r + 128 * j) (pieceLen q j)
  | none => s

/-- The write of a unit. -/
def pieceWritten (s : State) (c : CoreId) (q : QEntry) (r j : Nat) : State :=
  match dmaDest q with
  | some d => if codes q r then (if lastOfBlock q j then putCoded s c q d r (blockAt q j) else s) else putPlain s c q d r j
  | none => s

/-- The end of a block, and of a row, with a unit. -/
def pieceEnded (s : State) (c : CoreId) (q : QEntry) (r j : Nat) : State :=
  if !lastOfBlock q j then s
  else if decodes q r && decide (capOf q keyBad ≠ []) then corruptBlock s c (entryNow s c q)
  else
    let s := if isCoded q then blockDone s c q else s
    if j + 1 = (dmaShape q).2 then finishSent s c (entryNow s c q) r else s

theorem dmaUnit_eq (c : CoreId) (q : QEntry) (r j : Nat) : dmaUnit s c q r j =
    pieceEnded (pieceWritten (sourceCharged (if q.supp.contains r && decide (j = 0) then install s c (.czAdd 0 0 1) else s) c q r j) c q r j) c q r j := rfl

@[simp] theorem standing_sourceCharged (c : CoreId) (q : QEntry) (r j : Nat) : standing (sourceCharged s c q r j) = standing s := by
  unfold sourceCharged
  split <;> simp

@[simp] theorem standing_pieceWritten (c : CoreId) (q : QEntry) (r j : Nat) : standing (pieceWritten s c q r j) = standing s := by
  unfold pieceWritten
  split <;> simp

@[simp] theorem standing_pieceEnded (c : CoreId) (q : QEntry) (r j : Nat) : standing (pieceEnded s c q r j) = standing s := by
  unfold pieceEnded
  split
  · rfl
  · split
    · exact standing_corruptBlock ..
    · split <;> split <;> simp

@[simp] theorem standing_dmaUnit (c : CoreId) (q : QEntry) (r j : Nat) :
    standing (dmaUnit s c q r j) = standing s := by
  rw [dmaUnit_eq, standing_pieceEnded, standing_pieceWritten, standing_sourceCharged]
  split <;> simp

@[simp] theorem standing_countStall (c : CoreId) : standing (countStall s c) = standing s := by
  unfold countStall
  split <;> simp

@[simp] theorem standing_endSummary (c : CoreId) (q : QEntry) : standing (endSummary s c q) = standing s := by
  unfold endSummary
  split
  · rfl
  · exact (standing_modTask ..).trans (standing_modPart fun _ => rfl)

@[simp] theorem standing_czCompute (c : CoreId) (q : QEntry) (t : Nat) : standing (czCompute s c q t) = standing s := by simp [czCompute]

@[simp] theorem standing_endCz (c : CoreId) (q : QEntry) : standing (endCz s c q) = standing s := by simp [endCz]

@[simp] theorem standing_advance (c : CoreId) : standing (advance s c) = standing s := by simp [advance]

@[simp] theorem standing_advanceIn (c : CoreId) (n : Nat) : standing (advanceIn s c n) = standing s := by simp [advanceIn]

@[simp] theorem standing_endLd (c : CoreId) (q : QEntry) : standing (endLd s c q) = standing s := rfl

@[simp] theorem standing_goAfter (c : CoreId) : standing (goAfter s c) = standing s := by simp [goAfter]

@[simp] theorem standing_illegalRecord (c : CoreId) (q : QEntry) : standing (illegalRecord s c q) = standing s := by simp [illegalRecord]

@[simp] theorem standing_endCoreControl (c : CoreId) (q : QEntry) : standing (endCoreControl s c q) = standing s := by simp [endCoreControl]

@[simp] theorem standing_endBowSites (c : CoreId) (q : QEntry) : standing (endBowSites s c q) = standing s := by simp [endBowSites]

@[simp] theorem standing_startDecision (c : CoreId) : standing (startDecision s c) = standing s := by
  unfold startDecision
  dsimp only
  split
  · simp
  · split <;> simp

@[simp] theorem standing_endSeq (c : CoreId) (q : QEntry) : standing (endSeq s c q) = standing s := by
  unfold endSeq
  split <;> simp

@[simp] theorem standing_stLoadUnit (c : CoreId) (q : QEntry) (i g : Nat) : standing (stLoadUnit s c q i g) = standing s := by
  unfold stLoadUnit
  split <;> simp

@[simp] theorem standing_stSaveUnit (c : CoreId) (q : QEntry) (i g : Nat) : standing (stSaveUnit s c q i g) = standing s := by
  unfold stSaveUnit
  split <;> simp

@[simp] theorem standing_winMemory (write : Bool) (c : CoreId) (q : QEntry) (r j : Nat) : standing (winMemory write s c q r j) = standing s := by
  unfold winMemory
  split <;> simp

@[simp] theorem standing_landDue (c : CoreId) : standing (landDue s c) = standing s := by simp [landDue]

@[simp] theorem standing_raiseDue (c : CoreId) : standing (raiseDue s c) = standing s := by
  unfold raiseDue
  split <;> simp

@[simp] theorem standing_errorDue (c : CoreId) : standing (errorDue s c) = standing s := by
  unfold errorDue
  split <;> simp

@[simp] theorem standing_drainDue (c : CoreId) : standing (drainDue s c) = standing s := by simp [drainDue]

@[simp] theorem standing_beginCycle (c : CoreId) : standing (beginCycle s c) = standing s := by simp [beginCycle]

theorem startSteps_standing {c : CoreId} : StartSteps c (standing · = standing s) where
  eng _ _ h := h
  marks _ _ _ h := h
  ring _ _ _ h := (standing_modPart (by exact fun _ => rfl)).trans h
  request _ d x r h := (standing_requestRow _ _ d x r).trans h

@[simp] theorem standing_takeStart (c : CoreId) (k : QSel) (q : QEntry) : standing (takeStart s c k q) = standing s := by
  have hstart : StartsIn (standing · = standing s) (startOf s c q) := startOf_in rfl startSteps_standing
  unfold takeStart
  split
  · rfl
  · simp
  next t ht => exact (standing_dropEntry ..).trans (hstart.done t ht)
  next t e ht => exact (standing_modEntry ..).trans (hstart.run t e ht)

@[simp] theorem standing_startQueue (c : CoreId) (k : QSel) : standing (startQueue s c k) = standing s := by
  unfold startQueue
  split <;> simp

@[simp] theorem standing_starts (c : CoreId) : standing (starts s c) = standing s := by simp [starts]

@[simp] theorem standing_unitEffect (c : CoreId) (q : QEntry) : standing (unitEffect s c q) = standing s := by
  unfold unitEffect
  split <;> simp

@[simp] theorem standing_finishUnit (c : CoreId) (q : QEntry) : standing (finishUnit s c q) = standing s := by simp [finishUnit]

@[simp] theorem standing_openUnit (c : CoreId) (q : QEntry) : standing (openUnit s c q) = standing s := by
  unfold openUnit
  split <;> simp

@[simp] theorem standing_computeAll (c : CoreId) (t : Nat) : standing (computeAll s c t) = standing s := by simp [computeAll]

@[simp] theorem standing_takeReads (c : CoreId) (t : Nat) : standing (takeReads s c t) = standing s := rfl

@[simp] theorem standing_stage (old : Engines) (c : CoreId) (t : Nat) : standing (stage old s c t) = standing s := by simp [stage]

@[simp] theorem standing_endEntry (c : CoreId) (q : QEntry) : standing (endEntry s c q) = standing s := by
  unfold endEntry
  split <;> simp

@[simp] theorem standing_completeEntry (c : CoreId) (k : QSel) (q : QEntry) : standing (completeEntry s c k q) = standing s := by simp [completeEntry]

@[simp] theorem standing_popEnded (k : QSel) (t : Nat) (c : CoreId) (n : Nat) : standing (popEnded k t c n s) = standing s := by
  induction n generalizing s with
  | zero => rfl
  | succ n ih =>
    unfold popEnded
    split
    · rfl
    · exact ih.trans (standing_completeEntry ..)

@[simp] theorem standing_popAll (c : CoreId) (t : Nat) : standing (popAll s c t) = standing s := by simp [popAll]

@[simp] theorem standing_workCycle (run : RunEnv) (c : CoreId) (t : Nat) : standing (workCycle run s c t) = standing s := by
  unfold workCycle
  dsimp only
  split <;> simp

@[simp] theorem standing_endCycle (run : RunEnv) (c : CoreId) : standing (endCycle run s c) = standing s := by simp [endCycle]

@[simp] theorem standing_idleCycle (run : RunEnv) (c : CoreId) : standing (idleCycle run s c) = standing s := by simp [idleCycle]

@[simp] theorem standing_runSteps (run : RunEnv) (goal : Nat) (c : CoreId) (n : Nat) : standing (runSteps run goal c n s) = standing s := by
  induction n generalizing s with
  | zero => rfl
  | succ n ih =>
    unfold runSteps
    dsimp only
    split
    · rfl
    · refine ih.trans ?_
      split
      · rfl
      · exact standing_idleCycle ..

@[simp] theorem standing_runTo (run : RunEnv) (c : CoreId) (goal : Nat) : standing (runTo run s c goal) = standing s := by simp [runTo]

@[simp] theorem standing_runFor (run : RunEnv) (c : CoreId) (n : Nat) : standing (runFor run s c n) = standing s := by simp [runFor]

@[simp] theorem standing_landAll (c : CoreId) : standing (landAll s c) = standing s := by simp [landAll]

@[simp] theorem standing_runCores (p : PartId) (l : List CoreRun) : standing (runCores p l s) = standing s := by simp [runCores]

@[simp] theorem standing_applyWin (c : CoreId) (w : WinAccess) : standing (applyWin s c w) = standing s := by simp [applyWin]

@[simp] theorem standing_disownFrames (c : CoreId) : standing (disownFrames s c) = standing s := rfl

@[simp] theorem standing_dropWaits (c : CoreId) : standing (dropWaits s c) = standing s := by simp [dropWaits]

@[simp] theorem standing_dropReserved (c : CoreId) : standing (dropReserved s c) = standing s := by
  unfold dropReserved
  dsimp only
  split
  · split
    · rfl
    · exact standing_modPart fun _ => rfl
  · rfl

@[simp] theorem standing_stopCore (c : CoreId) : standing (stopCore s c) = standing s := by simp [stopCore]

@[simp] theorem standing_stopCores (p : PartId) : standing (stopCores s p) = standing s := by
  unfold stopCores
  exact (standing_modPart (by exact fun _ => rfl)).trans (standing_forAll (fun _ _ => standing_stopCore _) _)

@[simp] theorem standing_resetCore (c : CoreId) : standing (resetCore s c) = standing s := by simp [resetCore]

@[simp] theorem standing_resetCores (p : PartId) : standing (resetCores s p) = standing s := by simp [resetCores]

@[simp] theorem standing_settleMembers (late : List CoreId) (ms : List Member) (fails : Member → Chunk → Bool) (hs err : Nat → Nat) (blocks : List NewBlock) :
    standing (settleMembers s late ms fails hs err blocks) = standing s := by
  unfold settleMembers
  refine (standing_forAll (fun _ _ => standing_afterChunk ..) _).trans ((standing_postDone _).trans (standing_foldl_fst (fun a m => ?_) ms (s, [])))
  dsimp only
  split
  · split <;> simp
  · simp

@[simp] theorem standing_fillDrone (p : PartId) (dbase : Nat) (bytes : List Byte) : standing (fillDrone s p dbase bytes) = standing s := by simp [fillDrone]

@[simp] theorem standing_logLost (h : Handle) (source : BitVec 3) : standing (logLost s h source) = standing s := by simp [logLost]

@[simp] theorem standing_loseImages (h : Handle) (block : Option Nat) : standing (loseImages s h block) = standing s := by
  unfold loseImages
  split <;> simp

@[simp] theorem standing_retirePage (a : Nat) (source : BitVec 3) : standing (retirePage s a source) = standing s := by simp [retirePage]

@[simp] theorem standing_retireErrors (errs : List TaskErr) : standing (retireErrors s errs) = standing s := by
  unfold retireErrors
  refine standing_foldl (fun s e => ?_) _
  split
  · split <;> simp
  · rfl

@[simp] theorem standing_settleErrored (t : Task) (lost : List Member) (blocks : List NewBlock) :
    standing (settleErrored s t lost blocks) = standing s := by simp [settleErrored]

@[simp] theorem standing_mendDrone (p : PartId) (b : Job) (errs : List TaskErr) : standing (mendDrone s p b errs) = standing s := by
  unfold mendDrone
  split
  · split
    · split <;> simp
    · rfl
  · rfl

end Sys2Proof.Machine
end

section
/-! PROOFS. The hard stop and the settlement of errors: cores that stand still, the partition without a task. -/

namespace Sys2Proof.Machine
open Sys2Proof

variable {s t u v : State} {p : PartId} {c : CoreId}

/-! ### What stands, read back -/

theorem courses_of_standing (h : standing t = standing s) (p : PartId) : (getPart t p).courses = (getPart s p).courses :=
  congrArg (fun x => (x.1 p).1) h

theorem partCores_of_standing (h : standing t = standing s) (p : PartId) : partCores (getPart t p) = partCores (getPart s p) := by
  rw [partCores, partCores, partCourses, partCourses, courses_of_standing h]

theorem isSome_of_standing (h : standing t = standing s) (p : PartId) : (getPart t p).task.isSome = (getPart s p).task.isSome :=
  congrArg (fun x => (x.1 p).2.1) h

theorem jobs_of_standing (h : standing t = standing s) (p : PartId) : (getPart t p).jobs = (getPart s p).jobs := congrArg (fun x => (x.1 p).2.2) h

theorem weights_of_standing (h : standing t = standing s) (m : ModelSlot) : (getModel t m).map (·.weightsAt) = (getModel s m).map (·.weightsAt) :=
  congrFun (congrArg Prod.snd h) m

theorem partCores_windsUp (h : WindsUp s t) (p : PartId) : partCores (getPart t p) = partCores (getPart s p) := by
  rw [partCores, partCores, partCourses, partCourses, h.courses]

/-! ### The partition that is left -/

theorem blocksOk_nil (s : State) : blocksOk s [] = true := rfl

/-- A core that a task leaves: idle, and without an ASK. -/
def leaveCore (s : State) (c : CoreId) : State := modSeq (landAll s c) c fun q => { q with phase := .idle, asks := [], ldPend := [], due := none }

theorem windsUp_leaveCore : WindsUp s (leaveCore s c) := WindsUp.after windsUp_idle windsUp_landAll

theorem leaveCore_spec (s : State) (c : CoreId) : (getCore (leaveCore s c) c).seq.phase = .idle ∧ (getCore (leaveCore s c) c).seq.asks = [] := by
  rw [leaveCore, modSeq_eq, modCore_eq, getCore_setCore]
  exact ⟨rfl, rfl⟩

theorem leaveCores_spec {l : List CoreId} (hc : c ∈ l) (s : State) :
    (getCore (forAll l leaveCore s) c).seq.phase = .idle ∧ (getCore (forAll l leaveCore s) c).seq.asks = [] := by
  induction l generalizing s with
  | nil => cases hc
  | cons d l ih =>
    rcases List.mem_cons.1 hc with rfl | hc
    · have hrest : WindsUp (leaveCore s c) (forAll l leaveCore (leaveCore s c)) := windsUp_forAll (by exact fun _ _ => windsUp_leaveCore) _ _
      obtain ⟨hphase, hasks⟩ := leaveCore_spec s c
      exact ⟨(hrest.seqs c).phase hphase, (hrest.seqs c).asks hasks⟩
    · exact ih hc _

theorem task_modJob (j : JobNo) (f : Job → Job) (q : PartId) : (getPart (modJob s p j f) q).task = (getPart s q).task := by
  by_cases hq : q = p
  · subst hq
    rw [modJob, modPart_eq, getPart_setPart]
  · exact congrArg Part.task (getPart_setPart_ne _ _ _ _ hq)

theorem task_noteOvershoot : (getPart (noteOvershoot s p) p).task = (getPart s p).task := by
  unfold noteOvershoot
  dsimp only
  split
  · split
    · exact task_modJob _ _ p
    · rfl
  · rfl

/-- The partition that a task has left. -/
def freed (now : W64) (x : Part) : Part :=
  { x with task := none, job := 0, atMeet := false, semNet := [], semWait := [], endReq := none, idleFrom := some now, idleSince := some now }

/-- The regions of a bundle's record are released with its task. -/
def releaseBundle (s : State) (b : Option Bundle) : State :=
  match b with
  | some b => releaseRegions s fun r => decide (r.use = .bundle b.no)
  | none => s

theorem windsUp_releaseBundle (b : Option Bundle) : WindsUp s (releaseBundle s b) := by
  cases b with
  | none => exact .refl s
  | some b => exact windsUp_releaseRegions _

theorem unbind_eq {k : Task} (hk : (getPart s p).task = some k) : ∃ v, WindsUp s v ∧
    unbind s p = runWindows (modPart (releaseBundle (forAll (partCores (getPart s p)) leaveCore v) k.bundle) p
      (freed (releaseBundle (forAll (partCores (getPart s p)) leaveCore v) k.bundle).time)) p := by
  obtain ⟨w, hw⟩ : ∃ w, noteOvershoot s p = w := ⟨_, rfl⟩
  have hsw : WindsUp s w := hw ▸ windsUp_noteOvershoot
  have hwk : (getPart w p).task = some k := by rw [← hw, task_noteOvershoot, hk]
  refine ⟨addTele (closeCharge w p) p k.job, WindsUp.after (windsUp_addTele _) (WindsUp.after windsUp_closeCharge hsw), ?_⟩
  unfold unbind
  dsimp only
  rw [hw, hwk, ← partCores_windsUp hsw]
  rfl

/-- A partition whose task is unbound: it has none, no slice end is asked, and its cores stand idle, their queues as empty as they were. -/
theorem unbind_spec (hk : (getPart s p).task.isSome = true) : (getPart (unbind s p) p).task = none ∧ (getPart (unbind s p) p).endReq = none ∧
    ∀ c ∈ partCores (getPart s p), IdleQueues s c →
      (getCore (unbind s p) c).seq.phase = .idle ∧ IdleQueues (unbind s p) c ∧ (getCore (unbind s p) c).seq.asks = [] := by
  obtain ⟨k, hk⟩ := Option.isSome_iff_exists.1 hk
  obtain ⟨v, hsv, hu⟩ := unbind_eq hk
  obtain ⟨w, hw⟩ : ∃ w, forAll (partCores (getPart s p)) leaveCore v = w := ⟨_, rfl⟩
  obtain ⟨z, hz⟩ : ∃ z, modPart (releaseBundle w k.bundle) p (freed (releaseBundle w k.bundle).time) = z := ⟨_, rfl⟩
  rw [hw, hz] at hu
  have hvw : WindsUp v w := hw ▸ windsUp_forAll (by exact fun _ _ => windsUp_leaveCore) _ _
  have hwz : WindsUp w z := hz ▸ WindsUp.after (windsUp_setPart rfl (fun _ => rfl) fun _ => rfl) (windsUp_releaseBundle _)
  have hzu : WindsUp z (unbind s p) := hu ▸ windsUp_runWindows
  have hpart : getPart z p = freed (releaseBundle w k.bundle).time (getPart (releaseBundle w k.bundle) p) := by rw [← hz, modPart_eq, getPart_setPart]
  refine ⟨hzu.task p (by rw [hpart]; rfl), hzu.ends p (by rw [hpart]; rfl), fun c hc hq => ?_⟩
  have hleft := leaveCores_spec hc v
  rw [hw] at hleft
  have hend := (hwz.trans hzu).seqs c
  exact ⟨hend.phase hleft.1, hend.queues (((hsv.trans hvw).seqs c).queues hq), hend.asks hleft.2⟩

/-! ### What the ends keep of the task and its job -/

/-- A commit keeps the task, the kinds of the jobs and where models have their weights. -/
structure KeepsTask (p : PartId) (s t : State) : Prop where
  task : (getPart t p).task.isSome = (getPart s p).task.isSome
  jobs : ∀ j b, findJob (getPart s p) j = some b → ∃ b', findJob (getPart t p) j = some b' ∧ b'.kind = b.kind
  weights : ∀ m, (getModel t m).map (·.weightsAt) = (getModel s m).map (·.weightsAt)

theorem keepsTask_of_standing (h : standing t = standing s) : KeepsTask p s t :=
  ⟨isSome_of_standing h p, fun j b hb => ⟨b, by rw [findJob, jobs_of_standing h]; exact hb, rfl⟩, weights_of_standing h⟩

theorem KeepsTask.trans (h : KeepsTask p s t) (k : KeepsTask p t u) : KeepsTask p s u := by
  refine ⟨k.task.trans h.task, fun j b hb => ?_, fun m => (k.weights m).trans (h.weights m)⟩
  obtain ⟨b', hb', hkind'⟩ := h.jobs j b hb
  obtain ⟨b'', hb'', hkind''⟩ := k.jobs j b' hb'
  exact ⟨b'', hb'', hkind''.trans hkind'⟩

theorem find?_map_job {f : Job → Job} (hf : ∀ b, (f b).num = b.num) (l : List Job) (j : JobNo) :
    (l.map f).find? (fun b => decide (b.num = j)) = (l.find? fun b => decide (b.num = j)).map f := by
  rw [List.find?_map]
  exact congrArg (Option.map f) (congrArg (List.find? · l) (funext fun b => by simp [hf]))

theorem keepsTask_modJob {j : JobNo} {f : Job → Job} (hf : ∀ b, (f b).num = b.num ∧ (f b).kind = b.kind) : KeepsTask p s (modJob s p j f) := by
  refine ⟨congrArg Option.isSome (task_modJob j f p), fun i b hb => ?_, fun _ => rfl⟩
  have hnum (b : Job) : (if b.num = j then f b else b).num = b.num ∧ (if b.num = j then f b else b).kind = b.kind := by
    split
    · exact hf b
    · exact ⟨rfl, rfl⟩
  refine ⟨if b.num = j then f b else b, ?_, (hnum b).2⟩
  rw [modJob, modPart_eq, getPart_setPart, findJob]
  dsimp only
  rw [find?_map_job fun b => (hnum b).1]
  exact congrArg (Option.map _) hb

theorem standing_membersCommitted (s : State) (p : PartId) (b : Bundle) : standing (membersCommitted s p b).1 = standing s := by
  refine (standing_foldl_fst (fun a m => ?_) b.members.zipIdx (reported s p b, [])).trans ?_
  · exact standing_endChunk ..
  · exact (standing_applyStateStats ..).trans ((standing_applyPegReports ..).trans (standing_bundleTokens ..))

theorem keepsTask_settledTask (s : State) (p : PartId) (j : JobNo) : KeepsTask p s (settledTask s p j) :=
  (keepsTask_modJob (by exact fun _ => ⟨rfl, rfl⟩)).trans (keepsTask_of_standing (standing_modTask ..))

theorem keepsTask_commitBundle (blocks : List NewBlock) : KeepsTask p s (commitBundle s p blocks) := by
  have hself (h : commitBundle s p blocks = s) : KeepsTask p s (commitBundle s p blocks) := keepsTask_of_standing (congrArg standing h)
  cases hk : (getPart s p).task with
  | none => exact hself (by simp only [commitBundle, hk])
  | some k =>
    cases hb : k.bundle with
    | none => exact hself (by simp only [commitBundle, hk, hb])
    | some b =>
      by_cases hdue : (!k.committed) = true ∨ k.settled = true
      · exact hself (by simp only [commitBundle, hk, hb, if_pos hdue])
      · obtain ⟨hc, hs⟩ := not_or.1 hdue
        rw [commitBundle_eq hk hb (by simpa using hc) (Bool.eq_false_iff.2 hs)]
        refine (keepsTask_of_standing (standing_membersCommitted s p b)).trans ((keepsTask_settledTask _ p k.job).trans (keepsTask_of_standing ?_))
        exact (standing_forAll (fun _ _ => standing_afterChunk ..) _).trans (standing_postDone _)

/-! ### The hard stop -/

theorem emptied_stopCores (hc : c ∈ partCores (getPart s p)) : IdleQueues (stopCores s p) c := by
  have hall (l : List CoreId) (hl : c ∈ l) (v : State) : ∀ k, getQ (getCore (forAll l stopCore v) c).seq k = [] := by
    induction l generalizing v with
    | nil => cases hl
    | cons d l ih =>
      have hrest : WindsUp (stopCore v d) (forAll l stopCore (stopCore v d)) := windsUp_forAll (by exact fun _ _ => windsUp_stopCore) _ _
      rcases List.mem_cons.1 hl with rfl | hl
      · exact (hrest.seqs c).queues (idle_stopCore c).2
      · exact ih hl _
  exact hall _ hc s

/-- A partition whose task has ended. -/
def Freed (p : PartId) (l : List CoreId) (t : State) : Prop := (getPart t p).task = none ∧ (getPart t p).endReq = none ∧
  ∀ c ∈ l, (getCore t c).seq.phase = .idle ∧ IdleQueues t c ∧ (getCore t c).seq.asks = []

/-- What ends with an unbinding, after its cores have been emptied, leaves the partition free. -/
theorem freed_unbind {l : List CoreId} (hl : l = partCores (getPart s p)) (hq : ∀ c ∈ l, IdleQueues s c) (hst : WindsUp s t)
    (hk : (getPart t p).task.isSome = true) : Freed p l (unbind t p) := by
  obtain ⟨htask, hend, hcores⟩ := unbind_spec hk
  refine ⟨htask, hend, fun c hc => hcores c ?_ ((hst.seqs c).queues (hq c hc))⟩
  rw [partCores_windsUp hst, ← hl]
  exact hc

theorem windsUp_chargeHardStop (n : Nat) : WindsUp s (chargeHardStop s p n) := by
  unfold chargeHardStop
  dsimp only
  split
  · exact .refl s
  · exact windsUp_foldl (fun _ _ => windsUp_modAcct _ _) _ _

/-- The hard stop of a bundle's task ends in an unbinding. -/
theorem hardStop_unbinds {k : Task} (hk : (getPart s p).task = some k) (hb : k.bundle.isSome = true) (blocks : List NewBlock) (mark : Nat) :
    ∃ t, hardStop s p blocks mark = unbind t p ∧ WindsUp (stopCores s p) t ∧ (getPart t p).task.isSome = true := by
  obtain ⟨v, hv⟩ : ∃ v, traceRec (chargeHardStop (closeCharge (stopCores s p) p) p (s.time.toNat - mark)) p 2 4 k.job 0 ((k.bundle.map (·.no)).getD 0) = v :=
    ⟨_, rfl⟩
  have hstop : WindsUp (stopCores s p) v :=
    hv ▸ WindsUp.after (windsUp_traceRec ..) (WindsUp.after (windsUp_chargeHardStop _) windsUp_closeCharge)
  have hsome : (getPart v p).task.isSome = true := by
    have hstand : standing v = standing s := by
      rw [← hv]
      exact (standing_traceRec ..).trans ((standing_chargeHardStop ..).trans ((standing_closeCharge ..).trans (standing_stopCores ..)))
    rw [isSome_of_standing hstand, hk]
    rfl
  unfold hardStop
  rw [hk]
  dsimp only
  rw [hv]
  split
  next b _ =>
    unfold settleHard
    split
    · exact ⟨_, rfl, hstop.trans (windsUp_commitBundle _), (keepsTask_commitBundle blocks).task.trans hsome⟩
    · exact ⟨_, rfl, hstop.trans (windsUp_settleMembers ..), (isSome_of_standing (standing_settleMembers ..) p).trans hsome⟩
  next => exact ⟨v, rfl, hstop, hsome⟩

/-! ### The settlement of errors -/

theorem emptied_resetCores (hc : c ∈ partCores (getPart s p)) : IdleQueues (resetCores s p) c := (coreRests_resetCores hc).2.2.2

theorem windsUp_retirePage (a : Nat) (k : BitVec 3) : WindsUp s (retirePage s a k) := by
  have hlist (R : List Nat) : WindsUp s { s with mon := { s.mon with retired := R } } := windsUp_of rfl rfl rfl rfl rfl
  exact windsUp_ite (.refl s) ((windsUp_ite (hlist _) (.refl s)).trans (windsUp_logError _))

theorem windsUp_retireErrors (l : List TaskErr) : WindsUp s (retireErrors s l) := by
  refine windsUp_foldl (fun s e => ?_) _ _
  split
  · exact windsUp_ite (windsUp_retirePage ..) (.refl s)
  · exact .refl s

theorem windsUp_zeroedBlock (h : Handle) (a : Nat) : WindsUp s (zeroedBlock s h a) := by
  unfold zeroedBlock
  split
  · exact .refl s
  · exact WindsUp.after (windsUp_switchPtr _) (WindsUp.after (windsUp_of (s := dropMove s h) rfl rfl rfl rfl rfl) windsUp_dropMove)

theorem windsUp_loseImages (h : Handle) (a : Option Nat) : WindsUp s (loseImages s h a) := by
  have hlog (k : BitVec 3) : WindsUp s (logLost s h k) := windsUp_ite (.refl s) (windsUp_logError _)
  have hlost (v : State) : WindsUp v (modStream v h fun x => { x with resetFlag := true, resetNext := false, statePtr := noBlock }) :=
    windsUp_modStream fun _ => ⟨rfl, rfl⟩
  unfold loseImages
  dsimp only
  split
  · exact WindsUp.after (windsUp_zeroedBlock ..) (WindsUp.after (hlost _) (WindsUp.after (windsUp_releaseRegions _) (WindsUp.after windsUp_dropMove (hlog 7))))
  · exact WindsUp.after (hlost _) (WindsUp.after (windsUp_releaseRegions _) (WindsUp.after windsUp_dropMove (hlog 7)))

theorem windsUp_applyWin (w : WinAccess) : WindsUp s (applyWin s c w) :=
  windsUp_ite (windsUp_modCore (by exact fun _ => .refl _)) (windsUp_foldl (fun _ _ => windsUp_correctRow _) _ _)

theorem windsUp_fillDrone (a : Nat) (b : List Byte) : WindsUp s (fillDrone s p a b) := by
  refine windsUp_ite (.refl s) (windsUp_forAll (fun s c => ?_) _ _)
  exact windsUp_ite (windsUp_modCore (by exact fun _ => .refl _)) (windsUp_applyWin _)

theorem windsUp_mendDrone (b : Job) (l : List TaskErr) : WindsUp s (mendDrone s p b l) := by
  unfold mendDrone
  refine windsUp_ite ?_ (.refl s)
  split
  · split
    · exact windsUp_fillDrone ..
    · exact .refl s
  · exact .refl s

theorem weightsHit_congr (h : ∀ m, (getModel t m).map (·.weightsAt) = (getModel s m).map (·.weightsAt)) {b b' : Job} (hb : b'.kind = b.kind) (e : List TaskErr) :
    weightsHit t b' e = weightsHit s b e := by
  unfold weightsHit
  rw [hb]
  cases b.kind with
  | program _ => rfl
  | placement m =>
    have hm := h m
    dsimp only
    cases hs : getModel s m with
    | none =>
      rw [hs] at hm
      rw [Option.map_eq_none_iff.1 hm]
    | some y =>
      rw [hs] at hm
      obtain ⟨y', hy', hw⟩ := Option.map_eq_some_iff.1 hm
      rw [hy']
      simp only [weightsHold, hw]

/-- The images of the members that the errors hit are lost. -/
def imagesLost (s : State) (blocks : List NewBlock) (l : List Member) : State := l.foldl (fun s m => loseImages s m.handle (blockFor s blocks m.handle)) s

/-- The task's errors are noted and its cores reset. -/
def errorsNoted (s : State) (p : PartId) (t : Task) : State :=
  modTask (retireErrors (logTaskErrors (closeCharge (resetCores s p) p) p t (errOutcome s t t.errors)) t.errors) p fun t => { t with errors := [] }

/-- What the errors of a task leave of its bundle, before its end. -/
def errorsSettled (s : State) (p : PartId) (t : Task) (blocks : List NewBlock) : State :=
  let s := if t.committed then commitBundle (errorsNoted s p t) p blocks else errorsNoted s p t
  let lost := (taskMembers t).filter fun m => hitBy s t.errors m.handle
  let s := imagesLost s blocks lost
  if t.committed ∨ t.bundle.isNone then s else settleErrored s t lost blocks

theorem settleErrors_eq {k : Task} {j : Job} (hk : (getPart s p).task = some k) (blocks : List NewBlock)
    (hj : findJob (getPart (errorsSettled s p k blocks) p) k.job = some j) :
    settleErrors s p blocks = endErrored (errorsSettled s p k blocks) p k j k.errors := by
  have heq : settleErrors s p blocks = match findJob (getPart (errorsSettled s p k blocks) p) k.job with
      | some b => endErrored (errorsSettled s p k blocks) p k b k.errors
      | none => unbind (errorsSettled s p k blocks) p := by
    unfold settleErrors
    rw [hk]
    rfl
  rw [heq, hj]

theorem standing_errorsNoted (s : State) (p : PartId) (t : Task) : standing (errorsNoted s p t) = standing s :=
  (standing_modTask ..).trans ((standing_retireErrors _).trans ((standing_logTaskErrors ..).trans ((standing_closeCharge _).trans (standing_resetCores _))))

theorem standing_imagesLost (s : State) (blocks : List NewBlock) (l : List Member) : standing (imagesLost s blocks l) = standing s :=
  standing_foldl (fun _ _ => standing_loseImages ..) _

theorem keepsTask_errorsSettled (s : State) (t : Task) (blocks : List NewBlock) : KeepsTask p s (errorsSettled s p t blocks) := by
  obtain ⟨v, hv⟩ : ∃ v, (if t.committed then commitBundle (errorsNoted s p t) p blocks else errorsNoted s p t) = v := ⟨_, rfl⟩
  have hkeep : KeepsTask p s v := by
    rw [← hv]
    split
    · exact (keepsTask_of_standing (standing_errorsNoted s p t)).trans (keepsTask_commitBundle blocks)
    · exact keepsTask_of_standing (standing_errorsNoted s p t)
  unfold errorsSettled
  rw [hv]
  refine hkeep.trans (keepsTask_of_standing ?_)
  dsimp only
  split
  · exact standing_imagesLost ..
  · exact (standing_settleErrored ..).trans (standing_imagesLost ..)

/-- Without a commit the jobs are as they were. -/
theorem standing_errorsSettled {t : Task} (hc : t.committed = false) (s : State) (p : PartId) (blocks : List NewBlock) :
    standing (errorsSettled s p t blocks) = standing s := by
  unfold errorsSettled
  rw [hc, if_neg Bool.false_ne_true]
  dsimp only
  split
  · exact (standing_imagesLost ..).trans (standing_errorsNoted ..)
  · exact (standing_settleErrored ..).trans ((standing_imagesLost ..).trans (standing_errorsNoted ..))

theorem windsUp_errorsSettled (s : State) (t : Task) (blocks : List NewBlock) : WindsUp (resetCores s p) (errorsSettled s p t blocks) := by
  have hnoted : WindsUp (resetCores s p) (errorsNoted s p t) :=
    WindsUp.after (windsUp_modTask _) (WindsUp.after (windsUp_retireErrors _) (WindsUp.after (windsUp_logTaskErrors ..) windsUp_closeCharge))
  have hlost (v : State) (l : List Member) : WindsUp v (imagesLost v blocks l) := windsUp_foldl (fun _ _ => windsUp_loseImages ..) _ _
  obtain ⟨v, hv⟩ : ∃ v, (if t.committed then commitBundle (errorsNoted s p t) p blocks else errorsNoted s p t) = v := ⟨_, rfl⟩
  have hkeep : WindsUp (resetCores s p) v := hv ▸ windsUp_ite (hnoted.trans (windsUp_commitBundle _)) hnoted
  unfold errorsSettled
  rw [hv]
  exact hkeep.trans (windsUp_ite (hlost _ _) ((hlost _ _).trans (WindsUp.after (windsUp_settleMembers ..) (windsUp_settleMembers ..))))

/-- The errors of a task whose model stays sound end in an unbinding. -/
theorem settleErrors_unbinds {k : Task} {j : Job} {m : ModelSlot} (hk : (getPart s p).task = some k) (hj : findJob (getPart s p) k.job = some j)
    (hm : j.kind = .placement m) (hw : weightsHit s j k.errors = false) (hn : k.committed = true ∨ j.errRuns + 1 < 3) (blocks : List NewBlock) :
    ∃ t, settleErrors s p blocks = unbind t p ∧ WindsUp (resetCores s p) t ∧ (getPart t p).task.isSome = true := by
  have hkeep := keepsTask_errorsSettled (p := p) s k blocks
  have hwinds := windsUp_errorsSettled (p := p) s k blocks
  obtain ⟨j', hj', hkind⟩ := hkeep.jobs _ _ hj
  have hruns : k.committed = true ∨ j'.errRuns + 1 < 3 := by
    cases hc : k.committed with
    | true => exact .inl rfl
    | false =>
      have hsame : findJob (getPart (errorsSettled s p k blocks) p) k.job = some j := by
        rw [findJob, jobs_of_standing (standing_errorsSettled hc s p blocks)]
        exact hj
      rw [hsame] at hj'
      exact .inr (Option.some.inj hj' ▸ hn.resolve_left (by rw [hc]; exact Bool.false_ne_true))
  rw [settleErrors_eq hk blocks hj']
  obtain ⟨v, hv⟩ : ∃ v, errorsSettled s p k blocks = v := ⟨_, rfl⟩
  rw [hv] at hkeep hwinds ⊢
  obtain ⟨n, hneq, hlt⟩ : ∃ n, (if k.committed then 0 else j'.errRuns + 1) = n ∧ n < 3 := by
    refine ⟨_, rfl, ?_⟩
    split
    · decide
    next hc => exact hruns.resolve_left hc
  obtain ⟨w, hw'⟩ : ∃ w, mendDrone (modJob v p j'.num fun j => { j with errRuns := n }) p j' k.errors = w := ⟨_, rfl⟩
  have hvw : KeepsTask p v w := by
    rw [← hw']
    exact (keepsTask_modJob (by exact fun _ => ⟨rfl, rfl⟩)).trans (keepsTask_of_standing (standing_mendDrone ..))
  have hsw : KeepsTask p s w := hkeep.trans hvw
  have hsound : weightsHit w j' k.errors = false := (weightsHit_congr hsw.weights hkind _).trans hw
  refine ⟨w, ?_, hwinds.trans (hw' ▸ WindsUp.after (windsUp_mendDrone ..) (windsUp_modJob ..)), hsw.task.trans (by rw [hk]; rfl)⟩
  unfold endErrored
  dsimp only
  rw [hneq, hw', hkind, hm]
  exact if_neg (not_or.2 ⟨by rw [hsound]; exact Bool.false_ne_true, Nat.not_le.2 hlt⟩)

/-! ### Their rows -/

/-- A due hard stop of a bundle's task. -/
theorem execHardStop_frees {k : Task} {runs : List CoreRun} {mark dt : Nat} (hk : (getPart s p).task = some k)
    (hd : hardDue (tick s dt) p = some mark) (hb : ((getPart (runCores p runs (tick s dt)) p).task.bind (·.bundle)).isSome = true) :
    ∃ t, execHardStop p ⟨runs, []⟩ dt s = .next t ∧ Freed p (partCores (getPart s p)) t := by
  obtain ⟨v, hv⟩ : ∃ v, runCores p runs (tick s dt) = v := ⟨_, rfl⟩
  have hstand : standing v = standing s := by rw [← hv, standing_runCores, standing_tick]
  obtain ⟨k', hk'⟩ : ∃ k', (getPart v p).task = some k' :=
    Option.isSome_iff_exists.1 ((isSome_of_standing hstand p).trans (by rw [hk]; rfl))
  rw [hv, hk'] at hb
  obtain ⟨t, ht, hwinds, hsome⟩ := hardStop_unbinds hk' hb [] mark
  refine ⟨unbind t p, ?_, freed_unbind ?_ (fun c hc => emptied_stopCores ?_) hwinds hsome⟩
  · unfold execHardStop
    rw [hd]
    dsimp only
    rw [hv, if_pos (blocksOk_nil _), ht]
  · rw [partCores_of_standing (standing_stopCores p), partCores_of_standing hstand]
  · rw [partCores_of_standing hstand]
    exact hc

/-- The due settlement of a bundle's errors that leaves the model sound. -/
theorem execBundleErrorSettle_frees {k : Task} {j : Job} {m : ModelSlot} {dt : Nat} (hk : (getPart s p).task = some k) (hd : settleDue s p = true)
    (hj : findJob (getPart s p) k.job = some j) (hm : j.kind = .placement m) (hw : weightsHit s j k.errors = false)
    (hn : k.committed = true ∨ j.errRuns + 1 < 3) :
    ∃ t, execBundleErrorSettle p [] dt s = .next t ∧ Freed p (partCores (getPart s p)) t := by
  have hpart : getPart (tick s dt) p = getPart s p := by
    unfold tick
    split
    · rfl
    · rfl
  obtain ⟨u, hu⟩ : ∃ u, tick s dt = u := ⟨_, rfl⟩
  have hstand : standing u = standing s := by rw [← hu, standing_tick]
  rw [hu] at hpart
  obtain ⟨t, ht, hwinds, hsome⟩ := settleErrors_unbinds (hpart ▸ hk) (hpart ▸ hj) hm ((weightsHit_congr (weights_of_standing hstand) rfl _).trans hw) hn []
  refine ⟨unbind t p, ?_, freed_unbind ?_ (fun c hc => emptied_resetCores ?_) hwinds hsome⟩
  · unfold execBundleErrorSettle
    rw [hd, blocksOk_nil, hu, if_pos (by rfl), ht]
  · rw [partCores_of_standing (standing_resetCores p), hpart]
  · rw [hpart]
    exact hc

end Sys2Proof.Machine
end

section
/-! PROOFS. The reclaim of a job that no task runs: its grants and regions are gone, and the partition goes on. -/

namespace Sys2Proof.Machine
open Sys2Proof

variable {s t u : State} {p : PartId} {j : JobNo} {b : Job}

/-! ### Nothing of the job is left in the tiers -/

/-- Gone is about entries and regions alone. -/
theorem gone_of (hg : t.mon.grants = s.mon.grants) (hr : t.regions = s.regions) (h : Gone p j s) : Gone p j t := by
  rw [Gone, hg, hr]
  exact h

theorem gone_wipeRegion (r : Region) (h : Gone p j s) : Gone p j (wipeRegion s r) := by
  unfold wipeRegion
  split
  · exact gone_of rfl rfl (gone_carveAll (a := r.base) (n := r.size) h)
  · exact gone_of rfl rfl (gone_carveAll (a := r.base) (n := r.size) h)

/-- The wiping of the tiers takes the job's entries and regions, and leaves the partitions. -/
theorem wipeTiers_spec (s : State) (p : PartId) (j : JobNo) : Gone p j (wipeTiers s p j) ∧ (wipeTiers s p j).parts = s.parts := by
  obtain ⟨v, hv⟩ : ∃ v, endWindows s (jobWindows s p j) = v := ⟨_, rfl⟩
  have hwin : v.parts = s.parts := by
    obtain ⟨_, _, _, _, _, _, h⟩ := endWindows_spec (s := s) (jobWindows s p j)
    rw [← hv, h]
  obtain ⟨w, hw⟩ : ∃ w, wipeRegions { v with mon := { v.mon with grants := v.mon.grants.filter fun e => !decide (gPart e = p ∧ gJob e = j) } }
      (fun r => decide (r.use = .job p j)) = w := ⟨_, rfl⟩
  have hgone : Gone p j w := by
    rw [← hw]
    refine foldl_rel (R := fun s t => Gone p j s → Gone p j t) (fun _ => id) (fun _ _ _ h k => k ∘ h) (fun _ r => gone_wipeRegion r) _ _ ⟨?_, ?_⟩
    · intro e he hjob
      simpa [hjob] using (List.mem_filter.1 he).2
    · intro r hr
      simpa using (List.mem_filter.1 hr).2
  have hparts : w.parts = v.parts := by
    rw [← hw]
    refine foldl_fixed (g := State.parts) (fun v r => ?_) _ _
    unfold wipeRegion
    split
    · rfl
    · rfl
  obtain ⟨H, hH⟩ := forgetHolder_frame w (fun h => decide (h = .part p j)) .unknown
  have heq : wipeTiers s p j = { w with mon := { w.mon with holders := H } } := by
    unfold wipeTiers
    dsimp only
    rw [hv, hw, hH]
  rw [heq]
  exact ⟨gone_of rfl rfl hgone, hparts.trans hwin⟩

/-! ### The job leaves its partition -/

theorem parts_sparePart : (sparePart s p).parts = s.parts := by
  refine foldl_fixed (g := State.parts) (fun v c => ?_) _ s
  obtain ⟨_, _, _, _, h⟩ := applySpares_frame v c
  rw [h]

theorem parts_wipeDrone : (wipeDrone s p b).parts = s.parts := by
  have hcore (v : State) (c : CoreId) (f : Engines → Engines) : (modEng v c f).parts = v.parts := rfl
  unfold wipeDrone
  split
  · rfl
  · exact foldl_fixed (g := State.parts) (by exact fun v c => hcore v c _) (partCores (getPart s p)) s

theorem keepReport_frame (s : State) (p : PartId) (b : Job) : ∃ T, keepReport s p b = { s with tele := T } := by
  unfold keepReport
  split
  · exact ⟨_, rfl⟩
  · exact ⟨_, rfl⟩

/-- The partition's cores are wiped, and the job's drone region and tiers. -/
def jobWiped (s : State) (p : PartId) (b : Job) : State := wipeTiers (wipeDrone (sparePart (wipeCores s p) p) p b) p b.num

theorem jobWiped_spec (s : State) (p : PartId) (b : Job) : Gone p b.num (jobWiped s p b) ∧ getPart (jobWiped s p b) p = getPart s p := by
  obtain ⟨hgone, hparts⟩ := wipeTiers_spec (wipeDrone (sparePart (wipeCores s p) p) p b) p b.num
  refine ⟨hgone, ?_⟩
  rw [getPart, jobWiped, hparts, parts_wipeDrone, parts_sparePart, (wipeCores_spec s p).1, getPart]

/-- The partition without the job. -/
def leaveJob (j : JobNo) (x : Part) : Part := { x with jobs := x.jobs.filter fun b => decide (b.num ≠ j), stopping := if x.task.isNone then false else x.stopping }

/-- A partition that has let the job go. -/
def Released (p : PartId) (j : JobNo) (s : State) : Prop := findJob (getPart s p) j = none ∧ Gone p j s ∧ (getPart s p).stopping = false

theorem released_of (hp : getPart t p = getPart s p) (hg : t.mon.grants = s.mon.grants) (hr : t.regions = s.regions) (h : Released p j s) :
    Released p j t := by
  obtain ⟨hjob, hgone, hstop⟩ := h
  exact ⟨by rw [hp]; exact hjob, gone_of hg hr hgone, by rw [hp]; exact hstop⟩

theorem findJob_leaveJob (j : JobNo) (x : Part) : findJob (leaveJob j x) j = none := by
  rw [findJob, List.find?_eq_none]
  intro b hb
  have hne := (List.mem_filter.1 hb).2
  simpa using hne

theorem released_leaveJob {x : Part} (hk : x.task = none) (h : Gone p j s) : Released p j (setPart s p (leaveJob j x)) := by
  refine ⟨by rw [getPart_setPart]; exact findJob_leaveJob j x, gone_of rfl rfl h, ?_⟩
  rw [getPart_setPart, leaveJob]
  exact if_pos (by rw [hk]; rfl)

theorem released_postJobEnd {i : JobNo} (r : BitVec 8) (h : Released p j s) : Released p j (postJobEnd s p i r) := by
  obtain ⟨F, hF⟩ := postEvent_frame s (getPart s p).owner evJOB_END (p.toNat + i.toNat * 2 ^ 16 + r.toNat * 2 ^ 32)
  rw [show postJobEnd s p i r = _ from hF]
  exact released_of rfl rfl rfl h

/-- The job's last report is kept, if it is still there. -/
def lastReport (s : State) (p : PartId) (j : JobNo) : State :=
  match findJob (getPart s p) j with
  | some b => keepReport s p b
  | none => s

theorem lastReport_frame (s : State) (p : PartId) (j : JobNo) : ∃ T, lastReport s p j = { s with tele := T } := by
  unfold lastReport
  split
  · exact keepReport_frame ..
  · exact ⟨_, rfl⟩

/-- The reclaim of a job that no task runs and that none has left stopped. -/
theorem reclaimJob_eq (hk : (getPart s p).task = none) (hb : b.stopped = none) : reclaimJob s p b =
    match b.crashed with
    | some r =>
      if r = rsSilent then modPart (lastReport (jobWiped s p b) p b.num) p (leaveJob b.num)
      else postJobEnd (modPart (lastReport (jobWiped s p b) p b.num) p (leaveJob b.num)) p b.num r
    | none => modPart (lastReport (jobWiped s p b) p b.num) p (leaveJob b.num) := by
  unfold reclaimJob
  simp only [hk, hb, Bool.false_eq_true, if_false, Option.isSome_none, Bool.false_or]
  rw [← jobWiped]
  generalize jobWiped s p b = v
  rfl

theorem released_reclaimJob (hk : (getPart s p).task = none) (hb : b.stopped = none) : Released p b.num (reclaimJob s p b) := by
  obtain ⟨v, hv⟩ : ∃ v, modPart (lastReport (jobWiped s p b) p b.num) p (leaveJob b.num) = v := ⟨_, rfl⟩
  have hleft : Released p b.num v := by
    obtain ⟨hgone, hpart⟩ := jobWiped_spec s p b
    obtain ⟨T, hT⟩ := lastReport_frame (jobWiped s p b) p b.num
    rw [← hv, modPart_eq, hT]
    exact released_leaveJob ((congrArg Part.task hpart).trans hk) (gone_of rfl rfl hgone)
  rw [reclaimJob_eq hk hb, hv]
  split
  · split
    · exact hleft
    · exact released_postJobEnd _ hleft
  · exact hleft

/-! ### The end of the partition and of waiting commands -/

theorem gone_eraseSealed (h : Gone p j s) : Gone p j (eraseSealed s p) := by
  have hforget (v : State) (q : Holder → Bool) (hv : Gone p j v) : Gone p j (forgetHolder v q .unknown) := by
    obtain ⟨H, hH⟩ := forgetHolder_frame v q .unknown
    rw [hH]
    exact gone_of rfl rfl hv
  unfold eraseSealed
  dsimp only
  refine hforget _ _ ?_
  obtain ⟨H, hH⟩ := setHolders_frame s (s.mon.grants.filter fun e => partEntry p e && gSealed e) fun _ => .zeroed
  rw [hH]
  exact gone_of rfl rfl h

theorem released_destroyPartition (h : Gone p j s) : Released p j (destroyPartition s p) := by
  obtain ⟨v, hv⟩ : ∃ v, eraseSealed (closeIdle s p) p = v := ⟨_, rfl⟩
  have hgone : Gone p j v := by
    obtain ⟨P, T, hidle⟩ := closeIdle_frame s p
    rw [← hv]
    exact gone_eraseSealed (hidle ▸ gone_of rfl rfl h)
  obtain ⟨w, hw⟩ : ∃ w, forAll (partCores (getPart v p)) (fun s c => modCore s c fun y => setDrone { y with spTask := .reset } 0) v = w := ⟨_, rfl⟩
  have hkeep : w.mon.grants = v.mon.grants ∧ w.regions = v.regions := by
    have hcore (s : State) (c : CoreId) (f : CoreSt → CoreSt) : (modCore s c f).mon.grants = s.mon.grants ∧ (modCore s c f).regions = s.regions := ⟨rfl, rfl⟩
    rw [← hw]
    exact ⟨foldl_fixed (g := fun s => s.mon.grants) (by exact fun s c => (hcore s c _).1) (partCores (getPart v p)) v,
      foldl_fixed (g := State.regions) (by exact fun s c => (hcore s c _).2) (partCores (getPart v p)) v⟩
  obtain ⟨hgrants, hregions⟩ := gone_of hkeep.1 hkeep.2 hgone
  unfold destroyPartition
  dsimp only
  rw [hv, hw]
  have hanswer (v : State) (n : Nat) (h : Gone p j v) : Gone p j (answer v n false) := gone_of rfl rfl h
  have hend (v : State) (x : Part) (h : Gone p j v) : Gone p j (setPart v p x) := gone_of rfl rfl h
  refine ⟨by rw [getPart_setPart]; rfl, hend _ _ (hanswer _ _ (hanswer _ _ (hanswer _ _ ⟨fun e he => ?_, hregions⟩))), by rw [getPart_setPart]; rfl⟩
  exact hgrants e (List.mem_filter.1 he).1

theorem released_endDestroy (h : Released p j s) : Released p j (endDestroy s p) := by
  unfold endDestroy
  dsimp only
  split
  · exact released_destroyPartition h.2.1
  · exact h

theorem released_settleProgress (h : Released p j s) : Released p j (settleProgress s) := by
  obtain ⟨hjob, hgone, hstop⟩ := h
  have hsettles : Settles s (settleProgress s) := settles_settleProgress
  have hpart := settles_getPart hsettles p
  exact ⟨by rw [hpart]; exact hjob, hsettles.gone p j hgone, by rw [hpart]; exact hstop⟩

/-- The reclaim of a job whose wait is over. -/
theorem execReclaim_releases {dt : Nat} (hrt : rtRuns s = true) (hj : findJob (getPart s p) j = some b) (hd : reclaimDue b = true)
    (hdone : jobDone s p j = true) (hk : (getPart s p).task = none) (hb : b.stopped = none) :
    ∃ t, execReclaim p j dt s = .next t ∧ Released p j t := by
  have hnum : b.num = j := by simpa using List.find?_some hj
  have hpart : getPart (tick s dt) p = getPart s p := by
    unfold tick
    split
    · rfl
    · rfl
  refine ⟨reclaimStep (tick s dt) p b, ?_, ?_⟩
  · unfold execReclaim
    rw [hj]
    dsimp only
    rw [hrt, hd, hdone, if_pos (by rfl)]
  · rw [← hnum]
    exact released_settleProgress (released_endDestroy (released_reclaimJob (hpart ▸ hk) hb))

/-- Settles O44: the hard stop and the settlement of errors end in an unbinding, after which the cores stand idle; the reclaim wipes the tiers. -/
theorem stoppedTasksAndReclaim : Obligations.StoppedTasksAndReclaim := by
  unfold Obligations.StoppedTasksAndReclaim
  refine ⟨fun p dt s k b hk hb => ⟨fun runs mark hd hbundle => ?_, fun j m hd hj hm hw hn => ?_⟩, fun p j dt s b hrt hj hd hdone hk hb => ?_⟩
  · exact execHardStop_frees hk hd hbundle
  · exact execBundleErrorSettle_frees hk hd hj hm hw hn
  · obtain ⟨t, ht, hjob, ⟨hgrants, hregions⟩, hstop⟩ := execReclaim_releases (dt := dt) hrt hj hd hdone hk hb
    exact ⟨t, ht, hjob, hgrants, hregions, hstop⟩

end Sys2Proof.Machine
end
